-- ==== Sys2Proof/Word.lean ====
section
/-!
DEFINITION. The widths of the machine (R4, R5): bytes, halfwords, 64-bit words, and their plainest arithmetic.
-/

namespace Sys2Proof

/-- A byte. -/
abbrev Byte := BitVec 8
/-- A scalar register, a pointer or a doubleword (R21). -/
abbrev Word := BitVec 64
/-- A row of a tile register, 128 bytes, byte 0 in bits 7:0 (R21, R244). -/
abbrev Row := BitVec 1024

/-- The word of a natural number, modulo 2^64. -/
abbrev word (n : Nat) : Word := BitVec.ofNat 64 n

/-- Bits `hi` down to `lo` of a natural number. -/
def bits (w hi lo : Nat) : Nat := w / 2 ^ lo % 2 ^ (hi + 1 - lo)

/-- The field of width `n` that stands at bit `lo` of an instruction word. -/
def fld {n : Nat} (w lo : Nat) : BitVec n := BitVec.ofNat n (w / 2 ^ lo)

/-- Sign-extension of the low `n` bits of a word (R4). -/
def sext (n : Nat) (w : Word) : Word := (w.setWidth n).signExtend 64

/-- Zero-extension of the low `n` bits of a word (R4). -/
def zext (n : Nat) (w : Word) : Word := (w.setWidth n).setWidth 64

/-- A Boolean as the word 1 or 0. -/
def boolWord (b : Bool) : Word := if b then 1 else 0

end Sys2Proof
end

