-- ==== Sys2Proof/Machine/Security.lean ====
section
/-!
DEFINITION. The security block (R26, R427, R429): SHA-384 (FIPS 180-4) and ECDSA signatures on brainpoolP384r1 (RFC 5639).
The spec names the two standards and leaves their text to them (log 40).
-/

namespace Sys2Proof.Machine

/-! ### SHA-384 -/

/-- The largest number whose power `k` does not exceed `n`, for roots below 2^80. -/
def floorRoot (k n : Nat) : Nat :=
  (List.range 80).reverse.foldl (fun r b => if (r + 2 ^ b) ^ k ≤ n then r + 2 ^ b else r) 0

/-- The first 80 primes. -/
def shaPrimes : List Nat := (List.range 410).filter (fun n => 2 ≤ n && (List.range n).all (fun d => d < 2 || n % d != 0))

/-- The 80 constants: the first 64 bits of the fractional parts of the cube roots of the first 80 primes. -/
def shaConstants : List Word := shaPrimes.map (fun p => word (floorRoot 3 (p * 2 ^ 192)))

/-- The initial value of SHA-384: the first 64 bits of the fractional parts of the square roots of the ninth to sixteenth primes. -/
def shaInitial : List Word := ((shaPrimes.drop 8).take 8).map (fun p => word (floorRoot 2 (p * 2 ^ 128)))

/-- The message padded to whole blocks of 128 bytes: a one bit, zeros, and its length in bits in 16 bytes. -/
def shaPad (m : List Byte) : List Byte :=
  m ++ [0x80] ++ List.replicate ((239 - m.length % 128) % 128) 0
    ++ (List.range 16).map (fun i => BitVec.ofNat 8 (8 * m.length / 256 ^ (15 - i)))

/-- A big-endian number. -/
def beNat (l : List Byte) : Nat := l.foldl (fun n b => 256 * n + b.toNat) 0

/-- The message schedule of a block, the latest word first. -/
def shaSchedule (block : List Byte) : List Word :=
  let first := ((List.range 16).map (fun i => word (beNat ((block.drop (8 * i)).take 8)))).reverse
  (List.range 64).foldl (fun w _ =>
    let x := w.getD 14 0
    let y := w.getD 1 0
    let a := x.rotateRight 1 ^^^ x.rotateRight 8 ^^^ (x >>> 7)
    let b := y.rotateRight 19 ^^^ y.rotateRight 61 ^^^ (y >>> 6)
    (b + w.getD 6 0 + a + w.getD 15 0) :: w) first

/-- A round on the working variables a to h. -/
def shaRound (v : List Word) (k w : Word) : List Word :=
  let r (i : Nat) : Word := v.getD i 0
  let e := r 4
  let a := r 0
  let t1 := r 7 + (e.rotateRight 14 ^^^ e.rotateRight 18 ^^^ e.rotateRight 41) + ((e &&& r 5) ^^^ (~~~e &&& r 6)) + k + w
  let t2 := (a.rotateRight 28 ^^^ a.rotateRight 34 ^^^ a.rotateRight 39) + ((a &&& r 1) ^^^ (a &&& r 2) ^^^ (r 1 &&& r 2))
  [t1 + t2, a, r 1, r 2, r 3 + t1, e, r 5, r 6]

/-- The hash value after a block. -/
def shaBlock (ks h : List Word) (block : List Byte) : List Word :=
  (h.zip ((ks.zip (shaSchedule block).reverse).foldl (fun v p => shaRound v p.1 p.2) h)).map (fun p => p.1 + p.2)

/-- SHA-384 of a list of bytes: 48 bytes. -/
def sha384 (m : List Byte) : List Byte :=
  let p := shaPad m
  let ks := shaConstants
  let h := ((List.range (p.length / 128)).foldl (fun s _ => (shaBlock ks s.1 (s.2.take 128), s.2.drop 128)) (shaInitial, p)).1
  (h.take 6).flatMap (fun w => (List.range 8).map (fun i => BitVec.ofNat 8 (w.toNat / 256 ^ (7 - i))))

/-! ### ECDSA on brainpoolP384r1 -/

/-- A point of the curve by its coordinates; none at infinity. -/
abbrev CurvePoint := Option (Nat × Nat)

/-- The prime of the field, the coefficients, the base point and the order of the group (RFC 5639, 3.6). -/
def curveP : Nat := 0x8CB91E82A3386D280F5D6F7E50E641DF152F7109ED5456B412B1DA197FB71123ACD3A729901D1A71874700133107EC53
/-- The coefficient A. -/
def curveA : Nat := 0x7BC382C63D8C150C3C72080ACE05AFA0C2BEA28E4FB22787139165EFBA91F90F8AA5814A503AD4EB04A8C7DD22CE2826
/-- The coefficient B. -/
def curveB : Nat := 0x04A8C7DD22CE28268B39B55416F0447C2FB77DE107DCD2A62E880EA53EEB62D57CB4390295DBC9943AB78696FA504C11
/-- The order of the group. -/
def curveN : Nat := 0x8CB91E82A3386D280F5D6F7E50E641DF152F7109ED5456B31F166E6CAC0425A7CF3AB6AF6B7FC3103B883202E9046565
/-- The base point. -/
def curveG : CurvePoint :=
  some (0x1D1C64F068CF45FFA2A63A81B7C13F6B8847A3E77EF14FE3DB7FCAFE0CBD10E8E826E03436D646AAEF87B2E247D4AF1E,
    0x8ABE1D7520F9C2A45CB1EB8E95CFD55262B70B29FEEC5864E19C054FF99129280E4646217791811142820341263C5315)

/-- A power modulo `m`, for exponents below 2^384. -/
def powMod (m b e : Nat) : Nat :=
  (List.range 384).reverse.foldl (fun r i => if e.testBit i then r * r % m * b % m else r * r % m) (1 % m)

/-- The inverse modulo a prime. -/
def invMod (m a : Nat) : Nat := powMod m (a % m) (m - 2)

/-- The sum of two points. -/
def curveAdd (x y : CurvePoint) : CurvePoint :=
  match x, y with
  | none, q => q
  | p, none => p
  | some (x1, y1), some (x2, y2) =>
    if x1 = x2 ∧ (y1 + y2) % curveP = 0 then none
    else
      let l := if x1 = x2 then (3 * x1 * x1 + curveA) * invMod curveP (2 * y1) else (y2 + curveP - y1) * invMod curveP (x2 + curveP - x1)
      let l := l % curveP
      let x3 := (l * l + 2 * curveP - x1 - x2) % curveP
      some (x3, (l * (x1 + curveP - x3) + curveP - y1) % curveP)

/-- A multiple of a point, for factors below 2^384. -/
def curveMul (n : Nat) (x : CurvePoint) : CurvePoint :=
  (List.range 384).reverse.foldl (fun r i => let r2 := curveAdd r r; if n.testBit i then curveAdd r2 x else r2) none

/-- A public key is a point of the curve. -/
def onCurve (q : Nat × Nat) : Bool :=
  q.1 < curveP && q.2 < curveP && q.2 * q.2 % curveP == (q.1 * q.1 * q.1 + curveA * q.1 + curveB) % curveP

/-- A signature (r, s) over a hash of 48 bytes verifies under a public key. -/
def ecdsaVerify (q : Nat × Nat) (hash : List Byte) (r s : Nat) : Bool :=
  if onCurve q && 1 ≤ r && r < curveN && 1 ≤ s && s < curveN then
    let w := invMod curveN s
    match curveAdd (curveMul (beNat hash * w % curveN) curveG) (curveMul (r * w % curveN) (some q)) with
    | some (x, _) => x % curveN == r
    | none => false
  else false

/-- The signature (r, s) over a hash of 48 bytes with private key d and secret factor k. -/
def ecdsaSign (d k : Nat) (hash : List Byte) : Nat × Nat :=
  let r := match curveMul (k % curveN) curveG with | some (x, _) => x % curveN | none => 0
  (r, invMod curveN k * (beNat hash + r * d) % curveN)

/-- A number as 48 bytes, the most significant first. -/
def be48 (n : Nat) : List Byte := (List.range 48).map (fun i => BitVec.ofNat 8 (n / 256 ^ (47 - i)))

/-- A firmware copy in the module's flash: its bytes, its security version, the public key beside it, and its signature. -/
structure Firmware where
  bytes : List Byte
  version : Nat
  key : Nat × Nat
  r : Nat
  s : Nat
  deriving DecidableEq, Repr, Inhabited

/-- A copy verifies: its key is the one whose SHA-384 is fused, its signature is over the digest of its bytes, and its security version
is not below the fused counter (R427, step 1). -/
def Firmware.verifies (f : Firmware) (fusedKey : List Byte) (fusedVersion : Nat) : Bool :=
  sha384 (be48 f.key.1 ++ be48 f.key.2) == fusedKey && ecdsaVerify f.key (sha384 f.bytes) f.r f.s && fusedVersion ≤ f.version

end Sys2Proof.Machine
end

