-- ==== Sys2Proof/Config.lean ====
section
/-!
DEFINITION. What the part's build fixes, and the free values: opaque constants, of which nothing can be proved but that they are
values.  Each is applied to a counter of the state, so that two uses need not agree.
-/

namespace Sys2Proof.Config

/-- The cells that WLD and WLDH leave for a block with a NaN or infinite element, and its exponent: no rule states them (log 21). -/
opaque nanCell : Nat → Nat → Nat
/-- A block of a macro that has become EMPTY under a running job, by counter and block: its integers, its exponent (32) and its NaN mark
(33), for which no rule states anything (log 135). -/
opaque emptyBlock : Nat → Nat → Nat → Int
/-- The term of an integer pairing whose block product and factor, as m × 2^e, make no integer: R57 states no sum there (log 134). -/
opaque fractionTerm : Int → Int → Int
/-- The error of a relaxed matrix operation in units of its bound's step (R62; log 22). -/
opaque relaxedError : Nat → Int

/-- The way of a full set of a herd cache whose line leaves for another, where none is to leave first: R16 gives no order (log 97). -/
opaque evictWay : Nat → Nat
/-- Whether a slice has no place left for one more held partial, so that it would have to go to the spill area (R126; log 71). -/
opaque sliceFull : Nat → Bool
/-- Whether the command that an engine answers at a counter reads a granule of its state (R402; log 108). -/
opaque readsGranule : Nat → Nat → Bool
/-- The failure status with which the supervisor ends a team whose context fails its checks: R361 names no value (log 54). -/
opaque contextStatus : Nat → Word

/-- The first slice that RNGGET writes where no slice remains: R302 and R374 give only the count (log 27). -/
opaque noSlice : Nat → Word

/-- The stack top that the supervisor gives the core with a COREID in a team (R372): the spec says nowhere how it is given (log 37). -/
opaque stackTop : Nat → Nat → Word
/-- Where the twin's CYCLE (0) and INSTRET (1) start, by team and COREID: R412 has them differ between twins and gives no value (log 123). -/
opaque twinStart : Nat → Nat → Nat → Nat

/-- The peers that have an entry after PEERSET with the given operands: R424 leaves the table's contents outside the manual (log 38). -/
opaque peerTable : Nat → Word → Word → Word → List Nat

/-- How DEBUG stop packs the entries of the region buffer, its committed mark and the entry address into one doubleword: R430 does not
say where they lie (log 39). -/
opaque debugWord : Nat → Nat → Word → Nat

/-- The firmware copies in the module's flash, by number: no rule gives their contents (log 40). -/
opaque firmware : Nat → Machine.Firmware
/-- The fused SHA-384 of the firmware's public key (R427; log 40). -/
opaque fusedKey : List Byte
/-- The public key of the boot image's signature: R427 does not say which key it is (log 40). -/
opaque imageKey : Nat × Nat
/-- The private device identity key, and the secret factor and the nonce of the answer at a counter (R429; log 41). -/
opaque identityKey : Nat
/-- The secret factor. -/
opaque signFactor : Nat → Nat
/-- The nonce. -/
opaque spdmNonce : Nat → BitVec 256
/-- The verify data that FINISH must bring for the key exchange at a counter (R429; log 41). -/
opaque verifyData : Nat → Nat

end Sys2Proof.Config
end

