-- ==== Sys2Proof/Machine/Float.lean ====
section
/-!
DEFINITION. Number formats and floating arithmetic (R39 to R52): exact values, one rounding, the operations of scalar, tile and matrix
arithmetic, and conversion.
-/

namespace Sys2Proof.Machine

/-! ### Values -/

/-- An exact real, an infinity or a NaN.  `num neg m e sticky` has magnitude m × 2^e, or strictly between m × 2^e and (m + 1) × 2^e
where sticky holds. -/
inductive FVal where
  | nan
  | inf (neg : Bool)
  | num (neg : Bool) (m : Nat) (e : Int) (sticky : Bool)
  deriving DecidableEq, Repr

/-- The special encodings of a floating format (R39, R41). -/
inductive FKind where
  /-- Infinities and NaNs as IEEE 754. -/
  | ieee
  /-- One NaN per sign, with all ones. -/
  | nanTop
  /-- Numbers only. -/
  | finite
  deriving DecidableEq, Repr

/-- A floating format: exponent bits, mantissa bits, bias, specials (R39). -/
structure FFmt where
  eb : Nat
  mb : Nat
  bias : Nat
  kind : FKind
  deriving DecidableEq, Repr

/-- FP16 (R39). -/
def fp16 : FFmt := ⟨5, 10, 15, .ieee⟩
/-- BF16 (R39). -/
def bf16 : FFmt := ⟨8, 7, 127, .ieee⟩
/-- FP32 (R39). -/
def fp32 : FFmt := ⟨8, 23, 127, .ieee⟩
/-- FP64 (R39). -/
def fp64 : FFmt := ⟨11, 52, 1023, .ieee⟩
/-- FP8 E4M3 (R39). -/
def e4m3 : FFmt := ⟨4, 3, 7, .nanTop⟩

/-- The floating format of an element code (R39); code 16 is FP64; none for the integer formats. -/
def ffmt (code : Nat) : Option FFmt :=
  match code with
  | 0x6 => some ⟨2, 1, 1, .finite⟩
  | 0x7 => some ⟨2, 1, 1, .finite⟩
  | 0x8 => some ⟨2, 3, 1, .finite⟩
  | 0x9 => some ⟨3, 2, 3, .finite⟩
  | 0xA => some e4m3
  | 0xB => some ⟨5, 2, 15, .ieee⟩
  | 0xC => some ⟨3, 4, 3, .nanTop⟩
  | 0xD => some fp16
  | 0xE => some bf16
  | 0xF => some fp32
  | 16 => some fp64
  | _ => none

/-- The bit that holds the sign. -/
def FFmt.signBit (f : FFmt) : Nat := f.eb + f.mb
/-- The code of the largest finite magnitude (R39). -/
def FFmt.maxCode (f : FFmt) : Nat :=
  match f.kind with
  | .ieee => (2 ^ f.eb - 1) * 2 ^ f.mb - 1
  | .nanTop => 2 ^ (f.eb + f.mb) - 2
  | .finite => 2 ^ (f.eb + f.mb) - 1
/-- The canonical NaN (R42); a format without NaN has none, and 0 stands here (R51). -/
def FFmt.nanCode (f : FFmt) : Nat :=
  match f.kind with
  | .ieee => (2 ^ f.eb - 1) * 2 ^ f.mb + 2 ^ (f.mb - 1)
  | .nanTop => 2 ^ (f.eb + f.mb) - 1
  | .finite => 0
/-- The code of +∞ (R41). -/
def FFmt.infCode (f : FFmt) : Nat := (2 ^ f.eb - 1) * 2 ^ f.mb
/-- A code with a sign. -/
def FFmt.signed (f : FFmt) (neg : Bool) (code : Nat) : Nat := code + if neg then 2 ^ f.signBit else 0

/-- The value of a code (R41). -/
def FFmt.value (f : FFmt) (c : Nat) : FVal :=
  let neg := c / 2 ^ f.signBit % 2 == 1
  let mag := c % 2 ^ f.signBit
  let ef := mag / 2 ^ f.mb
  let m := mag % 2 ^ f.mb
  if f.kind = .ieee ∧ ef = 2 ^ f.eb - 1 then (if m = 0 then .inf neg else .nan)
  else if f.kind = .nanTop ∧ mag = 2 ^ f.signBit - 1 then .nan
  else if ef = 0 then .num neg m (1 - (f.bias : Int) - f.mb) false
  else .num neg (m + 2 ^ f.mb) ((ef : Int) - f.bias - f.mb) false

/-! ### Flags (R52): NV 16, DZ 8, OF 4, UF 2, NX 1 -/

/-- NV alone. -/
def flagNV : BitVec 5 := 16
/-- DZ alone. -/
def flagDZ : BitVec 5 := 8
/-- OF alone. -/
def flagOF : BitVec 5 := 4
/-- UF alone. -/
def flagUF : BitVec 5 := 2
/-- NX alone. -/
def flagNX : BitVec 5 := 1

/-! ### Rounding (R49, R50) -/

/-- The number of bits of a natural number; 0 for 0. -/
def bitLen (m : Nat) : Nat := if m = 0 then 0 else Nat.log2 m + 1

/-- m × 2^e (with sticky) as an integer multiple of 2^q, rounded by a mode (0 RNE, 1 RTZ, 2 RUP, 3 RDN): the multiple, and whether
it is inexact. -/
def roundAt (neg : Bool) (m : Nat) (e : Int) (sticky : Bool) (q : Int) (mode : Nat) : Nat × Bool :=
  let d := (q - e).toNat
  let n := m * 2 ^ (e - q).toNat / 2 ^ d
  let r := m * 2 ^ (e - q).toNat % 2 ^ d
  let inexact := r != 0 || sticky
  let above := 2 * r > 2 ^ d || (2 * r == 2 ^ d && d != 0 && sticky)
  let tie := 2 * r == 2 ^ d && d != 0 && !sticky
  let up := match mode with
    | 0 => above || (tie && n % 2 == 1)
    | 1 => false
    | 2 => inexact && !neg
    | _ => inexact && neg
  (n + (if up then 1 else 0), inexact)

/-- The overflow result of a format (R50). -/
def FFmt.overflow (f : FFmt) (neg : Bool) (mode : Nat) (sat : Bool) : Nat :=
  let toInf := match mode with | 0 => true | 1 => false | 2 => !neg | _ => neg
  if sat || !toInf || f.kind == .finite then f.signed neg f.maxCode
  else match f.kind with
    | .ieee => f.signed neg f.infCode
    | _ => f.nanCode

/-- Round(x, format, mode) with overflow by R50: the code and the flags. -/
def FFmt.round (f : FFmt) (mode : Nat) (sat : Bool) (neg : Bool) (m : Nat) (e : Int) (sticky : Bool) : Nat × BitVec 5 :=
  if m = 0 ∧ sticky = false then (f.signed neg 0, 0)
  else
    let top : Int := e + bitLen m - 1
    let emin : Int := 1 - f.bias
    let qmin : Int := emin - f.mb
    let qu : Int := top - f.mb
    let q : Int := max qu qmin
    let (n, inexact) := roundAt neg m e sticky q mode
    let code := (q - qmin).toNat * 2 ^ f.mb + n
    if f.maxCode < code then (f.overflow neg mode sat, flagOF ||| flagNX)
    else
      let (nu, _) := roundAt neg m e sticky qu mode
      let tiny := top < emin - 1 || (top < emin && nu < 2 ^ (f.mb + 1))
      let fl := (if inexact then flagNX else 0) ||| (if inexact && tiny then flagUF else 0)
      (f.signed neg code, fl)

/-- A result in an IEEE format: NaN canonical (R42), infinities, or one rounding. -/
def FFmt.finish (f : FFmt) (mode : Nat) (sat : Bool) (x : FVal) : Nat × BitVec 5 :=
  match x with
  | .nan => (f.nanCode, 0)
  | .inf neg => (f.signed neg f.infCode, 0)
  | .num neg m e sticky => f.round mode sat neg m e sticky

/-! ### Operations on exact values, with the flags that are set before rounding (R52) -/

/-- The negated value. -/
def FVal.negate : FVal → FVal
  | .nan => .nan
  | .inf s => .inf (!s)
  | .num s m e t => .num (!s) m e t

/-- The signed integer m in units of 2^q. -/
def scaled (neg : Bool) (m : Nat) (e q : Int) : Int :=
  let v : Int := (m * 2 ^ (e - q).toNat : Nat)
  if neg then -v else v

/-- a + b; an exact zero sum of unlike signs is −0 under RDN and +0 otherwise. -/
def FVal.add (mode : Nat) (a b : FVal) : FVal × BitVec 5 :=
  match a, b with
  | .nan, _ => (.nan, 0)
  | _, .nan => (.nan, 0)
  | .inf s, .inf t => if s = t then (.inf s, 0) else (.nan, flagNV)
  | .inf s, _ => (.inf s, 0)
  | _, .inf t => (.inf t, 0)
  | .num s m e _, .num t n g _ =>
    let q := min e g
    let v := scaled s m e q + scaled t n g q
    if v = 0 then (.num (if s == t then s else mode == 3) 0 0 false, 0)
    else (.num (v < 0) v.natAbs q false, 0)

/-- a × b. -/
def FVal.mul (a b : FVal) : FVal × BitVec 5 :=
  match a, b with
  | .nan, _ => (.nan, 0)
  | _, .nan => (.nan, 0)
  | .inf s, .inf t => (.inf (s != t), 0)
  | .inf s, .num t n _ _ => if n = 0 then (.nan, flagNV) else (.inf (s != t), 0)
  | .num s m _ _, .inf t => if m = 0 then (.nan, flagNV) else (.inf (s != t), 0)
  | .num s m e _, .num t n g _ => (.num (s != t) (m * n) (e + g) false, 0)

/-- a × b + d, not rounded between; 0 × ∞ is invalid even when d is a NaN (R199). -/
def FVal.fma (mode : Nat) (a b d : FVal) : FVal × BitVec 5 :=
  let (p, f1) := FVal.mul a b
  let (r, f2) := FVal.add mode p d
  (r, f1 ||| f2)

/-- The zero test. -/
def FVal.isZero : FVal → Bool
  | .num _ 0 _ false => true
  | _ => false

/-- a / b with enough bits for a rounding to p bits: x / ±0 sets DZ for finite nonzero x; 0 / 0 and ∞ / ∞ are invalid. -/
def FVal.div (a b : FVal) : FVal × BitVec 5 :=
  match a, b with
  | .nan, _ => (.nan, 0)
  | _, .nan => (.nan, 0)
  | .inf _, .inf _ => (.nan, flagNV)
  | .inf s, .num t _ _ _ => (.inf (s != t), 0)
  | .num s _ _ _, .inf t => (.num (s != t) 0 0 false, 0)
  | .num s m e _, .num t n g _ =>
    if n = 0 then (if m = 0 then (.nan, flagNV) else (.inf (s != t), flagDZ))
    else
      let k := bitLen n + 64
      (.num (s != t) (m * 2 ^ k / n) (e - g - k) (m * 2 ^ k % n != 0), 0)

/-- The integer square root by bits: the largest r below 2^n with r² ≤ m. -/
def isqrtBits (m : Nat) : Nat → Nat → Nat
  | 0, r => r
  | n + 1, r =>
    let r' := r + 2 ^ n
    isqrtBits m n (if r' * r' ≤ m then r' else r)

/-- The integer square root. -/
def isqrt (m : Nat) : Nat := isqrtBits m (bitLen m / 2 + 1) 0

/-- √a (R199): −0 stays; a negative number is invalid. -/
def FVal.sqrt (a : FVal) : FVal × BitVec 5 :=
  match a with
  | .nan => (.nan, 0)
  | .inf s => if s then (.nan, flagNV) else (.inf false, 0)
  | .num s m e _ =>
    if m = 0 then (a, 0)
    else if s then (.nan, flagNV)
    else
      let k := 130 + (e % 2).toNat
      let v := m * 2 ^ k
      let r := isqrt v
      (.num false r ((e - k) / 2) (r * r != v), 0)

/-- −1, 0 or 1 as a is below, equal to or above b, for numbers and infinities; −0 equals +0. -/
def FVal.cmp (a b : FVal) : Int :=
  match a, b with
  | .inf s, .inf t => if s = t then 0 else if s then -1 else 1
  | .inf s, _ => if s then -1 else 1
  | _, .inf t => if t then 1 else -1
  | .num s m e _, .num t n g _ =>
    let q := min e g
    let d := scaled s m e q - scaled t n g q
    if d < 0 then -1 else if d = 0 then 0 else 1
  | _, _ => 0

/-- The sign of a value. -/
def FVal.neg : FVal → Bool
  | .nan => false
  | .inf s => s
  | .num s _ _ _ => s

/-- The comparisons cc.eq 0, cc.lt 1, cc.le 2, cc.un 3 (R173, R200). -/
def FVal.cc (c : Nat) (a b : FVal) : Bool :=
  if a = .nan ∨ b = .nan then c == 3
  else match c with
    | 0 => a.cmp b == 0
    | 1 => a.cmp b == -1
    | 2 => a.cmp b != 1
    | _ => false

/-- The order of FMIN and FMAX on two numbers: −0 below +0 (R199). -/
def FVal.below (a b : FVal) : Bool := a.cmp b == -1 || (a.cmp b == 0 && a.neg && !b.neg)

/-- FMIN (false) and FMAX (true) on codes of a format (R199). -/
def FFmt.minmax (f : FFmt) (mx : Bool) (x y : Nat) : Nat :=
  let a := f.value x
  let b := f.value y
  if a = .nan then (if b = .nan then f.nanCode else y)
  else if b = .nan then x
  else if mx then (if a.below b then y else x) else (if b.below a then y else x)

/-- FCLASS (R200). -/
def FFmt.classify (f : FFmt) (c : Nat) : Nat :=
  match f.value c with
  | .nan => 2 ^ 8
  | .inf s => if s then 2 ^ 0 else 2 ^ 7
  | .num s m _ _ =>
    if m = 0 then (if s then 2 ^ 3 else 2 ^ 4)
    else if c % 2 ^ f.signBit < 2 ^ f.mb then (if s then 2 ^ 2 else 2 ^ 5)
    else (if s then 2 ^ 1 else 2 ^ 6)

/-! ### Conversion (R51) -/

/-- A value converted to a floating format (R51). -/
def FFmt.convert (f : FFmt) (mode : Nat) (sat : Bool) (x : FVal) : Nat × BitVec 5 :=
  match x with
  | .nan => (f.nanCode, if f.kind = .finite then flagNV else 0)
  | .inf s =>
    (match f.kind with
     | .ieee => (f.signed s f.infCode, 0)
     | .nanTop => (if sat then f.signed s f.maxCode else f.nanCode, flagNV)
     | .finite => (f.signed s f.maxCode, flagNV))
  | .num s m e t => f.round mode sat s m e t

/-- A value converted to an integer in lo..hi (R51). -/
def toInt (mode : Nat) (lo hi : Int) (x : FVal) : Int × BitVec 5 :=
  match x with
  | .nan => (0, flagNV)
  | .inf s => (if s then lo else hi, flagNV)
  | .num s m e t =>
    let (n, inexact) := roundAt s m e t 0 mode
    let v : Int := if s then -(n : Int) else n
    let nx : BitVec 5 := if inexact then flagNX else 0
    if v < lo then (lo, nx ||| flagNV) else if hi < v then (hi, nx ||| flagNV) else (v, nx)

/-- The value of an integer. -/
def ofInt (v : Int) : FVal := .num (v < 0) v.natAbs 0 false

/-- The range of an integer format (R39), TERN included; none for the floating formats. -/
def intRange (code : Nat) : Option (Int × Int) :=
  match code with
  | 0x0 => some (-128, 127)
  | 0x1 => some (0, 255)
  | 0x2 => some (-8, 7)
  | 0x3 => some (0, 15)
  | 0x4 => some (-1, 1)
  | 0x5 => some (-32768, 32767)
  | _ => none

/-- The value of an integer code, and whether it sets NV: TERN 10b decodes as 0 with NV (R40, R43). -/
def intValue (code c : Nat) : Int × Bool :=
  let sx (n : Nat) : Int := if c % 2 ^ n < 2 ^ (n - 1) then (c % 2 ^ n : Nat) else ((c % 2 ^ n : Nat) : Int) - 2 ^ n
  match code with
  | 0x0 => (sx 8, false)
  | 0x1 => ((c % 256 : Nat), false)
  | 0x2 => (sx 4, false)
  | 0x3 => ((c % 16 : Nat), false)
  | 0x4 => (match c % 4 with | 0 => 0 | 1 => 1 | 3 => -1 | _ => 0, c % 4 == 2)
  | _ => (sx 16, false)

/-- The code of an integer in two's complement of a format's width; every encoder of TERN writes 00b, 01b or 11b (R40). -/
def intCode (code : Nat) (v : Int) : Nat :=
  let w := match code with | 0x0 => 8 | 0x1 => 8 | 0x2 => 4 | 0x3 => 4 | 0x4 => 2 | _ => 16
  (v % 2 ^ w).toNat

/-- The value of an element of any format, with NV for TERN 10b. -/
def elemValue (code c : Nat) : FVal × BitVec 5 :=
  match ffmt code with
  | some f => (f.value c, 0)
  | none =>
    let (v, nv) := intValue code c
    (ofInt v, if nv then flagNV else 0)

/-- Conversion of an element between two formats (R51): the target's code and the flags. -/
def convertElem (src dst : Nat) (mode : Nat) (sat : Bool) (c : Nat) : Nat × BitVec 5 :=
  let (x, f0) := elemValue src c
  match ffmt dst with
  | some f =>
    let (r, f1) := f.convert mode sat x
    (r, f0 ||| f1)
  | none =>
    let (lo, hi) := (intRange dst).getD (0, 0)
    let (v, f1) := toInt mode lo hi x
    (intCode dst v, f0 ||| f1)

/-! ### Transcendentals (R258)

Each value is computed in fixed point with a bound on its error; where both ends of the bound round to the same code that code is
the exact value rounded once, and otherwise more bits are used (log 10). -/

/-- ln 2 × 2^n, from below, to within n units: the sum over k of 2^n / (k × 2^k). -/
def ln2Fixed (n : Nat) : Nat := (List.range n).foldl (fun s k => s + 2 ^ n / ((k + 1) * 2 ^ (k + 1))) 0

/-- e^x for x = v / 2^n below 1, times 2^n, from below, to within a few hundred units. -/
def expFixed (n v : Nat) : Nat :=
  ((List.range (n / 2 + 8)).foldl (fun (st : Nat × Nat) k => (st.1 + st.2, st.2 * v / 2 ^ n / (k + 1))) (0, 2 ^ n)).1

/-- atanh z × 2^n for a nonnegative z = v / 2^n below 1/4, from below, to within a few hundred units. -/
def atanhFixed (n v : Nat) : Nat :=
  ((List.range (n / 3 + 8)).foldl (fun (st : Nat × Nat) k => (st.1 + st.2 / (2 * k + 1), st.2 * v / 2 ^ n * v / 2 ^ n)) (0, v)).1

/-- Rounds a value known to lie in (v − err, v + err) × 2^e: the code where both ends agree. -/
def FFmt.roundWithin (f : FFmt) (mode : Nat) (neg : Bool) (v err : Nat) (e : Int) : Option (Nat × BitVec 5) :=
  let lo := f.round mode false neg (v - err) e true
  let hi := f.round mode false neg (v + err) e true
  if lo = hi then some lo else none

/-- 2^a for a nonzero finite a, with n bits. -/
def FFmt.exp2At (f : FFmt) (mode : Nat) (n : Nat) (neg : Bool) (m : Nat) (e : Int) : Option (Nat × BitVec 5) :=
  -- a = i + fr with 0 ≤ fr < 1, in units of 2^-n
  let a : Int := scaled neg m e (min e (-(n : Int)))
  let u : Nat := (-(min e (-(n : Int)))).toNat
  let i : Int := a / 2 ^ u
  let fr : Nat := (a % 2 ^ u).toNat
  let fx := fr * 2 ^ n / 2 ^ u
  if fr = 0 then some (f.round mode false false 1 i false)
  else f.roundWithin mode false (expFixed n (fx * ln2Fixed n / 2 ^ n)) (4 * n) (i - n)

/-- TEXP2 of a nonzero finite value: exponents far outside every format round as the nearest such power does. -/
def FFmt.exp2 (f : FFmt) (mode : Nat) (neg : Bool) (m : Nat) (e : Int) : Nat × BitVec 5 :=
  let top : Int := e + bitLen m
  if 14 < top then f.round mode false false 1 (if neg then -16384 else 16384) true
  else if top < -200 then
    -- 2^a lies just above or just below 1
    (if neg then f.round mode false false (2 ^ 200 - 1) (-200) true else f.round mode false false (2 ^ 200) (-200) true)
  else match f.exp2At mode 320 neg m e with
    | some r => r
    | none => (f.exp2At mode 1024 neg m e).getD (f.round mode false false 1 0 false)

/-- log2 a for a positive finite a that is no power of two, with n bits. -/
def FFmt.log2At (f : FFmt) (mode : Nat) (n : Nat) (m : Nat) (e : Int) : Option (Nat × BitVec 5) :=
  let l := bitLen m
  -- a = mant × 2^k with mant in [3/4, 3/2), mant = m / 2^s
  let s := if 3 * 2 ^ l ≤ 4 * m then l else l - 1
  let k : Int := e + s
  let big := 2 ^ s ≤ m
  let num := if big then m - 2 ^ s else 2 ^ s - m
  let z := num * 2 ^ n / (m + 2 ^ s)
  let lnm : Int := 2 * (atanhFixed n z : Nat)
  let frac : Int := (if big then lnm else -lnm) * 2 ^ n / (ln2Fixed n : Nat)
  let v : Int := k * 2 ^ n + frac
  f.roundWithin mode (v < 0) v.natAbs (8 * n) (-(n : Int))

/-- TLOG2 of a positive finite value. -/
def FFmt.log2 (f : FFmt) (mode : Nat) (m : Nat) (e : Int) : Nat × BitVec 5 :=
  if m = 2 ^ (bitLen m - 1) then
    let k : Int := e + bitLen m - 1
    if k = 0 then (0, 0) else f.round mode false (k < 0) k.natAbs 0 false
  else match f.log2At mode 320 m e with
    | some r => r
    | none => (f.log2At mode 1024 m e).getD (0, 0)

/-- tanh of a finite value of magnitude from 2^-40 to 128, with n bits: 1 − 2 / (e^2a + 1). -/
def FFmt.tanhAt (f : FFmt) (mode : Nat) (n : Nat) (neg : Bool) (m : Nat) (e : Int) : Option (Nat × BitVec 5) :=
  -- e^-2a = 2^-j × e^-r with 2a = j ln 2 + r
  let l2 := ln2Fixed n
  let a2 := (scaled false (2 * m) e (min e (-(n : Int)))).toNat * 2 ^ n / 2 ^ (-(min e (-(n : Int)))).toNat
  let j := a2 / l2
  let r := a2 % l2
  let er := expFixed n r
  -- e^2a × 2^n, to within 2^j × (4 n) units
  let ex := er * 2 ^ j
  f.roundWithin mode neg ((ex - 2 ^ n) * 2 ^ n / (ex + 2 ^ n)) (64 * n) (-(n : Int))

/-- TTANH of a nonzero finite value: very small ones lie just below the operand in magnitude, large ones just below 1. -/
def FFmt.tanh (f : FFmt) (mode : Nat) (neg : Bool) (m : Nat) (e : Int) : Nat × BitVec 5 :=
  let top : Int := e + bitLen m
  if top < -40 then f.round mode false neg (m * 2 ^ 200 - 1) (e - 200) true
  else if 7 < top then f.round mode false neg (2 ^ 200 - 1) (-200) true
  else match f.tanhAt mode 640 neg m e with
    | some r => r
    | none => (f.tanhAt mode 2048 neg m e).getD (f.round mode false neg m e false)

/-- 1 / √a for a positive finite a, exact to a sticky bit. -/
def FVal.rsqrt (m : Nat) (e : Int) : FVal :=
  -- 1/√(m 2^e) = √(2^k / m) × 2^(-(e + k)/2), e + k even
  let k := 2 * bitLen m + 256 + ((e : Int) % 2).toNat
  let v := 2 ^ k / m
  let r := isqrt v
  .num false r (-((e + k) / 2)) (r * r * m != 2 ^ k)

end Sys2Proof.Machine
end

