-- ==== Sys2Proof/Syntax.lean ====
section
/-!
DEFINITION. The instruction set as syntax: one constructor per row of the opcode table, in the table's order.

The first 253 constructors are the instruction words of chapter 10 (R162 to R184); a field holds the bits of the word at the
place the table gives it, and is named after its role.  The other constructors are the part's further indivisible steps
(events of the engines, the homes, the banks, the supervisor's functions and the outside world); their arguments name the agent
that takes the step or the place it acts on: a core by its key 5120 * die + 64 * y + x, a herd by its key
640 * die + 32 * (y / 4) + x / 2, a quad by 1280 * die + 32 * (y / 2) + x / 2, a message by its position in its queue.
-/

namespace Sys2Proof

/-- The steps of the part (R160 to R187, and the rows of the table that have no bits). -/
inductive Instr where
  /-- ADD (R196): Adds sA and sB (or an inline constant) into sD. -/
  | add (d : BitVec 4) (a : BitVec 4) (k : BitVec 1) (b : BitVec 6)
  /-- SUB (R196): Subtracts sB from sA into sD. -/
  | sub (d : BitVec 4) (a : BitVec 4) (k : BitVec 1) (b : BitVec 6)
  /-- MUL (R196): Writes the low 64 bits of sA times sB. -/
  | mul (d : BitVec 4) (a : BitVec 4) (k : BitVec 1) (b : BitVec 6)
  /-- MULH (R196): Writes the high 64 bits of the signed product. -/
  | mulh (d : BitVec 4) (a : BitVec 4) (k : BitVec 1) (b : BitVec 6)
  /-- MULHU (R196): Writes the high 64 bits of the unsigned product. -/
  | mulhu (d : BitVec 4) (a : BitVec 4) (k : BitVec 1) (b : BitVec 6)
  /-- DIV (R196): Signed division rounded toward zero, all ones on division by zero. -/
  | div (d : BitVec 4) (a : BitVec 4) (k : BitVec 1) (b : BitVec 6)
  /-- DIVU (R196): Unsigned division rounded toward zero. -/
  | divu (d : BitVec 4) (a : BitVec 4) (k : BitVec 1) (b : BitVec 6)
  /-- REM (R196): Signed remainder. -/
  | rem (d : BitVec 4) (a : BitVec 4) (k : BitVec 1) (b : BitVec 6)
  /-- REMU (R196): Unsigned remainder. -/
  | remu (d : BitVec 4) (a : BitVec 4) (k : BitVec 1) (b : BitVec 6)
  /-- AND (R196): Bitwise and. -/
  | and (d : BitVec 4) (a : BitVec 4) (k : BitVec 1) (b : BitVec 6)
  /-- OR (R196): Bitwise or. -/
  | or (d : BitVec 4) (a : BitVec 4) (k : BitVec 1) (b : BitVec 6)
  /-- XOR (R196): Bitwise exclusive or. -/
  | xor (d : BitVec 4) (a : BitVec 4) (k : BitVec 1) (b : BitVec 6)
  /-- SHL (R196): Shift left by sB<5:0>. -/
  | shl (d : BitVec 4) (a : BitVec 4) (k : BitVec 1) (b : BitVec 6)
  /-- SHR (R196): Logical shift right by sB<5:0>. -/
  | shr (d : BitVec 4) (a : BitVec 4) (k : BitVec 1) (b : BitVec 6)
  /-- SHA (R196): Arithmetic shift right by sB<5:0>. -/
  | sha (d : BitVec 4) (a : BitVec 4) (k : BitVec 1) (b : BitVec 6)
  /-- ROT (R196): Rotate right by sB<5:0>. -/
  | rot (d : BitVec 4) (a : BitVec 4) (k : BitVec 1) (b : BitVec 6)
  /-- MIN (R196): Signed minimum. -/
  | min (d : BitVec 4) (a : BitVec 4) (k : BitVec 1) (b : BitVec 6)
  /-- MAX (R196): Signed maximum. -/
  | max (d : BitVec 4) (a : BitVec 4) (k : BitVec 1) (b : BitVec 6)
  /-- MINU (R196): Unsigned minimum. -/
  | minu (d : BitVec 4) (a : BitVec 4) (k : BitVec 1) (b : BitVec 6)
  /-- MAXU (R196): Unsigned maximum. -/
  | maxu (d : BitVec 4) (a : BitVec 4) (k : BitVec 1) (b : BitVec 6)
  /-- SLT (R196): Sets 1 if sA is below sB, signed. -/
  | slt (d : BitVec 4) (a : BitVec 4) (k : BitVec 1) (b : BitVec 6)
  /-- SLTU (R196): Sets 1 if sA is below sB, unsigned. -/
  | sltu (d : BitVec 4) (a : BitVec 4) (k : BitVec 1) (b : BitVec 6)
  /-- SEQ (R196): Sets 1 if sA equals sB. -/
  | seq (d : BitVec 4) (a : BitVec 4) (k : BitVec 1) (b : BitVec 6)
  /-- CMOV (R196): Moves sA into sD when sB is nonzero. -/
  | cmov (d : BitVec 4) (a : BitVec 4) (k : BitVec 1) (b : BitVec 6)
  /-- ADDW (R196): 32-bit add, sign-extended. -/
  | addw (d : BitVec 4) (a : BitVec 4) (k : BitVec 1) (b : BitVec 6)
  /-- SUBW (R196): 32-bit subtract, sign-extended. -/
  | subw (d : BitVec 4) (a : BitVec 4) (k : BitVec 1) (b : BitVec 6)
  /-- MADD (R196): Writes sD plus sA times sB. -/
  | madd (d : BitVec 4) (a : BitVec 4) (k : BitVec 1) (b : BitVec 6)
  /-- ADDX (R196): Writes sA plus sB shifted left by n. -/
  | addx (d : BitVec 4) (a : BitVec 4) (k : BitVec 1) (b : BitVec 6) (n : BitVec 2)
  /-- CLZ (R196): Counts leading zeros. -/
  | clz (d : BitVec 4) (a : BitVec 4)
  /-- CTZ (R196): Counts trailing zeros. -/
  | ctz (d : BitVec 4) (a : BitVec 4)
  /-- POPC (R196): Counts one bits. -/
  | popc (d : BitVec 4) (a : BitVec 4)
  /-- BSWAP (R196): Reverses the eight bytes of sA. -/
  | bswap (d : BitVec 4) (a : BitVec 4)
  /-- SEXT (R196): Sign-extends the low 8, 16 or 32 bits of sA. -/
  | sext (d : BitVec 4) (a : BitVec 4) (n : BitVec 2)
  /-- ZEXT (R196): Zero-extends the low 8, 16 or 32 bits of sA. -/
  | zext (d : BitVec 4) (a : BitVec 4) (n : BitVec 2)
  /-- FADD (R199): Floating add, rounded once, setting flags. -/
  | fadd (d : BitVec 4) (a : BitVec 4) (k : BitVec 1) (b : BitVec 6) (t : BitVec 1) (rm : BitVec 3) (sat : BitVec 1)
  /-- FSUB (R199): Floating subtract. -/
  | fsub (d : BitVec 4) (a : BitVec 4) (k : BitVec 1) (b : BitVec 6) (t : BitVec 1) (rm : BitVec 3) (sat : BitVec 1)
  /-- FMUL (R199): Floating multiply. -/
  | fmul (d : BitVec 4) (a : BitVec 4) (k : BitVec 1) (b : BitVec 6) (t : BitVec 1) (rm : BitVec 3) (sat : BitVec 1)
  /-- FFMA (R199): Fused multiply-add with sD as addend. -/
  | ffma (d : BitVec 4) (a : BitVec 4) (k : BitVec 1) (b : BitVec 6) (t : BitVec 1) (rm : BitVec 3) (sat : BitVec 1)
  /-- FDIV (R199): Floating divide. -/
  | fdiv (d : BitVec 4) (a : BitVec 4) (k : BitVec 1) (b : BitVec 6) (t : BitVec 1) (rm : BitVec 3) (sat : BitVec 1)
  /-- FSQRT (R199): Floating square root. -/
  | fsqrt (d : BitVec 4) (a : BitVec 4) (t : BitVec 1) (rm : BitVec 3) (sat : BitVec 1)
  /-- FMIN (R199): Floating minimum with NaN handling. -/
  | fmin (d : BitVec 4) (a : BitVec 4) (k : BitVec 1) (b : BitVec 6) (t : BitVec 1)
  /-- FMAX (R199): Floating maximum with NaN handling. -/
  | fmax (d : BitVec 4) (a : BitVec 4) (k : BitVec 1) (b : BitVec 6) (t : BitVec 1)
  /-- FCMP (R200): Compares two floating values under a condition, writing 1 or 0. -/
  | fcmp (d : BitVec 4) (a : BitVec 4) (k : BitVec 1) (b : BitVec 6) (t : BitVec 1) (cc : BitVec 2)
  /-- FCVT (R201): Converts sA between scalar kinds by R51. -/
  | fcvt (d : BitVec 4) (a : BitVec 4) (tk : BitVec 3) (sk : BitVec 3) (rm : BitVec 3) (sat : BitVec 1)
  /-- FCLASS (R200): Sets one bit of sD naming the class of sA. -/
  | fclass (d : BitVec 4) (a : BitVec 4) (t : BitVec 1)
  /-- FSGNJ (R199): Magnitude of sA with the sign of sB. -/
  | fsgnj (d : BitVec 4) (a : BitVec 4) (k : BitVec 1) (b : BitVec 6) (t : BitVec 1)
  /-- FSGNJN (R199): Magnitude of sA with the inverted sign of sB. -/
  | fsgnjn (d : BitVec 4) (a : BitVec 4) (k : BitVec 1) (b : BitVec 6) (t : BitVec 1)
  /-- FSGNJX (R199): Magnitude of sA with the exclusive-or of the signs. -/
  | fsgnjx (d : BitVec 4) (a : BitVec 4) (k : BitVec 1) (b : BitVec 6) (t : BitVec 1)
  /-- ADDI (R197): Adds a sign-extended 17-bit immediate. -/
  | addi (d : BitVec 4) (a : BitVec 4) (i : BitVec 17)
  /-- ANDI (R197): Ands a sign-extended immediate. -/
  | andi (d : BitVec 4) (a : BitVec 4) (i : BitVec 17)
  /-- ORI (R197): Ors a sign-extended immediate. -/
  | ori (d : BitVec 4) (a : BitVec 4) (i : BitVec 17)
  /-- XORI (R197): Exclusive-ors a sign-extended immediate. -/
  | xori (d : BitVec 4) (a : BitVec 4) (i : BitVec 17)
  /-- SHLI (R197): Shift left by an immediate amount. -/
  | shli (d : BitVec 4) (a : BitVec 4) (n : BitVec 6)
  /-- SHRI (R197): Logical shift right by an immediate. -/
  | shri (d : BitVec 4) (a : BitVec 4) (n : BitVec 6)
  /-- SHAI (R197): Arithmetic shift right by an immediate. -/
  | shai (d : BitVec 4) (a : BitVec 4) (n : BitVec 6)
  /-- ROTI (R197): Rotate right by an immediate. -/
  | roti (d : BitVec 4) (a : BitVec 4) (n : BitVec 6)
  /-- BFX (R197): Extracts a bit field of sA zero-extended. -/
  | bfx (d : BitVec 4) (a : BitVec 4) (wd : BitVec 6) (pos : BitVec 6)
  /-- BFI (R197): Inserts the low bits of sA into a field of sD. -/
  | bfi (d : BitVec 4) (a : BitVec 4) (wd : BitVec 6) (pos : BitVec 6)
  /-- LI (R198): Loads a sign-extended 21-bit immediate. -/
  | li (d : BitVec 4) (i : BitVec 21)
  /-- LIH (R198): Loads a sign-extended immediate shifted left by 17. -/
  | lih (d : BitVec 4) (i : BitVec 21)
  /-- LIX (R198): Writes an extension register plus a 19-bit immediate. -/
  | lix (d : BitVec 4) (e : BitVec 2) (i : BitVec 19)
  /-- CSRR (R193): Reads a control register. -/
  | csrr (d : BitVec 4) (c : BitVec 12)
  /-- CSRW (R193): Swaps a control register with sA, with the register's write side effects. -/
  | csrw (d : BitVec 4) (a : BitVec 4) (c : BitVec 12)
  /-- CSRS (R193): Sets bits of a control register. -/
  | csrs (d : BitVec 4) (a : BitVec 4) (c : BitVec 12)
  /-- CSRC (R193): Clears bits of a control register. -/
  | csrc (d : BitVec 4) (a : BitVec 4) (c : BitVec 12)
  /-- BEQ (R202): Delayed branch if equal. -/
  | beq (a : BitVec 4) (b : BitVec 4) (n : BitVec 2) (disp : BitVec 15)
  /-- BNE (R202): Delayed branch if not equal. -/
  | bne (a : BitVec 4) (b : BitVec 4) (n : BitVec 2) (disp : BitVec 15)
  /-- BLT (R202): Delayed branch if less, signed. -/
  | blt (a : BitVec 4) (b : BitVec 4) (n : BitVec 2) (disp : BitVec 15)
  /-- BGE (R202): Delayed branch if greater or equal, signed. -/
  | bge (a : BitVec 4) (b : BitVec 4) (n : BitVec 2) (disp : BitVec 15)
  /-- BLTU (R202): Delayed branch if less, unsigned. -/
  | bltu (a : BitVec 4) (b : BitVec 4) (n : BitVec 2) (disp : BitVec 15)
  /-- BGEU (R202): Delayed branch if greater or equal, unsigned. -/
  | bgeu (a : BitVec 4) (b : BitVec 4) (n : BitVec 2) (disp : BitVec 15)
  /-- JAL (R202): Delayed jump with link. -/
  | jal (d : BitVec 4) (n : BitVec 1) (disp : BitVec 20)
  /-- JALR (R202): Delayed register jump with link. -/
  | jalr (d : BitVec 4) (a : BitVec 4) (n : BitVec 1)
  /-- NOP (R211): Does nothing (32-bit form). -/
  | nop
  /-- TRAP (R212): Completes and traps as a supervisor call. -/
  | trap (a : BitVec 4)
  /-- BRK (R211): Raises breakpoint at itself. -/
  | brk
  /-- ERET (R210): Returns from a trap, restoring pc, transfer queue, annul count and pending region. -/
  | eret
  /-- SLEEP (R213): Waits until a selected event bit or a takeable interrupt. -/
  | sleep (a : BitVec 4)
  /-- FENCE_I (R214): Discards the instruction-cache contents. -/
  | fenceI
  /-- QCFG (R194): Configures register queues s12 to s15 and empties them. -/
  | qcfg (a : BitVec 4)
  /-- CXSAVE (R340): Saves selected context sections after draining the core. -/
  | cxsave (a : BitVec 4)
  /-- CXLOAD (R340): Validates and loads selected context sections. -/
  | cxload (a : BitVec 4)
  /-- LDB (R222): Loads a sign-extended byte. -/
  | ldb (d : BitVec 4) (a : BitVec 4) (ord : BitVec 2) (scope : BitVec 3) (pol : BitVec 2) (off : BitVec 10)
  /-- LDBU (R222): Loads a zero-extended byte. -/
  | ldbu (d : BitVec 4) (a : BitVec 4) (ord : BitVec 2) (scope : BitVec 3) (pol : BitVec 2) (off : BitVec 10)
  /-- LDH (R222): Loads a sign-extended halfword. -/
  | ldh (d : BitVec 4) (a : BitVec 4) (ord : BitVec 2) (scope : BitVec 3) (pol : BitVec 2) (off : BitVec 10)
  /-- LDHU (R222): Loads a zero-extended halfword. -/
  | ldhu (d : BitVec 4) (a : BitVec 4) (ord : BitVec 2) (scope : BitVec 3) (pol : BitVec 2) (off : BitVec 10)
  /-- LDW (R222): Loads a sign-extended word. -/
  | ldw (d : BitVec 4) (a : BitVec 4) (ord : BitVec 2) (scope : BitVec 3) (pol : BitVec 2) (off : BitVec 10)
  /-- LDWU (R222): Loads a zero-extended word. -/
  | ldwu (d : BitVec 4) (a : BitVec 4) (ord : BitVec 2) (scope : BitVec 3) (pol : BitVec 2) (off : BitVec 10)
  /-- LDD (R222): Loads a doubleword. -/
  | ldd (d : BitVec 4) (a : BitVec 4) (ord : BitVec 2) (scope : BitVec 3) (pol : BitVec 2) (off : BitVec 10)
  /-- LDQ (R222): Loads 16 bytes into a register pair. -/
  | ldq (d : BitVec 4) (a : BitVec 4) (ord : BitVec 2) (scope : BitVec 3) (pol : BitVec 2) (off : BitVec 10)
  /-- STB (R223): Stores a byte. -/
  | stb (d : BitVec 4) (a : BitVec 4) (ord : BitVec 2) (scope : BitVec 3) (pol : BitVec 2) (off : BitVec 10)
  /-- STH (R223): Stores a halfword. -/
  | sth (d : BitVec 4) (a : BitVec 4) (ord : BitVec 2) (scope : BitVec 3) (pol : BitVec 2) (off : BitVec 10)
  /-- STW (R223): Stores a word. -/
  | stw (d : BitVec 4) (a : BitVec 4) (ord : BitVec 2) (scope : BitVec 3) (pol : BitVec 2) (off : BitVec 10)
  /-- STD (R223): Stores a doubleword. -/
  | std (d : BitVec 4) (a : BitVec 4) (ord : BitVec 2) (scope : BitVec 3) (pol : BitVec 2) (off : BitVec 10)
  /-- STQ (R223): Stores a register pair as 16 bytes. -/
  | stq (d : BitVec 4) (a : BitVec 4) (ord : BitVec 2) (scope : BitVec 3) (pol : BitVec 2) (off : BitVec 10)
  /-- LDX (R224): Loads a doubleword at sA plus sB. -/
  | ldx (d : BitVec 4) (a : BitVec 4) (b : BitVec 4)
  /-- STX (R224): Stores a doubleword at sA plus sB. -/
  | stx (d : BitVec 4) (a : BitVec 4) (b : BitVec 4)
  /-- AMOADD (R226): Atomic add at the home or bank, 64- or 32-bit by W. -/
  | amoadd (d : BitVec 4) (a : BitVec 4) (k : BitVec 1) (b : BitVec 6) (ord : BitVec 2) (scope : BitVec 3) (w : BitVec 1)
  /-- AMOAND (R226): Atomic and. -/
  | amoand (d : BitVec 4) (a : BitVec 4) (k : BitVec 1) (b : BitVec 6) (ord : BitVec 2) (scope : BitVec 3) (w : BitVec 1)
  /-- AMOOR (R226): Atomic or. -/
  | amoor (d : BitVec 4) (a : BitVec 4) (k : BitVec 1) (b : BitVec 6) (ord : BitVec 2) (scope : BitVec 3) (w : BitVec 1)
  /-- AMOXOR (R226): Atomic exclusive or. -/
  | amoxor (d : BitVec 4) (a : BitVec 4) (k : BitVec 1) (b : BitVec 6) (ord : BitVec 2) (scope : BitVec 3) (w : BitVec 1)
  /-- AMOMIN (R226): Atomic signed minimum. -/
  | amomin (d : BitVec 4) (a : BitVec 4) (k : BitVec 1) (b : BitVec 6) (ord : BitVec 2) (scope : BitVec 3) (w : BitVec 1)
  /-- AMOMAX (R226): Atomic signed maximum. -/
  | amomax (d : BitVec 4) (a : BitVec 4) (k : BitVec 1) (b : BitVec 6) (ord : BitVec 2) (scope : BitVec 3) (w : BitVec 1)
  /-- AMOMINU (R226): Atomic unsigned minimum. -/
  | amominu (d : BitVec 4) (a : BitVec 4) (k : BitVec 1) (b : BitVec 6) (ord : BitVec 2) (scope : BitVec 3) (w : BitVec 1)
  /-- AMOMAXU (R226): Atomic unsigned maximum. -/
  | amomaxu (d : BitVec 4) (a : BitVec 4) (k : BitVec 1) (b : BitVec 6) (ord : BitVec 2) (scope : BitVec 3) (w : BitVec 1)
  /-- AMOSWAP (R226): Atomic swap. -/
  | amoswap (d : BitVec 4) (a : BitVec 4) (k : BitVec 1) (b : BitVec 6) (ord : BitVec 2) (scope : BitVec 3) (w : BitVec 1)
  /-- CAS (R226): Atomic compare and swap, always performing as a write. -/
  | cas (d : BitVec 4) (a : BitVec 4) (k : BitVec 1) (b : BitVec 6) (ord : BitVec 2) (scope : BitVec 3) (w : BitVec 1)
  /-- REDADD (R227): Integer add reduction, at the home or in a commutative range. -/
  | redadd (a : BitVec 4) (k : BitVec 1) (b : BitVec 6) (ord : BitVec 2) (scope : BitVec 3) (w : BitVec 1)
  /-- REDMIN (R227): Signed minimum reduction. -/
  | redmin (a : BitVec 4) (k : BitVec 1) (b : BitVec 6) (ord : BitVec 2) (scope : BitVec 3) (w : BitVec 1)
  /-- REDMAX (R227): Signed maximum reduction. -/
  | redmax (a : BitVec 4) (k : BitVec 1) (b : BitVec 6) (ord : BitVec 2) (scope : BitVec 3) (w : BitVec 1)
  /-- REDFADD (R227): Floating add reduction, FP64 or FP32 or packed halves. -/
  | redfadd (a : BitVec 4) (b : BitVec 4) (ord : BitVec 2) (scope : BitVec 3) (w : BitVec 1)
  /-- TAKE (R232): Takes a full/empty word's value, waiting while it is empty. -/
  | take (d : BitVec 4) (a : BitVec 4) (ord : BitVec 2) (scope : BitVec 3)
  /-- PUT (R232): Puts a value into a full/empty word through the commit queue. -/
  | put (a : BitVec 4) (b : BitVec 4) (ord : BitVec 2) (scope : BitVec 3)
  /-- PEEK (R232): Reads a full/empty word once full, without emptying it. -/
  | peek (d : BitVec 4) (a : BitVec 4) (ord : BitVec 2) (scope : BitVec 3)
  /-- FEINIT (R232): Sets a full/empty word's value and state. -/
  | feinit (a : BitVec 4) (b : BitVec 4) (scope : BitVec 3) (full : BitVec 1)
  /-- FENCE (R234): Orders earlier accesses at a scope before later ones. -/
  | fence (scope : BitVec 3)
  /-- PREF (R237): Starts a range prefetch by the cache walker. -/
  | pref (a : BitVec 4) (b : BitVec 4)
  /-- RFLUSH (R237): Writes back SWM dirty lines of a range as a commit-queue entry. -/
  | rflush (a : BitVec 4) (b : BitVec 4)
  /-- RINV (R237): Writes back and drops SWM copies of a range. -/
  | rinv (a : BitVec 4) (b : BitVec 4)
  /-- RETAIN (R240): Sets an L2 retention register on all dies. -/
  | retain (d : BitVec 4) (a : BitVec 4) (b : BitVec 4)
  /-- UNRETAIN (R240): Clears an L2 retention register on every die. -/
  | unretain (a : BitVec 4)
  /-- CRDECL (R238): Declares a commutative range. -/
  | crdecl (d : BitVec 4) (a : BitVec 4) (b : BitVec 4) (elem : BitVec 3) (op : BitVec 2)
  /-- CRCLR (R239): Closes a commutative range and combines its partials. -/
  | crclr (a : BitVec 4)
  /-- WAITA (R235): Waits until a local buffer word differs from a value, a timeout or an interrupt. -/
  | waita (d : BitVec 4) (a : BitVec 4) (b : BitVec 4)
  /-- TLD (R249): Loads tile rows through a tensor descriptor. -/
  | tld (g : BitVec 3) (desc : BitVec 8) (a : BitVec 4) (rows : BitVec 3)
  /-- TST (R249): Stores tile rows through a tensor descriptor. -/
  | tst (g : BitVec 3) (desc : BitVec 8) (a : BitVec 4) (rows : BitVec 3)
  /-- TLDS (R251): Loads tile rows from a local buffer address. -/
  | tlds (g : BitVec 3) (a : BitVec 4) (rows : BitVec 3)
  /-- TSTS (R251): Stores tile rows to the local A buffer. -/
  | tsts (g : BitVec 3) (a : BitVec 4) (rows : BitVec 3)
  /-- TDLD (R339): Loads and validates a descriptor into a team entry. -/
  | tdld (desc : BitVec 8) (a : BitVec 4)
  /-- TDST (R339): Stores a descriptor entry to memory. -/
  | tdst (desc : BitVec 8) (a : BitVec 4)
  /-- TFILL (R252): Fills tile rows with a scalar element value. -/
  | tfill (g : BitVec 3) (fmt : BitVec 4) (a : BitVec 4) (rows : BitVec 3)
  /-- TEXTR (R252): Extracts one tile element to a scalar register. -/
  | textr (g : BitVec 4) (fmt : BitVec 4) (idx : BitVec 4) (a : BitVec 3)
  /-- TINS (R252): Inserts a scalar into one tile element. -/
  | tins (g : BitVec 3) (fmt : BitVec 4) (idx : BitVec 4) (a : BitVec 4)
  /-- TMOV (R259): Copies tile rows. -/
  | tmov (d : BitVec 3) (a : BitVec 3) (rows : BitVec 3)
  /-- TZERO (R259): Writes zero rows. -/
  | tzero (d : BitVec 3) (rows : BitVec 3)
  /-- TADD (R256): Elementwise add on the tile unit. -/
  | tadd (d : BitVec 3) (a : BitVec 3) (h : BitVec 1) (b : BitVec 3) (rows : BitVec 3) (fmt : BitVec 4) (f64 : BitVec 1)
  /-- TSUB (R256): Elementwise subtract. -/
  | tsub (d : BitVec 3) (a : BitVec 3) (h : BitVec 1) (b : BitVec 3) (rows : BitVec 3) (fmt : BitVec 4) (f64 : BitVec 1)
  /-- TMUL (R256): Elementwise multiply. -/
  | tmul (d : BitVec 3) (a : BitVec 3) (h : BitVec 1) (b : BitVec 3) (rows : BitVec 3) (fmt : BitVec 4) (f64 : BitVec 1)
  /-- TFMA (R256): Elementwise fused multiply-add reading TD. -/
  | tfma (d : BitVec 3) (a : BitVec 3) (h : BitVec 1) (b : BitVec 3) (rows : BitVec 3) (fmt : BitVec 4) (f64 : BitVec 1)
  /-- TMIN (R256): Elementwise minimum. -/
  | tmin (d : BitVec 3) (a : BitVec 3) (h : BitVec 1) (b : BitVec 3) (rows : BitVec 3) (fmt : BitVec 4) (f64 : BitVec 1)
  /-- TMAX (R256): Elementwise maximum. -/
  | tmax (d : BitVec 3) (a : BitVec 3) (h : BitVec 1) (b : BitVec 3) (rows : BitVec 3) (fmt : BitVec 4) (f64 : BitVec 1)
  /-- TABS (R256): Elementwise absolute value. -/
  | tabs (d : BitVec 3) (a : BitVec 3) (rows : BitVec 3) (fmt : BitVec 4) (f64 : BitVec 1)
  /-- TNEG (R256): Elementwise negation. -/
  | tneg (d : BitVec 3) (a : BitVec 3) (rows : BitVec 3) (fmt : BitVec 4) (f64 : BitVec 1)
  /-- TRCP (R258): Elementwise reciprocal, rounded once. -/
  | trcp (d : BitVec 3) (a : BitVec 3) (rows : BitVec 3) (fmt : BitVec 4) (f64 : BitVec 1)
  /-- TRSQ (R258): Elementwise reciprocal square root. -/
  | trsq (d : BitVec 3) (a : BitVec 3) (rows : BitVec 3) (fmt : BitVec 4) (f64 : BitVec 1)
  /-- TEXP2 (R258): Elementwise 2 to the power a. -/
  | texp2 (d : BitVec 3) (a : BitVec 3) (rows : BitVec 3) (fmt : BitVec 4) (f64 : BitVec 1)
  /-- TLOG2 (R258): Elementwise base-2 logarithm. -/
  | tlog2 (d : BitVec 3) (a : BitVec 3) (rows : BitVec 3) (fmt : BitVec 4) (f64 : BitVec 1)
  /-- TTANH (R258): Elementwise hyperbolic tangent. -/
  | ttanh (d : BitVec 3) (a : BitVec 3) (rows : BitVec 3) (fmt : BitVec 4) (f64 : BitVec 1)
  /-- TCMP (R257): Elementwise compare giving all-ones or zero. -/
  | tcmp (d : BitVec 3) (a : BitVec 3) (h : BitVec 1) (b : BitVec 3) (rows : BitVec 3) (fmt : BitVec 4) (f64 : BitVec 1) (cc : BitVec 2)
  /-- TSEL (R257): Elementwise select by the old TD. -/
  | tsel (d : BitVec 3) (a : BitVec 3) (h : BitVec 1) (b : BitVec 3) (rows : BitVec 3) (fmt : BitVec 4) (f64 : BitVec 1)
  /-- TAND (R259): Bitwise and of tile rows. -/
  | tand (d : BitVec 3) (a : BitVec 3) (h : BitVec 1) (b : BitVec 3) (rows : BitVec 3)
  /-- TOR (R259): Bitwise or of tile rows. -/
  | tor (d : BitVec 3) (a : BitVec 3) (h : BitVec 1) (b : BitVec 3) (rows : BitVec 3)
  /-- TXOR (R259): Bitwise exclusive or of tile rows. -/
  | txor (d : BitVec 3) (a : BitVec 3) (h : BitVec 1) (b : BitVec 3) (rows : BitVec 3)
  /-- TNOT (R259): Bitwise not of tile rows. -/
  | tnot (d : BitVec 3) (a : BitVec 3) (rows : BitVec 3)
  /-- TSHL (R259): Elementwise shift left. -/
  | tshl (d : BitVec 3) (a : BitVec 3) (h : BitVec 1) (b : BitVec 3) (rows : BitVec 3) (fmt : BitVec 4)
  /-- TSHR (R259): Elementwise shift right. -/
  | tshr (d : BitVec 3) (a : BitVec 3) (h : BitVec 1) (b : BitVec 3) (rows : BitVec 3) (fmt : BitVec 4)
  /-- TCVT (R260): Converts elements between formats, widening or narrowing groups. -/
  | tcvt (d : BitVec 3) (a : BitVec 3) (src : BitVec 4) (rows : BitVec 3) (fmt : BitVec 4) (f64 : BitVec 1) (sat : BitVec 1) (rm : BitVec 3)
  /-- TQNT (R261): Quantises rows to the MX layout. -/
  | tqnt (d : BitVec 3) (a : BitVec 3) (src : BitVec 4) (rows : BitVec 3) (fmt : BitVec 4) (sat : BitVec 1) (rm : BitVec 3)
  /-- TDQ (R262): Dequantises MX rows. -/
  | tdq (d : BitVec 3) (a : BitVec 3) (src : BitVec 4) (rows : BitVec 3) (fmt : BitVec 4) (sat : BitVec 1) (rm : BitVec 3)
  /-- TRED (R263): Reduces each row by sum, max, min or argmax. -/
  | tred (d : BitVec 3) (a : BitVec 3) (rows : BitVec 3) (fmt : BitVec 4) (f64 : BitVec 1) (k : BitVec 2)
  /-- TSCAN (R264): Inclusive prefix sum of each row. -/
  | tscan (d : BitVec 3) (a : BitVec 3) (rows : BitVec 3) (fmt : BitVec 4) (f64 : BitVec 1)
  /-- TBCAST (R265): Broadcasts a row or an element. -/
  | tbcast (d : BitVec 3) (a : BitVec 3) (b : BitVec 1) (rows : BitVec 3) (fmt : BitVec 4)
  /-- TTRN (R265): Transposes 8 x 8 element blocks. -/
  | ttrn (d : BitVec 3) (a : BitVec 3) (fmt : BitVec 4)
  /-- TPERM (R265): Permutes elements within rows. -/
  | tperm (d : BitVec 3) (a : BitVec 3) (h : BitVec 1) (b : BitVec 3) (rows : BitVec 3) (fmt : BitVec 4)
  /-- TGATH (R265): Gathers elements across the tile by index. -/
  | tgath (d : BitVec 3) (a : BitVec 3) (h : BitVec 1) (b : BitVec 3) (rows : BitVec 3) (fmt : BitVec 4)
  /-- TSCAT (R265): Scatters elements into TD by index. -/
  | tscat (d : BitVec 3) (a : BitVec 3) (h : BitVec 1) (b : BitVec 3) (rows : BitVec 3) (fmt : BitVec 4)
  /-- TTOPK (R265): Writes the k largest elements and their indices. -/
  | ttopk (d : BitVec 3) (a : BitVec 3) (k : BitVec 3) (rows : BitVec 3) (fmt : BitVec 4)
  /-- TNOISE (R265): Generates keyed uniform noise by R53. -/
  | tnoise (d : BitVec 3) (a : BitVec 3) (rows : BitVec 3) (fmt : BitVec 4)
  /-- MMA (R275): Issues a matrix job accumulating into an accumulator. -/
  | mma (ad : BitVec 2) (ta : BitVec 3) (ha : BitVec 1) (wm : BitVec 4) (p : BitVec 4) (mode : BitVec 2) (fmta : BitVec 4)
  /-- MMAZ (R275): Issues a matrix job that zeroes the accumulator first. -/
  | mmaz (ad : BitVec 2) (ta : BitVec 3) (ha : BitVec 1) (wm : BitVec 4) (p : BitVec 4) (mode : BitVec 2) (fmta : BitVec 4)
  /-- WLD (R271): Issues a weight job loading a macro through a descriptor. -/
  | wld (g : BitVec 4) (desc : BitVec 8) (a : BitVec 4)
  /-- WLDH (R272): Issues a weight job loading a macro from a handle's head slot. -/
  | wldh (g : BitVec 4) (fmt : BitVec 4) (h : BitVec 3)
  /-- WCLR (R270): Issues a job clearing a macro to EMPTY. -/
  | wclr (g : BitVec 4)
  /-- APROM (R276): Promotes an accumulator's narrow sums. -/
  | aprom (g : BitVec 2)
  /-- ACLR (R276): Clears an accumulator. -/
  | aclr (g : BitVec 2)
  /-- AMOV (R276): Copies one accumulator to another after promotion. -/
  | amov (g : BitVec 2) (a : BitVec 2)
  /-- AADD (R276): Adds one accumulator into another. -/
  | aadd (g : BitVec 2) (a : BitVec 2)
  /-- ALD (R277): Loads an accumulator spill image from the C buffer. -/
  | ald (g : BitVec 2) (a : BitVec 4)
  /-- AST (R277): Stores an accumulator spill image to the C buffer. -/
  | ast (g : BitVec 2) (a : BitVec 4)
  /-- ACVT (R278): Converts an accumulator into a tile or tile pair. -/
  | acvt (g : BitVec 4) (fmt : BitVec 4) (sat : BitVec 1) (rm : BitVec 3) (a : BitVec 2)
  /-- AEPI (R281): Promotes, converts and stores an accumulator through a descriptor. -/
  | aepi (g : BitVec 2) (desc : BitVec 8) (a : BitVec 4)
  /-- MSTAT (R282): Reads and clears an accumulator's flags. -/
  | mstat (g : BitVec 4) (a : BitVec 2)
  /-- COPY (R285): Issues an asynchronous copy job. -/
  | copy (d : BitVec 4) (a : BitVec 4) (b : BitVec 4) (scope : BitVec 3) (fl : BitVec 5)
  /-- COPYS (R285): Issues a copy job publishing a 1 KiB item to a stream. -/
  | copys (d : BitVec 4) (a : BitVec 4) (b : BitVec 4) (scope : BitVec 3) (fl : BitVec 5)
  /-- JWAIT (R289): Waits for a copy job and returns its status. -/
  | jwait (d : BitVec 4) (a : BitVec 4)
  /-- JPOLL (R289): Returns a copy job's status without waiting. -/
  | jpoll (d : BitVec 4) (a : BitVec 4)
  /-- SUBSCR (R293): Subscribes a handle to a stream. -/
  | subscr (d : BitVec 4) (a : BitVec 4) (h : BitVec 3)
  /-- UNSUB (R293): Removes a handle's stream subscription. -/
  | unsub (d : BitVec 4) (a : BitVec 4) (h : BitVec 3)
  /-- SPUB (R294): Publishes a tile as a stream item. -/
  | spub (a : BitVec 4) (t : BitVec 3)
  /-- HCFG (R290): Configures a circular-buffer handle. -/
  | hcfg (a : BitVec 4) (h : BitVec 3)
  /-- HWAIT (R291): Waits for filled or free slots of a handle. -/
  | hwait (d : BitVec 4) (a : BitVec 4) (h : BitVec 3)
  /-- HADVC (R292): Advances a handle's head, freeing slots. -/
  | hadvc (d : BitVec 4) (a : BitVec 4) (h : BitVec 3)
  /-- HADVP (R292): Advances a handle's tail, filling slots. -/
  | hadvp (d : BitVec 4) (a : BitVec 4) (h : BitVec 3)
  /-- BINIT (R297): Initialises a barrier object. -/
  | binit (d : BitVec 4) (a : BitVec 4) (b : BitVec 4)
  /-- BARV (R297): Arrives at a barrier object. -/
  | barv (d : BitVec 4) (a : BitVec 4) (b : BitVec 4)
  /-- BEXP (R297): Adds expected bytes to a barrier object. -/
  | bexp (d : BitVec 4) (a : BitVec 4) (b : BitVec 4)
  /-- BWAIT (R297): Waits for a barrier phase change. -/
  | bwait (d : BitVec 4) (a : BitVec 4) (b : BitVec 4)
  /-- BINV (R297): Invalidates a barrier object. -/
  | binv (d : BitVec 4) (a : BitVec 4)
  /-- WBARA (R300): Arrives at a wired-barrier group. -/
  | wbara (d : BitVec 4) (a : BitVec 4) (grp : BitVec 4)
  /-- WBARW (R300): Waits for a wired-barrier phase change or an event. -/
  | wbarw (d : BitVec 4) (a : BitVec 4) (grp : BitVec 4)
  /-- WBMASK (R299): Joins or leaves a wired-barrier group. -/
  | wbmask (a : BitVec 4)
  /-- RNGINIT (R302): Resets the team's range unit. -/
  | rnginit (a : BitVec 4)
  /-- RNGGET (R302): Retires the current chunk and takes the next. -/
  | rngget (d : BitVec 4) (a : BitVec 4)
  /-- SPAWN (R303): Spawns a kid from a launch block. -/
  | spawn (d : BitVec 4) (a : BitVec 4) (b : BitVec 4)
  /-- JOIN (R304): Waits for a kid or all kids to complete. -/
  | join (d : BitVec 4) (a : BitVec 4)
  /-- EVPOST (R305): Posts a ring record or sets a core's WAKE bit. -/
  | evpost (d : BitVec 4) (a : BitVec 4) (b : BitVec 4)
  /-- TREELD (R307): Loads or removes a stream's delivery tree. -/
  | treeld (d : BitVec 4) (a : BitVec 4) (b : BitVec 4)
  /-- CBIND (R312): Binds a cell from a bind block. -/
  | cbind (g : BitVec 4) (a : BitVec 4)
  /-- CEDIT (R313): Replaces a formula cell's formula and publishes. -/
  | cedit (g : BitVec 4) (a : BitVec 4)
  /-- CUNBIND (R314): Unbinds a cell. -/
  | cunbind (g : BitVec 4) (a : BitVec 4)
  /-- CWOPEN (R315): Opens a write session on input cells. -/
  | cwopen (g : BitVec 4) (desc : BitVec 8) (a : BitVec 4)
  /-- CWPUB (R316): Publishes or cancels the core's write session. -/
  | cwpub (g : BitVec 4) (a : BitVec 4) (cancel : BitVec 1)
  /-- CAPPEND (R317): Records an append commit in the session. -/
  | cappend (g : BitVec 4) (k : BitVec 6) (a : BitVec 4)
  /-- VOPEN (R318): Opens a view pinning the latest generation. -/
  | vopen (g : BitVec 4) (a : BitVec 4)
  /-- VCLOSE (R318): Closes a view and unmaps its versions. -/
  | vclose (g : BitVec 4) (v : BitVec 4)
  /-- CRD (R319): Reads a cell under a view, mapping its version. -/
  | crd (g : BitVec 4) (desc : BitVec 8) (a : BitVec 4) (v : BitVec 4)
  /-- CFENCE (R320): Waits until a set of cells is final under a view. -/
  | cfence (g : BitVec 4) (a : BitVec 4) (v : BitVec 4)
  /-- CSTAT (R321): Reports a cell's state without waiting. -/
  | cstat (g : BitVec 4) (a : BitVec 4)
  /-- CREVOKE (R322): Revokes views below a generation limit. -/
  | crevoke (g : BitVec 4) (a : BitVec 4)
  /-- SXOPEN (R326): Opens a suffix slot. -/
  | sxopen (d : BitVec 4) (a : BitVec 4)
  /-- SXAPP (R327): Appends tokens to a suffix slot. -/
  | sxapp (d : BitVec 4) (a : BitVec 4) (b : BitVec 4)
  /-- SXQRY (R387): Queries a slot for draft tokens. -/
  | sxqry (d : BitVec 4) (a : BitVec 4) (b : BitVec 4)
  /-- SXSAVE (R329): Saves a slot to memory. -/
  | sxsave (d : BitVec 4) (a : BitVec 4) (b : BitVec 4)
  /-- SXLOAD (R393): Opens a slot from a saved area and starts a rebuild. -/
  | sxload (d : BitVec 4) (b : BitVec 4)
  /-- SXFREE (R326): Closes a suffix slot. -/
  | sxfree (d : BitVec 4) (a : BitVec 4)
  /-- SXSTAT (R330): Reports a slot's length and state. -/
  | sxstat (d : BitVec 4) (a : BitVec 4)
  /-- RBEGIN (R333): Opens a region with a checkpoint and a local write window. -/
  | rbegin (a : BitVec 4) (b : BitVec 4) (wbuf : BitVec 1)
  /-- REND (R336): Commits the region. -/
  | rend
  /-- RABORT (R337): Discards and re-enters the region, counted. -/
  | rabort
  /-- CLKREQ (R338): Replaces the team's clock request. -/
  | clkreq (d : BitVec 4) (a : BitVec 4)
  /-- EXTI (R172): Writes a sign-extended 24-bit immediate to an extension register. -/
  | exti (e : BitVec 2) (i : BitVec 24)
  /-- EXTS (R172): Shifts an extension register by 24 and ors in an immediate. -/
  | exts (e : BitVec 2) (i : BitVec 24)
  /-- NOP_16 (R175): Does nothing (16-bit form). -/
  | nop16
  /-- ADD_16 (R175): 16-bit add into sD. -/
  | add16 (d : BitVec 4) (a : BitVec 4)
  /-- SUB_16 (R175): 16-bit subtract. -/
  | sub16 (d : BitVec 4) (a : BitVec 4)
  /-- AND_16 (R175): 16-bit and. -/
  | and16 (d : BitVec 4) (a : BitVec 4)
  /-- OR_16 (R175): 16-bit or. -/
  | or16 (d : BitVec 4) (a : BitVec 4)
  /-- XOR_16 (R175): 16-bit exclusive or. -/
  | xor16 (d : BitVec 4) (a : BitVec 4)
  /-- SHL_16 (R175): 16-bit shift left. -/
  | shl16 (d : BitVec 4) (a : BitVec 4)
  /-- SHR_16 (R175): 16-bit logical shift right. -/
  | shr16 (d : BitVec 4) (a : BitVec 4)
  /-- SHA_16 (R175): 16-bit arithmetic shift right. -/
  | sha16 (d : BitVec 4) (a : BitVec 4)
  /-- ADDI_16 (R175): 16-bit add of a 6-bit immediate. -/
  | addi16 (d : BitVec 4) (i : BitVec 6)
  /-- LI_16 (R175): 16-bit load of a 6-bit immediate. -/
  | li16 (d : BitVec 4) (i : BitVec 6)
  /-- SHLI_16 (R175): 16-bit shift left by an immediate. -/
  | shli16 (d : BitVec 4) (n : BitVec 6)
  /-- SHRI_16 (R175): 16-bit logical shift right by an immediate. -/
  | shri16 (d : BitVec 4) (n : BitVec 6)
  /-- SHAI_16 (R175): 16-bit arithmetic shift right by an immediate. -/
  | shai16 (d : BitVec 4) (n : BitVec 6)
  /-- LDW_16 (R175): 16-bit word load. -/
  | ldw16 (d : BitVec 4) (a : BitVec 4) (x : BitVec 2)
  /-- STW_16 (R175): 16-bit word store. -/
  | stw16 (d : BitVec 4) (a : BitVec 4) (x : BitVec 2)
  /-- LDD_16 (R175): 16-bit doubleword load. -/
  | ldd16 (d : BitVec 4) (a : BitVec 4) (x : BitVec 2)
  /-- STD_16 (R175): 16-bit doubleword store. -/
  | std16 (d : BitVec 4) (a : BitVec 4) (x : BitVec 2)
  /-- BEQZ (R202): Delayed branch if sA is zero. -/
  | beqz (hi : BitVec 4) (a : BitVec 4) (lo : BitVec 2)
  /-- BNEZ (R202): Delayed branch if sA is nonzero. -/
  | bnez (hi : BitVec 4) (a : BitVec 4) (lo : BitVec 2)
  /-- JALR_16 (R175): 16-bit register jump with link. -/
  | jalr16 (d : BitVec 4) (a : BitVec 4) (n : BitVec 1)
  /-- TAKE_INTERRUPT (R209): An enabled pending interrupt is taken at the start of a Step, discarding any region. -/
  | takeInterrupt (core : Nat)
  /-- DEFERRED_TRAP (R348): A pending deferred trap is taken at the start of a later Step. -/
  | deferredTrap (core : Nat)
  /-- TIMER_EXPIRE (R207): LCLK reaches TIMECMP and the timer interrupt becomes pending. -/
  | timerExpire (core : Nat)
  /-- WAITA_TIMEOUT (R235): A WAITA timeout expires and the wait ends. -/
  | waitaTimeout (core : Nat)
  /-- COMMIT_QUEUE_PERFORM (R119): The head commit-queue entry performs at its place and leaves the queue. -/
  | commitQueuePerform (core : Nat)
  /-- REGION_MOVE_COMMITTED (R123): Committed region-buffer entries move to the commit queue as room allows, issuing engine commands. -/
  | regionMoveCommitted (core : Nat)
  /-- HOME_ARRIVE (R116): A write reaches its home and sets PendingWrite. -/
  | homeArrive (fwd : Bool) (key : Nat)
  /-- HOME_PERFORM_WRITE (R116): After the lease horizon plus two ticks the waiting write performs at the home. -/
  | homePerformWrite (line : Nat)
  /-- HOME_LOAD (R113): A load that misses arrives at its home, performs and may be granted a lease. -/
  | homeLoad (core : Nat) (idx : Nat)
  /-- LEASE_EXPIRE (R115): A herd-cache copy's lease expires and it stops serving hits. -/
  | leaseExpire (herd : Nat) (line : Nat)
  /-- REMOTE_ACCESS_ARRIVE (R112): A remote load or store message arrives and performs at the owning bank. -/
  | remoteAccessArrive (msg : Nat)
  /-- BANK_TAKE (R232): A TAKE message performs at its bank. -/
  | bankTake (msg : Nat)
  /-- BANK_PEEK (R232): A PEEK message performs at its bank. -/
  | bankPeek (msg : Nat)
  /-- BANK_PUT (R232): A PUT performs at its bank, replying to waiting takers and peekers. -/
  | bankPut (msg : Nat)
  /-- BANK_INIT (R232): A FEINIT performs at its bank or is refused if sync-tagged. -/
  | bankInit (msg : Nat)
  /-- BANK_BINIT (R297): A BINIT message restarts a barrier object at its bank. -/
  | bankBinit (msg : Nat)
  /-- BANK_BARV (R297): A BARV message records arrivals and may complete the phase. -/
  | bankBarv (msg : Nat)
  /-- BANK_BEXP (R297): A BEXP message adds pending bytes. -/
  | bankBexp (msg : Nat)
  /-- BANK_BWAIT (R297): A BWAIT message replies or joins the waiters. -/
  | bankBwait (msg : Nat)
  /-- BANK_BINV (R297): A BINV message invalidates the object and releases waiters. -/
  | bankBinv (msg : Nat)
  /-- BAR_COMPLETION (R297): A copy job's BAR completion action subtracts its bytes and may complete the phase. -/
  | barCompletion (msg : Nat)
  /-- WRITEBACK_REQUEST (R126): A write-back request reaches the home, which grants or cancels. -/
  | writebackRequest (herd : Nat) (line : Nat)
  /-- WRITEBACK_GRANT (R126): A grant reaches the herd cache, which sends the data and frees the entry. -/
  | writebackGrant (herd : Nat) (line : Nat)
  /-- WRITEBACK_CANCEL (R126): A cancel reaches the herd cache, which frees the victim entry. -/
  | writebackCancel (herd : Nat) (line : Nat)
  /-- WRITEBACK_DATA (R126): Write-back data reaches the home and performs or is held as a partial. -/
  | writebackData (herd : Nat) (line : Nat)
  /-- RECALL (R126): A recall reaches a herd cache and takes partial data, snooping the victim buffer. -/
  | recall (herd : Nat) (line : Nat)
  /-- PARTIAL_SPILL (R126): A slice evicts held partials to the spill area. -/
  | partialSpill (line : Nat)
  /-- COPY_JOB_DISPATCH (R128): A copy job starts on the copy unit after its A-flag wait. -/
  | copyJobDispatch (core : Nat) (slot : Nat)
  /-- COPY_JOB_COMPLETE (R288): A copy job ends with a status and performs its completion action if DONE. -/
  | copyJobComplete (core : Nat) (slot : Nat)
  /-- STREAM_ACCEPT (R295): The distributor accepts an item into a stream's queue. -/
  | streamAccept (core : Nat)
  /-- STREAM_DELIVER (R295): An item is written to a subscriber's tail slot once it has room. -/
  | streamDeliver (stream : Nat)
  /-- MATRIX_JOB_START (R280): A ready matrix job starts on a free compute port and loads its row buffer. -/
  | matrixJobStart (herd : Nat)
  /-- MATRIX_JOB_COMPLETE (R275): A matrix job completes, setting flags and releasing locks. -/
  | matrixJobComplete (herd : Nat) (port : Nat)
  /-- WEIGHT_JOB_START (R270): A weight job starts once its macro and handle are ready. -/
  | weightJobStart (core : Nat)
  /-- WEIGHT_JOB_COMPLETE (R270): A weight job completes and the macro becomes LOADED or EMPTY. -/
  | weightJobComplete (core : Nat)
  /-- TILE_UNIT_DISPATCH (R253): The quad tile unit takes the next instruction in round-robin order. -/
  | tileUnitDispatch (quad : Nat)
  /-- WALKER_COMMAND_DONE (R236): The cache walker finishes the last line of a command. -/
  | walkerCommandDone (core : Nat) (idx : Nat)
  /-- SHEET_PUBLISH (R77): The sheet engine accepts a publish, assigning a generation and applying append commits. -/
  | sheetPublish (pub : Nat)
  /-- STALE_MARK (R79): Stale marking advances through the cone in ascending rank. -/
  | staleMark (sheet : Nat)
  /-- CELL_DISPATCH (R83): A ready cell with a free slot is dispatched as a tile task. -/
  | cellDispatch (sheet : Nat) (cell : Nat)
  /-- TASK_COMPLETE (R84): A tile task completes with its team and kids, acting as a release. -/
  | taskComplete (team : Nat)
  /-- CELL_MARK_FRESH (R84): The sheet engine marks the cell fresh and makes dependents ready. -/
  | cellMarkFresh (sheet : Nat) (cell : Nat)
  /-- APPEND_PREFIX_COPY (R78): The sheet engine copies committed tail entries into the append prefix. -/
  | appendPrefixCopy (sheet : Nat) (cell : Nat)
  /-- RING_TICK_INTERRUPT (R102): The coalescing tick count expires with unsignalled records and the ring interrupts. -/
  | ringTickInterrupt (ring : Nat)
  /-- TEAM_PLACE (R369): The placer places a queued task on a rectangle of herds. -/
  | teamPlace (task : Nat) (die : Nat) (x : Nat) (y : Nat) (w : Nat) (h : Nat)
  /-- TEAM_START (R372): Team start loads descriptors, range unit and clocks and clears claimed buffers. -/
  | teamStart (team : Nat)
  /-- HERD_START (R373): A team's herd starts after its stagger delay. -/
  | herdStart (team : Nat) (herd : Nat)
  /-- TASK_AGE (R367): A waiting task reaches the aging count and moves up one level. -/
  | taskAge (task : Nat)
  /-- SPATIAL_PREEMPT (R358): A level-0 task claims herds, vacating and scanning out the victim's cores. -/
  | spatialPreempt (task : Nat) (die : Nat) (x : Nat) (y : Nat) (w : Nat) (h : Nat)
  /-- HERDS_RETURN (R376): Claimed herds return to the victim and are restarted. -/
  | herdsReturn (team : Nat)
  /-- SLICE_EXPIRE (R359): A time slice ends and the team is swapped out. -/
  | sliceExpire (team : Nat)
  /-- TEAM_RESUME (R360): A swapped-out team resumes with its context restored. -/
  | teamResume (team : Nat)
  /-- TEAM_FINISH (R372): The last thread of a team ends and the team finishes. -/
  | teamFinish (team : Nat)
  /-- RANGE_REQUEST (R374): The range unit serves a chunk request in arrival order. -/
  | rangeRequest (core : Nat)
  /-- KID_COMPLETE (R377): A kid completes and frees its pool entry to a queued kid. -/
  | kidComplete (team : Nat)
  /-- WBAR_ARRIVE (R300): An arrival reaches a wired-barrier group and may complete its phase. -/
  | wbarArrive (core : Nat)
  /-- ARBITER_EVALUATE (R379): The clock-ratio arbiter chooses a new grant, lowering ratios at once. -/
  | arbiterEvaluate
  /-- GRANT_RAISE_HERD (R380): A raised ratio takes effect on a herd after its stagger. -/
  | grantRaiseHerd (herd : Nat)
  /-- SUFFIX_REBUILD_DONE (R393): A slot's rebuild ends and a record is posted. -/
  | suffixRebuildDone (slot : Nat)
  /-- UNCORRECTABLE_ERROR (R356): An uncorrectable error is retried from an intact copy or the value is poisoned. -/
  | uncorrectableError (place : Nat) (key : Nat) (addr : Nat)
  /-- MACRO_SCRUB (R403): The scrubber reads macro rows and poisons failing ones. -/
  | macroScrub (core : Nat) (mac : Nat)
  /-- PATROL_SCRUB (R403): Patrol scrubbing rewrites SECDED granules. -/
  | patrolScrub (place : Nat) (key : Nat) (addr : Nat)
  /-- CONTAINMENT_START (R407): Consumption of poison fences and resets a containment rectangle. -/
  | containmentStart (die : Nat) (x : Nat) (y : Nat)
  /-- CONTAINMENT_FENCE_LIFT (R407): The last herd of the rectangle has reset and the fence lifts. -/
  | containmentFenceLift (die : Nat)
  /-- ROUTER_FAILURE (R407): A router fails, containing its rectangle and rerouting y-first. -/
  | routerFailure (die : Nat) (x : Nat) (y : Nat)
  /-- TRANSACTION_CRC_FAIL (R34): A memory transaction fails its CRC at the slice and is requested again. -/
  | transactionCrcFail (line : Nat)
  /-- READ_RESPONSE_CRC_FAIL (R415): A read response fails its CRC at the requester and is requested again. -/
  | readResponseCrcFail (core : Nat) (idx : Nat)
  /-- LINK_FLIT_ERROR (R34): A link flit fails its CRC and is replayed, or a failing lane is spared. -/
  | linkFlitError (die : Nat) (link : Nat) (lane : Bool)
  /-- REMOTE_TIMEOUT (R419): A space-3 or space-4 transaction gets no answer within 1 ms and fails. -/
  | remoteTimeout (core : Nat) (idx : Nat)
  /-- HOST_MEM_ACCESS (R420): A host CXL.mem access performs at the home. -/
  | hostMemAccess (write : Bool) (addr : Nat) (size : Nat) (value : Nat)
  /-- SPDM_REQUEST (R429): The management core answers an SPDM request. -/
  | spdmRequest (code : Nat) (param : Nat)
  /-- POWER_ON (R427): Power-on starts the management core's verified boot. -/
  | powerOn
  /-- THERMAL_POLL (R431): Each millisecond the rails are read and the effective cap derated or restored. -/
  | thermalPoll (temp : Nat) (power : Nat)
  /-- THERMAL_SHUTDOWN (R431): At 125 degrees hardware removes power from the compute dies. -/
  | thermalShutdown (temp : Nat)
  /-- SHEETNEW (R424): Supervisor function creating a sheet. -/
  | sheetnew (ch : Nat)
  /-- SHEETDEL (R424): Supervisor function deleting a sheet. -/
  | sheetdel (ch : Nat)
  /-- LAUNCH (R424): Supervisor function submitting a launch block. -/
  | launch (ch : Nat)
  /-- TEAMEND (R424): Supervisor function vacating and ending a team. -/
  | teamend (ch : Nat)
  /-- TEAMSTAT_READ (R382): Supervisor function reading TEAMSTAT. -/
  | teamstatRead (ch : Nat)
  /-- TEAMSTAT_WRITE (R382): Supervisor function writing TEAMSTAT. -/
  | teamstatWrite (ch : Nat)
  /-- SHOOT (R352): Supervisor function performing a translation shoot-down. -/
  | shoot (ch : Nat)
  /-- FAULTEND (R355): Supervisor function resolving or refusing a fault record. -/
  | faultend (ch : Nat)
  /-- QPLACE (R424): Supervisor function placing a fault, containment or kid queue. -/
  | qplace (ch : Nat)
  /-- DIEREG_READ (R426): Supervisor function reading a per-die register. -/
  | dieregRead (ch : Nat)
  /-- DIEREG_WRITE (R426): Supervisor function writing a per-die register. -/
  | dieregWrite (ch : Nat)
  /-- QSLICE (R359): Supervisor function setting a level's time slice. -/
  | qslice (ch : Nat)
  /-- SUFFIX_INDEX_PLACE (R385): Supervisor function placing the suffix index region. -/
  | suffixIndexPlace (ch : Nat)
  /-- SUFFIX_MAILBOX_PLACE (R394): Supervisor function placing the mailbox array. -/
  | suffixMailboxPlace (ch : Nat)
  /-- SUFFIX_RING_ASSIGN (R391): Supervisor function assigning the suffix engine's ring. -/
  | suffixRingAssign (ch : Nat)
  /-- POWER (R431): Supervisor function setting the power cap. -/
  | power (ch : Nat)
  /-- DOORBELL (R424): Supervisor function posting interrupt 1 and WAKE to a core. -/
  | doorbell (ch : Nat)
  /-- WBGROUP (R424): Supervisor function assigning a wired-barrier group and its bridge. -/
  | wbgroup (ch : Nat)
  /-- BOOT (R428): Supervisor function starting every enabled core of a die as team 0. -/
  | boot (ch : Nat)
  /-- DEBUG_STOP (R430): Debug function halting a core and writing its state. -/
  | debugStop (ch : Nat)
  /-- DEBUG_RESUME (R430): Debug function resuming a stopped core. -/
  | debugResume (ch : Nat)
  /-- DEBUG_STEP (R430): Debug function issuing exactly one Step. -/
  | debugStep (ch : Nat)
  /-- SV_RETAIN (R240): Supervisor function setting a retention register. -/
  | svRetain (ch : Nat)
  /-- SV_UNRETAIN (R240): Supervisor function clearing a retention register. -/
  | svUnretain (ch : Nat)
  /-- PEERSET (R424): Supervisor function filling the peer table. -/
  | peerset (ch : Nat)
  /-- CHANNEL_SHEET_COMMAND (R423): A GO write starts a sheet command from a channel. -/
  | channelSheetCommand (ch : Nat)
  /-- CHANNEL_SUFFIX_COMMAND (R423): A GO write starts a suffix command from a channel. -/
  | channelSuffixCommand (ch : Nat)
  /-- COMMAND_DONE (R423): A channel command finishes and sets DONE, possibly signalling vector 64. -/
  | commandDone (ch : Nat)
  /-- RING_CONFIG_WRITE (R102): A write of RINGCFG, FQCFG or CQCFG with its SIZE range check. -/
  | ringConfigWrite (off : Nat) (value : Nat)
  /-- QUEUE_CONSUMER_WRITE (R103): A write of a ring or queue consumer index frees room and releases held records. -/
  | queueConsumerWrite (off : Nat) (value : Nat)
  /-- REGISTER_WRITE (R7): A write to a register that has no row of its own. -/
  | registerWrite (off : Nat) (value : Nat)
  /-- ILLEGAL_INSTRUCTION (R185): The core decodes an unassigned opcode or function code, the all-zero halfword or major opcode 0x3F and raises cause 2 with the TVAL of R186. -/
  | illegalInstruction (core : Nat) (sub : Nat) (long : Bool) (insn : Nat)
  /-- INSTRUCTION_FETCH_FAULT (R161): A fetch of the first or second halfword faults, with cause 1 or 12 or a user fetch fault record, and the instruction does not execute. -/
  | instructionFetchFault (core : Nat) (cause : Nat) (addr : Nat)
  /-- TARGET_ACKNOWLEDGEMENT (R419): A space-3 peer or space-4 host answers a transaction by completing a load, acknowledging a store at SYS scope, or refusing it with cause 5 or a deferred cause 7. -/
  | targetAcknowledgement (core : Nat) (idx : Nat) (answer : Nat) (value : Nat)
  /-- NETWORK_BOOT_FRAME (R427): A DHCPv6 reply or TFTP block arrives on the boot port, or a fetch attempt times out, advancing the firmware's fetch, verification, retries and release of OS core 0. -/
  | networkBootFrame (frame : Nat)
  deriving DecidableEq, Repr

end Sys2Proof
end

