-- ==== Sys2Proof/WellFormed.lean ====
section
/-!
DEFINITION. Which instructions are well formed: the field values that chapter 10 and the instructions' own chapters accept
(R165 to R185), with the reason of R187 for each value they do not.

The reserved bits of a word are no field of an instruction; the decoder checks them.  The mode and the position of an instruction
(sub-codes 0x06 and 0x07) are checked when it executes.
-/

namespace Sys2Proof

/-- Why an encoding is no instruction: the rows of R187 that depend on the word alone. -/
inductive Reject where
  /-- The all-zero halfword, or major opcode 0x3F. -/
  | definedIllegal
  /-- An opcode or a function code that no table assigns. -/
  | unassigned
  /-- A reserved field or bit that is not 0, K and B<5:4> included. -/
  | reserved
  /-- A field value that is not accepted. -/
  | badValue
  /-- A scalar pair named by an odd register. -/
  | badPair
  /-- A tile group that is not aligned, or runs past t7. -/
  | badGroup
  /-- Fewer bytes than the instruction has (a fetch always reads enough; only a list of bytes can be short). -/
  | truncated
  deriving DecidableEq, Repr

/-- The sub-code that TVAL reports (R187). -/
def Reject.sub : Reject → Nat
  | .definedIllegal => 0x08
  | .unassigned => 0x00
  | .reserved => 0x01
  | .badValue => 0x02
  | .badPair => 0x03
  | .badGroup => 0x04
  | .truncated => 0x00

/-- The reason `r` where `b` holds. -/
def refuse (r : Reject) (b : Bool) : Option Reject := if b then some r else none

/-- The first reason of a list of checks, which stand in the order of R187. -/
def firstOf : List (Option Reject) → Option Reject
  | [] => none
  | some r :: _ => some r
  | none :: rest => firstOf rest

/-- K and B of an ALU or AMO instruction (R165): a register below 16, or one of the entries 0 to 58. -/
def constProblem (k : BitVec 1) (b : BitVec 6) : Option Reject :=
  if k = 0 then refuse .reserved (15 < b.toNat) else refuse .badValue (58 < b.toNat)

/-- K and B of an FLT instruction (R165): a register below 16, or any entry of the floating view. -/
def floatConstProblem (k : BitVec 1) (b : BitVec 6) : Option Reject :=
  if k = 0 then refuse .reserved (15 < b.toNat) else none

/-- RM (R177): 101 to 111 are illegal. -/
def rmProblem (rm : BitVec 3) : Option Reject := refuse .badValue (4 < rm.toNat)

/-- SCOPE (R110): 101 to 111 are illegal. -/
def scopeProblem (scope : BitVec 3) : Option Reject := refuse .badValue (4 < scope.toNat)

/-- ORD of a load (R166): none or acquire. -/
def loadOrdProblem (o : BitVec 2) : Option Reject := refuse .badValue (o == 2 || o == 3)

/-- ORD of a store (R166), a reduction (R225) or a PUT (R231): none or release. -/
def storeOrdProblem (o : BitVec 2) : Option Reject := refuse .badValue (o == 1 || o == 3)

/-- A scalar pair is named by its even register (R170). -/
def pairProblem (d : BitVec 4) : Option Reject := refuse .badPair (d.toNat % 2 == 1)

/-- A macro number above 11 is illegal (R181, R270). -/
def macroProblem (m : BitVec 4) : Option Reject := refuse .badValue (11 < m.toNat)

/-- FCVT (R177): equal kinds, two integer kinds, or a kind of 6 or 7. -/
def fcvtBad (tk sk : BitVec 3) : Bool :=
  tk == sk || (1 < tk.toNat && 1 < sk.toNat) || 5 < tk.toNat || 5 < sk.toNat

/-- The control registers of R189. -/
def csrAssigned (c : Nat) : Bool :=
  c ≤ 4 || (0x10 ≤ c && c ≤ 0x14) || (0x18 ≤ c && c ≤ 0x19) || (0x20 ≤ c && c ≤ 0x22) || (0x28 ≤ c && c ≤ 0x2B)
    || (0x100 ≤ c && c ≤ 0x109)

/-- The control registers that user mode may not touch (R189). -/
def csrSupervisor (c : Nat) : Bool := 0x100 ≤ c && c ≤ 0x109

/-- The formats of TADD other than FP64 (R256). -/
def arithFormats : List Nat := [0x0, 0x1, 0x5, 0xD, 0xE, 0xF]
/-- FP16, BF16 and FP32 (R256, R258). -/
def floatFormats : List Nat := [0xD, 0xE, 0xF]
/-- The formats of TABS and TNEG other than FP64 (R256). -/
def signedFormats : List Nat := [0x0, 0x5, 0xD, 0xE, 0xF]
/-- The formats of TSHL and TSHR (R259). -/
def shiftFormats : List Nat := [0x0, 0x1, 0x5]
/-- The formats whose container has at least 8 bits (R265). -/
def byteFormats : List Nat := [0x0, 0x1, 0x5, 0x8, 0x9, 0xA, 0xB, 0xC, 0xD, 0xE, 0xF]
/-- The formats of TTRN: of 8, 16 or 32 bits, which FP6 is not (R39, R265; log 132). -/
def plainFormats : List Nat := [0x0, 0x1, 0x5, 0xA, 0xB, 0xC, 0xD, 0xE, 0xF]
/-- The formats of TGATH and TSCAT (R265). -/
def gatherFormats : List Nat := [0x5, 0xD, 0xE, 0xF]
/-- The sources of TQNT and targets of TDQ (R261, R262), and the formats of TNOISE (R265). -/
def quantSources : List Nat := [0xD, 0xE, 0xF]
/-- The targets of TQNT and sources of TDQ (R261, R262). -/
def quantTargets : List Nat := [0x6, 0x7, 0x8, 0x9, 0xA, 0xB, 0xC]

/-- A format of a list. -/
def formatProblem (fs : List Nat) (fmt : BitVec 4) : Option Reject := refuse .badValue (!fs.contains fmt.toNat)

/-- The format of an FP64-capable code (R168): F<7> = 1 is legal only with FMT = 0xF. -/
def tileProblem (fs : List Nat) (fmt : BitVec 4) (f64 : BitVec 1) : Option Reject :=
  firstOf [refuse .badValue (f64 == 1 && fmt != 0xF), formatProblem fs fmt]

/-- The container width of a format code in bits (R44); code 16 stands for FP64. -/
def containerBits (f : Nat) : Nat :=
  match f with
  | 0x0 => 8 | 0x1 => 8 | 0x2 => 4 | 0x3 => 4 | 0x4 => 2 | 0x5 => 16 | 0x6 => 4 | 0x7 => 4 | 0x8 => 8 | 0x9 => 8
  | 0xA => 8 | 0xB => 8 | 0xC => 8 | 0xD => 16 | 0xE => 16 | 0xF => 32 | _ => 64

/-- The format code that a format field and F<7> name (R168): 16 for FP64. -/
def effFormat (fmt : BitVec 4) (f64 : BitVec 1) : Nat := if f64 = 1 ∧ fmt = 0xF then 16 else fmt.toNat

/-- TCVT (R168, R260): the accepted pairs of formats, and the alignment of the wider side's group. -/
def tcvtProblem (d a : BitVec 3) (src fmt : BitVec 4) (f64 : BitVec 1) (rm : BitVec 3) : Option Reject :=
  let v := containerBits (effFormat src f64)
  let n := containerBits (effFormat fmt f64)
  firstOf [rmProblem rm,
    refuse .badValue (f64 == 1 && src != 0xF && fmt != 0xF),
    refuse .badValue (src == fmt || src == 7 || fmt == 7),
    refuse .badValue (4 * v < n || 4 * n < v),
    refuse .badGroup (v < n && d.toNat % (n / v) != 0),
    refuse .badGroup (n < v && a.toNat % (v / n) != 0)]

/-- ACVT's destination (R170, R278): t0 to t7, the first of a pair for FP32. -/
def acvtTileProblem (g : BitVec 4) (fmt : BitVec 4) : Option Reject :=
  if 7 < g.toNat then some .badValue else refuse .badGroup (fmt == 0xF && g.toNat % 2 == 1)

/-- The first reason why an instruction is not well formed, if any. -/
def Instr.problem : Instr → Option Reject
  | .add _ _ k b => constProblem k b
  | .sub _ _ k b => constProblem k b
  | .mul _ _ k b => constProblem k b
  | .mulh _ _ k b => constProblem k b
  | .mulhu _ _ k b => constProblem k b
  | .div _ _ k b => constProblem k b
  | .divu _ _ k b => constProblem k b
  | .rem _ _ k b => constProblem k b
  | .remu _ _ k b => constProblem k b
  | .and _ _ k b => constProblem k b
  | .or _ _ k b => constProblem k b
  | .xor _ _ k b => constProblem k b
  | .shl _ _ k b => constProblem k b
  | .shr _ _ k b => constProblem k b
  | .sha _ _ k b => constProblem k b
  | .rot _ _ k b => constProblem k b
  | .min _ _ k b => constProblem k b
  | .max _ _ k b => constProblem k b
  | .minu _ _ k b => constProblem k b
  | .maxu _ _ k b => constProblem k b
  | .slt _ _ k b => constProblem k b
  | .sltu _ _ k b => constProblem k b
  | .seq _ _ k b => constProblem k b
  | .cmov _ _ k b => constProblem k b
  | .addw _ _ k b => constProblem k b
  | .subw _ _ k b => constProblem k b
  | .madd _ _ k b => constProblem k b
  | .addx _ _ k b _ => constProblem k b
  | .clz _ _ => none
  | .ctz _ _ => none
  | .popc _ _ => none
  | .bswap _ _ => none
  | .sext _ _ n => refuse .badValue (n == 3)
  | .zext _ _ n => refuse .badValue (n == 3)
  | .fadd _ _ k b _ rm _ => firstOf [floatConstProblem k b, rmProblem rm]
  | .fsub _ _ k b _ rm _ => firstOf [floatConstProblem k b, rmProblem rm]
  | .fmul _ _ k b _ rm _ => firstOf [floatConstProblem k b, rmProblem rm]
  | .ffma _ _ k b _ rm _ => firstOf [floatConstProblem k b, rmProblem rm]
  | .fdiv _ _ k b _ rm _ => firstOf [floatConstProblem k b, rmProblem rm]
  | .fsqrt _ _ _ rm _ => rmProblem rm
  | .fmin _ _ k b _ => floatConstProblem k b
  | .fmax _ _ k b _ => floatConstProblem k b
  | .fcmp _ _ k b _ _ => floatConstProblem k b
  | .fcvt _ _ tk sk rm _ => firstOf [rmProblem rm, refuse .badValue (fcvtBad tk sk)]
  | .fclass _ _ _ => none
  | .fsgnj _ _ k b _ => floatConstProblem k b
  | .fsgnjn _ _ k b _ => floatConstProblem k b
  | .fsgnjx _ _ k b _ => floatConstProblem k b
  | .addi _ _ _ => none
  | .andi _ _ _ => none
  | .ori _ _ _ => none
  | .xori _ _ _ => none
  | .shli _ _ _ => none
  | .shri _ _ _ => none
  | .shai _ _ _ => none
  | .roti _ _ _ => none
  | .bfx _ _ wd pos => refuse .badValue (64 < pos.toNat + wd.toNat + 1)
  | .bfi _ _ wd pos => refuse .badValue (64 < pos.toNat + wd.toNat + 1)
  | .li _ _ => none
  | .lih _ _ => none
  | .lix _ _ _ => none
  | .csrr _ c => refuse .badValue (!csrAssigned c.toNat)
  | .csrw _ _ c => refuse .badValue (!csrAssigned c.toNat)
  | .csrs _ _ c => refuse .badValue (!csrAssigned c.toNat)
  | .csrc _ _ c => refuse .badValue (!csrAssigned c.toNat)
  | .beq _ _ _ _ => none
  | .bne _ _ _ _ => none
  | .blt _ _ _ _ => none
  | .bge _ _ _ _ => none
  | .bltu _ _ _ _ => none
  | .bgeu _ _ _ _ => none
  | .jal _ _ _ => none
  | .jalr _ _ _ => none
  | .nop => none
  | .trap _ => none
  | .brk => none
  | .eret => none
  | .sleep _ => none
  | .fenceI => none
  | .qcfg _ => none
  | .cxsave _ => none
  | .cxload _ => none
  | .ldb _ _ ord scope _ _ => firstOf [loadOrdProblem ord, scopeProblem scope]
  | .ldbu _ _ ord scope _ _ => firstOf [loadOrdProblem ord, scopeProblem scope]
  | .ldh _ _ ord scope _ _ => firstOf [loadOrdProblem ord, scopeProblem scope]
  | .ldhu _ _ ord scope _ _ => firstOf [loadOrdProblem ord, scopeProblem scope]
  | .ldw _ _ ord scope _ _ => firstOf [loadOrdProblem ord, scopeProblem scope]
  | .ldwu _ _ ord scope _ _ => firstOf [loadOrdProblem ord, scopeProblem scope]
  | .ldd _ _ ord scope _ _ => firstOf [loadOrdProblem ord, scopeProblem scope]
  | .ldq d _ ord scope _ _ => firstOf [loadOrdProblem ord, scopeProblem scope, pairProblem d]
  | .stb _ _ ord scope _ _ => firstOf [storeOrdProblem ord, scopeProblem scope]
  | .sth _ _ ord scope _ _ => firstOf [storeOrdProblem ord, scopeProblem scope]
  | .stw _ _ ord scope _ _ => firstOf [storeOrdProblem ord, scopeProblem scope]
  | .std _ _ ord scope _ _ => firstOf [storeOrdProblem ord, scopeProblem scope]
  | .stq d _ ord scope _ _ => firstOf [storeOrdProblem ord, scopeProblem scope, pairProblem d]
  | .ldx _ _ _ => none
  | .stx _ _ _ => none
  | .amoadd _ _ k b _ scope _ => firstOf [constProblem k b, scopeProblem scope]
  | .amoand _ _ k b _ scope _ => firstOf [constProblem k b, scopeProblem scope]
  | .amoor _ _ k b _ scope _ => firstOf [constProblem k b, scopeProblem scope]
  | .amoxor _ _ k b _ scope _ => firstOf [constProblem k b, scopeProblem scope]
  | .amomin _ _ k b _ scope _ => firstOf [constProblem k b, scopeProblem scope]
  | .amomax _ _ k b _ scope _ => firstOf [constProblem k b, scopeProblem scope]
  | .amominu _ _ k b _ scope _ => firstOf [constProblem k b, scopeProblem scope]
  | .amomaxu _ _ k b _ scope _ => firstOf [constProblem k b, scopeProblem scope]
  | .amoswap _ _ k b _ scope _ => firstOf [constProblem k b, scopeProblem scope]
  | .cas _ _ k b _ scope _ => firstOf [constProblem k b, scopeProblem scope]
  | .redadd _ k b ord scope _ => firstOf [constProblem k b, storeOrdProblem ord, scopeProblem scope]
  | .redmin _ k b ord scope _ => firstOf [constProblem k b, storeOrdProblem ord, scopeProblem scope]
  | .redmax _ k b ord scope _ => firstOf [constProblem k b, storeOrdProblem ord, scopeProblem scope]
  | .redfadd _ _ ord scope _ => firstOf [storeOrdProblem ord, scopeProblem scope]
  | .take _ _ ord scope => firstOf [loadOrdProblem ord, scopeProblem scope]
  | .put _ _ ord scope => firstOf [storeOrdProblem ord, scopeProblem scope]
  | .peek _ _ ord scope => firstOf [loadOrdProblem ord, scopeProblem scope]
  | .feinit _ _ scope _ => refuse .reserved (scope != 0)
  | .fence scope => scopeProblem scope
  | .pref _ _ => none
  | .rflush _ _ => none
  | .rinv _ _ => none
  | .retain _ _ _ => none
  | .unretain _ => none
  | .crdecl _ _ _ elem op => refuse .badValue (4 < elem.toNat || op == 3)
  | .crclr _ => none
  | .waita _ _ _ => none
  | .tld _ _ _ _ => none
  | .tst _ _ _ _ => none
  | .tlds _ _ _ => none
  | .tsts _ _ _ => none
  | .tdld _ _ => none
  | .tdst _ _ => none
  | .tfill _ _ _ _ => none
  | .textr _ _ _ _ => none
  | .tins _ _ _ _ => none
  | .tmov _ _ _ => none
  | .tzero _ _ => none
  | .tadd _ _ _ _ _ fmt f64 => tileProblem arithFormats fmt f64
  | .tsub _ _ _ _ _ fmt f64 => tileProblem arithFormats fmt f64
  | .tmul _ _ _ _ _ fmt f64 => tileProblem arithFormats fmt f64
  | .tfma _ _ _ _ _ fmt f64 => tileProblem floatFormats fmt f64
  | .tmin _ _ _ _ _ fmt f64 => tileProblem arithFormats fmt f64
  | .tmax _ _ _ _ _ fmt f64 => tileProblem arithFormats fmt f64
  | .tabs _ _ _ fmt f64 => tileProblem signedFormats fmt f64
  | .tneg _ _ _ fmt f64 => tileProblem signedFormats fmt f64
  | .trcp _ _ _ fmt f64 => tileProblem floatFormats fmt f64
  | .trsq _ _ _ fmt f64 => tileProblem floatFormats fmt f64
  | .texp2 _ _ _ fmt f64 => tileProblem floatFormats fmt f64
  | .tlog2 _ _ _ fmt f64 => tileProblem floatFormats fmt f64
  | .ttanh _ _ _ fmt f64 => tileProblem floatFormats fmt f64
  | .tcmp _ _ _ _ _ fmt f64 _ => tileProblem arithFormats fmt f64
  | .tsel _ _ _ _ _ fmt f64 => tileProblem arithFormats fmt f64
  | .tand _ _ _ _ _ => none
  | .tor _ _ _ _ _ => none
  | .txor _ _ _ _ _ => none
  | .tnot _ _ _ => none
  | .tshl _ _ _ _ _ fmt => formatProblem shiftFormats fmt
  | .tshr _ _ _ _ _ fmt => formatProblem shiftFormats fmt
  | .tcvt d a src _ fmt f64 _ rm => tcvtProblem d a src fmt f64 rm
  | .tqnt _ _ src _ fmt sat rm => firstOf [rmProblem rm, formatProblem quantSources src, formatProblem quantTargets fmt,
      refuse .badValue (fmt == 7 && !(rm == 0 && sat == 1))]
  | .tdq _ _ src _ fmt _ rm => firstOf [rmProblem rm, formatProblem quantTargets src, formatProblem quantSources fmt]
  | .tred _ _ _ fmt f64 _ => tileProblem arithFormats fmt f64
  | .tscan _ _ _ fmt f64 => tileProblem arithFormats fmt f64
  | .tbcast _ _ _ _ fmt => formatProblem byteFormats fmt
  | .ttrn _ _ fmt => formatProblem plainFormats fmt
  | .tperm _ _ _ _ _ fmt => formatProblem byteFormats fmt
  | .tgath _ _ _ _ _ fmt => formatProblem gatherFormats fmt
  | .tscat _ _ _ _ _ fmt => formatProblem gatherFormats fmt
  | .ttopk _ _ _ _ fmt => formatProblem arithFormats fmt
  | .tnoise _ _ _ fmt => formatProblem quantSources fmt
  | .mma _ ta ha wm _ mode fmta => firstOf [macroProblem wm, refuse .badValue (mode == 3),
      refuse .badGroup (fmta == 7 && ha == 0 && ta.toNat % 2 == 1)]
  | .mmaz _ ta ha wm _ mode fmta => firstOf [macroProblem wm, refuse .badValue (mode == 3),
      refuse .badGroup (fmta == 7 && ha == 0 && ta.toNat % 2 == 1)]
  | .wld g _ _ => macroProblem g
  | .wldh g _ _ => macroProblem g
  | .wclr g => macroProblem g
  | .aprom _ => none
  | .aclr _ => none
  | .amov _ _ => none
  | .aadd _ _ => none
  | .ald _ _ => none
  | .ast _ _ => none
  | .acvt g fmt _ rm _ => firstOf [rmProblem rm, refuse .badValue (fmt == 7), acvtTileProblem g fmt]
  | .aepi _ _ _ => none
  | .mstat _ _ => none
  | .copy _ a _ scope fl => firstOf [refuse .badValue (fl.toNat % 4 == 3), scopeProblem scope, pairProblem a]
  | .copys _ _ _ scope fl => firstOf [refuse .badValue (fl.toNat % 4 == 3), scopeProblem scope]
  | .jwait _ _ => none
  | .jpoll _ _ => none
  | .subscr _ _ _ => none
  | .unsub _ _ _ => none
  | .spub _ _ => none
  | .hcfg a _ => pairProblem a
  | .hwait _ _ _ => none
  | .hadvc _ _ _ => none
  | .hadvp _ _ _ => none
  | .binit _ _ _ => none
  | .barv _ _ _ => none
  | .bexp _ _ _ => none
  | .bwait _ _ _ => none
  | .binv _ _ => none
  | .wbara _ _ _ => none
  | .wbarw _ _ _ => none
  | .wbmask _ => none
  | .rnginit _ => none
  | .rngget d _ => pairProblem d
  | .spawn _ _ _ => none
  | .join _ _ => none
  | .evpost _ _ _ => none
  | .treeld _ _ _ => none
  | .cbind _ _ => none
  | .cedit _ _ => none
  | .cunbind _ _ => none
  | .cwopen _ _ _ => none
  | .cwpub _ _ _ => none
  | .cappend _ _ _ => none
  | .vopen _ _ => none
  | .vclose _ _ => none
  | .crd g _ _ _ => pairProblem g
  | .cfence _ _ _ => none
  | .cstat g _ => pairProblem g
  | .crevoke _ a => pairProblem a
  | .sxopen _ _ => none
  | .sxapp _ _ _ => none
  | .sxqry _ _ _ => none
  | .sxsave _ _ _ => none
  | .sxload _ _ => none
  | .sxfree _ _ => none
  | .sxstat d _ => pairProblem d
  | .rbegin _ _ _ => none
  | .rend => none
  | .rabort => none
  | .clkreq _ _ => none
  | .exti _ _ => none
  | .exts _ _ => none
  | .nop16 => none
  | .add16 _ _ => none
  | .sub16 _ _ => none
  | .and16 _ _ => none
  | .or16 _ _ => none
  | .xor16 _ _ => none
  | .shl16 _ _ => none
  | .shr16 _ _ => none
  | .sha16 _ _ => none
  | .addi16 _ _ => none
  | .li16 _ _ => none
  | .shli16 _ _ => none
  | .shri16 _ _ => none
  | .shai16 _ _ => none
  | .ldw16 _ _ _ => none
  | .stw16 _ _ _ => none
  | .ldd16 _ _ _ => none
  | .std16 _ _ _ => none
  | .beqz _ _ _ => none
  | .bnez _ _ _ => none
  | .jalr16 _ _ _ => none
  | .takeInterrupt _ => none
  | .deferredTrap _ => none
  | .timerExpire _ => none
  | .waitaTimeout _ => none
  | .commitQueuePerform _ => none
  | .regionMoveCommitted _ => none
  | .homeArrive _ _ => none
  | .homePerformWrite _ => none
  | .homeLoad _ _ => none
  | .leaseExpire _ _ => none
  | .remoteAccessArrive _ => none
  | .bankTake _ => none
  | .bankPeek _ => none
  | .bankPut _ => none
  | .bankInit _ => none
  | .bankBinit _ => none
  | .bankBarv _ => none
  | .bankBexp _ => none
  | .bankBwait _ => none
  | .bankBinv _ => none
  | .barCompletion _ => none
  | .writebackRequest _ _ => none
  | .writebackGrant _ _ => none
  | .writebackCancel _ _ => none
  | .writebackData _ _ => none
  | .recall _ _ => none
  | .partialSpill _ => none
  | .copyJobDispatch _ _ => none
  | .copyJobComplete _ _ => none
  | .streamAccept _ => none
  | .streamDeliver _ => none
  | .matrixJobStart _ => none
  | .matrixJobComplete _ _ => none
  | .weightJobStart _ => none
  | .weightJobComplete _ => none
  | .tileUnitDispatch _ => none
  | .walkerCommandDone _ _ => none
  | .sheetPublish _ => none
  | .staleMark _ => none
  | .cellDispatch _ _ => none
  | .taskComplete _ => none
  | .cellMarkFresh _ _ => none
  | .appendPrefixCopy _ _ => none
  | .ringTickInterrupt _ => none
  | .teamPlace _ _ _ _ _ _ => none
  | .teamStart _ => none
  | .herdStart _ _ => none
  | .taskAge _ => none
  | .spatialPreempt _ _ _ _ _ _ => none
  | .herdsReturn _ => none
  | .sliceExpire _ => none
  | .teamResume _ => none
  | .teamFinish _ => none
  | .rangeRequest _ => none
  | .kidComplete _ => none
  | .wbarArrive _ => none
  | .arbiterEvaluate => none
  | .grantRaiseHerd _ => none
  | .suffixRebuildDone _ => none
  | .uncorrectableError _ _ _ => none
  | .macroScrub _ _ => none
  | .patrolScrub _ _ _ => none
  | .containmentStart _ _ _ => none
  | .containmentFenceLift _ => none
  | .routerFailure _ _ _ => none
  | .transactionCrcFail _ => none
  | .readResponseCrcFail _ _ => none
  | .linkFlitError _ _ _ => none
  | .remoteTimeout _ _ => none
  | .hostMemAccess _ _ _ _ => none
  | .spdmRequest _ _ => none
  | .powerOn => none
  | .thermalPoll _ _ => none
  | .thermalShutdown _ => none
  | .sheetnew _ => none
  | .sheetdel _ => none
  | .launch _ => none
  | .teamend _ => none
  | .teamstatRead _ => none
  | .teamstatWrite _ => none
  | .shoot _ => none
  | .faultend _ => none
  | .qplace _ => none
  | .dieregRead _ => none
  | .dieregWrite _ => none
  | .qslice _ => none
  | .suffixIndexPlace _ => none
  | .suffixMailboxPlace _ => none
  | .suffixRingAssign _ => none
  | .power _ => none
  | .doorbell _ => none
  | .wbgroup _ => none
  | .boot _ => none
  | .debugStop _ => none
  | .debugResume _ => none
  | .debugStep _ => none
  | .svRetain _ => none
  | .svUnretain _ => none
  | .peerset _ => none
  | .channelSheetCommand _ => none
  | .channelSuffixCommand _ => none
  | .commandDone _ => none
  | .ringConfigWrite _ _ => none
  | .queueConsumerWrite _ _ => none
  | .registerWrite _ _ => none
  | .illegalInstruction _ _ _ _ => none
  | .instructionFetchFault _ _ _ => none
  | .targetAcknowledgement _ _ _ _ => none
  | .networkBootFrame _ => none

/-- A well-formed instruction: every field value is one that the spec accepts. -/
def Instr.wf (i : Instr) : Bool := i.problem == none

/-- The instructions that only supervisor mode may execute (R179, R180, R184, R189). -/
def Instr.supervisorOnly : Instr → Bool
  | .eret | .cxsave _ | .cxload _ | .retain _ _ _ | .unretain _ | .crevoke _ _ => true
  | .csrr _ c | .csrw _ _ c | .csrs _ _ c | .csrc _ _ c => csrSupervisor c.toNat
  | _ => false

end Sys2Proof
end

