-- ==== Sys2Proof/Decode.lean ====
section
/-!
DEFINITION. Decoding (R160 to R187): from the bytes at the program counter to an instruction, or to the reason of R187 why they
are none.  Total on every list of bytes.  The encoder stands after the decoder, written from the same tables.
-/

namespace Sys2Proof

/-- What a word decodes to: an instruction, or a reason, with whether the function code is a supervisor-only one (R187 ranks
sub-code 0x06 above the field checks). -/
inductive Decoded where
  | ok (i : Instr)
  | bad (r : Reject) (supervisor : Bool)
  deriving DecidableEq, Repr

/-- The instruction `i` read from `w`: the reserved ranges must be 0, and the fields must be accepted (R164, R185). -/
def form (w : Nat) (zero : List (Nat × Nat)) (i : Instr) : Decoded :=
  if zero.all (fun p => bits w p.1 p.2 == 0) then
    match i.problem with
    | none => .ok i
    | some r => .bad r i.supervisorOnly
  else .bad .reserved i.supervisorOnly

/-- The same, where a field that is no operand must hold one value, or is a field value not accepted (R175, R231, R265). -/
def formIf (w : Nat) (zero : List (Nat × Nat)) (fixed : Bool) (i : Instr) : Decoded :=
  match form w zero i with
  | .ok j => if fixed then .ok j else .bad .badValue i.supervisorOnly
  | .bad .reserved sup => .bad .reserved sup
  | .bad r sup => if fixed then .bad r sup else .bad .badValue sup

/-- ALU (R176). -/
def decodeAlu (w : Nat) : Decoded :=
  match bits w 9 2 with
  | 0x7 => form w [] (.addx (fld w 21) (fld w 17) (fld w 16) (fld w 10) (fld w 0))
  | 0x9 => if bits w 1 0 == 3 then .bad .unassigned false else form w [(16, 10)] (.sext (fld w 21) (fld w 17) (fld w 0))
  | 0xa => if bits w 1 0 == 3 then .bad .unassigned false else form w [(16, 10)] (.zext (fld w 21) (fld w 17) (fld w 0))
  | _ =>
    match bits w 9 0 with
    | 0x0 => form w [] (.add (fld w 21) (fld w 17) (fld w 16) (fld w 10))
    | 0x1 => form w [] (.sub (fld w 21) (fld w 17) (fld w 16) (fld w 10))
    | 0x2 => form w [] (.mul (fld w 21) (fld w 17) (fld w 16) (fld w 10))
    | 0x3 => form w [] (.mulh (fld w 21) (fld w 17) (fld w 16) (fld w 10))
    | 0x4 => form w [] (.mulhu (fld w 21) (fld w 17) (fld w 16) (fld w 10))
    | 0x5 => form w [] (.div (fld w 21) (fld w 17) (fld w 16) (fld w 10))
    | 0x6 => form w [] (.divu (fld w 21) (fld w 17) (fld w 16) (fld w 10))
    | 0x7 => form w [] (.rem (fld w 21) (fld w 17) (fld w 16) (fld w 10))
    | 0x8 => form w [] (.remu (fld w 21) (fld w 17) (fld w 16) (fld w 10))
    | 0x9 => form w [] (.and (fld w 21) (fld w 17) (fld w 16) (fld w 10))
    | 0xa => form w [] (.or (fld w 21) (fld w 17) (fld w 16) (fld w 10))
    | 0xb => form w [] (.xor (fld w 21) (fld w 17) (fld w 16) (fld w 10))
    | 0xc => form w [] (.shl (fld w 21) (fld w 17) (fld w 16) (fld w 10))
    | 0xd => form w [] (.shr (fld w 21) (fld w 17) (fld w 16) (fld w 10))
    | 0xe => form w [] (.sha (fld w 21) (fld w 17) (fld w 16) (fld w 10))
    | 0xf => form w [] (.rot (fld w 21) (fld w 17) (fld w 16) (fld w 10))
    | 0x10 => form w [] (.min (fld w 21) (fld w 17) (fld w 16) (fld w 10))
    | 0x11 => form w [] (.max (fld w 21) (fld w 17) (fld w 16) (fld w 10))
    | 0x12 => form w [] (.minu (fld w 21) (fld w 17) (fld w 16) (fld w 10))
    | 0x13 => form w [] (.maxu (fld w 21) (fld w 17) (fld w 16) (fld w 10))
    | 0x14 => form w [] (.slt (fld w 21) (fld w 17) (fld w 16) (fld w 10))
    | 0x15 => form w [] (.sltu (fld w 21) (fld w 17) (fld w 16) (fld w 10))
    | 0x16 => form w [] (.seq (fld w 21) (fld w 17) (fld w 16) (fld w 10))
    | 0x17 => form w [] (.cmov (fld w 21) (fld w 17) (fld w 16) (fld w 10))
    | 0x18 => form w [] (.addw (fld w 21) (fld w 17) (fld w 16) (fld w 10))
    | 0x19 => form w [] (.subw (fld w 21) (fld w 17) (fld w 16) (fld w 10))
    | 0x1a => form w [] (.madd (fld w 21) (fld w 17) (fld w 16) (fld w 10))
    | 0x20 => form w [(16, 10)] (.clz (fld w 21) (fld w 17))
    | 0x21 => form w [(16, 10)] (.ctz (fld w 21) (fld w 17))
    | 0x22 => form w [(16, 10)] (.popc (fld w 21) (fld w 17))
    | 0x23 => form w [(16, 10)] (.bswap (fld w 21) (fld w 17))
    | _ => .bad .unassigned false

/-- FLT (R177). -/
def decodeFlt (w : Nat) : Decoded :=
  match bits w 9 5 with
  | 0x0 => form w [] (.fadd (fld w 21) (fld w 17) (fld w 16) (fld w 10) (fld w 4) (fld w 1) (fld w 0))
  | 0x1 => form w [] (.fsub (fld w 21) (fld w 17) (fld w 16) (fld w 10) (fld w 4) (fld w 1) (fld w 0))
  | 0x2 => form w [] (.fmul (fld w 21) (fld w 17) (fld w 16) (fld w 10) (fld w 4) (fld w 1) (fld w 0))
  | 0x3 => form w [] (.ffma (fld w 21) (fld w 17) (fld w 16) (fld w 10) (fld w 4) (fld w 1) (fld w 0))
  | 0x4 => form w [] (.fdiv (fld w 21) (fld w 17) (fld w 16) (fld w 10) (fld w 4) (fld w 1) (fld w 0))
  | 0x5 => form w [(16, 10)] (.fsqrt (fld w 21) (fld w 17) (fld w 4) (fld w 1) (fld w 0))
  | 0x6 => form w [(3, 0)] (.fmin (fld w 21) (fld w 17) (fld w 16) (fld w 10) (fld w 4))
  | 0x7 => form w [(3, 0)] (.fmax (fld w 21) (fld w 17) (fld w 16) (fld w 10) (fld w 4))
  | 0x8 => form w [(3, 3), (0, 0)] (.fcmp (fld w 21) (fld w 17) (fld w 16) (fld w 10) (fld w 4) (fld w 1))
  | 0x9 => form w [(16, 16), (4, 4)] (.fcvt (fld w 21) (fld w 17) (fld w 13) (fld w 10) (fld w 1) (fld w 0))
  | 0xa => form w [(16, 10), (3, 0)] (.fclass (fld w 21) (fld w 17) (fld w 4))
  | 0xb => form w [(3, 0)] (.fsgnj (fld w 21) (fld w 17) (fld w 16) (fld w 10) (fld w 4))
  | 0xc => form w [(3, 0)] (.fsgnjn (fld w 21) (fld w 17) (fld w 16) (fld w 10) (fld w 4))
  | 0xd => form w [(3, 0)] (.fsgnjx (fld w 21) (fld w 17) (fld w 16) (fld w 10) (fld w 4))
  | _ => .bad .unassigned false

/-- SHI (R178). -/
def decodeShi (w : Nat) : Decoded :=
  match bits w 7 6 with
  | 0x0 => form w [(16, 8)] (.shli (fld w 21) (fld w 17) (fld w 0))
  | 0x1 => form w [(16, 8)] (.shri (fld w 21) (fld w 17) (fld w 0))
  | 0x2 => form w [(16, 8)] (.shai (fld w 21) (fld w 17) (fld w 0))
  | _ => form w [(16, 8)] (.roti (fld w 21) (fld w 17) (fld w 0))

/-- BITF (R178). -/
def decodeBitf (w : Nat) : Decoded :=
  match bits w 16 16 with
  | 0x0 => form w [(15, 12)] (.bfx (fld w 21) (fld w 17) (fld w 6) (fld w 0))
  | _ => form w [(15, 12)] (.bfi (fld w 21) (fld w 17) (fld w 6) (fld w 0))

/-- CSR (R178, R193). -/
def decodeCsr (w : Nat) : Decoded :=
  match bits w 16 15 with
  | 0x0 => form w [(20, 17), (14, 12)] (.csrr (fld w 21) (fld w 0))
  | 0x1 => form w [(14, 12)] (.csrw (fld w 21) (fld w 17) (fld w 0))
  | 0x2 => form w [(14, 12)] (.csrs (fld w 21) (fld w 17) (fld w 0))
  | _ => form w [(14, 12)] (.csrc (fld w 21) (fld w 17) (fld w 0))

/-- SYS (R179). -/
def decodeSys (w : Nat) : Decoded :=
  match bits w 9 0 with
  | 0x0 => form w [(24, 10)] .nop
  | 0x1 => form w [(24, 21), (16, 10)] (.trap (fld w 17))
  | 0x2 => form w [(24, 10)] .brk
  | 0x3 => form w [(24, 10)] .eret
  | 0x4 => form w [(24, 21), (16, 10)] (.sleep (fld w 17))
  | 0x5 => form w [(24, 10)] .fenceI
  | 0x6 => form w [(24, 21), (16, 10)] (.qcfg (fld w 17))
  | 0x7 => form w [(24, 21), (16, 10)] (.cxsave (fld w 17))
  | 0x8 => form w [(24, 21), (16, 10)] (.cxload (fld w 17))
  | _ => .bad .unassigned false

/-- MIDX (R179). -/
def decodeMidx (w : Nat) : Decoded :=
  match bits w 9 0 with
  | 0x0 => form w [(16, 14)] (.ldx (fld w 21) (fld w 17) (fld w 10))
  | 0x1 => form w [(16, 14)] (.stx (fld w 21) (fld w 17) (fld w 10))
  | _ => .bad .unassigned false

/-- AMO (R180). -/
def decodeAmo (w : Nat) : Decoded :=
  match bits w 3 0 with
  | 0x0 => form w [] (.amoadd (fld w 21) (fld w 17) (fld w 16) (fld w 10) (fld w 8) (fld w 5) (fld w 4))
  | 0x1 => form w [] (.amoand (fld w 21) (fld w 17) (fld w 16) (fld w 10) (fld w 8) (fld w 5) (fld w 4))
  | 0x2 => form w [] (.amoor (fld w 21) (fld w 17) (fld w 16) (fld w 10) (fld w 8) (fld w 5) (fld w 4))
  | 0x3 => form w [] (.amoxor (fld w 21) (fld w 17) (fld w 16) (fld w 10) (fld w 8) (fld w 5) (fld w 4))
  | 0x4 => form w [] (.amomin (fld w 21) (fld w 17) (fld w 16) (fld w 10) (fld w 8) (fld w 5) (fld w 4))
  | 0x5 => form w [] (.amomax (fld w 21) (fld w 17) (fld w 16) (fld w 10) (fld w 8) (fld w 5) (fld w 4))
  | 0x6 => form w [] (.amominu (fld w 21) (fld w 17) (fld w 16) (fld w 10) (fld w 8) (fld w 5) (fld w 4))
  | 0x7 => form w [] (.amomaxu (fld w 21) (fld w 17) (fld w 16) (fld w 10) (fld w 8) (fld w 5) (fld w 4))
  | 0x8 => form w [] (.amoswap (fld w 21) (fld w 17) (fld w 16) (fld w 10) (fld w 8) (fld w 5) (fld w 4))
  | 0x9 => form w [] (.cas (fld w 21) (fld w 17) (fld w 16) (fld w 10) (fld w 8) (fld w 5) (fld w 4))
  | 0xa => form w [(24, 21)] (.redadd (fld w 17) (fld w 16) (fld w 10) (fld w 8) (fld w 5) (fld w 4))
  | 0xb => form w [(24, 21)] (.redmin (fld w 17) (fld w 16) (fld w 10) (fld w 8) (fld w 5) (fld w 4))
  | 0xc => form w [(24, 21)] (.redmax (fld w 17) (fld w 16) (fld w 10) (fld w 8) (fld w 5) (fld w 4))
  | 0xd => form w [(24, 21), (16, 14)] (.redfadd (fld w 17) (fld w 10) (fld w 8) (fld w 5) (fld w 4))
  | _ => .bad .unassigned false

/-- FE (R180, R231). -/
def decodeFe (w : Nat) : Decoded :=
  match bits w 1 0 with
  | 0x0 => form w [(16, 10), (4, 2)] (.take (fld w 21) (fld w 17) (fld w 8) (fld w 5))
  | 0x1 => form w [(24, 21), (16, 14), (4, 2)] (.put (fld w 17) (fld w 10) (fld w 8) (fld w 5))
  | 0x2 => form w [(16, 10), (4, 2)] (.peek (fld w 21) (fld w 17) (fld w 8) (fld w 5))
  | _ => formIf w [(24, 21), (16, 14), (4, 3)] (bits w 9 8 == 0) (.feinit (fld w 17) (fld w 10) (fld w 5) (fld w 2))

/-- MCTL (R180). -/
def decodeMctl (w : Nat) : Decoded :=
  match bits w 9 5 with
  | 0x0 => form w [(24, 10), (1, 0)] (.fence (fld w 2))
  | 0x1 => form w [(24, 21), (16, 14), (4, 0)] (.pref (fld w 17) (fld w 10))
  | 0x2 => form w [(24, 21), (16, 14), (4, 0)] (.rflush (fld w 17) (fld w 10))
  | 0x3 => form w [(24, 21), (16, 14), (4, 0)] (.rinv (fld w 17) (fld w 10))
  | 0x4 => form w [(16, 14), (4, 0)] (.retain (fld w 21) (fld w 17) (fld w 10))
  | 0x5 => form w [(24, 21), (16, 10), (4, 0)] (.unretain (fld w 17))
  | 0x6 => form w [(16, 14)] (.crdecl (fld w 21) (fld w 17) (fld w 10) (fld w 2) (fld w 0))
  | 0x7 => form w [(24, 21), (16, 10), (4, 0)] (.crclr (fld w 17))
  | 0x8 => form w [(16, 14), (4, 0)] (.waita (fld w 21) (fld w 17) (fld w 10))
  | _ => .bad .unassigned false

/-- TMEM (R181). -/
def decodeTmem (w : Nat) : Decoded :=
  match bits w 5 0 with
  | 0x0 => form w [(24, 24)] (.tld (fld w 21) (fld w 13) (fld w 9) (fld w 6))
  | 0x1 => form w [(24, 24)] (.tst (fld w 21) (fld w 13) (fld w 9) (fld w 6))
  | 0x2 => form w [(24, 24), (20, 13)] (.tlds (fld w 21) (fld w 9) (fld w 6))
  | 0x3 => form w [(24, 24), (20, 13)] (.tsts (fld w 21) (fld w 9) (fld w 6))
  | 0x4 => form w [(24, 21), (8, 6)] (.tdld (fld w 13) (fld w 9))
  | 0x5 => form w [(24, 21), (8, 6)] (.tdst (fld w 13) (fld w 9))
  | 0x6 => form w [(24, 24), (16, 13)] (.tfill (fld w 21) (fld w 17) (fld w 9) (fld w 6))
  | 0x7 => form w [(12, 12), (8, 6)] (.textr (fld w 21) (fld w 17) (fld w 13) (fld w 9))
  | 0x8 => form w [(24, 24), (8, 6)] (.tins (fld w 21) (fld w 17) (fld w 13) (fld w 9))
  | _ => .bad .unassigned false

/-- TOP (R182). -/
def decodeTop (w : Nat) : Decoded :=
  match bits w 6 2 with
  | 0x6 => form w [] (.tcmp (fld w 22) (fld w 19) (fld w 18) (fld w 15) (fld w 12) (fld w 8) (fld w 7) (fld w 0))
  | 0x18 => form w [(18, 15)] (.tred (fld w 22) (fld w 19) (fld w 12) (fld w 8) (fld w 7) (fld w 0))
  | _ =>
    match bits w 6 4 with
    | 0x3 => form w [] (.tcvt (fld w 22) (fld w 19) (fld w 15) (fld w 12) (fld w 8) (fld w 7) (fld w 3) (fld w 0))
    | 0x4 => form w [(7, 7)] (.tqnt (fld w 22) (fld w 19) (fld w 15) (fld w 12) (fld w 8) (fld w 3) (fld w 0))
    | 0x5 => form w [(7, 7)] (.tdq (fld w 22) (fld w 19) (fld w 15) (fld w 12) (fld w 8) (fld w 3) (fld w 0))
    | _ =>
      match bits w 6 0 with
      | 0x0 => form w [(18, 15), (11, 7)] (.tmov (fld w 22) (fld w 19) (fld w 12))
      | 0x1 => form w [(21, 15), (11, 7)] (.tzero (fld w 22) (fld w 12))
      | 0x8 => form w [] (.tadd (fld w 22) (fld w 19) (fld w 18) (fld w 15) (fld w 12) (fld w 8) (fld w 7))
      | 0x9 => form w [] (.tsub (fld w 22) (fld w 19) (fld w 18) (fld w 15) (fld w 12) (fld w 8) (fld w 7))
      | 0xa => form w [] (.tmul (fld w 22) (fld w 19) (fld w 18) (fld w 15) (fld w 12) (fld w 8) (fld w 7))
      | 0xb => form w [] (.tfma (fld w 22) (fld w 19) (fld w 18) (fld w 15) (fld w 12) (fld w 8) (fld w 7))
      | 0xc => form w [] (.tmin (fld w 22) (fld w 19) (fld w 18) (fld w 15) (fld w 12) (fld w 8) (fld w 7))
      | 0xd => form w [] (.tmax (fld w 22) (fld w 19) (fld w 18) (fld w 15) (fld w 12) (fld w 8) (fld w 7))
      | 0xe => form w [(18, 15)] (.tabs (fld w 22) (fld w 19) (fld w 12) (fld w 8) (fld w 7))
      | 0xf => form w [(18, 15)] (.tneg (fld w 22) (fld w 19) (fld w 12) (fld w 8) (fld w 7))
      | 0x10 => form w [(18, 15)] (.trcp (fld w 22) (fld w 19) (fld w 12) (fld w 8) (fld w 7))
      | 0x11 => form w [(18, 15)] (.trsq (fld w 22) (fld w 19) (fld w 12) (fld w 8) (fld w 7))
      | 0x12 => form w [(18, 15)] (.texp2 (fld w 22) (fld w 19) (fld w 12) (fld w 8) (fld w 7))
      | 0x13 => form w [(18, 15)] (.tlog2 (fld w 22) (fld w 19) (fld w 12) (fld w 8) (fld w 7))
      | 0x14 => form w [(18, 15)] (.ttanh (fld w 22) (fld w 19) (fld w 12) (fld w 8) (fld w 7))
      | 0x1c => form w [] (.tsel (fld w 22) (fld w 19) (fld w 18) (fld w 15) (fld w 12) (fld w 8) (fld w 7))
      | 0x20 => form w [(11, 7)] (.tand (fld w 22) (fld w 19) (fld w 18) (fld w 15) (fld w 12))
      | 0x21 => form w [(11, 7)] (.tor (fld w 22) (fld w 19) (fld w 18) (fld w 15) (fld w 12))
      | 0x22 => form w [(11, 7)] (.txor (fld w 22) (fld w 19) (fld w 18) (fld w 15) (fld w 12))
      | 0x23 => form w [(18, 15), (11, 7)] (.tnot (fld w 22) (fld w 19) (fld w 12))
      | 0x24 => form w [(7, 7)] (.tshl (fld w 22) (fld w 19) (fld w 18) (fld w 15) (fld w 12) (fld w 8))
      | 0x25 => form w [(7, 7)] (.tshr (fld w 22) (fld w 19) (fld w 18) (fld w 15) (fld w 12) (fld w 8))
      | 0x64 => form w [(18, 15)] (.tscan (fld w 22) (fld w 19) (fld w 12) (fld w 8) (fld w 7))
      | 0x65 => form w [(18, 16), (7, 7)] (.tbcast (fld w 22) (fld w 19) (fld w 15) (fld w 12) (fld w 8))
      | 0x66 => formIf w [(18, 15), (7, 7)] (bits w 14 12 == 7) (.ttrn (fld w 22) (fld w 19) (fld w 8))
      | 0x67 => form w [(7, 7)] (.tperm (fld w 22) (fld w 19) (fld w 18) (fld w 15) (fld w 12) (fld w 8))
      | 0x68 => form w [(7, 7)] (.tgath (fld w 22) (fld w 19) (fld w 18) (fld w 15) (fld w 12) (fld w 8))
      | 0x69 => form w [(7, 7)] (.tscat (fld w 22) (fld w 19) (fld w 18) (fld w 15) (fld w 12) (fld w 8))
      | 0x6a => form w [(18, 18), (7, 7)] (.ttopk (fld w 22) (fld w 19) (fld w 15) (fld w 12) (fld w 8))
      | 0x6b => form w [(18, 15), (7, 7)] (.tnoise (fld w 22) (fld w 19) (fld w 12) (fld w 8))
      | _ => .bad .unassigned false

/-- MMA (R183). -/
def decodeMma (w : Nat) : Decoded :=
  match bits w 4 0 with
  | 0x0 => form w [] (.mma (fld w 23) (fld w 20) (fld w 19) (fld w 15) (fld w 11) (fld w 9) (fld w 5))
  | 0x1 => form w [] (.mmaz (fld w 23) (fld w 20) (fld w 19) (fld w 15) (fld w 11) (fld w 9) (fld w 5))
  | _ => .bad .unassigned false

/-- MX (R181). -/
def decodeMx (w : Nat) : Decoded :=
  match bits w 8 0 with
  | 0x0 => form w [] (.wld (fld w 21) (fld w 13) (fld w 9))
  | 0x1 => form w [(16, 16), (12, 9)] (.wldh (fld w 21) (fld w 17) (fld w 13))
  | 0x2 => form w [(20, 9)] (.wclr (fld w 21))
  | 0x3 => form w [(24, 23), (20, 9)] (.aprom (fld w 21))
  | 0x4 => form w [(24, 23), (20, 9)] (.aclr (fld w 21))
  | 0x5 => form w [(24, 23), (20, 11)] (.amov (fld w 21) (fld w 9))
  | 0x6 => form w [(24, 23), (20, 11)] (.aadd (fld w 21) (fld w 9))
  | 0x7 => form w [(24, 23), (20, 13)] (.ald (fld w 21) (fld w 9))
  | 0x8 => form w [(24, 23), (20, 13)] (.ast (fld w 21) (fld w 9))
  | 0x9 => form w [(12, 11)] (.acvt (fld w 21) (fld w 17) (fld w 16) (fld w 13) (fld w 9))
  | 0xa => form w [(24, 23)] (.aepi (fld w 21) (fld w 13) (fld w 9))
  | 0xb => form w [(20, 11)] (.mstat (fld w 21) (fld w 9))
  | _ => .bad .unassigned false

/-- ENG (R184). -/
def decodeEng (w : Nat) : Decoded :=
  match bits w 4 0 with
  | 0x0 => form w [] (.copy (fld w 21) (fld w 17) (fld w 13) (fld w 10) (fld w 5))
  | 0x1 => form w [] (.copys (fld w 21) (fld w 17) (fld w 13) (fld w 10) (fld w 5))
  | 0x2 => form w [(16, 5)] (.jwait (fld w 21) (fld w 17))
  | 0x3 => form w [(16, 5)] (.jpoll (fld w 21) (fld w 17))
  | 0x4 => form w [(16, 16), (12, 5)] (.subscr (fld w 21) (fld w 17) (fld w 13))
  | 0x5 => form w [(16, 16), (12, 5)] (.unsub (fld w 21) (fld w 17) (fld w 13))
  | 0x6 => form w [(24, 21), (16, 16), (12, 5)] (.spub (fld w 17) (fld w 13))
  | 0x7 => form w [(24, 21), (16, 16), (12, 5)] (.hcfg (fld w 17) (fld w 13))
  | 0x8 => form w [(16, 16), (12, 5)] (.hwait (fld w 21) (fld w 17) (fld w 13))
  | 0x9 => form w [(16, 16), (12, 5)] (.hadvc (fld w 21) (fld w 17) (fld w 13))
  | 0xa => form w [(16, 16), (12, 5)] (.hadvp (fld w 21) (fld w 17) (fld w 13))
  | _ => .bad .unassigned false

/-- SYNC (R184). -/
def decodeSync (w : Nat) : Decoded :=
  match bits w 4 0 with
  | 0x0 => form w [(12, 5)] (.binit (fld w 21) (fld w 17) (fld w 13))
  | 0x1 => form w [(12, 5)] (.barv (fld w 21) (fld w 17) (fld w 13))
  | 0x2 => form w [(12, 5)] (.bexp (fld w 21) (fld w 17) (fld w 13))
  | 0x3 => form w [(12, 5)] (.bwait (fld w 21) (fld w 17) (fld w 13))
  | 0x4 => form w [(16, 5)] (.binv (fld w 21) (fld w 17))
  | 0x5 => form w [(12, 5)] (.wbara (fld w 21) (fld w 17) (fld w 13))
  | 0x6 => form w [(12, 5)] (.wbarw (fld w 21) (fld w 17) (fld w 13))
  | 0x7 => form w [(24, 21), (16, 5)] (.wbmask (fld w 17))
  | 0x8 => form w [(24, 21), (16, 5)] (.rnginit (fld w 17))
  | 0x9 => form w [(16, 5)] (.rngget (fld w 21) (fld w 17))
  | 0xa => form w [(12, 5)] (.spawn (fld w 21) (fld w 17) (fld w 13))
  | 0xb => form w [(16, 5)] (.join (fld w 21) (fld w 17))
  | 0xc => form w [(12, 5)] (.evpost (fld w 21) (fld w 17) (fld w 13))
  | 0xd => form w [(12, 5)] (.treeld (fld w 21) (fld w 17) (fld w 13))
  | _ => .bad .unassigned false

/-- SHEET (R184). -/
def decodeSheet (w : Nat) : Decoded :=
  match bits w 4 0 with
  | 0x0 => form w [(20, 13), (8, 5)] (.cbind (fld w 21) (fld w 9))
  | 0x1 => form w [(20, 13), (8, 5)] (.cedit (fld w 21) (fld w 9))
  | 0x2 => form w [(20, 13), (8, 5)] (.cunbind (fld w 21) (fld w 9))
  | 0x3 => form w [(8, 5)] (.cwopen (fld w 21) (fld w 13) (fld w 9))
  | 0x4 => form w [(20, 13), (8, 6)] (.cwpub (fld w 21) (fld w 9) (fld w 5))
  | 0x5 => form w [(20, 19), (8, 5)] (.cappend (fld w 21) (fld w 13) (fld w 9))
  | 0x6 => form w [(20, 13), (8, 5)] (.vopen (fld w 21) (fld w 9))
  | 0x7 => form w [(20, 9)] (.vclose (fld w 21) (fld w 5))
  | 0x8 => form w [] (.crd (fld w 21) (fld w 13) (fld w 9) (fld w 5))
  | 0x9 => form w [(20, 13)] (.cfence (fld w 21) (fld w 9) (fld w 5))
  | 0xa => form w [(20, 13), (8, 5)] (.cstat (fld w 21) (fld w 9))
  | 0xb => form w [(20, 13), (8, 5)] (.crevoke (fld w 21) (fld w 9))
  | _ => .bad .unassigned false

/-- SUFFIX (R184). -/
def decodeSuffix (w : Nat) : Decoded :=
  match bits w 4 0 with
  | 0x0 => form w [(16, 5)] (.sxopen (fld w 21) (fld w 17))
  | 0x1 => form w [(12, 5)] (.sxapp (fld w 21) (fld w 17) (fld w 13))
  | 0x2 => form w [(12, 5)] (.sxqry (fld w 21) (fld w 17) (fld w 13))
  | 0x3 => form w [(12, 5)] (.sxsave (fld w 21) (fld w 17) (fld w 13))
  | 0x4 => form w [(20, 17), (12, 5)] (.sxload (fld w 21) (fld w 13))
  | 0x5 => form w [(16, 5)] (.sxfree (fld w 21) (fld w 17))
  | 0x6 => form w [(16, 5)] (.sxstat (fld w 21) (fld w 17))
  | _ => .bad .unassigned false

/-- RGN (R184). -/
def decodeRgn (w : Nat) : Decoded :=
  match bits w 4 0 with
  | 0x0 => form w [(24, 21), (12, 6)] (.rbegin (fld w 17) (fld w 13) (fld w 5))
  | 0x1 => form w [(24, 5)] .rend
  | 0x2 => form w [(24, 5)] .rabort
  | 0x3 => form w [(16, 5)] (.clkreq (fld w 21) (fld w 17))
  | _ => .bad .unassigned false

/-- A 32-bit instruction word (R160, R162, R174). -/
def decode32 (w : Nat) : Decoded :=
  match bits w 30 25 with
  | 0x0 => decodeAlu w
  | 0x1 => decodeFlt w
  | 0x2 => form w [] (.addi (fld w 21) (fld w 17) (fld w 0))
  | 0x3 => form w [] (.andi (fld w 21) (fld w 17) (fld w 0))
  | 0x4 => form w [] (.ori (fld w 21) (fld w 17) (fld w 0))
  | 0x5 => form w [] (.xori (fld w 21) (fld w 17) (fld w 0))
  | 0x6 => decodeShi w
  | 0x7 => decodeBitf w
  | 0x8 => form w [] (.li (fld w 21) (fld w 0))
  | 0x9 => form w [] (.lih (fld w 21) (fld w 0))
  | 0xa => form w [] (.lix (fld w 21) (fld w 19) (fld w 0))
  | 0xb => decodeCsr w
  | 0xc => form w [] (.beq (fld w 21) (fld w 17) (fld w 15) (fld w 0))
  | 0xd => form w [] (.bne (fld w 21) (fld w 17) (fld w 15) (fld w 0))
  | 0xe => form w [] (.blt (fld w 21) (fld w 17) (fld w 15) (fld w 0))
  | 0xf => form w [] (.bge (fld w 21) (fld w 17) (fld w 15) (fld w 0))
  | 0x10 => form w [] (.bltu (fld w 21) (fld w 17) (fld w 15) (fld w 0))
  | 0x11 => form w [] (.bgeu (fld w 21) (fld w 17) (fld w 15) (fld w 0))
  | 0x12 => form w [] (.jal (fld w 21) (fld w 20) (fld w 0))
  | 0x13 => form w [(16, 1)] (.jalr (fld w 21) (fld w 17) (fld w 0))
  | 0x14 => decodeSys w
  | 0x15 => form w [] (.ldb (fld w 21) (fld w 17) (fld w 15) (fld w 12) (fld w 10) (fld w 0))
  | 0x16 => form w [] (.ldbu (fld w 21) (fld w 17) (fld w 15) (fld w 12) (fld w 10) (fld w 0))
  | 0x17 => form w [] (.ldh (fld w 21) (fld w 17) (fld w 15) (fld w 12) (fld w 10) (fld w 0))
  | 0x18 => form w [] (.ldhu (fld w 21) (fld w 17) (fld w 15) (fld w 12) (fld w 10) (fld w 0))
  | 0x19 => form w [] (.ldw (fld w 21) (fld w 17) (fld w 15) (fld w 12) (fld w 10) (fld w 0))
  | 0x1a => form w [] (.ldwu (fld w 21) (fld w 17) (fld w 15) (fld w 12) (fld w 10) (fld w 0))
  | 0x1b => form w [] (.ldd (fld w 21) (fld w 17) (fld w 15) (fld w 12) (fld w 10) (fld w 0))
  | 0x1c => form w [] (.ldq (fld w 21) (fld w 17) (fld w 15) (fld w 12) (fld w 10) (fld w 0))
  | 0x1d => form w [] (.stb (fld w 21) (fld w 17) (fld w 15) (fld w 12) (fld w 10) (fld w 0))
  | 0x1e => form w [] (.sth (fld w 21) (fld w 17) (fld w 15) (fld w 12) (fld w 10) (fld w 0))
  | 0x1f => form w [] (.stw (fld w 21) (fld w 17) (fld w 15) (fld w 12) (fld w 10) (fld w 0))
  | 0x20 => form w [] (.std (fld w 21) (fld w 17) (fld w 15) (fld w 12) (fld w 10) (fld w 0))
  | 0x21 => form w [] (.stq (fld w 21) (fld w 17) (fld w 15) (fld w 12) (fld w 10) (fld w 0))
  | 0x22 => decodeMidx w
  | 0x23 => decodeAmo w
  | 0x24 => decodeFe w
  | 0x25 => decodeMctl w
  | 0x26 => decodeTmem w
  | 0x27 => decodeTop w
  | 0x28 => decodeMma w
  | 0x29 => decodeMx w
  | 0x2a => decodeEng w
  | 0x2b => decodeSync w
  | 0x2c => decodeSheet w
  | 0x2d => decodeSuffix w
  | 0x2e => decodeRgn w
  | 0x38 => form w [] (.exti (fld w 24) (fld w 0))
  | 0x39 => form w [] (.exti (fld w 24) (fld w 0))
  | 0x3a => form w [] (.exts (fld w 24) (fld w 0))
  | 0x3b => form w [] (.exts (fld w 24) (fld w 0))
  | 0x3f => .bad .definedIllegal false
  | _ => .bad .unassigned false

/-- A 16-bit instruction (R163, R175); the all-zero halfword is illegal by definition (R185, R187), and any other one of OP 0x00, which R175
calls illegal without a sub-code, is taken as unassigned (log 142). -/
noncomputable def decode16 (w : Nat) : Decoded :=
  match bits w 14 10 with
  | 0x00 => .bad (if w % 65536 = 0 then .definedIllegal else .unassigned) false
  | 0x1 => form w [(9, 0)] .nop16
  | 0x2 =>
    match bits w 1 0 with
    | 0x0 => form w [] (.add16 (fld w 6) (fld w 2))
    | 0x1 => form w [] (.sub16 (fld w 6) (fld w 2))
    | 0x2 => form w [] (.and16 (fld w 6) (fld w 2))
    | _ => form w [] (.or16 (fld w 6) (fld w 2))
  | 0x3 =>
    match bits w 1 0 with
    | 0x0 => form w [] (.xor16 (fld w 6) (fld w 2))
    | 0x1 => form w [] (.shl16 (fld w 6) (fld w 2))
    | 0x2 => form w [] (.shr16 (fld w 6) (fld w 2))
    | _ => form w [] (.sha16 (fld w 6) (fld w 2))
  | 0x4 => form w [] (.addi16 (fld w 6) (fld w 0))
  | 0x5 => form w [] (.li16 (fld w 6) (fld w 0))
  | 0x6 => form w [] (.shli16 (fld w 6) (fld w 0))
  | 0x7 => form w [] (.shri16 (fld w 6) (fld w 0))
  | 0x8 => form w [] (.shai16 (fld w 6) (fld w 0))
  | 0x9 => form w [] (.ldw16 (fld w 6) (fld w 2) (fld w 0))
  | 0xa => form w [] (.stw16 (fld w 6) (fld w 2) (fld w 0))
  | 0xb => form w [] (.ldd16 (fld w 6) (fld w 2) (fld w 0))
  | 0xc => form w [] (.std16 (fld w 6) (fld w 2) (fld w 0))
  | 0xd => form w [] (.beqz (fld w 6) (fld w 2) (fld w 0))
  | 0xe => form w [] (.bnez (fld w 6) (fld w 2) (fld w 0))
  | 0xf => formIf w [] (bits w 1 1 == 0) (.jalr16 (fld w 6) (fld w 2) (fld w 0))
  | _ => .bad .unassigned false

/-- Decoding from the halfword at the program counter and the one after it (R160). -/
noncomputable def decodeHalves (h1 h2 : Nat) : Decoded := if h1 < 0x8000 then decode16 h1 else decode32 (h1 * 65536 + h2)

/-- Decoding from bytes in memory order: each halfword little-endian, the first halfword at the lower address (R160).
A list that ends before the instruction does is refused as truncated. -/
noncomputable def decodeBytes : List Byte → Decoded
  | b0 :: b1 :: rest =>
    let h1 := b0.toNat + 256 * b1.toNat
    if h1 < 0x8000 then decode16 h1
    else match rest with
      | b2 :: b3 :: _ => decode32 (h1 * 65536 + (b2.toNat + 256 * b3.toNat))
      | _ => .bad .truncated false
  | _ => .bad .truncated false

/-- The bytes, in memory order, of a 16-bit instruction (R160). -/
def bytes16 (w : Nat) : List Byte := [BitVec.ofNat 8 w, BitVec.ofNat 8 (w / 256)]

/-- The bytes, in memory order, of a 32-bit word W: W<23:16>, W<31:24>, W<7:0>, W<15:8> (R160). -/
def bytes32 (w : Nat) : List Byte := bytes16 (w / 65536) ++ bytes16 w

/-- The bytes of a row of the opcode table: `nbits` is 16 or 32; a shorter row stands in a 32-bit field of zeros. -/
def tableBytes (nbits w : Nat) : List Byte := if nbits ≤ 16 then bytes16 w ++ [0, 0] else bytes32 w

/-- The instruction that the decoder reads from a word numbered as the opcode table numbers it. -/
noncomputable def decodeTableWord (nbits w : Nat) : Option Instr :=
  match decodeBytes (tableBytes nbits w) with
  | .ok i => some i
  | .bad _ _ => none

/-- A word with the given fixed bits and the given values placed at their bits. -/
def place (fixed : Nat) : List (Nat × Nat) → Nat
  | [] => fixed
  | (v, p) :: rest => v * 2 ^ p + place fixed rest

/-- The word of an instruction (R162, R163 and the tables R176 to R184); an event has no word. -/
def encode : Instr → Nat
  | .add d a k b => place 0x80000000 [(d.toNat, 21), (a.toNat, 17), (k.toNat, 16), (b.toNat, 10)]
  | .sub d a k b => place 0x80000001 [(d.toNat, 21), (a.toNat, 17), (k.toNat, 16), (b.toNat, 10)]
  | .mul d a k b => place 0x80000002 [(d.toNat, 21), (a.toNat, 17), (k.toNat, 16), (b.toNat, 10)]
  | .mulh d a k b => place 0x80000003 [(d.toNat, 21), (a.toNat, 17), (k.toNat, 16), (b.toNat, 10)]
  | .mulhu d a k b => place 0x80000004 [(d.toNat, 21), (a.toNat, 17), (k.toNat, 16), (b.toNat, 10)]
  | .div d a k b => place 0x80000005 [(d.toNat, 21), (a.toNat, 17), (k.toNat, 16), (b.toNat, 10)]
  | .divu d a k b => place 0x80000006 [(d.toNat, 21), (a.toNat, 17), (k.toNat, 16), (b.toNat, 10)]
  | .rem d a k b => place 0x80000007 [(d.toNat, 21), (a.toNat, 17), (k.toNat, 16), (b.toNat, 10)]
  | .remu d a k b => place 0x80000008 [(d.toNat, 21), (a.toNat, 17), (k.toNat, 16), (b.toNat, 10)]
  | .and d a k b => place 0x80000009 [(d.toNat, 21), (a.toNat, 17), (k.toNat, 16), (b.toNat, 10)]
  | .or d a k b => place 0x8000000a [(d.toNat, 21), (a.toNat, 17), (k.toNat, 16), (b.toNat, 10)]
  | .xor d a k b => place 0x8000000b [(d.toNat, 21), (a.toNat, 17), (k.toNat, 16), (b.toNat, 10)]
  | .shl d a k b => place 0x8000000c [(d.toNat, 21), (a.toNat, 17), (k.toNat, 16), (b.toNat, 10)]
  | .shr d a k b => place 0x8000000d [(d.toNat, 21), (a.toNat, 17), (k.toNat, 16), (b.toNat, 10)]
  | .sha d a k b => place 0x8000000e [(d.toNat, 21), (a.toNat, 17), (k.toNat, 16), (b.toNat, 10)]
  | .rot d a k b => place 0x8000000f [(d.toNat, 21), (a.toNat, 17), (k.toNat, 16), (b.toNat, 10)]
  | .min d a k b => place 0x80000010 [(d.toNat, 21), (a.toNat, 17), (k.toNat, 16), (b.toNat, 10)]
  | .max d a k b => place 0x80000011 [(d.toNat, 21), (a.toNat, 17), (k.toNat, 16), (b.toNat, 10)]
  | .minu d a k b => place 0x80000012 [(d.toNat, 21), (a.toNat, 17), (k.toNat, 16), (b.toNat, 10)]
  | .maxu d a k b => place 0x80000013 [(d.toNat, 21), (a.toNat, 17), (k.toNat, 16), (b.toNat, 10)]
  | .slt d a k b => place 0x80000014 [(d.toNat, 21), (a.toNat, 17), (k.toNat, 16), (b.toNat, 10)]
  | .sltu d a k b => place 0x80000015 [(d.toNat, 21), (a.toNat, 17), (k.toNat, 16), (b.toNat, 10)]
  | .seq d a k b => place 0x80000016 [(d.toNat, 21), (a.toNat, 17), (k.toNat, 16), (b.toNat, 10)]
  | .cmov d a k b => place 0x80000017 [(d.toNat, 21), (a.toNat, 17), (k.toNat, 16), (b.toNat, 10)]
  | .addw d a k b => place 0x80000018 [(d.toNat, 21), (a.toNat, 17), (k.toNat, 16), (b.toNat, 10)]
  | .subw d a k b => place 0x80000019 [(d.toNat, 21), (a.toNat, 17), (k.toNat, 16), (b.toNat, 10)]
  | .madd d a k b => place 0x8000001a [(d.toNat, 21), (a.toNat, 17), (k.toNat, 16), (b.toNat, 10)]
  | .addx d a k b n => place 0x8000001c [(d.toNat, 21), (a.toNat, 17), (k.toNat, 16), (b.toNat, 10), (n.toNat, 0)]
  | .clz d a => place 0x80000020 [(d.toNat, 21), (a.toNat, 17)]
  | .ctz d a => place 0x80000021 [(d.toNat, 21), (a.toNat, 17)]
  | .popc d a => place 0x80000022 [(d.toNat, 21), (a.toNat, 17)]
  | .bswap d a => place 0x80000023 [(d.toNat, 21), (a.toNat, 17)]
  | .sext d a n => place 0x80000024 [(d.toNat, 21), (a.toNat, 17), (n.toNat, 0)]
  | .zext d a n => place 0x80000028 [(d.toNat, 21), (a.toNat, 17), (n.toNat, 0)]
  | .fadd d a k b t rm sat => place 0x82000000 [(d.toNat, 21), (a.toNat, 17), (k.toNat, 16), (b.toNat, 10), (t.toNat, 4), (rm.toNat, 1), (sat.toNat, 0)]
  | .fsub d a k b t rm sat => place 0x82000020 [(d.toNat, 21), (a.toNat, 17), (k.toNat, 16), (b.toNat, 10), (t.toNat, 4), (rm.toNat, 1), (sat.toNat, 0)]
  | .fmul d a k b t rm sat => place 0x82000040 [(d.toNat, 21), (a.toNat, 17), (k.toNat, 16), (b.toNat, 10), (t.toNat, 4), (rm.toNat, 1), (sat.toNat, 0)]
  | .ffma d a k b t rm sat => place 0x82000060 [(d.toNat, 21), (a.toNat, 17), (k.toNat, 16), (b.toNat, 10), (t.toNat, 4), (rm.toNat, 1), (sat.toNat, 0)]
  | .fdiv d a k b t rm sat => place 0x82000080 [(d.toNat, 21), (a.toNat, 17), (k.toNat, 16), (b.toNat, 10), (t.toNat, 4), (rm.toNat, 1), (sat.toNat, 0)]
  | .fsqrt d a t rm sat => place 0x820000a0 [(d.toNat, 21), (a.toNat, 17), (t.toNat, 4), (rm.toNat, 1), (sat.toNat, 0)]
  | .fmin d a k b t => place 0x820000c0 [(d.toNat, 21), (a.toNat, 17), (k.toNat, 16), (b.toNat, 10), (t.toNat, 4)]
  | .fmax d a k b t => place 0x820000e0 [(d.toNat, 21), (a.toNat, 17), (k.toNat, 16), (b.toNat, 10), (t.toNat, 4)]
  | .fcmp d a k b t cc => place 0x82000100 [(d.toNat, 21), (a.toNat, 17), (k.toNat, 16), (b.toNat, 10), (t.toNat, 4), (cc.toNat, 1)]
  | .fcvt d a tk sk rm sat => place 0x82000120 [(d.toNat, 21), (a.toNat, 17), (tk.toNat, 13), (sk.toNat, 10), (rm.toNat, 1), (sat.toNat, 0)]
  | .fclass d a t => place 0x82000140 [(d.toNat, 21), (a.toNat, 17), (t.toNat, 4)]
  | .fsgnj d a k b t => place 0x82000160 [(d.toNat, 21), (a.toNat, 17), (k.toNat, 16), (b.toNat, 10), (t.toNat, 4)]
  | .fsgnjn d a k b t => place 0x82000180 [(d.toNat, 21), (a.toNat, 17), (k.toNat, 16), (b.toNat, 10), (t.toNat, 4)]
  | .fsgnjx d a k b t => place 0x820001a0 [(d.toNat, 21), (a.toNat, 17), (k.toNat, 16), (b.toNat, 10), (t.toNat, 4)]
  | .addi d a i => place 0x84000000 [(d.toNat, 21), (a.toNat, 17), (i.toNat, 0)]
  | .andi d a i => place 0x86000000 [(d.toNat, 21), (a.toNat, 17), (i.toNat, 0)]
  | .ori d a i => place 0x88000000 [(d.toNat, 21), (a.toNat, 17), (i.toNat, 0)]
  | .xori d a i => place 0x8a000000 [(d.toNat, 21), (a.toNat, 17), (i.toNat, 0)]
  | .shli d a n => place 0x8c000000 [(d.toNat, 21), (a.toNat, 17), (n.toNat, 0)]
  | .shri d a n => place 0x8c000040 [(d.toNat, 21), (a.toNat, 17), (n.toNat, 0)]
  | .shai d a n => place 0x8c000080 [(d.toNat, 21), (a.toNat, 17), (n.toNat, 0)]
  | .roti d a n => place 0x8c0000c0 [(d.toNat, 21), (a.toNat, 17), (n.toNat, 0)]
  | .bfx d a wd pos => place 0x8e000000 [(d.toNat, 21), (a.toNat, 17), (wd.toNat, 6), (pos.toNat, 0)]
  | .bfi d a wd pos => place 0x8e010000 [(d.toNat, 21), (a.toNat, 17), (wd.toNat, 6), (pos.toNat, 0)]
  | .li d i => place 0x90000000 [(d.toNat, 21), (i.toNat, 0)]
  | .lih d i => place 0x92000000 [(d.toNat, 21), (i.toNat, 0)]
  | .lix d e i => place 0x94000000 [(d.toNat, 21), (e.toNat, 19), (i.toNat, 0)]
  | .csrr d c => place 0x96000000 [(d.toNat, 21), (c.toNat, 0)]
  | .csrw d a c => place 0x96008000 [(d.toNat, 21), (a.toNat, 17), (c.toNat, 0)]
  | .csrs d a c => place 0x96010000 [(d.toNat, 21), (a.toNat, 17), (c.toNat, 0)]
  | .csrc d a c => place 0x96018000 [(d.toNat, 21), (a.toNat, 17), (c.toNat, 0)]
  | .beq a b n disp => place 0x98000000 [(a.toNat, 21), (b.toNat, 17), (n.toNat, 15), (disp.toNat, 0)]
  | .bne a b n disp => place 0x9a000000 [(a.toNat, 21), (b.toNat, 17), (n.toNat, 15), (disp.toNat, 0)]
  | .blt a b n disp => place 0x9c000000 [(a.toNat, 21), (b.toNat, 17), (n.toNat, 15), (disp.toNat, 0)]
  | .bge a b n disp => place 0x9e000000 [(a.toNat, 21), (b.toNat, 17), (n.toNat, 15), (disp.toNat, 0)]
  | .bltu a b n disp => place 0xa0000000 [(a.toNat, 21), (b.toNat, 17), (n.toNat, 15), (disp.toNat, 0)]
  | .bgeu a b n disp => place 0xa2000000 [(a.toNat, 21), (b.toNat, 17), (n.toNat, 15), (disp.toNat, 0)]
  | .jal d n disp => place 0xa4000000 [(d.toNat, 21), (n.toNat, 20), (disp.toNat, 0)]
  | .jalr d a n => place 0xa6000000 [(d.toNat, 21), (a.toNat, 17), (n.toNat, 0)]
  | .nop => place 0xa8000000 []
  | .trap a => place 0xa8000001 [(a.toNat, 17)]
  | .brk => place 0xa8000002 []
  | .eret => place 0xa8000003 []
  | .sleep a => place 0xa8000004 [(a.toNat, 17)]
  | .fenceI => place 0xa8000005 []
  | .qcfg a => place 0xa8000006 [(a.toNat, 17)]
  | .cxsave a => place 0xa8000007 [(a.toNat, 17)]
  | .cxload a => place 0xa8000008 [(a.toNat, 17)]
  | .ldb d a ord scope pol off => place 0xaa000000 [(d.toNat, 21), (a.toNat, 17), (ord.toNat, 15), (scope.toNat, 12), (pol.toNat, 10), (off.toNat, 0)]
  | .ldbu d a ord scope pol off => place 0xac000000 [(d.toNat, 21), (a.toNat, 17), (ord.toNat, 15), (scope.toNat, 12), (pol.toNat, 10), (off.toNat, 0)]
  | .ldh d a ord scope pol off => place 0xae000000 [(d.toNat, 21), (a.toNat, 17), (ord.toNat, 15), (scope.toNat, 12), (pol.toNat, 10), (off.toNat, 0)]
  | .ldhu d a ord scope pol off => place 0xb0000000 [(d.toNat, 21), (a.toNat, 17), (ord.toNat, 15), (scope.toNat, 12), (pol.toNat, 10), (off.toNat, 0)]
  | .ldw d a ord scope pol off => place 0xb2000000 [(d.toNat, 21), (a.toNat, 17), (ord.toNat, 15), (scope.toNat, 12), (pol.toNat, 10), (off.toNat, 0)]
  | .ldwu d a ord scope pol off => place 0xb4000000 [(d.toNat, 21), (a.toNat, 17), (ord.toNat, 15), (scope.toNat, 12), (pol.toNat, 10), (off.toNat, 0)]
  | .ldd d a ord scope pol off => place 0xb6000000 [(d.toNat, 21), (a.toNat, 17), (ord.toNat, 15), (scope.toNat, 12), (pol.toNat, 10), (off.toNat, 0)]
  | .ldq d a ord scope pol off => place 0xb8000000 [(d.toNat, 21), (a.toNat, 17), (ord.toNat, 15), (scope.toNat, 12), (pol.toNat, 10), (off.toNat, 0)]
  | .stb d a ord scope pol off => place 0xba000000 [(d.toNat, 21), (a.toNat, 17), (ord.toNat, 15), (scope.toNat, 12), (pol.toNat, 10), (off.toNat, 0)]
  | .sth d a ord scope pol off => place 0xbc000000 [(d.toNat, 21), (a.toNat, 17), (ord.toNat, 15), (scope.toNat, 12), (pol.toNat, 10), (off.toNat, 0)]
  | .stw d a ord scope pol off => place 0xbe000000 [(d.toNat, 21), (a.toNat, 17), (ord.toNat, 15), (scope.toNat, 12), (pol.toNat, 10), (off.toNat, 0)]
  | .std d a ord scope pol off => place 0xc0000000 [(d.toNat, 21), (a.toNat, 17), (ord.toNat, 15), (scope.toNat, 12), (pol.toNat, 10), (off.toNat, 0)]
  | .stq d a ord scope pol off => place 0xc2000000 [(d.toNat, 21), (a.toNat, 17), (ord.toNat, 15), (scope.toNat, 12), (pol.toNat, 10), (off.toNat, 0)]
  | .ldx d a b => place 0xc4000000 [(d.toNat, 21), (a.toNat, 17), (b.toNat, 10)]
  | .stx d a b => place 0xc4000001 [(d.toNat, 21), (a.toNat, 17), (b.toNat, 10)]
  | .amoadd d a k b ord scope w => place 0xc6000000 [(d.toNat, 21), (a.toNat, 17), (k.toNat, 16), (b.toNat, 10), (ord.toNat, 8), (scope.toNat, 5), (w.toNat, 4)]
  | .amoand d a k b ord scope w => place 0xc6000001 [(d.toNat, 21), (a.toNat, 17), (k.toNat, 16), (b.toNat, 10), (ord.toNat, 8), (scope.toNat, 5), (w.toNat, 4)]
  | .amoor d a k b ord scope w => place 0xc6000002 [(d.toNat, 21), (a.toNat, 17), (k.toNat, 16), (b.toNat, 10), (ord.toNat, 8), (scope.toNat, 5), (w.toNat, 4)]
  | .amoxor d a k b ord scope w => place 0xc6000003 [(d.toNat, 21), (a.toNat, 17), (k.toNat, 16), (b.toNat, 10), (ord.toNat, 8), (scope.toNat, 5), (w.toNat, 4)]
  | .amomin d a k b ord scope w => place 0xc6000004 [(d.toNat, 21), (a.toNat, 17), (k.toNat, 16), (b.toNat, 10), (ord.toNat, 8), (scope.toNat, 5), (w.toNat, 4)]
  | .amomax d a k b ord scope w => place 0xc6000005 [(d.toNat, 21), (a.toNat, 17), (k.toNat, 16), (b.toNat, 10), (ord.toNat, 8), (scope.toNat, 5), (w.toNat, 4)]
  | .amominu d a k b ord scope w => place 0xc6000006 [(d.toNat, 21), (a.toNat, 17), (k.toNat, 16), (b.toNat, 10), (ord.toNat, 8), (scope.toNat, 5), (w.toNat, 4)]
  | .amomaxu d a k b ord scope w => place 0xc6000007 [(d.toNat, 21), (a.toNat, 17), (k.toNat, 16), (b.toNat, 10), (ord.toNat, 8), (scope.toNat, 5), (w.toNat, 4)]
  | .amoswap d a k b ord scope w => place 0xc6000008 [(d.toNat, 21), (a.toNat, 17), (k.toNat, 16), (b.toNat, 10), (ord.toNat, 8), (scope.toNat, 5), (w.toNat, 4)]
  | .cas d a k b ord scope w => place 0xc6000009 [(d.toNat, 21), (a.toNat, 17), (k.toNat, 16), (b.toNat, 10), (ord.toNat, 8), (scope.toNat, 5), (w.toNat, 4)]
  | .redadd a k b ord scope w => place 0xc600000a [(a.toNat, 17), (k.toNat, 16), (b.toNat, 10), (ord.toNat, 8), (scope.toNat, 5), (w.toNat, 4)]
  | .redmin a k b ord scope w => place 0xc600000b [(a.toNat, 17), (k.toNat, 16), (b.toNat, 10), (ord.toNat, 8), (scope.toNat, 5), (w.toNat, 4)]
  | .redmax a k b ord scope w => place 0xc600000c [(a.toNat, 17), (k.toNat, 16), (b.toNat, 10), (ord.toNat, 8), (scope.toNat, 5), (w.toNat, 4)]
  | .redfadd a b ord scope w => place 0xc600000d [(a.toNat, 17), (b.toNat, 10), (ord.toNat, 8), (scope.toNat, 5), (w.toNat, 4)]
  | .take d a ord scope => place 0xc8000000 [(d.toNat, 21), (a.toNat, 17), (ord.toNat, 8), (scope.toNat, 5)]
  | .put a b ord scope => place 0xc8000001 [(a.toNat, 17), (b.toNat, 10), (ord.toNat, 8), (scope.toNat, 5)]
  | .peek d a ord scope => place 0xc8000002 [(d.toNat, 21), (a.toNat, 17), (ord.toNat, 8), (scope.toNat, 5)]
  | .feinit a b scope full => place 0xc8000003 [(a.toNat, 17), (b.toNat, 10), (scope.toNat, 5), (full.toNat, 2)]
  | .fence scope => place 0xca000000 [(scope.toNat, 2)]
  | .pref a b => place 0xca000020 [(a.toNat, 17), (b.toNat, 10)]
  | .rflush a b => place 0xca000040 [(a.toNat, 17), (b.toNat, 10)]
  | .rinv a b => place 0xca000060 [(a.toNat, 17), (b.toNat, 10)]
  | .retain d a b => place 0xca000080 [(d.toNat, 21), (a.toNat, 17), (b.toNat, 10)]
  | .unretain a => place 0xca0000a0 [(a.toNat, 17)]
  | .crdecl d a b elem op => place 0xca0000c0 [(d.toNat, 21), (a.toNat, 17), (b.toNat, 10), (elem.toNat, 2), (op.toNat, 0)]
  | .crclr a => place 0xca0000e0 [(a.toNat, 17)]
  | .waita d a b => place 0xca000100 [(d.toNat, 21), (a.toNat, 17), (b.toNat, 10)]
  | .tld g desc a rows => place 0xcc000000 [(g.toNat, 21), (desc.toNat, 13), (a.toNat, 9), (rows.toNat, 6)]
  | .tst g desc a rows => place 0xcc000001 [(g.toNat, 21), (desc.toNat, 13), (a.toNat, 9), (rows.toNat, 6)]
  | .tlds g a rows => place 0xcc000002 [(g.toNat, 21), (a.toNat, 9), (rows.toNat, 6)]
  | .tsts g a rows => place 0xcc000003 [(g.toNat, 21), (a.toNat, 9), (rows.toNat, 6)]
  | .tdld desc a => place 0xcc000004 [(desc.toNat, 13), (a.toNat, 9)]
  | .tdst desc a => place 0xcc000005 [(desc.toNat, 13), (a.toNat, 9)]
  | .tfill g fmt a rows => place 0xcc000006 [(g.toNat, 21), (fmt.toNat, 17), (a.toNat, 9), (rows.toNat, 6)]
  | .textr g fmt idx a => place 0xcc000007 [(g.toNat, 21), (fmt.toNat, 17), (idx.toNat, 13), (a.toNat, 9)]
  | .tins g fmt idx a => place 0xcc000008 [(g.toNat, 21), (fmt.toNat, 17), (idx.toNat, 13), (a.toNat, 9)]
  | .tmov d a rows => place 0xce000000 [(d.toNat, 22), (a.toNat, 19), (rows.toNat, 12)]
  | .tzero d rows => place 0xce000001 [(d.toNat, 22), (rows.toNat, 12)]
  | .tadd d a h b rows fmt f64 => place 0xce000008 [(d.toNat, 22), (a.toNat, 19), (h.toNat, 18), (b.toNat, 15), (rows.toNat, 12), (fmt.toNat, 8), (f64.toNat, 7)]
  | .tsub d a h b rows fmt f64 => place 0xce000009 [(d.toNat, 22), (a.toNat, 19), (h.toNat, 18), (b.toNat, 15), (rows.toNat, 12), (fmt.toNat, 8), (f64.toNat, 7)]
  | .tmul d a h b rows fmt f64 => place 0xce00000a [(d.toNat, 22), (a.toNat, 19), (h.toNat, 18), (b.toNat, 15), (rows.toNat, 12), (fmt.toNat, 8), (f64.toNat, 7)]
  | .tfma d a h b rows fmt f64 => place 0xce00000b [(d.toNat, 22), (a.toNat, 19), (h.toNat, 18), (b.toNat, 15), (rows.toNat, 12), (fmt.toNat, 8), (f64.toNat, 7)]
  | .tmin d a h b rows fmt f64 => place 0xce00000c [(d.toNat, 22), (a.toNat, 19), (h.toNat, 18), (b.toNat, 15), (rows.toNat, 12), (fmt.toNat, 8), (f64.toNat, 7)]
  | .tmax d a h b rows fmt f64 => place 0xce00000d [(d.toNat, 22), (a.toNat, 19), (h.toNat, 18), (b.toNat, 15), (rows.toNat, 12), (fmt.toNat, 8), (f64.toNat, 7)]
  | .tabs d a rows fmt f64 => place 0xce00000e [(d.toNat, 22), (a.toNat, 19), (rows.toNat, 12), (fmt.toNat, 8), (f64.toNat, 7)]
  | .tneg d a rows fmt f64 => place 0xce00000f [(d.toNat, 22), (a.toNat, 19), (rows.toNat, 12), (fmt.toNat, 8), (f64.toNat, 7)]
  | .trcp d a rows fmt f64 => place 0xce000010 [(d.toNat, 22), (a.toNat, 19), (rows.toNat, 12), (fmt.toNat, 8), (f64.toNat, 7)]
  | .trsq d a rows fmt f64 => place 0xce000011 [(d.toNat, 22), (a.toNat, 19), (rows.toNat, 12), (fmt.toNat, 8), (f64.toNat, 7)]
  | .texp2 d a rows fmt f64 => place 0xce000012 [(d.toNat, 22), (a.toNat, 19), (rows.toNat, 12), (fmt.toNat, 8), (f64.toNat, 7)]
  | .tlog2 d a rows fmt f64 => place 0xce000013 [(d.toNat, 22), (a.toNat, 19), (rows.toNat, 12), (fmt.toNat, 8), (f64.toNat, 7)]
  | .ttanh d a rows fmt f64 => place 0xce000014 [(d.toNat, 22), (a.toNat, 19), (rows.toNat, 12), (fmt.toNat, 8), (f64.toNat, 7)]
  | .tcmp d a h b rows fmt f64 cc => place 0xce000018 [(d.toNat, 22), (a.toNat, 19), (h.toNat, 18), (b.toNat, 15), (rows.toNat, 12), (fmt.toNat, 8), (f64.toNat, 7), (cc.toNat, 0)]
  | .tsel d a h b rows fmt f64 => place 0xce00001c [(d.toNat, 22), (a.toNat, 19), (h.toNat, 18), (b.toNat, 15), (rows.toNat, 12), (fmt.toNat, 8), (f64.toNat, 7)]
  | .tand d a h b rows => place 0xce000020 [(d.toNat, 22), (a.toNat, 19), (h.toNat, 18), (b.toNat, 15), (rows.toNat, 12)]
  | .tor d a h b rows => place 0xce000021 [(d.toNat, 22), (a.toNat, 19), (h.toNat, 18), (b.toNat, 15), (rows.toNat, 12)]
  | .txor d a h b rows => place 0xce000022 [(d.toNat, 22), (a.toNat, 19), (h.toNat, 18), (b.toNat, 15), (rows.toNat, 12)]
  | .tnot d a rows => place 0xce000023 [(d.toNat, 22), (a.toNat, 19), (rows.toNat, 12)]
  | .tshl d a h b rows fmt => place 0xce000024 [(d.toNat, 22), (a.toNat, 19), (h.toNat, 18), (b.toNat, 15), (rows.toNat, 12), (fmt.toNat, 8)]
  | .tshr d a h b rows fmt => place 0xce000025 [(d.toNat, 22), (a.toNat, 19), (h.toNat, 18), (b.toNat, 15), (rows.toNat, 12), (fmt.toNat, 8)]
  | .tcvt d a src rows fmt f64 sat rm => place 0xce000030 [(d.toNat, 22), (a.toNat, 19), (src.toNat, 15), (rows.toNat, 12), (fmt.toNat, 8), (f64.toNat, 7), (sat.toNat, 3), (rm.toNat, 0)]
  | .tqnt d a src rows fmt sat rm => place 0xce000040 [(d.toNat, 22), (a.toNat, 19), (src.toNat, 15), (rows.toNat, 12), (fmt.toNat, 8), (sat.toNat, 3), (rm.toNat, 0)]
  | .tdq d a src rows fmt sat rm => place 0xce000050 [(d.toNat, 22), (a.toNat, 19), (src.toNat, 15), (rows.toNat, 12), (fmt.toNat, 8), (sat.toNat, 3), (rm.toNat, 0)]
  | .tred d a rows fmt f64 k => place 0xce000060 [(d.toNat, 22), (a.toNat, 19), (rows.toNat, 12), (fmt.toNat, 8), (f64.toNat, 7), (k.toNat, 0)]
  | .tscan d a rows fmt f64 => place 0xce000064 [(d.toNat, 22), (a.toNat, 19), (rows.toNat, 12), (fmt.toNat, 8), (f64.toNat, 7)]
  | .tbcast d a b rows fmt => place 0xce000065 [(d.toNat, 22), (a.toNat, 19), (b.toNat, 15), (rows.toNat, 12), (fmt.toNat, 8)]
  | .ttrn d a fmt => place 0xce007066 [(d.toNat, 22), (a.toNat, 19), (fmt.toNat, 8)]
  | .tperm d a h b rows fmt => place 0xce000067 [(d.toNat, 22), (a.toNat, 19), (h.toNat, 18), (b.toNat, 15), (rows.toNat, 12), (fmt.toNat, 8)]
  | .tgath d a h b rows fmt => place 0xce000068 [(d.toNat, 22), (a.toNat, 19), (h.toNat, 18), (b.toNat, 15), (rows.toNat, 12), (fmt.toNat, 8)]
  | .tscat d a h b rows fmt => place 0xce000069 [(d.toNat, 22), (a.toNat, 19), (h.toNat, 18), (b.toNat, 15), (rows.toNat, 12), (fmt.toNat, 8)]
  | .ttopk d a k rows fmt => place 0xce00006a [(d.toNat, 22), (a.toNat, 19), (k.toNat, 15), (rows.toNat, 12), (fmt.toNat, 8)]
  | .tnoise d a rows fmt => place 0xce00006b [(d.toNat, 22), (a.toNat, 19), (rows.toNat, 12), (fmt.toNat, 8)]
  | .mma ad ta ha wm p mode fmta => place 0xd0000000 [(ad.toNat, 23), (ta.toNat, 20), (ha.toNat, 19), (wm.toNat, 15), (p.toNat, 11), (mode.toNat, 9), (fmta.toNat, 5)]
  | .mmaz ad ta ha wm p mode fmta => place 0xd0000001 [(ad.toNat, 23), (ta.toNat, 20), (ha.toNat, 19), (wm.toNat, 15), (p.toNat, 11), (mode.toNat, 9), (fmta.toNat, 5)]
  | .wld g desc a => place 0xd2000000 [(g.toNat, 21), (desc.toNat, 13), (a.toNat, 9)]
  | .wldh g fmt h => place 0xd2000001 [(g.toNat, 21), (fmt.toNat, 17), (h.toNat, 13)]
  | .wclr g => place 0xd2000002 [(g.toNat, 21)]
  | .aprom g => place 0xd2000003 [(g.toNat, 21)]
  | .aclr g => place 0xd2000004 [(g.toNat, 21)]
  | .amov g a => place 0xd2000005 [(g.toNat, 21), (a.toNat, 9)]
  | .aadd g a => place 0xd2000006 [(g.toNat, 21), (a.toNat, 9)]
  | .ald g a => place 0xd2000007 [(g.toNat, 21), (a.toNat, 9)]
  | .ast g a => place 0xd2000008 [(g.toNat, 21), (a.toNat, 9)]
  | .acvt g fmt sat rm a => place 0xd2000009 [(g.toNat, 21), (fmt.toNat, 17), (sat.toNat, 16), (rm.toNat, 13), (a.toNat, 9)]
  | .aepi g desc a => place 0xd200000a [(g.toNat, 21), (desc.toNat, 13), (a.toNat, 9)]
  | .mstat g a => place 0xd200000b [(g.toNat, 21), (a.toNat, 9)]
  | .copy d a b scope fl => place 0xd4000000 [(d.toNat, 21), (a.toNat, 17), (b.toNat, 13), (scope.toNat, 10), (fl.toNat, 5)]
  | .copys d a b scope fl => place 0xd4000001 [(d.toNat, 21), (a.toNat, 17), (b.toNat, 13), (scope.toNat, 10), (fl.toNat, 5)]
  | .jwait d a => place 0xd4000002 [(d.toNat, 21), (a.toNat, 17)]
  | .jpoll d a => place 0xd4000003 [(d.toNat, 21), (a.toNat, 17)]
  | .subscr d a h => place 0xd4000004 [(d.toNat, 21), (a.toNat, 17), (h.toNat, 13)]
  | .unsub d a h => place 0xd4000005 [(d.toNat, 21), (a.toNat, 17), (h.toNat, 13)]
  | .spub a t => place 0xd4000006 [(a.toNat, 17), (t.toNat, 13)]
  | .hcfg a h => place 0xd4000007 [(a.toNat, 17), (h.toNat, 13)]
  | .hwait d a h => place 0xd4000008 [(d.toNat, 21), (a.toNat, 17), (h.toNat, 13)]
  | .hadvc d a h => place 0xd4000009 [(d.toNat, 21), (a.toNat, 17), (h.toNat, 13)]
  | .hadvp d a h => place 0xd400000a [(d.toNat, 21), (a.toNat, 17), (h.toNat, 13)]
  | .binit d a b => place 0xd6000000 [(d.toNat, 21), (a.toNat, 17), (b.toNat, 13)]
  | .barv d a b => place 0xd6000001 [(d.toNat, 21), (a.toNat, 17), (b.toNat, 13)]
  | .bexp d a b => place 0xd6000002 [(d.toNat, 21), (a.toNat, 17), (b.toNat, 13)]
  | .bwait d a b => place 0xd6000003 [(d.toNat, 21), (a.toNat, 17), (b.toNat, 13)]
  | .binv d a => place 0xd6000004 [(d.toNat, 21), (a.toNat, 17)]
  | .wbara d a grp => place 0xd6000005 [(d.toNat, 21), (a.toNat, 17), (grp.toNat, 13)]
  | .wbarw d a grp => place 0xd6000006 [(d.toNat, 21), (a.toNat, 17), (grp.toNat, 13)]
  | .wbmask a => place 0xd6000007 [(a.toNat, 17)]
  | .rnginit a => place 0xd6000008 [(a.toNat, 17)]
  | .rngget d a => place 0xd6000009 [(d.toNat, 21), (a.toNat, 17)]
  | .spawn d a b => place 0xd600000a [(d.toNat, 21), (a.toNat, 17), (b.toNat, 13)]
  | .join d a => place 0xd600000b [(d.toNat, 21), (a.toNat, 17)]
  | .evpost d a b => place 0xd600000c [(d.toNat, 21), (a.toNat, 17), (b.toNat, 13)]
  | .treeld d a b => place 0xd600000d [(d.toNat, 21), (a.toNat, 17), (b.toNat, 13)]
  | .cbind g a => place 0xd8000000 [(g.toNat, 21), (a.toNat, 9)]
  | .cedit g a => place 0xd8000001 [(g.toNat, 21), (a.toNat, 9)]
  | .cunbind g a => place 0xd8000002 [(g.toNat, 21), (a.toNat, 9)]
  | .cwopen g desc a => place 0xd8000003 [(g.toNat, 21), (desc.toNat, 13), (a.toNat, 9)]
  | .cwpub g a cancel => place 0xd8000004 [(g.toNat, 21), (a.toNat, 9), (cancel.toNat, 5)]
  | .cappend g k a => place 0xd8000005 [(g.toNat, 21), (k.toNat, 13), (a.toNat, 9)]
  | .vopen g a => place 0xd8000006 [(g.toNat, 21), (a.toNat, 9)]
  | .vclose g v => place 0xd8000007 [(g.toNat, 21), (v.toNat, 5)]
  | .crd g desc a v => place 0xd8000008 [(g.toNat, 21), (desc.toNat, 13), (a.toNat, 9), (v.toNat, 5)]
  | .cfence g a v => place 0xd8000009 [(g.toNat, 21), (a.toNat, 9), (v.toNat, 5)]
  | .cstat g a => place 0xd800000a [(g.toNat, 21), (a.toNat, 9)]
  | .crevoke g a => place 0xd800000b [(g.toNat, 21), (a.toNat, 9)]
  | .sxopen d a => place 0xda000000 [(d.toNat, 21), (a.toNat, 17)]
  | .sxapp d a b => place 0xda000001 [(d.toNat, 21), (a.toNat, 17), (b.toNat, 13)]
  | .sxqry d a b => place 0xda000002 [(d.toNat, 21), (a.toNat, 17), (b.toNat, 13)]
  | .sxsave d a b => place 0xda000003 [(d.toNat, 21), (a.toNat, 17), (b.toNat, 13)]
  | .sxload d b => place 0xda000004 [(d.toNat, 21), (b.toNat, 13)]
  | .sxfree d a => place 0xda000005 [(d.toNat, 21), (a.toNat, 17)]
  | .sxstat d a => place 0xda000006 [(d.toNat, 21), (a.toNat, 17)]
  | .rbegin a b wbuf => place 0xdc000000 [(a.toNat, 17), (b.toNat, 13), (wbuf.toNat, 5)]
  | .rend => place 0xdc000001 []
  | .rabort => place 0xdc000002 []
  | .clkreq d a => place 0xdc000003 [(d.toNat, 21), (a.toNat, 17)]
  | .exti e i => place 0xf0000000 [(e.toNat, 24), (i.toNat, 0)]
  | .exts e i => place 0xf4000000 [(e.toNat, 24), (i.toNat, 0)]
  | .nop16 => place 0x400 []
  | .add16 d a => place 0x800 [(d.toNat, 6), (a.toNat, 2)]
  | .sub16 d a => place 0x801 [(d.toNat, 6), (a.toNat, 2)]
  | .and16 d a => place 0x802 [(d.toNat, 6), (a.toNat, 2)]
  | .or16 d a => place 0x803 [(d.toNat, 6), (a.toNat, 2)]
  | .xor16 d a => place 0xc00 [(d.toNat, 6), (a.toNat, 2)]
  | .shl16 d a => place 0xc01 [(d.toNat, 6), (a.toNat, 2)]
  | .shr16 d a => place 0xc02 [(d.toNat, 6), (a.toNat, 2)]
  | .sha16 d a => place 0xc03 [(d.toNat, 6), (a.toNat, 2)]
  | .addi16 d i => place 0x1000 [(d.toNat, 6), (i.toNat, 0)]
  | .li16 d i => place 0x1400 [(d.toNat, 6), (i.toNat, 0)]
  | .shli16 d n => place 0x1800 [(d.toNat, 6), (n.toNat, 0)]
  | .shri16 d n => place 0x1c00 [(d.toNat, 6), (n.toNat, 0)]
  | .shai16 d n => place 0x2000 [(d.toNat, 6), (n.toNat, 0)]
  | .ldw16 d a x => place 0x2400 [(d.toNat, 6), (a.toNat, 2), (x.toNat, 0)]
  | .stw16 d a x => place 0x2800 [(d.toNat, 6), (a.toNat, 2), (x.toNat, 0)]
  | .ldd16 d a x => place 0x2c00 [(d.toNat, 6), (a.toNat, 2), (x.toNat, 0)]
  | .std16 d a x => place 0x3000 [(d.toNat, 6), (a.toNat, 2), (x.toNat, 0)]
  | .beqz hi a lo => place 0x3400 [(hi.toNat, 6), (a.toNat, 2), (lo.toNat, 0)]
  | .bnez hi a lo => place 0x3800 [(hi.toNat, 6), (a.toNat, 2), (lo.toNat, 0)]
  | .jalr16 d a n => place 0x3c00 [(d.toNat, 6), (a.toNat, 2), (n.toNat, 0)]
  | .takeInterrupt _ => 0
  | .deferredTrap _ => 0
  | .timerExpire _ => 0
  | .waitaTimeout _ => 0
  | .commitQueuePerform _ => 0
  | .regionMoveCommitted _ => 0
  | .homeArrive _ _ => 0
  | .homePerformWrite _ => 0
  | .homeLoad _ _ => 0
  | .leaseExpire _ _ => 0
  | .remoteAccessArrive _ => 0
  | .bankTake _ => 0
  | .bankPeek _ => 0
  | .bankPut _ => 0
  | .bankInit _ => 0
  | .bankBinit _ => 0
  | .bankBarv _ => 0
  | .bankBexp _ => 0
  | .bankBwait _ => 0
  | .bankBinv _ => 0
  | .barCompletion _ => 0
  | .writebackRequest _ _ => 0
  | .writebackGrant _ _ => 0
  | .writebackCancel _ _ => 0
  | .writebackData _ _ => 0
  | .recall _ _ => 0
  | .partialSpill _ => 0
  | .copyJobDispatch _ _ => 0
  | .copyJobComplete _ _ => 0
  | .streamAccept _ => 0
  | .streamDeliver _ => 0
  | .matrixJobStart _ => 0
  | .matrixJobComplete _ _ => 0
  | .weightJobStart _ => 0
  | .weightJobComplete _ => 0
  | .tileUnitDispatch _ => 0
  | .walkerCommandDone _ _ => 0
  | .sheetPublish _ => 0
  | .staleMark _ => 0
  | .cellDispatch _ _ => 0
  | .taskComplete _ => 0
  | .cellMarkFresh _ _ => 0
  | .appendPrefixCopy _ _ => 0
  | .ringTickInterrupt _ => 0
  | .teamPlace _ _ _ _ _ _ => 0
  | .teamStart _ => 0
  | .herdStart _ _ => 0
  | .taskAge _ => 0
  | .spatialPreempt _ _ _ _ _ _ => 0
  | .herdsReturn _ => 0
  | .sliceExpire _ => 0
  | .teamResume _ => 0
  | .teamFinish _ => 0
  | .rangeRequest _ => 0
  | .kidComplete _ => 0
  | .wbarArrive _ => 0
  | .arbiterEvaluate => 0
  | .grantRaiseHerd _ => 0
  | .suffixRebuildDone _ => 0
  | .uncorrectableError _ _ _ => 0
  | .macroScrub _ _ => 0
  | .patrolScrub _ _ _ => 0
  | .containmentStart _ _ _ => 0
  | .containmentFenceLift _ => 0
  | .routerFailure _ _ _ => 0
  | .transactionCrcFail _ => 0
  | .readResponseCrcFail _ _ => 0
  | .linkFlitError _ _ _ => 0
  | .remoteTimeout _ _ => 0
  | .hostMemAccess _ _ _ _ => 0
  | .spdmRequest _ _ => 0
  | .powerOn => 0
  | .thermalPoll _ _ => 0
  | .thermalShutdown _ => 0
  | .sheetnew _ => 0
  | .sheetdel _ => 0
  | .launch _ => 0
  | .teamend _ => 0
  | .teamstatRead _ => 0
  | .teamstatWrite _ => 0
  | .shoot _ => 0
  | .faultend _ => 0
  | .qplace _ => 0
  | .dieregRead _ => 0
  | .dieregWrite _ => 0
  | .qslice _ => 0
  | .suffixIndexPlace _ => 0
  | .suffixMailboxPlace _ => 0
  | .suffixRingAssign _ => 0
  | .power _ => 0
  | .doorbell _ => 0
  | .wbgroup _ => 0
  | .boot _ => 0
  | .debugStop _ => 0
  | .debugResume _ => 0
  | .debugStep _ => 0
  | .svRetain _ => 0
  | .svUnretain _ => 0
  | .peerset _ => 0
  | .channelSheetCommand _ => 0
  | .channelSuffixCommand _ => 0
  | .commandDone _ => 0
  | .ringConfigWrite _ _ => 0
  | .queueConsumerWrite _ _ => 0
  | .registerWrite _ _ => 0
  | .illegalInstruction _ _ _ _ => 0
  | .instructionFetchFault _ _ _ => 0
  | .targetAcknowledgement _ _ _ _ => 0
  | .networkBootFrame _ => 0

/-- The number of bytes of an instruction: 2 for the 16-bit forms, 4 otherwise (R160), 0 for an event. -/
def Instr.size : Instr → Nat
  | .nop16 | .add16 _ _ | .sub16 _ _ | .and16 _ _ | .or16 _ _ | .xor16 _ _ | .shl16 _ _ | .shr16 _ _ | .sha16 _ _ | .addi16 _ _ | .li16 _ _ | .shli16 _ _ | .shri16 _ _ | .shai16 _ _ | .ldw16 _ _ _ | .stw16 _ _ _ | .ldd16 _ _ _ | .std16 _ _ _ | .beqz _ _ _ | .bnez _ _ _ | .jalr16 _ _ _ => 2
  | .takeInterrupt _ | .deferredTrap _ | .timerExpire _ | .waitaTimeout _ | .commitQueuePerform _ | .regionMoveCommitted _
  | .homeArrive _ _ | .homePerformWrite _ | .homeLoad _ _ | .leaseExpire _ _ | .remoteAccessArrive _ | .bankTake _
  | .bankPeek _ | .bankPut _ | .bankInit _ | .bankBinit _ | .bankBarv _ | .bankBexp _
  | .bankBwait _ | .bankBinv _ | .barCompletion _ | .writebackRequest _ _ | .writebackGrant _ _ | .writebackCancel _ _
  | .writebackData _ _ | .recall _ _ | .partialSpill _ | .copyJobDispatch _ _ | .copyJobComplete _ _ | .streamAccept _
  | .streamDeliver _ | .matrixJobStart _ | .matrixJobComplete _ _ | .weightJobStart _ | .weightJobComplete _ | .tileUnitDispatch _
  | .walkerCommandDone _ _ | .sheetPublish _ | .staleMark _ | .cellDispatch _ _ | .taskComplete _ | .cellMarkFresh _ _
  | .appendPrefixCopy _ _ | .ringTickInterrupt _ | .teamPlace _ _ _ _ _ _ | .teamStart _ | .herdStart _ _ | .taskAge _
  | .spatialPreempt _ _ _ _ _ _ | .herdsReturn _ | .sliceExpire _ | .teamResume _ | .teamFinish _ | .rangeRequest _
  | .kidComplete _ | .wbarArrive _ | .arbiterEvaluate | .grantRaiseHerd _ | .suffixRebuildDone _ | .uncorrectableError _ _ _
  | .macroScrub _ _ | .patrolScrub _ _ _ | .containmentStart _ _ _ | .containmentFenceLift _ | .routerFailure _ _ _ | .transactionCrcFail _
  | .readResponseCrcFail _ _ | .linkFlitError _ _ _ | .remoteTimeout _ _ | .hostMemAccess _ _ _ _ | .spdmRequest _ _ | .powerOn
  | .thermalPoll _ _ | .thermalShutdown _ | .sheetnew _ | .sheetdel _ | .launch _ | .teamend _
  | .teamstatRead _ | .teamstatWrite _ | .shoot _ | .faultend _ | .qplace _ | .dieregRead _
  | .dieregWrite _ | .qslice _ | .suffixIndexPlace _ | .suffixMailboxPlace _ | .suffixRingAssign _ | .power _
  | .doorbell _ | .wbgroup _ | .boot _ | .debugStop _ | .debugResume _ | .debugStep _
  | .svRetain _ | .svUnretain _ | .peerset _ | .channelSheetCommand _ | .channelSuffixCommand _ | .commandDone _
  | .ringConfigWrite _ _ | .queueConsumerWrite _ _ | .registerWrite _ _ | .illegalInstruction _ _ _ _ | .instructionFetchFault _ _ _ | .targetAcknowledgement _ _ _ _
  | .networkBootFrame _ => 0
  | _ => 4

/-- The bytes of an instruction in memory order. -/
def encodeBytes (i : Instr) : List Byte := if i.size = 2 then bytes16 (encode i) else bytes32 (encode i)

end Sys2Proof
end

