-- ==== Sys2Proof/Machine/SMap.lean ====
section
/-!
DEFINITION. Sparse data by key: lists of (key, value) pairs, keys strictly rising.  Memory, buffers and every family of units of
which a run touches only a few are held this way.
-/

namespace Sys2Proof.Machine

/-- A list of pairs by rising key. -/
abbrev SMap (α : Type) := List (Nat × α)

variable {α : Type}

/-- The value at a key, if listed. -/
def SMap.get? : SMap α → Nat → Option α
  | [], _ => none
  | (a, x) :: m, k => if a = k then some x else SMap.get? m k

/-- The value at a key, `d` where it is not listed. -/
def SMap.getD (m : SMap α) (d : α) (k : Nat) : α := (SMap.get? m k).getD d

/-- The map with `x` at key `k`. -/
def SMap.set : SMap α → Nat → α → SMap α
  | [], k, x => [(k, x)]
  | (a, y) :: m, k, x => if k < a then (k, x) :: (a, y) :: m else if a = k then (k, x) :: m else (a, y) :: SMap.set m k x

/-- The map without key `k`. -/
def SMap.erase : SMap α → Nat → SMap α
  | [], _ => []
  | (a, y) :: m, k => if a = k then m else (a, y) :: SMap.erase m k

/-- The map with `x` at key `k`, listing nothing that equals the default `d`. -/
def SMap.put [DecidableEq α] (m : SMap α) (d : α) (k : Nat) (x : α) : SMap α :=
  if x = d then SMap.erase m k else SMap.set m k x

/-- Every key listed is above `b`, and the keys rise. -/
def SMap.above : SMap α → Nat → Bool
  | [], _ => true
  | (a, _) :: m, b => decide (b < a) && SMap.above m a

/-- The keys rise strictly. -/
def SMap.sorted : SMap α → Bool
  | [] => true
  | (a, _) :: m => SMap.above m a

/-- The canonical form: keys strictly rising, and no entry equal to the default `d`. -/
def SMap.wf [DecidableEq α] (m : SMap α) (d : α) : Bool := SMap.sorted m && m.all (fun p => decide (p.2 ≠ d))

/-- A set of naturals as a rising list: insertion. -/
def insertNat : List Nat → Nat → List Nat
  | [], k => [k]
  | a :: m, k => if k < a then k :: a :: m else if a = k then a :: m else a :: insertNat m k

end Sys2Proof.Machine
end

