-- ==== Sys2Proof/Machine/Types.lean ====
section
/-!
DEFINITION. The kinds of data that a core, a herd, a home and the messages between them hold (R21, R106, R266, R287, R290, R296).
-/

namespace Sys2Proof.Machine

/-- Where a byte or a word is stored: device memory by physical address, a typed buffer by core and offset, or a target of
space 3 or 4 (R112, R216, R417). -/
inductive Space where
  | mem | bufW | bufA | bufC | peer | host
  deriving DecidableEq, Repr

/-- A place: a space, the core (for a buffer) or the peer (for space 3), and the address there. -/
structure Place where
  space : Space
  key : Nat
  addr : Nat
  deriving DecidableEq, Repr

/-- The effective policy of a space-0 access (R113, R218); accesses to the other spaces carry `direct`, which is not read. -/
inductive Policy where
  | leased | direct | stream | swm | herd
  deriving DecidableEq, Repr

/-- The operations of AMO (R226). -/
inductive AmoOp where
  | add | and | or | xor | min | max | minu | maxu | swap | cas
  deriving DecidableEq, Repr

/-- The reductions (R227). -/
inductive RedOp where
  | add | min | max | fadd
  deriving DecidableEq, Repr

/-- What an entry of the region buffer or the commit queue does when it performs (R106, R122). -/
inductive Action where
  /-- A store: the bytes, by offset from the entry's place. -/
  | store (bytes : SMap Byte)
  /-- An atomic; `reply` holds when the core waits for the old value (R226). -/
  | amo (op : AmoOp) (w32 : Bool) (operand expected : Word) (reply : Bool)
  /-- A reduction, with the contributor index at issue (R125, R227). -/
  | red (op : RedOp) (w32 : Bool) (operand : Word) (contrib : Nat)
  /-- PUT (R232). -/
  | put (v : Word)
  /-- FEINIT (R232). -/
  | feinit (v : Word) (full : Bool)
  /-- RFLUSH of a byte length (R237). -/
  | rflush (va : Word) (len : Nat)
  /-- BINIT, BARV, BEXP, BINV (R297): function 0, 1, 2, 4; `reply` holds when the core waits. -/
  | barrier (f : Nat) (operand : Word) (reply : Bool)
  /-- The issue of the copy job in a slot, with its operands (R122, R287, R413). -/
  | copyIssue (slot : Nat) (operands : List Word)
  /-- SPUB of an item of eight rows to a stream (R294). -/
  | spub (stream : Nat) (rows : List Row)
  /-- A handle advance that the distributor sees at its move (R292): consumer or producer, by n. -/
  | hadv (producer : Bool) (h n : Nat)
  /-- CWPUB and CAPPEND with G = s0 (R324): the operand, the cancel bit, k. -/
  | cwpub (operand : Word) (cancel : Bool)
  | cappend (operand : Word) (k : Nat)
  /-- SXAPP with D = s0 (R331). -/
  | sxapp (a b : Word)
  /-- EVPOST and SPAWN with D = s0 (R308). -/
  | evpost (a b : Word)
  | spawn (a b : Word)
  /-- The read of byte i of the copy job in a slot from space 3 or 4, and a write of a byte there (i is the job's length for its STV
  completion action). -/
  | copyRead (slot i : Nat)
  | copyWrite (slot i : Nat)
  deriving DecidableEq, Repr

/-- One entry of the region buffer or of the commit queue. -/
structure Entry where
  act : Action
  place : Place
  /-- The effective address, for TVAL. -/
  ea : Word
  pol : Policy
  ord : Nat
  scope : Nat
  /-- The program-order stamp of the entry's instruction. -/
  stamp : Nat
  /-- Committed by REND (R123); always true in the commit queue. -/
  committed : Bool
  /-- The entry has been sent on its way to its home, its bank or its target and has not performed yet. -/
  sent : Bool
  /-- In a twin team: both twins' entries have been compared (R413, R414); a region's entries are, at its commit. -/
  checked : Bool
  /-- The user mode of the issuing core. -/
  user : Bool
  /-- The entry performs together with the one behind it: the two halves of a TSTS row (R251; log 19). -/
  pair : Bool := false
  /-- A store into a slot arena, whose right is checked again where it performs (R77, R98). -/
  cell : Bool := false
  /-- The encoding of a held command (R413). -/
  enc : Nat := 0
  deriving DecidableEq, Repr

/-- Where a load puts its value. -/
inductive LoadDst where
  /-- A scalar register: its number, the width in bytes, sign-extended or not (R222). -/
  | reg (d : Nat) (size : Nat) (signed : Bool)
  /-- A pair (R222). -/
  | pair (d : Nat)
  /-- Bytes of a tile row from a byte offset, of the given width, of which the low `keep` bits are valid (R249). -/
  | tile (t row off : Nat) (size keep : Nat)
  deriving DecidableEq, Repr

/-- A load on the load path: issued, not performed yet (R106, R120). -/
structure LoadEntry where
  dst : LoadDst
  place : Place
  size : Nat
  ea : Word
  pol : Policy
  acquire : Bool
  scope : Nat
  stamp : Nat
  /-- Bytes forwarded at issue from the core's own stores, by offset (R109); where the load has been sent, with the answer once it has
  come. -/
  fwd : SMap Byte
  /-- A load of another core's bank or of space 3 or 4, which its instruction has sent and waits for (R112, R419). -/
  remote : Bool
  /-- Responses that have failed their CRC (R415). -/
  crc : Nat
  deriving DecidableEq, Repr

/-- A waiter in a deferred list of a full/empty word (R232). -/
inductive Waiter where
  | take (core : Nat)
  | peek (core : Nat)
  | put (core : Nat) (v : Word)
  deriving DecidableEq, Repr

/-- What the current instruction of a core waits for; none where it has not begun to wait. -/
inductive Wait where
  /-- A reply from a bank, a home, a target or an engine, which the instruction waits for whatever happens. -/
  | reply
  /-- A reply of TAKE, PEEK or BWAIT, whose wait an interrupt withdraws (R233, R309). -/
  | bank
  /-- SLEEP (R213). -/
  | sleep
  /-- WAITA (R235): the start tick and the timeout, and whether it has been reached; the word (its buffer and offset), the compare
  value, and the first value that differed from it at an examination. -/
  | waita (start timeout : Nat) (expired : Bool) (buf : Space) (off : Nat) (cmp : Word) (seen : Option Word)
  /-- An instruction that makes several stores, of which some have not entered the commit queue yet (R106, R250; log 18). -/
  | stores
  /-- A wait that polls and that an interrupt withdraws (R254, R309, R324). -/
  | poll
  /-- JOIN, which polls likewise (R304, R309, R371). -/
  | join
  deriving DecidableEq, Repr

/-- The answer to a waiting instruction: values for its result registers, or a trap that it takes precisely. -/
inductive Reply where
  | value (v w : Word)
  | trap (cause : Nat) (val : Word)
  deriving DecidableEq, Repr

/-- A barrier object's waiters and the words that hold it lie in the A buffer; here only the waiters: core and the phase awaited
(R297). -/
structure BarWaiters where
  cores : List Nat
  deriving DecidableEq, Repr

/-- The state of a copy job (R287, R288). -/
inductive JobState where
  | held | queued | running | ended
  deriving DecidableEq, Repr

/-- A copy job in its slot. -/
structure Job where
  seq : Nat
  state : JobState
  /-- A code of R288; meaningful once ended. -/
  status : Nat
  /-- COPYS: the stream; COPY: none. -/
  stream : Option Nat
  dst : Word
  src : Word
  len : Nat
  flagA : Bool
  flagR : Bool
  flagOrd : Bool
  scope : Nat
  /-- 0 none, 1 STV, 2 BAR (R285). -/
  cmpl : Nat
  e0 : Word
  e1 : Word
  /-- The program-order stamp at issue. -/
  stamp : Nat
  user : Bool
  /-- Every byte below `next` is copied, and those that `done` lists. -/
  next : Nat
  done : List Nat
  /-- COPYS: the bytes read so far that form the item. -/
  item : SMap Byte
  /-- The copied bytes whose source granule was poisoned (R404). -/
  tainted : List Nat
  /-- The end of the job: 0 bytes are still to copy or nothing has begun, 1 the item has entered its stream, 2 the completion action is
  on its way. -/
  stage : Nat
  /-- The job sleeps on a fault record at this address (R288, R353). -/
  fault : Option Nat
  deriving DecidableEq, Repr

/-- A circular-buffer handle (R290); `seenF` is the filled count as the distributor sees it (R292). -/
structure Handle where
  base : Nat
  size : Nat
  count : Nat
  head : Nat
  tail : Nat
  filled : Nat
  /-- Slots freed inside the open region, which the distributor does not see yet. -/
  freedHeld : Nat
  /-- The stream that the handle is subscribed to (R293). -/
  stream : Option Nat
  deriving DecidableEq, Repr

/-- The record of a block of a macro column (R55, R59): the exponent EW, the factor gW as an FP32 code, and the NaN mark. -/
structure BlockRec where
  ew : Int
  gw : BitVec 32
  nan : Bool
  deriving DecidableEq, Repr

/-- The state of a macro: EMPTY, or LOADED with its W format and its block records (R266); `recs` lists by 16 * column + block only what
differs from EW 0, gW 1 and no NaN. -/
structure MacroState where
  loaded : Bool
  fmt : Nat
  recs : SMap BlockRec
  deriving DecidableEq, Repr

/-- A narrow sum (R57): a finite value m * 2^x, or a NaN. -/
structure Narrow where
  m : Int
  x : Int
  nan : Bool
  deriving DecidableEq, Repr

/-- The kind of an accumulator (R266). -/
inductive AccKind where
  | none | fp32 | int32
  deriving DecidableEq, Repr

/-- An accumulator register with its hidden state (R266); elements and narrow sums by row * 64 + column, absent ones 0. -/
structure Acc where
  kind : AccKind
  elems : SMap (BitVec 32)
  narrow : SMap Narrow
  count : Nat
  nv : Bool
  of : Bool
  is : Bool
  rden : Bool
  exit : BitVec 8
  deriving DecidableEq, Repr

/-- A matrix job of a core (R275, R280). -/
structure MatJob where
  zero : Bool
  ad : Nat
  /-- The tile or handle that holds A. -/
  ta : Nat
  handle : Bool
  mac : Nat
  fmta : Nat
  interval : Nat
  mode : Nat
  e2 : Word
  e3 : Word
  /-- The stamp of its instruction. -/
  order : Nat
  /-- The port it runs on, with the A rows of its row buffer (eight, or sixteen for SE2M1). -/
  port : Option Nat
  rows : List Row
  deriving DecidableEq, Repr

/-- A weight job of a core (R270 to R272). -/
structure WJob where
  /-- 0 WLD, 1 WLDH, 2 WCLR. -/
  kind : Nat
  mac : Nat
  fmt : Nat
  handle : Nat
  started : Bool
  /-- The stamp of its instruction. -/
  order : Nat
  /-- The containers of the 64 columns and the records that the job's reads have given (WLD: at issue; WLDH: at its start). -/
  cols : List Row
  recs : SMap BlockRec
  deriving DecidableEq, Repr

/-- The local write window of a region (R332): buffer (0 A, 1 C), offset and length. -/
structure Window where
  buf : Nat
  base : Nat
  len : Nat
  deriving DecidableEq, Repr

/-- An open region: its checkpoint (R333) and its legality marks (R334). -/
structure Region where
  entry : Word
  /-- The region has begun by R335: its entry address holds no RBEGIN. -/
  implicit : Bool
  window : Window
  regs : Vector Word 16
  ext : Vector Word 4
  qcfg : Word
  queues : Vector (List Word) 4
  handles : Vector Handle 8
  seq : Nat
  /-- Tiles, accumulators and macros read before any write, and those written (bit n for register n). -/
  rbwTile : BitVec 8
  wrTile : BitVec 8
  rbwAcc : BitVec 4
  wrAcc : BitVec 4
  rbwMac : BitVec 12
  /-- Bytes written, by 64-byte block offset within the buffer. -/
  marks : SMap (BitVec 64)
  /-- The marks of the poisoned registers of the checkpoint (R404). -/
  poison : List (Nat × Nat)
  /-- What the region's own HADVP and HADVC have moved, by handle (R292). -/
  produced : Vector Nat 8
  consumed : Vector Nat 8
  deriving DecidableEq, Repr

/-- An entry of the transfer queue (R204). -/
structure Transfer where
  target : Word
  count : Nat
  deriving DecidableEq, Repr

/-- Whether a core runs (R372, R428, R430). -/
inductive RunState where
  /-- Started and not ended. -/
  | running
  /-- In no team, or its thread has ended. -/
  | idle
  /-- Vacated by a pre-emption, a swap-out or a containment (R357). -/
  | vacated
  /-- Stopped by DEBUG_STOP (R430). -/
  | stopped
  /-- Sleeping on a page-fault record (R353). -/
  | faultSleep
  deriving DecidableEq, Repr

/-- The page-fault sleep of a core: the record's die and page, the access, and the resume state (R353, R355). -/
structure FaultSleep where
  die : Nat
  vpn : Nat
  /-- The cause the core takes if the record is refused: 12, 13 or 15. -/
  cause : Nat
  va : Word
  resume : Word
  /-- The address of the faulting instruction, for TREGPC, where the core was in a region. -/
  regPc : Option Word
  deriving DecidableEq, Repr

/-- A cache-walker command of a core (R236, R237): 0 PREF, 1 RFLUSH, 2 RINV; its first virtual line, its lines, and how many of them
are handled. -/
structure Walk where
  kind : Nat
  line : Nat
  count : Nat
  done : Nat
  pol : Policy
  deriving DecidableEq, Repr

/-- The commands that a core sends to an engine and whose answer it waits for, or that are held until the commit queue allows
them (R131, R300, R305, R316, R327). -/
inductive Command where
  | rngget (retireOnly : Bool)
  | spub (stream : Nat) (rows : List Row)
  deriving DecidableEq, Repr

/-- The region-buffer entries that an entry takes (R294). -/
def Entry.slots (e : Entry) : Nat := match e.act with | .spub _ _ => 16 | _ => 1

/-- A line held in a herd cache (R106, R113): its bytes, its lease expiry (none: an SWM copy), the bytes that SWM stores have marked,
and whether it leaves first. -/
structure HLine where
  data : BitVec 512
  expiry : Option Nat
  marks : BitVec 64
  /-- Inserted evict-first, by a STREAM access (R113). -/
  first : Bool
  deriving DecidableEq, Repr

/-- A partial line (R125): contributor and core position, with the partial value of each element (raw element bits by byte
offset), absent ones at the identity. -/
structure Partial where
  line : Nat
  contrib : Nat
  herd : Nat
  pos : Nat
  elems : SMap Nat
  /-- Its granule has an uncorrectable error (R402, R404). -/
  poisoned : Bool
  deriving DecidableEq, Repr

/-- An entry of the victim buffer (R126): an SWM dirty line or a partial line on its way home. -/
structure Victim where
  line : Nat
  dirty : Option HLine
  part : Option Partial
  /-- 0 request not arrived, 1 granted, 2 cancelled, 3 data on its way. -/
  phase : Nat
  answered : Bool
  deriving DecidableEq, Repr

/-- A store that a HERD-policy store forwards to the home (R113), with the core that issued it. -/
structure Forward where
  core : Nat
  place : Place
  bytes : SMap Byte
  arrived : Bool
  deriving DecidableEq, Repr

/-- A write that waits at a home (R116): who waits for it, and what it does. -/
inductive WriteSrc where
  /-- The head of a core's commit queue. -/
  | core (k : Nat)
  /-- The oldest forward of a herd for this place. -/
  | forward (herd : Nat)
  /-- A record of a ring (R102), by its number. -/
  | ring (n : Nat)
  /-- A byte of a copy job, and its STV completion action. -/
  | copy (core slot : Nat)
  | stv (core slot : Nat)
  /-- SWM data written back by a herd cache. -/
  | writeback (herd : Nat)
  /-- The suffix engine for a command of a core, or of a channel by 40960 + its number. -/
  | suffix (who : Nat)
  /-- The sheet engine. -/
  | sheet
  /-- The host or an OS core. -/
  | outside
  deriving DecidableEq, Repr

/-- A write that waits at a home. -/
structure WaitingWrite where
  src : WriteSrc
  place : Place
  act : Action
  /-- What it writes is poisoned (R404). -/
  poisoned : Bool
  /-- With it, its writer has written the line whole. -/
  whole : Bool
  deriving DecidableEq, Repr

/-- The home of a line (R106): lease horizon, waiting writes in arrival order (PendingWrite holds while there are any), herds that
hold partials, and held partials in the order of their write-back. -/
structure Home where
  horizon : Nat
  waiting : List WaitingWrite
  holders : List Nat
  held : List Partial
  /-- The held partials lie in the spill area of the line's pseudo-channel (R126, R417). -/
  spilled : Bool
  /-- Times that the first waiting write has failed its CRC (R34). -/
  crc : Nat
  deriving DecidableEq, Repr

/-- A message to a bank (R112, R232, R297): the sender, the owner of the bank, and what it carries. -/
inductive MsgKind where
  /-- A remote load: the stamp of its entry on the sender's load path. -/
  | load (stamp : Nat)
  /-- The head of the sender's commit queue. -/
  | entry
  | take
  | peek
  | bwait (phase : Nat)
  /-- The BAR completion action of the job in a slot. -/
  | bar (slot : Nat)
  deriving DecidableEq, Repr

/-- A message in flight. -/
structure Msg where
  src : Nat
  dst : Nat
  off : Nat
  /-- The pointer, for TVAL. -/
  ea : Word
  kind : MsgKind
  deriving DecidableEq, Repr

/-- A commutative range (R238, R239): physical base and length, element format (0 FP32, 1 FP16, 2 BF16, 3 INT32, 4 INT64),
operation (0 add, 1 min, 2 max), the declaring team, and whether CRCLR has closed it. -/
structure CommRange where
  base : Nat
  len : Nat
  fmt : Nat
  op : Nat
  team : Nat
  closed : Bool
  deriving DecidableEq, Repr

/-- A core (R21, R189, R204, R266, R287, R290). -/
structure Core where
  run : RunState
  /-- Its team (R65); none where it belongs to no team. -/
  team : Option Nat
  /-- The buffers its team claims (R217, R363): bit 2 W, bit 1 A, bit 0 C. -/
  claim : BitVec 3
  pc : Word
  regs : Vector Word 16
  /-- The entries of the register queues of s12 to s15, oldest first (R194, R195). -/
  queues : Vector (List Word) 4
  ext : Vector Word 4
  tiles : Vector (Vector Row 8) 8
  accs : Vector Acc 4
  macs : Vector MacroState 12
  bufW : SMap Byte
  bufA : SMap Byte
  bufC : SMap Byte
  /-- The doublewords of A whose full/empty bit is set (R229), rising. -/
  full : List Nat
  /-- Deferred lists by doubleword (R229). -/
  deferred : SMap (List Waiter)
  /-- Waiters of barrier objects, by the object's offset (R297). -/
  barWait : SMap (List Nat)
  handles : Vector Handle 8
  status : Word
  evstat : Word
  qcfg : Word
  contrib : Word
  wbmask : Word
  coreid : Word
  teamid : Word
  teamsz : Word
  slice : Word
  shgen : Word
  shcell : Word
  cycle : Word
  instret : Word
  rgncnt : Word
  rgnlim : Word
  clkg : Word
  clkq : Word
  tvec : Word
  tepc : Word
  tcause : Word
  tval : Word
  tbq : Word
  tbt0 : Word
  tbt1 : Word
  tregpc : Word
  tscratch : Word
  timecmp : Word
  tq : List Transfer
  an : Nat
  /-- The issues to come that are delay slots of the last branch, taken or not (R204, R332). -/
  delay : Nat
  region : Option Region
  pendingRegion : Option Window
  /-- The instruction at the pc has ended its region and has not completed: no region begins at it (R335). -/
  terminating : Bool
  rbuf : List Entry
  cq : List Entry
  /-- The stores of the issuing instruction that have not entered the commit queue yet (R106, R250; log 18). -/
  issuing : List Entry
  /-- The herds of the rectangle that has refused an entry of the core whose trap is pending (R221). -/
  refusedBy : List Nat
  loads : List LoadEntry
  /-- The program-order stamp of the next access. -/
  stamp : Nat
  /-- The pending deferred trap: cause and TVAL (R348). -/
  deferredTrap : Option (Nat × Word)
  /-- Interrupt 1 is pending (R207). -/
  doorbell : Bool
  jobs : SMap Job
  jobSeq : Nat
  walks : List Walk
  matJobs : List MatJob
  wJobs : List WJob
  /-- The core's place in its quad's tile-unit queue is taken (R253). -/
  tileBusy : Bool
  /-- Instruction-cache mode (R21, R442). -/
  cacheMode : Bool
  /-- The pinned image, by offset. -/
  image : SMap Byte
  /-- The pinned segments, address and length, whose bytes stand in the image one after another (R442; log 3). -/
  pins : List (Nat × Nat)
  /-- Lines of the instruction cache, oldest first: line number of the address, and the bytes (R133). -/
  ilines : List (Nat × BitVec 512)
  wait : Option Wait
  reply : Option Reply
  /-- The command that the waiting instruction has sent, while it is on its way. -/
  command : Option Command
  /-- What the waiting command has carried to its engine: the operands and the doublewords of its block (R310, R396). -/
  carried : Option (List Nat)
  /-- Times that the response to the waiting instruction or fetch has failed its CRC (R415). -/
  crc : Nat
  faultSleep : Option FaultSleep
  /-- Accesses to spaces 3 and 4 that the target has not answered (R419): loads and stores in issue order. -/
  extern : List (Bool × Entry)
  /-- The chunk that the core holds (R302). -/
  chunk : Option (Nat × Nat)
  /-- The wired-barrier arrival on its way: the group, whether it waits for earlier commit-queue entries, and its stamp (R300). -/
  arrival : Option (Nat × Bool × Nat)
  /-- In a twin team: the partner, and whether this core is the primary (R412). -/
  twin : Option (Nat × Bool)
  /-- A twin waits with this commit hash at REND, or with these operands at a once-issued instruction (R413, R414). -/
  twinAt : Option (Word × List Word)
  /-- The reads and writes of the twin's last once-issued instruction have been matched. -/
  twinOk : Bool
  /-- Poisoned granules of the core (R402, R404), by UNIT of R410 and index: 0 registers (scalars 0 to 15, e0 16, tile rows
  64 + 8t + r, accumulator rows 128 + 8a + r, control registers 4096 + number), 1 buffers (A offset / 8, C 8192 + offset / 8, the
  full/empty bits of 64 doublewords 16384 + offset / 512), 2 macro rows (128m + row), 3 instruction store (offset / 8). -/
  poison : List (Nat × Nat)
  /-- The core's last issue found nothing to do (the model's own field, log 7). -/
  stalled : Bool
  deriving DecidableEq, Repr

end Sys2Proof.Machine
end

