-- ==== Sys2Proof/Machine/Parts.lean ====
section
/-!
DEFINITION. The kinds of data that teams, dies, the sheet engine, the suffix engine, the rings, the command window and the
management core hold (R65 to R105, R238 to R242, R293 to R307, R354, R362 to R382, R384 to R396, R403 to R431).
-/

namespace Sys2Proof.Machine

/-- A launch block as the engines copy it (R363, R364): its fields, and the descriptors of its initialisation list. -/
structure LaunchBlock where
  entry : Word
  args : Word
  slices : Nat
  quota : Nat
  rgnlim : Nat
  chunk : Nat
  prio : Nat
  twin : Bool
  claim : BitVec 3
  hmax : Nat
  hmin : Nat
  clock : Word
  tds : List (Nat × BitVec 512)
  deriving DecidableEq, Repr

/-- Where a task comes from (R362). -/
inductive TaskSource where
  | supervisor
  | formula (sheet cell gen : Nat)
  | kid (id parent spawner die : Nat)
  | boot (die : Nat)
  deriving DecidableEq, Repr

/-- The range unit of a team (R302, R374): the first slice not handed out, NS, the factor c, returned chunks, and the cores whose
requests wait, in arrival order. -/
structure RangeUnit where
  next : Nat
  ns : Nat
  factor : Nat
  returned : List (Nat × Nat)
  requests : List Nat
  deriving DecidableEq, Repr

/-- Where a team is (STATE of R382). -/
inductive TeamState where
  | queued | starting | running | swapped | ending | ended | failed
  deriving DecidableEq, Repr

/-- A rectangle of herds on a die (R369): herd column and row of its north-west herd, width and height. -/
structure Rect where
  die : Nat
  x : Nat
  y : Nat
  w : Nat
  h : Nat
  deriving DecidableEq, Repr

/-- A view of a sheet (R88): its owner (the logical core, or a channel, as `ownerOf` names them), handle, sheet, generation, revocation,
and the mappings it gave: address, length, cell. -/
structure View where
  owner : Nat
  handle : Nat
  sheet : Nat
  gen : Nat
  revoked : Bool
  maps : List (Nat × Nat × Nat)
  deriving DecidableEq, Repr

/-- A write session (R76): owner, sheet, the cells with their pending slot's number, address and length, and the append commits. -/
structure Session where
  owner : Nat
  sheet : Nat
  cells : List (Nat × Nat × Nat × Nat)
  appends : List (Nat × Nat)
  deriving DecidableEq, Repr

/-- The state of a cell for one generation (R86). -/
inductive VState where
  | stale | ready | running | fresh | failed | absent | skipped
  deriving DecidableEq, Repr

/-- A version of a cell (R75, R78, R86). -/
structure Version where
  gen : Nat
  st : VState
  /-- Plain: the slot; append: the tail slot, 0 or 1. -/
  slot : Nat
  /-- Append: the prefix length, and whether the version has a tail of its own (its count stands in the slot's header). -/
  plen : Nat
  tail : Bool
  /-- Append (R78): the entries k that its commit takes into the prefix from tail slot `src`, and those still to be copied. -/
  commit : Nat
  src : Nat
  copy : Nat
  /-- Made by an append commit alone (R79). -/
  alone : Bool
  /-- Its task is complete, or it has none: it becomes fresh once nothing is to be copied (R78, R84). -/
  ended : Bool
  /-- Its place in the order of arrival, once READY (R367). -/
  arrival : Nat
  /-- Recalculations of this version that containment has ended (R409). -/
  contained : Nat
  /-- The formula team that computes it. -/
  team : Option Nat
  /-- The versions its dispatch presents (R91, R96): cell, generation of the version, generation of the pin. -/
  pins : List (Nat × Nat × Nat)
  /-- The range table that its dispatch has written, if any: address and length (R96). -/
  table : Nat × Nat
  deriving DecidableEq, Repr

/-- A formula (R70) in force from a generation on (R80). -/
structure Formula where
  since : Nat
  lb : LaunchBlock
  /-- Precedents with their lag (true: 1). -/
  precs : List (Nat × Bool)
  range : Option (Nat × Nat × Bool)
  level : Nat
  /-- Where the range's addresses are presented: address and length in the arena (R96). -/
  table : Nat × Nat
  deriving DecidableEq, Repr

/-- The class of a cell (R69). -/
inductive CellClass where
  | plain | append | const
  deriving DecidableEq, Repr

/-- A cell (R69, R73, R74): bound under its index below 2^20, or unbound with versions left (R81) under a key above. -/
structure Cell where
  desc : BitVec 512
  rank : Nat
  cls : CellClass
  depth2 : Bool
  watch : Option Nat
  formulas : List Formula
  cap : Nat
  esize : Nat
  /-- Slot addresses: plain, depth d: d; constant: 1; append: prefix, tail 0, tail 1 (each tail's header lies 64 bytes below). -/
  slots : List Nat
  slotLen : Nat
  /-- Newest first. -/
  versions : List Version
  deriving DecidableEq, Repr

/-- A stale marking in progress (R79): its generation, the ranks below which it has passed, the cell that a bind or an edit marks
itself (R80), and the append commits of formula cells (R78). -/
structure Marking where
  gen : Nat
  passed : Nat
  self : Option Nat
  commits : List (Nat × Nat)
  deriving DecidableEq, Repr

/-- A sheet (R68). -/
structure Sheet where
  asid : Nat
  errRing : Nat
  base : Nat
  size : Nat
  /-- Allocated ranges of the arena: address and length. -/
  alloc : List (Nat × Nat)
  gen : Nat
  cells : SMap Cell
  sessions : List Session
  views : List View
  /-- Oldest first. -/
  marking : List Marking
  /-- Write sessions that wait for slots: owner, cells (R94). -/
  waiting : List (Nat × List Nat)
  /-- SHEETDEL waits for running recalculations (R424). -/
  deleting : Bool
  deriving DecidableEq, Repr

/-- A publish on its way to the sheet engine (R77): the core, the operand, cancel. -/
structure Publish where
  core : Nat
  operand : Word
  cancel : Bool
  /-- The issuing core waits for the generation. -/
  reply : Bool
  deriving DecidableEq, Repr

/-- The saved context of a core (R358, R359, R361): the sections of R341 that it has, their doublewords by offset (absent ones 0), and the
core without what R341 lays out. -/
structure SavedCore where
  mask : Nat
  area : SMap Nat
  rest : Core
  deriving DecidableEq, Repr

/-- A team and its task (R65 to R67, R362 to R377, R382). -/
structure Team where
  src : TaskSource
  lb : LaunchBlock
  asid : Nat
  root : Nat
  shgen : Word
  shcell : Word
  level : Nat
  arrival : Nat
  urgent : Bool
  st : TeamState
  rects : List Rect
  herds : List Nat
  /-- Herds not started yet, in starting order (R373). -/
  toStart : List Nat
  range : RangeUnit
  td : SMap (BitVec 512)
  /-- Kid entries of the quota in use (R377). -/
  quotaUsed : Nat
  /-- A kid's pool entry: 0 none (it waits in the memory-backed queue, or is no kid), 1 of its parent's quota, 2 of the die's pool (R377). -/
  entry : Nat
  /-- The failure summary once the team has failed (R101). -/
  failure : Option Word
  swaps : Nat
  resizes : Nat
  clamp : Bool
  clockReq : Word
  km : Nat
  kv : Nat
  relaxed : Bool
  /-- Contexts saved by a swap-out, by twice the COREID, and one more for a twin (R359). -/
  saved : SMap SavedCore
  /-- Contexts scanned out of cores claimed by a level-0 team, by core key (R358). -/
  scanned : SMap SavedCore
  /-- The executable segments with which the supervisor loads the team pinned, address and length (R442); none in instruction-cache mode. -/
  pins : List (Nat × Nat)
  /-- TVECDEF of each die when the team was placed there: TVEC at the start of its cores (R426). -/
  tvecs : Vector Word 8
  /-- At the beginning of its slice (R359): KV and KN in force, and the KiB that each core has restored; and the tick of its home die then. -/
  slice : Nat × Nat × Nat
  began : Nat
  /-- Herds that a level-0 team has claimed from this team, and from whom this team has claimed (R370, R376). -/
  claimedBy : List (Nat × List Nat)
  /-- Kids spawned: identifier, spawner (as `ownerOf` names it), and once complete whether it or a descendant failed. -/
  kids : List (Nat × Nat × Option Bool)
  /-- The rectangles that the placer has chosen so far for the waiting task (R369). -/
  proposal : List Rect
  /-- A swap-out has begun (R359); and the arbiter has asked for it or keeps the team waiting (R379). -/
  swapping : Bool
  suspended : Bool
  /-- Its place in the order of placements (R379). -/
  order : Nat
  /-- Claimed storage stayed in place unsaved at the swap-out (R360). -/
  kept : Bool
  /-- Containment ends the recalculation that the team belongs to (R409): the fault summary for its last run. -/
  contained : Option Word
  deriving DecidableEq, Repr

/-- A ring of records in device memory: an event ring (R102), a fault queue (R354) or a containment queue (R410). -/
structure Ring where
  base : Nat
  ticks : Nat
  count : Nat
  target : Nat
  size : Nat
  prod : Nat
  cons : Nat
  /-- Records held on chip while the ring is full (R103). -/
  held : List (BitVec 256)
  /-- Records written since the last interrupt, and the tick of the first of them. -/
  unsignalled : Nat
  sinceTick : Nat
  placed : Bool
  /-- A record is on its way to its line's home (R102, R116). -/
  writing : Bool
  /-- The records of an event ring that have been posted once, oldest first: after the fault of a part each may be posted again (R104). -/
  posted : List (BitVec 256)
  deriving DecidableEq, Repr

/-- A wired-barrier group of a die (R299 to R301): the team it is assigned to (0: free), its counter, and its members, by 65536 times the
team and the core, with whether they have arrived. -/
structure WGroup where
  team : Nat
  counter : BitVec 32
  members : List (Nat × Bool)
  deriving DecidableEq, Repr

/-- An outstanding page-fault record of a die (R353): team, page, and the sleepers: cores, and copy jobs by core and slot. -/
structure FaultRecord where
  team : Nat
  vpn : Nat
  cores : List Nat
  jobs : List (Nat × Nat)
  deriving DecidableEq, Repr

/-- A containment in progress (R407): the herds of its rectangle. -/
structure Containment where
  herds : List Nat
  deriving DecidableEq, Repr

/-- A compute die (R16, R426). -/
structure Die where
  clock : Nat
  crect : Vector Word 32
  lease : Nat
  aging : Nat
  stagger : Nat
  spill : Nat
  keep : Vector Word 8
  wayset : Vector (BitVec 16) 8
  tvecdef : Word
  corrected : Vector Nat 9
  kn : Nat
  groups : Vector WGroup 16
  faultQ : Ring
  contQ : Ring
  kidQ : Ring
  faults : List FaultRecord
  /-- Kids waiting in the memory-backed queue, oldest first (R67, R377): team numbers. -/
  kidWait : List Nat
  poolUsed : Nat
  containment : Option Containment
  /-- Consumptions of poison whose containment has not started (R405): the issuing core, the unit and the address of R410. -/
  consuming : List (Nat × Nat × Nat)
  failedRouters : List (Nat × Nat)
  /-- The die's translation cache (R352): asid, virtual page, physical page of 64 KiB, and bits 7:0 of the leaf. -/
  tcache : List (Nat × Nat × Nat × Nat)
  deriving DecidableEq, Repr

/-- A herd (R16): its cache, partial lines, victim buffer, forwards, TLB entries (asid, page number of 64 KiB, physical page,
permission byte), the core the matrix engine served last, and the ratio in force on it (R380). -/
structure Herd where
  lines : SMap HLine
  parts : List Partial
  victims : List Victim
  forwards : List Forward
  tlb : List (Nat × Nat × Nat × Nat)
  served : Nat
  clkg : Word
  deriving DecidableEq, Repr

/-- An item of a stream (R295): its eight rows, its poisoned granules by offset / 8, and the subscriptions still to serve. -/
structure Item where
  rows : List Row
  poison : List Nat
  subs : List (Nat × Nat)
  deriving DecidableEq, Repr

/-- A stream (R293 to R307): its queued items, its subscriptions (core, and 8 times its team plus the handle), its tree's cores and team. -/
structure Stream where
  queue : List Item
  subs : List (Nat × Nat)
  tree : List Nat
  team : Option Nat
  deriving DecidableEq, Repr

/-- A sequence slot of the suffix engine (R384). -/
structure SxSlot where
  par : Word
  n : Nat
  loE : Nat
  lo : Nat
  /-- Tokens lo to n - 1. -/
  toks : List (BitVec 32)
  stamp : Nat
  rebuild : Bool
  deriving DecidableEq, Repr

/-- What a waiting SXSAVE will write: its slot as of its arrival, none for a slot that is not open (R392). -/
structure SlotSave where
  /-- The core, or a channel by 40960 + its number; and the arrival. -/
  who : Nat
  stamp : Nat
  slot : Nat
  shot : Option SxSlot
  deriving DecidableEq, Repr

/-- The suffix engine (R384 to R396). -/
structure Suffix where
  slots : SMap SxSlot
  /-- The waiting SXSAVEs. -/
  saves : List SlotSave
  /-- The index region: its address and its size in GiB (R385). -/
  index : Option (Nat × Nat)
  mailbox : Option Nat
  ring : Option Nat
  arrivals : Nat
  deriving DecidableEq, Repr

/-- The operands of a channel's command as its GO gave them (R423). -/
structure Given where
  desc : Nat
  cls : Nat
  fn : Nat
  arga : Word
  arga1 : Word
  argb : Word
  argd : Word
  deriving DecidableEq, Repr

/-- A channel of the command window (R422). -/
structure Channel where
  desc : Nat
  cls : Nat
  fn : Nat
  arga : Word
  arga1 : Word
  argb : Word
  argd : Word
  busy : Bool
  done : Bool
  err : Nat
  res0 : Word
  res1 : Word
  /-- The command has had its effects and only DONE is outstanding (R423). -/
  finished : Bool
  /-- The operands of the command that runs (R423). -/
  given : Option Given
  /-- What a command that goes on later has read or is still to write: the contents of its block (R310), its arrival and its slot (R384),
  or its drafts (R388). -/
  carried : Option (List Nat)
  td : SMap (BitVec 512)
  deriving DecidableEq, Repr

/-- The operands that the registers of a channel hold. -/
def Channel.operands (c : Channel) : Given :=
  { desc := c.desc, cls := c.cls, fn := c.fn, arga := c.arga, arga1 := c.arga1, argb := c.argb, argd := c.argd }
/-- The channel as its command sees it: while one runs, its operands are those of its GO (R423). -/
def Channel.seen (c : Channel) : Channel :=
  match c.given with
  | some g => { c with desc := g.desc, cls := g.cls, fn := g.fn, arga := g.arga, arga1 := g.arga1, argb := g.argb, argd := g.argd }
  | none => c

/-- Where the boot stands (R427). -/
inductive BootStage where
  /-- Before power-on. -/
  | off
  /-- DHCPv6: retries so far; image discards so far. -/
  | network (retries discards : Nat)
  /-- TFTP: retries, discards, and the bytes received so far. -/
  | fetch (retries discards : Nat) (image : List Byte)
  | released
  /-- Halted with the status code it reports over I3C. -/
  | halted (code : Nat)
  /-- The compute dies have no power (R431). -/
  | shutdown
  deriving DecidableEq, Repr

/-- The algorithms that the management core offers over SPDM (R429): the base hash, and the extended asymmetric one. -/
inductive SpdmAlgorithm where
  | sha384 | ecdsaBrainpoolP384r1
  deriving DecidableEq, Repr

/-- An SPDM answer (R429): its response code and two parameters, the algorithms and the measurements (by index) in it, and the signature over
it, as r and s. -/
structure SpdmAnswer where
  code : Nat
  param1 : Nat
  param2 : Nat
  algorithms : List SpdmAlgorithm
  blocks : List (Nat × List Byte)
  signature : Option (Nat × Nat)
  deriving DecidableEq, Repr

/-- The management core and what it decides from (R427, R429, R431). -/
structure Mgmt where
  stage : BootStage
  /-- The firmware copies in flash in the order in which they are tried (Config.firmware holds their contents), and the fused counter. -/
  firmware : List Nat
  minVersion : Nat
  /-- Measurements by index, as the digests that the signer would sign (R429). -/
  measurements : List (Nat × List Byte)
  /-- The BOOTPORT fuse: the Ethernet port that it names, if any (R421). -/
  bootFuse : Option Nat
  /-- The entry address at which OS core 0 has been released. -/
  osEntry : Option Word
  cap : Nat
  effCap : Nat
  tmax : Nat
  /-- How far the SPDM connection has come: 1 its version, 2 its capabilities, 3 its algorithms are agreed (R429; log 41). -/
  connected : Nat
  /-- A key exchange waits for its FINISH: its counter; and a secured session is open. -/
  exchange : Option Nat
  secured : Bool
  /-- The last SPDM answer. -/
  answer : Option SpdmAnswer
  deriving DecidableEq, Repr

/-- An interrupt raised outside the compute dies: an OS core by number, or a host vector (R102, R420). -/
inductive External where
  | osCore (n : Nat)
  | vector (n : Nat)
  deriving DecidableEq, Repr

/-- A poisoned granule (R402, R404): a line of a herd cache or of memory, a doubleword of the OS complex memory, or one of the state of a
sheet or suffix slot. -/
structure PoisonMark where
  /-- 4 herd cache, 5 L2, 6 HBM and OS complex memory, 8 CRC retries exhausted (the UNIT codes of R410); 10 a sheet, 11 a suffix slot
  (log 108). -/
  unit : Nat
  /-- The herd; of memory 0 for a whole line, else 1 and the doubleword of the line; the sheet or slot. -/
  key : Nat
  /-- The line; of a sheet or slot its doubleword, from 2^58 on. -/
  addr : Nat
  deriving DecidableEq, Repr

end Sys2Proof.Machine
end

