-- ==== Sys2Proof/Machine/State.lean ====
section
/-!
DEFINITION. The state of the part, all of it plain data, the reasons a step can stop, and the state after reset.
-/

namespace Sys2Proof.Machine

/-- Which agent moves next (the model's own, log 7). -/
inductive Turn where
  /-- The core with this key issues one Step (R204). -/
  | issue (core : Nat)
  /-- An event of the opcode table. -/
  | event (i : Instr)
  /-- The lease clock of a die, 0 to 7 (R118), advances by one tick. -/
  | tick (die : Nat)
  /-- V-cycles pass on a core between issues (R190). -/
  | cycles (core n : Nat)
  /-- One byte of a running copy job is copied (R128). -/
  | copyByte (core slot i : Nat)
  /-- A clean copy is evicted from a herd cache; an SWM dirty line moves to the victim buffer (R113, R126). -/
  | evict (herd line : Nat)
  /-- A translation is dropped from a TLB (R352). -/
  | dropTlb (herd i : Nat)
  /-- The next line of a walker command is handled (R236). -/
  | walkLine (core i : Nat)
  /-- A stopped core issues exactly one Step (R430). -/
  | single (core : Nat)
  /-- The supervisor has a waiting team loaded pinned, with these executable segments, address and length (R442); none for cache mode. -/
  | pin (team : Nat) (segments : List (Nat × Nat))
  /-- The supervisor writes a doubleword of a swapped-out team's save area (R361): the core by twice its COREID, and one more for a twin. -/
  | saveArea (team core off value : Nat)
  /-- TMAX is set, within 85 to 110 degrees (R431, which does not say by whom: log 111). -/
  | tmax (degrees : Nat)
  /-- The supervisor extends measurement 4 by a configuration it declares (R429). -/
  | measure (bytes : List Byte)
  /-- The remote debug service performs a DEBUG function: the core in the layout of CORELOC, the function and the state area (R429, R430;
  log 141). -/
  | remoteDebug (core fn area : Nat)
  /-- After the fault of a part the ring logic posts a record of an event ring again: its place among those posted once, and whether with the
  TIME of this moment (R104; log 98). -/
  | repost (ring index : Nat) (now : Bool)
  /-- The engines move until none of them can. -/
  | engines
  /-- Time passes. -/
  | pass
  deriving DecidableEq, Repr

/-- The state of the part. -/
structure State where
  /-- The core on which exec runs an instruction (the model's own, log 7). -/
  cur : Nat
  /-- The turns to come (the model's own, log 7); when empty, step makes a round of them. -/
  agenda : List Turn
  /-- The counter of free values (the model's own, log 7). -/
  free : Nat
  cores : SMap Core
  herds : SMap Herd
  /-- The core that each quad's tile unit served last (R253). -/
  quads : SMap Nat
  dies : Vector Die 8
  /-- HBM and the OS complex memory by device physical address (R29, R417). -/
  mem : List Host.Cell
  homes : SMap Home
  /-- Poisoned lines of herd caches and of memory (R404). -/
  poison : List PoisonMark
  ranges : SMap CommRange
  streams : SMap Stream
  net : List Msg
  teams : SMap Team
  /-- The next team number and the next kid identifier. -/
  nextTeam : Nat
  nextKid : Nat
  /-- The order of arrival among tasks (R367). -/
  arrivals : Nat
  sheets : SMap Sheet
  publishes : List Publish
  suffix : Suffix
  rings : SMap Ring
  /-- A part of the hardware has had a fault: records may be posted twice from then on (R104). -/
  faulted : Bool
  channels : SMap Channel
  /-- The time slices of the four levels (R359). -/
  slices : Vector Nat 4
  /-- The root table of each ASID that a launch has named (R350). -/
  roots : SMap Nat
  pinRate : Nat
  peers : List Nat
  mgmt : Mgmt
  /-- Interrupts raised to OS cores and to the host, oldest first (R102, R420). -/
  raised : List External
  /-- Fused-off cores, by key (R18, R20). -/
  fused : List Nat
  serial : Word
  deriving DecidableEq, Repr

/-- Why the machine stops.  No step of this model ends in a fault: the spec gives every access to a place that does not exist a
trap of the core (R29, R217, R220), which is a next state. -/
inductive Fault where
  /-- Raised by no meaning; kept so that the type is closed and not empty (safe). -/
  | none
  deriving DecidableEq, Repr

/-- Why a step is refused. -/
inductive Refusal where
  /-- The instruction has no meaning in this model yet (raised by its arm of exec; safe). -/
  | notModelled (mnemonic : String)
  deriving DecidableEq, Repr

/-- A handle after reset (R290). -/
def Handle.reset : Handle :=
  { base := 0, size := 0, count := 0, head := 0, tail := 0, filled := 0, freedHeld := 0, stream := none }

/-- An accumulator after reset (R266). -/
def Acc.reset : Acc :=
  { kind := .none, elems := [], narrow := [], count := 0, nv := false, of := false, is := false, rden := false, exit := 0 }

/-- A macro after reset: EMPTY (R266). -/
def MacroState.reset : MacroState := { loaded := false, fmt := 0, recs := [] }

/-- STATUS after reset: MODE 1 (R191). -/
def statusReset : Word := 0x20000

/-- A core after reset (R189, R191, R266, R290; log 1). -/
def Core.reset : Core :=
  { run := .idle, team := none, claim := 0, pc := 0
    regs := Vector.replicate 16 0, queues := Vector.replicate 4 [], ext := Vector.replicate 4 0
    tiles := Vector.replicate 8 (Vector.replicate 8 0), accs := Vector.replicate 4 Acc.reset
    macs := Vector.replicate 12 MacroState.reset
    bufW := [], bufA := [], bufC := [], full := [], deferred := [], barWait := []
    handles := Vector.replicate 8 Handle.reset
    status := statusReset, evstat := 0, qcfg := 0, contrib := 0, wbmask := 0
    coreid := 0, teamid := 0, teamsz := 0, slice := 0, shgen := 0, shcell := 0, cycle := 0, instret := 0
    rgncnt := 0, rgnlim := 4, clkg := 0, clkq := 0
    tvec := 0, tepc := 0, tcause := 0, tval := 0, tbq := 0, tbt0 := 0, tbt1 := 0, tregpc := 0, tscratch := 0
    timecmp := BitVec.allOnes 64
    tq := [], an := 0, delay := 0, region := none, pendingRegion := none, terminating := false, rbuf := [], cq := [], issuing := []
    refusedBy := [], loads := [], stamp := 0
    deferredTrap := none, doorbell := false, jobs := [], jobSeq := 0, walks := [], matJobs := [], wJobs := []
    tileBusy := false, cacheMode := true, image := [], pins := [(0, 16384)], ilines := []
    wait := none, reply := none, command := none, carried := none, crc := 0, faultSleep := none, extern := [], chunk := none, arrival := none
    twin := none, twinAt := none, twinOk := false, poison := [], stalled := false }

/-- A ring after reset (R102). -/
def Ring.reset : Ring :=
  { base := 0, ticks := 0, count := 1, target := 0, size := 6, prod := 0, cons := 0, held := [], unsignalled := 0
    sinceTick := 0, placed := false, writing := false, posted := [] }

/-- A herd after reset. -/
def Herd.reset : Herd := { lines := [], parts := [], victims := [], forwards := [], tlb := [], served := 7, clkg := 0 }

/-- A wired-barrier group after reset: free. -/
def WGroup.reset : WGroup := { team := 0, counter := 0, members := [] }

/-- A die after reset (R426; log 1, log 4). -/
def Die.reset : Die :=
  { clock := 0, crect := Vector.replicate 32 0, lease := 64, aging := 16, stagger := 4, spill := 16
    keep := Vector.replicate 8 0, wayset := Vector.replicate 8 0, tvecdef := 0, corrected := Vector.replicate 9 0, kn := 16
    groups := Vector.replicate 16 WGroup.reset, faultQ := Ring.reset, contQ := Ring.reset, kidQ := Ring.reset
    faults := [], kidWait := [], poolUsed := 0, containment := none, consuming := [], failedRouters := [], tcache := [] }

/-- A home that nothing has touched. -/
def Home.reset : Home := { horizon := 0, waiting := [], holders := [], held := [], spilled := false, crc := 0 }

/-- A stream that nothing uses. -/
def Stream.reset : Stream := { queue := [], subs := [], tree := [], team := none }

/-- The suffix engine after reset (R385): nothing placed, no slot open. -/
def Suffix.reset : Suffix := { slots := [], saves := [], index := none, mailbox := none, ring := none, arrivals := 0 }

/-- A channel after reset (R422). -/
def Channel.reset : Channel :=
  { desc := 0, cls := 0, fn := 0, arga := 0, arga1 := 0, argb := 0, argd := 0, busy := false, done := false, err := 0
    res0 := 0, res1 := 0, finished := false, given := none, carried := none, td := [] }

/-- The management core before power-on (R427, R431; log 5). -/
def Mgmt.reset : Mgmt :=
  { stage := .off, firmware := [0, 1], minVersion := 0, measurements := [], bootFuse := none, osEntry := none
    cap := 2400, effCap := 2400, tmax := 105, connected := 0, exchange := none, secured := false, answer := none }

/-- The part right after reset. -/
def State.reset : State :=
  { cur := 0, agenda := [], free := 0, cores := [], herds := [], quads := [], dies := Vector.replicate 8 Die.reset
    mem := [], homes := [], poison := [], ranges := [], streams := [], net := [], teams := [], nextTeam := 8
    nextKid := 1, arrivals := 0, sheets := [], publishes := [], suffix := Suffix.reset, rings := [], faulted := false, channels := []
    slices := Vector.replicate 4 4294967295, roots := [], pinRate := 3, peers := [], mgmt := Mgmt.reset, raised := []
    fused := [], serial := 0 }

end Sys2Proof.Machine
end

