-- ==== Sys2Proof/Machine/Ops.lean ====
section
/-!
DEFINITION. The named operations over a core: its registers and register queues, the status register, the retirement of an
instruction (R204), taking an exception and returning from one (R205 to R210), the discard of a region (R345), and the form that
every meaning has.
-/

namespace Sys2Proof.Machine

/-! ### Bits -/

/-- A word with one bit set or cleared. -/
def setBit (w : Word) (i : Nat) (b : Bool) : Word :=
  if b then w ||| (1#64 <<< i) else w &&& ~~~(1#64 <<< i)

/-- A word with the bits hi..lo replaced by the low bits of v. -/
def setField (w : Word) (hi lo : Nat) (v : Nat) : Word :=
  word (w.toNat % 2 ^ lo + (v % 2 ^ (hi + 1 - lo)) * 2 ^ lo + w.toNat / 2 ^ (hi + 1) * 2 ^ (hi + 1))

/-- The element of a vector at an index; `d` outside. -/
def vget {α : Type} {n : Nat} (v : Vector α n) (d : α) (i : Nat) : α := if h : i < n then v[i] else d

/-- A vector with one element replaced; unchanged where the index lies outside. -/
def vset {α : Type} {n : Nat} (v : Vector α n) (i : Nat) (x : α) : Vector α n := if h : i < n then v.set i x h else v

/-! ### Cores, herds, dies -/

/-- The die of a core key. -/
def dieOf (k : Nat) : Nat := k / 5120
/-- The x of a core key. -/
def xOf (k : Nat) : Nat := k % 64
/-- The y of a core key. -/
def yOf (k : Nat) : Nat := k % 5120 / 64
/-- The key of the core (die, x, y). -/
def coreKey (d x y : Nat) : Nat := 5120 * d + 64 * y + x
/-- The herd of a core (R15). -/
def herdOf (k : Nat) : Nat := 640 * dieOf k + 32 * (yOf k / 4) + xOf k / 2
/-- A core's position in its herd (R15). -/
def posOf (k : Nat) : Nat := 2 * (yOf k % 4) + xOf k % 2
/-- The die of a herd key. -/
def herdDie (h : Nat) : Nat := h / 640
/-- The core at position c of a herd (R15). -/
def herdCore (h c : Nat) : Nat := coreKey (herdDie h) (2 * (h % 32) + c % 2) (4 * (h % 640 / 32) + c / 2)
/-- The quad of a core (R15). -/
def quadOf (k : Nat) : Nat := 1280 * dieOf k + 32 * (yOf k / 2) + xOf k / 2
/-- CORELOC (R189). -/
def corelocOf (k : Nat) : Word := word (dieOf k * 2 ^ 13 + xOf k * 2 ^ 7 + yOf k)
/-- The core that a word in the layout of CORELOC names; none where x, y or the die lies outside, or for a fused-off core. -/
def coreOfLoc (s : State) (w : Nat) : Option Nat :=
  let k := coreKey (w / 2 ^ 13 % 8) (w / 2 ^ 7 % 64) (w % 128)
  if w % 128 < 80 && w < 65536 && !s.fused.contains k then some k else none

/-- The core with a key. -/
def coreAt (s : State) (k : Nat) : Core := SMap.getD s.cores Core.reset k
/-- The state with a core replaced. -/
def setCoreAt (s : State) (k : Nat) (c : Core) : State := { s with cores := SMap.set s.cores k c }
/-- The state with a core changed. -/
def modCoreAt (s : State) (k : Nat) (f : Core → Core) : State := setCoreAt s k (f (coreAt s k))
/-- The core that runs. -/
def State.core (s : State) : Core := coreAt s s.cur
/-- The herd with a key. -/
def herdAt (s : State) (h : Nat) : Herd := SMap.getD s.herds Herd.reset h
/-- The state with a herd changed. -/
def modHerdAt (s : State) (h : Nat) (f : Herd → Herd) : State := { s with herds := SMap.set s.herds h (f (herdAt s h)) }
/-- The die with a number. -/
def dieAt (s : State) (d : Nat) : Die := vget s.dies Die.reset d
/-- The state with a die changed. -/
def modDieAt (s : State) (d : Nat) (f : Die → Die) : State := { s with dies := vset s.dies d (f (dieAt s d)) }
/-- The team with a number. -/
def teamAt (s : State) (t : Nat) : Option Team := SMap.get? s.teams t
/-- The state with a team changed. -/
def modTeamAt (s : State) (t : Nat) (f : Team → Team) : State :=
  match teamAt s t with
  | some x => { s with teams := SMap.set s.teams t (f x) }
  | none => s
/-- The home of a line. -/
def homeAt (s : State) (line : Nat) : Home := SMap.getD s.homes Home.reset line
/-- The state with a home changed. -/
def modHomeAt (s : State) (line : Nat) (f : Home → Home) : State :=
  { s with homes := SMap.set s.homes line (f (homeAt s line)) }
/-- The die that holds the home of a line (R29). -/
def homeDie (line : Nat) : Nat := line / 256 % 8

/-! ### The form of a meaning -/

/-- Why an instruction does not complete. -/
inductive Stop where
  /-- It raises a trap, precisely (R208, R220). -/
  | trap (cause : Nat) (val : Word)
  /-- It waits: nothing has happened yet. -/
  | wait
  /-- It waits after it has sent a command or has begun a wait: the state to wait in. -/
  | block (s : State)
  /-- It would consume a poisoned granule (R405): the unit of R410 and the address. -/
  | consume (unit addr : Nat)

/-- An instruction's steps on the state; whatever stops it discards what it has done so far, so every trap is precise. -/
abbrev Act := StateT State (Except Stop)

/-- The running core. -/
def getC : Act Core := do return (← get).core
/-- Changes the running core. -/
def modC (f : Core → Core) : Act Unit := modify (fun s => modCoreAt s s.cur f)
/-- Raises a trap. -/
def trap {α : Type} (cause : Nat) (val : Word) : Act α := throw (.trap cause val)
/-- Waits. -/
def waitHere {α : Type} : Act α := throw .wait
/-- Waits unless the condition holds. -/
def waitUntil (b : Bool) : Act Unit := if b then pure () else waitHere
/-- Raises a trap where the condition holds. -/
def trapIf (b : Bool) (cause : Nat) (val : Word) : Act Unit := if b then trap cause val else pure ()

/-- TVAL of an illegal instruction (R186). -/
def illegalVal (sub : Nat) (long : Bool) (insn : Nat) : Word :=
  word (sub * 2 ^ 40 + (if long then 2 ^ 32 else 0) + insn % 2 ^ 32)

/-- Raises illegal instruction at run time, with a sub-code (R185, R187). -/
def illegal {α : Type} (i : Instr) (sub : Nat) : Act α := trap 2 (illegalVal sub (i.size == 4) (encode i))

/-! ### STATUS -/

/-- MODE (R191): supervisor. -/
def Core.supervisor (c : Core) : Bool := c.status.getLsbD 17
/-- IE (R191). -/
def Core.ie (c : Core) : Bool := c.status.getLsbD 20
/-- RM (R191). -/
def Core.rm (c : Core) : Nat := c.status.toNat / 32 % 4

/-- Sets sticky flags of STATUS (R52): NV 4, DZ 3, OF 2, UF 1, NX 0. -/
def Core.orFlags (c : Core) (f : BitVec 5) : Core := { c with status := c.status ||| f.setWidth 64 }

/-- A supervisor-only instruction in user mode is illegal with sub-code 0x06 (R185, R187). -/
def supervisorOnly (i : Instr) : Act Unit := do
  if (← getC).supervisor then pure () else illegal i 0x06

/-! ### Scalar registers and register queues -/

/-- The depth of a queue register (R194); 0 for an ordinary register. -/
def Core.depth (c : Core) (r : Nat) : Nat := if r < 12 then 0 else c.qcfg.toNat / 2 ^ (4 * (r - 12)) % 16

/-- The registers that a load's destination covers. -/
def LoadDst.covers : LoadDst → Nat → Bool
  | .reg d _ _, r => d == r && r != 0
  | .pair d, r => d != 0 && (d == r || d + 1 == r)
  | .tile _ _ _ _ _, _ => false

/-- A load that has not performed will still write this register. -/
def Core.pendingReg (c : Core) (r : Nat) : Bool := c.loads.any (fun e => e.dst.covers r)

/-- TVAL of cause 31 (R195). -/
def queueVal (full : Bool) (r : Nat) : Word := word ((if full then 256 else 0) + r)

/-- The instruction would read a poisoned granule of the core (R405). -/
def noPoison (unit i : Nat) : Act Unit := do
  if (← getC).poison.contains (unit, i) then throw (.consume unit 0)

/-- The core with a granule overwritten whole (R404). -/
def Core.unpoison (c : Core) (unit i : Nat) : Core := { c with poison := c.poison.erase (unit, i) }

/-- The core with registers overwritten whole (R404), control registers by 4096 + their number. -/
def Core.overwritten (c : Core) (l : List Nat) : Core := { c with poison := c.poison.filter (fun q => !(q.1 == 0 && l.contains q.2)) }

/-- Reads a scalar register as an operand (R188, R195): s0 is 0, a queue pops its oldest entry, a register that a load will
still write is waited for. -/
def readReg (r : Nat) : Act Word := do
  let c ← getC
  if r = 0 then return 0
  if c.pendingReg r then waitHere
  noPoison 0 r
  if c.depth r = 0 then return vget c.regs 0 r
  match vget c.queues [] (r - 12) with
  | [] => trap 31 (queueVal false r)
  | v :: rest =>
    modC (fun c => { c with queues := vset c.queues (r - 12) rest })
    return v

/-- Reads a pair, low register first; the pair of s0 reads as zeros (R170, R195). -/
def readPair (r : Nat) : Act (Word × Word) := do
  if r = 0 then return (0, 0)
  let lo ← readReg r
  let hi ← readReg (r + 1)
  return (lo, hi)

/-- A write of a register is possible: not pending, and its queue has room (R195). -/
def canWrite (r : Nat) : Act Unit := do
  let c ← getC
  if r = 0 then return
  if c.pendingReg r then waitHere
  if c.depth r ≠ 0 ∧ c.depth r ≤ (vget c.queues [] (r - 12)).length then trap 31 (queueVal true r)

/-- The core with a register written: s0 discards, a queue register pushes (R164, R195). -/
def Core.put (c : Core) (r : Nat) (v : Word) : Core :=
  if r = 0 then c
  else if c.depth r = 0 then { c with regs := vset c.regs r v, poison := c.poison.erase (0, r) }
  else { c with queues := vset c.queues (r - 12) (vget c.queues [] (r - 12) ++ [v]) }

/-- Writes a scalar register (R164, R188, R195). -/
def writeReg (r : Nat) (v : Word) : Act Unit := do
  canWrite r
  modC (fun c => c.put r v)

/-- Writes a pair, low register first; a write to the pair of s0 is discarded whole (R170). -/
def writePair (r : Nat) (lo hi : Word) : Act Unit := do
  if r = 0 then return
  writeReg r lo
  writeReg (r + 1) hi

/-! ### Retirement (R204) -/

/-- The counts of the transfer queue after an issue. -/
def Transfer.tick (e : Transfer) : Transfer := { e with count := e.count - 1 }

/-- The program counter and the transfer queue after an issue of `size` bytes at pc: every count goes down, and a head that
reaches 0 gives the next address (R204). -/
def Core.flow (c : Core) (size : Nat) : Word × List Transfer :=
  match c.tq.map Transfer.tick with
  | [] => (c.pc + word size, [])
  | e :: rest => if e.count = 0 then (e.target, rest) else (c.pc + word size, e :: rest)

/-- The core after an instruction of `size` bytes that is no branch has completed. -/
def Core.advance (c : Core) (size : Nat) : Core :=
  { c with pc := (c.flow size).1, tq := (c.flow size).2, delay := c.delay - 1, instret := c.instret + 1, cycle := c.cycle + 1
           terminating := false, wait := none, reply := none, command := none, carried := none, crc := 0, stalled := false
           twinAt := none, twinOk := false }

/-- The core after a branch: its target is enqueued behind with count 2 if taken, and AN is 2 if it annuls; the two instructions that issue
next are its delay slots either way (R204; log 116). -/
def Core.branch (c : Core) (size : Nat) (target : Option Word) (annul : Bool) : Core :=
  let c := c.advance size
  { c with tq := c.tq ++ (match target with | some t => [{ target := t, count := 2 }] | none => [])
           an := if annul then 2 else c.an
           delay := 2 }

/-- Completes the instruction. -/
def retire (size : Nat) : Act Unit := modC (fun c => c.advance size)

/-! ### Discard of a region (R345) -/

/-- A mark of a register that a checkpoint holds (R333): s1 to s15, e0 to e3, or QCFG. -/
def checkpointMark (q : Nat × Nat) : Bool := q.1 == 0 && (q.2 < 20 || q.2 == 4098)

/-- The entries that a discard leaves: the committed ones (R123). -/
def Core.committedEntries (c : Core) : List Entry := c.rbuf.filter (fun e => e.committed)

/-- A handle after a discard: head and tail of the checkpoint, and F without the amounts of the region's uncommitted advances (R292;
log 9). -/
def Handle.restore (now ck : Handle) (produced consumed : Nat) : Handle :=
  { now with head := ck.head, tail := ck.tail, filled := now.filled + consumed - produced, freedHeld := now.freedHeld - consumed }

/-- The checkpoint restored, with the poison that its registers had (R404), and everything uncommitted dropped (R123, R287, R333, R345);
the counters, the flags of STATUS and the
contents of tiles, accumulators, macros and window stay.  A region that began by R335 is pending again, since its entry address holds no
RBEGIN to execute (log 95). -/
def Core.discard (c : Core) : Core :=
  match c.region with
  | none => c
  | some r =>
    { c with regs := r.regs, ext := r.ext, qcfg := r.qcfg, queues := r.queues, jobSeq := r.seq
             poison := r.poison ++ c.poison.filter (fun q => !checkpointMark q)
             handles := Vector.ofFn (fun (i : Fin 8) => (c.handles[i]).restore (r.handles[i]) (r.produced[i]) (r.consumed[i]))
             rbuf := c.committedEntries, loads := []
             jobs := c.jobs.filter (fun p => p.2.state != .held)
             tq := [], an := 0, delay := 0, region := none, pendingRegion := if r.implicit then some r.window else none, terminating := false
             wait := none, reply := none, command := none, carried := none, crc := 0, twinAt := none, twinOk := false }

/-- A place of space 3 or 4. -/
def Place.extern (p : Place) : Bool := p.space == .peer || p.space == .host

/-- The core without the loads of spaces 3 and 4 and of other cores' banks that its waiting instruction has sent; its stores, and the
accesses of its copy jobs, stay. -/
def Core.dropAway (c : Core) : Core :=
  { c with loads := c.loads.filter (fun l => !l.remote), extern := c.extern.filter (fun x => x.1 || x.2.act != .store []) }

/-! ### Consumption of poison (R221, R405, R407) -/

/-- A core lies in a rectangle that is being contained. -/
def contained (s : State) (k : Nat) : Bool :=
  match (dieAt s (dieOf k)).containment with
  | some z => z.herds.contains (herdOf k)
  | none => false

/-- A consumption of poison on behalf of a core (R405): its containment is to start, unless one of its rectangle is in progress. -/
def consumeAt (s : State) (k unit addr : Nat) : State :=
  if contained s k then s else modDieAt s (dieOf k) (fun d => { d with consuming := d.consuming ++ [(k, unit, addr)] })

/-! ### Taking an exception (R208) -/

/-- TBQ of a core: its transfer queue, its annul count and its pending region (R205). -/
def Core.tbqNow (c : Core) : Word :=
  let c0 := match c.tq with | e :: _ => e.count | [] => 0
  let c1 := match c.tq with | _ :: e :: _ => e.count | _ => 0
  let w := match c.pendingRegion with
    | some w => 2 ^ 8 + w.buf * 2 ^ 9 + w.base / 64 * 2 ^ 10 + w.len / 64 * 2 ^ 21
    | none => 0
  word (c.tq.length + c0 * 4 + c1 * 16 + c.an * 64 + w)

/-- STATUS after trap entry (R208). -/
def statusTrap (st : Word) : Word :=
  setBit (setBit (setBit (setBit st 19 (st.getLsbD 20)) 20 false) 18 (st.getLsbD 17)) 17 true

/-- TVEC of the core is poisoned: a trap entry consumes it (R405). -/
def Core.tvecBad (c : Core) : Bool := c.poison.contains (0, 4096 + 0x100)

/-- The core after the trap registers are written and the pc is at the handler (R208). -/
def Core.trapEntry (c : Core) (cause : Nat) (val : Word) (int : Bool) (resume : Word) : Core :=
  { c.overwritten [0x1101, 0x1102, 0x1103, 0x1104, 0x1105, 0x1106] with
           tepc := resume, tbq := c.tbqNow
           tbt0 := (match c.tq with | e :: _ => e.target | [] => 0)
           tbt1 := (match c.tq with | _ :: e :: _ => e.target | _ => 0)
           tcause := word ((if int then 2 ^ 63 else 0) + cause), tval := val
           status := statusTrap c.status
           tq := [], an := 0, delay := 0, pendingRegion := none, loads := c.dropAway.loads, extern := c.dropAway.extern
           pc := word (c.tvec.toNat / 4 * 4), terminating := false
           wait := none, reply := none, command := none, carried := none, crc := 0, stalled := false, twinAt := none, twinOk := false
           cycle := c.cycle + 1 }

/-- The fault summary of a thread that ends at a trap without a handler (R101). -/
def faultSummary (k cause rgn : Nat) (val : Word) : Word :=
  word (cause % 256 * 2 ^ 56 + dieOf k * 2 ^ 53 + xOf k * 2 ^ 47 + yOf k * 2 ^ 40 + rgn % 256 * 2 ^ 32 + val.toNat % 2 ^ 32)

/-- The end of a core's thread: it issues nothing more (R208, R372). -/
def endThread (s : State) (k : Nat) : State :=
  modCoreAt s k (fun c => { c with run := .idle, tq := [], an := 0, delay := 0, region := none, pendingRegion := none, terminating := false
                                   wait := none, reply := none, command := none, carried := none, crc := 0, stalled := false })

/-- The team of a core fails with a summary, unless it has failed already (R85, R101, R208). -/
def failTeam (s : State) (t : Nat) (summary : Word) : State :=
  modTeamAt s t (fun x => { x with failure := some (x.failure.getD summary) })

/-- A trap or interrupt enters on core k (R208): outside a region with the given resume address, inside one with the region discarded,
TEPC at its entry, TREGPC at the pc and TBQ 0 (R345; log 95); without a handler the thread ends and its team fails.  A poisoned TVEC is
consumed instead (R405). -/
def takeTrap (s : State) (k : Nat) (cause : Nat) (val : Word) (int : Bool) (resume : Word) : State :=
  let c := coreAt s k
  let c' := match c.region with
    | some r => { (({ c.discard with pendingRegion := none }).trapEntry cause val int r.entry).overwritten [0x1107] with tregpc := c.pc }
    | none => c.trapEntry cause val int resume
  let s' := setCoreAt s k c'
  if c.tvecBad then consumeAt s k 0 0
  else if c.tvec.toNat / 4 = 0 then
    let s' := match c.team with
      | some t => failTeam s' t (faultSummary k cause c.rgncnt.toNat val)
      | none => s'
    endThread s' k
  else s'

/-- A counted discard (R345): re-entry, or at the limit the trap of the livelock (26) or of the twins (33). -/
def discardCounted (s : State) (k : Nat) (limitCause : Nat) (limitVal : Word) : State :=
  let c := coreAt s k
  match c.region with
  | none => s
  | some r =>
    if c.rgncnt = c.rgnlim then takeTrap s k limitCause limitVal false r.entry
    else setCoreAt s k { c.discard with rgncnt := c.rgncnt + 1, pc := r.entry, stalled := false, cycle := c.cycle + 1 }

/-! ### Return from an exception (R205, R210) -/

/-- The window that TBQ's pending-region fields describe is one that RBEGIN would accept (R205, R332). -/
def windowOk (w : Window) : Bool :=
  w.len == 0 || (w.base % 64 == 0 && w.len % 64 == 0 && w.base + w.len ≤ (if w.buf = 0 then 65536 else 32768))

/-- The window fields of TBQ. -/
def tbqWindow (t : Word) : Window :=
  { buf := t.toNat / 2 ^ 9 % 2, base := t.toNat / 2 ^ 10 % 2 ^ 11 * 64, len := t.toNat / 2 ^ 21 % 2 ^ 11 * 64 }

/-- A consistent TBQ (R205). -/
def tbqConsistent (t : Word) : Bool :=
  let n := t.toNat
  let count := n % 4
  let c0 := n / 4 % 4
  let c1 := n / 16 % 4
  let rpend := n / 256 % 2
  ((count == 0 && c0 == 0 && c1 == 0) || (count == 1 && (c0 == 1 || c0 == 2) && c1 == 0) || (count == 2 && c0 == 1 && c1 == 2))
    && n / 64 % 4 ≤ 2
    && (if rpend = 1 then windowOk (tbqWindow t) else n / 512 % 2 ^ 23 == 0)

/-- The transfer queue that TBQ, TBT0 and TBT1 describe (R205). -/
def tbqTransfers (t t0 t1 : Word) : List Transfer :=
  let n := t.toNat
  let a : Transfer := { target := t0, count := n / 4 % 4 }
  let b : Transfer := { target := t1, count := n / 16 % 4 }
  if n % 4 = 0 then [] else if n % 4 = 1 then [a] else [a, b]

/-- STATUS after ERET (R210). -/
def statusEret (st : Word) : Word := setBit (setBit st 17 (st.getLsbD 18)) 20 (st.getLsbD 19)

/-- The core after a return from an exception (R210). -/
def Core.eret (c : Core) : Core :=
  { c with pc := c.tepc, tq := tbqTransfers c.tbq c.tbt0 c.tbt1, an := c.tbq.toNat / 64 % 4, delay := 0
           pendingRegion := if c.tbq.toNat / 256 % 2 = 1 then some (tbqWindow c.tbq) else none
           status := statusEret c.status
           instret := c.instret + 1, cycle := c.cycle + 1
           terminating := false, wait := none, reply := none, command := none, carried := none, crc := 0, stalled := false
           twinAt := none, twinOk := false }

/-! ### The commit of a region (R336) -/

/-- A copy job whose region commits is on its way to the copy unit (R123, R287). -/
def Job.commit (j : Job) : Job := if j.state = .held then { j with state := .queued } else j

/-- The region commits: its entries are marked, RGNCNT is 0, and the region is closed (R123, R336). -/
def Core.commit (c : Core) : Core :=
  match c.region with
  | none => c
  | some _ =>
    { c with rbuf := c.rbuf.map (fun e => { e with committed := true, checked := true }), jobs := c.jobs.map (fun p => (p.1, p.2.commit))
             region := none, rgncnt := 0 }

/-- An instruction that a region does not admit (R335). -/
def notInRegion (i : Instr) : Act Unit := do
  if (← getC).region.isSome then illegal i 0x07

/-! ### Interrupts (R207, R209) -/

/-- The interrupt that would be taken, if any: 9 before 5 before 1. -/
def pendingInterrupt (s : State) (k : Nat) : Option Nat :=
  let c := coreAt s k
  if !c.ie then none
  else if c.status.getLsbD 23 && c.evstat != 0 then some 9
  else if c.status.getLsbD 22 && c.timecmp.toNat ≤ (dieAt s (dieOf k)).clock then some 5
  else if c.status.getLsbD 21 && c.doorbell then some 1
  else none

/-- A deferred trap becomes pending on a core, unless one is pending (R348). -/
def raiseDeferred (s : State) (k : Nat) (cause : Nat) (val : Word) : State :=
  modCoreAt s k (fun c => { c with deferredTrap := some (c.deferredTrap.getD (cause, val)) })

/-- Bits of EVSTAT set by the device (R192). -/
def setEvent (s : State) (k : Nat) (bit : Nat) : State :=
  modCoreAt s k (fun c => { c with evstat := setBit c.evstat bit true })

/-! ### A translation fault in user mode (R353) -/

/-- A core goes to sleep on a page-fault record: it discards its region if it is in one, keeps its resume state, and joins the
record of its team and page (the record is posted by the die's translation unit). -/
def sleepOnFault (s : State) (k : Nat) (cause : Nat) (va : Word) (post : State → State) : State :=
  let c := coreAt s k
  let vpn := va.toNat % 2 ^ 52 / 2 ^ 16
  let resume := match c.region with | some r => r.entry | none => c.pc
  let c' := { c.discard.dropAway with
    run := .faultSleep
    faultSleep := some { die := dieOf k, vpn := vpn, cause := cause, va := va, resume := resume
                         regPc := c.region.map (fun _ => c.pc) }
    pc := resume, terminating := false, wait := none, reply := none, command := none, carried := none, crc := 0, stalled := false
    twinAt := none, twinOk := false }
  let s := setCoreAt s k c'
  let t := c.team.getD 0
  let d := dieAt s (dieOf k)
  if d.faults.any (fun r => r.team == t && r.vpn == vpn) then
    modDieAt s (dieOf k) (fun d => { d with faults := d.faults.map (fun r =>
      if r.team == t && r.vpn == vpn then { r with cores := r.cores ++ [k] } else r) })
  else
    post (modDieAt s (dieOf k) (fun d =>
      { d with faults := d.faults ++ [{ team := t, vpn := vpn, cores := [k], jobs := [] }] }))

end Sys2Proof.Machine
end

