-- ==== Sys2Proof/Machine/Ranges.lean ====
section
/-!
DEFINITION. Device memory by bytes (R4, R29, R417), the granules of poison (R402), and the commutative ranges with the combination of a line at
its home (R125, R127), which every access there makes first.
-/

namespace Sys2Proof.Machine

/-! ### Memory bytes -/

/-- A byte of device memory; a byte that nothing has written reads as 0 (log 2). -/
def memByte (s : State) (a : Nat) : Byte := SMap.getD s.mem 0 a

/-- The state with one byte of device memory written. -/
def setMemByte (s : State) (a : Nat) (b : Byte) : State := { s with mem := SMap.put s.mem 0 a b }

/-- The number whose n little-endian bytes a function gives (R4). -/
def leNat (f : Nat → Byte) : Nat → Nat
  | 0 => 0
  | n + 1 => (f 0).toNat + 256 * leNat (fun i => f (i + 1)) n

/-- The n bytes of a number, least significant first, by offset. -/
def leBytes (v : Nat) (n : Nat) : SMap Byte := (List.range n).map (fun i => (i, BitVec.ofNat 8 (v / 256 ^ i)))

/-- A little-endian number of n bytes at a physical address. -/
def memNat (s : State) (a n : Nat) : Nat := leNat (fun i => memByte s (a + i)) n

/-- The bytes of a number written at a physical address. -/
def setMemNat (s : State) (a n v : Nat) : State :=
  (List.range n).foldl (fun s i => setMemByte s (a + i) (BitVec.ofNat 8 (v / 256 ^ i))) s

/-- The end of HBM (R29). -/
def hbmEnd : Nat := 0x18000000000

/-- A physical address in a partial spill area (R417): the top SPILL × 1,024 lines of its pseudo-channel. -/
def inSpill (s : State) (pa : Nat) : Bool :=
  pa < hbmEnd && 12582912 - (dieAt s (pa / 2 ^ 14 % 8)).spill * 1024 ≤ pa / 2 ^ 17

/-- A physical address that a compute die may access (R29, R417). -/
def paOk (s : State) (pa : Nat) : Bool := pa < hbmEnd && !inSpill s pa

/-- The line of a physical address. -/
def lineOf (a : Nat) : Nat := a / 64

/-! ### Granules of poison (R402, R404) -/

/-- The index of a buffer granule in a core's poison list. -/
def granule (b : Space) (off : Nat) : Nat := if b == .bufC then 8192 + off / 8 else off / 8

/-- A physical address lies in the OS complex memory (R417). -/
def osMemory (a : Nat) : Bool := 0x18000000000 ≤ a && a < 0x1A000000000

/-- The first address of a marked granule of memory: a line of 64 bytes, or 8 bytes of the OS complex memory (R402). -/
def PoisonMark.base (m : PoisonMark) : Nat := m.addr * 64 + 8 * (m.key - 1)
/-- The bytes of a marked granule of memory. -/
def PoisonMark.size (m : PoisonMark) : Nat := if m.key = 0 then 64 else 8
/-- A mark of memory hits one of n bytes at an address. -/
def PoisonMark.hits (m : PoisonMark) (a n : Nat) : Bool := m.unit != 4 && m.base ≤ a + (n - 1) && a < m.base + m.size
/-- A mark of memory lies whole among n bytes at an address. -/
def PoisonMark.inside (m : PoisonMark) (a n : Nat) : Bool := m.unit != 4 && a ≤ m.base && m.base + m.size ≤ a + n

/-- The mark of the granule of memory that holds an address (R402). -/
def memMark (unit a : Nat) : PoisonMark := { unit := unit, key := if osMemory a then a / 8 % 8 + 1 else 0, addr := lineOf a }

/-- The marks of the granules of memory that n bytes at an address touch. -/
def memMarks (unit a n : Nat) : List PoisonMark :=
  let g := if osMemory a then 8 else 64
  (List.range ((a + (n - 1)) / g + 1 - a / g)).map (fun i => memMark unit ((a / g + i) * g))

/-- Poisons the granules of n bytes at a place. -/
def poisonPlace (s : State) (p : Place) (n : Nat) (unit : Nat) : State :=
  match p.space with
  | .mem => { s with poison := s.poison ++ memMarks unit p.addr n }
  | .bufA | .bufC =>
    let marks := (List.range (granule p.space (p.addr + (n - 1)) + 1 - granule p.space p.addr)).map
      (fun i => (1, granule p.space p.addr + i))
    modCoreAt s p.key (fun c => { c with poison := c.poison ++ marks })
  | .bufW =>
    let marks := (List.range ((p.addr + (n - 1)) / 64 + 1 - p.addr / 64)).map (fun i => (2, p.addr / 64 + i))
    modCoreAt s p.key (fun c => { c with poison := c.poison ++ marks })
  | _ => s

/-! ### Commutative ranges (R125, R127, R228, R238) -/

/-- The range that holds a physical address. -/
def rangeOf (s : State) (a : Nat) : Option (Nat × CommRange) := s.ranges.find? (fun p => p.2.base ≤ a && a < p.2.base + p.2.len)

/-- The element bytes of a range format. -/
def rangeBytes (fmt : Nat) : Nat := match fmt with | 1 => 2 | 2 => 2 | 4 => 8 | _ => 4

/-- The floating format of a range format. -/
def rangeFmt (fmt : Nat) : Option FFmt := match fmt with | 0 => some fp32 | 1 => some fp16 | 2 => some bf16 | _ => none

/-- A signed number of n bits. -/
def signedOf (n v : Nat) : Int := if v % 2 ^ n < 2 ^ (n - 1) then (v % 2 ^ n : Nat) else ((v % 2 ^ n : Nat) : Int) - 2 ^ n

/-- The identity of a range's operation (R125). -/
def rangeIdentity (fmt op : Nat) : Nat :=
  match op, rangeFmt fmt with
  | 0, _ => 0
  | 1, some f => f.infCode
  | _, some f => f.signed true f.infCode
  | 1, none => 2 ^ (8 * rangeBytes fmt - 1) - 1
  | _, none => 2 ^ (8 * rangeBytes fmt - 1)

/-- FP minimum and maximum of a range: −0 below +0, and a NaN gives the canonical NaN (R228). -/
def rangeMinMax (f : FFmt) (mx : Bool) (a b : Nat) : Nat :=
  if f.value a = .nan ∨ f.value b = .nan then f.nanCode else f.minmax mx a b

/-- One combination in a range's format with RNE (R125). -/
def rangeCombine (fmt op a b : Nat) : Nat :=
  let n := 8 * rangeBytes fmt
  match rangeFmt fmt with
  | some f =>
    (match op with
     | 0 => (f.finish 0 false (FVal.add 0 (f.value a) (f.value b)).1).1
     | 1 => rangeMinMax f false a b
     | _ => rangeMinMax f true a b)
  | none =>
    (match op with
     | 0 => (a + b) % 2 ^ n
     | 1 => if signedOf n b < signedOf n a then b else a
     | _ => if signedOf n a < signedOf n b then b else a)

/-- A range accepts a reduction (R228). -/
def rangeAccepts (r : CommRange) (op : RedOp) (w32 : Bool) : Bool :=
  match r.fmt with
  | 3 => w32 && (match op with | .add => r.op == 0 | .min => r.op == 1 | .max => r.op == 2 | .fadd => false)
  | 4 => !w32 && (match op with | .add => r.op == 0 | .min => r.op == 1 | .max => r.op == 2 | .fadd => false)
  | _ => w32 && (match op with | .fadd => r.op == 0 | .min => r.op == 1 | .max => r.op == 2 | .add => false)

/-- The element of a partial line at an offset; one never reduced holds the identity. -/
def Partial.elem (p : Partial) (r : CommRange) (off : Nat) : Nat := SMap.getD p.elems (rangeIdentity r.fmt r.op) off

/-- A partial of a line that a victim entry still holds. -/
def Victim.holds (v : Victim) (line : Nat) : Bool := v.line == line && v.part.isSome && !v.answered
/-- The home has granted the entry: its data is on its way, or about to be. -/
def Victim.granted (v : Victim) : Bool := v.phase == 1 || v.phase == 3

/-! ### Transactions whose CRC fails where no write waits (R34) -/

/-- A transaction that arrives at the home of a line where no write waits fails its CRC for the fourth time (log 129). -/
def lostHere (s : State) (line : Nat) : Bool := (homeAt s line).waiting.isEmpty && 3 < (homeAt s line).crc

/-- The failures counted at the home of a line are those of a transaction that has arrived there. -/
def crcOver (s : State) (line : Nat) : State :=
  if (homeAt s line).waiting.isEmpty && (homeAt s line).crc != 0 then modHomeAt s line (fun y => { y with crc := 0 }) else s

/-- A transaction arrives at the home of a line where no write waits: it has its effect, or, where its CRC has failed four times, has none
and poisons the line (R34, R404). -/
def arriveHome (s : State) (line : Nat) (effect : State → State) : State :=
  if lostHere s line then crcOver (poisonPlace s { space := .mem, key := 0, addr := line * 64 } 64 8) line else effect (crcOver s line)

/-- A recall takes every partial of a line that a herd holds, in the order of their write-back (R126, R127): those of its victim buffer,
of which a granted one arrives as data and leaves its entry and any other is marked answered, and then those of its cache. -/
def recallHerd (s : State) (h line : Nat) : State :=
  let x := herdAt s h
  let taken := (x.victims.filter (fun v => v.holds line)).filterMap (fun v => v.part) ++ x.parts.filter (fun p => p.line == line)
  let s := modHerdAt s h (fun x => { x with
    parts := x.parts.filter (fun p => p.line != line)
    victims := (x.victims.filter (fun v => !(v.holds line && v.granted))).map (fun v => if v.holds line then { v with answered := true } else v) })
  let s := modHomeAt s line (fun y => { y with holders := y.holders.filter (fun g => g != h) })
  if taken.isEmpty then s else arriveHome s line (fun s => modHomeAt s line (fun y => { y with held := y.held ++ taken }))

/-- The order of combination (R127): contributor, die, herd, position. -/
def Partial.before (p q : Partial) : Bool :=
  p.contrib < q.contrib || (p.contrib == q.contrib && (p.herd < q.herd || (p.herd == q.herd && p.pos < q.pos)))

/-- Insertion into the order of combination, after those of the same tag. -/
def insertPartial (p : Partial) : List Partial → List Partial
  | [] => [p]
  | q :: rest => if p.before q then p :: q :: rest else q :: insertPartial p rest

/-- The combination of a line at its home (R127): every partial is recalled, and the held partials are folded in order. -/
def combineLine (s : State) (line : Nat) : State :=
  match rangeOf s (line * 64) with
  | none => s
  | some (_, r) =>
    let s := (homeAt s line).holders.foldl (fun s h => recallHerd s h line) s
    let held := (homeAt s line).held.foldl (fun acc p => insertPartial p acc) []
    match held with
    | [] => s
    | p :: rest =>
      let n := rangeBytes r.fmt
      let s := (List.range (64 / n)).foldl (fun s i =>
        let off := n * i
        let sum := rest.foldl (fun acc q => rangeCombine r.fmt r.op acc (q.elem r off)) (p.elem r off)
        setMemNat s (line * 64 + off) n (rangeCombine r.fmt r.op (memNat s (line * 64 + off) n) sum)) s
      -- a poisoned partial poisons the line that it is combined into (R404)
      let s := if held.any (fun q => q.poisoned) then poisonPlace s { space := .mem, key := 0, addr := line * 64 } 64 5 else s
      modHomeAt s line (fun y => { y with held := [], holders := [], spilled := false })

/-- Every line of a range of bytes combined, as an access at the home does first (R127). -/
def combineBytes (s : State) (a n : Nat) : State :=
  if s.ranges.isEmpty then s
  else (List.range (lineOf (a + (n - 1)) + 1 - lineOf a)).foldl (fun s i => combineLine s (lineOf a + i)) s

/-- A number of n bytes that an engine reads at its home (R111, R127). -/
def homeNat (s : State) (a n : Nat) : Nat := memNat (combineBytes s a n) a n

end Sys2Proof.Machine
end

