-- ==== Sys2Proof/Machine/Operands.lean ====
section
/-!
DEFINITION. Operand forms: the inline constant table (R165), immediates, pointers (R216, R418), translation (R350 to R352), and the
check of an access in the order of R220.
-/

namespace Sys2Proof.Machine

/-! ### Constants and immediates -/

/-- The integer view of the inline constant table (R165). -/
def intConst (b : Nat) : Word :=
  if b < 32 then word b
  else if b < 48 then 0 - word (b - 31)
  else if b < 56 then word (2 ^ (5 + (b - 48)))
  else if b = 56 then word (2 ^ 16)
  else if b = 57 then word (2 ^ 20)
  else word (2 ^ 32)

/-- Operand B of an ALU or AMO instruction (R165, R188). -/
def operandB (k : BitVec 1) (b : BitVec 6) : Act Word :=
  if k = 0 then readReg b.toNat else return intConst b.toNat

/-- An immediate field, sign-extended from its top bit (R164). -/
def imm {n : Nat} (i : BitVec n) : Word := i.signExtend 64

/-- The effective address of an M-format access (R223): sA + OFF × size. -/
def effAddr (a : Word) (off : BitVec 10) (size : Nat) : Word := a + imm off * word size

/-! ### Pointers -/

/-- A decoded pointer (R216, R418). -/
inductive Ptr where
  | mem (pol : Policy) (va : Nat)
  | buf (core : Nat) (space : Space) (off : Nat)
  | peer (n : Nat) (addr : Nat)
  | host (addr : Nat)
  deriving DecidableEq, Repr

/-- The buffer of a BUF field and an offset, where the offset lies inside it (R216). -/
def bufOf (b off : Nat) : Option Space :=
  if b = 0 then (if off < 0x18000 then some .bufW else none)
  else if b = 1 then (if off < 0x10000 then some .bufA else none)
  else if b = 2 then (if off < 0x8000 then some .bufC else none)
  else none

/-- The policy of a pointer's POL field (R216). -/
def polOf (n : Nat) : Option Policy :=
  match n with
  | 0 => some .leased
  | 1 => some .direct
  | 2 => some .stream
  | 3 => some .swm
  | 4 => some .herd
  | _ => none

/-- The core that a relative space-2 pointer names from core k (R13, R216). -/
def relCore (k : Nat) (p : Nat) : Option Nat :=
  let sx (v : Nat) : Int := if v < 256 then v else (v : Int) - 512
  let bx : Int := 64 * (dieOf k % 4) + xOf k + sx (bits p 56 48)
  let by' : Int := 80 * (dieOf k / 4) + yOf k + sx (bits p 47 39)
  if 0 ≤ bx ∧ bx < 256 ∧ 0 ≤ by' ∧ by' < 160 then
    let x := bx.toNat
    let y := by'.toNat
    some (coreKey (4 * (y / 80) + x / 64) (x % 64) (y % 80))
  else none

/-- Decodes a pointer for core k (R216, R418); none where no row describes it, or a fused-off core is named (R19). -/
def decodePtr (s : State) (k : Nat) (p : Word) : Option Ptr :=
  let n := p.toNat
  match bits n 63 61 with
  | 0 => if bits n 57 52 = 0 then (polOf (bits n 60 58)).map (fun pol => .mem pol (bits n 51 0)) else none
  | 1 =>
    if bits n 60 19 = 0 then (bufOf (bits n 18 17) (bits n 16 0)).map (fun b => .buf k b (bits n 16 0)) else none
  | 2 =>
    if bits n 60 58 ≠ 0 then none
    else
      let target :=
        if bits n 57 57 = 0 then
          (if bits n 40 19 = 0 ∧ bits n 47 41 < 80 then
            some (coreKey (bits n 56 54) (bits n 53 48) (bits n 47 41)) else none)
        else (if bits n 38 19 = 0 then relCore k n else none)
      match target with
      | none => none
      | some t =>
        if s.fused.contains t || bits n 18 17 = 0 then none
        else (bufOf (bits n 18 17) (bits n 16 0)).map (fun b => .buf t b (bits n 16 0))
  | 3 => if bits n 60 58 = 0 ∧ s.peers.contains (bits n 57 52) then some (.peer (bits n 57 52) (bits n 51 0)) else none
  | 4 => if bits n 60 52 = 0 then some (.host (bits n 51 0)) else none
  | _ => none

/-- The space-1 pointer to an offset of the core's own buffer (R216). -/
def ownPtr (buf off : Nat) : Word := word (2 ^ 61 + buf * 2 ^ 17 + off)

/-- The claim bit of a buffer (R217, R363): W 2, A 1, C 0. -/
def claims (c : Core) (b : Space) : Bool :=
  match b with
  | .bufW => c.claim.getLsbD 2
  | .bufA => c.claim.getLsbD 1
  | .bufC => c.claim.getLsbD 0
  | _ => true

/-! ### Translation -/

/-- The outcome of a translation (R351): a physical address with the leaf's bits 7:0, a page fault with its level, or an access
fault. -/
inductive Xlate where
  | ok (pa : Nat) (leaf : Nat)
  | page (level : Nat)
  | access
  deriving DecidableEq, Repr

/-- Reserved bits of a table entry (R351). -/
def pteBad (e : Nat) (level : Nat) : Bool :=
  let leaf := bits e 1 1 == 1
  bits e 63 52 != 0 || bits e 2 2 != 0
    || (leaf && (level == 3 || bits e 11 8 != 0 || (level == 2 && bits e 29 16 != 0) || (level == 1 && bits e 20 16 != 0)))
    || (!leaf && (level == 0 || (level ≥ 2 && level ≤ 3 && (if level = 3 then bits e 13 8 != 0 else bits e 11 8 != 0))))

/-- The lowest bit of an address that a level's pages keep (R350). -/
def walkShift (level : Nat) : Nat := match level with | 3 => 41 | 2 => 30 | 1 => 21 | _ => 16

/-- The address of the entry of a table at a level (R350). -/
def entryAddr (va level table : Nat) : Nat :=
  table + 8 * (va / 2 ^ walkShift level % 2 ^ (match level with | 3 => 11 | 2 => 11 | 1 => 9 | _ => 5))

/-- The walk (R350, R351) from a table at a level, over the levels left, which reads each entry at its home (R127, R352); an entry outside
what a compute die may access is an access fault, as every access of the die there is (R29, R417). -/
def walk (s : State) (va : Nat) : (level : Nat) → (table : Nat) → Xlate
  | level, table =>
    let shift := walkShift level
    let at' := entryAddr va level table
    let e := homeNat s at' 8
    if !paOk s at' then .access
    else if bits e 0 0 = 0 then .page level
    else if pteBad e level then .access
    else if bits e 1 1 = 1 then .ok (bits e 51 16 * 2 ^ 16 / 2 ^ shift * 2 ^ shift + va % 2 ^ shift) (bits e 7 0)
    else match level with
      | 0 => .access
      | l + 1 => walk s va l (bits e 51 8 * 2 ^ 8)

/-- The lines of the entries that a walk reads are combined at their homes as it reads them (R127, R352). -/
def combineWalk (s : State) (va : Nat) : (level : Nat) → (table : Nat) → State
  | level, table =>
    if s.ranges.isEmpty then s
    else
      let at' := entryAddr va level table
      if !paOk s at' then s
      else
        let s := combineBytes s at' 8
        let e := memNat s at' 8
        if bits e 0 0 = 0 ∨ pteBad e level = true ∨ bits e 1 1 = 1 then s
        else match level with
          | 0 => s
          | l + 1 => combineWalk s va l (bits e 51 8 * 2 ^ 8)

/-- The kinds of access that a translation decides (R351). -/
inductive XAcc where
  | load | store | atomic | fetch
  deriving DecidableEq, Repr

/-- The leaf's bits permit the access in a mode (R351): R 3, W 4, X 5, U 6. -/
def leafPermits (leaf : Nat) (a : XAcc) (user : Bool) : Bool :=
  (!user || bits leaf 6 6 == 1) &&
  (match a with
   | .load => bits leaf 3 3 == 1
   | .store => bits leaf 4 4 == 1
   | .atomic => bits leaf 3 3 == 1 && bits leaf 4 4 == 1
   | .fetch => bits leaf 5 5 == 1)

/-- The team of a core translates: the team 0 of a die, and a core with no team, access physical addresses (R428). -/
def translates (s : State) (k : Nat) : Option Team :=
  match (coreAt s k).team with
  | some t => if t < 8 then none else teamAt s t
  | none => none

/-- A TLB entry for an address space and page. -/
def tlbFind (es : List (Nat × Nat × Nat × Nat)) (asid vpage : Nat) : Option (Nat × Nat) :=
  match es with
  | [] => none
  | (a, v, p, l) :: rest => if a = asid ∧ v = vpage then some (p, l) else tlbFind rest asid vpage

/-- Translates an address of an address space for a herd (R350 to R352): TLB, translation cache, walk; a walk's leaf is cached. -/
def xlateIn (s : State) (herd asid root va : Nat) : Xlate × State :=
  let vp := va / 2 ^ 16
  match tlbFind (herdAt s herd).tlb asid vp with
  | some (p, l) => (.ok (p * 2 ^ 16 + va % 2 ^ 16) l, s)
  | none =>
    match tlbFind (dieAt s (herdDie herd)).tcache asid vp with
    | some (p, l) =>
      (.ok (p * 2 ^ 16 + va % 2 ^ 16) l, modHerdAt s herd (fun h => { h with tlb := ((asid, vp, p, l) :: h.tlb).take 128 }))
    | none =>
      let s := combineWalk s va 3 root
      match walk s va 3 root with
      | .ok pa l =>
        let s := modHerdAt s herd (fun h => { h with tlb := ((asid, vp, pa / 2 ^ 16, l) :: h.tlb).take 128 })
        (.ok pa l, modDieAt s (herdDie herd) (fun d => { d with tcache := ((asid, vp, pa / 2 ^ 16, l) :: d.tcache).take 32768 }))
      | x => (x, s)

/-- Translates a virtual address for a core: the physical address itself where the core does not translate. -/
def xlate (s : State) (k : Nat) (va : Nat) (a : XAcc) (user : Bool) : Xlate × State :=
  match translates s k with
  | none => (if paOk s va then .ok va 0x38 else .access, s)
  | some t =>
    match xlateIn s (herdOf k) t.asid t.root va with
    | (.ok pa l, s') => if leafPermits l a user && paOk s pa then (.ok pa l, s') else (.access, s')
    | r => r

/-! ### Slot arenas (R73, R98) -/

/-- A core is the twin of a pair, and not its primary (R412). -/
def isTwin (s : State) (k : Nat) : Bool := match (coreAt s k).twin with | some (_, false) => true | _ => false

/-- The partner of a core. -/
def partnerOf (s : State) (k : Nat) : Nat := match (coreAt s k).twin with | some (p, _) => p | none => k

/-- The owner of the views and sessions of a core (R76, R88): its team and COREID, which a migration keeps; a twin's are its primary's. -/
def ownerOf (s : State) (k : Nat) : Nat :=
  let c := coreAt s (if isTwin s k then partnerOf s k else k)
  match c.team with
  | some t => 65536 * (t + 1) + c.coreid.toNat
  | none => k
/-- The owner of the views and sessions of a channel (R423). -/
def channelOwner (ch : Nat) : Nat := 40960 + ch

/-- The team of a kid's spawner, where a team is a kid (R67). -/
def Team.parent (t : Team) : Option Nat := match t.src with | .kid _ p _ _ => some p | _ => none

/-- The teams from which a team inherits its cell permissions: its parent, its parent's parent and so on (R67); `fuel` bounds them. -/
def ancestors (s : State) : Nat → Nat → List Nat
  | 0, _ => []
  | fuel + 1, t => match (teamAt s t).bind Team.parent with | some p => p :: ancestors s fuel p | none => []

/-- An owner of views and sessions whose cell permissions core k has: the core itself, or a core of a team above it (R67, R98; log 96). -/
def mayUse (s : State) (k owner : Nat) : Bool :=
  owner == ownerOf s k || (match (coreAt s k).team with
    | some t => 65536 ≤ owner && (ancestors s s.teams.length t).contains (owner / 65536 - 1)
    | none => false)

/-- The bound and unbound cells that have stood under an index. -/
def Sheet.cellsAt (sh : Sheet) (i : Nat) : List Cell := (sh.cells.filter (fun p => p.1 % 2 ^ 20 == i)).map (fun p => p.2)

/-- The version of exactly a generation that a cell under an index has, with its cell. -/
def Sheet.exact (sh : Sheet) (i g : Nat) : Option (Cell × Version) :=
  (sh.cellsAt i).findSome? (fun c => (c.versions.find? (fun v => v.gen == g)).map (fun v => (c, v)))

/-- The ranges (address, length) that hold a version (R74): slot, or prefix and tail with its header. -/
def Cell.areas (c : Cell) (v : Version) : List (Nat × Nat) :=
  match c.cls with
  | .append => (c.slots.getD 0 0, v.plen * c.esize)
      :: (if v.tail then [(c.slots.getD (1 + v.slot) 0 - 64, 64 + 64 * c.esize)] else [])
  | _ => [(c.slots.getD v.slot 0, c.slotLen)]

/-- The recalculation that a core works for (R97). -/
def formulaOf (s : State) (k : Nat) : Option (Sheet × Cell × Version) :=
  let c := coreAt s k
  if c.shcell.getLsbD 63 then
    match SMap.get? s.sheets (bits c.shcell.toNat 27 20) with
    | none => none
    | some sh =>
      match sh.exact (bits c.shcell.toNat 19 0) c.shgen.toNat with
      | some (x, v) => if v.st == .running && !v.ended then some (sh, x, v) else none
      | none => none
  else none

/-- The ranges (address, length) of arena space that a core may read, with whether the view is revoked (R95, R98). -/
def readableRanges (s : State) (k : Nat) : List (Nat × Nat × Bool) :=
  s.sheets.flatMap (fun p =>
    (p.2.views.filter (fun v => mayUse s k v.owner)).flatMap (fun v => v.maps.map (fun m => (m.1, m.2.1, v.revoked)))
    ++ (p.2.sessions.filter (fun x => mayUse s k x.owner)).flatMap (fun x => x.cells.map (fun c => (c.2.2.1, c.2.2.2, false))))

/-- The output slot of the recalculation that the core works for (R96), an append cell's header included: base and length. -/
def outputSlot (s : State) (k : Nat) : Option (Nat × Nat) :=
  match formulaOf s k with
  | none => none
  | some (_, c, v) =>
    match c.cls with
    | .append => some (c.slots.getD (1 + v.slot) 0 - 64, 64 + 64 * c.esize)
    | _ => some (c.slots.getD v.slot 0, c.slotLen)

/-- What the dispatch of a recalculation presents to its team and kids (R91, R96). -/
def presentedRanges (s : State) (k : Nat) : List (Nat × Nat) :=
  match formulaOf s k with
  | none => []
  | some (sh, _, v) => v.table :: v.pins.flatMap (fun p =>
      match sh.exact p.1 p.2.1 with
      | none => []
      | some (c, w) => c.areas w)

/-- A range of addresses lies inside a listed one. -/
def inRange (a n base len : Nat) : Bool := base ≤ a && a + n ≤ base + len

/-- May the core load from this arena range (R98)?  `some true`: only through a revoked view (R95). -/
def arenaLoad (s : State) (k va n : Nat) : Option Bool :=
  let rs := readableRanges s k
  let own := (outputSlot s k).toList ++ presentedRanges s k
  if rs.any (fun r => inRange va n r.1 r.2.1 && !r.2.2) || own.any (fun r => inRange va n r.1 r.2) then some false
  else if rs.any (fun r => inRange va n r.1 r.2.1) then some true
  else none

/-- May the core write this arena range (R98)? -/
def arenaStore (s : State) (k va n : Nat) : Bool :=
  (outputSlot s k).toList.any (fun r => inRange va n r.1 r.2)
    || s.sheets.any (fun p => p.2.sessions.any (fun x => mayUse s k x.owner && x.cells.any (fun c => inRange va n c.2.2.1 c.2.2.2)))

/-! ### Sync-tagged words (R230) -/

/-- The doubleword at an offset of a core's A buffer is sync-tagged. -/
def syncTagged (c : Core) (off : Nat) : Bool :=
  !(SMap.getD c.deferred [] (off / 8)).isEmpty || (SMap.get? c.barWait (off / 16 * 16)).isSome

/-! ### The check of an access (R220) -/

/-- The kinds of access that R217 and R220 tell apart. -/
inductive Kind where
  | load | store | atomic | take | put
  deriving DecidableEq, Repr

/-- The cause of an access fault of a kind: 5 for loads, 7 otherwise (R216, R217); TAKE and PEEK, for which R216 and R217 say 7, raise 5 as
R231 says of them by name (log 122). -/
def Kind.accessCause : Kind → Nat
  | .load => 5
  | .take => 5
  | _ => 7

/-- The cause of a misaligned access of a kind (R219). -/
def Kind.alignCause : Kind → Nat
  | .load => 4
  | _ => 6

/-- The cause of a page fault of a kind (R351). -/
def Kind.pageCause : Kind → Nat
  | .load => 13
  | .take => 13
  | _ => 15

/-- The access of the translation. -/
def Kind.acc : Kind → XAcc
  | .load => .load
  | .take => .load
  | .atomic => .atomic
  | _ => .store

/-- The rights of R217 on a buffer, own or remote. -/
def bufferAllows (b : Space) (k : Kind) : Bool :=
  match b, k with
  | .bufA, _ => true
  | .bufC, .load => true
  | _, _ => false

/-- The effective policy of a space-0 access (R98, R166, R218). -/
def effPolicy (field : Nat) (p : Policy) (cell : Bool) : Policy :=
  let q := match field with | 1 => .direct | 2 => .stream | 3 => .herd | _ => p
  if cell && q == .swm then .leased else q

/-- Steps 3 to 7 of the check of an access of `size` bytes at `ea` by the running core (R220), to its place and policy. -/
def checkPlace (k : Kind) (ea : Word) (size polField : Nat) : Act (Place × Policy) := do
  let s ← get
  let me := s.cur
  match decodePtr s me ea with
  | none => trap k.accessCause ea
  | some (.buf t b off) =>
    let twinHerd := match (coreAt s t).twin with | some (_, false) => t ≠ me | _ => false
    -- a remote load from a twin herd, and what a twin names there, is the primary's (R414)
    let t' := if twinHerd then partnerOf s t else t
    if !bufferAllows b k then trap k.accessCause ea
    else if t' ≠ me && contained s t' then
      -- the fence answers before the buffer can: a load here, any other access at its bank (R221, R408)
      (if k == .load || k == .take then trap 32 ea else return ({ space := b, key := t', addr := off }, .direct))
    else if !claims (coreAt s t) b then trap k.accessCause ea
    else if twinHerd && k != .load && !isTwin s me then trap 7 ea
    else return ({ space := b, key := t', addr := off }, .direct)
  | some (.peer n a) =>
    if k == .load || k == .store then return ({ space := .peer, key := n, addr := a }, .direct) else trap k.accessCause ea
  | some (.host a) =>
    if k == .load || k == .store then return ({ space := .host, key := 0, addr := a }, .direct) else trap k.accessCause ea
  | some (.mem pol va) =>
    if k == .take || k == .put then trap k.accessCause ea
    else
      let user := !(coreAt s me).supervisor
      match xlate s me va k.acc user with
      | (.page _, s') => set s'; trap k.pageCause ea
      | (.access, _) => trap k.accessCause ea
      | (.ok pa leaf, s') =>
        let cell := bits leaf 7 7 == 1
        if cell && k == .load then
          match arenaLoad s me va size with
          | none => trap 5 ea
          | some true => trap 29 ea
          | some false => pure ()
        if cell && k != .load && !arenaStore s me va size then trap 27 ea
        set s'
        return ({ space := .mem, key := 0, addr := pa }, effPolicy polField pol cell)

/-- The check of an access (R220), alignment first. -/
def checkAccess (k : Kind) (ea : Word) (size polField : Nat) : Act (Place × Policy) := do
  trapIf (ea.toNat % size != 0) k.alignCause ea
  let r ← checkPlace k ea size polField
  let s ← get
  if r.1.space == .bufA && r.1.key == s.cur && (k == .store || k == .atomic)
      && (List.range ((size + 7) / 8)).any (fun i => syncTagged s.core (r.1.addr / 8 * 8 + 8 * i)) then trap 28 ea
  else return r

end Sys2Proof.Machine
end

