-- ==== Sys2Proof/Machine/Mem.lean ====
section
/-!
DEFINITION. Memory as the ordering machine gives it (R106 to R134): places, poison, homes and leases, herd caches, commutative
ranges, the load path, the region buffer and the commit queue; the rings of records (R102), and the form of every meaning.
-/

namespace Sys2Proof.Machine

/-! ### Places -/

/-- The buffer of a core that a space names. -/
def Core.buf (c : Core) : Space → SMap Byte
  | .bufW => c.bufW
  | .bufA => c.bufA
  | .bufC => c.bufC
  | _ => []

/-- The core with one of its buffers replaced. -/
def Core.setBuf (c : Core) (b : Space) (m : SMap Byte) : Core :=
  match b with
  | .bufW => { c with bufW := m }
  | .bufA => { c with bufA := m }
  | .bufC => { c with bufC := m }
  | _ => c

/-- A byte at an offset from a place (log 2); spaces 3 and 4 hold nothing on the part. -/
def placeByte (s : State) (p : Place) (i : Nat) : Byte :=
  match p.space with
  | .mem => memByte s (p.addr + i)
  | .peer => 0
  | .host => 0
  | b => SMap.getD ((coreAt s p.key).buf b) 0 (p.addr + i)

/-- The state with a byte at an offset from a place written. -/
def setPlaceByte (s : State) (p : Place) (i : Nat) (b : Byte) : State :=
  match p.space with
  | .mem => setMemByte s (p.addr + i) b
  | .peer => s
  | .host => s
  | sp => modCoreAt s p.key (fun c => c.setBuf sp (SMap.put (c.buf sp) 0 (p.addr + i) b))

/-- The little-endian number of n bytes at a place. -/
def placeNat (s : State) (p : Place) (n : Nat) : Nat := leNat (placeByte s p) n

/-- The state with listed bytes written, by offset from a place. -/
def setPlaceBytes (s : State) (p : Place) (bs : SMap Byte) : State := bs.foldl (fun s b => setPlaceByte s p b.1 b.2) s

/-- The number of n bytes at a place, where listed bytes stand before those of the place (R109). -/
def fwdNat (s : State) (p : Place) (fwd : SMap Byte) (n : Nat) : Nat :=
  leNat (fun i => (SMap.get? fwd i).getD (placeByte s p i)) n

/-- Two byte ranges of one space share a byte. -/
def overlaps (p : Place) (n : Nat) (q : Place) (m : Nat) : Bool :=
  p.space == q.space && p.key == q.key && p.addr < q.addr + m && q.addr < p.addr + n

/-! ### Poison (R404, R405) -/

/-- The first poisoned granule among n bytes at a place: its unit and, for memory, its address. -/
def poisonAt (s : State) (p : Place) (n : Nat) : Option (Nat × Nat) :=
  match p.space with
  | .mem => (s.poison.find? (fun m => m.hits p.addr n)).map (fun m => (m.unit, m.base))
  | .bufA | .bufC =>
    if (coreAt s p.key).poison.any (fun q => q.1 == 1 && granule p.space p.addr ≤ q.2 && q.2 ≤ granule p.space (p.addr + (n - 1)))
    then some (1, 0) else none
  | .bufW =>
    if (coreAt s p.key).poison.any (fun q => q.1 == 2 && p.addr / 64 ≤ q.2 && q.2 ≤ (p.addr + (n - 1)) / 64) then some (2, 0) else none
  | _ => none

/-- Marks a whole written range: granules that it covers are clean (R404). -/
def cleanPlace (s : State) (p : Place) (n : Nat) : State :=
  match p.space with
  | .mem =>
    if s.poison.isEmpty then s else { s with poison := s.poison.filter (fun m => !m.inside p.addr n) }
  | .bufA | .bufC =>
    modCoreAt s p.key (fun c => { c with poison := c.poison.filter (fun q =>
      q.1 != 1 || q.2 * 8 < granule p.space 0 * 8 + p.addr || granule p.space 0 * 8 + p.addr + n < q.2 * 8 + 8) })
  | .bufW =>
    modCoreAt s p.key (fun c => { c with poison := c.poison.filter (fun q =>
      q.1 != 2 || q.2 * 64 < p.addr || p.addr + n < q.2 * 64 + 64) })
  | _ => s

/-- The runs of consecutive offsets of listed bytes: first offset and length. -/
def byteRuns : SMap Byte → List (Nat × Nat)
  | [] => []
  | b :: rest => match byteRuns rest with
    | (j, n) :: more => if j = b.1 + 1 then (b.1, n + 1) :: more else (b.1, 1) :: (j, n) :: more
    | [] => [(b.1, 1)]

/-- Granules that listed bytes cover whole are clean (R404). -/
def cleanBytes (s : State) (p : Place) (bs : SMap Byte) : State :=
  (byteRuns bs).foldl (fun s r => cleanPlace s { p with addr := p.addr + r.1 } r.2) s

/-- Poisons a line of a herd cache or a granule of memory. -/
def poisonLine (s : State) (m : PoisonMark) : State := { s with poison := if s.poison.contains m then s.poison else s.poison ++ [m] }

/-! ### Reductions (R125, R126) -/

/-- A partial line on its way home from the victim buffer (R125, R126). -/
def victimOf (p : Partial) : Victim := { line := p.line, dirty := none, part := some p, phase := 0, answered := false }

/-- An SWM dirty line on its way home from the victim buffer (R113, R126). -/
def victimLine (line : Nat) (l : HLine) : Victim := { line := line, dirty := some l, part := none, phase := 0, answered := false }

/-! ### The room of a herd cache (R16, R31, R126) -/

/-- A way of a herd cache: a line, or a partial line. -/
inductive Way where
  | line (n : Nat) (l : HLine)
  | part (p : Partial)
  deriving DecidableEq, Repr

/-- The ways of a line's set that are taken: 64 KiB of 64-byte lines in 8 ways are 128 sets. -/
def setWays (x : Herd) (line : Nat) : List Way :=
  (x.lines.filter (fun p => p.1 % 128 == line % 128)).map (fun p => .line p.1 p.2)
    ++ (x.parts.filter (fun p => p.line % 128 == line % 128)).map .part

/-- The way that leaves a full set for a new line: one inserted evict-first (R113), else a free choice (log 97). -/
def wayOut (s : State) (h line : Nat) : Option Way :=
  let ws := setWays (herdAt s h) line
  if ws.length < 8 then none
  else match ws.find? (fun w => match w with | .line _ l => l.first | .part _ => false) with
    | some w => some w
    | none => ws[Config.evictWay s.free % 8]?

/-- The pseudo-channel of a line (R29): its die and its slice, PA<16:14> and PA<13:6>. -/
def channelOf (line : Nat) : Nat := line % 2048

/-- The lines whose held partials lie in the spill area of a line's pseudo-channel. -/
def spilledLines (s : State) (line : Nat) : Nat := (s.homes.filter (fun p => p.2.spilled && channelOf p.1 == channelOf line)).length

/-- The spill area of a line's pseudo-channel has room (R126, R417). -/
def spillRoom (s : State) (line : Nat) : Bool := spilledLines s line < (dieAt s (homeDie line)).spill * 1024

/-- The write-back that a new line needs is refused (R126): the way that leaves is a partial line for which neither its slice nor the
spill area has room. -/
def roomRefused (s : State) (h line : Nat) : Bool :=
  match wayOut s h line with
  | some (.part p) => !spillRoom s p.line && Config.sliceFull s.free
  | _ => false

/-- The poison mark of a herd's copy of a line leaves the list. -/
def dropMark (s : State) (h line : Nat) : State :=
  if s.poison.isEmpty then s
  else { s with poison := s.poison.filter (fun m => !(m.unit == 4 && m.key == h && m.addr == line)) }

/-- A way of a herd cache leaves it (R113, R126): an SWM dirty line and a partial line go to the victim buffer, any other copy is
dropped. -/
def leaveWay (s : State) (h : Nat) : Way → State
  | .line n l =>
    if l.expiry.isNone && l.marks != 0 then
      modHerdAt s h (fun x => { x with lines := SMap.erase x.lines n, victims := x.victims ++ [victimLine n l] })
    else modHerdAt (dropMark s h n) h (fun x => { x with lines := SMap.erase x.lines n })
  | .part p => modHerdAt s h (fun x => { x with parts := x.parts.erase p, victims := x.victims ++ [victimOf p] })

/-- Room in the set of a line that a herd does not hold yet (R16). -/
def makeRoom (s : State) (h line : Nat) : State :=
  match wayOut s h line with
  | none => s
  | some w => { leaveWay s h w with free := s.free + 1 }

/-- A reduction into a partial line of a herd (R125, R228); a new partial line takes a way of its set. -/
def reducePartial (s : State) (h pos contrib : Nat) (r : CommRange) (a operand : Nat) (w32 : Bool) : State :=
  let line := lineOf a
  let s := if (herdAt s h).parts.any (fun p => p.line == line && p.contrib == contrib && p.pos == pos) then s else makeRoom s h line
  let parts := (herdAt s h).parts
  let p : Partial := (parts.find? (fun p => p.line == line && p.contrib == contrib && p.pos == pos)).getD
    { line := line, contrib := contrib, herd := h, pos := pos, elems := [], poisoned := false }
  let n := rangeBytes r.fmt
  let width := if w32 then 4 else 8
  let elems := (List.range (width / n)).foldl (fun (m : SMap Nat) i =>
    let off := a % 64 + n * i
    SMap.set m off (rangeCombine r.fmt r.op (SMap.getD m (rangeIdentity r.fmt r.op) off) (operand / 2 ^ (8 * n * i) % 2 ^ (8 * n)))) p.elems
  let p' := { p with elems := elems }
  let parts' :=
    if parts.any (fun q => q.line == line && q.contrib == contrib && q.pos == pos) then
      parts.map (fun q => if q.line == line && q.contrib == contrib && q.pos == pos then p' else q)
    else parts ++ [p']
  let s := modHerdAt s h (fun x => { x with parts := parts' })
  modHomeAt s line (fun x => { x with holders := insertNat x.holders h })

/-! ### Herd caches and leases (R113 to R116) -/

/-- The 64 bytes of a line at its home. -/
def lineData (s : State) (line : Nat) : BitVec 512 := BitVec.ofNat 512 (memNat s (line * 64) 64)

/-- A byte of a cached line. -/
def HLine.byte (l : HLine) (i : Nat) : Byte := (l.data >>> (8 * i)).setWidth 8

/-- A cached line with listed bytes written. -/
def HLine.write (l : HLine) (off : Nat) (bs : SMap Byte) (mark : Bool) : HLine :=
  bs.foldl (fun l b =>
    let i := off + b.1
    { l with data := (l.data &&& ~~~((255#512) <<< (8 * i))) ||| ((b.2.setWidth 512 : BitVec 512) <<< (8 * i))
             marks := if mark then l.marks ||| (1#64 <<< i) else l.marks }) l

/-- The copy that serves an access of a policy in a herd (R113, R114): a leased copy that has not expired; under SWM any copy. -/
def herdHit (s : State) (h line : Nat) (pol : Policy) : Option HLine :=
  match SMap.get? (herdAt s h).lines line with
  | none => none
  | some l =>
    let live := match l.expiry with | some x => (dieAt s (herdDie h)).clock < x | none => true
    match pol with
    | .leased | .herd => if l.expiry.isSome && live then some l else none
    | .swm => if live then some l else none
    | _ => none

/-- The state with a herd's copy of a line replaced. -/
def setHLine (s : State) (h line : Nat) (l : HLine) : State := modHerdAt s h (fun x => { x with lines := SMap.set x.lines line l })

/-- The state with a copy of a line that a home gives to a herd, in the place of any other copy of the line or of a way that leaves the
set (R16, R113). -/
def insertHLine (s : State) (h line : Nat) (l : HLine) : State :=
  let s := dropMark s h line
  setHLine (if (SMap.get? (herdAt s h).lines line).isSome then s else makeRoom s h line) h line l

/-- A copy on its way home from a herd's victim buffer, or waiting at the home. -/
def writingBack (s : State) (h line : Nat) : Bool :=
  (herdAt s h).victims.any (fun v => v.line == line && v.dirty.isSome)
    || (homeAt s line).waiting.any (fun w => w.src == .writeback h)

/-- Whether an SWM copy stands in a herd. -/
def swmCopy (s : State) (h line : Nat) : Bool :=
  match SMap.get? (herdAt s h).lines line with | some l => l.expiry.isNone | none => false

/-- The SWM copy of a line leaves a herd: dirty to the victim buffer, clean dropped (R113, R114, R126). -/
def dropSwm (s : State) (h line : Nat) : State :=
  match SMap.get? (herdAt s h).lines line with
  | none => s
  | some l =>
    if l.expiry.isSome then s
    else leaveWay s h (.line line l)

/-- The copy that a home gives to a herd under a policy (R113, R115, R116): with a lease unless a write waits or the line is in a
commutative range, without one under SWM, none under DIRECT. -/
def homeGrant (s : State) (h line : Nat) (pol : Policy) : State :=
  let poisoned := s.poison.any (fun m => m.unit != 4 && m.addr == line)
  let carry (s : State) : State := if poisoned then { s with poison := s.poison ++ [{ unit := 4, key := h, addr := line }] } else s
  match pol with
  | .direct => s
  | .swm => carry (insertHLine s h line { data := lineData s line, expiry := none, marks := 0, first := false })
  | _ =>
    if (homeAt s line).waiting.isEmpty && (rangeOf s (line * 64)).isNone then
      let d := dieAt s (homeDie line)
      let x := d.clock + d.lease
      let s := modHomeAt s line (fun y => { y with horizon := max y.horizon x })
      carry (insertHLine s h line { data := lineData s line, expiry := some x, marks := 0, first := pol == .stream })
    else s

/-- A write may perform at its home (R116). -/
def homeOpen (s : State) (line : Nat) : Bool := (homeAt s line).horizon + 2 ≤ (dieAt s (homeDie line)).clock

/-! ### What entries do at a place -/

/-- The new value of an atomic on n bits (R226). -/
def amoValue (op : AmoOp) (n m b e : Nat) : Nat :=
  match op with
  | .add => (m + b) % 2 ^ n
  | .and => m &&& b % 2 ^ n
  | .or => m ||| b % 2 ^ n
  | .xor => m ^^^ b % 2 ^ n
  | .min => if signedOf n b < signedOf n m then b % 2 ^ n else m
  | .max => if signedOf n m < signedOf n b then b % 2 ^ n else m
  | .minu => min m (b % 2 ^ n)
  | .maxu => max m (b % 2 ^ n)
  | .swap => b % 2 ^ n
  | .cas => if m = e % 2 ^ n then b % 2 ^ n else m

/-- The new value of a reduction outside a commutative range (R227). -/
def redValue (op : RedOp) (n m b : Nat) : Nat :=
  match op with
  | .add => (m + b) % 2 ^ n
  | .min => if signedOf n b < signedOf n m then b % 2 ^ n else m
  | .max => if signedOf n m < signedOf n b then b % 2 ^ n else m
  | .fadd =>
    let f := if n = 32 then fp32 else fp64
    (f.finish 0 false (FVal.add 0 (f.value m) (f.value (b % 2 ^ n))).1).1

/-- The bytes that an action touches, by count from its place. -/
def Action.size : Action → Nat
  | .store bs => bs.foldl (fun n b => max n (b.1 + 1)) 0
  | .amo _ w32 _ _ _ => if w32 then 4 else 8
  | .red _ w32 _ _ => if w32 then 4 else 8
  | .put _ => 8
  | .feinit _ _ => 8
  | .barrier _ _ _ => 16
  | _ => 0

/-- The bytes that a store writes. -/
def Action.bytes : Action → SMap Byte
  | .store bs => bs
  | _ => []

/-- A sync-tagged doubleword among those of n bytes (R230). -/
def tagged (s : State) (p : Place) (n : Nat) : Bool :=
  p.space == .bufA &&
    (List.range ((p.addr + (n - 1)) / 8 + 1 - p.addr / 8)).any (fun i => syncTagged (coreAt s p.key) ((p.addr / 8 + i) * 8))

/-- A sync-tagged doubleword that an action writes (R230): of a store, one that holds a byte that it writes. -/
def actTagged (s : State) (p : Place) (a : Action) : Bool :=
  match a with
  | .store bs => p.space == .bufA && bs.any (fun b => syncTagged (coreAt s p.key) ((p.addr + b.1) / 8 * 8))
  | _ => tagged s p a.size

/-- A core in WAITA examines its word after a write (R235): the first value that differs from the compare value ends the wait. -/
def noteWrite (s : State) (k : Nat) : State :=
  match (coreAt s k).wait with
  | some (.waita st n ex b off cmp none) =>
    let v := word (placeNat s { space := b, key := k, addr := off } 8)
    if v = cmp then s else modCoreAt s k (fun c => { c with wait := some (.waita st n ex b off cmp (some v)), stalled := false })
  | _ => s

/-- A write has performed at a place: the cores whose banks it has reached examine their words. -/
def noteBank (s : State) (p : Place) : State :=
  if p.space == .bufA || p.space == .bufC then
    let s := noteWrite s p.key
    match (coreAt s p.key).twin with | some (q, true) => noteWrite s q | _ => s
  else s

/-- In a twin team, what an outside agent writes into a primary's buffer stands in its twin's too, and so does what an operation that the
pair issues once writes there, its copy jobs among them (R414; log 74); `clean`: the write cleans the granules that it covers, in the
twin's buffer too (R404). -/
def mirrorTwin (s : State) (src : Nat) (pl : Place) (once clean : Bool) (offs : List Nat) : State :=
  match (coreAt s pl.key).twin with
  | some (p, true) =>
    if pl.space = .mem ∨ (once = false ∧ (src = pl.key ∨ src = p)) then s
    else
      let s := if clean then cleanBytes s { pl with key := p } (offs.map (fun i => (i, 0))) else s
      offs.foldl (fun s i => setPlaceByte s { pl with key := p } i (placeByte s pl i)) s
  | _ => s

/-- The place of a primary's twin that mirrors a place, if there is one (R414). -/
def twinPlace (s : State) (pl : Place) : Option Place :=
  match (coreAt s pl.key).twin with
  | some (p, true) => if pl.space = .mem then none else some { pl with key := p }
  | _ => none

/-- The writer of a place that no core of a pair performs for itself alone: an engine, or a job that the pair issues once (R414). -/
def engineSrc : Nat := 65536

/-- How an action ends at its place. -/
inductive Done where
  /-- Performed; the old value of an atomic. -/
  | ok (old : Word)
  /-- Refused: the word is sync-tagged (R230). -/
  | refused
  /-- The atomic's answer would be a poisoned value (R405). -/
  | poisoned (unit addr : Nat)

/-- A store, an atomic or a reduction performs at its home or bank in one step (R117, R226, R227, R230). -/
def performAt (s : State) (src : Nat) (p : Place) (a : Action) : State × Done :=
  let n := a.size
  if actTagged s p a then (s, .refused)
  else
    let s := if p.space == .mem then combineBytes s p.addr n else s
    match a with
    | .store bs =>
      (noteBank (mirrorTwin (cleanBytes (setPlaceBytes s p bs) p bs) src p false true (bs.map (fun b => b.1))) p, .ok 0)
    | .amo op w32 b e reply =>
      (match (if reply then poisonAt s p n else none) with
       | some (u, x) => (s, .poisoned u x)
       | none =>
         let m := placeNat s p n
         (noteBank (mirrorTwin (setPlaceBytes s p (leBytes (amoValue op (8 * n) m b.toNat e.toNat) n)) src p reply false (List.range n)) p,
           .ok (if w32 then sext 32 (word m) else word m)))
    | .red op w32 b _ =>
      let m := placeNat s p n
      let packed := match (if p.space == .mem then rangeOf s p.addr else none) with
        | some (_, r) => if !r.closed && rangeAccepts r op w32 then some r else none
        | none => none
      (match packed with
       | some r =>
         let k := rangeBytes r.fmt
         ((List.range (n / k)).foldl (fun s i =>
           setMemNat s (p.addr + k * i) k (rangeCombine r.fmt r.op (memNat s (p.addr + k * i) k) (b.toNat / 2 ^ (8 * k * i) % 2 ^ (8 * k)))) s,
           .ok 0)
       | none => (noteBank (mirrorTwin (setPlaceBytes s p (leBytes (redValue op (8 * n) m b.toNat) n)) src p false false (List.range n)) p, .ok 0))
    | _ => (s, .ok 0)

/-! ### Errors in the state of the sheet and suffix engines (R402, R405; log 108) -/

/-- The mark of a poisoned granule of 8 bytes of the state of a sheet (unit 10) or suffix slot (unit 11); its address names no line. -/
def engineMark (unit n granule : Nat) : PoisonMark := { unit := unit, key := n, addr := 2 ^ 58 + granule }
/-- The marks of the state of a sheet or slot. -/
def engineMarks (s : State) (unit n : Nat) : List PoisonMark := s.poison.filter (fun m => m.unit == unit && m.key == n && 2 ^ 58 ≤ m.addr)
/-- The state of a sheet or slot that the next command reads holds a poisoned granule: which granules a command reads is a free choice. -/
def enginePoison (s : State) (unit n : Nat) : Option (Nat × Nat) :=
  if (engineMarks s unit n).any (fun m => Config.readsGranule s.free (m.addr - 2 ^ 58)) then some (0, 0) else none
/-- The next command's choice is another one. -/
def nextChoice (s : State) (unit n : Nat) : State := if (engineMarks s unit n).isEmpty then s else { s with free := s.free + 1 }
/-- The state of a sheet or slot is made anew. -/
def cleanEngine (s : State) (unit n : Nat) : State :=
  { s with poison := s.poison.filter (fun m => !(m.unit == unit && m.key == n && 2 ^ 58 ≤ m.addr)) }
/-- The engine reads a sheet or slot for the running core: poison that it reads is consumed (R405). -/
def engineState (unit n : Nat) : Act Unit := do
  match enginePoison (← get) unit n with
  | some (u, a) => throw (.consume u a)
  | none => modify (fun s => nextChoice s unit n)

/-! ### Rings of records (R102, R354, R410) -/

/-- The ring with a number: 0 to 63 the event rings, 65 + 2d and 66 + 2d the fault and containment queues of die d (their vectors
of R420), 96 + d its kid queue. -/
def ringAt (s : State) (n : Nat) : Ring :=
  if n < 64 then SMap.getD s.rings Ring.reset n
  else if 96 ≤ n then (dieAt s (n - 96)).kidQ
  else if n % 2 = 1 then (dieAt s ((n - 65) / 2)).faultQ else (dieAt s ((n - 65) / 2)).contQ

/-- The state with a ring replaced. -/
def setRing (s : State) (n : Nat) (r : Ring) : State :=
  if n < 64 then { s with rings := SMap.set s.rings n r }
  else if 96 ≤ n then modDieAt s (n - 96) (fun d => { d with kidQ := r })
  else if n % 2 = 1 then modDieAt s ((n - 65) / 2) (fun d => { d with faultQ := r })
  else modDieAt s ((n - 65) / 2) (fun d => { d with contQ := r })

/-- The ring is full (R103). -/
def Ring.full (r : Ring) : Bool := (r.prod + 2 ^ (r.size + 1) - r.cons % 2 ^ (r.size + 1)) % 2 ^ (r.size + 1) == 2 ^ r.size

/-- Whether records of a ring go to memory: the event rings always, a queue once it is placed. -/
def Ring.open (r : Ring) (n : Nat) : Bool := n < 64 || r.placed

/-- The interrupt that a ring raises (R102, R420). -/
def raiseRing (s : State) (n : Nat) : State :=
  let r := ringAt s n
  let x := if r.target = 65535 then External.vector n else External.osCore r.target
  setRing { s with raised := s.raised ++ [x] } n { r with unsignalled := 0 }

/-- The I/O die reads lease clock 0 (R118). -/
def ioClock (s : State) : Nat := (dieAt s 0).clock

/-- A record has been written: PROD passes it, and the interrupt that the count asks for is raised (R102). -/
def ringAdvance (s : State) (n : Nat) : State :=
  let r := ringAt s n
  let r' := { r with prod := (r.prod + 1) % 2 ^ (r.size + 1), unsignalled := r.unsignalled + 1, writing := false
                     sinceTick := if r.unsignalled = 0 then ioClock s else r.sinceTick }
  let s := setRing s n r'
  if max r.count 1 ≤ r'.unsignalled then raiseRing s n else s

/-- Sends a record with the phase of the lap to its line's home (R102, R116), where it performs at once if nothing holds it up; PROD
passes it when it has performed. -/
def ringWrite (s : State) (n : Nat) (rec : Nat) : State :=
  let r := ringAt s n
  let phase := 1 - r.prod / 2 ^ r.size % 2
  let pl : Place := { space := .mem, key := 0, addr := r.base + 32 * (r.prod % 2 ^ r.size) }
  let a := Action.store (leBytes (rec + phase * 2 ^ 64) 32)
  let line := lineOf pl.addr
  if (homeAt s line).waiting.isEmpty && homeOpen s line && (homeAt s line).crc = 0 then ringAdvance (performAt s 0 pl a).1 n
  else modHomeAt (setRing s n { r with writing := true }) line (fun y =>
    { y with waiting := y.waiting ++ [{ src := .ring n, place := pl, act := a, poisoned := false, whole := false }] })

/-- Sends a record (bit 64 clear) to memory, or holds it on chip while the ring is full or an earlier record is on its way (R103; the
number of records held has no limit here, log 99). -/
def ringSend (s : State) (n : Nat) (rec : Nat) : State :=
  let r := ringAt s n
  if r.full || !r.open n || !r.held.isEmpty || r.writing then setRing s n { r with held := r.held ++ [BitVec.ofNat 256 rec] }
  else ringWrite s n rec

/-- Posts a record (R102); an event ring knows the records that it has posted once (R104). -/
def ringPost (s : State) (n : Nat) (rec : Nat) : State :=
  ringSend (if n < 64 then setRing s n { ringAt s n with posted := (ringAt s n).posted ++ [BitVec.ofNat 256 rec] } else s) n rec

/-- Releases held records while there is room (R103); `fuel` bounds the number released. -/
def ringRelease : Nat → State → Nat → State
  | 0, s, _ => s
  | fuel + 1, s, n =>
    let r := ringAt s n
    match r.held with
    | [] => s
    | x :: rest =>
      if r.full || !r.open n || r.writing then s else ringRelease fuel (ringWrite (setRing s n { r with held := rest }) n x.toNat) n

/-! ### Fault records (R353, R354) -/

/-- The level of the entry with V = 0 that a walk met. -/
def faultLevel (s : State) (t : Team) (va : Nat) : Nat := match walk s va 3 t.root with | .page l => l | _ => 0

/-- The number of a core's team in records (R354, R410), as its TEAMID has it: 0 for the team that BOOT makes (R428). -/
def recordTeam (s : State) (k : Nat) : Nat :=
  let tn := (coreAt s k).team.getD 0
  match teamAt s tn with
  | some t => (match t.src with | .boot _ => 0 | _ => tn)
  | none => tn

/-- Posts a page-fault record of core k: `acc` 0 load, 1 write, 2 fetch. -/
def postFault (s : State) (k : Nat) (va acc : Nat) (copy : Bool) : State :=
  match (coreAt s k).team.bind (teamAt s) with
  | none => s
  | some t =>
    let d := dieOf k
    ringPost s (65 + 2 * d)
      ((dieAt s d).clock % 2 ^ 64 * 2 ^ 192 + va / 2 ^ 16 % 2 ^ 36 * 2 ^ 156 + t.asid % 2 ^ 16 * 2 ^ 140
        + recordTeam s k % 2 ^ 16 * 2 ^ 124 + acc * 2 ^ 122 + faultLevel s t va * 2 ^ 120
        + (if copy then 2 ^ 119 else 0) + d * 2 ^ 116 + xOf k * 2 ^ 110 + yOf k * 2 ^ 103 + va % 2 ^ 64)

/-- A trap of core k: a page fault in user mode sleeps on a record (R353), any other enters (R208). -/
def raiseTrap (s : State) (k cause : Nat) (val : Word) : State :=
  let c := coreAt s k
  if !c.supervisor && (cause == 12 || cause == 13 || cause == 15) then
    sleepOnFault s k cause val
      (fun s => postFault s k val.toNat (if cause = 13 then 0 else if cause = 15 then 1 else 2) false)
  else takeTrap s k cause val false c.pc

/-! ### The form of a meaning -/

/-- Runs an instruction's steps on the core that runs (R204): its effect; or its trap; or the wait. -/
def runInstr (act : Act Unit) (s : State) : Host.Outcome State Fault Refusal :=
  match act s with
  | .ok (_, s') => .next s'
  | .error (.trap cause val) => .next (raiseTrap s s.cur cause val)
  | .error .wait => .next (modCoreAt s s.cur (fun c => { c with stalled := true }))
  | .error (.block s') => .next (modCoreAt s' s.cur (fun c => { c with stalled := true }))
  | .error (.consume u a) => .next (modCoreAt (consumeAt s s.cur u a) s.cur (fun c => { c with stalled := true }))

/-- Waits in the state reached. -/
def blockHere {α : Type} : Act α := do throw (.block (← get))

/-! ### Answers to a core -/

/-- The waiting instruction of a core receives its answer. -/
def replyTo (s : State) (k : Nat) (r : Reply) : State := modCoreAt s k (fun c => { c with reply := some r, stalled := false })

/-- The head entry leaves a core's commit queue. -/
def popEntry (s : State) (k : Nat) : State := modCoreAt s k (fun c => { c with cq := c.cq.drop 1, stalled := false })

/-- The trap of an entry that its bank, its home or a contained rectangle refuses: precise where the core waits for the answer,
deferred otherwise (R221, R230, R348). -/
def refuseEntry (s : State) (k cause : Nat) (ea : Word) (waits : Bool) : State :=
  if waits then replyTo s k (.trap cause ea) else raiseDeferred s k cause ea

/-- The core waits for the answer of an action. -/
def Action.waits : Action → Bool
  | .amo _ _ _ _ r => r
  | .barrier _ _ r => r
  | _ => false

/-- Finishes the head entry of core k after its action has performed or been refused. -/
def finishEntry (s : State) (k : Nat) (e : Entry) (d : Done) : State :=
  let s := popEntry s k
  match d with
  | .ok old => if e.act.waits then replyTo s k (.value old 0) else s
  | .refused => refuseEntry s k 28 e.ea e.act.waits
  | .poisoned u x => consumeAt s k u x

/-! ### The commit queue (R119, R121) -/

/-- Every earlier entry of the queue and every earlier load of the core has performed at a release's scope (R110, R121). -/
def releaseOpen (s : State) (k : Nat) (scope stamp : Nat) : Bool :=
  let c := coreAt s k
  c.loads.all (fun l => stamp ≤ l.stamp)
    && (scope < 2 || (herdAt s (herdOf k)).forwards.all (fun f => f.core != k))
    && (scope < 4 || c.extern.all (fun x => !x.1))

/-- The entry is a release (R121): ORD 10 or 11; the barrier operations release at DEV scope (R297). -/
def Entry.release (e : Entry) : Bool := e.ord / 2 % 2 == 1 || (match e.act with | .barrier _ _ _ => true | _ => false)
/-- The entry is an acquire (R121). -/
def Entry.acquire (e : Entry) : Bool := e.ord % 2 == 1
/-- The scope at which an entry releases. -/
def Entry.relScope (e : Entry) : Nat := match e.act with | .barrier _ _ _ => 3 | _ => e.scope

/-- The head entry of a core's queue may start on its way: it is not there yet, its release conditions hold, no earlier acquire load is
still to perform (R121, R223), and no earlier load of the core still has to read a byte that it writes (log 11). -/
def headReady (s : State) (k : Nat) (e : Entry) : Bool :=
  !e.sent && (!e.release || releaseOpen s k e.relScope e.stamp)
    && (coreAt s k).loads.all (fun l => !(l.stamp < e.stamp && (l.acquire || overlaps l.place l.size e.place e.act.size)))

/-- Marks the head entry of a core as sent. -/
def markSent (s : State) (k : Nat) : State :=
  modCoreAt s k (fun c => { c with cq := match c.cq with | [] => [] | e :: rest => { e with sent := true } :: rest })

/-- The entry performs at its home: every space-0 entry but stores under SWM or HERD that do not release at DIE or above, and
reductions into a commutative range (R113, R114, R117, R125). -/
def atHome (s : State) (e : Entry) : Bool :=
  e.place.space == .mem &&
  (match e.act with
   | .store _ => (e.pol != .swm && e.pol != .herd) || (e.release && 2 ≤ e.scope)
   | .amo _ _ _ _ _ => true
   | .red op w32 _ _ =>
     (match rangeOf s e.place.addr with
      | some (_, r) => r.closed || !rangeAccepts r op w32
      | none => true)
   | _ => false)

/-- The entry travels to a bank as a message (R112, R232, R297). -/
def byMessage (k : Nat) (e : Entry) : Bool :=
  match e.act with
  | .put _ => true
  | .feinit _ _ => true
  | .barrier _ _ _ => true
  | _ => (e.place.space == .bufA || e.place.space == .bufC) && e.place.key != k

/-- Walker commands outstanding (R236): PREF and RINV from issue, RFLUSH from its start; at most four. -/
def walkRoom (c : Core) : Bool := c.walks.length < 4

/-- A walker command on a byte range of space 0, whose lines end with the space (R216, R236; log 100). -/
def walkOf (kind va len : Nat) (pol : Policy) : Walk :=
  let last := min (va + len - 1) (2 ^ 52 - 1)
  { kind := kind, line := va / 64, count := if len = 0 then 0 else last / 64 + 1 - va / 64, done := 0, pol := pol }

/-- The head entry of core k performs at its own bank, and leaves; the second half of a TSTS row performs with the first, and where the bank
refuses either of them neither performs (R230, R251; logs 19 and 126). -/
def performHere (s : State) (k : Nat) (e : Entry) : State :=
  match e.pair, (coreAt s k).cq with
  | true, _ :: f :: _ =>
    if actTagged s e.place e.act || actTagged s f.place f.act then refuseEntry (popEntry (popEntry s k) k) k 28 e.ea false
    else popEntry (performAt (popEntry (performAt s k e.place e.act).1 k) k f.place f.act).1 k
  | _, _ =>
    let (s, d) := performAt s k e.place e.act
    finishEntry s k e d

/-- A write of core k into a slot arena comes to its place after the core has lost its right to it (R77, R98; log 125). -/
def cellRefused (s : State) (k : Nat) (e : Entry) : Bool :=
  e.cell && (match decodePtr s k e.ea with
    | some (.mem _ va) =>
      let a := va / 64 * 64 + e.place.addr % 64
      (match e.act with
       | .store bs => bs.any (fun b => !arenaStore s k (a + b.1) 1)
       | x => !arenaStore s k a x.size)
    | _ => true)

/-- Such a write leaves the queue without effect: cell protection. -/
def refuseCell (s : State) (k : Nat) (e : Entry) : State := refuseEntry (popEntry s k) k 27 e.ea e.act.waits

/-- A store performs at the herd cache under HERD policy: any copy there is updated, and the store goes on to the home (R113); one of a
whole line leaves the copy clean of poison (R404). -/
def storeHerd (s : State) (k : Nat) (e : Entry) (bs : SMap Byte) : State :=
  let h := herdOf k
  let line := lineOf e.place.addr
  let s := if bs.length = 64 then dropMark s h line else s
  let s := match SMap.get? (herdAt s h).lines line with
    | some l => setHLine s h line (l.write (e.place.addr % 64) bs false)
    | none => s
  modHerdAt s h (fun x => { x with forwards := x.forwards ++ [{ core := k, place := e.place, bytes := bs, arrived := false }] })

/-- A store performs at the herd cache under SWM, filling the line first where it misses (R113, R114); one of a whole line leaves it
clean of poison (R404). -/
def storeSwm (s : State) (k : Nat) (e : Entry) (bs : SMap Byte) : State :=
  let h := herdOf k
  let line := lineOf e.place.addr
  let s := if (herdHit s h line .swm).isSome then s else homeGrant (combineLine s line) h line .swm
  let s := if bs.length = 64 then dropMark s h line else s
  match SMap.get? (herdAt s h).lines line with
  | some l => setHLine s h line ({ l with expiry := none }.write (e.place.addr % 64) bs true)
  | none => s

/-- A reduction of core k performs at its herd's cache (R125), and leaves the queue; where the write-back of the way that it needs is
refused it has no effect, and raises cause 7 (R126). -/
def stepReduce (s : State) (k : Nat) (e : Entry) (r : CommRange) (b : Word) (contrib : Nat) (w32 : Bool) : State :=
  let h := herdOf k
  let old := (herdAt s h).parts.any (fun p => p.line == lineOf e.place.addr && p.contrib == contrib && p.pos == posOf k)
  if !old && roomRefused s h (lineOf e.place.addr) then raiseDeferred { popEntry s k with free := s.free + 1 } k 7 e.ea
  else popEntry (reducePartial s h (posOf k) contrib r e.place.addr b.toNat w32) k

/-- One step of the head entry of core k, if it can take one (R119): it performs at its own bank or at the herd cache and leaves, or
starts on its way.  Entries for a home go by HOME_ARRIVE. -/
def stepHead (s : State) (k : Nat) : Option State :=
  match (coreAt s k).cq with
  | [] => none
  | e :: _ =>
    if !headReady s k e then none
    else if byMessage k e then
      some (markSent { s with net := s.net ++ [{ src := k, dst := e.place.key, off := e.place.addr, ea := e.ea, kind := .entry }] } k)
    else match e.place.space, e.act with
      | .peer, _ => some (modCoreAt (popEntry s k) k (fun c => { c with extern := c.extern ++ [(true, e)] }))
      | .host, _ => some (modCoreAt (popEntry s k) k (fun c => { c with extern := c.extern ++ [(true, e)] }))
      | _, .rflush va len =>
        if walkRoom (coreAt s k) then
          some (markSent (modCoreAt s k (fun c =>
            { c with walks := c.walks ++ [walkOf 1 va.toNat len .swm] })) k)
        else none
      | .mem, a =>
        if atHome s e then none
        else if cellRefused s k e then some (refuseCell s k e)
        else
          let h := herdOf k
          let line := lineOf e.place.addr
          (match a with
           | .store bs =>
             if e.pol == .herd then
               (if swmCopy s h line then some (dropSwm s h line)
                else if writingBack s h line then none
                else some (popEntry (storeHerd s k e bs) k))
             else if (herdHit s h line .swm).isNone && writingBack s h line then none
             else some (popEntry (storeSwm s k e bs) k)
           | .red _ w32 b contrib =>
             (match rangeOf s e.place.addr with
              | some (_, r) => some (stepReduce s k e r b contrib w32)
              | none => none)
           | _ => none)
      | _, _ => some (performHere s k e)

/-- The head entry of core k arrives at its home (R116): an SWM copy in the herd leaves first, but for a store under SWM. -/
def arriveHead (s : State) (k : Nat) : Option State :=
  match (coreAt s k).cq with
  | [] => none
  | e :: _ =>
    if !headReady s k e || !atHome s e then none
    else
      let h := herdOf k
      let line := lineOf e.place.addr
      let keeps : Bool := match e.act with | .store _ => e.pol == .swm | _ => false
      if swmCopy s h line && !keeps then some (dropSwm s h line)
      else if writingBack s h line then none
      else some (markSent (modHomeAt s line (fun y =>
        { y with waiting := y.waiting ++ [{ src := .core k, place := e.place, act := e.act, poisoned := false, whole := false }] })) k)

/-- The oldest forward that has not arrived, marked as arrived. -/
def markForward : List Forward → List Forward
  | [] => []
  | g :: rest => if g.arrived then g :: markForward rest else { g with arrived := true } :: rest

/-- The oldest arrived forward to a place taken out. -/
def popForward (p : Place) : List Forward → List Forward
  | [] => []
  | f :: fs => if f.arrived && f.place == p then fs else f :: popForward p fs

/-- The oldest forward of a herd that has not arrived arrives at its home (R113, R116). -/
def arriveForward (s : State) (h : Nat) : Option State :=
  match (herdAt s h).forwards.find? (fun f => !f.arrived) with
  | none => none
  | some f =>
    let line := lineOf f.place.addr
    some (modHomeAt (modHerdAt s h (fun x => { x with forwards := markForward x.forwards })) line (fun y =>
      { y with waiting := y.waiting ++ [{ src := .forward h, place := f.place, act := .store f.bytes, poisoned := false, whole := false }] }))

/-- Updates a herd's copy of a line where a release under SWM or HERD performs at the home (R113). -/
def updateCopy (s : State) (h : Nat) (e : Entry) : State :=
  let line := lineOf e.place.addr
  match SMap.get? (herdAt s h).lines line, e.act with
  | some l, .store bs => setHLine (if bs.length = 64 then dropMark s h line else s) h line (l.write (e.place.addr % 64) bs false)
  | _, _ => s

/-- A copy job ends with a status of R288, in the slot of both twins of a pair (R414); it leaves the fault record that it sleeps on. -/
def endJob (s : State) (k slot status : Nat) : State :=
  let f (c : Core) : Core :=
    { c with jobs := c.jobs.map (fun p => if p.1 = slot then (p.1, { p.2 with state := .ended, status := status, fault := none }) else p)
             stalled := false }
  let s := modCoreAt s k f
  let s := match (coreAt s k).twin with | some (p, _) => modCoreAt s p f | none => s
  modDieAt s (dieOf k) (fun d => { d with faults := d.faults.map (fun r => { r with jobs := r.jobs.filter (fun x => x != (k, slot)) }) })

/-- The first waiting write of a home is never performed, and its line is poisoned (R34, R404): an answer would be a poisoned value.  No
status says so for a byte of a copy job, which counts as written, nor for the store of its completion, after which the job is DONE; a
ring's PROD passes a record so lost (log 109). -/
def dropWrite (s : State) (line : Nat) : State :=
  match (homeAt s line).waiting with
  | [] => s
  | w :: rest =>
    let s := modHomeAt s line (fun y => { y with waiting := rest, crc := 0 })
    let s := poisonLine s { unit := 8, key := 0, addr := line }
    match w.src with
    | .core k =>
      (match (coreAt s k).cq with
       | e :: _ => finishEntry s k e (if e.act.waits then .poisoned 8 (line * 64) else .ok 0)
       | [] => s)
    | .forward h => modHerdAt s h (fun x => { x with forwards := popForward w.place x.forwards })
    | .stv k slot => endJob s k slot 0
    | .ring n => ringRelease (ringAt s n).held.length (if (ringAt s n).writing then ringAdvance s n else s) n
    | _ => s

/-- The first waiting write of a home performs (R116), if the lease horizon allows; one that has failed its CRC four times never does
(R34). -/
def performHome (s : State) (line : Nat) : Option State :=
  match (homeAt s line).waiting with
  | [] => none
  | w :: rest =>
    if 3 < (homeAt s line).crc then some (dropWrite s line)
    else if !homeOpen s line then none
    else
      let s := modHomeAt s line (fun y => { y with waiting := rest, crc := 0 })
      match w.src with
      | .core k =>
        (match (coreAt s k).cq with
         | [] => some s
         | e :: _ =>
           if cellRefused s k e then some (refuseCell s k e)
           else
           let (s', d) := performAt s k w.place w.act
           let keeps : Bool := match e.act with | .store _ => e.pol == .swm || e.pol == .herd | _ => false
           some (finishEntry (if keeps then updateCopy s' (herdOf k) e else s') k e d))
      | .forward h =>
        let s := (performAt s (herdCore h 0) w.place w.act).1
        some (modHerdAt s h (fun x => { x with forwards := popForward w.place x.forwards }))
      | .stv k slot => some (endJob (performAt s 0 w.place w.act).1 k slot 0)
      | .ring n =>
        let s := (performAt s 0 w.place w.act).1
        let s := if (ringAt s n).writing then ringAdvance s n else s
        some (ringRelease (ringAt s n).held.length s n)
      | _ =>
        let s := (performAt s 0 w.place w.act).1
        let s := if w.whole then cleanPlace s { w.place with addr := line * 64 } 64 else s
        some (if w.poisoned then poisonPlace s w.place w.act.size 5 else s)

/-- A write of an engine or of an agent outside the compute dies, poisoned or not, arrives at its home (R111, R116); it performs at once
where nothing holds it up.  `whole`: with it, its writer has written the line whole (R404). -/
def arriveWrite (s : State) (src : WriteSrc) (pl : Place) (a : Action) (poisoned whole : Bool) : State :=
  let line := lineOf pl.addr
  let s' := modHomeAt s line (fun y =>
    { y with waiting := y.waiting ++ [{ src := src, place := pl, act := a, poisoned := poisoned, whole := whole }] })
  if (homeAt s line).waiting.isEmpty then (performHome s' line).getD s' else s'

/-- Every core that stalls looks again. -/
def wake (s : State) (k : Nat) : State := modCoreAt s k (fun c => { c with stalled := false })

end Sys2Proof.Machine
end

