-- ==== Sys2Proof/Machine/Access.lean ====
section
/-!
DEFINITION. How the instructions of a core reach memory: forwarding (R109), the load path (R120, R223), the local write window and its
marks (R332, R334), the region buffer and the commit queue (R119, R122), and waiting for an answer.
-/

namespace Sys2Proof.Machine

/-! ### Forwarding (R109) -/

/-- The youngest earlier store of the core to a byte that is still in its region buffer or commit queue. -/
def forwardByte (es : List Entry) (p : Place) (i : Nat) : Option Byte :=
  match es with
  | [] => none
  | e :: rest =>
    match forwardByte rest p i with
    | some b => some b
    | none =>
      if e.place.space == p.space && e.place.key == p.key && e.place.addr ≤ p.addr + i then
        SMap.get? e.act.bytes (p.addr + i - e.place.addr)
      else none

/-- The bytes that a load takes by forwarding, by offset. -/
def forwarded (c : Core) (p : Place) (n : Nat) : SMap Byte :=
  (List.range n).filterMap (fun i => (forwardByte (c.cq ++ c.rbuf) p i).map (fun b => (i, b)))

/-! ### Results of loads -/

/-- A tile row with n bytes of a number written from a byte offset. -/
def rowPut (r : Row) (off n v : Nat) : Row :=
  (r &&& ~~~(BitVec.ofNat 1024 (2 ^ (8 * n) - 1) <<< (8 * off))) ||| (BitVec.ofNat 1024 (v % 2 ^ (8 * n)) <<< (8 * off))

/-- The n bytes of a tile row from a byte offset. -/
def rowGet (r : Row) (off n : Nat) : Nat := r.toNat / 2 ^ (8 * off) % 2 ^ (8 * n)

/-- A tile row of a core. -/
def Core.row (c : Core) (t r : Nat) : Row := vget (vget c.tiles (Vector.replicate 8 0) t) 0 r

/-- The core with a tile row replaced (its poison cleared, R404). -/
def Core.setRow (c : Core) (t r : Nat) (v : Row) : Core :=
  { c with tiles := vset c.tiles t (vset (vget c.tiles (Vector.replicate 8 0) t) r v), poison := c.poison.erase (0, 64 + 8 * t + r) }

/-- A load's value, as its register takes it (R222). -/
def loadWord (size : Nat) (signed : Bool) (v : Nat) : Word := if signed then sext (8 * size) (word v) else word (v % 2 ^ (8 * size))

/-- The core with the value of a load in its destination (R222, R249). -/
def LoadDst.write (d : LoadDst) (c : Core) (v : Nat) : Core :=
  match d with
  | .reg d size signed => c.put d (loadWord size signed v)
  | .pair d => if d = 0 then c else (c.put d (word v)).put (d + 1) (word (v / 2 ^ 64))
  | .tile t row off size keep => c.setRow t row (rowPut (c.row t row) off size (v % 2 ^ keep))

/-- A load's destination can take its value (R195, R334). -/
def LoadDst.free (d : LoadDst) : Act Unit :=
  match d with
  | .reg d _ _ => canWrite d
  | .pair d => do
    if d != 0 then
      canWrite d
      canWrite (d + 1)
  | .tile _ _ _ _ _ => pure ()

/-! ### Acquires (R121) -/

/-- An earlier acquire of the core has not performed: an acquire load, or a result-less acquire atomic that has left its region. -/
def Core.acquirePending (c : Core) : Bool :=
  c.loads.any (fun l => l.acquire) || c.cq.any (fun e => e.acquire) || c.rbuf.any (fun e => e.committed && e.acquire)

/-- A later access waits for it. -/
def afterAcquire : Act Unit := do waitUntil !(← getC).acquirePending

/-- The core's commit queue and its committed entries have drained. -/
def Core.drained (c : Core) : Bool := c.cq.isEmpty && c.rbuf.all (fun e => !e.committed)

/-! ### The local write window (R122, R332, R334) -/

/-- The space of a window. -/
def Window.space (w : Window) : Space := if w.buf = 0 then .bufA else .bufC

/-- A place of core k lies in the window of its region. -/
def inWindow (r : Region) (k : Nat) (p : Place) : Bool :=
  p.space == r.window.space && p.key == k && r.window.base ≤ p.addr && p.addr < r.window.base + r.window.len

/-- TVAL of a region-legality trap (R346): the block's pointer for a window, else kind and number. -/
def legalityVal (kind num : Nat) : Word := word (kind * 16 + num)

/-- A read of n bytes inside the window touches only marked blocks (R334). -/
def windowRead (p : Place) (n : Nat) (ea : Word) : Act Unit := do
  let s ← get
  match s.core.region with
  | none => pure ()
  | some r =>
    if n = 0 then pure ()
    else
      match (List.range ((p.addr + (n - 1)) / 64 + 1 - p.addr / 64)).find? (fun i =>
        let b := (p.addr / 64 + i) * 64
        inWindow r s.cur { p with addr := b } && SMap.getD r.marks 0 b != BitVec.allOnes 64) with
      | some i => trap 25 (word ((ea.toNat / 64 + i) * 64))
      | none => pure ()

/-- Marks n bytes of the window as written (R334). -/
def Region.mark (r : Region) (off n : Nat) : Region :=
  { r with marks := (List.range n).foldl (fun m i =>
      let b := (off + i) / 64 * 64
      SMap.set m b (SMap.getD m 0 b ||| (1#64 <<< ((off + i) % 64)))) r.marks }

/-! ### The region buffer and the commit queue (R122) -/

/-- TVAL of region overflow (R346). -/
def overflowVal (slots : Bool) (held : Nat) : Word := word ((if slots then 256 else 0) + held)

/-- An entry merges into the youngest entry: both stores in one aligned block of one space, with one ORD, SCOPE and policy, the older
one still uncommitted (R122). -/
def merges (old new : Entry) : Bool :=
  !old.committed && old.place.space == new.place.space && old.place.key == new.place.key
    && old.place.addr / 64 == new.place.addr / 64 && old.ord == new.ord && old.scope == new.scope && old.pol == new.pol
    && (match old.act, new.act with | .store _, .store _ => true | _, _ => false)

/-- Two stores of one block as one entry, the newer bytes before the older: it waits for all that the newer store waits for (R121). -/
def mergeEntry (old new : Entry) : Entry :=
  let b := old.place.addr / 64 * 64
  let m := old.act.bytes.foldl (fun (m : SMap Byte) x => SMap.set m (old.place.addr - b + x.1) x.2) []
  { old with place := { old.place with addr := b }, pair := old.pair || new.pair, stamp := new.stamp, cell := old.cell || new.cell
             act := .store (new.act.bytes.foldl (fun m x => SMap.set m (new.place.addr - b + x.1) x.2) m) }

/-- The next stamp of program order. -/
def nextStamp : Act Nat := do
  let n := (← getC).stamp
  modC (fun c => { c with stamp := c.stamp + 1 })
  return n

/-- An address of the running core lies in an arena of its address space (R68). -/
def inArena (s : State) (ea : Word) : Bool :=
  match decodePtr s s.cur ea, s.core.team.bind (teamAt s) with
  | some (.mem _ va), some t => s.sheets.any (fun p => p.2.asid == t.asid && p.2.base ≤ va && va < p.2.base + p.2.size)
  | _, _ => false

/-- The entry of an access of the running core; that of an instruction which the pair issues once needs no comparison (R414). -/
def mkEntry (a : Action) (pl : Place × Policy) (ea : Word) (ord scope : Nat) : Act Entry := do
  let n ← nextStamp
  return { act := a, place := pl.1, ea := ea, pol := pl.2, ord := ord, scope := scope, stamp := n, committed := false
           sent := false, checked := (← getC).twinOk, user := !(← getC).supervisor
           cell := pl.1.space == .mem && inArena (← get) ea }

/-- The entries of the region buffer in use. -/
def Core.held (c : Core) : Nat := c.rbuf.foldl (fun n e => n + e.slots) 0

/-- RegionBuffer.Append (R122): region overflow where the buffer is full. -/
def appendHeld (e : Entry) : Act Unit := do
  let c ← getC
  match c.rbuf.getLast? with
  | some y =>
    if merges y e then modC (fun c => { c with rbuf := c.rbuf.dropLast ++ [mergeEntry y e] })
    else if c.held + e.slots ≤ 64 then modC (fun c => { c with rbuf := c.rbuf ++ [e] })
    else trap 24 (overflowVal false c.held)
  | none => modC (fun c => { c with rbuf := c.rbuf ++ [e] })

/-- CommitQueue.Append: waits while the queue is full or committed entries still stand before it (R123, R223). -/
def appendQueue (e : Entry) : Act Unit := do
  let c ← getC
  waitUntil (c.rbuf.isEmpty && c.cq.length < 16)
  modC (fun c => { c with cq := c.cq ++ [{ e with committed := true }] })

/-- A held access or command goes to the region buffer in a region, to the commit queue outside one. -/
def appendEntry (e : Entry) : Act Unit := do
  if (← getC).region.isSome then appendHeld e else appendQueue e

/-- A store (R223): into the window at once; held in a region; else to the commit queue.  `pair`: it performs with the next one. -/
def storeTo (pl : Place × Policy) (ea : Word) (ord scope : Nat) (bs : SMap Byte) (pair : Bool := false) : Act Unit := do
  let s ← get
  let e := { ← mkEntry (.store bs) pl ea ord scope with pair := pair }
  match s.core.region with
  | some r =>
    if inWindow r s.cur pl.1 then
      afterAcquire
      waitUntil ((s.core.cq ++ s.core.rbuf).all (fun x => !overlaps x.place x.act.size pl.1 e.act.size))
      modify (fun s => (performAt s s.cur pl.1 (.store bs)).1)
      modC (fun c => { c with region := c.region.map (fun r => r.mark pl.1.addr e.act.size) })
    else appendHeld e
  | none => appendQueue e

/-! ### The load path (R223) -/

/-- The value of a load at once: its destination takes it. -/
def takeValue (dst : LoadDst) (v : Nat) : Act Unit := modC (fun c => dst.write c v)

/-- The load reads a poisoned granule that it does not take by forwarding (R405). -/
def consumes (s : State) (p : Place) (n : Nat) (fwd : SMap Byte) : Act Unit :=
  if fwd.length < n then
    match poisonAt s p n with
    | some (u, a) => throw (.consume u a)
    | none => pure ()
  else pure ()

/-- A load joins the load path, to perform at its home. -/
def deferLoad (dst : LoadDst) (pl : Place × Policy) (ea : Word) (size : Nat) (acq : Bool) (scope : Nat) (fwd : SMap Byte) : Act Unit := do
  let n ← nextStamp
  modC (fun c => { c with loads := c.loads ++ [{ dst := dst, place := pl.1, size := size, ea := ea, pol := pl.2, acquire := acq
                                                 scope := scope, stamp := n, fwd := fwd, remote := false, crc := 0 }] })


/-- The load takes the home's value whatever the herd holds: an acquire at DIE or above under SWM or HERD (R113), and a line of a
commutative range (R238). -/
def homeOnly (s : State) (pl : Place × Policy) (acq : Bool) (scope : Nat) : Bool :=
  (acq && 2 ≤ scope && (pl.2 == .swm || pl.2 == .herd)) || (rangeOf s pl.1.addr).isSome

/-- A load of space 0 or of the core's own buffers after its checks (R112, R113, R223): performs at execute from the buffer, by
forwarding or by a hit; otherwise it joins the load path and its register is written later. -/
def loadFrom (dst : LoadDst) (pl : Place × Policy) (ea : Word) (size : Nat) (acq : Bool) (scope : Nat) : Act Unit := do
  afterAcquire
  dst.free
  windowRead pl.1 size ea
  let s ← get
  let c := s.core
  let fwd := forwarded c pl.1 size
  let older := c.loads.any (fun l => overlaps l.place l.size pl.1 size)
  match pl.1.space with
  | .mem =>
    if older then deferLoad dst pl ea size acq scope fwd
    else if fwd.length = size then takeValue dst (fwdNat s pl.1 fwd size)
    else if homeOnly s pl acq scope then deferLoad dst pl ea size acq scope fwd
    else
      let h := herdOf s.cur
      let line := lineOf pl.1.addr
      match herdHit s h line pl.2 with
      | some l =>
        if s.poison.any (fun m => m.unit == 4 && m.key == h && m.addr == line) then throw (.consume 4 (line * 64))
        if pl.2 == .swm then modify (fun s => setHLine s h line { l with expiry := none })
        takeValue dst (leNat (fun i => (SMap.get? fwd i).getD (l.byte (pl.1.addr % 64 + i))) size)
      | none =>
        if pl.2 != .swm then modify (fun s => dropSwm s h line)
        deferLoad dst pl ea size acq scope fwd
  | _ =>
    consumes s pl.1 size fwd
    takeValue dst (fwdNat s pl.1 fwd size)

/-- The value that a core's buffer or memory holds as a load of the core reads it now, by forwarding before the place (used by reads
that complete at execute). -/
def readNow (pl : Place) (size : Nat) : Act Nat := do
  let s ← get
  let fwd := forwarded s.core pl size
  consumes s pl size fwd
  return fwdNat s pl fwd size

/-- A load entry performs with a value: it leaves the load path and its destination takes the value. -/
def finishLoad (s : State) (k : Nat) (l : LoadEntry) (v : Nat) : State :=
  modCoreAt s k (fun c => l.dst.write { c with loads := c.loads.filter (fun x => x.stamp != l.stamp), stalled := false } v)

/-- A load entry leaves the load path without performing. -/
def dropLoad (s : State) (k : Nat) (l : LoadEntry) : State :=
  modCoreAt s k (fun c => { c with loads := c.loads.filter (fun x => x.stamp != l.stamp), stalled := false })

/-- A load of core k performs at its home, if it can (R108, R113, R114, R120, R127): earlier loads of the same bytes first, an SWM
copy of the herd leaves first, and the core's own HERD stores to the bytes reach the home first (log 11). -/
def loadHome (s : State) (k idx : Nat) : Option State :=
  match (coreAt s k).loads[idx]? with
  | none => none
  | some l =>
    let h := herdOf k
    let line := lineOf l.place.addr
    if l.remote || (coreAt s k).loads.any (fun x => x.stamp < l.stamp && overlaps x.place x.size l.place l.size) then none
    else if l.pol != .swm && swmCopy s h line then some (dropSwm s h line)
    else if writingBack s h line then none
    else if (herdAt s h).forwards.any (fun f => f.core == k && overlaps f.place 64 l.place l.size) then none
    else
      let only := homeOnly s (l.place, l.pol) l.acquire l.scope
      match (if only then none else herdHit s h line l.pol) with
      | some c =>
        if l.fwd.length < l.size && s.poison.any (fun m => m.unit == 4 && m.key == h && m.addr == line) then
          some (consumeAt (dropLoad s k l) k 4 (line * 64))
        else
          let s := if l.pol == .swm then setHLine s h line { c with expiry := none } else s
          some (finishLoad s k l (leNat (fun i => (SMap.get? l.fwd i).getD (c.byte (l.place.addr % 64 + i))) l.size))
      | none =>
        let s := combineLine s line
        match (if l.fwd.length < l.size then poisonAt s l.place l.size else none) with
        | some (u, a) => some (consumeAt (dropLoad s k l) k u a)
        | none =>
          let v := fwdNat s l.place l.fwd l.size
          some (finishLoad (if only then s else homeGrant s h line l.pol) k l v)

/-! ### Loads that an instruction waits for -/

/-- A load of spaces 0 to 2 that performs at once, for an instruction that uses the value itself (R112, R113, R223); `s0` is the state
in which the instruction began, in which it waits after an SWM copy of the herd has left. -/
def readPlain (s0 : State) (pl : Place × Policy) (ea : Word) (size : Nat) : Act Nat := do
  afterAcquire
  windowRead pl.1 size ea
  let s ← get
  let c := s.core
  let fwd := forwarded c pl.1 size
  waitUntil (c.loads.all (fun l => !overlaps l.place l.size pl.1 size))
  match pl.1.space with
  | .mem =>
    let h := herdOf s.cur
    let line := lineOf pl.1.addr
    match (if (rangeOf s pl.1.addr).isSome then none else herdHit s h line pl.2) with
    | some l =>
      if fwd.length < size && s.poison.any (fun m => m.unit == 4 && m.key == h && m.addr == line) then throw (.consume 4 (line * 64))
      if pl.2 == .swm then modify (fun s => setHLine s h line { l with expiry := none })
      return leNat (fun i => (SMap.get? fwd i).getD (l.byte (pl.1.addr % 64 + i))) size
    | none =>
      if pl.2 != .swm && swmCopy s h line then throw (.block (dropSwm s0 h line))
      waitUntil (!writingBack s h line && (herdAt s h).forwards.all (fun f => !(f.core == s.cur && overlaps f.place 64 pl.1 size)))
      modify (fun s => combineLine s line)
      let s ← get
      consumes s pl.1 size fwd
      modify (fun s => homeGrant s h line pl.2)
      return fwdNat s pl.1 fwd size
  | _ =>
    consumes s pl.1 size fwd
    return fwdNat s pl.1 fwd size

/-- A load of the place leaves core k: it goes to a target of space 3 or 4 or to another core's bank. -/
def Place.away (p : Place) (k : Nat) : Bool := p.extern || (p.space != .mem && p.key != k)

/-- The loads that the waiting instruction of a core has sent. -/
def Core.awayLoads (c : Core) : List LoadEntry := c.loads.filter (fun l => l.remote)
/-- The waiting instruction of a core has sent loads. -/
def Core.remoteLoad (c : Core) : Bool := c.loads.any (fun l => l.remote)

/-- The load entry of an element that is sent, with the bytes that it takes by forwarding (R109). -/
def awayEntry (c : Core) (x : Word × Nat × (Place × Policy)) (scope : Nat) : LoadEntry :=
  { dst := .pair 0, place := x.2.2.1, size := x.2.1, ea := x.1, pol := .direct, acquire := false, scope := scope, stamp := c.stamp
    fwd := if x.2.2.1.extern then [] else forwarded c x.2.2.1 x.2.1, remote := true, crc := 0 }

/-- The outstanding transaction of a load of space 3 or 4. -/
def LoadEntry.transaction (l : LoadEntry) (user : Bool) : Entry :=
  { act := .store [], place := l.place, ea := l.ea, pol := .direct, ord := 0, scope := l.scope, stamp := l.stamp, committed := true
    sent := true, checked := false, user := user }

/-- A load of the running core is sent: to its target as a transaction, to another core's bank as a message, unless it takes every byte by
forwarding (R109, R112, R419). -/
def sendOne (s : State) (x : Word × Nat × (Place × Policy)) (scope : Nat) : State :=
  let l := awayEntry s.core x scope
  let s := modCoreAt s s.cur (fun c => { c with
    loads := c.loads ++ [l], stamp := c.stamp + 1
    extern := if l.place.extern then c.extern ++ [(false, l.transaction (!c.supervisor))] else c.extern })
  if l.place.extern || l.fwd.length = l.size then s
  else { s with net := s.net ++ [{ src := s.cur, dst := l.place.key, off := l.place.addr, ea := l.ea, kind := .load l.stamp }] }

/-- The state in which the loads of an instruction are on their way, and the instruction waits for the answers (R112, R221). -/
def sendAway (s : State) (els : List (Word × Nat × (Place × Policy))) (scope : Nat) : State :=
  let s := els.foldl (fun s x => sendOne s x scope) s
  modCoreAt s s.cur (fun c => { c with wait := some .reply })

/-- The answers to the loads that the instruction has sent, once all have come; or the trap of one that is refused (R221, R419). -/
def awayAnswers (s0 : State) : Act (List Nat) := do
  match s0.core.reply with
  | some (.trap c v) => trap c v
  | _ =>
    let mine := s0.core.awayLoads
    waitUntil (mine.all (fun l => l.fwd.length == l.size))
    modC Core.dropAway
    return mine.map (fun l => leNat (fun i => SMap.getD l.fwd 0 i) l.size)

/-- The values of the loads of an instruction that leave its core: it sends them together, in order, and waits for them (R112, R419). -/
def awayValues (s0 : State) (els : List (Word × Nat × (Place × Policy))) (scope : Nat) : Act (List Nat) := do
  if els.isEmpty then return []
  if s0.core.wait = some .reply then awayAnswers s0
  else
    afterAcquire
    throw (.block (sendAway s0 els scope))

/-- Gives the elements that leave core k their answers, in order, and reads the others. -/
def readEach (s0 : State) : List (Word × Nat × (Place × Policy)) → List Nat → Act (List Nat)
  | [], _ => return []
  | x :: rest, vs =>
    if x.2.2.1.away s0.cur then do
      let more ← readEach s0 rest (vs.drop 1)
      return vs.headD 0 :: more
    else do
      let v ← readPlain s0 x.2.2 x.1 x.2.1
      let more ← readEach s0 rest vs
      return v :: more

/-- The values of a list of plain loads, checked already, in order. -/
def gather (s0 : State) (els : List (Word × Nat × (Place × Policy))) : Act (List Nat) := do
  let vs ← awayValues s0 (els.filter (fun x => x.2.2.1.away s0.cur)) 0
  readEach s0 els vs

/-! ### Several stores of one instruction -/

/-- A store of an instruction that makes several. -/
structure Block where
  pl : Place × Policy
  ea : Word
  bytes : SMap Byte
  /-- It performs together with the next one (R251). -/
  pair : Bool
  deriving DecidableEq, Repr

/-- The entries of the stores of an instruction. -/
def mkEntries : List Block → Act (List Entry)
  | [] => return []
  | b :: rest => do
    let e ← mkEntry (.store b.bytes) b.pl b.ea 0 0
    let more ← mkEntries rest
    return { e with committed := true, pair := b.pair } :: more

/-- The stores of an instruction, where the two halves of a row of which one alone lies in the window perform apart (R122, R332). -/
def unpair (inside : Place → Bool) : List Block → List Block
  | b :: c :: rest => { b with pair := b.pair && inside b.pl.1 == inside c.pl.1 } :: unpair inside (c :: rest)
  | l => l

/-- How many of the first entries enter a queue with room for n: a pair enters whole. -/
def fitEntries : Nat → List Entry → Nat
  | 0, _ => 0
  | _, [] => 0
  | n + 1, e :: rest => if e.pair && n = 0 then 0 else fitEntries n rest + 1

/-- Stores of the issuing instruction enter the commit queue while it has room (R106, R250). -/
def Core.moveIssuing (c : Core) : Core :=
  let n := fitEntries (16 - c.cq.length) c.issuing
  { c with cq := c.cq ++ c.issuing.take n, issuing := c.issuing.drop n }

/-- The stores of an instruction that makes several, in order (R250, R277, R281): in a region each is held or goes to the window; else
they enter the commit queue as it has room for them, and the instruction waits until all have (R106; log 18). -/
def storeMany (blocks : List Block) : Act Unit := do
  let c ← getC
  let me := (← get).cur
  match c.region with
  | some r => (unpair (fun p => inWindow r me p) blocks).forM (fun b => storeTo b.pl b.ea 0 0 b.bytes b.pair)
  | none =>
    waitUntil (blocks.isEmpty || c.rbuf.isEmpty)
    let es ← mkEntries blocks
    modC (fun c => ({ c with issuing := es }).moveIssuing)
    if !(← getC).issuing.isEmpty then
      modC (fun c => { c with wait := some .stores })
      blockHere

/-- The form of an instruction that makes several stores: once they have begun to enter the commit queue it only waits until all have. -/
def withStores (act : Act Unit) : Act Unit := do
  if (← getC).wait = some .stores then
    waitUntil (← getC).issuing.isEmpty
    retire 4
  else act

/-! ### Waiting for an answer -/

/-- An instruction that sends something and waits for the answer: it reads its operands and sends, and waits; when the answer has
come it reads them again (so that queue registers pop once, R195) and finishes; a trap in the answer is precise (R221). -/
def withReply {α : Type} (w : Wait) (reads : Act α) (send : α → Act (State → State)) (fin : α → Word → Word → Act Unit) :
    Act Unit := do
  let s0 ← get
  match s0.core.reply with
  | some (.value u v) => do fin (← reads) u v
  | some (.trap c v) => trap c v
  | none =>
    if s0.core.wait = some w then waitHere
    else
      let x ← reads
      let f ← send x
      let s1 := f s0
      throw (.block (modCoreAt s1 s1.cur (fun c => { c with wait := some w })))

/-! ### The commit of a region, and terminating instructions (R335, R336, R413) -/

/-- A place lies in a typed buffer of a core. -/
def Place.inBank (p : Place) : Bool := p.space == .bufW || p.space == .bufA || p.space == .bufC

/-- The core of a place as the comparator of a pair sees it: each twin's own bank is the pair's, which the primary's key names. -/
def Place.pairKey (p : Place) (k primary : Nat) : Nat := if p.inBank && p.key == k then primary else p.key

/-- A held entry of core k as the comparator sees it (R413): space, core, address, size, ORD, SCOPE, policy and data, and for a command its
encoding and its operand values; `primary` is the primary of its pair.  The address of another core's bank is the pointer as the twin
gives it, so that a relative one is the same for both twins and an absolute one that a twin has made of its own CORELOC is not. -/
def presentEntry (k primary : Nat) (e : Entry) : List Word :=
  let sp (x : Space) : Nat := match x with | .mem => 0 | .bufW => 1 | .bufA => 2 | .bufC => 3 | .peer => 4 | .host => 5
  let po (x : Policy) : Nat := match x with | .leased => 0 | .direct => 1 | .stream => 2 | .swm => 3 | .herd => 4
  let am (x : AmoOp) : Nat := match x with
    | .add => 0 | .and => 1 | .or => 2 | .xor => 3 | .min => 4 | .max => 5 | .minu => 6 | .maxu => 7 | .swap => 8 | .cas => 9
  let rd (x : RedOp) : Nat := match x with | .add => 10 | .min => 11 | .max => 12 | .fadd => 13
  let data : List Word := match e.act with
    | .store bs => bs.flatMap (fun b => [word b.1, word b.2.toNat])
    | .amo op w v x _ => [word (am op), boolWord w, v, x]
    | .red op w v c => [word (rd op), boolWord w, v, word c]
    | .put v => [20, v]
    | .feinit v f => [21, v, boolWord f]
    | .barrier f v _ => [23, word f, v]
    | .rflush va n => [word e.enc, va, word n]
    | .copyIssue n ops => word e.enc :: word n :: ops
    | .spub n rows => word e.enc :: word n :: rows.flatMap (fun r => (List.range 16).map (fun i => word (r.toNat / 2 ^ (64 * i))))
    | .hadv _ _ n => [word e.enc, word n]
    | .cwpub v _ => [word e.enc, v]
    | .cappend v _ => [word e.enc, v]
    | .sxapp x y => [word e.enc, x, y]
    | .evpost x y => [word e.enc, x, y]
    | .spawn x y => [word e.enc, x, y]
    | .copyRead n i => [32, word n, word i]
    | .copyWrite n i => [33, word n, word i]
  [word (sp e.place.space), word (e.place.pairKey k primary), word e.place.addr,
   if e.place.inBank && e.place.pairKey k primary != primary then e.ea else 0, word e.act.size, word e.ord, word e.scope, word (po e.pol)] ++ data

/-- One bit into a CRC-64 with the ECMA-182 polynomial, most significant bit first. -/
def crcBit (h : Word) (b : Bool) : Word := if h.getLsbD 63 != b then (h <<< 1) ^^^ 0x42F0E1EBA9EA3693 else h <<< 1

/-- A doubleword into the CRC, from its bit 63 down. -/
def crcWord (h w : Word) : Word := (List.range 64).foldl (fun h i => crcBit h (w.getLsbD (63 - i))) h

/-- The CRC-64 of doublewords, from 0 (R413; log 14). -/
def crc64 (ws : List Word) : Word := ws.foldl crcWord 0

/-- The hash of the commit set of a core (R413). -/
def commitHash (k primary : Nat) (c : Core) : Word := crc64 ((c.rbuf.filter (fun e => !e.committed)).flatMap (presentEntry k primary))

/-- An entry that each twin of a pair performs in its own bank (R413, R414); the full/empty and barrier operations on the own bank are
the primary's, and reach both banks.  A twin's entry that names its primary's bank, where the primary's own entry names the same, is
the pair's too. -/
def Entry.ownBank (primary : Nat) (k : Nat) (e : Entry) : Bool :=
  e.place.pairKey k primary == primary && (e.place.space == .bufA || e.place.space == .bufC)
    && (match e.act with | .store _ => true | .amo _ _ _ _ _ => true | .red _ _ _ _ => true | _ => false)

/-- An entry of the pair's bank as a twin performs it in its own. -/
def Entry.toBank (k : Nat) (e : Entry) : Entry := { e with place := { e.place with key := k } }

/-- The twin's share of a matching commit: the entries of its own bank, and its handle advances (R413). -/
def Core.commitTwin (k primary : Nat) (c : Core) : Core :=
  Core.commit { c with rbuf := (c.rbuf.filter (fun (e : Entry) =>
    e.committed || e.ownBank primary k || (match e.act with | .hadv _ _ _ => true | _ => false))).map (fun e =>
      if !e.committed && e.ownBank primary k then e.toBank k else e) }

/-- A twin that stands at a comparison waits for its partner (R413, R414): once both stand there both go on, or, where they differ,
what a mismatch does happens. -/
def twinMeet (s : State) (p : Nat) (mine : Word × List Word) (differ : State → State) : Host.Outcome State Fault Refusal :=
  match (coreAt s p).twinAt with
  | none => .next (modCoreAt s s.cur (fun c => { c with stalled := true }))
  | some m =>
    if m = mine then
      .next (modCoreAt (modCoreAt s s.cur (fun c => { c with twinOk := true, stalled := false })) p
        (fun c => { c with twinOk := true, stalled := false }))
    else .next (differ s)

/-- The region of the core commits (R123, R336), and the step goes on: in a twin team once the commit sets of both twins are there
and agree; where they differ both discard, counted (R413). -/
def commitThen (s : State) (go : State → Host.Outcome State Fault Refusal) : Host.Outcome State Fault Refusal :=
  let c := s.core
  match c.region, c.twin with
  | none, _ => go s
  | some _, none => go (modCoreAt s s.cur (fun c => c.commit))
  | some _, some (p, primary) =>
    let mine : Word × List Word := (0, [commitHash s.cur (if primary then s.cur else p) c])
    let s1 := modCoreAt s s.cur (fun c => { c with twinAt := some mine })
    if c.twinOk then
      go (modCoreAt s1 s.cur (fun c => { (if primary then c.commit else c.commitTwin s.cur p) with twinAt := none, twinOk := false }))
    else twinMeet s1 p mine (fun s => discardCounted (discardCounted s s.cur 33 c.rgncnt) p 33 (coreAt s p).rgncnt)

/-- A terminating instruction (R335): the region commits first, whatever the instruction then does, and a new one with its window is
pending. -/
def runTerm (act : Act Unit) (s : State) : Host.Outcome State Fault Refusal :=
  match s.core.region with
  | none => runInstr act s
  | some r => commitThen s (fun s =>
      runInstr act (modCoreAt s s.cur (fun c => { c with pendingRegion := some r.window, terminating := true })))

/-! ### Regions begin (R333, R335) -/

/-- The core with a region open: the checkpoint is taken now, with the pc as the entry address; `implicit` by R335. -/
def Core.openRegion (c : Core) (w : Window) (implicit : Bool) : Core :=
  { c with pendingRegion := none
           region := some { entry := c.pc, implicit := implicit, window := w, regs := c.regs, ext := c.ext, qcfg := c.qcfg, queues := c.queues
                            handles := c.handles, seq := c.jobSeq, rbwTile := 0, wrTile := 0, rbwAcc := 0, wrAcc := 0, rbwMac := 0
                            marks := [], poison := c.poison.filter checkpointMark, produced := Vector.replicate 8 0, consumed := Vector.replicate 8 0 } }

/-! ### Twins (R412, R414) -/

/-- The values of the operand registers of an instruction, in the order of their reads: a queue register gives its oldest entry, and the
next one at its next read (R195). -/
def Core.operandsOf (c : Core) : List Nat → List Word
  | [] => []
  | r :: rest =>
    if c.depth r = 0 then (if r = 0 then 0 else vget c.regs 0 r) :: c.operandsOf rest
    else ((vget c.queues [] (r - 12)).head?).getD 0
      :: ({ c with queues := vset c.queues (r - 12) ((vget c.queues [] (r - 12)).drop 1) } : Core).operandsOf rest

/-- What a twin presents for an instruction that the pair compares (R414): the encoding without its registers, the values of its operand
registers, and the operands that lie in no scalar register. -/
def operandSet (i : Instr) (c : Core) (reads : List Nat) (more : List Word) : Word × List Word := (word (encode i), c.operandsOf reads ++ more)

/-- The registers of a pair operand: none of the zero pair's (R170). -/
def pairRegs (r : Nat) : List Nat := if r = 0 then [] else [r, r + 1]

/-- The operands of twins differ: both take cause 33 precisely (R414). -/
def twinDiffer (s : State) : State :=
  match s.core.twin with
  | none => s
  | some (p, _) => takeTrap (takeTrap s s.cur 33 0 false s.core.pc) p 33 0 false (coreAt s p).pc

/-- A twin that comes to an instruction that the pair compares waits there for the loads of its operand registers, and then for its
partner. -/
def compareAt (s : State) (p : Nat) (reads : List Nat) (mine : Word × List Word) : Host.Outcome State Fault Refusal :=
  if reads.any s.core.pendingReg then .next (modCoreAt s s.cur (fun c => { c with stalled := true }))
  else twinMeet (modCoreAt s s.cur (fun c => { c with twinAt := some mine })) p mine twinDiffer

/-- Runs an instruction whose operands a twin pair compares outside regions and which both then run (COPY, COPYS, SPUB: the engine's
work is the primary's, R414); `i` is the instruction without its registers. -/
def runBoth (i : Instr) (reads : List Nat) (more : Core → List Word) (act : Act Unit) (s : State) : Host.Outcome State Fault Refusal :=
  let c := s.core
  match c.twin with
  | none => runInstr act s
  | some (p, _) =>
    if c.region.isSome || c.twinOk then runInstr act s
    else compareAt s p reads (operandSet i c reads (more c))

/-- Runs an instruction that a twin pair issues once (R414): outside a twin team as it is.  In one, each twin waits with its
operands until the partner's stand beside them; where they differ both take cause 33 precisely; where they agree the primary executes and
the twin then takes the primary's result registers, or its trap.  `i` is the instruction without its registers. -/
def runOnce (i : Instr) (reads : List Nat) (dst : List Nat) (act : Act Unit) (s : State) : Host.Outcome State Fault Refusal :=
  let c := s.core
  match c.twin with
  | none => runInstr act s
  | some (p, primary) =>
    let mine := operandSet i c reads []
    let s1 := modCoreAt s s.cur (fun c => { c with twinAt := some mine })
    if c.twinOk then
      if primary then
        match act s1 with
        | .error (.trap cause val) => .next (raiseTrap (replyTo s1 p (.trap cause val)) s.cur cause val)
        | _ =>
        match runInstr act s1 with
        | .next s2 =>
          let c2 := s2.core
          if c2.instret = c.instret then .next s2
          else
            let last (r : Nat) : Word := if c2.depth r = 0 then vget c2.regs 0 r else ((vget c2.queues [] (r - 12)).getLast?).getD 0
            .next (replyTo s2 p (.value ((dst.head?.map last).getD 0) ((dst[1]?.map last).getD 0)))
        | o => o
      else
        runInstr (do
          match (← getC).reply with
          | some (.value v w) =>
            let _ ← reads.mapM readReg
            (match dst with
             | [] => pure ()
             | [a] => writeReg a v
             | a :: b :: _ => do writeReg a v; writeReg b w)
            retire 4
          | some (.trap cause val) => trap cause val
          | none => waitHere) s1
    else compareAt s p reads mine

/-- A terminating instruction that a twin pair issues once. -/
def runTermOnce (i : Instr) (reads dst : List Nat) (act : Act Unit) (s : State) : Host.Outcome State Fault Refusal :=
  match s.core.region with
  | none => runOnce i reads dst act s
  | some r => commitThen s (fun s =>
      runOnce i reads dst act (modCoreAt s s.cur (fun c => { c with pendingRegion := some r.window, terminating := true })))

end Sys2Proof.Machine
end

