-- ==== Sys2Proof/Machine/Flags.lean ====
section
/-!
DEFINITION. Conditions and flags: the comparisons of branches and SLT, the rounding mode and the sticky flags of STATUS (R52, R191),
and the fields of the control registers that a write changes (R7, R189).
-/

namespace Sys2Proof.Machine

/-- The outcome of a meaning. -/
abbrev Out := Host.Outcome State Fault Refusal

/-! ### Comparisons (R196, R202) -/

/-- Signed order. -/
def ltS (x y : Word) : Bool := x.slt y
/-- Unsigned order. -/
def ltU (x y : Word) : Bool := x.ult y

/-! ### Flags of floating arithmetic (R52, R199) -/

/-- The rounding mode that an RM field names: 4 is the dynamic mode of STATUS (R49, R177). -/
def roundMode (c : Core) (rm : BitVec 3) : Nat := if rm.toNat = 4 then c.rm else rm.toNat

/-- The rounding mode of an instruction with an RM field: the dynamic one is read from STATUS, whose poison is consumed (R405; log 130). -/
def modeOf (rm : BitVec 3) : Act Nat := do
  if rm.toNat = 4 then noPoison 0 4096
  return roundMode (← getC) rm

/-- The rounding mode of STATUS for an instruction without an RM field; one that rounds reads it (R405). -/
def statusMode (rounds : Bool) : Act Nat := do
  if rounds then noPoison 0 4096
  return (← getC).rm

/-- Sets sticky flags. -/
def setFlags (f : BitVec 5) : Act Unit := modC (fun c => c.orFlags f)

/-! ### Fields of control registers (R7, R8, R189 to R193) -/

/-- A write takes effect in the bits of a mask. -/
def maskWrite (mask old new : Word) : Word := (old &&& ~~~mask) ||| (new &&& mask)

/-- The bits of STATUS that a write changes (R191): IMASK, IE, PIE, PM, RM and FLAGS; in user mode RM and FLAGS. -/
def statusMask (supervisor : Bool) : Word := if supervisor then 0xFC007F else 0x7F

/-- What a CSR write operation gives (R193): 1 CSRW, 2 CSRS, 3 CSRC. -/
def csrCombine (op : Nat) (old x : Word) : Word := if op = 1 then x else if op = 2 then old ||| x else old &&& ~~~x

/-- EVSTAT after a CSR write operation (R193): W1C; CSRC has no effect. -/
def evstatWrite (op : Nat) (old x : Word) : Word := if op = 3 then old else old &&& ~~~(x &&& 7)

/-- RGNLIM after a write: a value outside 1 to 255 is ignored (R189). -/
def rgnlimWrite (old new : Word) : Word := if 1 ≤ new.toNat ∧ new.toNat ≤ 255 then new else old

end Sys2Proof.Machine
end

