-- ==== Sys2Proof/Machine/Fetch.lean ====
section
/-!
DEFINITION. The fetch of halfwords from the instruction store (R133, R161, R214, R442).
-/

namespace Sys2Proof.Machine

/-- What a fetch of a halfword gives. -/
inductive Fetched where
  | half (h : Nat)
  | fault (cause : Nat)
  | poison (unit addr : Nat)
  /-- The fill waits for an SWM copy of the herd to reach the home (R114, R133). -/
  | later
  deriving DecidableEq, Repr

/-- The bytes of the instruction store (R21). -/
def pinnedSize : Nat := 16384

/-- The place in the image of a halfword of a pinned segment: the segments stand there one after another (R442; log 3). -/
def pinOffset : List (Nat × Nat) → Nat → Option Nat
  | [], _ => none
  | (b, l) :: rest, a => if b ≤ a ∧ a + 2 ≤ b + l then some (a - b) else (pinOffset rest a).map (fun o => o + l)

/-- The line of the instruction cache that holds an address, filled if it is absent by a DIRECT load, before which an SWM copy of the herd
leaves (R114): the oldest line leaves when all 256 are taken (R21, R133; log 12). -/
def iline (s : State) (k : Nat) (a : Nat) : (Fetched × State) ⊕ (BitVec 512 × State) :=
  let line := lineOf a
  match (coreAt s k).ilines.find? (fun p => p.1 == line) with
  | some p => .inr (p.2, s)
  | none =>
    match xlate s k a .fetch (!(coreAt s k).supervisor) with
    | (.page _, s') => .inl (.fault 12, s')
    | (.access, s') => .inl (.fault 1, s')
    | (.ok pa _, s') =>
      if swmCopy s' (herdOf k) (lineOf pa) then .inl (.later, dropSwm s' (herdOf k) (lineOf pa))
      else if writingBack s' (herdOf k) (lineOf pa) then .inl (.later, s')
      else
      let s := combineLine s' (lineOf pa)
      match poisonAt s { space := .mem, key := 0, addr := lineOf pa * 64 } 64 with
      | some (u, x) => .inl (.poison u x, s)
      | none =>
        let d := lineData s (lineOf pa)
        .inr (d, modCoreAt s k (fun c =>
          { c with ilines := (if c.ilines.length < 256 then c.ilines else c.ilines.drop 1) ++ [(line, d)] }))

/-- The halfword at an address of space 0; the address is even. -/
def fetchHalf (s : State) (k : Nat) (a : Word) : Fetched × State :=
  let c := coreAt s k
  let n := a.toNat
  if c.cacheMode then
    if 2 ^ 52 ≤ n then (.fault 1, s)
    else match iline s k n with
      | .inl r => r
      | .inr (d, s') => (.half (d.toNat / 2 ^ (8 * (n % 64)) % 2 ^ 16), s')
  else match pinOffset c.pins n with
    | some o =>
      if pinnedSize < o + 2 then (.fault 1, s)
      else if c.poison.contains (3, o / 8) then (.poison 3 0, s)
      else (.half (leNat (fun i => SMap.getD c.image 0 (o + i)) 2), s)
    | none => (.fault 1, s)

/-- Reads a halfword of the instruction stream, as forming a link does (R203); `s0` is the state in which the instruction began. -/
def fetchAct (s0 : State) (a : Word) : Act Nat := do
  let s ← get
  match fetchHalf s s.cur a with
  | (.half h, s') => set s'; return h
  | (.fault c, s') => set s'; trap c a
  | (.poison u x, _) => throw (.consume u x)
  | (.later, _) => throw (.block (fetchHalf s0 s0.cur a).2)

/-- The size in bytes of the instruction whose first halfword is given (R160). -/
def halfSize (h : Nat) : Nat := if h / 2 ^ 15 % 2 = 1 then 4 else 2

end Sys2Proof.Machine
end

