-- ==== Sys2Proof/Machine/Alu.lean ====
section
/-!
DEFINITION. The integer instructions: ALU, the immediates, bit fields, and the U-format and extension loads (R171, R172, R196 to R198).
-/

namespace Sys2Proof.Machine

/-! ### The forms -/

/-- sD := f(sA, sB). -/
def alu2 (d a : BitVec 4) (k : BitVec 1) (b : BitVec 6) (f : Word → Word → Word) : Act Unit := do
  let x ← readReg a.toNat
  let y ← operandB k b
  writeReg d.toNat (f x y)
  retire 4

/-- sD := f(sA, sB, sD). -/
def alu3 (d a : BitVec 4) (k : BitVec 1) (b : BitVec 6) (f : Word → Word → Word → Word) : Act Unit := do
  let x ← readReg a.toNat
  let y ← operandB k b
  let z ← readReg d.toNat
  writeReg d.toNat (f x y z)
  retire 4

/-- sD := f(sA), in an instruction of the given size. -/
def alu1 (d a : BitVec 4) (size : Nat) (f : Word → Word) : Act Unit := do
  let x ← readReg a.toNat
  writeReg d.toNat (f x)
  retire size

/-- sD := sD op sA, in 16 bits: the 32-bit form with sD as its A operand and sA as its B operand (R175). -/
def alu16 (d a : BitVec 4) (f : Word → Word → Word) : Act Unit := do
  let x ← readReg d.toNat
  let y ← readReg a.toNat
  writeReg d.toNat (f x y)
  retire 2

/-- sD := a value that no register gives. -/
def aluConst (d : BitVec 4) (size : Nat) (v : Word) : Act Unit := do
  writeReg d.toNat v
  retire size

/-! ### The functions (R196) -/

/-- The high half of the signed product. -/
def mulHigh (x y : Word) : Word := BitVec.ofInt 64 (x.toInt * y.toInt / 2 ^ 64)
/-- The high half of the unsigned product. -/
def mulHighU (x y : Word) : Word := word (x.toNat * y.toNat / 2 ^ 64)
/-- Signed quotient toward zero; all ones by zero. -/
def divS (x y : Word) : Word := if y = 0 then BitVec.allOnes 64 else BitVec.ofInt 64 (x.toInt.tdiv y.toInt)
/-- Unsigned quotient; all ones by zero. -/
def divU (x y : Word) : Word := if y = 0 then BitVec.allOnes 64 else word (x.toNat / y.toNat)
/-- Signed remainder; the dividend by zero. -/
def remS (x y : Word) : Word := if y = 0 then x else BitVec.ofInt 64 (x.toInt.tmod y.toInt)
/-- Unsigned remainder; the dividend by zero. -/
def remU (x y : Word) : Word := if y = 0 then x else word (x.toNat % y.toNat)
/-- The shift amount sB<5:0>. -/
def shamt (y : Word) : Nat := y.toNat % 64
/-- Shift left. -/
def shl (x y : Word) : Word := x <<< shamt y
/-- Logical shift right. -/
def shr (x y : Word) : Word := x >>> shamt y
/-- Arithmetic shift right. -/
def sha (x y : Word) : Word := x.sshiftRight (shamt y)
/-- Rotate right. -/
def rot (x y : Word) : Word := x.rotateRight (shamt y)
/-- Signed minimum. -/
def minS (x y : Word) : Word := if ltS y x then y else x
/-- Signed maximum. -/
def maxS (x y : Word) : Word := if ltS x y then y else x
/-- Unsigned minimum. -/
def minU (x y : Word) : Word := if ltU y x then y else x
/-- Unsigned maximum. -/
def maxU (x y : Word) : Word := if ltU x y then y else x
/-- Leading zeros; 64 for 0. -/
def clz (x : Word) : Word := word (64 - bitLen x.toNat)
/-- Trailing zeros among n bits of a number, n where all are zero. -/
def ctzNat : Nat → Nat → Nat
  | 0, _ => 0
  | n + 1, v => if v % 2 = 1 then 0 else ctzNat n (v / 2) + 1
/-- Trailing zeros; 64 for 0. -/
def ctz (x : Word) : Word := word (ctzNat 64 x.toNat)
/-- The ones among n bits of a number. -/
def popNat : Nat → Nat → Nat
  | 0, _ => 0
  | n + 1, v => v % 2 + popNat n (v / 2)
/-- Count of ones. -/
def popc (x : Word) : Word := word (popNat 64 x.toNat)
/-- The eight bytes in reverse order. -/
def bswap (x : Word) : Word := word ((List.range 8).foldl (fun acc i => acc * 256 + x.toNat / 256 ^ i % 256) 0)
/-- The width that SEXT and ZEXT select: 8, 16 or 32. -/
def extWidth (n : BitVec 2) : Nat := 8 * 2 ^ n.toNat
/-- A bit field, zero-extended. -/
def bfx (x : Word) (pos width : Nat) : Word := word (x.toNat / 2 ^ pos % 2 ^ width)
/-- The low bits of x inserted into a field of z. -/
def bfi (x z : Word) (pos width : Nat) : Word := setField z (pos + width - 1) pos x.toNat

/-! ### ALU (R196) -/

/-- ADD. -/
def execAdd (d a : BitVec 4) (k : BitVec 1) (b : BitVec 6) (s : State) : Out := runInstr (alu2 d a k b (fun x y => x + y)) s
/-- SUB. -/
def execSub (d a : BitVec 4) (k : BitVec 1) (b : BitVec 6) (s : State) : Out := runInstr (alu2 d a k b (fun x y => x - y)) s
/-- MUL. -/
def execMul (d a : BitVec 4) (k : BitVec 1) (b : BitVec 6) (s : State) : Out := runInstr (alu2 d a k b (fun x y => x * y)) s
/-- MULH. -/
def execMulh (d a : BitVec 4) (k : BitVec 1) (b : BitVec 6) (s : State) : Out := runInstr (alu2 d a k b mulHigh) s
/-- MULHU. -/
def execMulhu (d a : BitVec 4) (k : BitVec 1) (b : BitVec 6) (s : State) : Out := runInstr (alu2 d a k b mulHighU) s
/-- DIV. -/
def execDiv (d a : BitVec 4) (k : BitVec 1) (b : BitVec 6) (s : State) : Out := runInstr (alu2 d a k b divS) s
/-- DIVU. -/
def execDivu (d a : BitVec 4) (k : BitVec 1) (b : BitVec 6) (s : State) : Out := runInstr (alu2 d a k b divU) s
/-- REM. -/
def execRem (d a : BitVec 4) (k : BitVec 1) (b : BitVec 6) (s : State) : Out := runInstr (alu2 d a k b remS) s
/-- REMU. -/
def execRemu (d a : BitVec 4) (k : BitVec 1) (b : BitVec 6) (s : State) : Out := runInstr (alu2 d a k b remU) s
/-- AND. -/
def execAnd (d a : BitVec 4) (k : BitVec 1) (b : BitVec 6) (s : State) : Out := runInstr (alu2 d a k b (fun x y => x &&& y)) s
/-- OR. -/
def execOr (d a : BitVec 4) (k : BitVec 1) (b : BitVec 6) (s : State) : Out := runInstr (alu2 d a k b (fun x y => x ||| y)) s
/-- XOR. -/
def execXor (d a : BitVec 4) (k : BitVec 1) (b : BitVec 6) (s : State) : Out := runInstr (alu2 d a k b (fun x y => x ^^^ y)) s
/-- SHL. -/
def execShl (d a : BitVec 4) (k : BitVec 1) (b : BitVec 6) (s : State) : Out := runInstr (alu2 d a k b shl) s
/-- SHR. -/
def execShr (d a : BitVec 4) (k : BitVec 1) (b : BitVec 6) (s : State) : Out := runInstr (alu2 d a k b shr) s
/-- SHA. -/
def execSha (d a : BitVec 4) (k : BitVec 1) (b : BitVec 6) (s : State) : Out := runInstr (alu2 d a k b sha) s
/-- ROT. -/
def execRot (d a : BitVec 4) (k : BitVec 1) (b : BitVec 6) (s : State) : Out := runInstr (alu2 d a k b rot) s
/-- MIN. -/
def execMin (d a : BitVec 4) (k : BitVec 1) (b : BitVec 6) (s : State) : Out := runInstr (alu2 d a k b minS) s
/-- MAX. -/
def execMax (d a : BitVec 4) (k : BitVec 1) (b : BitVec 6) (s : State) : Out := runInstr (alu2 d a k b maxS) s
/-- MINU. -/
def execMinu (d a : BitVec 4) (k : BitVec 1) (b : BitVec 6) (s : State) : Out := runInstr (alu2 d a k b minU) s
/-- MAXU. -/
def execMaxu (d a : BitVec 4) (k : BitVec 1) (b : BitVec 6) (s : State) : Out := runInstr (alu2 d a k b maxU) s
/-- SLT. -/
def execSlt (d a : BitVec 4) (k : BitVec 1) (b : BitVec 6) (s : State) : Out := runInstr (alu2 d a k b (fun x y => boolWord (ltS x y))) s
/-- SLTU. -/
def execSltu (d a : BitVec 4) (k : BitVec 1) (b : BitVec 6) (s : State) : Out := runInstr (alu2 d a k b (fun x y => boolWord (ltU x y))) s
/-- SEQ. -/
def execSeq (d a : BitVec 4) (k : BitVec 1) (b : BitVec 6) (s : State) : Out := runInstr (alu2 d a k b (fun x y => boolWord (x == y))) s
/-- CMOV: it reads sD too (R176), and writes nothing where sB is 0 (R195; log 101). -/
def execCmov (d a : BitVec 4) (k : BitVec 1) (b : BitVec 6) (s : State) : Out :=
  runInstr (do
    let x ← readReg a.toNat
    let y ← operandB k b
    let _ ← readReg d.toNat
    if y ≠ 0 then writeReg d.toNat x
    retire 4) s
/-- ADDW. -/
def execAddw (d a : BitVec 4) (k : BitVec 1) (b : BitVec 6) (s : State) : Out := runInstr (alu2 d a k b (fun x y => sext 32 (x + y))) s
/-- SUBW. -/
def execSubw (d a : BitVec 4) (k : BitVec 1) (b : BitVec 6) (s : State) : Out := runInstr (alu2 d a k b (fun x y => sext 32 (x - y))) s
/-- MADD. -/
def execMadd (d a : BitVec 4) (k : BitVec 1) (b : BitVec 6) (s : State) : Out := runInstr (alu3 d a k b (fun x y z => z + x * y)) s
/-- ADDX. -/
def execAddx (d a : BitVec 4) (k : BitVec 1) (b : BitVec 6) (n : BitVec 2) (s : State) : Out :=
  runInstr (alu2 d a k b (fun x y => x + y <<< n.toNat)) s
/-- CLZ. -/
def execClz (d a : BitVec 4) (s : State) : Out := runInstr (alu1 d a 4 clz) s
/-- CTZ. -/
def execCtz (d a : BitVec 4) (s : State) : Out := runInstr (alu1 d a 4 ctz) s
/-- POPC. -/
def execPopc (d a : BitVec 4) (s : State) : Out := runInstr (alu1 d a 4 popc) s
/-- BSWAP. -/
def execBswap (d a : BitVec 4) (s : State) : Out := runInstr (alu1 d a 4 bswap) s
/-- SEXT. -/
def execSext (d a : BitVec 4) (n : BitVec 2) (s : State) : Out := runInstr (alu1 d a 4 (sext (extWidth n))) s
/-- ZEXT. -/
def execZext (d a : BitVec 4) (n : BitVec 2) (s : State) : Out := runInstr (alu1 d a 4 (zext (extWidth n))) s

/-! ### Immediates (R197) -/

/-- ADDI. -/
def execAddi (d a : BitVec 4) (v : BitVec 17) (s : State) : Out := runInstr (alu1 d a 4 (fun x => x + imm v)) s
/-- ANDI. -/
def execAndi (d a : BitVec 4) (v : BitVec 17) (s : State) : Out := runInstr (alu1 d a 4 (fun x => x &&& imm v)) s
/-- ORI. -/
def execOri (d a : BitVec 4) (v : BitVec 17) (s : State) : Out := runInstr (alu1 d a 4 (fun x => x ||| imm v)) s
/-- XORI. -/
def execXori (d a : BitVec 4) (v : BitVec 17) (s : State) : Out := runInstr (alu1 d a 4 (fun x => x ^^^ imm v)) s
/-- SHLI. -/
def execShli (d a : BitVec 4) (n : BitVec 6) (s : State) : Out := runInstr (alu1 d a 4 (fun x => shl x (n.setWidth 64))) s
/-- SHRI. -/
def execShri (d a : BitVec 4) (n : BitVec 6) (s : State) : Out := runInstr (alu1 d a 4 (fun x => shr x (n.setWidth 64))) s
/-- SHAI. -/
def execShai (d a : BitVec 4) (n : BitVec 6) (s : State) : Out := runInstr (alu1 d a 4 (fun x => sha x (n.setWidth 64))) s
/-- ROTI. -/
def execRoti (d a : BitVec 4) (n : BitVec 6) (s : State) : Out := runInstr (alu1 d a 4 (fun x => rot x (n.setWidth 64))) s
/-- BFX: the field `wd` holds the width minus 1 (R178). -/
def execBfx (d a : BitVec 4) (wd pos : BitVec 6) (s : State) : Out := runInstr (alu1 d a 4 (fun x => bfx x pos.toNat (wd.toNat + 1))) s
/-- BFI. -/
def execBfi (d a : BitVec 4) (wd pos : BitVec 6) (s : State) : Out :=
  runInstr (do
    let x ← readReg a.toNat
    let z ← readReg d.toNat
    writeReg d.toNat (bfi x z pos.toNat (wd.toNat + 1))
    retire 4) s

/-! ### U format and extension registers (R171, R172, R198) -/

/-- LI. -/
def execLi (d : BitVec 4) (v : BitVec 21) (s : State) : Out := runInstr (aluConst d 4 (imm v)) s
/-- LIH. -/
def execLih (d : BitVec 4) (v : BitVec 21) (s : State) : Out := runInstr (aluConst d 4 (imm v <<< 17)) s
/-- LIX. -/
def execLix (d : BitVec 4) (e : BitVec 2) (v : BitVec 19) (s : State) : Out :=
  runInstr (do
    noPoison 0 (16 + e.toNat)
    writeReg d.toNat (vget (← getC).ext 0 e.toNat + imm v)
    retire 4) s

/-- EXTI. -/
def execExti (e : BitVec 2) (v : BitVec 24) (s : State) : Out :=
  runInstr (do
    modC (fun c => { c.unpoison 0 (16 + e.toNat) with ext := vset c.ext e.toNat (imm v) })
    retire 4) s
/-- EXTS. -/
def execExts (e : BitVec 2) (v : BitVec 24) (s : State) : Out :=
  runInstr (do
    noPoison 0 (16 + e.toNat)
    modC (fun c => { c with ext := vset c.ext e.toNat (vget c.ext 0 e.toNat <<< 24 ||| v.setWidth 64) })
    retire 4) s

/-! ### 16-bit forms (R175) -/

/-- ADD in 16 bits. -/
def execAdd16 (d a : BitVec 4) (s : State) : Out := runInstr (alu16 d a (fun x y => x + y)) s
/-- SUB in 16 bits. -/
def execSub16 (d a : BitVec 4) (s : State) : Out := runInstr (alu16 d a (fun x y => x - y)) s
/-- AND in 16 bits. -/
def execAnd16 (d a : BitVec 4) (s : State) : Out := runInstr (alu16 d a (fun x y => x &&& y)) s
/-- OR in 16 bits. -/
def execOr16 (d a : BitVec 4) (s : State) : Out := runInstr (alu16 d a (fun x y => x ||| y)) s
/-- XOR in 16 bits. -/
def execXor16 (d a : BitVec 4) (s : State) : Out := runInstr (alu16 d a (fun x y => x ^^^ y)) s
/-- SHL in 16 bits. -/
def execShl16 (d a : BitVec 4) (s : State) : Out := runInstr (alu16 d a shl) s
/-- SHR in 16 bits. -/
def execShr16 (d a : BitVec 4) (s : State) : Out := runInstr (alu16 d a shr) s
/-- SHA in 16 bits. -/
def execSha16 (d a : BitVec 4) (s : State) : Out := runInstr (alu16 d a sha) s
/-- ADDI in 16 bits. -/
def execAddi16 (d : BitVec 4) (v : BitVec 6) (s : State) : Out := runInstr (alu1 d d 2 (fun x => x + imm v)) s
/-- LI in 16 bits. -/
def execLi16 (d : BitVec 4) (v : BitVec 6) (s : State) : Out := runInstr (aluConst d 2 (imm v)) s
/-- SHLI in 16 bits. -/
def execShli16 (d : BitVec 4) (n : BitVec 6) (s : State) : Out := runInstr (alu1 d d 2 (fun x => shl x (n.setWidth 64))) s
/-- SHRI in 16 bits. -/
def execShri16 (d : BitVec 4) (n : BitVec 6) (s : State) : Out := runInstr (alu1 d d 2 (fun x => shr x (n.setWidth 64))) s
/-- SHAI in 16 bits. -/
def execShai16 (d : BitVec 4) (n : BitVec 6) (s : State) : Out := runInstr (alu1 d d 2 (fun x => sha x (n.setWidth 64))) s

end Sys2Proof.Machine
end

