-- ==== Sys2Proof/Machine/Flt.lean ====
section
/-!
DEFINITION. The scalar floating-point instructions (R199 to R201).
-/

namespace Sys2Proof.Machine

/-- The format that T selects (R177). -/
def fltFmt (t : BitVec 1) : FFmt := if t = 0 then fp32 else fp64

/-- A floating operand of a register: FP32 in bits 31:0, bits 63:32 ignored (R188). -/
def fltCode (t : BitVec 1) (w : Word) : Nat := if t = 0 then w.toNat % 2 ^ 32 else w.toNat

/-- The floating view of the constant table, in a precision (R165). -/
def fltConst (t : BitVec 1) (b : Nat) : Nat :=
  if b < 59 then
    let v := (intConst b).toInt
    ((fltFmt t).round 0 false (v < 0) v.natAbs 0 false).1
  else match b, t.toNat with
    | 59, 0 => 0x3EAAAAAB
    | 59, _ => 0x3FD5555555555555
    | 60, 0 => 0x3E4CCCCD
    | 60, _ => 0x3FC999999999999A
    | 61, 0 => 0x3E124925
    | 61, _ => 0x3FC2492492492492
    | 62, 0 => 0x3FB8AA3B
    | 62, _ => 0x3FF71547652B82FE
    | _, 0 => 0x3F317218
    | _, _ => 0x3FE62E42FEFA39EF

/-- Operand A. -/
def fltA (a : BitVec 4) (t : BitVec 1) : Act Nat := do return fltCode t (← readReg a.toNat)

/-- Operand B: a register or an entry of the table. -/
def fltB (k : BitVec 1) (b : BitVec 6) (t : BitVec 1) : Act Nat := do
  if k = 0 then return fltCode t (← readReg b.toNat) else return fltConst t b.toNat

/-- Writes the rounded result of an operation and sets its flags. -/
def fltResult (d : BitVec 4) (t : BitVec 1) (mode : Nat) (sat : BitVec 1) (r : FVal × BitVec 5) : Act Unit := do
  let (code, f) := (fltFmt t).finish mode (sat == 1) r.1
  writeReg d.toNat (word code)
  setFlags (r.2 ||| f)
  retire 4

/-- sD := Round(op(sA, sB)). -/
def flt2 (d a : BitVec 4) (k : BitVec 1) (b : BitVec 6) (t : BitVec 1) (rm : BitVec 3) (sat : BitVec 1)
    (op : Nat → FVal → FVal → FVal × BitVec 5) : Act Unit := do
  let mode ← modeOf rm
  let x ← fltA a t
  let y ← fltB k b t
  fltResult d t mode sat (op mode ((fltFmt t).value x) ((fltFmt t).value y))

/-- sD := f(sA, sB) on codes, setting no flag. -/
def fltBits (d a : BitVec 4) (k : BitVec 1) (b : BitVec 6) (t : BitVec 1) (f : Nat → Nat → Nat) : Act Unit := do
  let x ← fltA a t
  let y ← fltB k b t
  writeReg d.toNat (word (f x y))
  retire 4

/-- FADD. -/
def execFadd (d a : BitVec 4) (k : BitVec 1) (b : BitVec 6) (t : BitVec 1) (rm : BitVec 3) (sat : BitVec 1) (s : State) : Out :=
  runInstr (flt2 d a k b t rm sat (fun m x y => FVal.add m x y)) s
/-- FSUB. -/
def execFsub (d a : BitVec 4) (k : BitVec 1) (b : BitVec 6) (t : BitVec 1) (rm : BitVec 3) (sat : BitVec 1) (s : State) : Out :=
  runInstr (flt2 d a k b t rm sat (fun m x y => FVal.add m x y.negate)) s
/-- FMUL. -/
def execFmul (d a : BitVec 4) (k : BitVec 1) (b : BitVec 6) (t : BitVec 1) (rm : BitVec 3) (sat : BitVec 1) (s : State) : Out :=
  runInstr (flt2 d a k b t rm sat (fun _ x y => FVal.mul x y)) s
/-- FFMA: sD is the addend, and the sum is rounded once. -/
def execFfma (d a : BitVec 4) (k : BitVec 1) (b : BitVec 6) (t : BitVec 1) (rm : BitVec 3) (sat : BitVec 1) (s : State) : Out :=
  runInstr (do
    let mode ← modeOf rm
    let x ← fltA a t
    let y ← fltB k b t
    let z ← fltA d t
    fltResult d t mode sat (FVal.fma mode ((fltFmt t).value x) ((fltFmt t).value y) ((fltFmt t).value z))) s
/-- FDIV (0 / 0 and ∞ / ∞ are invalid as in IEEE 754; log 13). -/
def execFdiv (d a : BitVec 4) (k : BitVec 1) (b : BitVec 6) (t : BitVec 1) (rm : BitVec 3) (sat : BitVec 1) (s : State) : Out :=
  runInstr (flt2 d a k b t rm sat (fun _ x y => FVal.div x y)) s
/-- FSQRT. -/
def execFsqrt (d a : BitVec 4) (t : BitVec 1) (rm : BitVec 3) (sat : BitVec 1) (s : State) : Out :=
  runInstr (do
    let mode ← modeOf rm
    let x ← fltA a t
    fltResult d t mode sat ((fltFmt t).value x).sqrt) s
/-- FMIN. -/
def execFmin (d a : BitVec 4) (k : BitVec 1) (b : BitVec 6) (t : BitVec 1) (s : State) : Out :=
  runInstr (fltBits d a k b t ((fltFmt t).minmax false)) s
/-- FMAX. -/
def execFmax (d a : BitVec 4) (k : BitVec 1) (b : BitVec 6) (t : BitVec 1) (s : State) : Out :=
  runInstr (fltBits d a k b t ((fltFmt t).minmax true)) s
/-- FCMP. -/
def execFcmp (d a : BitVec 4) (k : BitVec 1) (b : BitVec 6) (t : BitVec 1) (cc : BitVec 2) (s : State) : Out :=
  runInstr (fltBits d a k b t (fun x y => if FVal.cc cc.toNat ((fltFmt t).value x) ((fltFmt t).value y) then 1 else 0)) s

/-- The value of a conversion source of a kind (R173, R201). -/
def kindValue (kind : Nat) (w : Word) : FVal :=
  match kind with
  | 0 => fp32.value (w.toNat % 2 ^ 32)
  | 1 => fp64.value w.toNat
  | 2 => ofInt (signedOf 32 w.toNat)
  | 3 => ofInt (w.toNat % 2 ^ 32 : Nat)
  | 4 => ofInt w.toInt
  | _ => ofInt w.toNat

/-- The range of an integer kind. -/
def kindRange (kind : Nat) : Int × Int :=
  match kind with
  | 2 => (-2 ^ 31, 2 ^ 31 - 1)
  | 3 => (0, 2 ^ 32 - 1)
  | 4 => (-2 ^ 63, 2 ^ 63 - 1)
  | _ => (0, 2 ^ 64 - 1)

/-- A conversion to a kind: the register's value and the flags. -/
def kindConvert (kind mode : Nat) (sat : Bool) (x : FVal) : Word × BitVec 5 :=
  match kind with
  | 0 => let (c, f) := fp32.convert mode sat x; (word c, f)
  | 1 => let (c, f) := fp64.convert mode sat x; (word c, f)
  | _ => let (v, f) := toInt mode (kindRange kind).1 (kindRange kind).2 x; (BitVec.ofInt 64 v, f)

/-- FCVT. -/
def execFcvt (d a : BitVec 4) (tk sk : BitVec 3) (rm : BitVec 3) (sat : BitVec 1) (s : State) : Out :=
  runInstr (do
    let mode ← modeOf rm
    let x ← readReg a.toNat
    let (v, f) := kindConvert tk.toNat mode (sat == 1) (kindValue sk.toNat x)
    writeReg d.toNat v
    setFlags f
    retire 4) s

/-- FCLASS. -/
def execFclass (d a : BitVec 4) (t : BitVec 1) (s : State) : Out :=
  runInstr (do
    let x ← fltA a t
    writeReg d.toNat (word ((fltFmt t).classify x))
    retire 4) s

/-- The magnitude of x with a sign. -/
def withSign (f : FFmt) (x : Nat) (neg : Bool) : Nat := f.signed neg (x % 2 ^ f.signBit)
/-- The sign bit of a code. -/
def signOf (f : FFmt) (x : Nat) : Bool := x / 2 ^ f.signBit % 2 == 1

/-- FSGNJ. -/
def execFsgnj (d a : BitVec 4) (k : BitVec 1) (b : BitVec 6) (t : BitVec 1) (s : State) : Out :=
  runInstr (fltBits d a k b t (fun x y => withSign (fltFmt t) x (signOf (fltFmt t) y))) s
/-- FSGNJN. -/
def execFsgnjn (d a : BitVec 4) (k : BitVec 1) (b : BitVec 6) (t : BitVec 1) (s : State) : Out :=
  runInstr (fltBits d a k b t (fun x y => withSign (fltFmt t) x (!signOf (fltFmt t) y))) s
/-- FSGNJX. -/
def execFsgnjx (d a : BitVec 4) (k : BitVec 1) (b : BitVec 6) (t : BitVec 1) (s : State) : Out :=
  runInstr (fltBits d a k b t (fun x y => withSign (fltFmt t) x (signOf (fltFmt t) x != signOf (fltFmt t) y))) s

end Sys2Proof.Machine
end

