-- ==== Sys2Proof/Machine/Branch.lean ====
section
/-!
DEFINITION. Branches and jumps (R167, R202 to R204).
-/

namespace Sys2Proof.Machine

/-- The target of a branch or jump at pc (R167). -/
def branchTarget (pc : Word) {n : Nat} (disp : BitVec n) : Word := pc + 2 * disp.signExtend 64

/-- N annuls the slots for an outcome (R167): 01 if taken, 10 if not taken, 11 always. -/
def annuls (n : BitVec 2) (taken : Bool) : Bool := n == 3 || (n == 1 && taken) || (n == 2 && !taken)

/-- Completes a branch or jump (R204). -/
def retireBranch (size : Nat) (target : Option Word) (annul : Bool) : Act Unit := modC (fun c => c.branch size target annul)

/-- A B-format branch. -/
def branch (a b : BitVec 4) (n : BitVec 2) (disp : BitVec 15) (cond : Word → Word → Bool) : Act Unit := do
  let x ← readReg a.toNat
  let y ← readReg b.toNat
  let pc := (← getC).pc
  retireBranch 4 (if cond x y then some (branchTarget pc disp) else none) (annuls n (cond x y))

/-- The link value (R203): the address behind the second instruction after the jump, whose first halfwords are read for their
sizes. -/
def linkAddr (s0 : State) (size : Nat) : Act Word := do
  let a1 := (← getC).pc + word size
  let h1 ← fetchAct s0 a1
  let a2 := a1 + word (halfSize h1)
  let h2 ← fetchAct s0 a2
  return a2 + word (halfSize h2)

/-- A register jump (R202): an odd target traps first. -/
def jumpReg (d a : BitVec 4) (n : BitVec 1) (size : Nat) : Act Unit := do
  let s0 ← get
  let t ← readReg a.toNat
  trapIf (t.toNat % 2 == 1) 0 t
  let l ← linkAddr s0 size
  writeReg d.toNat l
  retireBranch size (some t) (n == 1)

/-- BEQ. -/
def execBeq (a b : BitVec 4) (n : BitVec 2) (disp : BitVec 15) (s : State) : Out := runInstr (branch a b n disp (fun x y => x == y)) s
/-- BNE. -/
def execBne (a b : BitVec 4) (n : BitVec 2) (disp : BitVec 15) (s : State) : Out := runInstr (branch a b n disp (fun x y => x != y)) s
/-- BLT. -/
def execBlt (a b : BitVec 4) (n : BitVec 2) (disp : BitVec 15) (s : State) : Out := runInstr (branch a b n disp ltS) s
/-- BGE. -/
def execBge (a b : BitVec 4) (n : BitVec 2) (disp : BitVec 15) (s : State) : Out := runInstr (branch a b n disp (fun x y => !ltS x y)) s
/-- BLTU. -/
def execBltu (a b : BitVec 4) (n : BitVec 2) (disp : BitVec 15) (s : State) : Out := runInstr (branch a b n disp ltU) s
/-- BGEU. -/
def execBgeu (a b : BitVec 4) (n : BitVec 2) (disp : BitVec 15) (s : State) : Out := runInstr (branch a b n disp (fun x y => !ltU x y)) s

/-- JAL; J is JAL with D = 0. -/
def execJal (d : BitVec 4) (n : BitVec 1) (disp : BitVec 20) (s : State) : Out :=
  runInstr (do
    let pc := (← getC).pc
    let l ← linkAddr (← get) 4
    writeReg d.toNat l
    retireBranch 4 (some (branchTarget pc disp)) (n == 1)) s
/-- JALR. -/
def execJalr (d a : BitVec 4) (n : BitVec 1) (s : State) : Out := runInstr (jumpReg d a n 4) s
/-- JALR in 16 bits. -/
def execJalr16 (d a : BitVec 4) (n : BitVec 1) (s : State) : Out := runInstr (jumpReg d a n 2) s

/-- A 16-bit branch on one register; both slots execute. -/
def branch16 (hi a : BitVec 4) (lo : BitVec 2) (cond : Word → Bool) : Act Unit := do
  let x ← readReg a.toNat
  let pc := (← getC).pc
  retireBranch 2 (if cond x then some (branchTarget pc (hi ++ lo)) else none) false

/-- BEQZ. -/
def execBeqz (hi a : BitVec 4) (lo : BitVec 2) (s : State) : Out := runInstr (branch16 hi a lo (fun x => x == 0)) s
/-- BNEZ. -/
def execBnez (hi a : BitVec 4) (lo : BitVec 2) (s : State) : Out := runInstr (branch16 hi a lo (fun x => x != 0)) s

end Sys2Proof.Machine
end

