-- ==== Sys2Proof/Machine/Csr.lean ====
section
/-!
DEFINITION. The control registers and their instructions (R189 to R193), and the system instructions NOP to QCFG (R194, R210 to
R214).
-/

namespace Sys2Proof.Machine

/-! ### Control registers -/

/-- The value of a control register of core k (R189); each twin of a pair has its own counters (R412; log 123). -/
def csrValue (s : State) (k n : Nat) : Word :=
  let c := coreAt s k
  match n with
  | 0x000 => c.status
  | 0x001 => c.evstat
  | 0x002 => c.qcfg
  | 0x003 => c.contrib
  | 0x004 => c.wbmask
  | 0x010 => corelocOf k
  | 0x011 => c.coreid
  | 0x012 => c.teamid
  | 0x013 => c.teamsz
  | 0x014 => c.slice
  | 0x018 => c.shgen
  | 0x019 => c.shcell
  | 0x020 => word (dieAt s (dieOf k)).clock
  | 0x021 => c.cycle
  | 0x022 => c.instret
  | 0x028 => c.rgncnt
  | 0x029 => c.rgnlim
  | 0x02A => c.clkg
  | 0x02B => c.clkq
  | 0x100 => c.tvec
  | 0x101 => c.tepc
  | 0x102 => c.tcause
  | 0x103 => c.tval
  | 0x104 => c.tbq
  | 0x105 => c.tbt0
  | 0x106 => c.tbt1
  | 0x107 => c.tregpc
  | 0x108 => c.tscratch
  | 0x109 => c.timecmp
  | _ => 0

/-- The partial lines of core k's earlier contributor start on their way home (R125). -/
def flushPartials (s : State) (k contrib : Nat) : State :=
  modHerdAt s (herdOf k) (fun h => { h with
    parts := h.parts.filter (fun p => !(p.pos == posOf k && p.contrib == contrib))
    victims := h.victims ++ (h.parts.filter (fun p => p.pos == posOf k && p.contrib == contrib)).map victimOf })

/-- The core with an ordinary control register written with the value that the operation gives (R189, R193); read-only registers
keep theirs. -/
def Core.putCsr (c : Core) (n op : Nat) (x : Word) : Core :=
  match n with
  | 0x000 => { c with status := maskWrite (statusMask c.supervisor) c.status (csrCombine op c.status x) }
  | 0x001 => { c with evstat := evstatWrite op c.evstat x }
  | 0x003 => { c with contrib := maskWrite 0xFFFFFFFF c.contrib (csrCombine op c.contrib x) }
  | 0x029 => if c.supervisor then { c with rgnlim := rgnlimWrite c.rgnlim (csrCombine op c.rgnlim x) } else c
  | 0x100 => { c with tvec := maskWrite (~~~3) c.tvec (csrCombine op c.tvec x) }
  | 0x101 => { c with tepc := csrCombine op c.tepc x }
  | 0x102 => { c with tcause := csrCombine op c.tcause x }
  | 0x103 => { c with tval := csrCombine op c.tval x }
  | 0x104 => { c with tbq := maskWrite 0xFFFFFFFF c.tbq (csrCombine op c.tbq x) }
  | 0x105 => { c with tbt0 := csrCombine op c.tbt0 x }
  | 0x106 => { c with tbt1 := csrCombine op c.tbt1 x }
  | 0x107 => { c with tregpc := csrCombine op c.tregpc x }
  | 0x108 => { c with tscratch := csrCombine op c.tscratch x }
  | 0x109 => { c with timecmp := csrCombine op c.timecmp x }
  | _ => c

/-- The state with a control register of core k written; a write of CONTRIB starts the write-back of its partial lines (R125). -/
def putCsr (s : State) (k n op : Nat) (x : Word) : State :=
  let s := if n = 0x003 then flushPartials s k (coreAt s k).contrib.toNat else s
  modCoreAt s k (fun c => c.putCsr n op x)

/-- The checks of an access to a control register (R187, R193): assigned, and permitted in the mode. -/
def csrCheck (i : Instr) (n : Nat) : Act Unit := do
  if csrSupervisor n then supervisorOnly i
  if csrAssigned n then pure () else illegal i 0x02
  noPoison 0 (4096 + n)

/-- CSRR. -/
def execCsrr (d : BitVec 4) (n : BitVec 12) (s : State) : Out :=
  runInstr (do
    csrCheck (.csrr d n) n.toNat
    let s ← get
    writeReg d.toNat (csrValue s s.cur n.toNat)
    retire 4) s

/-- CSRW, CSRS, CSRC: one step (R193). -/
def csrWrite (i : Instr) (d a : BitVec 4) (n op : Nat) : Act Unit := do
  csrCheck i n
  let x ← readReg a.toNat
  let s ← get
  let old := csrValue s s.cur n
  modify (fun s => putCsr s s.cur n op x)
  writeReg d.toNat old
  retire 4

/-- CSRW. -/
def execCsrw (d a : BitVec 4) (n : BitVec 12) (s : State) : Out := runTerm (csrWrite (.csrw d a n) d a n.toNat 1) s
/-- CSRS. -/
def execCsrs (d a : BitVec 4) (n : BitVec 12) (s : State) : Out := runTerm (csrWrite (.csrs d a n) d a n.toNat 2) s
/-- CSRC. -/
def execCsrc (d a : BitVec 4) (n : BitVec 12) (s : State) : Out := runTerm (csrWrite (.csrc d a n) d a n.toNat 3) s

/-! ### System instructions -/

/-- NOP. -/
def execNop (s : State) : Out := runInstr (retire 4) s
/-- NOP in 16 bits. -/
def execNop16 (s : State) : Out := runInstr (retire 2) s

/-- TRAP (R212): it completes, and the trap enters with the state that the Step leaves; a poisoned TVEC is consumed (R405). -/
def execTrap (a : BitVec 4) (s : State) : Out :=
  runTerm (do
    let x ← readReg a.toNat
    let sup := (← getC).supervisor
    noPoison 0 (4096 + 0x100)
    retire 4
    modify (fun s => takeTrap s s.cur (if sup then 9 else 8) x false s.core.pc)) s

/-- BRK (R211). -/
def execBrk (s : State) : Out := runTerm (do trap 3 (← getC).pc) s

/-- ERET (R210): where both sub-codes apply, 0x02 stands higher (R187). -/
def execEret (s : State) : Out :=
  runInstr (do
    supervisorOnly .eret
    [0x000, 0x101, 0x104, 0x105, 0x106].forM (fun n => noPoison 0 (4096 + n))
    let c ← getC
    if tbqConsistent c.tbq then pure () else illegal .eret 0x02
    if c.tq.isEmpty && c.an = 0 && c.region.isNone then pure () else illegal .eret 0x07
    modC (fun c => c.eret)) s

/-- SLEEP (R213). -/
def execSleep (a : BitVec 4) (s : State) : Out :=
  runTerm (do
    let s0 ← get
    let x ← readReg a.toNat
    noPoison 0 (4096 + 0x001)
    if (s0.core.evstat &&& x &&& 7) ≠ 0 ∨ (pendingInterrupt s0 s0.cur).isSome then retire 4
    else throw (.block (modCoreAt s0 s0.cur (fun c => { c with wait := some .sleep })))) s

/-- FENCE.I (R214). -/
def execFenceI (s : State) : Out :=
  runTerm (do
    if (← getC).tq.isEmpty then pure () else illegal .fenceI 0x07
    modC (fun c => { c with ilines := [] })
    retire 4) s

/-- A value that QCFG accepts (R194): nibbles up to 8, a total up to 16, bits 63:16 zero. -/
def qcfgOk (x : Word) : Bool :=
  let d (k : Nat) := x.toNat / 2 ^ (4 * k) % 16
  x.toNat < 65536 && d 0 ≤ 8 && d 1 ≤ 8 && d 2 ≤ 8 && d 3 ≤ 8 && d 0 + d 1 + d 2 + d 3 ≤ 16

/-- QCFG (R194): a load that will still write one of the four registers comes first (R188). -/
def execQcfg (a : BitVec 4) (s : State) : Out :=
  runTerm (do
    let x ← readReg a.toNat
    if qcfgOk x then pure () else illegal (.qcfg a) 0x02
    waitUntil (!(← getC).pendingReg 12 && !(← getC).pendingReg 13 && !(← getC).pendingReg 14 && !(← getC).pendingReg 15)
    modC (fun c => { c.overwritten [12, 13, 14, 15, 4096 + 0x002] with
      qcfg := x, queues := Vector.replicate 4 []
      regs := vset (vset (vset (vset c.regs 12 0) 13 0) 14 0) 15 0 })
    retire 4) s

end Sys2Proof.Machine
end

