-- ==== Sys2Proof/Machine/RegionOps.lean ====
section
/-!
DEFINITION. RBEGIN, REND and RABORT (R332 to R337).
-/

namespace Sys2Proof.Machine

/-- A window that RBEGIN accepts (R332). -/
def rbeginOk (buf : BitVec 1) (a b : Word) : Bool :=
  b == 0 || (a.toNat % 64 == 0 && b.toNat % 64 == 0 && a.toNat < 2 ^ 17 && a.toNat + b.toNat ≤ (if buf = 0 then 65536 else 32768))

/-- The window that RBEGIN opens; a length of 0 gives none. -/
def rbeginWindow (buf : BitVec 1) (a b : Word) : Window :=
  if b = 0 then { buf := 0, base := 0, len := 0 } else { buf := buf.toNat, base := a.toNat, len := b.toNat }

/-- RBEGIN (R332, R333), which no delay slot holds, of a branch taken or not (R204; log 116): the loads before it have performed, and the
checkpoint is the state before its own operand reads. -/
def execRbegin (a b : BitVec 4) (wbuf : BitVec 1) (s : State) : Out :=
  commitThen s (runInstr (do
    let c0 ← getC
    if c0.tq.isEmpty && c0.an = 0 && c0.delay = 0 then pure () else illegal (.rbegin a b wbuf) 0x07
    waitUntil c0.loads.isEmpty
    let x ← readReg a.toNat
    let y ← readReg b.toNat
    trapIf (!rbeginOk wbuf x y) 7 x
    modC (fun c => { c with region := (c0.openRegion (rbeginWindow wbuf x y) false).region, pendingRegion := none })
    retire 4))

/-- REND (R336). -/
def execRend (s : State) : Out :=
  commitThen s (fun s => runInstr (retire 4) s)

/-- RABORT (R337): a counted discard, with which it completes and is counted in INSTRET (R190); at the limit region livelock with WHY 01
(R345, R346). -/
def execRabort (s : State) : Out :=
  if s.core.region.isNone then runInstr (illegal .rabort 0x07) s
  else if s.core.rgncnt = s.core.rgnlim then .next (discardCounted s s.cur 26 1)
  else .next (modCoreAt (discardCounted s s.cur 26 1) s.cur (fun c => { c with instret := c.instret + 1 }))

end Sys2Proof.Machine
end

