-- ==== Sys2Proof/Machine/LoadStore.lean ====
section
/-!
DEFINITION. Loads and stores (R222 to R224).
-/

namespace Sys2Proof.Machine

/-- A load after its address is known: the check of R220, and the access; one that leaves the core is sent, and its instruction waits for
the answer (R112, R221, R419). -/
def loadAt (s0 : State) (dst : LoadDst) (ea : Word) (size pol : Nat) (acq : Bool) (scope : Nat) : Act Unit := do
  if s0.core.reply.isSome || s0.core.remoteLoad then
    let vs ← awayAnswers s0
    dst.free
    takeValue dst (vs.headD 0)
  else
    let pl ← checkAccess .load ea size pol
    if pl.1.away s0.cur then
      dst.free
      afterAcquire
      throw (.block (sendAway s0 [(ea, size, pl)] scope))
    else loadFrom dst pl ea size acq scope

/-- An M-format load (R223). -/
def load (dst : LoadDst) (a : BitVec 4) (ord : BitVec 2) (scope : BitVec 3) (pol : BitVec 2) (off : BitVec 10) (size : Nat) :
    Act Unit := do
  let s0 ← get
  let x ← readReg a.toNat
  loadAt s0 dst (effAddr x off size) size pol.toNat (ord == 1) scope.toNat
  retire 4

/-- An M-format store of the low bytes of sD (R223). -/
def store (d a : BitVec 4) (ord : BitVec 2) (scope : BitVec 3) (pol : BitVec 2) (off : BitVec 10) (size : Nat) : Act Unit := do
  let x ← readReg a.toNat
  let v ← readReg d.toNat
  let ea := effAddr x off size
  let pl ← checkAccess .store ea size pol.toNat
  storeTo pl ea ord.toNat scope.toNat (leBytes v.toNat size)
  retire 4

/-- LDB. -/
def execLdb (d a : BitVec 4) (ord : BitVec 2) (scope : BitVec 3) (pol : BitVec 2) (off : BitVec 10) (s : State) : Out :=
  runInstr (load (.reg d.toNat 1 true) a ord scope pol off 1) s
/-- LDBU. -/
def execLdbu (d a : BitVec 4) (ord : BitVec 2) (scope : BitVec 3) (pol : BitVec 2) (off : BitVec 10) (s : State) : Out :=
  runInstr (load (.reg d.toNat 1 false) a ord scope pol off 1) s
/-- LDH. -/
def execLdh (d a : BitVec 4) (ord : BitVec 2) (scope : BitVec 3) (pol : BitVec 2) (off : BitVec 10) (s : State) : Out :=
  runInstr (load (.reg d.toNat 2 true) a ord scope pol off 2) s
/-- LDHU. -/
def execLdhu (d a : BitVec 4) (ord : BitVec 2) (scope : BitVec 3) (pol : BitVec 2) (off : BitVec 10) (s : State) : Out :=
  runInstr (load (.reg d.toNat 2 false) a ord scope pol off 2) s
/-- LDW. -/
def execLdw (d a : BitVec 4) (ord : BitVec 2) (scope : BitVec 3) (pol : BitVec 2) (off : BitVec 10) (s : State) : Out :=
  runInstr (load (.reg d.toNat 4 true) a ord scope pol off 4) s
/-- LDWU. -/
def execLdwu (d a : BitVec 4) (ord : BitVec 2) (scope : BitVec 3) (pol : BitVec 2) (off : BitVec 10) (s : State) : Out :=
  runInstr (load (.reg d.toNat 4 false) a ord scope pol off 4) s
/-- LDD. -/
def execLdd (d a : BitVec 4) (ord : BitVec 2) (scope : BitVec 3) (pol : BitVec 2) (off : BitVec 10) (s : State) : Out :=
  runInstr (load (.reg d.toNat 8 false) a ord scope pol off 8) s
/-- LDQ: a pair, low register first; the zero pair discards (R170, R222). -/
def execLdq (d a : BitVec 4) (ord : BitVec 2) (scope : BitVec 3) (pol : BitVec 2) (off : BitVec 10) (s : State) : Out :=
  runInstr (load (.pair d.toNat) a ord scope pol off 16) s

/-- STB. -/
def execStb (d a : BitVec 4) (ord : BitVec 2) (scope : BitVec 3) (pol : BitVec 2) (off : BitVec 10) (s : State) : Out :=
  runInstr (store d a ord scope pol off 1) s
/-- STH. -/
def execSth (d a : BitVec 4) (ord : BitVec 2) (scope : BitVec 3) (pol : BitVec 2) (off : BitVec 10) (s : State) : Out :=
  runInstr (store d a ord scope pol off 2) s
/-- STW. -/
def execStw (d a : BitVec 4) (ord : BitVec 2) (scope : BitVec 3) (pol : BitVec 2) (off : BitVec 10) (s : State) : Out :=
  runInstr (store d a ord scope pol off 4) s
/-- STD. -/
def execStd (d a : BitVec 4) (ord : BitVec 2) (scope : BitVec 3) (pol : BitVec 2) (off : BitVec 10) (s : State) : Out :=
  runInstr (store d a ord scope pol off 8) s
/-- STQ: the pair sD, low register first; the zero pair stores zeros. -/
def execStq (d a : BitVec 4) (ord : BitVec 2) (scope : BitVec 3) (pol : BitVec 2) (off : BitVec 10) (s : State) : Out :=
  runInstr (do
    let x ← readReg a.toNat
    let (lo, hi) ← readPair d.toNat
    let ea := effAddr x off 16
    let pl ← checkAccess .store ea 16 pol.toNat
    storeTo pl ea ord.toNat scope.toNat (leBytes (lo.toNat + 2 ^ 64 * hi.toNat) 16)
    retire 4) s

/-- LDX (R224): the byte offset sB is not scaled. -/
def execLdx (d a b : BitVec 4) (s : State) : Out :=
  runInstr (do
    let s0 ← get
    let x ← readReg a.toNat
    let y ← readReg b.toNat
    loadAt s0 (.reg d.toNat 8 false) (x + y) 8 0 false 0
    retire 4) s
/-- STX (R224). -/
def execStx (d a b : BitVec 4) (s : State) : Out :=
  runInstr (do
    let x ← readReg a.toNat
    let y ← readReg b.toNat
    let v ← readReg d.toNat
    let pl ← checkAccess .store (x + y) 8 0
    storeTo pl (x + y) 0 0 (leBytes v.toNat 8)
    retire 4) s

/-- A 16-bit load: ORD none, SCOPE CORE, the pointer's policy, OFF = X (R175, R222). -/
def load16 (d a : BitVec 4) (x : BitVec 2) (size : Nat) (signed : Bool) : Act Unit := do
  let s0 ← get
  let p ← readReg a.toNat
  loadAt s0 (.reg d.toNat size signed) (p + word (x.toNat * size)) size 0 false 0
  retire 2
/-- A 16-bit store. -/
def store16 (d a : BitVec 4) (x : BitVec 2) (size : Nat) : Act Unit := do
  let p ← readReg a.toNat
  let v ← readReg d.toNat
  let ea := p + word (x.toNat * size)
  let pl ← checkAccess .store ea size 0
  storeTo pl ea 0 0 (leBytes v.toNat size)
  retire 2

/-- LDW in 16 bits. -/
def execLdw16 (d a : BitVec 4) (x : BitVec 2) (s : State) : Out := runInstr (load16 d a x 4 true) s
/-- STW in 16 bits. -/
def execStw16 (d a : BitVec 4) (x : BitVec 2) (s : State) : Out := runInstr (store16 d a x 4) s
/-- LDD in 16 bits. -/
def execLdd16 (d a : BitVec 4) (x : BitVec 2) (s : State) : Out := runInstr (load16 d a x 8 false) s
/-- STD in 16 bits. -/
def execStd16 (d a : BitVec 4) (x : BitVec 2) (s : State) : Out := runInstr (store16 d a x 8) s

end Sys2Proof.Machine
end

