-- ==== Sys2Proof/Machine/Atomic.lean ====
section
/-!
DEFINITION. Atomics, reductions and the full/empty operations (R225 to R233).
-/

namespace Sys2Proof.Machine

/-- The registers that operand B of an atomic names. -/
def regsB (k : BitVec 1) (b : BitVec 6) : List Nat := if k = 0 then [b.toNat] else []

/-- The access size of an atomic: 4 with W = 1, else 8. -/
def amoSize (w : BitVec 1) : Nat := if w = 1 then 4 else 8

/-- Whether an AMO or CAS is result-less (R225). -/
def resultless (d : BitVec 4) : Bool := d == 0

/-- The operands of an atomic, in the order A, B, D. -/
def amoReads (op : AmoOp) (d a : BitVec 4) (k : BitVec 1) (b : BitVec 6) : Act (Word × Word × Word) := do
  let x ← readReg a.toNat
  let y ← operandB k b
  let z ← if op = .cas then readReg d.toNat else pure 0
  return (x, y, z)

/-- A result-less atomic: held in a region, a commit-queue entry outside one. -/
def amoSilent (op : AmoOp) (d a : BitVec 4) (k : BitVec 1) (b : BitVec 6) (ord : BitVec 2) (scope : BitVec 3) (w : BitVec 1) :
    Act Unit := do
  let (x, y, z) ← amoReads op d a k b
  let pl ← checkAccess .atomic x (amoSize w) 0
  appendEntry (← mkEntry (.amo op (w == 1) y z false) pl x ord.toNat scope.toNat)
  retire 4

/-- An atomic with a result: it goes through the commit queue, and the core waits for the old value. -/
def amoResult (op : AmoOp) (d a : BitVec 4) (k : BitVec 1) (b : BitVec 6) (ord : BitVec 2) (scope : BitVec 3) (w : BitVec 1) :
    Act Unit :=
  withReply .reply (amoReads op d a k b)
    (fun r => do
      let (x, y, z) := r
      let pl ← checkAccess .atomic x (amoSize w) 0
      canWrite d.toNat
      let c ← getC
      waitUntil (c.rbuf.isEmpty && c.cq.length < 16)
      let e ← mkEntry (.amo op (w == 1) y z true) pl x ord.toNat scope.toNat
      return fun s => modCoreAt s s.cur (fun c => { c with cq := c.cq ++ [{ e with committed := true }], stamp := c.stamp + 1 }))
    (fun _ v _ => do writeReg d.toNat v; retire 4)

/-- Operand B of an atomic as its instruction names it without its registers: an immediate. -/
def immB (k : BitVec 1) (b : BitVec 6) : BitVec 6 := if k = 0 then 0 else b

/-- AMO and CAS (R226); `i` is the instruction without its registers. -/
def amo (i : Instr) (op : AmoOp) (d a : BitVec 4) (k : BitVec 1) (b : BitVec 6) (ord : BitVec 2) (scope : BitVec 3) (w : BitVec 1) (s : State) :
    Out :=
  if resultless d then runInstr (amoSilent op d a k b ord scope w) s
  else runTermOnce i ([a.toNat] ++ regsB k b ++ (if op = .cas then [d.toNat] else [])) [d.toNat] (amoResult op d a k b ord scope w) s

/-- AMOADD. -/
def execAmoadd (d a : BitVec 4) (k : BitVec 1) (b : BitVec 6) (ord : BitVec 2) (scope : BitVec 3) (w : BitVec 1) (s : State) : Out :=
  amo (.amoadd 0 0 k (immB k b) ord scope w) .add d a k b ord scope w s
/-- AMOAND. -/
def execAmoand (d a : BitVec 4) (k : BitVec 1) (b : BitVec 6) (ord : BitVec 2) (scope : BitVec 3) (w : BitVec 1) (s : State) : Out :=
  amo (.amoand 0 0 k (immB k b) ord scope w) .and d a k b ord scope w s
/-- AMOOR. -/
def execAmoor (d a : BitVec 4) (k : BitVec 1) (b : BitVec 6) (ord : BitVec 2) (scope : BitVec 3) (w : BitVec 1) (s : State) : Out :=
  amo (.amoor 0 0 k (immB k b) ord scope w) .or d a k b ord scope w s
/-- AMOXOR. -/
def execAmoxor (d a : BitVec 4) (k : BitVec 1) (b : BitVec 6) (ord : BitVec 2) (scope : BitVec 3) (w : BitVec 1) (s : State) : Out :=
  amo (.amoxor 0 0 k (immB k b) ord scope w) .xor d a k b ord scope w s
/-- AMOMIN. -/
def execAmomin (d a : BitVec 4) (k : BitVec 1) (b : BitVec 6) (ord : BitVec 2) (scope : BitVec 3) (w : BitVec 1) (s : State) : Out :=
  amo (.amomin 0 0 k (immB k b) ord scope w) .min d a k b ord scope w s
/-- AMOMAX. -/
def execAmomax (d a : BitVec 4) (k : BitVec 1) (b : BitVec 6) (ord : BitVec 2) (scope : BitVec 3) (w : BitVec 1) (s : State) : Out :=
  amo (.amomax 0 0 k (immB k b) ord scope w) .max d a k b ord scope w s
/-- AMOMINU. -/
def execAmominu (d a : BitVec 4) (k : BitVec 1) (b : BitVec 6) (ord : BitVec 2) (scope : BitVec 3) (w : BitVec 1) (s : State) : Out :=
  amo (.amominu 0 0 k (immB k b) ord scope w) .minu d a k b ord scope w s
/-- AMOMAXU. -/
def execAmomaxu (d a : BitVec 4) (k : BitVec 1) (b : BitVec 6) (ord : BitVec 2) (scope : BitVec 3) (w : BitVec 1) (s : State) : Out :=
  amo (.amomaxu 0 0 k (immB k b) ord scope w) .maxu d a k b ord scope w s
/-- AMOSWAP. -/
def execAmoswap (d a : BitVec 4) (k : BitVec 1) (b : BitVec 6) (ord : BitVec 2) (scope : BitVec 3) (w : BitVec 1) (s : State) : Out :=
  amo (.amoswap 0 0 k (immB k b) ord scope w) .swap d a k b ord scope w s
/-- CAS: sD is the expected value. -/
def execCas (d a : BitVec 4) (k : BitVec 1) (b : BitVec 6) (ord : BitVec 2) (scope : BitVec 3) (w : BitVec 1) (s : State) : Out :=
  amo (.cas 0 0 k (immB k b) ord scope w) .cas d a k b ord scope w s

/-- A reduction (R227, R228): one that a commutative range does not accept raises cause 7. -/
def reduce (op : RedOp) (a : BitVec 4) (k : BitVec 1) (b : BitVec 6) (ord : BitVec 2) (scope : BitVec 3) (w : BitVec 1) : Act Unit := do
  let x ← readReg a.toNat
  let y ← operandB k b
  let pl ← checkAccess .atomic x (amoSize w) 0
  let s ← get
  if pl.1.space == .mem then
    match rangeOf s pl.1.addr with
    | some (_, r) => trapIf (!r.closed && !rangeAccepts r op (w == 1)) 7 x
    | none => pure ()
  noPoison 0 (4096 + 0x003)
  appendEntry (← mkEntry (.red op (w == 1) y s.core.contrib.toNat) pl x ord.toNat scope.toNat)
  retire 4

/-- REDADD. -/
def execRedadd (a : BitVec 4) (k : BitVec 1) (b : BitVec 6) (ord : BitVec 2) (scope : BitVec 3) (w : BitVec 1) (s : State) : Out :=
  runInstr (reduce .add a k b ord scope w) s
/-- REDMIN. -/
def execRedmin (a : BitVec 4) (k : BitVec 1) (b : BitVec 6) (ord : BitVec 2) (scope : BitVec 3) (w : BitVec 1) (s : State) : Out :=
  runInstr (reduce .min a k b ord scope w) s
/-- REDMAX. -/
def execRedmax (a : BitVec 4) (k : BitVec 1) (b : BitVec 6) (ord : BitVec 2) (scope : BitVec 3) (w : BitVec 1) (s : State) : Out :=
  runInstr (reduce .max a k b ord scope w) s
/-- REDFADD. -/
def execRedfadd (a b : BitVec 4) (ord : BitVec 2) (scope : BitVec 3) (w : BitVec 1) (s : State) : Out :=
  runInstr (reduce .fadd a 0 (b.setWidth 6) ord scope w) s

/-! ### Full/empty operations (R231 to R233) -/

/-- TAKE and PEEK: a message to the bank, which leaves at once and not through the commit queue (log 143), and a wait for its reply. -/
def takeOrPeek (kind : MsgKind) (d a : BitVec 4) : Act Unit :=
  withReply .bank (readReg a.toNat)
    (fun x => do
      let pl ← checkAccess .take x 8 0
      canWrite d.toNat
      afterAcquire
      return fun s => { s with net := s.net ++ [{ src := s.cur, dst := pl.1.key, off := pl.1.addr, ea := x, kind := kind }] })
    (fun _ v _ => do writeReg d.toNat v; retire 4)

/-- TAKE. -/
def execTake (d a : BitVec 4) (_ord : BitVec 2) (_scope : BitVec 3) (s : State) : Out :=
  runTermOnce (.take 0 0 _ord _scope) [a.toNat] [d.toNat] (takeOrPeek .take d a) s
/-- PEEK. -/
def execPeek (d a : BitVec 4) (_ord : BitVec 2) (_scope : BitVec 3) (s : State) : Out :=
  runTermOnce (.peek 0 0 _ord _scope) [a.toNat] [d.toNat] (takeOrPeek .peek d a) s

/-- PUT: a commit-queue entry. -/
def execPut (a b : BitVec 4) (ord : BitVec 2) (scope : BitVec 3) (s : State) : Out :=
  runInstr (do
    let x ← readReg a.toNat
    let v ← readReg b.toNat
    let pl ← checkAccess .put x 8 0
    appendEntry (← mkEntry (.put v) pl x ord.toNat scope.toNat)
    retire 4) s

/-- FEINIT: a commit-queue entry; a word of the core's own buffer that is sync-tagged at execute is refused precisely (R230). -/
def execFeinit (a b : BitVec 4) (scope : BitVec 3) (full : BitVec 1) (s : State) : Out :=
  runInstr (do
    let x ← readReg a.toNat
    let v ← readReg b.toNat
    let pl ← checkAccess .put x 8 0
    let s ← get
    trapIf (pl.1.key == s.cur && syncTagged s.core pl.1.addr) 28 x
    appendEntry (← mkEntry (.feinit v (full == 1)) pl x 0 scope.toNat)
    retire 4) s

end Sys2Proof.Machine
end

