-- ==== Sys2Proof/Machine/Cache.lean ====
section
/-!
DEFINITION. Fences, the cache walker, WAITA, commutative ranges and L2 retention (R234 to R242).
-/

namespace Sys2Proof.Machine

/-- Every earlier access of a core has performed at a scope (R110, R121). -/
def fenced (s : State) (k scope : Nat) : Bool :=
  let c := coreAt s k
  scope = 0 || (c.drained && c.loads.isEmpty
    && (scope < 2 || (herdAt s (herdOf k)).forwards.all (fun f => f.core != k))
    && (scope < 4 || c.extern.all (fun x => !x.1)))

/-- FENCE (R234). -/
def execFence (scope : BitVec 3) (s : State) : Out :=
  runInstr (do
    let s ← get
    waitUntil (fenced s s.cur scope.toNat)
    retire 4) s

/-- The policy of a space-0 pointer; none for another space or a pointer that decodes nothing. -/
def walkPolicy (p : Word) : Option Policy :=
  if bits p.toNat 63 61 = 0 ∧ bits p.toNat 57 52 = 0 then polOf (bits p.toNat 60 58) else none

/-- PREF (R236, R237). -/
def execPref (a b : BitVec 4) (s : State) : Out :=
  runInstr (do
    let x ← readReg a.toNat
    let n ← readReg b.toNat
    match walkPolicy x with
    | none => retire 4
    | some pol =>
      waitUntil (walkRoom (← getC))
      modC (fun c => { c with walks := c.walks ++ [walkOf 0 (x.toNat % 2 ^ 52) n.toNat pol] })
      retire 4) s

/-- RFLUSH (R237): one commit-queue entry. -/
def execRflush (a b : BitVec 4) (s : State) : Out :=
  runInstr (do
    let x ← readReg a.toNat
    let n ← readReg b.toNat
    match walkPolicy x with
    | none => retire 4
    | some pol =>
      let va := word (x.toNat % 2 ^ 52)
      appendEntry { ← mkEntry (.rflush va n.toNat) ({ space := .mem, key := 0, addr := 0 }, pol) x 0 0 with
        enc := encode (.rflush a b), cell := false }
      retire 4) s

/-- RINV (R237): once the queue has drained the walker runs, and the core waits for its end. -/
def execRinv (a b : BitVec 4) (s : State) : Out :=
  runTerm (withReply .reply
    (do
      let x ← readReg a.toNat
      let n ← readReg b.toNat
      return (x, n))
    (fun r => do
      afterAcquire
      let c ← getC
      waitUntil (c.drained && walkRoom c)
      let w := match walkPolicy r.1 with
        | some pol => walkOf 2 (r.1.toNat % 2 ^ 52) r.2.toNat pol
        | none => walkOf 2 0 0 .direct
      return fun s => modCoreAt s s.cur (fun c => { c with walks := c.walks ++ [w] }))
    (fun _ _ _ => retire 4)) s

/-! ### L2 retention (R240 to R242) -/

/-- KEEP's fields: VALID, WAYS, LEN, BASE in units of 64 KiB (R241). -/
def keepWord (base len ways : Nat) : Word := word (2 ^ 63 + ways * 2 ^ 59 + len * 2 ^ 29 + base)

/-- The ways that a register is given: the highest-numbered ones that no valid register holds (R242); 16 ways. -/
def chooseWays (used : Nat) : Nat → Nat → Nat
  | 0, _ => 0
  | _, 0 => 0
  | w + 1, n + 1 => if used / 2 ^ w % 2 = 1 then chooseWays used w (n + 1) else 2 ^ w + chooseWays used w n

/-- The ways that valid registers hold. -/
def usedWays (d : Die) : Nat :=
  (List.range 8).foldl (fun acc i => if (vget d.keep 0 i).getLsbD 63 then acc ||| (vget d.wayset 0 i).toNat else acc) 0

/-- RETAIN (R240): the answer and the state.  Of several answers that apply it gives the first of -3, -2, -1 and -4 (log 120). -/
def retainOp (s : State) (base len ways : Nat) : Word × State :=
  let d := dieAt s 0
  let ok := base % 65536 = 0 ∧ len % 65536 = 0 ∧ len ≠ 0 ∧ base + len ≤ hbmEnd ∧ 1 ≤ ways ∧ ways ≤ 12
  let valid (i : Nat) : Bool := (vget d.keep 0 i).getLsbD 63
  let kb (i : Nat) : Nat := bits (vget d.keep 0 i).toNat 24 0
  let kl (i : Nat) : Nat := bits (vget d.keep 0 i).toNat 53 29
  let kw (i : Nat) : Nat := bits (vget d.keep 0 i).toNat 62 59
  if !decide ok then (-3, s)
  else if (List.range 8).any (fun i => valid i && base / 65536 < kb i + kl i && kb i < (base + len) / 65536) then (-2, s)
  else match (List.range 8).find? (fun i => !valid i) with
    | none => (-1, s)
    | some i =>
      if 12 < (List.range 8).foldl (fun acc j => if valid j then acc + kw j else acc) 0 + ways then (-4, s)
      else
        (word i, { s with dies := s.dies.map (fun d => { d with
          keep := vset d.keep i (keepWord (base / 65536) (len / 65536) ways)
          wayset := vset d.wayset i (BitVec.ofNat 16 (chooseWays (usedWays d) 16 ways)) }) })

/-- UNRETAIN (R240). -/
def unretainOp (s : State) (n : Nat) : State :=
  { s with dies := s.dies.map (fun d => { d with keep := vset d.keep (n % 8) 0, wayset := vset d.wayset (n % 8) 0 }) }

/-- RETAIN. -/
def execRetain (d a b : BitVec 4) (s : State) : Out :=
  runTerm (do
    supervisorOnly (.retain d a b)
    let x ← readReg a.toNat
    let y ← readReg b.toNat
    let z ← readReg d.toNat
    let (r, s') := retainOp (← get) x.toNat y.toNat (z.toNat % 16)
    set s'
    writeReg d.toNat r
    retire 4) s

/-- UNRETAIN. -/
def execUnretain (a : BitVec 4) (s : State) : Out :=
  runTerm (do
    supervisorOnly (.unretain a)
    let x ← readReg a.toNat
    modify (fun s => unretainOp s x.toNat)
    retire 4) s

/-! ### Commutative ranges (R238, R239) -/

/-- The lowest free range number, if any (64 ranges). -/
def freeRange (s : State) : Option Nat := (List.range 64).find? (fun i => (SMap.get? s.ranges i).isNone)

/-- The bytes of the page that a walk for an address ends at (R350). -/
def pageSpan (s : State) (va : Nat) : (level : Nat) → (table : Nat) → Nat
  | 3, table => pageSpan s va 2 (bits (homeNat s (table + 8 * (va / 2 ^ 41 % 2 ^ 11)) 8) 51 8 * 2 ^ 8)
  | 2, table =>
    let e := homeNat s (table + 8 * (va / 2 ^ 30 % 2 ^ 11)) 8
    if bits e 1 1 = 1 then 2 ^ 30 else pageSpan s va 1 (bits e 51 8 * 2 ^ 8)
  | 1, table => if bits (homeNat s (table + 8 * (va / 2 ^ 21 % 2 ^ 9)) 8) 1 1 = 1 then 2 ^ 21 else 2 ^ 16
  | _, _ => 2 ^ 16

/-- A byte range of a core lies within one page (R238, R350); one of a core that does not translate lies in no page, and has to end in
what the die may access (log 103). -/
def onePage (s : State) (k va n : Nat) : Bool :=
  match translates s k with
  | none => paOk s (va + n - 1)
  | some t => va % pageSpan s va 3 t.root + n ≤ pageSpan s va 3 t.root

/-- CRDECL (R238): the base is translated as a store's address would be, and the range lies within one page.  A base or length that is not
accepted answers -3 before the base is translated, an overlap -2 before -1, and the number is the lowest free one; a base in a slot arena raises no
cell protection, since nothing is written there (log 118). -/
def execCrdecl (d a b : BitVec 4) (elem : BitVec 3) (op : BitVec 2) (s : State) : Out :=
  runTerm (do
    let x ← readReg a.toNat
    let n ← readReg b.toNat
    canWrite d.toNat
    let va := x.toNat % 2 ^ 52
    let ok := (walkPolicy x).isSome && va % 64 == 0 && n.toNat % 64 == 0 && n != 0
    if !ok then
      writeReg d.toNat (-3)
      retire 4
    else
      let s ← get
      match xlate s s.cur va .store (!s.core.supervisor) with
      | (.page _, s') => set s'; trap 15 x
      | (.access, _) => trap 7 x
      | (.ok pa _, s') =>
        set s'
        if !onePage s' s'.cur va n.toNat then
          writeReg d.toNat (-3)
          retire 4
        else if s'.ranges.any (fun p => pa < p.2.base + p.2.len && p.2.base < pa + n.toNat) then
          writeReg d.toNat (-2)
          retire 4
        else match freeRange s' with
          | none =>
            writeReg d.toNat (-1)
            retire 4
          | some i =>
            let r : CommRange :=
              { base := pa, len := n.toNat, fmt := elem.toNat, op := op.toNat, team := s'.core.team.getD 0, closed := false }
            modify (fun s => { s with ranges := SMap.set s.ranges i r })
            writeReg d.toNat (word i)
            retire 4) s

/-- Ends a commutative range (R239): its lines that hold partials are combined in ascending order, and the range is free. -/
def clearRange (s : State) (i : Nat) : State :=
  match SMap.get? s.ranges i with
  | none => s
  | some r =>
    let s := s.homes.foldl (fun s p => if r.base / 64 ≤ p.1 ∧ p.1 < (r.base + r.len) / 64 then combineLine s p.1 else s) s
    { s with ranges := SMap.erase s.ranges i }

/-- CRCLR (R239): a range of another team makes it a no-op. -/
def execCrclr (a : BitVec 4) (s : State) : Out :=
  runTerm (do
    let x ← readReg a.toNat
    let i := x.toNat % 64
    let s ← get
    match SMap.get? s.ranges i with
    | none => retire 4
    | some r =>
      if r.team = s.core.team.getD 0 then
        waitUntil s.core.drained
        modify (fun s => clearRange s i)
      retire 4) s

/-! ### WAITA (R235) -/

/-- The place of a WAITA: a doubleword of the core's own A or C buffer. -/
def waitaPlace (x : Word) : Act Place := do
  trapIf (x.toNat % 8 != 0) 4 x
  let s ← get
  match decodePtr s s.cur x with
  | some (.buf t b off) =>
    if t = s.cur ∧ (b = .bufA ∨ b = .bufC) ∧ claims s.core b = true then return { space := b, key := t, addr := off } else trap 5 x
  | _ => trap 5 x

/-- WAITA: the word is read at its bank once the core's own stores to it have performed; the wait ends with the first value, at issue or
after a write that performs at the word (`noteWrite`), that differs from sB, when sD ticks have passed, or when an interrupt would be
taken. -/
def execWaita (d a b : BitVec 4) (s : State) : Out :=
  runTerm (do
    let s0 ← get
    let x ← readReg a.toNat
    let y ← readReg b.toNat
    let z ← readReg d.toNat
    let p ← waitaPlace x
    canWrite d.toNat
    afterAcquire
    let c := s0.core
    waitUntil ((c.cq ++ c.rbuf).all (fun e => !overlaps e.place e.act.size p 8))
    consumes s0 p 8 []
    let now := (dieAt s0 (dieOf s0.cur)).clock
    let (start, expired, seen) := match c.wait with | some (.waita st _ ex _ _ _ w) => (st, ex, w) | _ => (now, false, none)
    let v := seen.getD (word (placeNat s0 p 8))
    if v ≠ y ∨ expired = true ∨ (z ≠ 0 ∧ z.toNat ≤ now - start) ∨ (pendingInterrupt s0 s0.cur).isSome then
      writeReg d.toNat v
      retire 4
    else throw (.block (modCoreAt s0 s0.cur (fun c =>
      { c with wait := some (.waita start z.toNat expired p.space p.addr y none) })))) s

end Sys2Proof.Machine
end

