-- ==== Sys2Proof/Machine/Tile.lean ====
section
/-!
DEFINITION. Tile registers: elements (R44, R244), tensor descriptors (R246 to R248), the loads and stores of rows and the element
forms that run in the core's pipeline (R249 to R252, R255), and TDLD and TDST (R339).
-/

namespace Sys2Proof.Machine

/-! ### Elements (R44, R244) -/

/-- The container width of an element code; 16 is FP64. -/
def elemWidth (code : Nat) : Nat :=
  match code with
  | 0x2 | 0x3 | 0x6 | 0x7 => 4
  | 0x4 => 2
  | 0x5 | 0xD | 0xE => 16
  | 0xF => 32
  | 16 => 64
  | _ => 8

/-- The elements of a row in a format. -/
def elemCount (code : Nat) : Nat := 1024 / elemWidth code

/-- The code of a T-format instruction: F<7> makes FMT 0xF FP64 (R168). -/
def tileCode (fmt : BitVec 4) (f64 : BitVec 1) : Nat := if f64 = 1 then 16 else fmt.toNat

/-- The bits of a container that hold the element: 5:0 for FP6, whose bits 7:6 are written as 0 and ignored on read (R44). -/
def elemBits (code : Nat) : Nat := if code = 0x8 ∨ code = 0x9 then 6 else elemWidth code

/-- Element j of a row. -/
def rowElem (code : Nat) (r : Row) (j : Nat) : Nat := r.toNat / 2 ^ (elemWidth code * j) % 2 ^ elemBits code

/-- A row from its elements; absent ones are 0. -/
def rowOf (code : Nat) (es : List Nat) : Row :=
  BitVec.ofNat 1024 (es.foldr (fun e acc => e % 2 ^ elemBits code + 2 ^ elemWidth code * acc) 0)

/-- Container j of a row whose containers hold no elements of the format but aligned integers of its width (R55). -/
def rowCell (code : Nat) (r : Row) (j : Nat) : Nat := r.toNat / 2 ^ (elemWidth code * j) % 2 ^ elemWidth code
/-- A row from such containers. -/
def rowOfCells (code : Nat) (es : List Nat) : Row :=
  BitVec.ofNat 1024 (es.foldr (fun e acc => e % 2 ^ elemWidth code + 2 ^ elemWidth code * acc) 0)

/-- The elements of a row. -/
def rowElems (code : Nat) (r : Row) : List Nat := (List.range (elemCount code)).map (rowElem code r)

/-- A row with one element replaced; FP6 codes have bits 7:6 zero (R44). -/
def setElem (code : Nat) (r : Row) (j v : Nat) : Row :=
  let w := elemWidth code
  (r &&& ~~~(BitVec.ofNat 1024 (2 ^ w - 1) <<< (w * j))) ||| (BitVec.ofNat 1024 (v % 2 ^ elemBits code) <<< (w * j))

/-- The bits of a scalar that an element takes: w of them, 6 for FP6 (R252). -/
def scalarElem (code : Nat) (x : Word) : Nat := x.toNat % 2 ^ elemBits code

/-! ### Tensor descriptors (R246 to R248) -/

/-- A descriptor entry. -/
abbrev Desc := BitVec 512

/-- A field of a descriptor. -/
def Desc.field (d : Desc) (hi lo : Nat) : Nat := bits d.toNat hi lo
/-- The element code, 16 for FP64. -/
def Desc.code (d : Desc) : Nat := if d.field 138 138 = 1 ∧ d.field 131 128 = 0xF then 16 else d.field 131 128
/-- FMT. -/
def Desc.fmt (d : Desc) : Nat := d.field 131 128
/-- SCALE: 0 none, 1 MX, 2 B16, 3 TENSOR (R45). -/
def Desc.scale (d : Desc) : Nat := d.field 133 132
/-- NDIM. -/
def Desc.ndim (d : Desc) : Nat := d.field 135 134
/-- BASE. -/
def Desc.base (d : Desc) : Nat := d.field 63 0
/-- SBASE. -/
def Desc.sbase (d : Desc) : Nat := d.field 127 64
/-- SIZEk. -/
def Desc.size (d : Desc) (k : Nat) : Nat := d.field (223 + 32 * k) (192 + 32 * k)
/-- Sk of R248: SIZEk up to NDIM, 1 beyond. -/
def Desc.dim (d : Desc) (k : Nat) : Nat := if k ≤ d.ndim then d.size k else 1
/-- STRIDEk as a 64-bit number, sign-extended. -/
def Desc.stride (d : Desc) (k : Nat) : Nat :=
  match k with
  | 1 => (sext 32 (word (d.field 383 352))).toNat
  | 2 => d.field 447 384
  | _ => d.field 511 448
/-- RDONLY. -/
def Desc.rdonly (d : Desc) : Bool := d.field 137 137 == 1
/-- ABSENT. -/
def Desc.absent (d : Desc) : Bool := d.field 136 136 == 1

/-- The descriptor with its RO fields 0, as TDLD loads it (R246). -/
def Desc.clearRo (d : Desc) : Desc := d &&& ~~~((BitVec.ofNat 512 (2 ^ 31 - 1) <<< 145) ||| (BitVec.ofNat 512 3 <<< 136))
/-- The fields of an entry that a register write does not change: the RO fields and the RSV bits 191:176 and 144:139 (R7, R246). -/
def Desc.fixed (d : Desc) : Desc := d &&& ((BitVec.ofNat 512 (2 ^ 53 - 1) <<< 139) ||| (BitVec.ofNat 512 3 <<< 136))
/-- An entry after a register write of it. -/
def Desc.rewritten (old new : Desc) : Desc := old.fixed ||| (new ^^^ new.fixed)

/-- A valid descriptor (R247). -/
def Desc.valid (d : Desc) : Bool :=
  let w := elemWidth d.code
  d.field 191 176 == 0 && d.field 144 139 == 0
    && d.field 351 320 == (if 8 ≤ w then w / 8 else 0)
    && (1 ≤ d.ndim || (d.size 1 == 0 && d.field 383 352 == 0))
    && (2 ≤ d.ndim || (d.size 2 == 0 && d.field 447 384 == 0))
    && (3 ≤ d.ndim || (d.size 3 == 0 && d.field 511 448 == 0))
    && (d.field 138 138 == 0 || (d.fmt == 0xF && d.scale == 0))
    && (6 ≤ d.fmt || d.scale == 0)
    && (d.fmt != 7 || d.scale == 1)
    && d.base % (max (w / 8) 1) == 0
    && (d.scale != 3 || d.sbase % 4 == 0)

/-- The chunks of a dimension-0 run, NC. -/
def Desc.nc (d : Desc) : Nat := (d.size 0 + elemCount d.code - 1) / elemCount d.code
/-- The rows, NROW: none through an entry whose ABSENT bit is set, which therefore loads zeros (R96, R249, R271). -/
def Desc.nrow (d : Desc) : Nat := if d.size 0 = 0 ∨ d.absent = true then 0 else d.nc * d.dim 1 * d.dim 2 * d.dim 3

/-- Row ρ: the byte address of its element 0 and the number of its valid elements, at its start; none where the row is invalid. -/
def Desc.row (d : Desc) (rho : Nat) : Option (Nat × Nat) :=
  if d.nrow ≤ rho then none
  else
    let c := rho % d.nc
    let q := rho / d.nc
    let i1 := q % d.dim 1
    let i2 := q / d.dim 1 % d.dim 2
    let i3 := q / d.dim 1 / d.dim 2
    let i0 := c * elemCount d.code
    some ((d.base + i0 * elemWidth d.code / 8 + i1 * d.stride 1 + i2 * d.stride 2 + i3 * d.stride 3) % 2 ^ 64,
      min (elemCount d.code) (d.size 0 - i0))

/-- A container of a row: its byte offset in the row, its bytes, how many of its low bits are valid, and its address. -/
structure Piece where
  off : Nat
  size : Nat
  keep : Nat
  addr : Nat
  deriving DecidableEq, Repr

/-- The containers of n valid elements from an address: one per element, or one per byte where w < 8 (R250). -/
def pieces (code addr n : Nat) : List Piece :=
  let w := elemWidth code
  if 8 ≤ w then
    (List.range n).map (fun j => { off := j * (w / 8), size := w / 8, keep := elemBits code, addr := (addr + j * (w / 8)) % 2 ^ 64 })
  else
    (List.range ((n * w + 7) / 8)).map (fun j => { off := j, size := 1, keep := min 8 (n * w - 8 * j), addr := (addr + j) % 2 ^ 64 })

/-- The descriptor in an entry of a team's table; an entry that nothing has written is 0 (log 1). -/
def teamTd (s : State) (k n : Nat) : Desc :=
  match (coreAt s k).team.bind (teamAt s) with
  | some t => SMap.getD t.td 0 n
  | none => 0

/-! ### Use of tiles (R255, R279, R334) -/

/-- A matrix job of the core holds a tile: it has not loaded its row buffer (R279). -/
def Core.tileLocked (c : Core) (t : Nat) : Bool :=
  c.matJobs.any (fun j => j.port.isNone && !j.handle && (j.ta == t || (j.fmta == 7 && j.ta + 1 == t)))

/-- A load will still write the tile. -/
def Core.tilePending (c : Core) (t : Nat) : Bool :=
  c.loads.any (fun l => match l.dst with | .tile u _ _ _ _ => u == t | _ => false)

/-- Waits until no job holds the tiles and no load will still write them. -/
def tilesFree (ts : List Nat) : Act Unit := do
  let c ← getC
  waitUntil (ts.all (fun t => !c.tileLocked t && !c.tilePending t))

/-- The marks of tiles read and written (R334): a read before any write sets the bit. -/
def Region.readTile (r : Region) (t : Nat) : Region :=
  if r.wrTile.getLsbD t then r else { r with rbwTile := r.rbwTile ||| (1 <<< t) }
/-- A tile is written. -/
def Region.writeTile (r : Region) (t : Nat) : Region := { r with wrTile := r.wrTile ||| (1 <<< t) }

/-- The tiles that an instruction reads and writes: region legality where an earlier instruction of the region has read one before any
write (R334, R337). -/
def useTiles (reads writes : List Nat) : Act Unit := do
  match (← getC).region with
  | none => pure ()
  | some r =>
    (match writes.find? (fun t => r.rbwTile.getLsbD t) with
     | some t => trap 25 (legalityVal 1 t)
     | none => pure ())
    modC (fun c => { c with region := some (writes.foldl Region.writeTile (reads.foldl Region.readTile r)) })

/-- A tile is read too where fewer than all of its rows are written (R255). -/
def partialTile (rows t : Nat) : List Nat := if rows < 8 then [t] else []

/-- The first rows of a tile are read into the result: none may be poisoned (R405). -/
def cleanRows (t rows : Nat) : Act Unit := (List.range rows).forM (fun r => noPoison 0 (64 + 8 * t + r))

/-! ### TLD and TST (R249, R250) -/

/-- The containers of each of the rows from sA on, with the row of the tile. -/
def tilePieces (d : Desc) (start rows : Nat) : List (Nat × Piece) :=
  (List.range rows).flatMap (fun r =>
    match d.row (start + r) with
    | some (a, n) => (pieces d.code a n).map (fun p => (r, p))
    | none => [])

/-- The check of every container, in order (R220, R250). -/
def checkPieces (k : Kind) : List (Nat × Piece) → Act (List ((Nat × Piece) × (Place × Policy)))
  | [] => return []
  | x :: rest => do
    let pl ← checkAccess k (word x.2.addr) x.2.size 0
    let more ← checkPieces k rest
    return (x, pl) :: more

/-- The loads of a TLD after the checks: those that have left the core take the values given (R112, R419), and the others are plain
loads. -/
def loadPieces (s0 : State) (t : Nat) : List ((Nat × Piece) × (Place × Policy)) → List Nat → Act Unit
  | [], _ => pure ()
  | x :: rest, vs =>
    let p := x.1.2
    let dst : LoadDst := .tile t x.1.1 p.off p.size p.keep
    if x.2.1.away s0.cur then do
      takeValue dst (vs.headD 0)
      loadPieces s0 t rest (vs.drop 1)
    else do
      loadFrom dst x.2 (word p.addr) p.size false 0
      loadPieces s0 t rest vs

/-- TLD. -/
def execTld (g : BitVec 3) (desc : BitVec 8) (a : BitVec 4) (rows : BitVec 3) (s : State) : Out :=
  runInstr (do
    let s0 ← get
    let x ← readReg a.toNat
    let t := g.toNat
    let n := rows.toNat + 1
    tilesFree [t]
    let d := teamTd s0 s0.cur desc.toNat
    let ps ← checkPieces .load (tilePieces d x.toNat n)
    useTiles (partialTile n t) [t]
    let away := ps.filter (fun p => p.2.1.away s0.cur)
    let vs ← awayValues s0 (away.map (fun p => (word p.1.2.addr, p.1.2.size, p.2))) 0
    modC (fun c => (List.range n).foldl (fun c r => c.setRow t r 0) c)
    loadPieces s0 t ps vs
    retire 4) s

/-- A container to be stored: its row, address, bytes, value and place. -/
structure StorePiece where
  row : Nat
  addr : Nat
  size : Nat
  value : Nat
  pl : Place × Policy
  deriving DecidableEq, Repr

/-- The stores of a list of containers in order, row by row and in each row one per aligned block of 64 bytes (R250, R281): with each its
row. -/
def rowBlocks : List StorePiece → List (Nat × Block)
  | [] => []
  | x :: rest =>
    let bs := leBytes x.value x.size
    let mine : Nat × Block := (x.row, { pl := x.pl, ea := word x.addr, bytes := bs, pair := false })
    match rowBlocks rest with
    | [] => [mine]
    | b :: more =>
      if b.1 = x.row ∧ b.2.ea.toNat / 64 = x.addr / 64 ∧ x.addr + x.size = b.2.ea.toNat then
        (x.row, { mine.2 with bytes := bs ++ b.2.bytes.map (fun y => (y.1 + x.size, y.2)) }) :: more
      else mine :: b :: more

/-- The stores of a list of containers. -/
def blocksOf (l : List StorePiece) : List Block := (rowBlocks l).map (fun b => b.2)

/-- TST.  Through an RDONLY entry it raises cause 27 before any check of its addresses, and nothing where it would write no element
(R249; log 121). -/
def execTst (g : BitVec 3) (desc : BitVec 8) (a : BitVec 4) (rows : BitVec 3) (s : State) : Out :=
  runInstr (withStores do
    let s0 ← get
    let x ← readReg a.toNat
    let t := g.toNat
    let n := rows.toNat + 1
    tilesFree [t]
    let d := teamTd s0 s0.cur desc.toNat
    let els := tilePieces d x.toNat n
    if d.rdonly then
      (match els.head? with
       | some p => trap 27 (word p.2.addr)
       | none => pure ())
    let ps ← checkPieces .store els
    useTiles [t] []
    cleanRows t n
    let c ← getC
    storeMany (blocksOf (ps.map (fun p =>
      { row := p.1.1, addr := p.1.2.addr, size := p.1.2.size, value := rowGet (c.row t p.1.1) p.1.2.off p.1.2.size % 2 ^ p.1.2.keep, pl := p.2 })))
    retire 4) s

/-! ### TLDS and TSTS (R251) -/

/-- The places of the rows of a TLDS (`st` false) or TSTS. -/
def localRows (st : Bool) (x : Word) (rows : Nat) : Act (List (Word × Place)) := do
  trapIf (x.toNat % 128 != 0) (if st then 6 else 4) x
  (List.range rows).mapM (fun r => do
    let s ← get
    let ea := x + word (128 * r)
    match decodePtr s s.cur ea with
    | some (.buf t b off) =>
      if t = s.cur ∧ (b = .bufA ∨ (b = .bufC ∧ st = false)) ∧ claims s.core b = true then
        return (ea, ({ space := b, key := t, addr := off } : Place))
      else trap (if st then 7 else 5) ea
    | _ => trap (if st then 7 else 5) ea)

/-- TLDS: its rows perform at execute, by forwarding before the bank (R109, R112). -/
def execTlds (g : BitVec 3) (a : BitVec 4) (rows : BitVec 3) (s : State) : Out :=
  runInstr (do
    let s0 ← get
    let x ← readReg a.toNat
    let t := g.toNat
    let n := rows.toNat + 1
    tilesFree [t]
    let rs ← localRows false x n
    useTiles (partialTile n t) [t]
    let vs ← gather s0 (rs.map (fun r => (r.1, 128, (r.2, .direct))))
    modC (fun c => (vs.zipIdx).foldl (fun c v => c.setRow t v.2 (BitVec.ofNat 1024 v.1)) c)
    retire 4) s

/-- The two entries of a row of 128 bytes, which perform together at their bank (R106, R251; log 19). -/
def rowHalves (pl : Place) (ea : Word) (v : Row) : List Block :=
  [{ pl := (pl, .direct), ea := ea, bytes := leBytes v.toNat 64, pair := true },
   { pl := ({ pl with addr := pl.addr + 64 }, .direct), ea := ea + 64, bytes := leBytes (v.toNat / 2 ^ 512) 64, pair := false }]

/-- TSTS: the places of all rows are checked before the sync tags of any (R251; log 121). -/
def execTsts (g : BitVec 3) (a : BitVec 4) (rows : BitVec 3) (s : State) : Out :=
  runInstr (withStores do
    let x ← readReg a.toNat
    let t := g.toNat
    let n := rows.toNat + 1
    tilesFree [t]
    let rs ← localRows true x n
    let s ← get
    (match rs.find? (fun r => tagged s r.2 128) with
     | some r => trap 28 r.1
     | none => pure ())
    useTiles [t] []
    cleanRows t n
    let c ← getC
    storeMany (rs.zipIdx.flatMap (fun r => rowHalves r.1.2 r.1.1 (c.row t r.2)))
    retire 4) s

/-! ### Element access (R252) -/

/-- TFILL. -/
def execTfill (g : BitVec 3) (fmt : BitVec 4) (a : BitVec 4) (rows : BitVec 3) (s : State) : Out :=
  runInstr (do
    let x ← readReg a.toNat
    let t := g.toNat
    let n := rows.toNat + 1
    tilesFree [t]
    useTiles (partialTile n t) [t]
    let v := scalarElem fmt.toNat x
    let row := rowOf fmt.toNat (List.replicate (elemCount fmt.toNat) v)
    modC (fun c => (List.range n).foldl (fun c r => c.setRow t r row) c)
    retire 4) s

/-- The scalar of an extracted element: sign-extended for INT8, INT4, INT16 and TERN, raw bits otherwise (R252). -/
def extractWord (code v : Nat) : Word :=
  if code = 0x0 ∨ code = 0x2 ∨ code = 0x4 ∨ code = 0x5 then sext (elemWidth code) (word v) else word v

/-- TEXTR. -/
def execTextr (g : BitVec 4) (fmt : BitVec 4) (idx : BitVec 4) (a : BitVec 3) (s : State) : Out :=
  runInstr (do
    let n := (← readReg idx.toNat).toNat
    let t := a.toNat
    tilesFree [t]
    useTiles [t] []
    let e := elemCount fmt.toNat
    if n < 8 * e then
      noPoison 0 (64 + 8 * t + n / e)
      let c ← getC
      writeReg g.toNat (extractWord fmt.toNat (rowElem fmt.toNat (c.row t (n / e)) (n % e)))
    else writeReg g.toNat 0
    retire 4) s

/-- The core with a row replaced in part: a poisoned row stays poisoned (R404). -/
def Core.patchRow (c : Core) (t r : Nat) (v : Row) : Core :=
  { c with tiles := vset c.tiles t (vset (vget c.tiles (Vector.replicate 8 0) t) r v) }

/-- TINS: with an index out of range it has no effect, and counts as an access of the tile all the same (R252, R334; log 121). -/
def execTins (g : BitVec 3) (fmt : BitVec 4) (idx : BitVec 4) (a : BitVec 4) (s : State) : Out :=
  runInstr (do
    let x ← readReg a.toNat
    let n := (← readReg idx.toNat).toNat
    let t := g.toNat
    tilesFree [t]
    useTiles [t] [t]
    let e := elemCount fmt.toNat
    if n < 8 * e then
      modC (fun c => c.patchRow t (n / e) (setElem fmt.toNat (c.row t (n / e)) (n % e) (scalarElem fmt.toNat x)))
    retire 4) s

/-! ### TDLD and TDST (R323, R339) -/

/-- An entry that the sheet engine owns in the team of a formula and its kids: cell protection (R323). -/
def ownedEntry (entries : List Nat) : Act Unit := do
  if (← getC).shcell.getLsbD 63 then
    match entries.find? (fun n => n < 34) with
    | some n => trap 27 (word n)
    | none => pure ()

/-- The state with an entry of the running core's team written. -/
def setTd (s : State) (n : Nat) (d : Desc) : State :=
  match s.core.team with
  | some t => modTeamAt s t (fun x => { x with td := SMap.set x.td n d })
  | none => s

/-- TDLD. -/
def execTdld (desc : BitVec 8) (a : BitVec 4) (s : State) : Out :=
  runTerm (do
    let s0 ← get
    let x ← readReg a.toNat
    trapIf (x.toNat % 64 != 0) 4 x
    ownedEntry [desc.toNat]
    let pl ← checkAccess .load x 64 0
    let vs ← gather s0 [(x, 64, pl)]
    let d := Desc.clearRo (BitVec.ofNat 512 (vs.headD 0))
    trapIf (!d.valid) 5 x
    modify (fun s => setTd s desc.toNat d)
    retire 4) s

/-- TDST. -/
def execTdst (desc : BitVec 8) (a : BitVec 4) (s : State) : Out :=
  runInstr (do
    let x ← readReg a.toNat
    trapIf (x.toNat % 64 != 0) 6 x
    let pl ← checkAccess .store x 64 0
    let s ← get
    storeTo pl x 0 0 (leBytes (teamTd s s.cur desc.toNat).toNat 64)
    retire 4) s

end Sys2Proof.Machine
end

