-- ==== Sys2Proof/Machine/TileUnit.lean ====
section
/-!
DEFINITION. The instructions of the quad's tile unit (R253 to R265): elementwise arithmetic, conversion and quantisation, and row
operations.
-/

namespace Sys2Proof.Machine

/-! ### The form of a tile-unit instruction (R253 to R255) -/

/-- The rows of a tile as a function. -/
abbrev Rows := Nat → Row

/-- The rows of the head slot of a handle (R254), by forwarding before the buffer. -/
def slotRow (h : Handle) (r : Nat) : Place × Nat := ({ space := .bufA, key := 0, addr := h.base + h.size * h.head + 128 * r }, 128)

/-- Waits for the head slot of a handle and reads its rows (R254). -/
def handleRows (n rows : Nat) : Act (List Row) := do
  let h := vget (← getC).handles Handle.reset n
  trapIf (h.size < 128 * rows || h.count == 0) 34 (word n)
  waitUntil (1 ≤ h.filled)
  (List.range rows).mapM (fun r => do
    let s ← get
    let (p, len) := slotRow h r
    return BitVec.ofNat 1024 (← readNow { p with key := s.cur } len))

/-- Rows from a list. -/
def listRows (l : List Row) : Rows := fun r => l.getD r 0

/-- What a tile-unit instruction writes: tile, row, value. -/
abbrev Writes := List (Nat × Nat × Row)

/-- The core with rows written. -/
def Core.setRows (c : Core) (ws : Writes) : Core := ws.foldl (fun c w => c.setRow w.1 w.2.1 w.2.2) c

/-- One instruction of the tile unit: it waits for its tiles (R279), its handle (R254) and the core's place in the unit's queue, and
then takes its whole effect.  `reads` are tiles with the rows whose bytes it uses; `tb` is operand TB where it names a tile or a handle;
`full` holds where every byte of a written row is written. -/
def tileUnit (reads : List (Nat × Nat)) (tb : Option (BitVec 1 × BitVec 3)) (writes : List Nat) (rows : Nat) (full : Bool)
    (body : (Nat → Rows) → Rows → Writes × BitVec 5) : Act Unit := do
  let tbTile : List (Nat × Nat) := match tb with | some (0, t) => [(t.toNat, rows)] | _ => []
  let all := reads ++ tbTile
  tilesFree (all.map (fun p => p.1) ++ writes)
  let rowsB ← match tb with
    | some (0, _) => pure []
    | some (_, t) => handleRows t.toNat rows
    | none => pure []
  waitUntil !(← getC).tileBusy
  useTiles (all.map (fun p => p.1) ++ (if full then [] else writes)) writes
  all.forM (fun p => cleanRows p.1 p.2)
  let c ← getC
  let b : Rows := match tb with | some (0, t) => fun r => c.row t.toNat r | _ => listRows rowsB
  let (ws, fl) := body (fun t r => c.row t r) b
  modC (fun c => { c.setRows ws with tileBusy := true })
  setFlags fl
  retire 4

/-- An instruction that writes rows of TD, each from the same row of TA (and TB, and the old TD). -/
def rowwise (d a : BitVec 3) (tb : Option (BitVec 1 × BitVec 3)) (readsD : Bool) (rows : BitVec 3)
    (f : Row → Row → Row → Row × BitVec 5) : Act Unit :=
  let n := rows.toNat + 1
  tileUnit ((a.toNat, n) :: (if readsD then [(d.toNat, n)] else [])) tb [d.toNat] n (n == 8) (fun t b =>
    let rs := (List.range n).map (fun r => (r, f (t a.toNat r) (b r) (t d.toNat r)))
    (rs.map (fun x => (d.toNat, x.1, x.2.1)), rs.foldl (fun fl x => fl ||| x.2.2) 0))

/-- A row computed element by element. -/
def mapRow (code : Nat) (f : Nat → Nat → Nat → Nat × BitVec 5) (a b d : Row) : Row × BitVec 5 :=
  let es := (List.range (elemCount code)).map (fun j => f (rowElem code a j) (rowElem code b j) (rowElem code d j))
  (rowOf code (es.map (fun e => e.1)), es.foldl (fun fl e => fl ||| e.2) 0)

/-- An elementwise instruction on TA and TB. -/
def elem2 (d a : BitVec 3) (h : BitVec 1) (b : BitVec 3) (rows : BitVec 3) (code : Nat) (rounds readsD : Bool)
    (f : Nat → Nat → Nat → Nat → Nat × BitVec 5) : Act Unit := do
  let mode ← statusMode rounds
  rowwise d a (some (h, b)) readsD rows (mapRow code (f mode))

/-- An elementwise instruction on TA. -/
def elem1 (d a : BitVec 3) (rows : BitVec 3) (code : Nat) (rounds : Bool) (f : Nat → Nat → Nat × BitVec 5) : Act Unit := do
  let mode ← statusMode rounds
  rowwise d a none false rows (mapRow code (fun x _ _ => f mode x))

/-! ### Elementwise arithmetic (R256, R257) -/

/-- An integer brought into the range of a format. -/
def satInt (code : Nat) (v : Int) : Int :=
  let (lo, hi) := (intRange code).getD (0, 0)
  if v < lo then lo else if hi < v then hi else v

/-- The code of a saturated integer. -/
def satCode (code : Nat) (v : Int) : Nat := intCode code (satInt code v)

/-- An exact floating result in a format, rounded once with SAT clear. -/
def finishElem (f : FFmt) (mode : Nat) (r : FVal × BitVec 5) : Nat × BitVec 5 :=
  let (c, fl) := f.finish mode false r.1
  (c, r.2 ||| fl)

/-- An elementwise operation on two elements. -/
def elemOp (code mode : Nat) (fop : FVal → FVal → FVal × BitVec 5) (iop : Int → Int → Int) (x y : Nat) : Nat × BitVec 5 :=
  match ffmt code with
  | some f => finishElem f mode (fop (f.value x) (f.value y))
  | none => (satCode code (iop (intValue code x).1 (intValue code y).1), 0)

/-- TADD. -/
def execTadd (d a : BitVec 3) (h : BitVec 1) (b : BitVec 3) (rows : BitVec 3) (fmt : BitVec 4) (f64 : BitVec 1) (s : State) : Out :=
  runInstr (elem2 d a h b rows (tileCode fmt f64) (ffmt (tileCode fmt f64)).isSome false (fun m x y _ =>
    elemOp (tileCode fmt f64) m (FVal.add m) (fun x y => x + y) x y)) s
/-- TSUB. -/
def execTsub (d a : BitVec 3) (h : BitVec 1) (b : BitVec 3) (rows : BitVec 3) (fmt : BitVec 4) (f64 : BitVec 1) (s : State) : Out :=
  runInstr (elem2 d a h b rows (tileCode fmt f64) (ffmt (tileCode fmt f64)).isSome false (fun m x y _ =>
    elemOp (tileCode fmt f64) m (fun x y => FVal.add m x y.negate) (fun x y => x - y) x y)) s
/-- TMUL. -/
def execTmul (d a : BitVec 3) (h : BitVec 1) (b : BitVec 3) (rows : BitVec 3) (fmt : BitVec 4) (f64 : BitVec 1) (s : State) : Out :=
  runInstr (elem2 d a h b rows (tileCode fmt f64) (ffmt (tileCode fmt f64)).isSome false (fun m x y _ =>
    elemOp (tileCode fmt f64) m FVal.mul (fun x y => x * y) x y)) s
/-- TFMA: a × b + d, rounded once. -/
def execTfma (d a : BitVec 3) (h : BitVec 1) (b : BitVec 3) (rows : BitVec 3) (fmt : BitVec 4) (f64 : BitVec 1) (s : State) : Out :=
  runInstr (elem2 d a h b rows (tileCode fmt f64) (ffmt (tileCode fmt f64)).isSome true (fun m x y z =>
    match ffmt (tileCode fmt f64) with
    | some f => finishElem f m (FVal.fma m (f.value x) (f.value y) (f.value z))
    | none => (0, 0))) s

/-- The smaller or larger of two elements (R199, R256). -/
def elemMinmax (code : Nat) (mx : Bool) (x y : Nat) : Nat :=
  match ffmt code with
  | some f => f.minmax mx x y
  | none =>
    let u := (intValue code x).1
    let v := (intValue code y).1
    if mx then (if u < v then y else x) else (if v < u then y else x)

/-- TMIN. -/
def execTmin (d a : BitVec 3) (h : BitVec 1) (b : BitVec 3) (rows : BitVec 3) (fmt : BitVec 4) (f64 : BitVec 1) (s : State) : Out :=
  runInstr (elem2 d a h b rows (tileCode fmt f64) false false (fun _ x y _ => (elemMinmax (tileCode fmt f64) false x y, 0))) s
/-- TMAX. -/
def execTmax (d a : BitVec 3) (h : BitVec 1) (b : BitVec 3) (rows : BitVec 3) (fmt : BitVec 4) (f64 : BitVec 1) (s : State) : Out :=
  runInstr (elem2 d a h b rows (tileCode fmt f64) false false (fun _ x y _ => (elemMinmax (tileCode fmt f64) true x y, 0))) s

/-- |a|: only the sign bit changes, and a NaN gives the canonical NaN. -/
def elemAbs (code x : Nat) : Nat :=
  match ffmt code with
  | some f => if f.value x = .nan then f.nanCode else x % 2 ^ f.signBit
  | none => satCode code ((intValue code x).1.natAbs : Int)
/-- −a. -/
def elemNeg (code x : Nat) : Nat :=
  match ffmt code with
  | some f => if f.value x = .nan then f.nanCode else f.signed (x / 2 ^ f.signBit % 2 == 0) (x % 2 ^ f.signBit)
  | none => satCode code (-(intValue code x).1)

/-- TABS. -/
def execTabs (d a : BitVec 3) (rows : BitVec 3) (fmt : BitVec 4) (f64 : BitVec 1) (s : State) : Out :=
  runInstr (elem1 d a rows (tileCode fmt f64) false (fun _ x => (elemAbs (tileCode fmt f64) x, 0))) s
/-- TNEG. -/
def execTneg (d a : BitVec 3) (rows : BitVec 3) (fmt : BitVec 4) (f64 : BitVec 1) (s : State) : Out :=
  runInstr (elem1 d a rows (tileCode fmt f64) false (fun _ x => (elemNeg (tileCode fmt f64) x, 0))) s

/-- The comparison of two elements (R200, R257); integers are never unordered. -/
def elemCc (code cc x y : Nat) : Bool :=
  match ffmt code with
  | some f => FVal.cc cc (f.value x) (f.value y)
  | none => FVal.cc cc (ofInt (intValue code x).1) (ofInt (intValue code y).1)

/-- TCMP. -/
def execTcmp (d a : BitVec 3) (h : BitVec 1) (b : BitVec 3) (rows : BitVec 3) (fmt : BitVec 4) (f64 : BitVec 1) (cc : BitVec 2)
    (s : State) : Out :=
  runInstr (elem2 d a h b rows (tileCode fmt f64) false false (fun _ x y _ =>
    (if elemCc (tileCode fmt f64) cc.toNat x y then 2 ^ elemWidth (tileCode fmt f64) - 1 else 0, 0))) s
/-- TSEL: an element of the old TD is nonzero where a bit of it is set (log 20). -/
def execTsel (d a : BitVec 3) (h : BitVec 1) (b : BitVec 3) (rows : BitVec 3) (fmt : BitVec 4) (f64 : BitVec 1) (s : State) : Out :=
  runInstr (elem2 d a h b rows (tileCode fmt f64) false true (fun _ x y z => (if z = 0 then y else x, 0))) s

/-! ### Transcendentals (R258) -/

/-- 1/a. -/
def elemRcp (f : FFmt) (mode x : Nat) : Nat × BitVec 5 := finishElem f mode (FVal.div (.num false 1 0 false) (f.value x))
/-- 1/√a. -/
def elemRsq (f : FFmt) (mode x : Nat) : Nat × BitVec 5 :=
  match f.value x with
  | .nan => (f.nanCode, 0)
  | .inf neg => if neg then (f.nanCode, flagNV) else (0, 0)
  | .num neg m e _ =>
    if m = 0 then (f.signed neg f.infCode, flagDZ)
    else if neg then (f.nanCode, flagNV)
    else f.finish mode false (FVal.rsqrt m e)
/-- 2^a. -/
def elemExp2 (f : FFmt) (mode x : Nat) : Nat × BitVec 5 :=
  match f.value x with
  | .nan => (f.nanCode, 0)
  | .inf neg => (if neg then 0 else f.infCode, 0)
  | .num neg m e _ => if m = 0 then f.round mode false false 1 0 false else f.exp2 mode neg m e
/-- log2 a. -/
def elemLog2 (f : FFmt) (mode x : Nat) : Nat × BitVec 5 :=
  match f.value x with
  | .nan => (f.nanCode, 0)
  | .inf neg => if neg then (f.nanCode, flagNV) else (f.infCode, 0)
  | .num neg m e _ =>
    if m = 0 then (f.signed true f.infCode, flagDZ)
    else if neg then (f.nanCode, flagNV)
    else f.log2 mode m e
/-- tanh a. -/
def elemTanh (f : FFmt) (mode x : Nat) : Nat × BitVec 5 :=
  match f.value x with
  | .nan => (f.nanCode, 0)
  | .inf neg => f.round mode false neg 1 0 false
  | .num neg m e _ => if m = 0 then (x, 0) else f.tanh mode neg m e

/-- A transcendental on the elements of a floating format. -/
def transc (d a : BitVec 3) (rows : BitVec 3) (code : Nat) (g : FFmt → Nat → Nat → Nat × BitVec 5) : Act Unit :=
  elem1 d a rows code (ffmt code).isSome (fun m x => match ffmt code with | some f => g f m x | none => (0, 0))

/-- TRCP. -/
def execTrcp (d a : BitVec 3) (rows : BitVec 3) (fmt : BitVec 4) (f64 : BitVec 1) (s : State) : Out :=
  runInstr (transc d a rows (tileCode fmt f64) elemRcp) s
/-- TRSQ. -/
def execTrsq (d a : BitVec 3) (rows : BitVec 3) (fmt : BitVec 4) (f64 : BitVec 1) (s : State) : Out :=
  runInstr (transc d a rows (tileCode fmt f64) elemRsq) s
/-- TEXP2. -/
def execTexp2 (d a : BitVec 3) (rows : BitVec 3) (fmt : BitVec 4) (f64 : BitVec 1) (s : State) : Out :=
  runInstr (transc d a rows (tileCode fmt f64) elemExp2) s
/-- TLOG2. -/
def execTlog2 (d a : BitVec 3) (rows : BitVec 3) (fmt : BitVec 4) (f64 : BitVec 1) (s : State) : Out :=
  runInstr (transc d a rows (tileCode fmt f64) elemLog2) s
/-- TTANH. -/
def execTtanh (d a : BitVec 3) (rows : BitVec 3) (fmt : BitVec 4) (f64 : BitVec 1) (s : State) : Out :=
  runInstr (transc d a rows (tileCode fmt f64) elemTanh) s

/-! ### Bitwise, shift and copy forms (R259) -/

/-- A bitwise instruction on TA and TB. -/
def rowBits (d a : BitVec 3) (h : BitVec 1) (b : BitVec 3) (rows : BitVec 3) (f : Row → Row → Row) : Act Unit :=
  rowwise d a (some (h, b)) false rows (fun x y _ => (f x y, 0))

/-- TMOV. -/
def execTmov (d a : BitVec 3) (rows : BitVec 3) (s : State) : Out := runInstr (rowwise d a none false rows (fun x _ _ => (x, 0))) s
/-- TZERO. -/
def execTzero (d : BitVec 3) (rows : BitVec 3) (s : State) : Out :=
  runInstr (tileUnit [] none [d.toNat] (rows.toNat + 1) (rows.toNat == 7) (fun _ _ =>
    ((List.range (rows.toNat + 1)).map (fun r => (d.toNat, r, 0)), 0))) s
/-- TAND. -/
def execTand (d a : BitVec 3) (h : BitVec 1) (b : BitVec 3) (rows : BitVec 3) (s : State) : Out :=
  runInstr (rowBits d a h b rows (fun x y => x &&& y)) s
/-- TOR. -/
def execTor (d a : BitVec 3) (h : BitVec 1) (b : BitVec 3) (rows : BitVec 3) (s : State) : Out :=
  runInstr (rowBits d a h b rows (fun x y => x ||| y)) s
/-- TXOR. -/
def execTxor (d a : BitVec 3) (h : BitVec 1) (b : BitVec 3) (rows : BitVec 3) (s : State) : Out :=
  runInstr (rowBits d a h b rows (fun x y => x ^^^ y)) s
/-- TNOT. -/
def execTnot (d a : BitVec 3) (rows : BitVec 3) (s : State) : Out := runInstr (rowwise d a none false rows (fun x _ _ => (~~~x, 0))) s

/-- A right shift of an element: arithmetic for INT8 and INT16. -/
def elemShr (code x n : Nat) : Nat :=
  let w := elemWidth code
  if code = 0x1 then x / 2 ^ min n w else intCode code ((intValue code x).1 / 2 ^ min n w)

/-- TSHL. -/
def execTshl (d a : BitVec 3) (h : BitVec 1) (b : BitVec 3) (rows : BitVec 3) (fmt : BitVec 4) (s : State) : Out :=
  runInstr (elem2 d a h b rows fmt.toNat false false (fun _ x y _ =>
    (if elemWidth fmt.toNat ≤ y then 0 else x * 2 ^ y % 2 ^ elemWidth fmt.toNat, 0))) s
/-- TSHR. -/
def execTshr (d a : BitVec 3) (h : BitVec 1) (b : BitVec 3) (rows : BitVec 3) (fmt : BitVec 4) (s : State) : Out :=
  runInstr (elem2 d a h b rows fmt.toNat false false (fun _ x y _ => (elemShr fmt.toNat x y, 0))) s

/-! ### Conversion (R260) -/

/-- The elements of one row of a group of tiles, in order. -/
def groupElems (code : Nat) (t : Nat → Rows) (first count r : Nat) : List Nat :=
  (List.range count).flatMap (fun i => rowElems code (t (first + i) r))

/-- The rows that a list of elements fills in a group of tiles. -/
def groupRows (code : Nat) (first count r : Nat) (es : List Nat) : Writes :=
  (List.range count).map (fun i => (first + i, r, rowOf code ((es.drop (i * elemCount code)).take (elemCount code))))

/-- TCVT: the group on the wider side has q tiles. -/
def execTcvt (d a : BitVec 3) (src : BitVec 4) (rows : BitVec 3) (fmt : BitVec 4) (f64 sat : BitVec 1) (rm : BitVec 3)
    (s : State) : Out :=
  runInstr (do
    let sc := if f64 = 1 ∧ src = 0xF then 16 else src.toNat
    let tc := if f64 = 1 ∧ fmt = 0xF then 16 else fmt.toNat
    let n := rows.toNat + 1
    let mode ← modeOf rm
    let qs := elemWidth sc / elemWidth tc
    let qd := elemWidth tc / elemWidth sc
    tileUnit ((List.range (max qs 1)).map (fun i => (a.toNat + i, n))) none ((List.range (max qd 1)).map (fun i => d.toNat + i)) n
      (n == 8) (fun t _ =>
        let rs := (List.range n).map (fun r =>
          (r, (groupElems sc t a.toNat (max qs 1) r).map (fun x => convertElem sc tc mode (sat == 1) x)))
        (rs.flatMap (fun x => groupRows tc d.toNat (max qd 1) x.1 (x.2.map (fun e => e.1))),
          rs.foldl (fun fl x => x.2.foldl (fun fl e => fl ||| e.2) fl) 0))) s

/-! ### Quantisation (R47, R48, R261, R262) -/

/-- A value with an infinity taken as ±max FP32, and NV then. -/
def finiteVal (x : FVal) : FVal × BitVec 5 :=
  match x with
  | .inf s => (fp32.value (fp32.signed s fp32.maxCode), flagNV)
  | y => (y, 0)

/-- floor(log2 |x|) of a nonzero number. -/
def expOf (x : FVal) : Option Int :=
  match x with
  | .num _ m e _ => if m = 0 then none else some (e + bitLen m - 1)
  | _ => none

/-- The greatest floor(log2 |x|) of a block; none where every value is zero. -/
def maxExp (xs : List FVal) : Option Int :=
  xs.foldl (fun acc x => match expOf x, acc with | some e, some a => some (max a e) | some e, none => some e | none, a => a) none

/-- x / 2^k. -/
def FVal.scaleDown (x : FVal) (k : Int) : FVal :=
  match x with
  | .num s m e t => .num s m (e - k) t
  | y => y

/-- emax of a quantisation target (R261). -/
def quantEmax (code : Nat) : Int := match code with | 0x6 | 0x7 | 0x8 => 2 | 0x9 | 0xC => 4 | 0xA => 8 | _ => 15

/-- |a − b| of two numbers. -/
def FVal.dist (a b : FVal) : FVal :=
  match (FVal.add 0 a b.negate).1 with
  | .num _ m e t => .num false m e t
  | y => y

/-- The E2M1 codes of a scaled block for SE2M1, and the special byte (R48 steps 2 to 4); a regular code 1000b, which
stands for −0, is written as 0000b. -/
def quantSe (ys : List FVal) : List Nat × Nat :=
  let f : FFmt := ⟨2, 1, 1, .finite⟩
  let reg := ys.map (fun y => (y, (f.finish 0 true y).1))
  let ds := reg.map (fun p => p.1.dist (f.value p.2))
  let j := ((List.range ds.length).foldl (fun (best : Nat) i => if (ds.getD best .nan).below (ds.getD i .nan) then i else best) 0)
  let x := (e4m3.finish 0 true (ys.getD j (.num false 0 0 false))).1
  (reg.map (fun p =>
    if (p.1.dist (e4m3.value x)).below (p.1.dist (f.value p.2)) then 8 else if p.2 = 8 then 0 else p.2), x)

/-- A block of values quantised to a target: the codes, the scale byte, the special byte and the flags (R48, R261).  Of a block whose
largest magnitude is 0, R48 gives the scale and the codes; DESIGN CHOICE: its special byte is 0x00 (log 114). -/
def quantBlock (code mode : Nat) (sat : Bool) (xs : List FVal) : List Nat × Nat × Nat × BitVec 5 :=
  if xs.any (fun x => x == .nan) then (xs.map (fun _ => 0), 255, 0, flagNV)
  else
    let fs := xs.map finiteVal
    let nv := fs.foldl (fun fl x => fl ||| x.2) (0 : BitVec 5)
    match maxExp (fs.map (fun x => x.1)) with
    | none => (xs.map (fun _ => 0), 0, 0, nv)
    | some e =>
      let k := max (-127) (min 127 (e - quantEmax code))
      let ys := fs.map (fun x => x.1.scaleDown k)
      if code = 0x7 then
        let (cs, x) := quantSe ys
        (cs, (k + 127).toNat, x, nv)
      else
        match ffmt code with
        | some f =>
          let rs := ys.map (fun y => f.finish mode sat y)
          (rs.map (fun r => r.1), (k + 127).toNat, 0, rs.foldl (fun fl r => fl ||| r.2) nv)
        | none => ([], 0, 0, 0)

/-- TQNT on a row. -/
def quantRow (src code mode : Nat) (sat : Bool) (a : Row) : Row × BitVec 5 :=
  let xs := (rowElems src a).map (fun c => (elemValue src c).1)
  let bs := (List.range (elemCount src / 32)).map (fun b => (b, quantBlock code mode sat ((xs.drop (32 * b)).take 32)))
  let r := rowOf code (bs.flatMap (fun b => b.2.1))
  let r := bs.foldl (fun r b =>
    if code = 0x7 then rowPut (rowPut r (120 + 2 * b.1) 1 b.2.2.1) (121 + 2 * b.1) 1 b.2.2.2.1
    else rowPut r (120 + b.1) 1 b.2.2.1) r
  (r, bs.foldl (fun fl b => fl ||| b.2.2.2.2) 0)

/-- TQNT. -/
def execTqnt (d a : BitVec 3) (src : BitVec 4) (rows : BitVec 3) (fmt : BitVec 4) (sat : BitVec 1) (rm : BitVec 3) (s : State) : Out :=
  runInstr (do
    let mode ← modeOf rm
    rowwise d a none false rows (fun x _ _ => quantRow src.toNat fmt.toNat mode (sat == 1) x)) s

/-- A code times its block scale (R45, R47). -/
def scaledElem (code c scale special : Nat) : FVal :=
  let v := if code = 0x7 ∧ c = 8 then e4m3.value special else (elemValue code c).1
  if scale = 255 then .nan else v.scaleDown (127 - (scale : Int))

/-- TDQ on a row. -/
def dequantRow (src code mode : Nat) (sat : Bool) (a : Row) : Row × BitVec 5 :=
  let rs := (List.range (elemCount code)).map (fun i =>
    let b := i / 32
    let scale := if src = 0x7 then rowGet a (120 + 2 * b) 1 else rowGet a (120 + b) 1
    match ffmt code with
    | some f => f.convert mode sat (scaledElem src (rowElem src a i) scale (rowGet a (121 + 2 * b) 1))
    | none => (0, 0))
  (rowOf code (rs.map (fun r => r.1)), rs.foldl (fun fl r => fl ||| r.2) 0)

/-- TDQ. -/
def execTdq (d a : BitVec 3) (src : BitVec 4) (rows : BitVec 3) (fmt : BitVec 4) (sat : BitVec 1) (rm : BitVec 3) (s : State) : Out :=
  runInstr (do
    let mode ← modeOf rm
    rowwise d a none false rows (fun x _ _ => dequantRow src.toNat fmt.toNat mode (sat == 1) x)) s

/-! ### Row operations (R263 to R265) -/

/-- The exact sums of the prefixes of a row, with the flags of the additions, which go from left to right: a row with a NaN and both
infinities sets NV where the infinities meet before the NaN (R52 gives no order; log 131). -/
def prefixSums (mode : Nat) : List FVal → List (FVal × BitVec 5)
  | [] => []
  | x :: rest => rest.foldl (fun acc y =>
      match acc.getLast? with
      | some (v, fl) =>
        let (u, g) := FVal.add mode v y
        acc ++ [(u, fl ||| g)]
      | none => acc) [(x, 0)]

/-- A sum as an element: rounded once, or saturated. -/
def sumElem (code mode : Nat) (r : FVal × BitVec 5) : Nat × BitVec 5 :=
  match ffmt code with
  | some f => finishElem f mode r
  | none =>
    let (lo, hi) := (intRange code).getD (0, 0)
    (intCode code (toInt 0 lo hi r.1).1, 0)

/-- The values of a row, a TADD format. -/
def rowValues (code : Nat) (r : Row) : List FVal := (rowElems code r).map (fun c => (elemValue code c).1)

/-- Element u ranks above element v (R263): −0 below +0, NaN below every number. -/
def ranksAbove (u v : FVal) : Bool := if u == .nan then false else if v == .nan then true else v.below u

/-- The index of the element that ranks first, the lowest where several do. -/
def bestIndex (vs : List (Nat × FVal)) : Option (Nat × FVal) :=
  vs.foldl (fun best x => match best with | some b => if ranksAbove x.2 b.2 then some x else best | none => some x) none

/-- A row with element 0 and zeros. -/
def firstElem (code v : Nat) : Row := rowOf code [v]

/-- An element's code with a NaN made canonical. -/
def canonElem (code c : Nat) : Nat :=
  match ffmt code with
  | some f => if f.value c = .nan then f.nanCode else c
  | none => c

/-- TRED of a row: 0 sum, 1 max, 2 min, 3 argmax (R173, R263). -/
def reduceRow (code kind mode : Nat) (a : Row) : Row × BitVec 5 :=
  match kind with
  | 0 =>
    let (c, fl) := sumElem code mode (((prefixSums mode (rowValues code a)).getLast?).getD (.num false 0 0 false, 0))
    (firstElem code c, fl)
  | 3 =>
    let i := ((bestIndex ((rowValues code a).zipIdx.map (fun p => (p.2, p.1)))).map (fun p => p.1)).getD 0
    (rowPut (firstElem code (canonElem code (rowElem code a i))) 112 2 i, 0)
  | k =>
    let es := rowElems code a
    (firstElem code (es.foldl (fun x y => elemMinmax code (k == 1) x y) (canonElem code (es.headD 0))), 0)

/-- TRED. -/
def execTred (d a : BitVec 3) (rows : BitVec 3) (fmt : BitVec 4) (f64 : BitVec 1) (k : BitVec 2) (s : State) : Out :=
  runInstr (do
    let mode ← statusMode (k = 0)
    rowwise d a none false rows (fun x _ _ => reduceRow (tileCode fmt f64) k.toNat mode x)) s

/-- TSCAN. -/
def execTscan (d a : BitVec 3) (rows : BitVec 3) (fmt : BitVec 4) (f64 : BitVec 1) (s : State) : Out :=
  runInstr (do
    let mode ← statusMode true
    let code := tileCode fmt f64
    rowwise d a none false rows (fun x _ _ =>
      let rs := (prefixSums mode (rowValues code x)).map (sumElem code mode)
      (rowOf code (rs.map (fun r => r.1)), rs.foldl (fun fl r => fl ||| r.2) 0))) s

/-- TBCAST: mode 0 copies row 0 of TA, bits 7:6 of an FP6 container included (log 132); mode 1 fills with element 0 of the row. -/
def execTbcast (d a : BitVec 3) (b : BitVec 1) (rows : BitVec 3) (fmt : BitVec 4) (s : State) : Out :=
  let n := rows.toNat + 1
  runInstr (tileUnit [(a.toNat, if b = 0 then 1 else n)] none [d.toNat] n (n == 8) (fun t _ =>
    ((List.range n).map (fun r => (d.toNat, r,
      if b = 0 then t a.toNat 0 else rowOf fmt.toNat (List.replicate (elemCount fmt.toNat) (rowElem fmt.toNat (t a.toNat r) 0)))), 0))) s

/-- TTRN. -/
def execTtrn (d a : BitVec 3) (fmt : BitVec 4) (s : State) : Out :=
  let code := fmt.toNat
  runInstr (tileUnit [(a.toNat, 8)] none [d.toNat] 8 true (fun t _ =>
    ((List.range 8).map (fun r => (d.toNat, r, rowOf code ((List.range (elemCount code)).map (fun j =>
      rowElem code (t a.toNat (j % 8)) (j / 8 * 8 + r))))), 0))) s

/-- TPERM. -/
def execTperm (d a : BitVec 3) (h : BitVec 1) (b : BitVec 3) (rows : BitVec 3) (fmt : BitVec 4) (s : State) : Out :=
  let code := fmt.toNat
  runInstr (rowwise d a (some (h, b)) false rows (fun x y _ =>
    (rowOf code ((List.range (elemCount code)).map (fun j =>
      let p := rowGet y j 1
      if p < elemCount code then rowElem code x p else 0)), 0))) s

/-- TGATH. -/
def execTgath (d a : BitVec 3) (h : BitVec 1) (b : BitVec 3) (rows : BitVec 3) (fmt : BitVec 4) (s : State) : Out :=
  let code := fmt.toNat
  let n := rows.toNat + 1
  let e := elemCount code
  runInstr (tileUnit [(a.toNat, 8)] (some (h, b)) [d.toNat] n (n == 8) (fun t y =>
    ((List.range n).map (fun r => (d.toNat, r, rowOf code ((List.range e).map (fun j =>
      let p := rowGet (y r) (2 * j) 2
      if p < 8 * e then rowElem code (t a.toNat (p / e)) (p % e) else 0)))), 0))) s

/-- The rows of TD after a scatter of one row. -/
def scatterRow (code : Nat) (idx src : Row) (td : List Row) : List Row :=
  let e := elemCount code
  (List.range e).foldl (fun td j =>
    let p := rowGet idx (2 * j) 2
    if p < 8 * e then td.set (p / e) (setElem code (td.getD (p / e) 0) (p % e) (rowElem code src j)) else td) td

/-- TSCAT: every row of TD may change, and TD is read. -/
def execTscat (d a : BitVec 3) (h : BitVec 1) (b : BitVec 3) (rows : BitVec 3) (fmt : BitVec 4) (s : State) : Out :=
  let code := fmt.toNat
  let n := rows.toNat + 1
  runInstr (tileUnit [(a.toNat, n), (d.toNat, 8)] (some (h, b)) [d.toNat] n false (fun t y =>
    let td := (List.range n).foldl (fun td r => scatterRow code (y r) (t a.toNat r) td) ((List.range 8).map (t d.toNat))
    (td.zipIdx.map (fun p => (d.toNat, p.2, p.1)), 0))) s

/-- The k elements that rank first, in order. -/
def topK : Nat → List (Nat × FVal) → List Nat
  | 0, _ => []
  | k + 1, vs =>
    match bestIndex vs with
    | some b => b.1 :: topK k (vs.filter (fun x => x.1 != b.1))
    | none => []

/-- TTOPK of a row. -/
def topRow (code k : Nat) (a : Row) : Row :=
  let is := topK k ((rowValues code a).zipIdx.map (fun p => (p.2, p.1)))
  is.zipIdx.foldl (fun r p => rowPut r (112 + 2 * p.2) 2 p.1) (rowOf code (is.map (fun i => canonElem code (rowElem code a i))))

/-- TTOPK. -/
def execTtopk (d a : BitVec 3) (k : BitVec 3) (rows : BitVec 3) (fmt : BitVec 4) (s : State) : Out :=
  runInstr (rowwise d a none false rows (fun x _ _ => (topRow fmt.toNat (k.toNat + 1) x, 0))) s

/-- Mix (R53). -/
def mix (z : Word) : Word :=
  let z := z ^^^ (z >>> 31)
  let z := z * 0x8E3B2D71C5A9F067
  let z := z ^^^ (z >>> 29)
  let z := z * 0xC6A41F935E2B78DD
  z ^^^ (z >>> 32)

/-- The 23 bits h<63:41> of Noise, whose value is (2h + 1) × 2^−24 (R53). -/
def noiseBits (seed : Word) (seq pos idx : Nat) : Nat :=
  let h := mix (seed + 0xA3C59F2E6B17D449)
  let h := mix (h ^^^ word (seq * 2 ^ 32 + pos))
  let h := mix (h + word idx * 0xA3C59F2E6B17D449)
  bits h.toNat 63 41

/-- TNOISE: the key stands in row 0 of TA; RNE, and no flag. -/
def execTnoise (d a : BitVec 3) (rows : BitVec 3) (fmt : BitVec 4) (s : State) : Out :=
  let code := fmt.toNat
  let n := rows.toNat + 1
  let e := elemCount code
  runInstr (tileUnit [(a.toNat, 1)] none [d.toNat] n (n == 8) (fun t _ =>
    let key := t a.toNat 0
    ((List.range n).map (fun r => (d.toNat, r, rowOf code ((List.range e).map (fun j =>
      let u := noiseBits (word (rowGet key 0 8)) (rowGet key 8 4) (rowGet key 12 4) ((rowGet key 16 4 + r * e + j) % 2 ^ 32)
      match ffmt code with
      | some f => (f.finish 0 false (.num false (2 * u + 1) (-24) false)).1
      | none => 0)))), 0))) s

end Sys2Proof.Machine
end

