-- ==== Sys2Proof/Machine/MatrixOps.lean ====
section
/-!
DEFINITION. The arithmetic of the matrix engine (R54 to R62): alignment, block products, narrow sums and promotion; and the matrix
state of a core (R266).
-/

namespace Sys2Proof.Machine

/-! ### Formats (R54) -/

/-- An integer format. -/
def isIntFmt (f : Nat) : Bool := f < 6
/-- The formats pair: one container width, both integer or both floating (R54). -/
def pairs (a w : Nat) : Bool := elemWidth a == elemWidth w && isIntFmt a == isIntFmt w
/-- The A bit-planes, pA (R54). -/
def planes (f : Nat) : Nat :=
  match f with
  | 0x4 => 2
  | 0x2 | 0x3 | 0x6 | 0x7 => 4
  | 0x8 | 0x9 => 6
  | 0x5 | 0xD | 0xE => 16
  | 0xF => 24
  | _ => 8
/-- The kind of accumulator of a pairing. -/
def pairKind (a : Nat) : AccKind := if isIntFmt a then .int32 else .fp32
/-- The blocks of 32 of a k-chunk, nb. -/
def blockCount (f : Nat) : Nat := elemCount f / 32

/-! ### Alignment (R55) -/

/-- Values as integer multiples of 2^q, each rounded RNE; a NaN or an infinity counts 0. -/
def alignAt (q : Int) (vs : List FVal) : List Int :=
  vs.map (fun v => match v with
    | .num s m e t => if s then -((roundAt s m e t q 0).1 : Int) else ((roundAt s m e t q 0).1 : Int)
    | _ => 0)

/-- Alignment to p bits below the greatest exponent, once more with the exponent raised where a value is too large: the exponent E and
the integers. -/
def alignBlock (p : Nat) (tooLarge : Int → Bool) (vs : List FVal) : Int × List Int :=
  match maxExp vs with
  | none => (0, vs.map (fun _ => 0))
  | some e =>
    let qs := alignAt (e - (p - 1)) vs
    if qs.any tooLarge then (e + 1, alignAt (e + 1 - (p - 1)) vs) else (e, qs)

/-- A value is a NaN or an infinity. -/
def FVal.special : FVal → Bool
  | .num _ _ _ _ => false
  | _ => true

/-- One aligned block of an A row: its integers, its unit exponent with the exponent of gA added, a NaN or infinite element (or a NaN
scale), and a TERN code 10b. -/
structure ABlock where
  q : List Int
  f : Int
  bad : Bool
  tern : Bool
  deriving DecidableEq, Repr

/-- Block b of an A row in a format; `srow` is the scale row of an SE2M1 operand (R274). -/
def alignA (fmt : Nat) (row srow : Row) (b : Nat) : ABlock :=
  let cs := (List.range 32).map (fun i => rowElem fmt row (32 * b + i))
  if isIntFmt fmt then
    { q := cs.map (fun c => (intValue fmt c).1), f := 0, bad := false, tern := cs.any (fun c => (intValue fmt c).2) }
  else
    let sp := rowGet srow (2 * b + 1) 1
    let vs := cs.map (fun c => if fmt = 0x7 ∧ c = 8 then e4m3.value sp else (elemValue fmt c).1)
    let p := planes fmt
    let (e, q) := alignBlock p (fun x => x.natAbs == 2 ^ p) vs
    let sc := rowGet srow (2 * b) 1
    { q := q, f := e + 1 - p + (if fmt = 0x7 then (sc : Int) - 127 else 0)
      bad := vs.any FVal.special || (fmt == 0x7 && sc == 255), tern := false }

/-- One block of a macro column as a job uses it: its integers, fW, gW as m × 2^e, the NaN mark, and a TERN code 10b. -/
structure WBlock where
  q : List Int
  f : Int
  gm : Int
  ge : Int
  nan : Bool
  tern : Bool
  deriving DecidableEq, Repr

/-- A factor gW as m × 2^e; none where it is no finite number. -/
def factorOf (gw : BitVec 32) : Option (Int × Int) :=
  match fp32.value gw.toNat with
  | .num neg m e _ => some (if neg then -(m : Int) else m, e)
  | _ => none

/-- Block b of a macro column from its containers and its record; a factor that is no finite number marks it as a NaN. -/
def readW (fmt : Nat) (col : Row) (r : BlockRec) (b : Nat) : WBlock :=
  let cs := (List.range 32).map (fun i => rowCell fmt col (32 * b + i))
  let (gm, ge) := (factorOf r.gw).getD (1, 0)
  let nan := r.nan || (factorOf r.gw).isNone
  if isIntFmt fmt then
    { q := cs.map (fun c => (intValue fmt c).1), f := 0, gm := gm, ge := ge, nan := nan, tern := cs.any (fun c => (intValue fmt c).2) }
  else
    { q := cs.map (fun c => signedOf (elemWidth fmt) c), f := r.ew + 2 - elemWidth fmt, gm := gm, ge := ge, nan := nan, tern := false }

/-- Block i of a macro that a copy-unit write has made EMPTY while a job read it: R275 states no result there (log 135). -/
def emptyW (free i : Nat) : WBlock :=
  { q := (List.range 32).map (fun j => Config.emptyBlock free i j), f := Config.emptyBlock free i 32, gm := 1, ge := 0
    nan := Config.emptyBlock free i 33 % 2 == 1, tern := false }

/-! ### Macros (R24, R266) -/

/-- A factor of 1 in FP32. -/
def gwOne : BitVec 32 := 0x3F800000

/-- The record of a block that nothing marks. -/
def recDefault : BlockRec := { ew := 0, gw := gwOne, nan := false }

/-- The W-buffer offset of byte j of column col of macro m: rows of 64 cells (R24; log 23). -/
def cellOff (m col j : Nat) : Nat := 8192 * m + 64 * j + col

/-- The containers of a column of a macro. -/
def Core.macroCol (c : Core) (m col : Nat) : Row :=
  BitVec.ofNat 1024 (leNat (fun j => SMap.getD c.bufW 0 (cellOff m col j)) 128)

/-- The blocks of a column of a macro. -/
def Core.wBlocks (c : Core) (m col : Nat) : List WBlock :=
  let ms := vget c.macs MacroState.reset m
  let row := c.macroCol m col
  (List.range (blockCount ms.fmt)).map (fun b => readW ms.fmt row (SMap.getD ms.recs recDefault (16 * col + b)) b)

/-- The core with the cells of a macro written, column by column. -/
def Core.setCells (c : Core) (m : Nat) (cols : List Row) : Core :=
  let cells := (List.range 128).flatMap (fun j =>
    cols.zipIdx.filterMap (fun p => let v := rowGet p.1 j 1; if v = 0 then none else some (cellOff m p.2 j, BitVec.ofNat 8 v)))
  { c with
    bufW := c.bufW.filter (fun p => p.1 < 8192 * m) ++ cells ++ c.bufW.filter (fun p => 8192 * (m + 1) ≤ p.1)
    poison := c.poison.filter (fun q => q.1 != 2 || q.2 / 128 != m) }

/-- A poisoned row of a macro. -/
def Core.macroPoison (c : Core) (m : Nat) : Bool := c.poison.any (fun q => q.1 == 2 && q.2 / 128 == m)

/-! ### Loading a column (R45 to R47, R271, R272) -/

/-- A column as a weight job has read it: its codes, the number of valid ones, and its scale bytes (TENSOR: the FP32 word). -/
structure Column where
  row : Row
  n : Nat
  scales : List Nat
  deriving DecidableEq, Repr

/-- The value of element i of a column after any B16 scale (R45).  A TENSOR scale is not applied to it (R55); where that scale is zero, a
NaN or infinite element decodes as 0 (R45; log 21). -/
def Column.elem (fmt scale : Nat) (c : Column) (i : Nat) : FVal :=
  if c.n ≤ i then .num false 0 0 false
  else
    let code := rowElem fmt c.row i
    let v := if fmt = 0x7 ∧ code = 8 then e4m3.value (c.scales.getD (2 * (i / 32) + 1) 0) else (elemValue fmt code).1
    if scale = 2 then
      let s := e4m3.value (c.scales.getD (i / 16) 0)
      if s.isZero then .num false 0 0 false else (FVal.mul v s).1
    else if scale = 3 ∧ (fp32.value (c.scales.headD 0)).isZero ∧ v.special then .num false 0 0 false
    else v

/-- An E8M0 scale in FP32 (R45). -/
def e8m0Code (v : Nat) : BitVec 32 :=
  if v = 255 then BitVec.ofNat 32 fp32.nanCode else if v = 0 then 0x00400000 else BitVec.ofNat 32 (2 ^ 23 * v)

/-- The factor gW of block b (R45, R55): its MX scale, the TENSOR scale, or 1.  A block that lies wholly beyond the valid elements has no
scale byte, and its factor is 1, as is that of a column for which no TENSOR scale is read (log 133). -/
def Column.factor (fmt scale : Nat) (c : Column) (b : Nat) : BitVec 32 :=
  match scale with
  | 1 => if c.n ≤ 32 * b then gwOne else e8m0Code (c.scales.getD (if fmt = 0x7 then 2 * b else b) 127)
  | 3 => (match c.scales with | w :: _ => BitVec.ofNat 32 w | [] => gwOne)
  | _ => gwOne

/-- A column aligned: its containers, and its records by block; `free` counts free values (R55, R59).  An integer element keeps its code,
that of TERN 10b, whose value is 0, included (DESIGN CHOICE, log 115).  The cells and the exponent of a block with a NaN or infinite
element are free (log 21). -/
def Column.align (fmt scale free col : Nat) (c : Column) : Row × List (Nat × BlockRec) :=
  let blocks : List (List Nat × BlockRec) := (List.range (blockCount fmt)).map (fun b =>
    let gw := c.factor fmt scale b
    let bad := (factorOf gw).isNone
    if isIntFmt fmt then
      ((List.range 32).map (fun i => if 32 * b + i < c.n then rowElem fmt c.row (32 * b + i) else 0), { ew := 0, gw := gw, nan := bad })
    else
      let vs := (List.range 32).map (fun i => c.elem fmt scale (32 * b + i))
      let w := elemWidth fmt
      if vs.any FVal.special then
        ((List.range 32).map (fun i => Config.nanCell free (1024 * col + 32 * b + i) % 2 ^ w),
          { ew := (Config.nanCell free (65536 + 16 * col + b) % 2 ^ 15 : Nat), gw := gw, nan := true })
      else
        let (e, qs) := alignBlock (w - 1) (fun (x : Int) => decide ((2 : Int) ^ (w - 1) - 1 < x)) vs
        (qs.map (fun (q : Int) => (q % (2 : Int) ^ w).toNat), { ew := e, gw := gw, nan := bad }))
  (rowOfCells fmt (blocks.flatMap (fun b => b.1)), blocks.zipIdx.map (fun b => (b.2, b.1.2)))

/-- Columns aligned for a macro: the containers, and the records that differ from the default. -/
def alignColumns (fmt scale free : Nat) (cols : List Column) : List Row × SMap BlockRec :=
  let xs := cols.zipIdx.map (fun c => (c.2, c.1.align fmt scale free c.2))
  (xs.map (fun x => x.2.1),
    xs.flatMap (fun x => (x.2.2.filter (fun r => r.2 != recDefault)).map (fun r => (16 * x.1 + r.1, r.2))))

/-! ### Narrow sums and promotion (R57, R58) -/

/-- A narrow sum of nothing. -/
def Narrow.zero : Narrow := { m := 0, x := 0, nan := false }

/-- A finite value with 47 significant bits, m left-aligned (log 24). -/
def Narrow.ofExact (v q : Int) : Narrow :=
  if v = 0 then Narrow.zero
  else
    let top := bitLen v.natAbs
    let q' := q + top - 47
    let (n, _) := roundAt (v < 0) v.natAbs q false q' 0
    let (n, q') := if n = 2 ^ 47 then (2 ^ 46, q' + 1) else (n, q')
    { m := if v < 0 then -(n : Int) else n, x := q', nan := false }

/-- NarrowAdd of a floating pairing: B = bm × 2^be (R57). -/
def Narrow.add (n : Narrow) (bm be : Int) : Narrow :=
  if n.nan ∨ bm = 0 then n
  else
    let q := min n.x be
    Narrow.ofExact (n.m * 2 ^ (n.x - q).toNat + bm * 2 ^ (be - q).toNat) q

/-- NarrowAdd of an integer pairing, and IS (R57). -/
def Narrow.addInt (n : Narrow) (b : Int) : Narrow × Bool :=
  let v := n.m + b
  if v < -2 ^ 47 then ({ n with m := -2 ^ 47 }, true) else if 2 ^ 47 - 1 < v then ({ n with m := 2 ^ 47 - 1 }, true)
  else ({ n with m := v }, false)

/-- The exact value of a narrow sum. -/
def Narrow.value (n : Narrow) : FVal := if n.nan then .nan else .num (n.m < 0) n.m.natAbs n.x false

/-- An element of an accumulator, row * 64 + col. -/
def Acc.elem (a : Acc) (i : Nat) : BitVec 32 := SMap.getD a.elems 0 i
/-- A narrow sum of an accumulator. -/
def Acc.n (a : Acc) (i : Nat) : Narrow := SMap.getD a.narrow Narrow.zero i

/-- A list of 512 values as a map that lists what differs from a default. -/
def tabulate {α : Type} [DecidableEq α] (d : α) (f : Nat → α) : SMap α :=
  (List.range 512).filterMap (fun i => if f i = d then none else some (i, f i))

/-- An integer brought into INT32, and whether it saturated. -/
def satInt32 (v : Int) : BitVec 32 × Bool :=
  if v < -2 ^ 31 then (BitVec.ofInt 32 (-2 ^ 31), true) else if 2 ^ 31 - 1 < v then (BitVec.ofInt 32 (2 ^ 31 - 1), true)
  else (BitVec.ofInt 32 v, false)

/-- FP32 addition of codes with RNE, and OF. -/
def addFp32 (x : Nat) (y : Nat) : BitVec 32 × Bool :=
  let (c, fl) := fp32.finish 0 false (FVal.add 0 (fp32.value x) (fp32.value y)).1
  (BitVec.ofNat 32 c, fl.getLsbD 2)

/-- One element promoted: its new value, and OF or IS (R58). -/
def promoteElem (kind : AccKind) (e : BitVec 32) (n : Narrow) : BitVec 32 × Bool :=
  match kind with
  | .int32 => satInt32 (e.toInt + n.m)
  | _ =>
    let (c, fl) := fp32.finish 0 false n.value
    let (r, o) := addFp32 e.toNat c
    (r, o || fl.getLsbD 2)

/-- Promote (R58): no effect while the kind is NONE. -/
def Acc.promote (a : Acc) : Acc :=
  match a.kind with
  | .none => a
  | k =>
    let rs := (List.range 512).map (fun i => promoteElem k (a.elem i) (a.n i))
    let any := rs.any (fun r => r.2)
    { a with
      elems := rs.zipIdx.filterMap (fun r => if r.1.1 = 0 then none else some (r.2, r.1.1)), narrow := [], count := 0
      of := a.of || (any && k == .fp32), is := a.is || (any && k == .int32) }

/-! ### A job (R56, R59, R61, R62, R275) -/

/-- The integers of an A block over planes pA − 1 down to j. -/
def truncPlanes (j : Nat) (q : List Int) : List Int :=
  q.map (fun x => if x < 0 then -((x.natAbs / 2 ^ j * 2 ^ j : Nat) : Int) else ((x.natAbs / 2 ^ j * 2 ^ j : Nat) : Int))

/-- The product of a block, P. -/
def dot (a w : List Int) : Int := (List.zipWith (fun x y => x * y) a w).foldl (fun s x => s + x) 0

/-- A block term as m × 2^e: P × 2^(fA + fW) × gA × gW. -/
def blockTerm (p : Int) (a : ABlock) (w : WBlock) : Int × Int := (p * w.gm, a.f + w.f + w.ge)

/-- An exact m × 2^e. -/
def dyadic (t : Int × Int) : FVal := .num (t.1 < 0) t.1.natAbs t.2 false

/-- The sum of |qW| of a block. -/
def absSum (w : WBlock) : Nat := w.q.foldl (fun s x => s + x.natAbs) 0

/-- An element of an accumulator as a number. -/
def accValue (kind : AccKind) (e : BitVec 32) : FVal := match kind with | .int32 => ofInt e.toInt | _ => fp32.value e.toNat

/-- The early-exit test of R61 after plane j for one column: |V − τ| > Rem + μ. -/
def exitTest (kind : AccKind) (e : BitVec 32) (n : Narrow) (as : List ABlock) (ws : List WBlock) (j : Nat) (mu tau : FVal) : Bool :=
  let abs := as.zip ws
  let v0 := (FVal.add 0 (accValue kind e) n.value).1
  let v := abs.foldl (fun v p => (FVal.add 0 v (dyadic (blockTerm (dot (truncPlanes j p.1.q) p.2.q) p.1 p.2))).1) v0
  let rem := abs.foldl (fun r p =>
    (FVal.add 0 r (dyadic (((2 ^ j - 1 : Nat) : Int) * absSum p.2 * p.2.gm.natAbs, p.1.f + p.2.f + p.2.ge))).1) mu
  match (FVal.add 0 v tau.negate).1 with
  | .nan => false
  | .inf _ => true
  | .num _ m x t => rem.cmp (.num false m x t) == -1

/-- The plane after which a row stops, if it stops early (R61). -/
def exitPlane (pA : Nat) (test : Nat → Bool) : Option Nat := ((List.range (pA - 1)).map (fun i => pA - 1 - i)).find? test

/-- A term of an integer pairing, an integer; a factor gW that makes it none can come from a loaded context alone, and no rule states its
sum (log 134). -/
def intTerm (t : Int × Int) : Int :=
  if 0 ≤ t.2 then t.1 * 2 ^ t.2.toNat
  else if t.1 % 2 ^ (-t.2).toNat = 0 then t.1 / 2 ^ (-t.2).toNat
  else Config.fractionTerm t.1 t.2

/-- The sums of a row after a job: for each column the narrow sum and IS. -/
def rowSums (kind : AccKind) (n : Nat → Narrow) (as : List ABlock) (cols : List (List WBlock)) (j : Nat)
    (err : Nat → Nat → Int) : List (Narrow × Bool) :=
  let badA := as.any (fun a => a.bad)
  cols.zipIdx.map (fun c =>
    if badA || c.1.any (fun w => w.nan) then ({ m := 0, x := 0, nan := true }, false)
    else (as.zip c.1).zipIdx.foldl (fun acc p =>
      let (a, w) := p.1
      let t := blockTerm (dot (truncPlanes j a.q) w.q + err c.2 p.2) a w
      match kind with
      | .int32 => let r := acc.1.addInt (intTerm t); (r.1, acc.2 || r.2)
      | _ => (acc.1.add t.1 t.2, acc.2)) (n c.2, false))

/-- The relaxed error of a block: an integer between −K and K, K = (2^L − 1) × Σ |qW| (R62). -/
def relaxErr (free l : Nat) (w : WBlock) (i : Nat) : Int :=
  let k : Int := ((2 ^ l - 1) * absSum w : Nat)
  Config.relaxedError (free + i) % (2 * k + 1) - k

/-- How a job runs: exact, with a margin and a threshold, or relaxed with L planes and a count of free values. -/
inductive JobMode where
  | exact
  | decide (mu tau : FVal)
  | relaxed (l free : Nat)
  deriving DecidableEq, Repr

/-- The accumulator after the rows of a job (R56 to R62, R275). -/
def runJob (a0 : Acc) (zero : Bool) (fmta : Nat) (rows : List Row) (cols : List (List WBlock)) (interval : Nat) (mode : JobMode)
    (denied : Bool) : Acc :=
  let a := if zero then Acc.reset else a0
  let kind := if a.kind = .none then pairKind fmta else a.kind
  let nb := blockCount fmta
  let as (r : Nat) : List ABlock := (List.range nb).map (alignA fmta (rows.getD r 0) (rows.getD (r + 8) 0))
  let sums := (List.range 8).map (fun r =>
    let ar := as r
    match mode with
    | .exact => (rowSums kind (fun c => a.n (64 * r + c)) ar cols 0 (fun _ _ => 0), false)
    | .decide mu tau =>
      let stop := exitPlane (planes fmta) (fun j =>
        cols.zipIdx.all (fun c =>
          !(ar.any (fun x => x.bad) || c.1.any (fun w => w.nan)) &&
            exitTest kind (a.elem (64 * r + c.2)) (a.n (64 * r + c.2)) ar c.1 j mu tau))
      (rowSums kind (fun c => a.n (64 * r + c)) ar cols (stop.getD 0) (fun _ _ => 0), stop.isSome)
    | .relaxed l free =>
      let err (c b : Nat) : Int :=
        match (cols.getD c [])[b]? with | some w => relaxErr free l w ((64 * r + c) * 64 + b) | none => 0
      (rowSums kind (fun c => a.n (64 * r + c)) ar cols 0 err, false))
  let flat := sums.flatMap (fun r => r.1)
  let bad := (List.range 8).any (fun r => (as r).any (fun x => x.bad || x.tern)) || cols.any (fun c => c.any (fun w => w.nan || w.tern))
  let exit := sums.zipIdx.foldl (fun (x : BitVec 8) r => if r.1.2 then x ||| (1 <<< r.2) else x) 0
  let a' : Acc := { a with
    kind := kind, narrow := flat.zipIdx.filterMap (fun n => if n.1.1 = Narrow.zero then none else some (n.2, n.1.1))
    count := a.count + 1, nv := a.nv || bad, is := a.is || flat.any (fun n => n.2), rden := a.rden || denied, exit := exit }
  if interval ≤ a'.count then a'.promote else a'

end Sys2Proof.Machine
end

