-- ==== Sys2Proof/Machine/Matrix.lean ====
section
/-!
DEFINITION. The matrix instructions (R266 to R283), and the events of the matrix engine, of the weight port and of the tile unit (R253,
R270, R275, R280).
-/

namespace Sys2Proof.Machine

/-! ### Regions, locks and errors (R269, R279, R283) -/

/-- TVAL of matrix operand error (R269). -/
def operandVal (opnd code : Nat) : Word := word (opnd * 256 + code)

/-- Raises matrix operand error where the condition holds. -/
def operandError (b : Bool) (opnd code : Nat) : Act Unit := trapIf b 30 (operandVal opnd code)

/-- The accumulators that an instruction reads and writes (R283, R334). -/
def useAccs (reads writes : List Nat) : Act Unit := do
  match (← getC).region with
  | none => pure ()
  | some r =>
    (match writes.find? (fun a => r.rbwAcc.getLsbD a) with
     | some a => trap 25 (legalityVal 2 a)
     | none => pure ())
    let rd := reads.foldl (fun (r : Region) a => if r.wrAcc.getLsbD a then r else { r with rbwAcc := r.rbwAcc ||| (1 <<< a) }) r
    modC (fun c => { c with region := some (writes.foldl (fun (r : Region) a => { r with wrAcc := r.wrAcc ||| (1 <<< a) }) rd) })

/-- A macro that a job reads. -/
def readMacro (m : Nat) : Act Unit :=
  modC (fun c => { c with region := c.region.map (fun r => { r with rbwMac := r.rbwMac ||| (1 <<< m) }) })

/-- A macro that a weight job writes (R334). -/
def writeMacro (m : Nat) : Act Unit := do
  match (← getC).region with
  | none => pure ()
  | some r => trapIf (r.rbwMac.getLsbD m) 25 (legalityVal 3 m)

/-- A matrix job of the core holds an accumulator (R279). -/
def Core.accLocked (c : Core) (a : Nat) : Bool := c.matJobs.any (fun j => j.ad == a)

/-- Waits until the accumulators are unlocked, and reads them: their rows are clean. -/
def accsFree (as : List Nat) : Act Unit := do
  let c ← getC
  waitUntil (as.all (fun a => !c.accLocked a))

/-- The rows of an accumulator are read: none may be poisoned (R405). -/
def cleanAcc (a : Nat) : Act Unit := (List.range 8).forM (fun r => noPoison 0 (128 + 8 * a + r))

/-- An accumulator of a core. -/
def Core.acc (c : Core) (a : Nat) : Acc := vget c.accs Acc.reset a
/-- The core with an accumulator replaced. -/
def Core.setAcc (c : Core) (a : Nat) (x : Acc) : Core := { c with accs := vset c.accs a x }
/-- The core with an accumulator overwritten: its poison is cleared (R404). -/
def Core.putAcc (c : Core) (a : Nat) (x : Acc) : Core :=
  { c with accs := vset c.accs a x, poison := c.poison.filter (fun q => q.1 != 0 || q.2 < 128 + 8 * a || 128 + 8 * a + 8 ≤ q.2) }

/-- The claim check of a macro (R358). -/
def macroClaim (m cause : Nat) : Act Unit := do
  trapIf (!claims (← getC) .bufW) cause (word (2 ^ 61 + 8192 * m))

/-- The macro state that the core's earlier weight jobs leave (R269): loaded, and the format. -/
def Core.nextMacro (c : Core) (m : Nat) : Bool × Nat :=
  match (c.wJobs.filter (fun j => j.mac == m)).getLast? with
  | some j => (j.kind != 2, j.fmt)
  | none => ((vget c.macs MacroState.reset m).loaded, (vget c.macs MacroState.reset m).fmt)

/-- The kind that the core's earlier matrix jobs leave an accumulator (R269). -/
def Core.nextKind (c : Core) (a : Nat) : AccKind :=
  (c.matJobs.filter (fun j => j.ad == a)).foldl (fun k j => if j.zero || k == .none then pairKind j.fmta else k) (c.acc a).kind

/-! ### Weight instructions (R270 to R272) -/

/-- Issues a weight job. -/
def issueWeight (kind m fmt handle : Nat) (cols : List Row) (recs : SMap BlockRec) : Act Unit := do
  afterAcquire
  let n ← nextStamp
  let j : WJob := { kind := kind, mac := m, fmt := fmt, handle := handle, started := false, order := n, cols := cols, recs := recs }
  modC (fun c => { c with wJobs := c.wJobs ++ [j] })

/-- The bytes per block of the scales in memory (R46). -/
def scaleBytes (fmt : Nat) : Nat := if fmt = 0x7 then 2 else 1
/-- The elements per scale of a mode, MX or B16. -/
def scaleBlock (scale : Nat) : Nat := if scale = 2 then 16 else 32

/-- The scale containers of descriptor row ρ with n valid elements: address and size, in order (R46, R271). -/
def scalePieces (d : Desc) (rho n : Nat) : List (Nat × Nat) :=
  match d.scale with
  | 0 => []
  | 3 => [(d.sbase, 4)]
  | m =>
    let blk := scaleBlock m
    let by' := scaleBytes d.fmt
    let perRun := (d.size 0 + blk - 1) / blk
    let first := rho % d.nc * elemCount d.code / blk
    (List.range ((n + blk - 1) / blk * by')).map (fun i =>
      ((d.sbase + (rho / d.nc * perRun + first) * by' + i) % 2 ^ 64, 1))

/-- An element's read goes before the first scale's read whose address is not below its own; the rest is merged by `rest`. -/
def placeRead (x : Nat × Nat) (rest : List (Nat × Nat) → List (Bool × Nat × Nat)) : List (Nat × Nat) → List (Bool × Nat × Nat)
  | [] => (true, x) :: rest []
  | y :: ys => if y.1 < x.1 then (false, y) :: placeRead x rest ys else (true, x) :: rest (y :: ys)

/-- Merges two lists of reads by ascending address; true marks an element. -/
def mergeReads : List (Nat × Nat) → List (Nat × Nat) → List (Bool × Nat × Nat)
  | [] => fun ys => ys.map (fun y => (false, y))
  | x :: xs => placeRead x (mergeReads xs)

/-- The row that a column takes: the number wraps at 2^64 (R271). -/
def columnRow (d : Desc) (start col : Nat) : Nat := (start + col * d.nc) % 2 ^ 64

/-- The reads of a column: the row, its containers and its scales in ascending address order; without an ABSENT bit the TENSOR scale is
read for a column beyond the tensor too, since it is its factor (R271). -/
def columnReads (d : Desc) (start col : Nat) : List (Bool × Nat × Nat) :=
  let rho := columnRow d start col
  match d.row rho with
  | none => if d.absent || d.scale != 3 then [] else [(false, d.sbase, 4)]
  | some (a, n) => mergeReads ((pieces d.code a n).map (fun p => (p.addr, p.size))) (scalePieces d rho n)

/-- A column from the values of its reads. -/
def columnOf (d : Desc) (start col : Nat) (reads : List (Bool × Nat × Nat)) (vals : List Nat) : Column :=
  let xs := reads.zip vals
  let n := match d.row (columnRow d start col) with | some (_, n) => n | none => 0
  let es := xs.filter (fun x => x.1.1)
  { row := (es.foldl (fun (acc : Row × Nat) x => (rowPut acc.1 acc.2 x.1.2.2 x.2, acc.2 + x.1.2.2)) (0, 0)).1
    n := n, scales := (xs.filter (fun x => !x.1.1)).map (fun x => x.2) }

/-- Splits the values of all reads among the columns. -/
def splitColumns (d : Desc) (start : Nat) : List (Nat × List (Bool × Nat × Nat)) → List Nat → List Column
  | [], _ => []
  | (col, rs) :: rest, vals => columnOf d start col rs (vals.take rs.length) :: splitColumns d start rest (vals.drop rs.length)

/-- The checks of a list of plain loads, in order. -/
def checkReads : List (Nat × Nat) → Act (List (Word × Nat × (Place × Policy)))
  | [] => return []
  | (a, n) :: rest => do
    let pl ← checkAccess .load (word a) n 0
    let more ← checkReads rest
    return (word a, n, pl) :: more

/-- Aligns columns, using up one free value. -/
def alignNow (fmt scale : Nat) (cols : List Column) : Act (List Row × SMap BlockRec) := do
  let s ← get
  set { s with free := s.free + 1 }
  return alignColumns fmt scale s.free cols

/-- WLD: its reads perform at issue (log 25). -/
def execWld (g : BitVec 4) (desc : BitVec 8) (a : BitVec 4) (s : State) : Out :=
  runInstr (do
    let s0 ← get
    let x ← readReg a.toNat
    let m := g.toNat
    macroClaim m 7
    let d := teamTd s0 s0.cur desc.toNat
    operandError (d.code == 16) m 0x06
    writeMacro m
    let plan := (List.range 64).map (fun col => (col, columnReads d x.toNat col))
    let els ← checkReads (plan.flatMap (fun p => p.2.map (fun r => r.2)))
    let vals ← gather s0 els
    let (cols, recs) ← alignNow d.code d.scale (splitColumns d x.toNat plan vals)
    issueWeight 0 m d.code 0 cols recs
    retire 4) s

/-- The bytes that a slot needs for WLDH. -/
def weightSlot (fmt : Nat) : Nat := if fmt = 0x7 then 9216 else 8192

/-- WLDH. -/
def execWldh (g : BitVec 4) (fmt : BitVec 4) (h : BitVec 3) (s : State) : Out :=
  runInstr (do
    let m := g.toNat
    macroClaim m 7
    let hd := vget (← getC).handles Handle.reset h.toNat
    trapIf (hd.size < weightSlot fmt.toNat || hd.count == 0) 34 (word h.toNat)
    writeMacro m
    issueWeight 1 m fmt.toNat h.toNat [] []
    retire 4) s

/-- WCLR. -/
def execWclr (g : BitVec 4) (s : State) : Out :=
  runInstr (do
    macroClaim g.toNat 7
    writeMacro g.toNat
    issueWeight 2 g.toNat 0 0 (List.replicate 64 0) []
    retire 4) s

/-! ### MMA and MMAZ (R273 to R275) -/

/-- e2 is outside R61: τ or μ not finite, or μ negative. -/
def badDecision (e2 : Word) : Bool :=
  let mu := fp32.value (e2.toNat % 2 ^ 32)
  let tau := fp32.value (e2.toNat / 2 ^ 32)
  mu.special || tau.special || (mu.neg && !mu.isZero)

/-- The bytes that a slot needs for A. -/
def matrixSlot (fmta : Nat) : Nat := if fmta = 0x7 then 2048 else 1024

/-- Issue of a matrix job, which waits for an earlier acquire (R121).  A job that runs on a port counts among the four of its core until it
completes (R280; log 124).  The slot of a handle is checked after every operand condition, and a handle without slots has none that
is large enough (R274; log 136). -/
def issueMatrix (zero : Bool) (ad : BitVec 2) (ta : BitVec 3) (ha : BitVec 1) (wm p : BitVec 4) (mode : BitVec 2) (fmta : BitVec 4) :
    Act Unit := do
  let m := wm.toNat
  let f := fmta.toNat
  macroClaim m 5
  let c ← getC
  let (loaded, wf) := c.nextMacro m
  operandError (!loaded) m 0x02
  operandError (!pairs f wf) m 0x01
  if mode = 1 then noPoison 0 18
  if mode = 2 then noPoison 0 19
  let e2 := vget c.ext 0 2
  let e3 := vget c.ext 0 3
  operandError (mode == 1 && badDecision e2) m 0x04
  operandError (mode == 2 && planes f ≤ e3.toNat % 32) m 0x05
  operandError (!zero && c.nextKind ad.toNat != .none && c.nextKind ad.toNat != pairKind f) ad.toNat 0x03
  let hd := vget c.handles Handle.reset ta.toNat
  trapIf (ha == 1 && (hd.size < matrixSlot f || hd.count == 0)) 34 (word ta.toNat)
  afterAcquire
  waitUntil (c.matJobs.length < 4)
  let ts := if ha = 1 then [] else if f = 0x7 then [ta.toNat, ta.toNat + 1] else [ta.toNat]
  waitUntil (ts.all (fun t => !c.tilePending t))
  useTiles ts []
  useAccs (if zero then [] else [ad.toNat]) [ad.toNat]
  readMacro m
  let n ← nextStamp
  modC (fun c => { c with matJobs := c.matJobs ++ [
    { zero := zero, ad := ad.toNat, ta := ta.toNat, handle := ha == 1, mac := m, fmta := f, interval := p.toNat + 1
      mode := mode.toNat, e2 := e2, e3 := e3, order := n, port := none, rows := [] }] })
  retire 4

/-- MMA. -/
def execMma (ad : BitVec 2) (ta : BitVec 3) (ha : BitVec 1) (wm p : BitVec 4) (mode : BitVec 2) (fmta : BitVec 4) (s : State) : Out :=
  runInstr (issueMatrix false ad ta ha wm p mode fmta) s
/-- MMAZ. -/
def execMmaz (ad : BitVec 2) (ta : BitVec 3) (ha : BitVec 1) (wm p : BitVec 4) (mode : BitVec 2) (fmta : BitVec 4) (s : State) : Out :=
  runInstr (issueMatrix true ad ta ha wm p mode fmta) s

/-! ### Accumulator instructions (R276 to R278) -/

/-- APROM. -/
def execAprom (g : BitVec 2) (s : State) : Out :=
  runInstr (do
    accsFree [g.toNat]
    useAccs [g.toNat] []
    cleanAcc g.toNat
    modC (fun c => c.setAcc g.toNat (c.acc g.toNat).promote)
    retire 4) s

/-- ACLR. -/
def execAclr (g : BitVec 2) (s : State) : Out :=
  runInstr (do
    accsFree [g.toNat]
    useAccs [] [g.toNat]
    modC (fun c => c.putAcc g.toNat Acc.reset)
    retire 4) s

/-- AMOV: with aD = aS it promotes only. -/
def execAmov (g a : BitVec 2) (s : State) : Out :=
  runInstr (do
    accsFree [g.toNat, a.toNat]
    useAccs [a.toNat] [g.toNat]
    cleanAcc a.toNat
    modC (fun c => c.setAcc a.toNat (c.acc a.toNat).promote)
    if g ≠ a then
      modC (fun c =>
        let src := c.acc a.toNat
        c.putAcc g.toNat { c.acc g.toNat with kind := src.kind, elems := src.elems, narrow := [], count := 0 })
    retire 4) s

/-- The sum of two promoted accumulators of one kind. -/
def accSum (d s : Acc) : Acc :=
  let rs : List (BitVec 32 × Bool) := (List.range 512).map (fun i =>
    match d.kind with
    | .int32 => satInt32 ((d.elem i).toInt + (s.elem i).toInt)
    | _ => addFp32 (d.elem i).toNat (s.elem i).toNat)
  let any := rs.any (fun r => r.2)
  { d with elems := rs.zipIdx.filterMap (fun r => if r.1.1 = 0 then none else some (r.2, r.1.1))
           of := d.of || (any && d.kind == .fp32), is := d.is || (any && d.kind == .int32) }

/-- AADD. -/
def execAadd (g a : BitVec 2) (s : State) : Out :=
  runInstr (do
    accsFree [g.toNat, a.toNat]
    let c ← getC
    let kd := (c.acc g.toNat).kind
    let ks := (c.acc a.toNat).kind
    operandError (kd != .none && ks != .none && kd != ks) a.toNat 0x03
    useAccs [g.toNat, a.toNat] [g.toNat]
    cleanAcc g.toNat
    cleanAcc a.toNat
    modC (fun c => (c.setAcc g.toNat (c.acc g.toNat).promote))
    modC (fun c => (c.setAcc a.toNat (c.acc a.toNat).promote))
    modC (fun c =>
      let d := c.acc g.toNat
      let src := c.acc a.toNat
      match d.kind, src.kind with
      | _, .none => c
      | .none, _ => c.setAcc g.toNat { d with kind := src.kind, elems := src.elems }
      | _, _ => c.setAcc g.toNat (accSum d src))
    retire 4) s

/-- The place of a spill image in the core's C buffer (R277). -/
def imagePlace (st : Bool) (x : Word) : Act Place := do
  trapIf (x.toNat % 64 != 0) (if st then 6 else 4) x
  let s ← get
  match decodePtr s s.cur x with
  | some (.buf t b off) =>
    if t = s.cur ∧ b = .bufC ∧ off + 2112 ≤ 32768 ∧ claims s.core .bufC = true then return { space := b, key := t, addr := off }
    else trap (if st then 7 else 5) x
  | _ => trap (if st then 7 else 5) x

/-- The code of a kind (R277). -/
def AccKind.code : AccKind → Nat
  | .none => 0
  | .fp32 => 1
  | .int32 => 2

/-- A byte of the spill image of a promoted accumulator. -/
def imageByte (a : Acc) (i : Nat) : Byte :=
  if i < 2048 then ((a.elem (i / 4)) >>> (8 * (i % 4))).setWidth 8 else if i = 2048 then BitVec.ofNat 8 a.kind.code else 0

/-- ALD. -/
def execAld (g : BitVec 2) (a : BitVec 4) (s : State) : Out :=
  runInstr (do
    let s0 ← get
    let x ← readReg a.toNat
    accsFree [g.toNat]
    let p ← imagePlace false x
    let vs ← gather s0 ((List.range 33).map (fun i => (x + word (64 * i), 64, ({ p with addr := p.addr + 64 * i }, .direct))))
    let last := vs.getD 32 0
    operandError (2 < last % 256 || last / 256 % 2 ^ 504 != 0) g.toNat 0x07
    useAccs [] [g.toNat]
    let el (i : Nat) : BitVec 32 := BitVec.ofNat 32 (vs.getD (i / 16) 0 / 2 ^ (32 * (i % 16)))
    modC (fun c => c.putAcc g.toNat { Acc.reset with
      kind := match last % 256 with | 1 => .fp32 | 2 => .int32 | _ => .none
      elems := tabulate 0 el })
    retire 4) s

/-- AST: 33 stores of 64 bytes. -/
def execAst (g : BitVec 2) (a : BitVec 4) (s : State) : Out :=
  runInstr (withStores do
    let x ← readReg a.toNat
    accsFree [g.toNat]
    let p ← imagePlace true x
    useAccs [g.toNat] []
    cleanAcc g.toNat
    modC (fun c => c.setAcc g.toNat (c.acc g.toNat).promote)
    let acc := (← getC).acc g.toNat
    storeMany ((List.range 33).map (fun i =>
      { pl := ({ p with addr := p.addr + 64 * i }, .direct), ea := x + word (64 * i)
        bytes := (List.range 64).map (fun j => (j, imageByte acc (64 * i + j))), pair := false }))
    retire 4) s

/-- The conversion of an element of an accumulator (R51, R278): the code, NV and OF.  NONE is taken as FP32 zeros. -/
def accConvert (kind : AccKind) (code mode : Nat) (sat : Bool) (e : BitVec 32) : Nat × Bool × Bool :=
  let x := if kind = .none then .num false 0 0 false else accValue kind e
  let (r, fl) :=
    match ffmt code with
    | some f => f.convert mode sat x
    | none =>
      let (lo, hi) := (intRange code).getD (0, 0)
      let (v, fl) := toInt mode lo hi x
      (intCode code v, fl)
  (r, fl.getLsbD 4, fl.getLsbD 2)

/-- The flags of conversions go to the accumulator (R278). -/
def Acc.flagged (a : Acc) (rs : List (Nat × Bool × Bool)) : Acc :=
  { a with nv := a.nv || rs.any (fun r => r.2.1), of := a.of || rs.any (fun r => r.2.2) }

/-- ACVT. -/
def execAcvt (g fmt : BitVec 4) (sat : BitVec 1) (rm : BitVec 3) (a : BitVec 2) (s : State) : Out :=
  runInstr (do
    let t := g.toNat
    let code := fmt.toNat
    let ts := if code = 0xF then [t, t + 1] else [t]
    accsFree [a.toNat]
    tilesFree ts
    let mode ← modeOf rm
    useAccs [a.toNat] []
    useTiles [] ts
    cleanAcc a.toNat
    let acc := ((← getC).acc a.toNat).promote
    let rs := (List.range 512).map (fun i => accConvert acc.kind code mode (sat == 1) (acc.elem i))
    let cs := rs.map (fun r => r.1)
    let rowAt (r n first : Nat) : Row := rowOf code ((cs.drop (64 * r + first)).take n)
    modC (fun c => (c.setAcc a.toNat (acc.flagged rs)).setRows ((List.range 8).flatMap (fun r =>
      if code = 0xF then [(t, r, rowAt r 32 0), (t + 1, r, rowAt r 32 32)] else [(t, r, rowAt r 64 0)])))
    retire 4) s

/-! ### AEPI and MSTAT (R281, R282) -/

/-- The converted elements of an epilogue that are written: row, address, code and flags. -/
def epilogue (d : Desc) (acc : Acc) (act row0 col0 : Nat) : List (Nat × Nat × (Nat × Bool × Bool)) :=
  let w := elemWidth d.code
  (List.range 8).flatMap (fun r =>
    if d.dim 1 ≤ row0 + r then []
    else (List.range (min 64 (d.size 0 - col0))).map (fun c =>
      let x := accConvert acc.kind d.code 0 true (acc.elem (64 * r + c))
      let neg : Bool := match ffmt d.code with
        | some f => f.value x.1 != .nan && (f.value x.1).neg
        | none => decide ((intValue d.code x.1).1 < 0)
      (r, (d.base + (col0 + c) * (w / 8) + (row0 + r) * d.stride 1) % 2 ^ 64, (if act = 1 ∧ neg = true then 0 else x.1, x.2))))

/-- The checks of the stores of an epilogue, given by row, address and value, in order. -/
def checkStores (size : Nat) : List (Nat × Nat × Nat) → Act (List StorePiece)
  | [] => return []
  | (r, a, v) :: rest => do
    let pl ← checkAccess .store (word a) size 0
    let more ← checkStores size rest
    return { row := r, addr := a, size := size, value := v, pl := pl } :: more

/-- AEPI. -/
def execAepi (g : BitVec 2) (desc : BitVec 8) (a : BitVec 4) (s : State) : Out :=
  runInstr (withStores do
    let x ← readReg a.toNat
    let n := x.toNat
    accsFree [g.toNat]
    let s1 ← get
    let d := teamTd s1 s1.cur desc.toNat
    operandError (elemWidth d.code < 8 || d.code == 16 || d.scale != 0) g.toNat 0x06
    operandError (n / 2 ^ 50 != 0 || 2 ≤ n / 2 ^ 48 % 4) g.toNat 0x08
    let acc := (s1.core.acc g.toNat).promote
    let es := epilogue d acc (n / 2 ^ 48 % 4) (n / 2 ^ 24 % 2 ^ 24) (n % 2 ^ 24)
    let st ← checkStores (elemWidth d.code / 8) (es.map (fun e => (e.1, e.2.1, e.2.2.1)))
    (match st.head? with
     | some p => trapIf d.rdonly 27 (word p.addr)
     | none => pure ())
    useAccs [g.toNat] []
    cleanAcc g.toNat
    modC (fun c => c.setAcc g.toNat (acc.flagged (es.map (fun e => e.2.2))))
    storeMany (blocksOf st)
    retire 4) s

/-- MSTAT's value (R282). -/
def mstatWord (a : Acc) : Word :=
  word (a.exit.toNat * 2 ^ 16 + a.kind.code * 2 ^ 8 + (if a.rden then 8 else 0) + (if a.nv then 4 else 0) + (if a.of then 2 else 0)
    + (if a.is then 1 else 0))

/-- MSTAT. -/
def execMstat (g : BitVec 4) (a : BitVec 2) (s : State) : Out :=
  runInstr (do
    accsFree [a.toNat]
    useAccs [a.toNat] []
    cleanAcc a.toNat
    let acc := ((← getC).acc a.toNat).promote
    writeReg g.toNat (mstatWord acc)
    modC (fun c => c.setAcc a.toNat { acc with nv := false, of := false, is := false, rden := false })
    retire 4) s

/-! ### The engine: ready jobs, starts and ends (R270, R275, R280) -/

/-- Job j of a core is ready (R280): no earlier job that has not ended shares its accumulator, its macro or a tile that it has still to
load, and its handle has a slot. -/
def Core.jobReady (c : Core) (j : MatJob) : Bool :=
  let tiles (x : MatJob) : List Nat := if x.handle then [] else if x.fmta = 7 then [x.ta, x.ta + 1] else [x.ta]
  j.port.isNone
    && c.matJobs.all (fun x => j.order ≤ x.order || (x.ad != j.ad && x.mac != j.mac
        && (x.port.isSome || (tiles x).all (fun t => !(tiles j).contains t))))
    && c.wJobs.all (fun x => j.order ≤ x.order || x.mac != j.mac)
    && (!j.handle || 1 ≤ (vget c.handles Handle.reset j.ta).filled)

/-- The free compute port of a herd, if any (R24: two). -/
def freePort (s : State) (h : Nat) : Option Nat :=
  (List.range 2).find? (fun p => (List.range 8).all (fun i =>
    (coreAt s (herdCore h i)).matJobs.all (fun j => j.port != some p)))

/-- The next core of a herd with a ready job, and that job, after the core served last (R280). -/
def nextJob (s : State) (h : Nat) : Option (Nat × MatJob) :=
  (List.range 8).findSome? (fun i =>
    let k := herdCore h (((herdAt s h).served + 1 + i) % 8)
    if contained s k then none
    else ((coreAt s k).matJobs.find? (fun j => (coreAt s k).jobReady j)).map (fun j => (k, j)))

/-- The A rows of a job: its tile, or the head slot of its handle (R274). -/
def jobARows (c : Core) (j : MatJob) : List Row :=
  (List.range (if j.fmta = 7 then 16 else 8)).map (fun r =>
    if j.handle then
      let h := vget c.handles Handle.reset j.ta
      BitVec.ofNat 1024 (leNat (fun i => SMap.getD c.bufA 0 (h.base + h.size * h.head + 128 * r + i)) 128)
    else c.row (j.ta + r / 8) (r % 8))

/-- A poisoned granule among the A rows of a job. -/
def jobPoison (s : State) (k : Nat) (j : MatJob) : Option (Nat × Nat) :=
  let c := coreAt s k
  let n := if j.fmta = 7 then 16 else 8
  if j.handle then
    let h := vget c.handles Handle.reset j.ta
    poisonAt s { space := .bufA, key := k, addr := h.base + h.size * h.head } (128 * n)
  else if (List.range n).any (fun r => c.poison.contains (0, 64 + 8 * (j.ta + r / 8) + r % 8)) then some (0, 0) else none

/-- The core with one of its jobs changed. -/
def Core.modJob (c : Core) (order : Nat) (f : MatJob → MatJob) : Core :=
  { c with matJobs := c.matJobs.map (fun j => if j.order = order then f j else j) }

/-- A ready job of a herd starts on a free port, if there is one (R275, R280): one that finds its macro EMPTY has no effect, raises
cause 30 as a deferred trap, and withdraws the core's later jobs that have not started (R269).  A relaxed job that is not granted runs as
mode 4, exact with RDEN; with L = 0 it runs exact and leaves RDEN as it is, granted or not (R62; DESIGN CHOICE, log 102). -/
def startMatrix (s : State) (h : Nat) : Option State :=
  match freePort s h, nextJob s h with
  | some p, some (k, j) =>
    let s := modHerdAt s h (fun x => { x with served := posOf k })
    let c := coreAt s k
    if (vget c.macs MacroState.reset j.mac).loaded then
      match jobPoison s k j with
      | some (u, a) => some (consumeAt (modCoreAt s k (fun c => { c with matJobs := c.matJobs.filter (fun x => x.order != j.order) })) k u a)
      | none =>
        let granted := c.clkg.getLsbD 25 && (match c.team.bind (teamAt s) with | some t => t.lb.clock.getLsbD 25 | none => false)
        let mode := if j.mode = 2 ∧ j.e3.toNat % 32 ≠ 0 ∧ granted = false then 4 else j.mode
        some (modCoreAt s k (fun c => { c.modJob j.order (fun x => { x with port := some p, rows := jobARows c j, mode := mode })
                                        with stalled := false }))
    else
      let s := raiseDeferred s k 30 (operandVal j.mac 0x02)
      some (modCoreAt s k (fun c => { c with
        matJobs := c.matJobs.filter (fun x => x.order < j.order || (j.order < x.order && x.port.isSome)), stalled := false }))
  | _, _ => none

/-- The mode in which a started job runs. -/
def MatJob.runMode (j : MatJob) (free : Nat) : JobMode :=
  if j.mode = 1 then .decide (fp32.value (j.e2.toNat % 2 ^ 32)) (fp32.value (j.e2.toNat / 2 ^ 32))
  else if j.mode = 2 ∧ j.e3.toNat % 32 ≠ 0 then .relaxed (j.e3.toNat % 32) free
  else .exact

/-- A poisoned row of an accumulator. -/
def Core.accPoison (c : Core) (a : Nat) : Bool :=
  c.poison.any (fun q => q.1 == 0 && 128 + 8 * a ≤ q.2 && q.2 < 128 + 8 * a + 8)

/-- The job on a port of a herd completes (R275): its products reach the accumulator; a poisoned macro row, and a poisoned row of an
accumulator that the job adds to, is consumed (R405).  MMAZ overwrites the accumulator, whose poison it clears (R404).  Of a macro
that a copy-unit write has made EMPTY since the start the blocks are free values (log 135). -/
def finishMatrix (s : State) (h p : Nat) : Option State :=
  match (List.range 8).findSome? (fun i =>
      let k := herdCore h i
      ((coreAt s k).matJobs.find? (fun j => j.port == some p)).map (fun j => (k, j))) with
  | none => none
  | some (k, j) =>
    let c := coreAt s k
    let drop (c : Core) : Core := { c with matJobs := c.matJobs.filter (fun x => x.order != j.order), stalled := false }
    if c.macroPoison j.mac then some (consumeAt (modCoreAt s k drop) k 2 0)
    else if !j.zero && c.accPoison j.ad then some (consumeAt (modCoreAt s k drop) k 0 0)
    else
      let live := (vget c.macs MacroState.reset j.mac).loaded
      let cols := (List.range 64).map (fun col =>
        if live then c.wBlocks j.mac col else (List.range (blockCount j.fmta)).map (fun b => emptyW s.free (16 * col + b)))
      let acc := runJob (c.acc j.ad) j.zero j.fmta j.rows cols j.interval (j.runMode s.free) (j.mode == 4)
      let s := if j.mode = 2 then { s with free := s.free + 32768 } else if live then s else { s with free := s.free + 1 }
      some (modCoreAt s k (fun c => if j.zero then (drop c).putAcc j.ad acc else (drop c).setAcc j.ad acc))

/-- A weight job of a core may start (R270, R272): none of its port runs, every earlier matrix job of the core on its macro has
completed, and its handle has a slot. -/
def weightReady (c : Core) (j : WJob) : Bool :=
  c.wJobs.all (fun x => !x.started)
    && c.matJobs.all (fun x => j.order < x.order || x.mac != j.mac)
    && (j.kind != 1 || 1 ≤ (vget c.handles Handle.reset j.handle).filled)

/-- The columns of the head slot of a handle (R272). -/
def slotColumns (c : Core) (h fmt : Nat) : List Column :=
  let hd := vget c.handles Handle.reset h
  let base := hd.base + hd.size * hd.head
  let byte (i : Nat) : Byte := SMap.getD c.bufA 0 (base + i)
  (List.range 64).map (fun col =>
    { row := BitVec.ofNat 1024 (leNat (fun i => byte (128 * col + i)) 128), n := elemCount fmt
      scales := if fmt = 0x7 then (List.range 16).map (fun i => (byte (8192 + 16 * col + i)).toNat) else [] })

/-- The oldest weight job of a core starts, if it can. -/
def startWeight (s : State) (k : Nat) : Option State :=
  let c := coreAt s k
  match c.wJobs with
  | [] => none
  | j :: rest =>
    if !weightReady c j || contained s k then none
    else
      let hd := vget c.handles Handle.reset j.handle
      match (if j.kind = 1 then poisonAt s { space := .bufA, key := k, addr := hd.base + hd.size * hd.head } (weightSlot j.fmt) else none) with
      | some (u, a) => some (consumeAt (setCoreAt s k { c with wJobs := rest }) k u a)
      | none =>
        if j.kind = 1 then
          let (cols, recs) := alignColumns j.fmt (if j.fmt = 0x7 then 1 else 0) s.free (slotColumns c j.handle j.fmt)
          some (setCoreAt { s with free := s.free + 1 } k
            { c with wJobs := { j with started := true, cols := cols, recs := recs } :: rest, stalled := false })
        else some (setCoreAt s k { c with wJobs := { j with started := true } :: rest, stalled := false })

/-- The running weight job of a core completes: its cells are written, and the macro is LOADED or EMPTY (R270, R271). -/
def finishWeight (s : State) (k : Nat) : Option State :=
  let c := coreAt s k
  match c.wJobs with
  | [] => none
  | j :: rest =>
    if !j.started then none
    else
      let ms : MacroState := if j.kind = 2 then MacroState.reset else { loaded := true, fmt := j.fmt, recs := j.recs }
      let c := c.setCells j.mac j.cols
      some (setCoreAt s k { c with macs := vset c.macs j.mac ms, wJobs := rest, stalled := false })

/-- The core of a quad whose instruction the tile unit takes next, after the core it served last (R253). -/
def nextTile (s : State) (q : Nat) : Option (Nat × Nat) :=
  (List.range 4).findSome? (fun i =>
    let p := (SMap.getD s.quads 3 q + 1 + i) % 4
    let k := coreKey (q / 1280) (2 * (q % 32) + p % 2) (2 * (q % 1280 / 32) + p / 2)
    if (coreAt s k).tileBusy then some (k, p) else none)

/-- The tile unit of a quad takes the next instruction of its queue. -/
def takeTile (s : State) (q : Nat) : Option State :=
  match nextTile s q with
  | none => none
  | some (k, p) => some (modCoreAt { s with quads := SMap.set s.quads q p } k (fun c => { c with tileBusy := false, stalled := false }))

/-- An event that happens where it can, and otherwise changes nothing. -/
def happen (s : State) (r : Option State) : Out := .next (r.getD s)

/-- MATRIX_JOB_START (R280). -/
def execMatrixJobStart (herd : Nat) (s : State) : Out := happen s (startMatrix s herd)
/-- MATRIX_JOB_COMPLETE (R275). -/
def execMatrixJobComplete (herd port : Nat) (s : State) : Out := happen s (finishMatrix s herd port)
/-- WEIGHT_JOB_START (R270). -/
def execWeightJobStart (core : Nat) (s : State) : Out := happen s (startWeight s core)
/-- WEIGHT_JOB_COMPLETE (R270). -/
def execWeightJobComplete (core : Nat) (s : State) : Out := happen s (finishWeight s core)
/-- TILE_UNIT_DISPATCH (R253). -/
def execTileUnitDispatch (quad : Nat) (s : State) : Out := happen s (takeTile s quad)

end Sys2Proof.Machine
end

