-- ==== Sys2Proof/Machine/Engines.lean ====
section
/-!
DEFINITION. Copy jobs, handles and streams (R128 to R130, R284 to R295): their instructions, and the events of the copy unit and of the
stream distributor.
-/

namespace Sys2Proof.Machine

/-! ### The operands of copy jobs (R285, R286) -/

/-- The bytes of a buffer (R22). -/
def bufLen : Space → Nat
  | .bufW => 0x18000
  | .bufA => 0x10000
  | .bufC => 0x8000
  | _ => 0

/-- Core k may name a buffer of core t (R217): its team claims it; a contained core, which answers nothing, is not asked (R408). -/
def mayName (s : State) (k t : Nat) (b : Space) : Bool := claims (coreAt s t) b || (t != k && contained s t)

/-- The source or destination pointer of a copy job of core k (R286): space 0, 3 or 4; the core's own A or C buffer, as a destination W
too; the A buffer, as a source the C buffer too, of another core.  A twin as the source is read at its primary (R414). -/
def copyPtr (s : State) (k : Nat) (p : Word) (dest : Bool) : Option Ptr :=
  match decodePtr s k p with
  | some (.buf t b off) =>
    if !mayName s k t b then none
    else if t = k then (if b == .bufW && !dest then none else some (.buf t b off))
    else if isTwin s t then (if dest then none else some (.buf (partnerOf s t) b off))
    else if dest && b != .bufA then none
    else some (.buf t b off)
  | x => x

/-- The bytes of a range beyond the end of its buffer: none where it lies inside. -/
def beyond (p : Ptr) (n : Nat) : Option Nat :=
  match p with
  | .buf _ b off => if bufLen b < off + n then some (bufLen b - off) else none
  | _ => none

/-- The pointers and ranges of a copy job, in the order of R286. -/
def copyChecks (streamed : Bool) (dst src : Word) (len : Nat) : Act Unit := do
  let s ← get
  match copyPtr s s.cur src false with
  | none => trap 5 src
  | some sp =>
    let dp ← if streamed then pure sp else match copyPtr s s.cur dst true with | some p => pure p | none => trap 7 dst
    (match beyond sp len with
     | some n => trap 5 (src + word n)
     | none => pure ())
    (if streamed then pure () else match beyond dp len with
     | some n => trap 7 (dst + word n)
     | none => pure ())

/-- The completion action of a copy job (R286): 1 STV, 2 BAR. -/
def completionCheck (cmpl : Nat) (e0 : Word) : Act Unit := do
  let s ← get
  match cmpl with
  | 1 =>
    trapIf (e0.toNat % 8 != 0) 6 e0
    trapIf (copyPtr s s.cur e0 true).isNone 7 e0
  | 2 =>
    trapIf (e0.toNat % 16 != 0) 6 e0
    match decodePtr s s.cur e0 with
    | some (.buf t .bufA _) => trapIf (!mayName s s.cur t .bufA || (t != s.cur && isTwin s t)) 7 e0
    | _ => trap 7 e0
  | _ => pure ()

/-- The read of the source of a copy job touches only marked blocks of the window of its region (R334). -/
def sourceWindow (src : Word) (len : Nat) : Act Unit := do
  let s ← get
  match copyPtr s s.cur src false with
  | some (.buf t b off) => windowRead { space := b, key := t, addr := off } len src
  | _ => pure ()

/-- The lowest free job slot (R287). -/
def Core.freeSlot (c : Core) : Option Nat :=
  (List.range 16).find? (fun i => match SMap.get? c.jobs i with | some j => j.state == .ended | none => true)

/-- Every slot is taken by a held command of the open region. -/
def Core.slotsHeld (c : Core) : Bool :=
  (List.range 16).all (fun i => match SMap.get? c.jobs i with | some j => j.state == .held | none => false)

/-- The job identifier (R287). -/
def jobId (seq slot : Nat) : Word := word (seq * 16 + slot)

/-- A job as its instruction issues it (R285, R287). -/
def newJob (c : Core) (stream : Option Nat) (dst src : Word) (len : Nat) (fl scope : Nat) : Job :=
  { seq := (c.jobSeq + 1) % 2 ^ 28, state := if c.region.isSome then .held else .queued, status := 1, stream := stream
    dst := dst, src := src, len := len, flagA := fl / 16 % 2 == 1, flagR := fl / 8 % 2 == 1, flagOrd := fl / 4 % 2 == 1
    scope := scope, cmpl := fl % 4, e0 := vget c.ext 0 0, e1 := vget c.ext 0 1, stamp := c.stamp, user := !c.supervisor
    next := 0, done := [], item := [], tainted := [], stage := 0, fault := none }

/-- The operands of a job, as a held command presents them (R413). -/
def Job.operands (j : Job) (fl : Nat) : List Word :=
  [word fl, word j.scope, j.dst, j.src, word j.len, j.e0, j.e1, word (match j.stream with | some n => n + 1 | none => 0)]

/-- Issues a job: a slot is taken, and in a region the command is held (R122, R287). -/
def issueJob (i : Instr) (d : BitVec 4) (fl : Nat) (mk : Core → Job) : Act Unit := do
  canWrite d.toNat
  afterAcquire
  let c ← getC
  match c.freeSlot with
  | none => if c.slotsHeld then trap 24 (overflowVal true c.held) else waitHere
  | some n =>
    let j := mk c
    if c.region.isSome then
      appendHeld { act := .copyIssue n (j.operands fl), place := { space := .mem, key := 0, addr := 0 }, ea := 0, pol := .direct
                   ord := 0, scope := 0, stamp := c.stamp, committed := false, sent := false, checked := false, user := !c.supervisor
                   enc := encode i }
    modC (fun c => { c with jobs := SMap.set c.jobs n j, jobSeq := j.seq, stamp := c.stamp + 1 })
    writeReg d.toNat (jobId j.seq n)
    retire 4

/-- The operands of COPY and COPYS that lie in no scalar register (R285). -/
def copyExt (c : Core) : List Word := [vget c.ext 0 0, vget c.ext 0 1]

/-- COPY (R285 to R287). -/
def execCopy (d a b : BitVec 4) (scope : BitVec 3) (fl : BitVec 5) (s : State) : Out :=
  runBoth (.copy 0 0 0 scope fl) (pairRegs a.toNat ++ [b.toNat]) copyExt (do
    let (dst, src) ← readPair a.toNat
    let n ← readReg b.toNat
    noPoison 0 16
    noPoison 0 17
    trapIf (n.toNat / 2 ^ 32 != 0) 7 n
    copyChecks false dst src n.toNat
    completionCheck (fl.toNat % 4) (vget (← getC).ext 0 0)
    sourceWindow src n.toNat
    issueJob (.copy d a b scope fl) d fl.toNat (fun c => newJob c none dst src n.toNat fl.toNat scope.toNat)) s

/-- COPYS (R285 to R287). -/
def execCopys (d a b : BitVec 4) (scope : BitVec 3) (fl : BitVec 5) (s : State) : Out :=
  runBoth (.copys 0 0 0 scope fl) [a.toNat, b.toNat] copyExt (do
    let n ← readReg a.toNat
    let src ← readReg b.toNat
    noPoison 0 16
    noPoison 0 17
    trapIf (n.toNat / 2 ^ 12 != 0) 7 n
    copyChecks true 0 src 1024
    completionCheck (fl.toNat % 4) (vget (← getC).ext 0 0)
    sourceWindow src 1024
    issueJob (.copys d a b scope fl) d fl.toNat (fun c => newJob c (some n.toNat) 0 src 1024 fl.toNat scope.toNat)) s

/-- The status of the job that an identifier names (R288, R289): 6 STALE, 1 PENDING. -/
def Core.jobStatus (c : Core) (id : Word) : Nat :=
  match SMap.get? c.jobs (id.toNat % 16) with
  | some j => if j.seq = bits id.toNat 31 4 then (if j.state = .ended then j.status else 1) else 6
  | none => 6

/-- JWAIT (R289, R309). -/
def execJwait (d a : BitVec 4) (s : State) : Out :=
  runTermOnce (.jwait 0 0) [a.toNat] [d.toNat] (do
    let x ← readReg a.toNat
    canWrite d.toNat
    let st := (← getC).jobStatus x
    waitUntil (st != 1)
    writeReg d.toNat (word st)
    retire 4) s

/-- JPOLL (R289). -/
def execJpoll (d a : BitVec 4) (s : State) : Out :=
  runOnce (.jpoll 0 0) [a.toNat] [d.toNat] (do
    let x ← readReg a.toNat
    writeReg d.toNat (word ((← getC).jobStatus x))
    retire 4) s

/-! ### Handles (R290 to R292) -/

/-- A handle of a core. -/
def Core.handle (c : Core) (h : Nat) : Handle := vget c.handles Handle.reset h
/-- The core with a handle changed. -/
def Core.modHandle (c : Core) (h : Nat) (f : Handle → Handle) : Core := { c with handles := vset c.handles h (f (c.handle h)) }

/-- The space-1 pointer to slot i of a handle. -/
def Handle.slotPtr (h : Handle) (i : Nat) : Word := ownPtr 1 (h.base + h.size * i)

/-- HCFG (R290). -/
def execHcfg (a : BitVec 4) (h : BitVec 3) (s : State) : Out :=
  runTerm (do
    let (p, q) ← readPair a.toNat
    let s ← get
    let n := h.toNat
    let size := bits q.toNat 15 0
    let count := bits q.toNat 24 16
    trapIf (s.core.handle n).stream.isSome 34 (word n)
    match decodePtr s s.cur p with
    | some (.buf t .bufA off) =>
      trapIf (t != s.cur || p.toNat % 128 != 0 || !claims s.core .bufA) 7 p
      trapIf (q.toNat / 2 ^ 25 != 0 || size % 128 != 0 || size < 128 || 32768 < size || count < 1 || 256 < count) 34 (word n)
      trapIf (65536 < off + size * count) 7 p
      modC (fun c => c.modHandle n (fun _ =>
        { base := off, size := size, count := count, head := 0, tail := 0, filled := 0, freedHeld := 0, stream := none }))
      retire 4
    | _ => trap 7 p) s

/-- HWAIT (R291, R309). -/
def execHwait (d a : BitVec 4) (h : BitVec 3) (s : State) : Out :=
  runInstr (do
    let x ← readReg a.toNat
    canWrite d.toNat
    let n := x.toInt
    let hd := (← getC).handle h.toNat
    trapIf (hd.count < n.natAbs) 34 (word h.toNat)
    if n = 0 then writeReg d.toNat (word hd.filled)
    else if 0 < n then
      waitUntil (n.natAbs ≤ hd.filled)
      writeReg d.toNat (hd.slotPtr hd.head)
    else
      waitUntil (n.natAbs ≤ hd.count - hd.filled)
      writeReg d.toNat (hd.slotPtr hd.tail)
    retire 4) s

/-- The handle after an advance of n by the consumer, held where `held` (R292). -/
def Handle.consume (h : Handle) (n : Nat) (held : Bool) : Handle :=
  { h with head := (h.head + n) % max h.count 1, filled := h.filled - n, freedHeld := if held then h.freedHeld + n else h.freedHeld }
/-- The handle after an advance of n by the producer. -/
def Handle.produce (h : Handle) (n : Nat) : Handle := { h with tail := (h.tail + n) % max h.count 1, filled := h.filled + n }

/-- The region's count of what its own advances have moved. -/
def Region.moved (r : Region) (producer : Bool) (h n : Nat) : Region :=
  if producer then { r with produced := vset r.produced h (vget r.produced 0 h + n) }
  else { r with consumed := vset r.consumed h (vget r.consumed 0 h + n) }

/-- Work of the core still has to read the head slots of a handle (R254, R272, R292). -/
def Core.handleBusy (c : Core) (h : Nat) : Bool :=
  c.matJobs.any (fun j => j.handle && j.ta == h && j.port.isNone) || c.wJobs.any (fun j => j.kind == 1 && j.handle == h && !j.started)
    || !c.loads.isEmpty

/-- HADVC and HADVP (R292). -/
def advance (w : Instr) (producer : Bool) (d a : BitVec 4) (h : BitVec 3) : Act Unit := do
  let x ← readReg a.toNat
  canWrite d.toNat
  let c ← getC
  let i := h.toNat
  let n := x.toNat
  let hd := c.handle i
  trapIf (if producer then hd.count - hd.filled < n else hd.filled < n) 34 (word i)
  waitUntil (producer || !c.handleBusy i)
  if c.region.isSome then
    appendHeld { act := .hadv producer i n, place := { space := .bufA, key := (← get).cur, addr := 0 }, ea := 0, pol := .direct
                 ord := 0, scope := 0, stamp := c.stamp, committed := false, sent := false, checked := false, user := !c.supervisor
                 enc := encode w }
  modC (fun c => { (c.modHandle i (fun hd => if producer then hd.produce n else hd.consume n c.region.isSome)) with
                   region := c.region.map (fun r => r.moved producer i n), stamp := c.stamp + 1 })
  writeReg d.toNat (word (((← getC).handle i).filled))
  retire 4

/-- HADVC. -/
def execHadvc (d a : BitVec 4) (h : BitVec 3) (s : State) : Out := runInstr (advance (.hadvc d a h) false d a h) s
/-- HADVP. -/
def execHadvp (d a : BitVec 4) (h : BitVec 3) (s : State) : Out := runInstr (advance (.hadvp d a h) true d a h) s

/-! ### Streams (R293 to R295) -/

/-- The stream with a number. -/
def streamAt (s : State) (n : Nat) : Stream := SMap.getD s.streams Stream.reset n
/-- The state with a stream changed. -/
def modStreamAt (s : State) (n : Nat) (f : Stream → Stream) : State := { s with streams := SMap.set s.streams n (f (streamAt s n)) }

/-- The handle of a core, and that of its twin, is subscribed to a stream or to none. -/
def setSubscribed (s : State) (k h : Nat) (n : Option Nat) : State :=
  let s := modCoreAt s k (fun c => c.modHandle h (fun x => { x with stream := n }))
  match (coreAt s k).twin with
  | some (p, _) => modCoreAt s p (fun c => c.modHandle h (fun x => { x with stream := n }))
  | none => s

/-- The number of a subscription on its core: the team whose core it is, and the handle. -/
def subKey (s : State) (k h : Nat) : Nat := 8 * (coreAt s k).team.getD 0 + h

/-- What SUBSCR answers (R293). -/
def subscribeStatus (s : State) (k h : Nat) (x : Word) : Int :=
  let hd := (coreAt s k).handle h
  let st := streamAt s x.toNat
  if x.toNat / 2 ^ 12 ≠ 0 then -1
  else if hd.count = 0 ∨ hd.size < 1024 ∨ hd.stream.isSome = true ∨ 256 ≤ st.subs.length then -5
  else if !st.tree.isEmpty && !st.tree.contains k then -7
  else 0

/-- The commands of a core reach the distributor in program order (R121, R128): no acquire of it is outstanding, and the SPUBs and handle
advances that it has committed have left the region buffer. -/
def distributorTurn : Act Unit := do
  afterAcquire
  waitUntil ((← getC).rbuf.all (fun e => !(e.committed && (match e.act with | .spub _ _ => true | .hadv _ _ _ => true | _ => false))))

/-- SUBSCR. -/
def execSubscr (d a : BitVec 4) (h : BitVec 3) (s : State) : Out :=
  runTermOnce (.subscr 0 0 h) [a.toNat] [d.toNat] (do
    let x ← readReg a.toNat
    distributorTurn
    let s ← get
    let r := subscribeStatus s s.cur h.toNat x
    if r = 0 then
      modify (fun s => modStreamAt (setSubscribed s s.cur h.toNat (some x.toNat)) x.toNat
        (fun st => { st with subs := st.subs ++ [(s.cur, subKey s s.cur h.toNat)] }))
    writeReg d.toNat (BitVec.ofInt 64 r)
    retire 4) s

/-- The stream without a subscription, in its queued items too. -/
def Stream.drop (st : Stream) (sub : Nat × Nat) : Stream :=
  { st with subs := st.subs.filter (fun x => x != sub)
            queue := st.queue.map (fun it => { it with subs := it.subs.filter (fun x => x != sub) }) }

/-- UNSUB: a delivery is one step, so that no item is ever on its way (log 26). -/
def execUnsub (d a : BitVec 4) (h : BitVec 3) (s : State) : Out :=
  runTermOnce (.unsub 0 0 h) [a.toNat] [d.toNat] (do
    let x ← readReg a.toNat
    distributorTurn
    let s ← get
    if x.toNat / 2 ^ 12 = 0 ∧ (s.core.handle h.toNat).stream = some x.toNat then
      modify (fun s => modStreamAt (setSubscribed s s.cur h.toNat none) x.toNat (fun st => st.drop (s.cur, subKey s s.cur h.toNat)))
      writeReg d.toNat 0
    else writeReg d.toNat (-1)
    retire 4) s

/-- SPUB (R294): a command to the distributor, which the core waits for; held in a region, as 16 entries; in a twin pair the primary's
(R414). -/
def execSpub (a : BitVec 4) (t : BitVec 3) (s : State) : Out :=
  runBoth (.spub 0 0) [a.toNat] (fun _ => []) (do
    let s0 ← get
    let x ← readReg a.toNat
    trapIf (x.toNat / 2 ^ 12 != 0) 7 x
    if s0.core.reply.isSome then retire 4
    else if s0.core.wait = some .reply then waitHere
    else
      tilesFree [t.toNat]
      useTiles [t.toNat] []
      cleanRows t.toNat 8
      afterAcquire
      let c ← getC
      let rows := (List.range 8).map (fun r => c.row t.toNat r)
      if c.region.isSome then
        appendHeld { act := .spub x.toNat rows, place := { space := .mem, key := 0, addr := 0 }, ea := 0, pol := .direct
                     ord := 0, scope := 0, stamp := c.stamp, committed := false, sent := false, checked := false, user := !c.supervisor
                     enc := encode (.spub a t) }
        modC (fun c => { c with stamp := c.stamp + 1 })
        retire 4
      else if isTwin s0 s0.cur then retire 4
      else throw (.block (modCoreAt s0 s0.cur (fun c =>
        { c with command := some (.spub x.toNat rows), wait := some .reply, stamp := c.stamp + 1 })))) s

/-! ### The copy unit (R128, R129, R288) -/

/-- What an access of a copy job finds. -/
inductive Reach where
  | at (p : Place)
  | extern (p : Place)
  /-- A page fault (R353), with its address. -/
  | page (va : Nat)
  /-- The job ends with a status of R288. -/
  | failed (status : Nat)
  /-- Something else moves first. -/
  | later
  deriving DecidableEq, Repr

/-- The place of a byte of a copy job, and the state: translation, permission and slot arenas (R98, R288); under DIRECT policy an SWM copy
of the job's herd leaves first (R114). -/
def reachByte (s : State) (k : Nat) (user : Bool) (ptr : Word) (i : Nat) (dest : Bool) : Reach × State :=
  match copyPtr s k ptr dest with
  | none => (.failed 2, s)
  | some (.buf t b off) =>
    -- a contained rectangle answers before anything of its cores is looked at (R408)
    if t ≠ k ∧ contained s t = true then (.failed 5, s)
    else if bufLen b ≤ off + i then (.failed 2, s)
    else (.at { space := b, key := t, addr := off + i }, s)
  | some (.peer n a) => (.extern { space := .peer, key := n, addr := a + i }, s)
  | some (.host a) => (.extern { space := .host, key := 0, addr := a + i }, s)
  | some (.mem _ va) =>
    let a := va + i
    if 2 ^ 52 ≤ a then (.failed 2, s)
    else match xlate s k a (if dest then .store else .load) user with
      | (.page _, s') => (.page a, s')
      | (.access, s') => (.failed 2, s')
      | (.ok pa leaf, s') =>
        let cell := bits leaf 7 7 == 1
        if cell && dest && !arenaStore s' k a 1 then (.failed 3, s')
        else if cell && !dest && arenaLoad s' k a 1 != some false then (.failed 2, s')
        else if swmCopy s' (herdOf k) (lineOf pa) then (.later, dropSwm s' (herdOf k) (lineOf pa))
        else if writingBack s' (herdOf k) (lineOf pa) then (.later, s')
        else (.at { space := .mem, key := 0, addr := pa }, s')

/-- The state with a job of a core changed. -/
def modJobAt (s : State) (k slot : Nat) (f : Job → Job) : State :=
  modCoreAt s k (fun c => { c with jobs := c.jobs.map (fun p => if p.1 = slot then (p.1, f p.2) else p) })

/-- A copy job sleeps on the record of its team and page (R353). -/
def sleepJob (s : State) (k slot va : Nat) (write : Bool) : State :=
  let d := dieOf k
  let t := (coreAt s k).team.getD 0
  let vpn := va / 2 ^ 16
  let s := modJobAt s k slot (fun j => { j with fault := some va })
  if (dieAt s d).faults.any (fun r => r.team == t && r.vpn == vpn) then
    modDieAt s d (fun x => { x with faults := x.faults.map (fun r =>
      if r.team == t && r.vpn == vpn then { r with jobs := r.jobs ++ [(k, slot)] } else r) })
  else
    postFault (modDieAt s d (fun x => { x with faults := x.faults ++ [{ team := t, vpn := vpn, cores := [], jobs := [(k, slot)] }] }))
      k va (if write then 1 else 0) true

/-- The bytes of a granule of a space (R404): a line, a macro row, or a doubleword. -/
def granuleBytes : Space → Nat
  | .mem => 64
  | .bufW => 64
  | _ => 8

/-- A job knows a byte as copied. -/
def Job.isDone (j : Job) (i : Nat) : Bool := i < j.next || j.done.contains i

/-- `next` moves over bytes that are copied already; `fuel` bounds the number. -/
def advanceNext : Nat → Nat → List Nat → Nat × List Nat
  | 0, n, l => (n, l)
  | fuel + 1, n, l => if l.contains n then advanceNext fuel (n + 1) (l.erase n) else (n, l)

/-- The job with byte i copied. -/
def Job.mark (j : Job) (i : Nat) (tainted : Bool) : Job :=
  let r := if i = j.next then advanceNext j.done.length (i + 1) j.done else (j.next, j.done ++ [i])
  { j with next := r.1, done := r.2, tainted := if tainted then j.tainted ++ [i] else j.tainted }

/-- The job has written the whole granule of g bytes in which its byte i lies at offset r. -/
def Job.whole (j : Job) (i r g : Nat) : Bool :=
  r ≤ i && i - r + g ≤ j.len && (List.range g).all (fun n => j.isDone (i - r + n))
/-- A byte of that granule has come from a poisoned one. -/
def Job.taints (j : Job) (i r g : Nat) : Bool := (List.range g).any (fun n => j.tainted.contains (i - r + n))

/-- The poison of a bank after byte i of a job has come to a place there: that of its source goes with it, and a granule that the job has
written whole is clean but for that (R404). -/
def taintByte (s : State) (j : Job) (i : Nat) (tainted : Bool) (pl : Place) : State :=
  let g := granuleBytes pl.space
  let r := pl.addr % g
  if j.whole i r g then
    let p := { pl with addr := pl.addr - r }
    let s := cleanPlace s p g
    if j.taints i r g then poisonPlace s p g 1 else s
  else if tainted then poisonPlace s pl 1 1
  else s

/-- Byte i of a job is copied to a bank, in a twin pair to both (R404, R414). -/
def markByte (s : State) (k slot i : Nat) (pl : Place) (tainted : Bool) : State :=
  let s := modJobAt s k slot (fun j => j.mark i tainted)
  match SMap.get? (coreAt s k).jobs slot with
  | none => s
  | some j => (pl :: (twinPlace s pl).toList).foldl (fun s p => taintByte s j i tainted p) s

/-- Byte i of a job goes to its home; the poison of its source goes with it, and the last byte of a line that the job has written whole
says so (R404). -/
def copyHome (s : State) (k slot : Nat) (j : Job) (i : Nat) (b : Byte) (pl : Place) (tainted : Bool) : State :=
  let j := j.mark i tainted
  let r := pl.addr % 64
  let whole := j.whole i r 64
  arriveWrite (modJobAt s k slot (fun _ => j)) (.copy k slot) pl (.store [(0, b)]) (if whole then j.taints i r 64 else tainted) whole

/-- A write that reaches a W buffer leaves its macro EMPTY (R267), in a twin pair on both (R414). -/
def emptyMacro (s : State) (pl : Place) : State :=
  if pl.space = .bufW then
    (pl :: (twinPlace s pl).toList).foldl (fun s p =>
      modCoreAt s p.key (fun c => { c with macs := vset c.macs (p.addr / 8192) MacroState.reset })) s
  else s

/-- A transaction with a target of space 3 or 4 that the copy unit sends (R419). -/
def sendCopy (s : State) (k : Nat) (write : Bool) (pl : Place) (a : Action) : State :=
  modCoreAt s k (fun c => { c with extern := c.extern ++ [(write,
    { act := a, place := pl, ea := 0, pol := .direct, ord := 0, scope := 0, stamp := c.stamp, committed := true, sent := true, checked := false
      user := false })] })

/-- Byte i of a job, once it is read, goes to its item or to its destination (R128, R288). -/
def writeCopy (s : State) (k slot : Nat) (j : Job) (i : Nat) (b : Byte) (tainted : Bool) : State :=
  if j.stream.isSome then modJobAt s k slot (fun j => { j.mark i tainted with item := SMap.set j.item i b })
  else match reachByte s k j.user j.dst i true with
    | (.later, s') => s'
    | (.page va, s') => sleepJob s' k slot va true
    | (.failed st, s') => endJob s' k slot st
    | (.extern pl, s') => sendCopy s' k true pl (.copyWrite slot i)
    | (.at pl, s') =>
      if pl.space = .mem then copyHome s' k slot j i b pl tainted
      else match performAt s' engineSrc pl (.store [(0, b)]) with
        | (s', .ok _) => markByte (emptyMacro s' pl) k slot i pl tainted
        | (s', _) => endJob s' k slot 4

/-- A job of a core that runs and does not sleep. -/
def runningJob (s : State) (k slot : Nat) : Option Job :=
  match SMap.get? (coreAt s k).jobs slot with
  | some j => if j.state == .running && j.fault.isNone then some j else none
  | none => none

/-- One byte of a running job is read, and written or sent on its way (R128). -/
def copyByte (s : State) (k slot i : Nat) : State :=
  match runningJob s k slot with
  | none => s
  | some j =>
    let out : Bool := (coreAt s k).extern.any (fun x => x.2.act == .copyRead slot i || x.2.act == .copyWrite slot i)
    if j.len ≤ i || j.isDone i || out || j.stage != 0 then s
    else match reachByte s k j.user j.src i false with
      | (.later, s') => s'
      | (.page va, s') => sleepJob s' k slot va false
      | (.failed st, s') => endJob s' k slot st
      | (.extern pl, s') => sendCopy s' k false pl (.copyRead slot i)
      | (.at pl, s') =>
        let s' := if pl.space = .mem then combineLine s' (lineOf pl.addr) else s'
        writeCopy s' k slot j i (placeByte s' pl 0) (poisonAt s' pl 1).isSome

/-- Earlier commit-queue entries of the core have performed at a scope (R110, R129). -/
def priorPerformed (s : State) (k stamp scope : Nat) : Bool :=
  let c := coreAt s k
  scope = 0 || ((c.cq ++ c.rbuf).all (fun e => !e.committed || stamp ≤ e.stamp)
    && (scope < 2 || (herdAt s (herdOf k)).forwards.all (fun f => f.core != k))
    && (scope < 4 || c.extern.all (fun x => !x.1)))

/-- A job starts on the copy unit (R128, R129): its command and every earlier one of the core have left the region buffer, and its A flag
is satisfied. -/
def dispatchJob (s : State) (k slot : Nat) : Option State :=
  match SMap.get? (coreAt s k).jobs slot with
  | none => none
  | some j =>
    let held : Bool := (coreAt s k).rbuf.any (fun e => match e.act with | .copyIssue n _ => n == slot || e.stamp < j.stamp | _ => false)
    if j.state != .queued || held || isTwin s k || contained s k then none
    else if j.flagA && !priorPerformed s k j.stamp j.scope then none
    else some (modJobAt s k slot (fun j => { j with state := .running }))

/-- Items of one core to one stream are accepted in program order (R128, R295): no earlier COPYS of the core to it is still to enter, and
no earlier SPUB of it is still in the region buffer. -/
def streamTurn (s : State) (k n stamp : Nat) : Bool :=
  (coreAt s k).jobs.all (fun p => !(p.2.stream == some n && p.2.stamp < stamp && p.2.state != .ended && p.2.stage == 0))
    && (coreAt s k).rbuf.all (fun e => match e.act with | .spub m _ => m != n || stamp ≤ e.stamp | _ => true)

/-- The distributor accepts an item, if its queue has room (R293 to R295). -/
def acceptItem (s : State) (n : Nat) (rows : List Row) (poison : List Nat) : Option State :=
  let st := streamAt s n
  if 8 ≤ st.queue.length then none
  else some (modStreamAt s n (fun st => { st with queue := st.queue ++ [{ rows := rows, poison := poison, subs := st.subs }] }))

/-- Every write of a job has performed (R129). -/
def jobPerformed (s : State) (k slot : Nat) : Bool :=
  s.homes.all (fun p => p.2.waiting.all (fun w => w.src != .copy k slot))

/-- The completion action of a job begins, or the job ends DONE (R285, R288). -/
def completeAction (s : State) (k slot : Nat) (j : Job) : State :=
  match j.cmpl with
  | 1 =>
    (match reachByte s k j.user j.e0 0 true with
     | (.later, s') => s'
     | (.page va, s') => sleepJob s' k slot va true
     | (.failed st, s') => endJob s' k slot st
     | (.extern pl, s') => modJobAt (sendCopy s' k true pl (.copyWrite slot j.len)) k slot (fun j => { j with stage := 2 })
     | (.at pl, s') =>
       let w : Action := .store (leBytes j.e1.toNat 8)
       if pl.space = .mem then arriveWrite (modJobAt s' k slot (fun j => { j with stage := 2 })) (.stv k slot) pl w false false
       else match performAt s' engineSrc pl w with
         | (s', .ok _) => endJob (emptyMacro s' pl) k slot 0
         | (s', _) => endJob s' k slot 4)
  | 2 =>
    (match decodePtr s k j.e0 with
     | some (.buf t _ off) =>
       modJobAt { s with net := s.net ++ [{ src := k, dst := t, off := off, ea := j.e0, kind := .bar slot }] } k slot (fun j => { j with stage := 2 })
     | _ => endJob s k slot 2)
  | _ => endJob s k slot 0

/-- A job whose bytes are copied goes on to its end (R129, R288): a COPYS item enters its stream; then, in order among ORD jobs and after
its writes have performed where the R flag asks for it, the completion action. -/
def completeJob (s : State) (k slot : Nat) : Option State :=
  match runningJob s k slot with
  | none => none
  | some j =>
    if j.next < j.len || j.stage = 2 then none
    else match j.stream, j.stage with
      | some n, 0 =>
        if streamTurn s k n j.stamp then
          (acceptItem s n ((List.range 8).map (fun r => BitVec.ofNat 1024 (leNat (fun i => SMap.getD j.item 0 (128 * r + i)) 128)))
            ((List.range 128).filter (fun g => j.tainted.any (fun i => i / 8 == g)))).map
              (fun s => modJobAt s k slot (fun j => { j with stage := 1 }))
        else none
      | _, _ =>
        let ordOk := (coreAt s k).jobs.all (fun p =>
          !(p.2.flagOrd && p.2.stream.isSome == j.stream.isSome && p.2.stamp < j.stamp && p.2.state != .ended))
        if (j.flagOrd && !ordOk) || (j.flagR && j.scope != 0 && !jobPerformed s k slot) then none
        else some (completeAction s k slot j)

/-- COPY_JOB_DISPATCH (R128). -/
def execCopyJobDispatch (core slot : Nat) (s : State) : Out := happen s (dispatchJob s core slot)
/-- COPY_JOB_COMPLETE (R288). -/
def execCopyJobComplete (core slot : Nat) (s : State) : Out := happen s (completeJob s core slot)

/-! ### The stream distributor (R293 to R295) -/

/-- The item of a core's SPUB enters its stream, and the core goes on (R294, R295). -/
def acceptSpub (s : State) (k : Nat) : Option State :=
  match (coreAt s k).command with
  | some (.spub n rows) =>
    if streamTurn s k n (coreAt s k).stamp then
      (acceptItem s n rows []).map (fun s => replyTo (modCoreAt s k (fun c => { c with command := none })) k (.value 0 0))
    else none
  | _ => none

/-- Writes an item into the tail slot of a handle, sync-tagged words excepted, and advances it (R130, R230, R295, R404).  A delivery takes
no job slot (R287), so that no register shows its status (log 104). -/
def fillSlot (s : State) (k h : Nat) (it : Item) : State :=
  let hd := (coreAt s k).handle h
  let base := hd.base + hd.size * hd.tail
  let open_ := (List.range 128).filter (fun g => !syncTagged (coreAt s k) (base + 8 * g))
  let byte (i : Nat) : Byte := ((it.rows.getD (i / 128) 0) >>> (8 * (i % 128))).setWidth 8
  noteWrite (modCoreAt s k (fun c =>
    { (c.modHandle h (fun hd => hd.produce 1)) with
      bufA := open_.foldl (fun m g => (List.range 8).foldl (fun m i => SMap.put m 0 (base + 8 * g + i) (byte (8 * g + i))) m) c.bufA
      poison := c.poison.filter (fun q => !(q.1 == 1 && open_.any (fun g => (base / 8 + g) == q.2)))
        ++ ((open_.filter (fun g => it.poison.contains g)).map (fun g => (1, base / 8 + g)))
      stalled := false })) k

/-- The subscription belongs to a core of a team that is swapped out, which keeps it (R360). -/
def swappedOut (s : State) (k sub : Nat) : Bool :=
  match teamAt s (sub / 8) with | some t => t.st == .swapped && t.herds.contains (herdOf k) | none => false

/-- The subscription's handle is gone: its slot count is 0, or its core has been claimed from the team, where its thread has ended (R358;
log 119). -/
def handleGone (s : State) (k sub : Nat) : Bool :=
  (coreAt s k).team != some (sub / 8) || ((coreAt s k).handle (sub % 8)).count == 0

/-- The first subscription of the head item takes it, once its handle has a free slot; a handle that is gone takes nothing (R295). -/
def deliverItem (s : State) (n : Nat) : Option State :=
  let st := streamAt s n
  match st.queue with
  | [] => none
  | it :: rest =>
    match it.subs with
    | [] => some (modStreamAt s n (fun st => { st with queue := rest }))
    | (k, x) :: more =>
      let h := x % 8
      let hd := (coreAt s k).handle h
      let s' := modStreamAt s n (fun st => { st with queue := if more.isEmpty then rest else { it with subs := more } :: rest })
      if swappedOut s k x then none
      else if handleGone s k x = true ∨ contained s k = true then some s'
      else if hd.count ≤ hd.filled + hd.freedHeld then none
      else
        let s' := fillSlot s' k h it
        some (match (coreAt s k).twin with | some (p, _) => fillSlot s' p h it | none => s')

/-- STREAM_ACCEPT (R295). -/
def execStreamAccept (core : Nat) (s : State) : Out := happen s (acceptSpub s core)
/-- STREAM_DELIVER (R295). -/
def execStreamDeliver (stream : Nat) (s : State) : Out := happen s (deliverItem s stream)

end Sys2Proof.Machine
end

