-- ==== Sys2Proof/Machine/Launch.lean ====
section
/-!
DEFINITION. Launch blocks (R363 to R366), tasks and the kid pool (R65 to R67, R377), and the records of the event rings (R100).
-/

namespace Sys2Proof.Machine

/-! ### Launch blocks (R363 to R365) -/

/-- A clock request within its ranges (R338): KM and KV 4 to 16, KN 6 to 16. -/
def clockOk (c : Nat) : Bool :=
  4 ≤ c % 32 && c % 32 ≤ 16 && 4 ≤ c / 32 % 32 && c / 32 % 32 ≤ 16 && 6 ≤ c / 1024 % 32 && c / 1024 % 32 ≤ 16

/-- The fields of a launch block from its doublewords (R363), without its list. -/
def launchFields (w : Nat → Nat) : LaunchBlock :=
  { entry := word (w 0), args := word (w 1), slices := bits (w 2) 63 32, quota := bits (w 2) 31 17, rgnlim := bits (w 2) 16 9
    chunk := bits (w 2) 8 6, prio := bits (w 2) 5 4, twin := bits (w 2) 3 3 == 1, claim := BitVec.ofNat 3 (w 2)
    hmax := bits (w 3) 63 51, hmin := bits (w 3) 50 38, clock := word (bits (w 3) 25 0), tds := [] }

/-- A reserved field of a launch block is not 0. -/
def launchReserved (w : Nat → Nat) : Bool := bits (w 3) 37 26 != 0 || bits (w 5) 63 9 != 0 || w 6 != 0 || w 7 != 0

/-- A space-0 pointer, aligned. -/
def space0 (p align : Nat) : Bool := (walkPolicy (word p)).isSome && p % align == 0

/-- A field of a launch block breaks R365; the herds are at most `herds`. -/
def launchBad (w : Nat → Nat) (herds : Nat) : Bool :=
  let b := launchFields w
  let n := bits (w 5) 8 0
  !space0 b.entry.toNat 2 || b.slices == 0 || 16384 < b.quota || b.rgnlim == 0 || b.hmax == 0 || 5120 < b.hmax || b.hmin == 0
    || b.hmax < b.hmin || herds < b.hmin || !clockOk b.clock.toNat || 256 < n || !space0 (w 4) 16 || (n != 0 && w 4 == 0)

/-- An entry of the descriptor list is malformed (R364, R365). -/
def listBad (formula : Bool) (name ptr : Nat) : Bool := 256 ≤ name || (formula && name < 34) || !space0 ptr 64

/-- The descriptors that a list names; none where an entry or a descriptor is malformed or cannot be read. -/
def launchList (rd : Nat → Nat → Option Nat) (formula : Bool) (base : Nat) : Nat → Nat → Option (List (Nat × BitVec 512))
  | 0, _ => some []
  | n + 1, i =>
    match rd (base + 16 * i) 8, rd (base + 16 * i + 8) 8 with
    | some name, some ptr =>
      if listBad formula name ptr then none
      else match rd (ptr % 2 ^ 52) 64 with
        | none => none
        | some v =>
          if Desc.valid (BitVec.ofNat 512 v) then
            (launchList rd formula base n (i + 1)).map (fun l => (name, Desc.clearRo (BitVec.ofNat 512 v)) :: l)
          else none
    | _, _ => none

/-- The ranges (address, length) of space 0 that the copy of a launch block reads: the block, its list, and the descriptors. -/
def launchReads (rd : Nat → Nat → Option Nat) (a : Nat) : List (Nat × Nat) :=
  (a, 64) :: match rd a 64 with
    | none => []
    | some v =>
      let w (i : Nat) : Nat := v / 2 ^ (64 * i) % 2 ^ 64
      if launchReserved w || launchBad w 5120 then []
      else (List.range (bits (w 5) 8 0)).flatMap (fun i =>
        let e := w 4 % 2 ^ 52 + 16 * i
        (e, 16) :: match rd (e + 8) 8 with | some p => [(p % 2 ^ 52, 64)] | none => [])

/-- Why a launch block is refused. -/
inductive LaunchError where
  | reserved
  | malformed
  deriving DecidableEq, Repr

/-- The launch block at an address, whole and checked (R364, R365); `rd` reads the block, `rl` its list and descriptors in space 0. -/
def readLaunch (rd rl : Nat → Nat → Option Nat) (formula : Bool) (herds a : Nat) : Except LaunchError LaunchBlock :=
  match rd a 64 with
  | none => .error .malformed
  | some v =>
    let w (i : Nat) : Nat := v / 2 ^ (64 * i) % 2 ^ 64
    if a % 64 ≠ 0 then .error .malformed
    else if launchReserved w then .error .reserved
    else if launchBad w herds then .error .malformed
    else match launchList rl formula (w 4 % 2 ^ 52) (bits (w 5) 8 0) 0 with
      | none => .error .malformed
      | some l => .ok { launchFields w with tds := l }

/-- The bytes that an engine reads at their home for a core in a mode, at a virtual address (R111). -/
def coreRead (s : State) (k : Nat) (user : Bool) (a n : Nat) : Option Nat :=
  match (xlate s k a .load user).1 with
  | .ok pa _ => some (homeNat s pa n)
  | _ => none

/-- The first poisoned granule among the ranges that an engine reads for a core (R405). -/
def corePoison (s : State) (k : Nat) (user : Bool) (l : List (Nat × Nat)) : Option (Nat × Nat) :=
  l.findSome? (fun x => match (xlate s k x.1 .load user).1 with
    | .ok pa _ => poisonAt s { space := .mem, key := 0, addr := pa } x.2
    | _ => none)

/-- The lines of the ranges that an engine reads for a core, and those of the table entries that lead there, are combined at their homes
first (R127). -/
def coreCombine (s : State) (k : Nat) (user : Bool) (l : List (Nat × Nat)) : State :=
  if s.ranges.isEmpty then s
  else l.foldl (fun s x =>
    let s := match translates s k with | some t => combineWalk s x.1 3 t.root | none => s
    match (xlate s k x.1 .load user).1 with | .ok pa _ => combineBytes s pa x.2 | _ => s) s

/-- An engine reads ranges for the running core: their lines are combined (R127), and a poisoned granule among them is consumed (R405). -/
def engineReads (l : List (Nat × Nat)) : Act Unit := do
  let s ← get
  let s := coreCombine s s.cur (!s.core.supervisor) l
  match corePoison s s.cur (!s.core.supervisor) l with
  | some (u, a) => throw (.consume u a)
  | none => set s

/-- The bytes that an engine reads at a physical address. -/
def physRead (s : State) (a n : Nat) : Option Nat := if paOk s a && paOk s (a + n - 1) then some (homeNat s a n) else none

/-- The bytes that an engine reads in an address space. -/
def spaceRead (s : State) (root : Nat) (a n : Nat) : Option Nat :=
  match walk s a 3 root with
  | .ok pa _ => physRead s pa n
  | _ => none

/-- The lines of the ranges that an engine reads in an address space, and those of the table entries that lead there, are combined at their
homes first (R127). -/
def spaceCombine (s : State) (root : Nat) (l : List (Nat × Nat)) : State :=
  if s.ranges.isEmpty then s
  else l.foldl (fun s x =>
    let s := combineWalk s x.1 3 root
    match walk s x.1 3 root with | .ok pa _ => combineBytes s pa x.2 | _ => s) s

/-! ### Levels and tasks (R65 to R67, R362, R366, R367) -/

/-- The level of a block (R366): PRIO, but 1 for PRIO 0 from user mode without URGENT. -/
def taskLevel (prio : Nat) (user urgent : Bool) : Nat := if prio = 0 && user && !urgent then 1 else prio

/-- A range unit at the start of a team (R372). -/
def rangeStart (lb : LaunchBlock) : RangeUnit := { next := 0, ns := lb.slices, factor := lb.chunk + 1, returned := [], requests := [] }

/-- A team as its task arrives. -/
def newTeam (src : TaskSource) (lb : LaunchBlock) (asid root : Nat) (shgen shcell : Word) (level arrival : Nat) : Team :=
  { src := src, lb := lb, asid := asid, root := root, shgen := shgen, shcell := shcell, level := level, arrival := arrival
    urgent := false, st := .queued, rects := [], herds := [], toStart := [], range := rangeStart lb, td := [], quotaUsed := 0
    entry := 0, failure := none, swaps := 0, resizes := 0, clamp := false, clockReq := lb.clock, km := 4, kv := 4, relaxed := false
    tvecs := Vector.replicate 8 0
    saved := [], scanned := [], pins := [], slice := (4, 6, 0), began := 0, claimedBy := [], kids := [], proposal := []
    swapping := false, suspended := false, order := 0, kept := false, contained := none }

/-- A task arrives: its team number and the state. -/
def addTask (s : State) (t : Nat → Team) : Nat × State :=
  (s.nextTeam, { s with teams := SMap.set s.teams s.nextTeam (t s.arrivals), nextTeam := s.nextTeam + 1, arrivals := s.arrivals + 1 })

/-- The die of a team's range unit and quota (R65, R377): that of its first rectangle. -/
def Team.home (t : Team) : Nat := (t.rects.head?.map (fun r => r.die)).getD 0

/-- A team holds herds or is coming to hold them. -/
def Team.placed (t : Team) : Bool :=
  match t.st with
  | .starting | .running | .ending => true
  | _ => false

/-- A team's quota is in force: from its placement until it has no herds any more. -/
def Team.reserves (t : Team) : Bool := t.placed && !(t.st == .ending && t.herds.isEmpty)

/-- The entries of a die's pool that quotas in force reserve, and those that kids of other teams still hold of theirs. -/
def quotas (s : State) (d : Nat) : Nat :=
  s.teams.foldl (fun n p => if p.2.home == d then n + (if p.2.reserves then p.2.lb.quota else p.2.quotaUsed) else n) 0

/-- The enabled herds of a die: those with an enabled core. -/
def dieHerds (s : State) (d : Nat) : Nat :=
  if s.fused.isEmpty then 640
  else ((List.range 640).filter (fun h => (List.range 8).any (fun c => !s.fused.contains (herdCore (640 * d + h) c)))).length

/-- The entry that a kid of a team, spawned on a die, takes (R67, R377): 1 of the quota, which serves every spawn of the team (log 69),
2 of the pool, which no kid enters before those that wait for it, 0 a place in the memory-backed queue; none where that queue is full or not
placed. -/
def kidEntry (s : State) (parent : Team) (d : Nat) : Option Nat :=
  let x := dieAt s d
  if parent.reserves && parent.quotaUsed < parent.lb.quota then some 1
  else if x.kidWait.isEmpty && x.poolUsed + quotas s d < 16384 then some 2
  else if x.kidQ.placed && x.kidWait.length < 2 ^ x.kidQ.size then some 0
  else none

/-- A pool entry is taken. -/
def takeEntry (s : State) (parent d e kid : Nat) : State :=
  match e with
  | 1 => modTeamAt s parent (fun t => { t with quotaUsed := t.quotaUsed + 1 })
  | 2 => modDieAt s d (fun x => { x with poolUsed := x.poolUsed + 1 })
  | _ => modDieAt s d (fun x => { x with kidWait := x.kidWait ++ [kid] })

/-- The identifier after n. -/
def nextId (n : Nat) : Nat := if n + 1 = 2 ^ 32 then 1 else n + 1

/-- A kid that has not completed has an identifier (R303). -/
def idUsed (s : State) (n : Nat) : Bool :=
  s.teams.any (fun p => match p.2.src with | .kid i _ _ _ => i == n && p.2.st != .ended && p.2.st != .failed | _ => false)

/-- The first identifier from n on that no such kid has; `fuel` bounds the search. -/
def freeId (s : State) : Nat → Nat → Nat
  | 0, n => n
  | fuel + 1, n => if idUsed s n then freeId s fuel (nextId n) else n

/-- Core k spawns a kid from a block, in the mode of its SPAWN (R67, R303, R366): its identifier, or none where there is no place for it.
The kid's owner is named as views' owners are, which a migration keeps (R304). -/
def spawnKid (s : State) (k : Nat) (user : Bool) (lb : LaunchBlock) : Option (Nat × State) :=
  let c := coreAt s k
  let tn := c.team.getD 0
  match teamAt s tn with
  | none => none
  | some parent =>
    let d := dieOf k
    (kidEntry s parent d).map (fun e =>
      let id := freeId s s.teams.length s.nextKid
      let owner := ownerOf s k
      let level := taskLevel lb.prio user parent.urgent
      let (n, s) := addTask s (fun a =>
        { newTeam (.kid id tn owner d) lb parent.asid parent.root parent.shgen parent.shcell level a with
          td := parent.td, pins := parent.pins, entry := e })
      let s := takeEntry s tn d e n
      (id, { modTeamAt s tn (fun t => { t with kids := t.kids.filter (fun x => x.1 != id) ++ [(id, owner, none)] }) with
             nextKid := nextId id }))

/-- SPAWN at the dispatcher, in the mode of its issue (R303): its answer and the state. -/
def spawnOp (s : State) (k : Nat) (user : Bool) (a b : Word) : Word × State :=
  if !space0 a.toNat 64 then (-1, s)
  else match readLaunch (coreRead s k user) (coreRead s k user) false (dieHerds s (dieOf k)) (a.toNat % 2 ^ 52) with
    | .error .reserved => (-8, s)
    | .error .malformed => (-1, s)
    | .ok lb =>
      match spawnKid s k user { lb with args := b } with
      | none => (-11, s)
      | some (id, s') => (word id, s')

/-! ### Records (R100, R305) -/

/-- A completion record, its PHASE clear. -/
def recordOf (s : State) (gen cell sheet kind status source : Nat) (fault : Word) : Nat :=
  (ioClock s) % 2 ^ 64 * 2 ^ 192 + gen % 2 ^ 48 * 2 ^ 144 + cell % 2 ^ 20 * 2 ^ 124 + sheet % 256 * 2 ^ 116 + kind % 16 * 2 ^ 112
    + status % 256 * 2 ^ 104 + source % 256 * 2 ^ 96 + fault.toNat

/-- The operands of EVPOST are well formed (R305). -/
def evpostOk (s : State) (a b : Word) : Bool :=
  if a.getLsbD 63 then bits a.toNat 62 57 == 0 && bits a.toNat 40 0 == 0 && b == 0 && (coreOfLoc s (a.toNat / 2 ^ 41 % 2 ^ 7
      + a.toNat / 2 ^ 48 % 2 ^ 6 * 2 ^ 7 + a.toNat / 2 ^ 54 % 8 * 2 ^ 13)).isSome
  else bits a.toNat 62 16 == 0 && bits a.toNat 7 6 == 0

/-- EVPOST's effect (R305): a record, or EVSTAT.WAKE of a core. -/
def evpostOp (s : State) (k : Nat) (a b : Word) : State :=
  if a.getLsbD 63 then
    let t := coreKey (a.toNat / 2 ^ 54 % 8) (a.toNat / 2 ^ 48 % 64) (a.toNat / 2 ^ 41 % 128)
    modCoreAt (setEvent s t 2) t (fun c => { c with stalled := false })
  else
    let sh := (coreAt s k).shcell.toNat
    ringPost s (a.toNat % 64) (recordOf s (b.toNat % 2 ^ 48) sh (sh / 2 ^ 20) 6 (a.toNat / 256) (16 + dieOf k) 0)

end Sys2Proof.Machine
end

