-- ==== Sys2Proof/Machine/Sync.lean ====
section
/-!
DEFINITION. Barrier objects, wired barriers, the range unit, kids, posted events and tree tables (R296 to R309): their instructions, and
the events of the wired-barrier network and of the range unit.
-/

namespace Sys2Proof.Machine

/-! ### Barrier objects (R297) -/

/-- The place of a barrier object. -/
def barrierPlace (kind : Kind) (x : Word) : Act (Place × Policy) := do
  trapIf (x.toNat % 16 != 0) (if kind = .take then 4 else 6) x
  checkPlace kind x 16 0

/-- BINIT, BARV, BEXP, BINV without a result: a commit-queue entry, held in a region. -/
def barrierSilent (f : Nat) (reads : Act (Word × Word)) : Act Unit := do
  let (x, y) ← reads
  let pl ← barrierPlace .put x
  appendEntry (← mkEntry (.barrier f y false) pl x 2 3)
  retire 4

/-- BINIT, BARV, BEXP, BINV with a result. -/
def barrierResult (f : Nat) (d : BitVec 4) (reads : Act (Word × Word)) : Act Unit :=
  withReply .reply reads
    (fun r => do
      let pl ← barrierPlace .put r.1
      canWrite d.toNat
      let c ← getC
      waitUntil (c.rbuf.isEmpty && c.cq.length < 16)
      let e ← mkEntry (.barrier f r.2 true) pl r.1 2 3
      return fun s => modCoreAt s s.cur (fun c => { c with cq := c.cq ++ [{ e with committed := true }], stamp := c.stamp + 1 }))
    (fun _ v _ => do writeReg d.toNat v; retire 4)

/-- The operands sA and sB. -/
def readTwo (a b : BitVec 4) : Act (Word × Word) := do
  let x ← readReg a.toNat
  let y ← readReg b.toNat
  return (x, y)

/-- A barrier operation, by its instruction (without its registers) and its function. -/
def barrierOp (i : Instr) (f : Nat) (d : BitVec 4) (regs : List Nat) (reads : Act (Word × Word)) (s : State) : Out :=
  if d = 0 then runInstr (barrierSilent f reads) s else runTermOnce i regs [d.toNat] (barrierResult f d reads) s

/-- BINIT. -/
def execBinit (d a b : BitVec 4) (s : State) : Out := barrierOp (.binit 0 0 0) 0 d [a.toNat, b.toNat] (readTwo a b) s
/-- BARV. -/
def execBarv (d a b : BitVec 4) (s : State) : Out := barrierOp (.barv 0 0 0) 1 d [a.toNat, b.toNat] (readTwo a b) s
/-- BEXP. -/
def execBexp (d a b : BitVec 4) (s : State) : Out := barrierOp (.bexp 0 0 0) 2 d [a.toNat, b.toNat] (readTwo a b) s
/-- BINV. -/
def execBinv (d a : BitVec 4) (s : State) : Out :=
  barrierOp (.binv 0 0) 4 d [a.toNat] (do let x ← readReg a.toNat; return (x, 0)) s

/-- BWAIT: a message to the bank, and a wait for its reply (R297, R309). -/
def execBwait (d a b : BitVec 4) (s : State) : Out :=
  runTermOnce (.bwait 0 0 0) [a.toNat, b.toNat] [d.toNat] (withReply .bank (readTwo a b)
    (fun r => do
      let pl ← barrierPlace .take r.1
      canWrite d.toNat
      afterAcquire
      return fun s => { s with net := s.net ++ [{ src := s.cur, dst := pl.1.key, off := pl.1.addr, ea := r.1, kind := .bwait (bits r.2.toNat 22 0) }] })
    (fun _ v _ => do writeReg d.toNat v; retire 4)) s

/-! ### Wired barriers (R299 to R301) -/

/-- Group g of a die. -/
def groupAt (s : State) (d g : Nat) : WGroup := vget (dieAt s d).groups WGroup.reset g
/-- The state with a group changed. -/
def modGroupAt (s : State) (d g : Nat) (f : WGroup → WGroup) : State :=
  modDieAt s d (fun x => { x with groups := vset x.groups g (f (vget x.groups WGroup.reset g)) })

/-- The dies over which a group is joined: those on which the group of its number is assigned to its team (R301). -/
def groupDies (s : State) (d g : Nat) : List Nat :=
  let t := (groupAt s d g).team
  if t = 0 then [d] else (List.range 8).filter (fun e => (groupAt s e g).team == t)

/-- Completes the phase of a group if every current member has arrived (R300). -/
def settleGroup (s : State) (d g : Nat) : State :=
  let ds := groupDies s d g
  let ms := ds.flatMap (fun e => (groupAt s e g).members)
  if !ms.isEmpty && ms.all (fun m => m.2) then
    let s := ds.foldl (fun s e => modGroupAt s e g (fun x =>
      { x with counter := x.counter + 1, members := x.members.map (fun m => (m.1, false)) })) s
    ms.foldl (fun s m => modCoreAt s (m.1 % 65536) (fun c => { c with stalled := false })) s
  else s

/-- The name of a core among the members of groups: with its team, since a swapped-out team keeps its groups (R360, R372). -/
def memberKey (s : State) (k : Nat) : Nat := 65536 * (coreAt s k).team.getD 0 + k
/-- The core is a member of a group. -/
def memberOf (s : State) (k g : Nat) : Bool := (groupAt s (dieOf k) g).members.any (fun m => m.1 == memberKey s k)
/-- The core has arrived in the current phase. -/
def hasArrived (s : State) (k g : Nat) : Bool := (groupAt s (dieOf k) g).members.contains (memberKey s k, true)

/-- The core leaves every group of its die; a group whose other members have all arrived completes its phase (R299). -/
def leaveGroups (s : State) (k : Nat) : State :=
  let d := dieOf k
  let key := memberKey s k
  let mine := (List.range 16).filter (fun g => memberOf s k g)
  mine.foldl (fun s g => settleGroup (modGroupAt s d g (fun x => { x with members := x.members.filter (fun m => m.1 != key) })) d g)
    (modCoreAt s k (fun c => { c with arrival := none }))

/-- The core's own arrival is on its way, or belongs to a phase that has not completed. -/
def arrivalPending (s : State) (k : Nat) : Bool :=
  (coreAt s k).arrival.isSome || (List.range 16).any (fun g => hasArrived s k g)

/-- WBMASK (R299). -/
def execWbmask (a : BitVec 4) (s : State) : Out :=
  runTerm (do
    let x ← readReg a.toNat
    let s ← get
    let k := s.cur
    let g := x.toNat % 16
    let joins := x.getLsbD 4
    let assigned := (groupAt s (dieOf k) g).team != 0 && s.core.team == some (groupAt s (dieOf k) g).team
    if x.toNat / 32 != 0 || (joins && !assigned) then illegal (.wbmask a) 0x02
    waitUntil (!arrivalPending s k)
    modify (fun s =>
      let s := leaveGroups s k
      if joins then modGroupAt s (dieOf k) g (fun y => { y with members := y.members ++ [(memberKey s k, false)] }) else s)
    modC (fun c => { c.overwritten [4096 + 0x004] with wbmask := x })
    retire 4) s

/-- WBARA (R300): sD receives the counter of the phase that the arrival will complete. -/
def execWbara (d a grp : BitVec 4) (s : State) : Out :=
  runTerm (do
    let x ← readReg a.toNat
    let s ← get
    let k := s.cur
    let g := grp.toNat
    if memberOf s k g then pure () else illegal (.wbara d a grp) 0x07
    waitUntil (!arrivalPending s k)
    writeReg d.toNat ((groupAt s (dieOf k) g).counter.setWidth 64)
    modC (fun c => { c with arrival := some (g, x.getLsbD 0, c.stamp), stamp := c.stamp + 1 })
    retire 4) s

/-- WBARW (R300, R309). -/
def execWbarw (d a grp : BitVec 4) (s : State) : Out :=
  runTerm (do
    let x ← readReg a.toNat
    canWrite d.toNat
    let s ← get
    let k := s.cur
    let g := grp.toNat
    if memberOf s k g then pure () else illegal (.wbarw d a grp) 0x07
    let n := (groupAt s (dieOf k) g).counter
    noPoison 0 (4096 + 0x001)
    waitUntil (n != x.setWidth 32 || s.core.evstat != 0)
    writeReg d.toNat (n.setWidth 64)
    retire 4) s

/-- A core's arrival enters its group, after the earlier commit-queue entries where it waits for them (R300). -/
def arriveGroup (s : State) (k : Nat) : Option State :=
  match (coreAt s k).arrival with
  | none => none
  | some (g, drain, stamp) =>
    if drain && !priorPerformed s k stamp 3 then none
    else
      let d := dieOf k
      let key := memberKey s k
      let s := modCoreAt s k (fun c => { c with arrival := none })
      some (settleGroup (modGroupAt s d g (fun x =>
        { x with members := x.members.map (fun m => if m.1 = key then (key, true) else m) })) d g)

/-- WBAR_ARRIVE (R300). -/
def execWbarArrive (core : Nat) (s : State) : Out := happen s (arriveGroup s core)

/-! ### The range unit (R302, R374) -/

/-- RNGINIT (R302): in a twin pair once (R412). -/
def execRnginit (a : BitVec 4) (s : State) : Out :=
  runTermOnce (.rnginit 0) [a.toNat] [] (do
    let x ← readReg a.toNat
    modify (fun s => modTeamAt s (s.core.team.getD 0) (fun t => { t with range := { t.range with
      next := 0, ns := if x.toNat / 2 ^ 35 = 0 then bits x.toNat 31 0 else 0, factor := bits x.toNat 34 32 + 1, returned := [] } }))
    retire 4) s

/-- RNGGET (R302): a request to the range unit, and a wait for its answer. -/
def execRngget (d a : BitVec 4) (s : State) : Out :=
  runTermOnce (.rngget 0 0) [a.toNat] (if d = 0 then [] else [d.toNat, d.toNat + 1]) (withReply .reply (readReg a.toNat)
    (fun x => do
      if x.toNat / 2 = 0 then pure () else illegal (.rngget d a) 0x02
      if d != 0 then
        canWrite d.toNat
        canWrite (d.toNat + 1)
      return fun s => modTeamAt (modCoreAt s s.cur (fun c => { c with command := some (.rngget (x.getLsbD 0)) })) (s.core.team.getD 0)
        (fun t => { t with range := { t.range with requests := t.range.requests ++ [s.cur] } }))
    (fun _ u v => do writePair d.toNat u v; retire 4)) s

/-- The returned chunk with the lowest first slice. -/
def lowestChunk : List (Nat × Nat) → Option (Nat × Nat)
  | [] => none
  | x :: rest => match lowestChunk rest with | some y => if y.1 < x.1 then some y else some x | none => some x

/-- The next chunk of a range (R374), and the range: a returned one whole; else new slices; none where nothing remains. -/
def RangeUnit.take (r : RangeUnit) (teamsz : Nat) : Option (Nat × Nat) × RangeUnit :=
  match lowestChunk r.returned with
  | some x => (some x, { r with returned := r.returned.erase x })
  | none =>
    let rem := r.ns - r.next
    if rem = 0 then (none, r)
    else
      let q := r.factor * max teamsz 1
      let n := min rem (max 1 ((rem + q - 1) / q))
      (some (r.next, n), { r with next := r.next + n })

/-- The core, and its twin, with SLICE written. -/
def setSlice (s : State) (k : Nat) (v : Word) : State :=
  let s := modCoreAt s k (fun c => { c.overwritten [4096 + 0x014] with slice := v })
  match (coreAt s k).twin with
  | some (p, _) => modCoreAt s p (fun c => { c.overwritten [4096 + 0x014] with slice := v })
  | none => s

/-- The range unit serves the oldest request of a team, which must be the given core's (R302, R374). -/
def serveRange (s : State) (k : Nat) : Option State :=
  let c := coreAt s k
  let tn := c.team.getD 0
  match teamAt s tn, c.command with
  | some t, some (.rngget retireOnly) =>
    if t.range.requests.head? ≠ some k then none
    else
      let pop (r : RangeUnit) : RangeUnit := { r with requests := r.requests.drop 1 }
      let s := modCoreAt s k (fun c => { c with chunk := none, command := none })
      if retireOnly then
        some (replyTo (modTeamAt s tn (fun t => { t with range := pop t.range })) k (.value 0 0))
      else
        let (x, r) := t.range.take c.teamsz.toNat
        let s := modTeamAt s tn (fun t => { t with range := pop r })
        (match x with
         | some (first, n) =>
           some (replyTo (modCoreAt (setSlice s k (word first)) k (fun c => { c with chunk := some (first, n) })) k
             (.value (word first) (word n)))
         | none =>
           let v := Config.noSlice s.free
           some (replyTo (setSlice { s with free := s.free + 1 } k v) k (.value v 0)))
  | _, _ => none

/-- RANGE_REQUEST (R374). -/
def execRangeRequest (core : Nat) (s : State) : Out := happen s (serveRange s core)

/-! ### Kids and posted events (R303 to R305) -/

/-- A held command without a place. -/
def holdCommand (i : Instr) (a : Action) : Act Unit := do
  let c ← getC
  appendHeld { act := a, place := { space := .mem, key := 0, addr := 0 }, ea := 0, pol := .direct, ord := 2, scope := 3
               stamp := c.stamp, committed := false, sent := false, checked := false, user := !c.supervisor, enc := encode i }
  modC (fun c => { c with stamp := c.stamp + 1 })

/-- A command that releases at DEV scope acts once every earlier access of the core has performed there (R121). -/
def released : Act Unit := do
  let s ← get
  waitUntil (fenced s s.cur 3)

/-- SPAWN (R303): the block's address is checked as a load; in a region with D = s0 it is held. -/
def spawnAct (d a b : BitVec 4) : Act Unit := do
  let x ← readReg a.toNat
  let y ← readReg b.toNat
  canWrite d.toNat
  if space0 x.toNat 64 then let _ ← checkAccess .load x 64 0
  if (← getC).region.isSome then
    holdCommand (.spawn d a b) (.spawn x y)
    retire 4
  else
    released
    let s0 ← get
    let user := !s0.core.supervisor
    if space0 x.toNat 64 then engineReads (launchReads (coreRead s0 s0.cur user) (x.toNat % 2 ^ 52))
    let s ← get
    let (r, s') := spawnOp s s.cur user x y
    set s'
    writeReg d.toNat r
    retire 4

/-- SPAWN. -/
def execSpawn (d a b : BitVec 4) (s : State) : Out :=
  if d = 0 ∧ s.core.region.isSome = true then runInstr (spawnAct d a b) s
  else runTermOnce (.spawn 0 0 0) [a.toNat, b.toNat] [d.toNat] (spawnAct d a b) s

/-- What JOIN answers for its operand (R304), 0 or a kid's identifier in its low half; none while it waits. -/
def joinStatus (s : State) (k : Nat) (x : Word) : Option Int :=
  match teamAt s ((coreAt s k).team.getD 0) with
  | none => if x = 0 then some 0 else some (-9)
  | some t =>
    let mine := if x = 0 then t.kids.filter (fun y => y.2.1 == ownerOf s k) else t.kids.filter (fun y => y.1 == bits x.toNat 31 0)
    if x ≠ 0 ∧ mine = [] then some (-9)
    else if mine.any (fun x => x.2.2.isNone) then none
    else if mine.any (fun x => x.2.2 == some true) then some (-10)
    else some 0

/-- JOIN (R304, R309). -/
def execJoin (d a : BitVec 4) (s : State) : Out :=
  runTermOnce (.join 0 0) [a.toNat] [d.toNat] (do
    let s0 ← get
    let x ← readReg a.toNat
    canWrite d.toNat
    let s ← get
    match joinStatus s s.cur x with
    | none => throw (.block (modCoreAt s0 s0.cur (fun c => { c with wait := some .join })))
    | some r =>
      writeReg d.toNat (BitVec.ofInt 64 r)
      retire 4) s

/-- EVPOST (R305); its record reads SHCELL (R405). -/
def evpostAct (d a b : BitVec 4) : Act Unit := do
  let x ← readReg a.toNat
  let y ← readReg b.toNat
  let s ← get
  if evpostOk s x y && !x.getLsbD 63 then noPoison 0 (4096 + 0x019)
  if !evpostOk s x y then
    writeReg d.toNat (-1)
    retire 4
  else if s.core.region.isSome then
    holdCommand (.evpost d a b) (.evpost x y)
    retire 4
  else
    canWrite d.toNat
    released
    modify (fun s => evpostOp s s.cur x y)
    writeReg d.toNat 0
    retire 4

/-- EVPOST. -/
def execEvpost (d a b : BitVec 4) (s : State) : Out :=
  if d = 0 ∧ s.core.region.isSome = true then runInstr (evpostAct d a b) s
  else runTermOnce (.evpost 0 0 0) [a.toNat, b.toNat] [d.toNat] (evpostAct d a b) s

/-! ### Tree tables (R306, R307) -/

/-- The core of a node: none where it is not an enabled core. -/
def nodeCore (s : State) (w : Nat) : Option Nat :=
  let k := coreKey (bits w 18 16) (bits w 24 19) (bits w 31 25)
  if bits w 31 25 < 80 && !s.fused.contains k then some k else none

/-- A node breaks the parent rule. -/
def parentBad (ws : List Nat) : Bool :=
  (ws.zipIdx).any (fun x => if x.2 = 0 then x.1 % 65536 != 0xFFFF else x.2 ≤ x.1 % 65536)

/-- The result of a table whose header is in range (R307), and its cores. -/
def treeStatus (s : State) (n header : Nat) (ws : List Nat) : Int × List Nat :=
  let st := streamAt s n
  let cores := ws.filterMap (nodeCore s)
  if header / 2 ^ 13 ≠ 0 ∨ ws.any (fun w => w / 2 ^ 32 != 0) = true then (-8, [])
  else if parentBad ws then (-6, [])
  else if cores.length < ws.length ∨ ¬ cores.Nodup then (-7, [])
  else if !st.subs.isEmpty || !st.queue.isEmpty then (-5, [])
  else (0, cores)

/-- The place of a doubleword of a tree table: its faults are causes 5 and 13 (R307). -/
def tablePlace (ea : Word) : Act (Word × Nat × (Place × Policy)) := do
  trapIf (ea.toNat % 8 != 0) 5 ea
  let pl ← checkAccess .load ea 8 0
  return (ea, 8, pl)

/-- The nodes that a header announces: none where their number is out of range. -/
def treeNodes (header : Nat) : Nat := if header % 2 ^ 13 ≤ 4096 then header % 2 ^ 13 else 0

/-- A table whose loads leave the core: its header is loaded first and then, once the answer has come, the nodes that it announces. -/
def awayTable (s0 : State) (x : Word) (head : Word × Nat × (Place × Policy)) : Act (Nat × List Nat) := do
  if s0.core.wait ≠ some .reply then
    let _ ← awayValues s0 [head] 0
    return (0, [])
  else
    let mine := s0.core.awayLoads
    waitUntil (mine.all (fun l => l.fwd.length == l.size))
    let vals := mine.map (fun l => leNat (fun i => SMap.getD l.fwd 0 i) l.size)
    let header := vals.headD 0
    if mine.length = 1 ∧ treeNodes header ≠ 0 then
      match ((List.range (treeNodes header)).mapM (fun i => tablePlace (x + word (8 + 8 * i)))) s0 with
      | .ok (els, _) => throw (.block (sendAway s0 els 0))
      | .error e => throw e
    else
      modC Core.dropAway
      return (header, vals.drop 1)

/-- The header and the nodes of the table at an address. -/
def treeTable (s0 : State) (x : Word) : Act (Nat × List Nat) := do
  match s0.core.reply with
  | some (.trap c v) => trap c v
  | _ =>
    let head ← tablePlace x
    if head.2.2.1.away s0.cur then awayTable s0 x head
    else
      let header := (← gather s0 [head]).headD 0
      let els ← (List.range (treeNodes header)).mapM (fun i => tablePlace (x + word (8 + 8 * i)))
      let ws ← gather s0 els
      return (header, ws)

/-- TREELD (R307). -/
def execTreeld (d a b : BitVec 4) (s : State) : Out :=
  runTermOnce (.treeld 0 0 0) [a.toNat, b.toNat] [d.toNat] (do
    let s0 ← get
    let x ← readReg a.toNat
    let y ← readReg b.toNat
    canWrite d.toNat
    let st := streamAt s0 y.toNat
    if y.toNat / 2 ^ 12 ≠ 0 then writeReg d.toNat (-1)
    else if x = 0 then
      if !st.subs.isEmpty || !st.queue.isEmpty then writeReg d.toNat (-5)
      else
        modify (fun s => modStreamAt s y.toNat (fun st => { st with tree := [], team := none }))
        writeReg d.toNat 0
    else
      let (header, ws) ← treeTable s0 x
      if treeNodes header = 0 then writeReg d.toNat (-1)
      else
        let (r, cores) := treeStatus s0 y.toNat header ws
        if r = 0 then
          modify (fun s => modStreamAt s y.toNat (fun st => { st with tree := cores, team := s.core.team }))
        writeReg d.toNat (BitVec.ofInt 64 r)
    retire 4) s

end Sys2Proof.Machine
end

