-- ==== Sys2Proof/Machine/Bank.lean ====
section
/-!
DEFINITION. What arrives at the banks of the cores (R112, R221, R230, R232, R297, R298): remote loads, stores and atomics, the full/empty
operations and the barrier operations; and the withdrawal of a wait (R233, R309).
-/

namespace Sys2Proof.Machine

/-! ### Twins' banks (R414) -/

/-- The full/empty bits, deferred lists and waiters that a full/empty or barrier operation leaves at a doubleword pair of a primary's A buffer
stand in its twin's too; the bytes that it writes do so as they are written (`setWordAt`). -/
def mirrorSync (s : State) (key off : Nat) : State :=
  match (coreAt s key).twin with
  | some (p, true) =>
    let c := coreAt s key
    let b := off / 16 * 16
    noteWrite (modCoreAt s p (fun t => { t with
      full := (List.range 2).foldl (fun l i => if c.full.contains (b / 8 + i) then insertNat l (b / 8 + i) else l.filter (· != b / 8 + i)) t.full
      deferred := (List.range 2).foldl (fun m i => SMap.put m [] (b / 8 + i) (SMap.getD c.deferred [] (b / 8 + i))) t.deferred
      barWait := match SMap.get? c.barWait b with | some l => SMap.set t.barWait b l | none => SMap.erase t.barWait b })) p
  | _ => s

/-! ### Full/empty words (R229, R232) -/

/-- The value of a doubleword of a core's A buffer. -/
def wordAt (s : State) (t off : Nat) : Word := word (placeNat s { space := .bufA, key := t, addr := off / 8 * 8 } 8)
/-- The state with a doubleword of an A buffer written whole, its poison cleared (R404), and in a twin's bank too (R414). -/
def setWordAt (s : State) (t off : Nat) (v : Word) : State :=
  let p : Place := { space := .bufA, key := t, addr := off / 8 * 8 }
  let write (s : State) (p : Place) : State := cleanPlace (setPlaceBytes s p (leBytes v.toNat 8)) p 8
  let s := write s p
  let s := match (coreAt s t).twin with | some (q, true) => write s { p with key := q } | _ => s
  noteBank s p
/-- The deferred list of a word. -/
def waitersAt (s : State) (t off : Nat) : List Waiter := SMap.getD (coreAt s t).deferred [] (off / 8)
/-- The state with a word's deferred list replaced. -/
def setWaiters (s : State) (t off : Nat) (l : List Waiter) : State :=
  modCoreAt s t (fun c => { c with deferred := SMap.put c.deferred [] (off / 8) l })
/-- The word is full. -/
def isFull (s : State) (t off : Nat) : Bool := (coreAt s t).full.contains (off / 8)
/-- The state with a word's full/empty bit set or cleared. -/
def setFull (s : State) (t off : Nat) (b : Bool) : State :=
  modCoreAt s t (fun c => { c with full := if b then insertNat c.full (off / 8) else c.full.filter (fun i => i != off / 8) })

/-- Bank.Take (R232). -/
def bankTake (s : State) (t off k : Nat) : State :=
  if isFull s t off then
    let s := replyTo s k (.value (wordAt s t off) 0)
    match waitersAt s t off with
    | .put p v :: rest => popEntry (setWaiters (setWordAt s t off v) t off rest) p
    | _ => setFull s t off false
  else setWaiters s t off (waitersAt s t off ++ [.take k])

/-- Bank.Peek. -/
def bankPeek (s : State) (t off k : Nat) : State :=
  if isFull s t off then replyTo s k (.value (wordAt s t off) 0)
  else setWaiters s t off (waitersAt s t off ++ [.peek k])

/-- The waiters that a put serves: the leading peeks, and a take after them; whether a take has had the value, and the rest. -/
def servePut (v : Word) : List Waiter → State → State × List Waiter × Bool
  | .peek k :: rest, s => servePut v rest (replyTo s k (.value v 0))
  | .take k :: rest, s => (replyTo s k (.value v 0), rest, true)
  | rest, s => (s, rest, false)

/-- Bank.Put: on a full word it joins the list, and stays at the head of its core's queue. -/
def bankPut (s : State) (t off k : Nat) (v : Word) : State :=
  if isFull s t off then setWaiters s t off (waitersAt s t off ++ [.put k v])
  else
    let s := popEntry (setWordAt s t off v) k
    let (s, rest, taken) := servePut v (waitersAt s t off) s
    setFull (setWaiters s t off rest) t off (!taken)

/-- Bank.Init: refused where the word is sync-tagged. -/
def bankInit (s : State) (t off k : Nat) (v : Word) (full : Bool) (ea : Word) : State :=
  if syncTagged (coreAt s t) (off / 8 * 8) then refuseEntry (popEntry s k) k 28 ea false
  else popEntry (setFull (setWordAt s t off v) t off full) k

/-! ### Barrier objects (R296, R297) -/

/-- A barrier object's fields. -/
structure Barrier where
  valid : Bool
  phase : Nat
  exp : Nat
  arr : Nat
  pend : Int
  deriving DecidableEq, Repr

/-- The object at an offset of a core's A buffer; it is valid while its waiters are kept. -/
def barrierAt (s : State) (t off : Nat) : Barrier :=
  let w := (wordAt s t off).toNat
  { valid := (SMap.get? (coreAt s t).barWait off).isSome, phase := bits w 62 40, exp := bits w 39 20, arr := bits w 19 0
    pend := (wordAt s t (off + 8)).toInt }

/-- The state with an object written. -/
def setBarrier (s : State) (t off : Nat) (o : Barrier) : State :=
  let s := setWordAt s t off (word ((if o.valid then 2 ^ 63 else 0) + o.phase % 2 ^ 23 * 2 ^ 40 + o.exp % 2 ^ 20 * 2 ^ 20 + o.arr % 2 ^ 20))
  setWordAt s t (off + 8) (BitVec.ofInt 64 o.pend)

/-- The waiters of an object. -/
def barWaiters (s : State) (t off : Nat) : List Nat := SMap.getD (coreAt s t).barWait [] off
/-- Every waiter is released with an answer. -/
def releaseBar (s : State) (t off : Nat) (v : Word) : State := (barWaiters s t off).foldl (fun s k => replyTo s k (.value v 0)) s
/-- The state with an object's waiters replaced. -/
def setBarWaiters (s : State) (t off : Nat) (l : List Nat) : State := modCoreAt s t (fun c => { c with barWait := SMap.set c.barWait off l })

/-- The phase of an object is complete. -/
def Barrier.due (o : Barrier) : Bool := o.valid && o.arr == o.exp && o.pend == 0

/-- Complete(o), and the object written. -/
def completeBar (s : State) (t off : Nat) (o : Barrier) : State :=
  if o.due then
    let phase := (o.phase + 1) % 2 ^ 23
    setBarWaiters (releaseBar (setBarrier s t off { o with phase := phase, arr := 0 }) t off (word phase)) t off []
  else setBarrier s t off o

/-- BINIT at the bank: OK, BADARG, or refused where a word of it has a deferred list (R298). -/
def barInit (s : State) (t off : Nat) (b : Word) : State × Option Word :=
  if !(waitersAt s t off).isEmpty || !(waitersAt s t (off + 8)).isEmpty then (s, none)
  else if b = 0 ∨ 2 ^ 20 ≤ b.toNat then (s, some (-1))
  else
    let s := releaseBar s t off (-3)
    (setBarWaiters (setBarrier s t off { valid := true, phase := 0, exp := b.toNat, arr := 0, pend := 0 }) t off [], some 0)

/-- BARV at the bank: the phase before the arrival. -/
def barArrive (s : State) (t off : Nat) (b : Word) : State × Word :=
  let o := barrierAt s t off
  if !o.valid then (s, -2)
  else if b = 0 ∨ 2 ^ 20 ≤ b.toNat then (s, -1)
  else if o.exp < o.arr + b.toNat then (s, -4)
  else (completeBar s t off { o with arr := o.arr + b.toNat }, word o.phase)

/-- BEXP at the bank. -/
def barExpect (s : State) (t off : Nat) (b : Word) : State × Word :=
  let o := barrierAt s t off
  if !o.valid then (s, -2)
  else if 2 ^ 32 ≤ b.toNat then (s, -1)
  else (completeBar s t off { o with pend := o.pend + b.toNat }, 0)

/-- BINV at the bank. -/
def barInvalid (s : State) (t off : Nat) : State × Word :=
  let o := barrierAt s t off
  if !o.valid then (s, -2)
  else
    let s := releaseBar s t off (-2)
    (modCoreAt (setBarrier s t off { o with valid := false }) t (fun c => { c with barWait := SMap.erase c.barWait off }), 0)

/-- BWAIT at the bank: it writes the object only where its phase is complete. -/
def barWaitFor (s : State) (t off k phase : Nat) : State :=
  let o := barrierAt s t off
  if !o.valid then replyTo s k (.value (-2) 0)
  else
    let s := if o.phase ≠ phase then replyTo s k (.value (word o.phase) 0) else setBarWaiters s t off (barWaiters s t off ++ [k])
    if o.due then completeBar s t off o else s

/-- The BAR completion action of a job (R297): on an invalid object it has no effect.  No core reads the object into its state, so that its
poison moves with what is written back (R404, R405). -/
def barSubtract (s : State) (t off n : Nat) : State :=
  let o := barrierAt s t off
  let bad := (coreAt s t).poison.filter (fun q => q.1 == 1 && off / 8 ≤ q.2 && q.2 ≤ off / 8 + 1)
  if o.valid then
    modCoreAt (completeBar s t off { o with pend := o.pend - n }) t (fun c => { c with
      poison := c.poison ++ bad.filter (fun q => !c.poison.contains q) })
  else s

/-- A barrier entry at the head of core k's queue performs at the bank. -/
def barEntry (s : State) (t off k f : Nat) (b ea : Word) (reply : Bool) : State :=
  let s' := popEntry s k
  let (s'', r) : State × Option Word :=
    if f = 0 then barInit s' t off b
    else if f = 1 then let x := barArrive s' t off b; (x.1, some x.2)
    else if f = 2 then let x := barExpect s' t off b; (x.1, some x.2)
    else let x := barInvalid s' t off; (x.1, some x.2)
  match r with
  | some v => if reply then replyTo s'' k (.value v 0) else s''
  | none => refuseEntry s'' k 28 ea reply

/-! ### Messages (R112) -/

/-- The message at a position, if no earlier one of its sender to its bank is still on its way. -/
def nextMsg (s : State) (i : Nat) : Option Msg :=
  match s.net[i]? with
  | some m => if (s.net.take i).any (fun x => x.src == m.src && x.dst == m.dst) then none else some m
  | none => none

/-- The state without a message. -/
def dropMsg (s : State) (i : Nat) : State := { s with net := s.net.eraseIdx i }

/-- The entry that a message carries: the head of its sender's queue. -/
def sentHead (s : State) (k : Nat) : Option Entry :=
  match (coreAt s k).cq with
  | e :: _ => if e.sent then some e else none
  | [] => none

/-- A remote load performs at its bank, and its instruction has the value (R112, R230), with the bytes forwarded at issue before those of
the bank (R109); a contained rectangle refuses it precisely (R221). -/
def arriveLoad (s : State) (m : Msg) (stamp : Nat) : State :=
  match (coreAt s m.src).loads.find? (fun l => l.stamp == stamp) with
  | none => s
  | some l =>
    if contained s m.dst then replyTo (modCoreAt s m.src Core.dropAway) m.src (.trap 32 l.ea)
    else match poisonAt s l.place l.size with
      | some (u, a) => consumeAt (modCoreAt s m.src Core.dropAway) m.src u a
      | none =>
        let l' := { l with fwd := leBytes (fwdNat s l.place l.fwd l.size) l.size }
        modCoreAt s m.src (fun c => { c with loads := c.loads.map (fun x => if x.stamp = stamp then l' else x), stalled := false })

/-- An entry of core k is refused by the contained rectangle of core t (R221): it leaves the queue with no effect, and where the core does
not wait for it every later entry to the rectangle is refused until the deferred trap is taken. -/
def refuseAt (s : State) (k t : Nat) (e : Entry) : State :=
  let hs := match (dieAt s (dieOf t)).containment with | some z => z.herds | none => []
  let s := refuseEntry (popEntry s k) k 32 e.ea e.act.waits
  if e.act.waits then s else modCoreAt s k (fun c => { c with refusedBy := c.refusedBy ++ hs })

/-- The full/empty bit, or the object, that an operation at an offset of core t's bank reads is poisoned (R402, R405). -/
def syncPoison (s : State) (t off : Nat) (a : Action) : Bool :=
  match a with
  | .put _ => (coreAt s t).poison.contains (1, 16384 + off / 512)
  | .barrier f _ _ => f != 0 && (poisonAt s { space := .bufA, key := t, addr := off } 16).isSome
  | _ => false

/-- The head entry of a core performs at the bank that its message reaches (R112, R230, R232, R297), unless a contained rectangle refuses
it or has refused an earlier one whose trap is pending (R221), or what it reads is poisoned (R405). -/
def arriveEntry (s : State) (m : Msg) : State :=
  match sentHead s m.src with
  | none => s
  | some e =>
    if m.dst ≠ m.src ∧ (contained s m.dst || (coreAt s m.src).refusedBy.contains (herdOf m.dst)) = true then refuseAt s m.src m.dst e
    else if syncPoison s m.dst m.off e.act then consumeAt (popEntry s m.src) m.src 1 0
    else match e.act with
      | .put v => mirrorSync (bankPut s m.dst m.off m.src v) m.dst m.off
      | .feinit v f => mirrorSync (bankInit s m.dst m.off m.src v f e.ea) m.dst m.off
      | .barrier f b r => mirrorSync (barEntry s m.dst m.off m.src f b e.ea r) m.dst m.off
      | a =>
        let (s', d) := performAt s m.src e.place a
        finishEntry s' m.src e d

/-- A TAKE, PEEK or BWAIT arrives: the sender still waits, and the bank is not fenced. -/
def arriveWait (s : State) (m : Msg) (go : State → State) : State :=
  if (coreAt s m.src).wait ≠ some .bank then s
  else if m.dst ≠ m.src ∧ contained s m.dst = true then replyTo s m.src (.trap 32 m.ea)
  else mirrorSync (go s) m.dst m.off

/-- The BAR completion action of a job arrives, and the job ends (R288, R297). -/
def arriveBar (s : State) (m : Msg) (slot : Nat) : State :=
  match SMap.get? (coreAt s m.src).jobs slot with
  | none => s
  | some j =>
    if j.state ≠ .running then s
    else if m.dst ≠ m.src ∧ contained s m.dst = true then endJob s m.src slot 5
    else endJob (mirrorSync (barSubtract s m.dst m.off j.len) m.dst m.off) m.src slot 0

/-- The row of the opcode table that a message belongs to. -/
inductive MsgRow where
  | access | take | peek | put | init | binit | barv | bexp | bwait | binv | bar
  deriving DecidableEq, Repr

/-- The row of a message. -/
def msgRow (s : State) (m : Msg) : MsgRow :=
  match m.kind with
  | .load _ => .access
  | .take => .take
  | .peek => .peek
  | .bwait _ => .bwait
  | .bar _ => .bar
  | .entry =>
    match sentHead s m.src with
    | none => .access
    | some e =>
      match e.act with
      | .put _ => .put
      | .feinit _ _ => .init
      | .barrier f _ _ => if f = 0 then .binit else if f = 1 then .barv else if f = 2 then .bexp else .binv
      | _ => .access

/-- The poisoned granule that a TAKE or PEEK would read (R402, R405): the word's full/empty bit, and its value where it is full. -/
def wordPoison (s : State) (t off : Nat) : Option (Nat × Nat) :=
  if (coreAt s t).poison.contains (1, 16384 + off / 512) then some (1, 0)
  else if isFull s t off then poisonAt s { space := .bufA, key := t, addr := off } 8
  else none

/-- A message arrives and performs. -/
def arriveMsg (s : State) (i : Nat) : Option State :=
  match nextMsg s i with
  | none => none
  | some m =>
    let s := dropMsg s i
    some (match m.kind with
      | .load stamp => arriveLoad s m stamp
      | .entry => arriveEntry s m
      | .take =>
        match wordPoison s m.dst m.off with
        | some (u, a) => consumeAt s m.src u a
        | none => arriveWait s m (fun s => bankTake s m.dst m.off m.src)
      | .peek =>
        match wordPoison s m.dst m.off with
        | some (u, a) => consumeAt s m.src u a
        | none => arriveWait s m (fun s => bankPeek s m.dst m.off m.src)
      | .bwait ph =>
        match poisonAt s { space := .bufA, key := m.dst, addr := m.off } 16 with
        | some (u, a) => consumeAt s m.src u a
        | none => arriveWait s m (fun s => barWaitFor s m.dst m.off m.src ph)
      | .bar slot => arriveBar s m slot)

/-- A message of a row arrives. -/
def arriveRow (s : State) (i : Nat) (row : MsgRow) : Out :=
  match s.net[i]? with
  | some m => if msgRow s m = row then happen s (arriveMsg s i) else .next s
  | none => .next s

/-- REMOTE_ACCESS_ARRIVE (R112). -/
def execRemoteAccessArrive (msg : Nat) (s : State) : Out := arriveRow s msg .access
/-- BANK_TAKE (R232). -/
def execBankTake (msg : Nat) (s : State) : Out := arriveRow s msg .take
/-- BANK_PEEK (R232). -/
def execBankPeek (msg : Nat) (s : State) : Out := arriveRow s msg .peek
/-- BANK_PUT (R232). -/
def execBankPut (msg : Nat) (s : State) : Out := arriveRow s msg .put
/-- BANK_INIT (R232). -/
def execBankInit (msg : Nat) (s : State) : Out := arriveRow s msg .init
/-- BANK_BINIT (R297). -/
def execBankBinit (msg : Nat) (s : State) : Out := arriveRow s msg .binit
/-- BANK_BARV (R297). -/
def execBankBarv (msg : Nat) (s : State) : Out := arriveRow s msg .barv
/-- BANK_BEXP (R297). -/
def execBankBexp (msg : Nat) (s : State) : Out := arriveRow s msg .bexp
/-- BANK_BWAIT (R297). -/
def execBankBwait (msg : Nat) (s : State) : Out := arriveRow s msg .bwait
/-- BANK_BINV (R297). -/
def execBankBinv (msg : Nat) (s : State) : Out := arriveRow s msg .binv
/-- BAR_COMPLETION (R297). -/
def execBarCompletion (msg : Nat) (s : State) : Out := arriveRow s msg .bar

/-! ### Withdrawal (R233, R309, R355) -/

/-- A core as a waiter of another core's bank is taken off its lists. -/
def Core.withdraw (c : Core) (k : Nat) : Core :=
  { c with deferred := (c.deferred.map (fun p => (p.1, p.2.filter (fun w => w != .take k && w != .peek k)))).filter (fun p => !p.2.isEmpty)
           barWait := c.barWait.map (fun p => (p.1, p.2.filter (fun j => j != k))) }

/-- The waiting instruction of a core is withdrawn from every list of waiters and from its message; it has had no effect. -/
def withdraw (s : State) (k : Nat) : State :=
  let isWait (m : Msg) : Bool := match m.kind with | .take | .peek | .bwait _ => true | _ => false
  { s with cores := s.cores.map (fun p => (p.1, p.2.withdraw k)), net := s.net.filter (fun m => !(m.src == k && isWait m)) }

/-- A core leaves the fault record that it sleeps on; the record stays (R355). -/
def leaveFault (s : State) (k : Nat) : State :=
  let s := modCoreAt s k (fun c => { c with faultSleep := none })
  modDieAt s (dieOf k) (fun d => { d with faults := d.faults.map (fun r => { r with cores := r.cores.filter (fun j => j != k) }) })

/-- The write session for which a core's CWOPEN waits is withdrawn with its wait (R324): it blocks no cell any more (R94). -/
def leaveSheets (s : State) (k : Nat) : State :=
  if (coreAt s k).wait = some .poll then
    { s with sheets := s.sheets.map (fun p => (p.1, { p.2 with waiting := p.2.waiting.filter (fun x => x.1 != ownerOf s k) })) }
  else s

/-- What a core waits for is withdrawn: its waiting instruction (R309, R324) and its sleep on a fault record (R355). -/
def endWait (s : State) (k : Nat) : State :=
  let s := if (coreAt s k).wait = some .bank then withdraw s k else s
  let s := leaveSheets s k
  if (coreAt s k).faultSleep.isSome then leaveFault s k else s

/-- A core whose wait has been withdrawn runs to take a trap. -/
def wakeToTrap (s : State) (k : Nat) : State :=
  modCoreAt (endWait s k) k (fun c => { c with run := if c.run = .faultSleep then .running else c.run })

/-- The interrupt that is due enters (R207, R209, R355): interrupt 1 is cleared. -/
def takeInterruptAt (s : State) (k : Nat) : State :=
  match pendingInterrupt s k with
  | none => s
  | some n =>
    let s := modCoreAt (wakeToTrap s k) k (fun c => { c with doorbell := c.doorbell && n != 1 })
    takeTrap s k n 0 true (coreAt s k).pc

/-- The entries of a core to the rectangles that have refused one are dropped, with the message of the head (R221). -/
def dropRefused (s : State) (k : Nat) : State :=
  let c := coreAt s k
  let out (e : Entry) : Bool := e.place.inBank && e.place.key != k && c.refusedBy.contains (herdOf e.place.key)
  if c.refusedBy.isEmpty then s
  else
    let head : Bool := match c.cq with | e :: _ => e.sent && out e | [] => false
    let s := modCoreAt s k (fun c => { c with
      refusedBy := [], cq := c.cq.filter (fun e => !out e), rbuf := c.rbuf.filter (fun e => !(e.committed && out e)) })
    if head then { s with net := s.net.filter (fun m => !(m.src == k && m.kind == .entry)) } else s

/-- The pending deferred trap is taken (R348). -/
def takeDeferred (s : State) (k : Nat) : State :=
  match (coreAt s k).deferredTrap with
  | none => s
  | some (cause, val) =>
    takeTrap (modCoreAt (dropRefused (wakeToTrap s k) k) k (fun c => { c with deferredTrap := none })) k cause val false (coreAt s k).pc

/-- A pending deferred trap is due (R348): in user mode, or with interrupts enabled; a wait that has begun, or a sleep on a fault record,
goes on unless the wait only polls, or unless an interrupt is pending that would end it, before which the trap is taken. -/
def deferredReady (s : State) (k : Nat) : Bool :=
  let c := coreAt s k
  c.deferredTrap.isSome && (!c.supervisor || c.ie)
    && ((c.run != .faultSleep && (c.wait == none || c.wait == some .poll || c.wait == some .join))
      || ((c.run == .faultSleep || (c.wait == some .bank && c.reply.isNone)) && (pendingInterrupt s k).isSome))

/-- An interrupt is due (R209): a wait of SLEEP, WAITA or for a reply ends first, and a bank's reply that has come is taken first. -/
def interruptReady (s : State) (k : Nat) : Bool :=
  let c := coreAt s k
  (pendingInterrupt s k).isSome &&
    (c.wait == none || c.wait == some .poll || c.wait == some .join || (c.wait == some .bank && c.reply.isNone))

/-- A core is at the start of a Step: it runs outside a contained rectangle, or sleeps on a fault record. -/
def stepping (s : State) (k : Nat) : Bool :=
  match (coreAt s k).run with
  | .running => !contained s k
  | .faultSleep => !contained s k
  | _ => false

/-- TAKE_INTERRUPT (R207, R209): a pending deferred trap that is due goes first (R348). -/
def execTakeInterrupt (core : Nat) (s : State) : Out :=
  .next (if stepping s core && interruptReady s core && !deferredReady s core then takeInterruptAt s core else s)
/-- DEFERRED_TRAP (R348). -/
def execDeferredTrap (core : Nat) (s : State) : Out :=
  .next (if stepping s core && deferredReady s core then takeDeferred s core else s)
/-- TIMER_EXPIRE (R207): the timer interrupt is pending while LCLK has reached TIMECMP; the core looks again. -/
def execTimerExpire (core : Nat) (s : State) : Out :=
  .next (if (coreAt s core).timecmp.toNat ≤ (dieAt s (dieOf core)).clock then wake s core else s)
/-- WAITA_TIMEOUT (R235). -/
def execWaitaTimeout (core : Nat) (s : State) : Out :=
  match (coreAt s core).wait with
  | some (.waita st n _ b off cmp seen) =>
    .next (if n ≠ 0 ∧ n ≤ (dieAt s (dieOf core)).clock - st then
      modCoreAt s core (fun c => { c with wait := some (.waita st n true b off cmp seen), stalled := false }) else s)
  | _ => .next s

end Sys2Proof.Machine
end

