-- ==== Sys2Proof/Machine/Homes.lean ====
section
/-!
DEFINITION. The events of the commit queues, of the homes and of the herd caches (R113 to R119, R126, R127, R236, R237), and the cache
walker.
-/

namespace Sys2Proof.Machine

/-! ### Twins at the commit queue (R414) -/

/-- The entry of a commit queue that its pair compares next: the head, or the second half of a TSTS row whose first half is compared
(log 19). -/
def toCompare : List Entry → Option Nat
  | [] => none
  | e :: rest =>
    if !e.checked then some 0
    else match e.pair, rest with
      | true, f :: _ => if f.checked then none else some 1
      | _, _ => none

/-- A commit queue after the entry at an index has matched (R414): the primary keeps it, and its twin keeps it only as an entry of its own
bank. -/
def keepMatched (q : List Entry) (i own primary : Nat) : List Entry :=
  match q[i]? with
  | none => q
  | some x =>
    q.take i
      ++ (if own = primary then [{ x with checked := true }]
          else if x.ownBank primary own then [{ x.toBank own with checked := true }] else [])
      ++ q.drop (i + 1)

/-- The next entry of a twin pair's commit queues is compared before it performs: where the twins' entries differ both raise cause 33 as a
deferred trap and drop it and every later entry; where they agree, each keeps an entry of its own bank, and any other is the
primary's. -/
def compareHead (s : State) (k : Nat) : Option State :=
  match (coreAt s k).twin with
  | none => none
  | some (p, isPrimary) =>
    let primary := if isPrimary then k else p
    let q := (coreAt s k).cq
    let r := (coreAt s p).cq
    match toCompare q, toCompare r with
    | some i, some j =>
      if (q[i]?).map (presentEntry k primary) ≠ (r[j]?).map (presentEntry p primary) then
        let s := modCoreAt (modCoreAt s k (fun c => { c with cq := [], stalled := false })) p (fun c => { c with cq := [], stalled := false })
        some (raiseDeferred (raiseDeferred s k 33 0) p 33 0)
      else
        some (modCoreAt (modCoreAt s k (fun c => { c with cq := keepMatched q i k primary, stalled := false })) p
          (fun c => { c with cq := keepMatched r j p primary, stalled := false }))
    | _, _ => none

/-- The head entry of a core need not be compared any more. -/
def headCompared (s : State) (k : Nat) : Bool :=
  (coreAt s k).twin.isNone || (!(coreAt s k).cq.isEmpty && (toCompare (coreAt s k).cq).isNone)

/-- The head entry of a core takes its next step short of its home (R119, R414). -/
def performHead (s : State) (k : Nat) : Option State := if headCompared s k then stepHead s k else compareHead s k

/-- COMMIT_QUEUE_PERFORM (R119). -/
def execCommitQueuePerform (core : Nat) (s : State) : Out := happen s (performHead s core)

/-- HOME_ARRIVE (R116): the head entry of a core, or the oldest forward of a herd. -/
def execHomeArrive (fwd : Bool) (key : Nat) (s : State) : Out :=
  happen s (if fwd then arriveForward s key else if headCompared s key then arriveHead s key else none)
/-- HOME_PERFORM_WRITE (R116). -/
def execHomePerformWrite (line : Nat) (s : State) : Out := happen s (performHome s line)
/-- HOME_LOAD (R113). -/
def execHomeLoad (core idx : Nat) (s : State) : Out := happen s (loadHome s core idx)

/-- A copy whose lease has expired leaves a herd cache (R115). -/
def expireLease (s : State) (h line : Nat) : State :=
  match SMap.get? (herdAt s h).lines line with
  | some l =>
    (match l.expiry with
     | some x => if x ≤ (dieAt s (herdDie h)).clock then leaveWay s h (.line line l) else s
     | none => s)
  | none => s

/-- LEASE_EXPIRE (R115). -/
def execLeaseExpire (herd line : Nat) (s : State) : Out := .next (expireLease s herd line)

/-! ### Write-back (R126) -/

/-- The first victim of a line in a phase, changed; none where there is no such victim. -/
def modVictim (line phase : Nat) (f : Victim → List Victim) : List Victim → Option (List Victim)
  | [] => none
  | v :: rest => if v.line = line ∧ v.phase = phase then some (f v ++ rest) else (modVictim line phase f rest).map (fun l => v :: l)

/-- The first victim of a line in a phase. -/
def victimAt (s : State) (h line phase : Nat) : Option Victim :=
  (herdAt s h).victims.find? (fun v => v.line == line && v.phase == phase)

/-- The state with the first victim of a line in a phase changed or removed. -/
def stepVictim (s : State) (h line phase : Nat) (f : Victim → List Victim) : State :=
  match modVictim line phase f (herdAt s h).victims with
  | some l => modHerdAt s h (fun x => { x with victims := l })
  | none => s

/-- A request reaches the home: a grant, or a cancel where a recall has taken the data. -/
def requestBack (s : State) (h line : Nat) : State :=
  stepVictim s h line 0 (fun v => [{ v with phase := if v.answered then 2 else 1 }])

/-- A grant reaches the herd cache, and the data goes on its way. -/
def grantBack (s : State) (h line : Nat) : State := stepVictim s h line 1 (fun v => [{ v with phase := 3 }])

/-- A cancel reaches the herd cache, and the entry is free. -/
def cancelBack (s : State) (h line : Nat) : State := stepVictim s h line 2 (fun _ => [])

/-- The marked bytes of a line. -/
def HLine.marked (l : HLine) : SMap Byte := ((List.range 64).filter (fun i => l.marks.getLsbD i)).map (fun i => (i, l.byte i))

/-- The marked bytes of a line reach its home, with the poison of the herd's copy (R116, R404). -/
def bytesBack (s : State) (h line : Nat) (l : HLine) : State :=
  let bad := s.poison.any (fun m => m.unit == 4 && m.key == h && m.addr == line)
  let s := if (SMap.get? (herdAt s h).lines line).isSome then s else dropMark s h line
  arriveWrite s (.writeback h) { space := .mem, key := 0, addr := line * 64 } (.store l.marked) bad false

/-- The data reaches the home: marked bytes perform there by R116, a partial line is held; the data of an answered entry has been taken
already. -/
def dataBack (s : State) (h line : Nat) : State :=
  match victimAt s h line 3 with
  | none => s
  | some v =>
    let s := stepVictim s h line 3 (fun _ => [])
    let s := match v.dirty with
      | some l => bytesBack s h line l
      | none => s
    match v.part with
    | some p => if v.answered then s else arriveHome s line (fun s => modHomeAt s line (fun y => { y with held := y.held ++ [p] }))
    | none => s

/-- WRITEBACK_REQUEST (R126). -/
def execWritebackRequest (herd line : Nat) (s : State) : Out := .next (requestBack s herd line)
/-- WRITEBACK_GRANT (R126). -/
def execWritebackGrant (herd line : Nat) (s : State) : Out := .next (grantBack s herd line)
/-- WRITEBACK_CANCEL (R126). -/
def execWritebackCancel (herd line : Nat) (s : State) : Out := .next (cancelBack s herd line)
/-- WRITEBACK_DATA (R126). -/
def execWritebackData (herd line : Nat) (s : State) : Out := .next (dataBack s herd line)
/-- RECALL (R126, R127): to a herd that the home knows as a holder. -/
def execRecall (herd line : Nat) (s : State) : Out :=
  .next (if (homeAt s line).holders.contains herd then recallHerd s herd line else s)

/-- Held partials of a line go to the spill area, if it has room (R126, R417). -/
def spillLine (s : State) (line : Nat) : State :=
  if !(homeAt s line).held.isEmpty && spillRoom s line then
    modHomeAt s line (fun y => { y with spilled := true })
  else s

/-- PARTIAL_SPILL (R126). -/
def execPartialSpill (line : Nat) (s : State) : Out := .next (spillLine s line)

/-- A copy of a line leaves a herd cache by eviction (R113, R126): an SWM dirty line and a partial line go to the victim buffer, any other
copy is dropped. -/
def evictLine (s : State) (h line : Nat) : State :=
  match SMap.get? (herdAt s h).lines line with
  | some l => leaveWay s h (.line line l)
  | none => ((herdAt s h).parts.filter (fun p => p.line == line)).foldl (fun s p => leaveWay s h (.part p)) s

/-! ### The cache walker (R236, R237) -/

/-- The dirty bytes of an SWM copy start on their way home, and the copy stays clean (R237). -/
def flushLine (s : State) (h line : Nat) : State :=
  match SMap.get? (herdAt s h).lines line with
  | some l =>
    if l.expiry.isSome || l.marks == 0 then s
    else modHerdAt s h (fun x => { x with
      lines := SMap.set x.lines line { l with marks := 0 }
      victims := x.victims ++ [victimLine line l] })
  | none => s

/-- A prefetch fills one line (R237): a line that is present, in a commutative range, or prefetched under DIRECT is left as it is. -/
def prefetchLine (s : State) (h line : Nat) (pol : Policy) : State :=
  if (SMap.get? (herdAt s h).lines line).isSome || (rangeOf s (line * 64)).isSome || pol == .direct then s
  else homeGrant s h line pol

/-- The state with a walker command of a core changed or removed. -/
def modWalk (s : State) (k i : Nat) (f : Walk → List Walk) : State :=
  modCoreAt s k (fun c => { c with stalled := false, walks :=
    match c.walks[i]? with
    | some w => c.walks.take i ++ f w ++ c.walks.drop (i + 1)
    | none => c.walks })

/-- The next line of a walker command is handled; a page that does not translate or may not be read, in the mode of the core at this moment
(log 140), is skipped (R236). -/
def walkOne (s : State) (k i : Nat) : State :=
  match (coreAt s k).walks[i]? with
  | none => s
  | some w =>
    if w.count ≤ w.done then s
    else
      let h := herdOf k
      match xlate s k ((w.line + w.done) * 64) .load (!(coreAt s k).supervisor) with
      | (.ok pa leaf, s') =>
        let line := lineOf pa
        if writingBack s' h line then s
        else
          let pol := effPolicy 0 w.pol (bits leaf 7 7 == 1)
          let s' := if w.kind = 0 then prefetchLine s' h line pol else if w.kind = 1 then flushLine s' h line else dropSwm s' h line
          modWalk s' k i (fun w => [{ w with done := w.done + 1 }])
      | (_, s') => modWalk s' k i (fun w => [{ w with done := w.done + 1 }])

/-- A walker command whose lines are all handled ends (R236, R237): an RFLUSH once the write-backs of its herd have performed, and its
entry leaves the commit queue; an RINV answers its core. -/
def endWalk (s : State) (k i : Nat) : Option State :=
  match (coreAt s k).walks[i]? with
  | none => none
  | some w =>
    let h := herdOf k
    let back : Bool := (herdAt s h).victims.any (fun v => v.dirty.isSome)
      || s.homes.any (fun p => p.2.waiting.any (fun x => x.src == .writeback h))
    if w.done < w.count || (w.kind = 1 && back) then none
    else
      let s := modWalk s k i (fun _ => [])
      some (match w.kind with | 0 => s | 1 => popEntry s k | _ => replyTo s k (.value 0 0))

/-- WALKER_COMMAND_DONE (R236). -/
def execWalkerCommandDone (core idx : Nat) (s : State) : Out := happen s (endWalk s core idx)

end Sys2Proof.Machine
end

