-- ==== Sys2Proof/Machine/Sheet.lean ====
section
/-!
DEFINITION. The sheet engine (R68 to R105, R131, R132, R310 to R324): sheets, cells, versions, views and write sessions as operations that
a core's instruction or a channel's command performs.
-/

namespace Sys2Proof.Machine

/-! ### Status codes (R72) -/

/-- OK. -/
def shOK : Nat := 0x00
/-- RANK. -/
def shRANK : Nat := 0x01
/-- NOCELL. -/
def shNOCELL : Nat := 0x02
/-- DEPTH. -/
def shDEPTH : Nat := 0x03
/-- FULL. -/
def shFULL : Nat := 0x04
/-- CONST. -/
def shCONST : Nat := 0x05
/-- BUSY. -/
def shBUSY : Nat := 0x06
/-- HASDEP. -/
def shHASDEP : Nat := 0x07
/-- EMPTY. -/
def shEMPTY : Nat := 0x08
/-- FAILED. -/
def shFAILED : Nat := 0x09
/-- REVOKED. -/
def shREVOKED : Nat := 0x0A
/-- BADVIEW. -/
def shBADVIEW : Nat := 0x0B
/-- NOSESS. -/
def shNOSESS : Nat := 0x0C
/-- CLASS. -/
def shCLASS : Nat := 0x0D
/-- BADDESC. -/
def shBADDESC : Nat := 0x0E
/-- RANGE. -/
def shRANGE : Nat := 0x0F
/-- NOSHEET. -/
def shNOSHEET : Nat := 0x10
/-- COUNT. -/
def shCOUNT : Nat := 0x11

/-- The last generation (R75). -/
def lastGen : Nat := 2 ^ 48 - 1

/-! ### Sheets, cells, versions -/

/-- A sheet that exists and is not being deleted. -/
def sheetAt (s : State) (n : Nat) : Option Sheet :=
  match SMap.get? s.sheets n with | some sh => if sh.deleting then none else some sh | none => none
/-- The state with a sheet replaced. -/
def setSheetAt (s : State) (n : Nat) (sh : Sheet) : State := { s with sheets := SMap.set s.sheets n sh }
/-- The state with a sheet changed. -/
def modSheetAt (s : State) (n : Nat) (f : Sheet → Sheet) : State :=
  match SMap.get? s.sheets n with | some sh => setSheetAt s n (f sh) | none => s

/-- A bound cell. -/
def Sheet.bound (sh : Sheet) (i : Nat) : Option Cell := if i < 2 ^ 20 then SMap.get? sh.cells i else none
/-- The bound cells, by index. -/
def Sheet.boundCells (sh : Sheet) : List (Nat × Cell) := sh.cells.filter (fun p => p.1 < 2 ^ 20)
/-- The sheet with a cell changed. -/
def Sheet.modCell (sh : Sheet) (key : Nat) (f : Cell → Cell) : Sheet :=
  { sh with cells := sh.cells.map (fun p => if p.1 = key then (p.1, f p.2) else p) }
/-- The cell with its version of a generation changed. -/
def Cell.modVersion (c : Cell) (g : Nat) (f : Version → Version) : Cell :=
  { c with versions := c.versions.map (fun v => if v.gen = g then f v else v) }

/-- The state is final (R86). -/
def VState.final : VState → Bool
  | .fresh | .failed | .absent | .skipped => true
  | _ => false

/-- The version holds the bytes that its generation reads: it is fresh, or is only to be marked so. -/
def Version.made (v : Version) : Bool := v.st == .fresh || v.ended
/-- A team computes the version. -/
def Version.computing (v : Version) : Bool := v.st == .running && !v.ended
/-- Its recalculation is still to come. -/
def Version.pending (v : Version) : Bool := v.st == .stale || v.st == .ready

/-- The version of a cell at a generation (R75); a skipped one is never read (R87). -/
def Cell.at (c : Cell) (g : Nat) : Option Version := c.versions.find? (fun v => v.gen ≤ g && v.st != .skipped)
/-- The state of a cell at a generation; absent where it has no version. -/
def Cell.stateAt (c : Cell) (g : Nat) : VState := match c.at g with | some v => v.st | none => .absent
/-- The cell has a formula. -/
def Cell.isFormula (c : Cell) : Bool := !c.formulas.isEmpty
/-- The formula in force at a generation (R80). -/
def Cell.formulaAt (c : Cell) (g : Nat) : Option Formula := c.formulas.find? (fun f => f.since ≤ g)

/-- The cells of a range with its lag. -/
def rangeCells : Option (Nat × Nat × Bool) → List (Nat × Bool)
  | some (a, b, lag) => (List.range (b + 1 - a)).map (fun i => (a + i, lag))
  | none => []

/-- Every precedent of a formula, those of its range included. -/
def Formula.all (f : Formula) : List (Nat × Bool) := f.precs ++ rangeCells f.range

/-- Marking has passed a rank for every generation up to one (R79). -/
def Sheet.passed (sh : Sheet) (rank g : Nat) : Bool := sh.marking.all (fun m => g < m.gen || rank < m.passed)

/-! ### Slots (R93) -/

/-- The slot of a new version at a generation. -/
def Cell.slotFor (c : Cell) (g : Nat) : Nat :=
  if c.cls = .const || (c.cls = .plain && !c.depth2) then 0
  else match c.versions.find? (fun v => v.gen < g && v.made) with
    | some v => 1 - v.slot
    | none => 0

/-- A generation lies in the span of a version: from its own up to that of the cell's next version. -/
def Cell.inSpan (c : Cell) (v : Version) (g : Nat) : Bool :=
  v.gen ≤ g && c.versions.all (fun w => w.gen ≤ v.gen || w.st == .skipped || g < w.gen)

/-- The generations of the open views and of the pins (R91) that hold a version of cell i. -/
def Sheet.readers (sh : Sheet) (i : Nat) (c : Cell) (v : Version) : List Nat :=
  (sh.views.filter (fun w => !w.revoked && c.inSpan v w.gen)).map (fun w => w.gen)
    ++ sh.cells.flatMap (fun p => p.2.versions.flatMap (fun w =>
      if w.computing then (w.pins.filter (fun q => q.1 == i && q.2.1 == v.gen)).map (fun q => q.2.2) else []))

/-- The version that stands in a slot as a version at a generation is to take it. -/
def Cell.holder (c : Cell) (k g : Nat) : Option Version :=
  c.versions.find? (fun v => v.gen < g && v.made && v.slot == k && (c.cls != .append || v.tail))

/-- The generations that hold a slot of cell i against a version at a generation. -/
def Sheet.slotReaders (sh : Sheet) (i : Nat) (c : Cell) (k g : Nat) : List Nat :=
  match c.holder k g with | some v => sh.readers i c v | none => []

/-- A prefix copy still reads a tail slot (R78). -/
def Cell.copying (c : Cell) (k : Nat) : Bool := c.versions.any (fun v => v.copy != 0 && v.src == k)

/-- The slot of a new version at a generation is free (R93). -/
def Sheet.slotFree (sh : Sheet) (i : Nat) (c : Cell) (g : Nat) : Bool :=
  let k := c.slotFor g
  (sh.slotReaders i c k g).isEmpty && !c.copying k

/-! ### The slot arena (R73) -/

/-- A range of the arena is free. -/
def Sheet.fits (sh : Sheet) (a n : Nat) : Bool :=
  sh.base ≤ a && a + n ≤ sh.base + sh.size && sh.alloc.all (fun r => a + n ≤ r.1 || r.1 + r.2 ≤ a)

/-- The least of a list of numbers. -/
def leastOf : List Nat → Option Nat
  | [] => none
  | a :: l => match leastOf l with | some b => some (min a b) | none => some a

/-- Allocates ranges of the arena, each at the lowest address that fits; none where there is no room. -/
def Sheet.allocate (sh : Sheet) : List Nat → Option (List Nat × Sheet)
  | [] => some ([], sh)
  | n :: rest =>
    match leastOf ((sh.base :: sh.alloc.map (fun r => r.1 + r.2)).filter (fun a => sh.fits a n)) with
    | none => none
    | some a => (Sheet.allocate { sh with alloc := sh.alloc ++ [(a, n)] } rest).map (fun r => (a :: r.1, r.2))

/-- The ranges that a cell's slots take (R74): plain and constant slots; prefix, and tails with their headers. -/
def Cell.parts (c : Cell) : List (Nat × Nat) :=
  match c.cls with
  | .append => (c.slots.getD 0 0, c.cap * c.esize) :: (c.slots.drop 1).map (fun a => (a - 64, 64 + 64 * c.esize))
  | _ => c.slots.map (fun a => (a, c.slotLen))

/-- The physical address of an arena address: through the root of the sheet's ASID, and the address itself where no launch has named one
(log 29). -/
def arenaPa (s : State) (sh : Sheet) (va : Nat) : Option Nat :=
  match SMap.get? s.roots sh.asid with
  | none => if paOk s va then some va else none
  | some root => match walk s va 3 root with | .ok pa _ => if paOk s pa then some pa else none | _ => none

/-- Every write of the sheet engine has performed. -/
def sheetWritten (s : State) : Bool := s.homes.all (fun p => p.2.waiting.all (fun w => w.src != .sheet))

/-- The engine reads n bytes of the arena at their home (R111). -/
def arenaRead (s : State) (sh : Sheet) (va n : Nat) : Nat := match arenaPa s sh va with | some pa => homeNat s pa n | none => 0

/-- The lines of a range of the arena that the engine reads, and those of the table entries that lead there, are combined at their homes
first (R127). -/
def arenaCombine (s : State) (sh : Sheet) (va n : Nat) : State :=
  let s := match SMap.get? s.roots sh.asid with | some root => combineWalk s va 3 root | none => s
  match arenaPa s sh va with | some pa => combineBytes s pa n | none => s
/-- The poison that the engine meets in n bytes of the arena (R404, R405). -/
def arenaPoison (s : State) (sh : Sheet) (va n : Nat) : Option (Nat × Nat) :=
  (arenaPa s sh va).bind (fun pa => poisonAt s { space := .mem, key := 0, addr := pa } n)

/-- A write of the engine into one line of the arena arrives at its home, poisoned where what it copies is (R404). -/
def arenaWrite (s : State) (sh : Sheet) (va : Nat) (bs : SMap Byte) (poisoned : Bool := false) : State :=
  match arenaPa s sh va with
  | some pa => arriveWrite s .sheet { space := .mem, key := 0, addr := pa } (.store bs) poisoned false
  | none => s

/-- Writes of the engine into a range of the arena can perform at once. -/
def arenaOpen (s : State) (sh : Sheet) (va n : Nat) : Bool :=
  (List.range ((n + 63) / 64)).all (fun i =>
    match arenaPa s sh (va + 64 * i) with
    | some pa => homeOpen s (lineOf pa) && (homeAt s (lineOf pa)).waiting.isEmpty
    | none => true)

/-- No write that has been accepted for a line of ranges of the arena still waits on its way: at its home, or as a herd's forward (R131). -/
def linesQuiet (s : State) (sh : Sheet) (areas : List (Nat × Nat)) : Bool :=
  (s.homes.all (fun p => p.2.waiting.isEmpty) && s.herds.all (fun p => p.2.forwards.isEmpty))
    || areas.all (fun r => (List.range ((r.2 + 63) / 64)).all (fun i =>
      match arenaPa s sh (r.1 + 64 * i) with
      | some pa => (homeAt s (lineOf pa)).waiting.isEmpty
          && s.herds.all (fun p => p.2.forwards.all (fun f => lineOf f.place.addr != lineOf pa))
      | none => true))

/-- A line of memory that holds zeros alone: no write waits for it, no partial of it is held, and it is clean of poison. -/
def zeroLine (s : State) (pa : Nat) : Bool :=
  let y := homeAt s (lineOf pa)
  memNat s pa 64 == 0 && y.waiting.isEmpty && y.holders.isEmpty && y.held.isEmpty && !s.poison.any (fun m => m.hits pa 64)

/-- A range of the arena zeroed by lines; a line that is zero already stays. -/
def arenaZero (s : State) (sh : Sheet) (va n : Nat) : State :=
  (List.range (n / 64)).foldl (fun s i =>
    match arenaPa s sh (va + 64 * i) with
    | some pa => if zeroLine s pa then s else arenaWrite s sh (va + 64 * i) (leBytes 0 64)
    | none => s) s

/-- The address of the header that holds the tail count of a version, if it has one. -/
def Cell.header (c : Cell) (v : Version) : Option Nat := if v.made && v.tail then some (c.slots.getD (1 + v.slot) 0 - 64) else none

/-- The tail count of a version (R89): that in its slot's header, at most 64. -/
def tailCount (s : State) (sh : Sheet) (c : Cell) (v : Version) : Nat :=
  match c.header v with | some a => min 64 (arenaRead s sh a 8) | none => 0

/-! ### Descriptors (R89, R96, R246) -/

/-- The link fields of an entry. -/
def linkBits (n i slot : Nat) (ro absent : Bool) : Nat :=
  n % 256 * 2 ^ 168 + i % 2 ^ 20 * 2 ^ 148 + slot % 4 * 2 ^ 146 + 2 ^ 145 + (if ro then 2 ^ 137 else 0) + (if absent then 2 ^ 136 else 0)

/-- A UINT8 tensor of `count` entries. -/
def entriesDesc (c : Cell) (base count : Nat) : Nat :=
  c.esize * 2 ^ 352 + 2 ^ 320 + count * 2 ^ 224 + c.esize * 2 ^ 192 + 2 ^ 134 + 2 ^ 128 + base

/-- The writable entry of a pending slot or an output slot. -/
def pendingDesc (n i : Nat) (c : Cell) (k : Nat) : Desc :=
  match c.cls with
  | .append => BitVec.ofNat 512 (entriesDesc c (c.slots.getD (1 + k) 0) 64 + linkBits n i (1 + k) false false)
  | _ => BitVec.ofNat 512 (c.desc.toNat / 2 ^ 64 * 2 ^ 64 + c.slots.getD k 0 + linkBits n i k false false)

/-- The read-only entries of a version: one, or prefix and tail. -/
def versionDescs (s : State) (n : Nat) (sh : Sheet) (i : Nat) (c : Cell) (v : Version) : List Desc :=
  match c.cls with
  | .append =>
    [BitVec.ofNat 512 (entriesDesc c (c.slots.getD 0 0) v.plen + linkBits n i 0 true false),
     BitVec.ofNat 512 (entriesDesc c (c.slots.getD (1 + v.slot) 0) (tailCount s sh c v) + linkBits n i (1 + v.slot) true false)]
  | _ => [BitVec.ofNat 512 (c.desc.toNat / 2 ^ 64 * 2 ^ 64 + c.slots.getD v.slot 0 + linkBits n i v.slot true false)]

/-- The entries of a precedent without a version to present: base 0, ABSENT, and a SIZE0 of 0 (R82, R249; log 30). -/
def absentDescs (n i : Nat) (c : Cell) : List Desc :=
  let empty (d : Desc) : Desc := d &&& ~~~(BitVec.ofNat 512 (2 ^ 32 - 1) <<< 192)
  match c.cls with
  | .append => List.replicate 2 (empty (BitVec.ofNat 512 (entriesDesc c 0 0 + linkBits n i 0 true true)))
  | _ => [empty (BitVec.ofNat 512 (c.desc.toNat / 2 ^ 64 * 2 ^ 64 + linkBits n i 0 true true))]

/-- An entry for a precedent that the formula does not name (R96). -/
def unnamedDesc : Desc := BitVec.ofNat 512 (2 ^ 320 + 2 ^ 136)

/-- The address of a version, for an append cell that of its prefix (R96, R319). -/
def Cell.address (c : Cell) (v : Version) : Nat := match c.cls with | .append => c.slots.getD 0 0 | _ => c.slots.getD v.slot 0

/-! ### Completion records (R99, R100) -/

/-- Posts the records of a cell's event: to its watch ring, and a failure to the sheet's error ring too. -/
def postCell (s : State) (n i : Nat) (c : Cell) (g kind status : Nat) (fault : Word) : State :=
  let rec_ (s : State) : Nat := recordOf s g i n kind status 0 fault
  let s := match c.watch with | some r => ringPost s r (rec_ s) | none => s
  if kind = 1 then match SMap.get? s.sheets n with | some sh => ringPost s sh.errRing (rec_ s) | none => s
  else s

/-- The KIND and STATUS of a final state, whose STATUS the spec leaves open (log 31). -/
def recordKind : VState → Nat × Nat
  | .failed => (1, shFAILED)
  | .absent => (2, shEMPTY)
  | .skipped => (3, shOK)
  | _ => (0, shOK)

/-- A version of a cell reaches a final state, and its records are posted. -/
def finishVersion (s : State) (n key g : Nat) (st : VState) (fault : Word) : State :=
  match SMap.get? s.sheets n with
  | none => s
  | some sh =>
    match SMap.get? sh.cells key with
    | none => s
    | some c =>
      let s := modSheetAt s n (fun sh => sh.modCell key (fun c => c.modVersion g (fun v => { v with st := st, ended := false })))
      postCell s n (key % 2 ^ 20) c g (recordKind st).1 (recordKind st).2 fault

/-! ### What follows from a change (R80 to R82, R85, R93) -/

/-- The version of the previous generation in which the cell was stale lets the next one go on (R82): it is fresh, failed or skipped; a
version that a commit alone made was never stale (R79). -/
def Cell.earlierDone (c : Cell) (v : Version) : Bool :=
  match c.versions.find? (fun w => w.gen < v.gen && !w.alone) with
  | some w => w.st == .fresh || w.st == .failed || w.st == .skipped
  | none => true

/-- What the state of a stale version becomes, if anything (R82, R85; log 32). -/
def Sheet.verdict (sh : Sheet) (c : Cell) (v : Version) : Option VState :=
  match c.formulaAt v.gen with
  | none => none
  | some f =>
    let st (p : Nat × Bool) : VState :=
      match sh.bound p.1 with | some x => x.stateAt (if p.2 then v.gen - 1 else v.gen) | none => .absent
    let l0 := (f.all.filter (fun p => !p.2)).map st
    let l1 := (f.all.filter (fun p => p.2)).map st
    if l0.contains .failed then some .failed
    else if l0.contains .absent then some .absent
    else if l0.all (fun x => x == .fresh) && l1.all (fun x => x.final) && c.earlierDone v then some .ready
    else none

/-- Insertion in ascending order. -/
def insertStale (x : Nat × Nat × Nat) : List (Nat × Nat × Nat) → List (Nat × Nat × Nat)
  | [] => [x]
  | y :: l =>
    if x.1 < y.1 || (x.1 == y.1 && (x.2.1 < y.2.1 || (x.2.1 == y.2.1 && x.2.2 < y.2.2))) then x :: y :: l else y :: insertStale x l

/-- The stale versions of a sheet's bound cells, in ascending order of a key of generation, rank and index. -/
def Sheet.staleList (sh : Sheet) (key : Nat → Nat → Nat → Nat × Nat × Nat) : List (Nat × Nat × Nat) :=
  sh.boundCells.foldl (fun acc p => p.2.versions.foldl (fun acc v =>
    if v.st == .stale then insertStale (key v.gen p.2.rank p.1) acc else acc) acc) []

/-- What becomes of the stale version of cell i at g now, if anything. -/
def staleVerdict (s : State) (n i g : Nat) : Option VState :=
  match sheetAt s n with
  | none => none
  | some sh =>
    match sh.bound i with
    | none => none
    | some c =>
      match c.versions.find? (fun v => v.gen == g) with
      | none => none
      | some v => if v.st == .stale then sh.verdict c v else none

/-- One stale version ends that its precedents end; FAULT of its record is 0, as no team of its own has failed (log 31). -/
def settleOne (s : State) (n : Nat) (x : Nat × Nat × Nat) : State :=
  match staleVerdict s n x.2.2 x.1 with
  | none | some .ready => s
  | some st => finishVersion s n x.2.2 x.1 st 0

/-- One stale version becomes ready, if it may, and takes its arrival time (R82, R367). -/
def readyOne (s : State) (n : Nat) (x : Nat × Nat × Nat) : State :=
  match staleVerdict s n x.2.1 x.2.2 with
  | some .ready =>
    { modSheetAt s n (fun sh => sh.modCell x.2.1 (fun c => c.modVersion x.2.2 (fun v => { v with st := .ready, arrival := s.arrivals }))) with
      arrivals := s.arrivals + 1 }
  | _ => s

/-- A part of an unbound cell's slots is still held (R81): 0 the prefix and 1, 2 the tails of an append cell; else the slot. -/
def Sheet.partHeld (sh : Sheet) (i : Nat) (c : Cell) (k : Nat) : Bool :=
  c.versions.any (fun v =>
    let live := v.computing || (v.made && !(sh.readers i c v).isEmpty)
    match c.cls with
    | .append => if k = 0 then live || v.copy != 0 else (live && v.slot + 1 == k) || (v.copy != 0 && v.src + 1 == k)
    | _ => live && v.slot == k)

/-- A formula is still needed: a bound cell's newest, one in force at a generation whose marking is still to reach the cell, or one in
force at a version whose recalculation has not ended (R79, R80). -/
def Sheet.needs (sh : Sheet) (bound : Bool) (c : Cell) (f : Formula) : Bool :=
  let inForce (g : Nat) : Bool := (c.formulaAt g).map (fun x => x.since) == some f.since
  (bound && ((c.formulas.head?.map (fun x => x.since)) == some f.since || sh.marking.any (fun m => m.passed ≤ c.rank && inForce m.gen)))
    || c.versions.any (fun v => (v.pending || v.computing) && inForce v.gen)

/-- Superseded formulas that nothing needs go, with their range tables; slots of unbound cells that nothing holds go back to the arena,
and unbound cells go that have no slots and no version still to be completed (R80, R81). -/
def Sheet.sweep (sh : Sheet) : Sheet :=
  let tables := sh.cells.flatMap (fun p => (p.2.formulas.filter (fun f => !sh.needs (p.1 < 2 ^ 20) p.2 f)).map (fun f => f.table))
  let parts := (sh.cells.filter (fun p => 2 ^ 20 ≤ p.1)).flatMap (fun p =>
    (p.2.parts.zipIdx.filter (fun q => !sh.partHeld (p.1 % 2 ^ 20) p.2 q.2)).map (fun q => q.1))
  let gone := tables ++ parts
  let alloc := sh.alloc.filter (fun r => !gone.contains r)
  { sh with
    alloc := alloc
    cells := (sh.cells.map (fun p => (p.1, { p.2 with formulas := p.2.formulas.filter (fun f => sh.needs (p.1 < 2 ^ 20) p.2 f) }))).filter (fun p =>
      p.1 < 2 ^ 20 || p.2.versions.any (fun v => v.st == .running) || p.2.parts.any (fun r => alloc.contains r)) }

/-- SHEETDEL ends once no recalculation runs (R424). -/
def endDelete (s : State) (n : Nat) : State :=
  match SMap.get? s.sheets n with
  | some sh =>
    if sh.deleting && sh.cells.all (fun p => p.2.versions.all (fun v => v.st != .running)) then { s with sheets := SMap.erase s.sheets n } else s
  | none => s

/-- After a change of a sheet: stale versions end by (generation, rank, index), those that become ready together take their arrival times
by (rank, index, generation) (R367), and what nothing needs goes. -/
def settle (s : State) (n : Nat) : State :=
  let run (f : State → Nat → Nat × Nat × Nat → State) (key : Nat → Nat → Nat → Nat × Nat × Nat) (s : State) : State :=
    match sheetAt s n with | some sh => (sh.staleList key).foldl (fun s x => f s n x) s | none => s
  let s := run readyOne (fun g r i => (r, i, g)) (run settleOne (fun g r i => (g, r, i)) s)
  endDelete (modSheetAt s n Sheet.sweep) n

/-! ### Stale marking and coalescing (R79, R87) -/

/-- A formula cell lies in the stale cone of a marking. -/
def Sheet.inCone (sh : Sheet) (m : Marking) (i : Nat) (c : Cell) : Bool :=
  m.self == some i ||
  (match c.formulaAt m.gen with
   | none => false
   | some f => f.all.any (fun p =>
      match sh.bound p.1 with
      | none => false
      | some x => if p.2 then x.versions.any (fun v => v.gen + 1 == m.gen && !v.alone) else x.versions.any (fun v => v.gen == m.gen)))

/-- A version at a generation, before anything is known of it. -/
def newVersion (g plen : Nat) (st : VState) : Version :=
  { gen := g, st := st, slot := 0, plen := plen, tail := true, commit := 0, src := 0, copy := 0, alone := false, ended := false
    arrival := 0, contained := 0, team := none, pins := [], table := (0, 0) }

/-- The prefix length of a cell's newest version. -/
def Cell.plenNow (c : Cell) : Nat := match c.versions with | v :: _ => v.plen | [] => 0

/-- Marks one cell of the rank that a marking has reached: its state after, with whether its version is made by a commit alone. -/
def markCell (s : State) (n : Nat) (m : Marking) (i : Nat) : State :=
  match SMap.get? s.sheets n with
  | none => s
  | some sh =>
    match sh.bound i with
    | none => s
    | some c =>
      let k := SMap.getD m.commits 0 i
      let src := match c.at (m.gen - 1) with | some p => p.slot | none => 0
      let v := { newVersion m.gen (c.plenNow + k) .stale with commit := k, src := src, copy := k }
      let add (v : Version) : State := modSheetAt s n (fun sh => sh.modCell i (fun c => { c with versions := v :: c.versions }))
      if sh.inCone m i c then add v
      else if k = 0 then s
      else add { v with st := .running, slot := src, tail := false, alone := true, ended := true }

/-- Every lag-0 dependent of a cell that is stale at a generation has been skipped there. -/
def Sheet.dependentsSkipped (sh : Sheet) (i g : Nat) : Bool :=
  sh.boundCells.all (fun p =>
    match p.2.versions.find? (fun v => v.gen == g) with
    | none => true
    | some v => v.st == .skipped || !(match p.2.formulaAt g with | some f => f.all.contains (i, false) | none => false))

/-- Coalescing of one cell of the cone of a generation (R87; a revoked view is not open, log 33). -/
def coalesceCell (s : State) (n gen i : Nat) : State :=
  match sheetAt s n with
  | none => s
  | some sh =>
    match sh.bound i with
    | none => s
    | some c =>
      match c.versions.find? (fun v => v.gen < gen) with
      | none => s
      | some v =>
        if v.pending && sh.views.all (fun w => w.revoked || w.gen < v.gen || gen ≤ w.gen)
            && sh.boundCells.all (fun p => p.2.formulas.all (fun f => !f.all.contains (i, true)))
            && sh.dependentsSkipped i v.gen
        then finishVersion s n i v.gen .skipped 0 else s

/-- Insertion by descending (rank, index). -/
def insertDown (x : Nat × Nat) : List (Nat × Nat) → List (Nat × Nat)
  | [] => [x]
  | y :: l => if y.1 < x.1 || (y.1 == x.1 && y.2 < x.2) then x :: y :: l else y :: insertDown x l

/-- A cell lies in the stale cone of a generation whose marking is complete: it has a formula there, and a version that no commit alone
has made, whatever has become of it since (R79, R87). -/
def Cell.wasStale (c : Cell) (gen : Nat) : Bool := (c.formulaAt gen).isSome && c.versions.any (fun v => v.gen == gen && !v.alone)

/-- Coalescing at a generation whose marking is complete. -/
def coalesce (s : State) (n gen : Nat) : State :=
  match sheetAt s n with
  | none => s
  | some sh =>
    let cone := sh.boundCells.foldl (fun acc p => if p.2.wasStale gen then insertDown (p.2.rank, p.1) acc else acc) []
    cone.foldl (fun s x => coalesceCell s n gen x.2) s

/-- One step of the oldest marking of a sheet: the next rank is marked; after the last, the marking ends and older versions coalesce. -/
def markStep (s : State) (n : Nat) : Option State :=
  match sheetAt s n with
  | none => none
  | some sh =>
    match sh.marking with
    | [] => none
    | m :: rest =>
      match leastOf ((sh.boundCells.filter (fun p => p.2.isFormula && m.passed ≤ p.2.rank)).map (fun p => p.2.rank)) with
      | none => some (settle (coalesce (modSheetAt s n (fun sh => { sh with marking := rest })) n m.gen) n)
      | some r =>
        let s := (sh.boundCells.filter (fun p => p.2.isFormula && p.2.rank == r)).foldl (fun s p => markCell s n m p.1) s
        some (settle (modSheetAt s n (fun sh => { sh with marking := { m with passed := r + 1 } :: rest })) n)

/-- Every marking of a sheet ends; `fuel` bounds the steps. -/
def markAll : Nat → State → Nat → State
  | 0, s, _ => s
  | fuel + 1, s, n => match markStep s n with | some s' => markAll fuel s' n | none => s

/-- The steps that the markings of a sheet still take, at most. -/
def Sheet.markBound (sh : Sheet) : Nat := sh.marking.length * (sh.cells.length + 1)

/-- A publish is accepted: the next generation, and its marking begins. -/
def acceptPublish (s : State) (n : Nat) (self : Option Nat) (commits : List (Nat × Nat)) : State :=
  modSheetAt s n (fun sh =>
    { sh with gen := sh.gen + 1, marking := sh.marking ++ [{ gen := sh.gen + 1, passed := 0, self := self, commits := commits }] })

/-! ### Binding (R311 to R314) -/

/-- A bind block (R311). -/
structure BindBlock where
  rank : Nat
  cls : Nat
  depth2 : Bool
  watch : Option Nat
  sheet : Nat
  cell : Nat
  descp : Nat
  lbp : Nat
  precs : List (Nat × Bool)
  range : Option (Nat × Nat × Bool)
  cap : Nat
  esize : Nat
  deriving DecidableEq, Repr

/-- The fields of a bind block; `w` gives its doublewords. -/
def bindBlock (w : Nat → Nat) : BindBlock :=
  let p (i : Nat) : Nat := w (8 + i / 2) / 2 ^ (32 * (i % 2)) % 2 ^ 32
  { rank := bits (w 0) 63 48, cls := bits (w 0) 47 46, depth2 := bits (w 0) 45 45 == 1
    watch := if bits (w 0) 44 44 = 1 then some (bits (w 0) 43 38) else none
    sheet := bits (w 0) 27 20, cell := bits (w 0) 19 0, descp := w 1, lbp := w 2
    precs := (List.range (min (bits (w 0) 37 33) 16)).map (fun i => (p i % 2 ^ 20, bits (p i) 31 31 == 1))
    range := if bits (w 0) 32 32 = 1 then some (bits (w 3) 39 20, bits (w 3) 19 0, bits (w 3) 63 63 == 1) else none
    cap := bits (w 4) 40 16, esize := bits (w 4) 7 0 }

/-- A field of a bind block is out of place (R311); an edit ignores class, depth and sizes (R313). -/
def bindBad (w : Nat → Nat) (edit : Bool) : Bool :=
  let b := bindBlock w
  let p (i : Nat) : Nat := w (8 + i / 2) / 2 ^ (32 * (i % 2)) % 2 ^ 32
  let np := bits (w 0) 37 33
  bits (w 0) 31 28 != 0 || 16 < np || bits (w 3) 62 40 != 0 || bits (w 4) 63 41 != 0 || bits (w 4) 15 8 != 0
    || w 5 != 0 || w 6 != 0 || w 7 != 0
    || (List.range 16).any (fun i => if i < np then bits (p i) 30 20 != 0 else p i != 0)
    || (!edit && (b.cls == 3 || (b.depth2 && b.cls != 0)
        || (if b.cls = 1 then b.cap == 0 || 2 ^ 24 < b.cap else b.cap != 0 || b.esize != 0)))

/-- The class of a code. -/
def classOf (c : Nat) : CellClass := if c = 1 then .append else if c = 2 then .const else .plain

/-- The bytes of a descriptor's tensor, rounded up to 64, at least 64 (R73; log 34). -/
def tensorBytes (d : Desc) : Nat :=
  let run := (d.size 0 * elemWidth d.code + 7) / 8
  let far (k : Nat) : Nat := if k ≤ d.ndim then (d.size k - 1) * min (d.stride k) (2 ^ 64 - d.stride k) else 0
  max 64 ((run + far 1 + far 2 + far 3 + 63) / 64 * 64)

/-- A lag-1 precedent is allowed (R71). -/
def Cell.lagOk (c : Cell) : Bool := c.cls == .append || (c.cls == .plain && c.depth2)

/-- The range of a bind block is not empty, reversed, too long or unbound (R72). -/
def Sheet.rangeOk (sh : Sheet) (self : Nat) : Option (Nat × Nat × Bool) → Bool
  | none => true
  | some (a, b, lag) => a ≤ b && b - a < 4096 && (rangeCells (some (a, b, lag))).all (fun p => p.1 == self || (sh.bound p.1).isSome)

/-- The code of the checks of a bind from RANK on (R312); `me` is the cell itself. -/
def Sheet.edges (sh : Sheet) (self : Nat) (me : Cell) (ps : List (Nat × Bool)) : Nat :=
  let look (i : Nat) : Cell := if i = self then me else (sh.bound i).getD me
  if ps.any (fun p => !p.2 && me.rank ≤ (look p.1).rank) then shRANK
  else if ps.any (fun p => p.2 && !(look p.1).lagOk) then shDEPTH
  else shOK

/-- The level of a formula (R366). -/
def formulaLevel (lb : LaunchBlock) (user urgent : Bool) : Nat := taskLevel lb.prio user urgent

/-- The length of the table of a range (R96). -/
def tableLen (r : Option (Nat × Nat × Bool)) : Nat := ((rangeCells r).length * 8 + 63) / 64 * 64

/-- The formula of a bind block. -/
def mkFormula (b : BindBlock) (since : Nat) (lb : LaunchBlock) (level : Nat) (table : Nat × Nat) : Formula :=
  { since := since, lb := lb, precs := b.precs, range := b.range, level := level, table := table }

/-- The descriptor that a block names; none where it is malformed. -/
def readDesc (rd : Nat → Nat → Option Nat) (p : Nat) : Option Desc :=
  if !space0 p 64 then none
  else match rd (p % 2 ^ 52) 64 with
    | none => none
    | some v => if Desc.valid (BitVec.ofNat 512 v) then some (Desc.clearRo (BitVec.ofNat 512 v)) else none

/-- The launch block that a bind block names: some none for an input cell, none where it is malformed. -/
def readFormula (rd rl : Nat → Nat → Option Nat) (p : Nat) : Option (Option LaunchBlock) :=
  if p = 0 then some none
  else if !space0 p 64 then none
  else match readLaunch rd rl true 5120 (p % 2 ^ 52) with | .ok lb => some (some lb) | .error _ => none

/-- The ranges (address, length) that the engine reads for a bind or an edit: the descriptor and the launch block (R310, R312, R313). -/
def bindReads (s : State) (rd : Nat → Nat → Option Nat) (w : Nat → Nat) (edit : Bool) : List (Nat × Nat) :=
  if (sheetAt s (bindBlock w).sheet).isNone || bindBad w edit then []
  else (if edit || !space0 (w 1) 64 then [] else [(w 1 % 2 ^ 52, 64)])
    ++ (if w 2 = 0 ∨ space0 (w 2) 64 = false then [] else launchReads rd (w 2 % 2 ^ 52))

/-- CBIND (R312): code, generation, state; `rd` reads the descriptor and the launch block, `rl` what the launch block's list names.  R96 does
not say where a range's table lies: it takes a range of the arena (log 137). -/
def bindOp (s : State) (rd rl : Nat → Nat → Option Nat) (w : Nat → Nat) (user urgent : Bool) : Nat × Nat × State :=
  let b := bindBlock w
  match sheetAt s b.sheet with
  | none => (shNOSHEET, 0, s)
  | some sh =>
    if bindBad w false then (shBADDESC, 0, s)
    else match readDesc rd b.descp, readFormula rd rl b.lbp with
      | some d, some lb =>
        let cls := classOf b.cls
        let es := if b.esize = 0 then 16384 else b.esize * 64
        let len := tensorBytes d
        let me : Cell :=
          { desc := d, rank := b.rank, cls := cls, depth2 := b.depth2, watch := b.watch, formulas := [], cap := b.cap, esize := es
            slots := [], slotLen := len, versions := [] }
        if (sh.bound b.cell).isSome || b.precs.any (fun p => p.1 != b.cell && (sh.bound p.1).isNone) then (shNOCELL, 0, s)
        else if !sh.rangeOk b.cell b.range then (shRANGE, 0, s)
        else if cls == .const && lb.isSome then (shCONST, 0, s)
        else
          let e := sh.edges b.cell me (b.precs ++ rangeCells b.range)
          if e ≠ shOK then (e, 0, s)
          else if lb.isSome && sh.gen == lastGen then (shFULL, 0, s)
          else
            let parts : List Nat := match cls with
              | .append => [b.cap * es, 64 + 64 * es, 64 + 64 * es]
              | .const => [len]
              | .plain => if b.depth2 then [len, len] else [len]
            let tl := if lb.isSome then tableLen b.range else 0
            match sh.allocate (parts ++ (if tl = 0 then [] else [tl])) with
            | none => (shFULL, 0, s)
            | some (as, sh') =>
              let slots := match cls with | .append => as.getD 0 0 :: ((as.take 3).drop 1).map (fun a => a + 64) | _ => as.take parts.length
              let table := if tl = 0 then (0, 0) else (as.getD parts.length 0, tl)
              let c := { me with
                slots := slots
                formulas := match lb with
                  | some lb => [mkFormula b (sh.gen + 1) lb (formulaLevel lb user urgent) table]
                  | none => [] }
              let s := setSheetAt s b.sheet { sh' with cells := SMap.set sh'.cells b.cell c }
              let s := c.parts.foldl (fun s r => arenaZero s sh' r.1 r.2) s
              if lb.isSome then (shOK, sh.gen + 1, settle (acceptPublish s b.sheet (some b.cell) []) b.sheet) else (shOK, 0, s)
      | _, _ => (shBADDESC, 0, s)

/-- The formulas of a cell that recalculations not yet dispatched use (R80), those of generations included whose marking goes on. -/
def waitingFormulas (s : State) (n i : Nat) : Nat :=
  let marked := match sheetAt s n with | some sh => markAll sh.markBound s n | none => s
  match (sheetAt marked n).bind (fun sh => sh.bound i) with
  | none => 0
  | some c =>
    (c.formulas.filter (fun f => c.versions.any (fun v => v.pending && (c.formulaAt v.gen).map (fun x => x.since) == some f.since))).length

/-- CEDIT (R313): code, generation, state. -/
def editOp (s : State) (rd rl : Nat → Nat → Option Nat) (w : Nat → Nat) (user urgent : Bool) : Nat × Nat × State :=
  let b := bindBlock w
  match sheetAt s b.sheet with
  | none => (shNOSHEET, 0, s)
  | some sh =>
    if b.lbp = 0 || (match sh.bound b.cell with | some c => !c.isFormula | none => false) then (shCLASS, 0, s)
    else if bindBad w true then (shBADDESC, 0, s)
    else match readFormula rd rl b.lbp, sh.bound b.cell with
      | some (some lb), some c =>
        if b.precs.any (fun p => (sh.bound p.1).isNone) then (shNOCELL, 0, s)
        else if !sh.rangeOk b.cell b.range then (shRANGE, 0, s)
        else
          let e := sh.edges b.cell c (b.precs ++ rangeCells b.range)
          let tl := tableLen b.range
          if e ≠ shOK then (e, 0, s)
          else if sh.gen == lastGen || 2 < waitingFormulas s b.sheet b.cell then (shFULL, 0, s)
          else match sh.allocate (if tl = 0 then [] else [tl]) with
            | none => (shFULL, 0, s)
            | some (as, sh') =>
              let f := mkFormula b (sh.gen + 1) lb (formulaLevel lb user urgent) (if tl = 0 then (0, 0) else (as.getD 0 0, tl))
              let s := setSheetAt s b.sheet (sh'.modCell b.cell (fun c => { c with formulas := f :: c.formulas, watch := b.watch }))
              (shOK, sh.gen + 1, settle (acceptPublish s b.sheet (some b.cell) []) b.sheet)
      | some _, none => (shNOCELL, 0, s)
      | _, _ => (shBADDESC, 0, s)

/-- The key of an unbound cell with versions left: above every cell key. -/
def Sheet.ghostKey (sh : Sheet) (i : Nat) : Nat := (sh.cells.foldl (fun m p => max m (p.1 / 2 ^ 20)) 0 + 1) * 2 ^ 20 + i

/-- The sheet without what its markings and its open sessions still hold for a cell that is unbound: a cell bound under the index later has
no part in it (R79, R81). -/
def Sheet.forget (sh : Sheet) (i : Nat) : Sheet :=
  { sh with
    marking := sh.marking.map (fun m =>
      { m with self := if m.self = some i then none else m.self, commits := m.commits.filter (fun q => q.1 != i) })
    sessions := sh.sessions.map (fun x => { x with appends := x.appends.filter (fun q => q.1 != i) }) }

/-- CUNBIND (R81, R314).  A cell that a superseded formula names counts as a precedent as long as a recalculation needs that formula
(log 107). -/
def unbindOp (s : State) (n i : Nat) : Nat × State :=
  match sheetAt s n with
  | none => (shNOSHEET, s)
  | some sh =>
    match sh.bound i with
    | none => (shNOCELL, s)
    | some c =>
      if sh.sessions.any (fun x => x.cells.any (fun q => q.1 == i)) then (shBUSY, s)
      else if sh.boundCells.any (fun p => p.1 != i && p.2.formulas.any (fun f => f.all.any (fun q => q.1 == i))) then (shHASDEP, s)
      else
        let c' := { c with versions := c.versions.filter (fun v => !v.pending) }
        (shOK, settle (setSheetAt s n { sh.forget i with cells := SMap.set (SMap.erase sh.cells i) (sh.ghostKey i) c' }) n)

/-! ### Write sessions and publishing (R76 to R78, R315 to R317) -/

/-- The code of R76 for one cell of a session, if any. -/
def Sheet.openCode (sh : Sheet) (i : Nat) : Option Nat :=
  match sh.bound i with
  | none => some shNOCELL
  | some c =>
    if sh.sessions.any (fun x => x.cells.any (fun q => q.1 == i)) then some shBUSY
    else if c.cls == .const && !c.versions.isEmpty then some shCONST
    else if c.isFormula then some shCLASS
    else none

/-- What opening a session comes to. -/
inductive Opened where
  | code (c : Nat)
  | wait
  | ok (descs : List Desc) (s : State)

/-- CWOPEN (R76, R94, R315) after its block is checked; where several cells fail, the first of the block gives the code (log 43). -/
def openOp (s : State) (owner n : Nat) (cells : List Nat) : Opened :=
  match sheetAt s n with
  | none => .code shNOSHEET
  | some sh =>
    if sh.sessions.any (fun x => x.owner == owner) then .code shBUSY
    else if !cells.Nodup then .code shBADDESC
    else match cells.findSome? sh.openCode with
      | some c => .code c
      | none =>
        let cs := cells.filterMap (fun i => (sh.bound i).map (fun c => (i, c)))
        if cs.any (fun p => !sh.slotFree p.1 p.2 (lastGen + 1)) then .wait
        else
          let slots := cs.map (fun p =>
            let k := p.2.slotFor (lastGen + 1)
            match p.2.cls with
            | .append => (p.1, k, p.2.slots.getD (1 + k) 0 - 64, 64 + 64 * p.2.esize)
            | _ => (p.1, k, p.2.slots.getD k 0, p.2.slotLen))
          .ok (cs.map (fun p => pendingDesc n p.1 p.2 (p.2.slotFor (lastGen + 1))))
            (setSheetAt s n { sh with sessions := sh.sessions ++ [{ owner := owner, sheet := n, cells := slots, appends := [] }] })

/-- The session of an owner on a sheet. -/
def Sheet.session (sh : Sheet) (owner : Nat) : Option Session := sh.sessions.find? (fun x => x.owner == owner)

/-- CAPPEND (R78, R317). -/
def appendOp (s : State) (owner n i k : Nat) : Nat × State :=
  match sheetAt s n with
  | none => (shNOSESS, s)
  | some sh =>
    match sh.session owner, sh.bound i with
    | none, _ => (shNOSESS, s)
    | _, none => (shNOCELL, s)
    | some _, some c =>
      if c.cls != .append then (shCLASS, s)
      else (shOK, setSheetAt s n { sh with sessions := sh.sessions.map (fun x =>
        if x.owner = owner then { x with appends := x.appends.filter (fun q => q.1 != i) ++ [(i, k)] } else x) })

/-- The code of a session's append commits (R78; a version that is still computed has no tail to take from, log 35; a commit whose cell
has been unbound since is passed over, log 107). -/
def commitCode (s : State) (sh : Sheet) : List (Nat × Nat) → Nat
  | [] => shOK
  | (i, k) :: rest =>
    match sh.bound i with
    | none => commitCode s sh rest
    | some c =>
      let t := match c.at sh.gen with | some p => tailCount s sh c p | none => 0
      if t < k then shCOUNT
      else if c.cap < c.plenNow + k then shFULL
      else commitCode s sh rest

/-- The version that a publish at g gives to an input cell, with its pending slot or by a commit alone. -/
def publishedVersion (c : Cell) (g : Nat) (slot : Option Nat) (k : Nat) : Version :=
  let src := match c.at (g - 1) with | some p => p.slot | none => 0
  let v := { newVersion g (c.plenNow + k) (if k = 0 then .fresh else .running) with commit := k, src := src, copy := k, ended := k != 0 }
  match slot with
  | some x => { v with slot := x }
  | none => { v with slot := src, tail := false }

/-- An input cell gets a version, and its record if it is fresh at once. -/
def addPublished (s : State) (n i : Nat) (v : Version) : State :=
  match (SMap.get? s.sheets n).bind (fun sh => sh.bound i) with
  | none => s
  | some c =>
    let s := modSheetAt s n (fun sh => sh.modCell i (fun c => { c with versions := v :: c.versions }))
    if v.st == .fresh then postCell s n i c v.gen 0 shOK 0 else s

/-- The publish step (R77, R78): code, generation, state. -/
def publishOp (s : State) (owner n : Nat) (cancel : Bool) : Nat × Nat × State :=
  match sheetAt s n with
  | none => (shNOSHEET, 0, s)
  | some sh =>
    match sh.session owner with
    | none => (shNOSESS, 0, s)
    | some x =>
      let close (s : State) : State := modSheetAt s n (fun sh => { sh with sessions := sh.sessions.filter (fun y => y.owner != owner) })
      if cancel then (shOK, 0, settle (close s) n)
      else
        let s := if x.appends.any (fun q => match sh.bound q.1 with | some c => c.isFormula | none => false) then markAll sh.markBound s n else s
        match sheetAt s n with
        | none => (shNOSHEET, 0, s)
        | some sh =>
          let e := commitCode s sh x.appends
          if e ≠ shOK then (e, 0, s)
          else if sh.gen = lastGen then (shFULL, 0, s)
          else
            let g := sh.gen + 1
            let s := acceptPublish (close s) n none (x.appends.filter (fun q => match sh.bound q.1 with | some c => c.isFormula | none => false))
            let s := x.cells.foldl (fun s q => match sh.bound q.1 with
              | some c => addPublished s n q.1 (publishedVersion c g (some q.2.1) (((x.appends.find? (fun a => a.1 == q.1)).map (fun a => a.2)).getD 0))
              | none => s) s
            let s := (x.appends.filter (fun a => x.cells.all (fun q => q.1 != a.1))).foldl (fun s a => match sh.bound a.1 with
              | some c => if c.isFormula then s else addPublished s n a.1 (publishedVersion c g none a.2)
              | none => s) s
            (shOK, g, settle s n)

/-- One tail entry of the previous version is copied into the prefix (R78), once its lines are free to be written; none where no version
of the cell waits for a copy. -/
def copyEntry (s : State) (n key : Nat) : Option State :=
  match SMap.get? s.sheets n with
  | none => none
  | some sh =>
    match SMap.get? sh.cells key with
    | none => none
    | some c =>
      -- the oldest copy first
      match (c.versions.filter (fun v => v.copy != 0)).getLast? with
      | none => none
      | some v =>
        let j := v.commit - v.copy
        let dst := c.slots.getD 0 0 + (v.plen - v.commit + j) * c.esize
        let src := c.slots.getD (1 + v.src) 0 + j * c.esize
        if !arenaOpen s sh dst c.esize then none
        else
          let s := (List.range (c.esize / 64)).foldl (fun s i =>
            let s := arenaCombine s sh (src + 64 * i) 64
            arenaWrite s sh (dst + 64 * i) (leBytes (arenaRead s sh (src + 64 * i) 64) 64) (arenaPoison s sh (src + 64 * i) 64).isSome) s
          some (settle (modSheetAt s n (fun sh => sh.modCell key (fun c => c.modVersion v.gen (fun v => { v with copy := v.copy - 1 })))) n)

/-- Where writes into a version may still be on their way: its slot, or its tail and the prefix positions that its commit fills (R131). -/
def Cell.written (c : Cell) (v : Version) : List (Nat × Nat) :=
  match c.cls with
  | .append => (c.slots.getD 0 0 + (v.plen - v.commit) * c.esize, v.commit * c.esize) :: (c.areas v).drop 1
  | _ => c.areas v

/-- A version whose task is complete, and to which nothing is to be copied or written any more, becomes fresh (R78, R84, R131); none where
there is no such version. -/
def markFresh (s : State) (n key : Nat) : Option State :=
  match (SMap.get? s.sheets n).bind (fun sh => (SMap.get? sh.cells key).map (fun c => (sh, c))) with
  | none => none
  | some (sh, c) =>
    match (c.versions.filter (fun v => v.ended && v.copy == 0)).getLast? with
    | none => none
    | some v => if linesQuiet s sh (c.written v) then some (settle (finishVersion s n key v.gen .fresh 0) n) else none

/-- The keys under which a cell index stands in a sheet. -/
def cellKeys (s : State) (n i : Nat) : List Nat :=
  match SMap.get? s.sheets n with
  | some sh => (sh.cells.filter (fun p => p.1 % 2 ^ 20 == i)).map (fun p => p.1)
  | none => []

/-! ### Views (R88 to R92, R95, R318 to R322) -/

/-- The view that an owner holds under a handle, on any sheet. -/
def viewAt (s : State) (owner v : Nat) : Option View :=
  s.sheets.findSome? (fun p => p.2.views.find? (fun w => w.owner == owner && w.handle == v))

/-- VOPEN (R88, R318): code, generation, handle, state. -/
def vopenOp (s : State) (owner n : Nat) : Nat × Nat × Nat × State :=
  match sheetAt s n with
  | none => (shNOSHEET, 0, 0, s)
  | some sh =>
    match (List.range 16).find? (fun h => (viewAt s owner h).isNone) with
    | none => (shFULL, 0, 0, s)
    | some h =>
      if 4096 ≤ sh.views.length then (shFULL, 0, 0, s)
      else (shOK, sh.gen, h, setSheetAt s n { sh with views := sh.views ++
        [{ owner := owner, handle := h, sheet := n, gen := sh.gen, revoked := false, maps := [] }] })

/-- VCLOSE (R318). -/
def vcloseOp (s : State) (owner v : Nat) : Nat × State :=
  match viewAt s owner v with
  | none => (shBADVIEW, s)
  | some w => (shOK, settle (modSheetAt s w.sheet (fun sh =>
      { sh with views := sh.views.filter (fun x => !(x.owner == owner && x.handle == v)) })) w.sheet)

/-- The view, sheet and cell that a read names, or the code of what is not there (R89, R319). -/
def readTarget (s : State) (owner v n i : Nat) : Except Nat (View × Sheet × Cell) :=
  match viewAt s owner v with
  | none => .error shBADVIEW
  | some w =>
    if w.revoked then .error shREVOKED
    else if w.sheet ≠ n then .error shBADVIEW
    else match sheetAt s n with
      | none => .error shBADVIEW
      | some sh => match sh.bound i with | none => .error shNOCELL | some c => .ok (w, sh, c)

/-- What the cell's state at a view's generation answers; none while the read waits (R79, R89). -/
def Sheet.answerAt (sh : Sheet) (c : Cell) (g : Nat) : Option Nat :=
  if !sh.passed c.rank g then none
  else match c.stateAt g with
    | .fresh => some shOK
    | .failed => some shFAILED
    | .absent => some shEMPTY
    | _ => none

/-- What a CRD of a cell under a view answers; none while it waits (R89). -/
def readCode (s : State) (owner v n i : Nat) : Option Nat :=
  match readTarget s owner v n i with
  | .error e => some e
  | .ok (w, sh, c) => sh.answerAt c w.gen

/-- What a CRD comes to. -/
inductive ReadCell where
  | code (c : Nat)
  | wait
  | ok (addr : Nat) (descs : List Desc) (s : State)

/-- CRD (R89, R319): `td` is the first entry named; an append cell at entry 255 answers BADDESC whatever its state. -/
def crdOp (s : State) (owner v n i td : Nat) : ReadCell :=
  match readTarget s owner v n i with
  | .error e => .code e
  | .ok (w, sh, c) =>
    if c.cls = .append ∧ td = 255 then .code shBADDESC
    else match sh.answerAt c w.gen with
      | none => .wait
      | some e =>
        if e ≠ shOK then .code e
        else match c.at w.gen with
          | none => .code shEMPTY
          | some x =>
            .ok (c.address x) (versionDescs s n sh i c x) (setSheetAt s n { sh with views := sh.views.map (fun y =>
              if y.owner = owner ∧ y.handle = v then { y with maps := y.maps ++ (c.areas x).map (fun r => (r.1, r.2, i)) } else y) })

/-- CFENCE's answer (R90): none while it waits. -/
def fenceCode (s : State) (owner v n : Nat) (cells : List Nat) : Option Nat :=
  let cs := cells.map (readCode s owner v n)
  if cs.any (fun x => x.isNone) then none
  else some (((cs.find? (fun x => x != some shOK)).getD (some shOK)).getD shOK)

/-- The code of a state in CSTAT (R321). -/
def stateCode : VState → Nat
  | .fresh => 0
  | .stale => 1
  | .ready => 2
  | .running => 3
  | .failed => 4
  | .absent => 5
  | .skipped => 6

/-- A write session still waits: its core polls, or its channel is busy. -/
def stillWaits (s : State) (owner : Nat) : Bool :=
  s.cores.any (fun p => ownerOf s p.1 == owner && p.2.wait == some .poll)
    || s.channels.any (fun p => channelOwner p.1 == owner && p.2.busy)

/-- The generations of the views and pins that block a cell (R94; pins are counted like views, log 117). -/
def Sheet.blockers (s : State) (sh : Sheet) (i : Nat) (c : Cell) : List Nat :=
  (c.versions.filter (fun v => v.st == .ready)).flatMap (fun v => sh.slotReaders i c (c.slotFor v.gen) v.gen)
    ++ (if sh.waiting.any (fun x => x.2.contains i && stillWaits s x.1) then sh.slotReaders i c (c.slotFor (lastGen + 1)) (lastGen + 1) else [])

/-- CSTAT (R321). -/
def statOp (s : State) (n i : Nat) : Word × Word :=
  match sheetAt s n with
  | none => (word shNOSHEET, 0)
  | some sh =>
    match sh.bound i with
    | none => (word shNOCELL, 0)
    | some c =>
      let st := match c.versions with | v :: _ => v.st | [] => .absent
      let b := leastOf (sh.blockers s i c)
      let fresh := ((c.versions.find? (fun v => v.st == .fresh)).map (fun v => v.gen)).getD 0
      (word (b.getD 0 * 2 ^ 16 + stateCode st * 2 ^ 12 + (if b.isSome then 2 ^ 11 else 0)), word fresh)

/-- The slots of a cell that views or pins hold. -/
def Sheet.heldSlots (sh : Sheet) (i : Nat) (c : Cell) : List Nat :=
  (List.range 2).filter (fun k => !(sh.slotReaders i c k (lastGen + 1)).isEmpty)

/-- CREVOKE (R95, R322): code, count, state; the records of R95 carry STATUS REVOKED (log 31). -/
def revokeOp (s : State) (n limit : Nat) : Nat × Nat × State :=
  match sheetAt s n with
  | none => (shNOSHEET, 0, s)
  | some sh =>
    let hit (w : View) : Bool := !w.revoked && w.gen < limit
    let sh' := { sh with views := sh.views.map (fun w => if hit w then { w with revoked := true } else w) }
    let freed := sh.boundCells.filter (fun p => p.2.watch.isSome && (sh.heldSlots p.1 p.2).any (fun k => !(sh'.heldSlots p.1 p.2).contains k))
    let s := freed.foldl (fun s p => postCell s n p.1 p.2 limit 4 shREVOKED 0) (setSheetAt s n sh')
    (shOK, (sh.views.filter hit).length, settle s n)

/-- The views and sessions of an owner are closed and cancelled (R88). -/
def closeOwner (s : State) (owner : Nat) : State :=
  s.sheets.foldl (fun s p =>
    if p.2.views.any (fun w => w.owner == owner) || p.2.sessions.any (fun x => x.owner == owner) then
      settle (modSheetAt s p.1 (fun sh =>
        { sh with views := sh.views.filter (fun w => w.owner != owner), sessions := sh.sessions.filter (fun x => x.owner != owner) })) p.1
    else s) s

/-- Owners renamed, as COREIDs are renumbered (R375). -/
def renameOwners (s : State) (f : Nat → Nat) : State :=
  { s with sheets := s.sheets.map (fun p => (p.1, { p.2 with
      views := p.2.views.map (fun w => { w with owner := f w.owner })
      sessions := p.2.sessions.map (fun x => { x with owner := f x.owner }) })) }

/-- SHEETDEL begins (R424). -/
def deleteOp (s : State) (n : Nat) : Nat × State :=
  match sheetAt s n with
  | none => (shNOSHEET, s)
  | some sh =>
    (shOK, endDelete (setSheetAt s n { sh with
      sessions := [], views := [], marking := [], waiting := [], deleting := true
      cells := sh.cells.map (fun p => (p.1, { p.2 with versions := p.2.versions.filter (fun v => !v.pending) })) }) n)

/-! ### Recalculation (R83, R91, R96) -/

/-- A ready version of a cell that the engine may dispatch (R79, R83, R103). -/
def dispatchable (s : State) (sh : Sheet) (i : Nat) (c : Cell) : Option Version :=
  match (c.versions.filter (fun v => v.st == .ready)).getLast? with
  | none => none
  | some v =>
    if sh.slotFree i c v.gen && sh.passed c.rank v.gen && (c.formulaAt v.gen).isSome
        && (match c.watch with | some r => (ringAt s r).held.length < 256 | none => true) then some v
    else none

/-- The entries that present a precedent at a generation (R82, R96; log 30). -/
def presented (s : State) (n : Nat) (sh : Sheet) (i g : Nat) : List Desc :=
  match sh.bound i with
  | none => []
  | some c =>
    match c.at g with
    | some v => if v.st == .fresh then versionDescs s n sh i c v else absentDescs n i c
    | none => absentDescs n i c

/-- The descriptor of a precedent range (R96): R39 has no code for INT64, so the entry names the 8-byte container of FP64 (log 36). -/
def rangeDesc (f : Formula) : Desc :=
  let n := (rangeCells f.range).length
  BitVec.ofNat 512 (8 * 2 ^ 320 + n * 2 ^ 192 + 2 ^ 138 + 2 ^ 137 + 15 * 2 ^ 128 + f.table.1)

/-- The descriptor entries 0 to 33 of a recalculation (R96), and the list of its block. -/
def formulaTd (s : State) (n : Nat) (sh : Sheet) (i : Nat) (c : Cell) (v : Version) (f : Formula) : SMap (BitVec 512) :=
  let blank : SMap (BitVec 512) := (List.range 33).map (fun j => (j + 1, unnamedDesc))
  let td := SMap.set blank 0 (pendingDesc n i c (c.slotFor v.gen))
  let td := (f.precs.zipIdx).foldl (fun m p =>
    match presented s n sh p.1.1 (if p.1.2 then v.gen - 1 else v.gen) with
    | [d] => SMap.set m (p.2 + 1) d
    | [d, e] => SMap.set (SMap.set m (p.2 + 1) d) (p.2 + 18) e
    | _ => m) td
  let td := if f.range.isSome then SMap.set td 17 (rangeDesc f) else td
  f.lb.tds.foldl (fun m x => SMap.set m x.1 x.2) td

/-- The versions that a recalculation pins (R91). -/
def formulaPins (sh : Sheet) (v : Version) (f : Formula) : List (Nat × Nat × Nat) :=
  f.all.filterMap (fun p =>
    let g := if p.2 then v.gen - 1 else v.gen
    match (sh.bound p.1).bind (fun c => c.at g) with
    | some w => if w.st == .fresh then some (p.1, w.gen, g) else none
    | none => none)

/-- The engine writes the addresses of a range's versions, 0 where there is none (R96). -/
def writeTable (s : State) (sh : Sheet) (v : Version) (f : Formula) : State :=
  let addrs := (rangeCells f.range).map (fun p =>
    match sh.bound p.1 with
    | some c => (match c.at (if p.2 then v.gen - 1 else v.gen) with | some w => if w.st == .fresh then c.address w else 0 | none => 0)
    | none => 0)
  (List.range (f.table.2 / 64)).foldl (fun s j =>
    arenaWrite s sh (f.table.1 + 64 * j) (leBytes (leNat (fun b => BitVec.ofNat 8 (addrs.getD (8 * j + b / 8) 0 / 256 ^ (b % 8))) 64) 64)) s

/-- Dispatches a ready version: its task enters the queues (R80, R83, R362, R367).  While the lines of its range table (R96) cannot be written
the engine waits, and passes over no cell. -/
def dispatchCell (s : State) (n i : Nat) : Option State :=
  match sheetAt s n with
  | none => none
  | some sh =>
    match sh.bound i with
    | none => none
    | some c =>
      match dispatchable s sh i c with
      | none => none
      | some v =>
        if sh.boundCells.any (fun p => (p.2.rank < c.rank || (p.2.rank == c.rank && p.1 < i)) && (dispatchable s sh p.1 p.2).isSome) then none
        else match c.formulaAt v.gen with
          | none => none
          | some f =>
            if !arenaOpen s sh f.table.1 f.table.2 then none
            else
            let td := formulaTd s n sh i c v f
            let s := writeTable s sh v f
            let root := (SMap.get? s.roots sh.asid).getD 0
            let (t, s) := addTask s (fun _ =>
              { newTeam (.formula n i v.gen) f.lb sh.asid root (word v.gen) (word (2 ^ 63 + n * 2 ^ 20 + i)) f.level v.arrival with td := td })
            some (modSheetAt s n (fun sh => sh.modCell i (fun c => c.modVersion v.gen (fun v =>
              { v with st := .running, slot := c.slotFor v.gen, team := some t, pins := formulaPins sh v f
                       table := if f.range.isSome then f.table else (0, 0) }))))

/-- The least cell of a sheet that may be dispatched. -/
def nextDispatch (s : State) (n : Nat) : Option State :=
  match sheetAt s n with
  | none => none
  | some sh => sh.boundCells.findSome? (fun p => if p.2.versions.any (fun v => v.st == .ready) then dispatchCell s n p.1 else none)

/-- The key of the cell of a recalculation that runs. -/
def runningKey (s : State) (n i g : Nat) : Option Nat :=
  (cellKeys s n i).find? (fun key => match (SMap.get? s.sheets n).bind (fun sh => SMap.get? sh.cells key) with
    | some c => c.versions.any (fun v => v.gen == g && v.computing)
    | none => false)

/-- A recalculation's task is complete (R84, R91): its pins end, and its version is to be marked fresh; or it has failed (R85, R101). -/
def taskEnds (s : State) (n i g : Nat) (fault : Option Word) : State :=
  match runningKey s n i g with
  | none => s
  | some key =>
    match fault with
    | none => settle (modSheetAt s n (fun sh => sh.modCell key (fun c => c.modVersion g (fun v => { v with ended := true, team := none, pins := [] })))) n
    | some f => settle (finishVersion (modSheetAt s n (fun sh => sh.modCell key (fun c => c.modVersion g (fun v =>
        { v with team := none, pins := [] })))) n key g .failed f) n

/-- Containment has ended a recalculation (R86, R409): its version is READY again. -/
def rerun (s : State) (n i g : Nat) : State :=
  match runningKey s n i g with
  | none => s
  | some key => settle { modSheetAt s n (fun sh => sh.modCell key (fun c => c.modVersion g (fun v =>
      { v with st := .ready, arrival := s.arrivals, team := none, pins := [], contained := v.contained + 1 }))) with
      arrivals := s.arrivals + 1 } n

/-! ### Events -/

/-- STALE_MARK (R79). -/
def execStaleMark (sheet : Nat) (s : State) : Out := happen s (markStep s sheet)
/-- CELL_DISPATCH (R83). -/
def execCellDispatch (sheet cell : Nat) (s : State) : Out := happen s (dispatchCell s sheet cell)
/-- CELL_MARK_FRESH (R84). -/
def execCellMarkFresh (sheet cell : Nat) (s : State) : Out := happen s ((cellKeys s sheet cell).findSome? (markFresh s sheet))
/-- APPEND_PREFIX_COPY (R78). -/
def execAppendPrefixCopy (sheet cell : Nat) (s : State) : Out := happen s ((cellKeys s sheet cell).findSome? (copyEntry s sheet))

/-- The result of a sheet instruction (R310). -/
def sheetWord (code gen view : Nat) : Word := word (if code = shOK then gen * 2 ^ 16 + view * 2 ^ 8 else code)

/-- The fields of a packed operand (R310): bits 62:28, sheet, cell. -/
def packed (x : Word) : Nat × Nat × Nat := (bits x.toNat 62 28, bits x.toNat 27 20, bits x.toNat 19 0)

/-- No write that has been accepted into a pending slot of an owner's session still waits on its way (R77, R131): what has reached the slot
before the publish step stands in it at that step, and a write that comes later has lost its right (R98; logs 125 and 127). -/
def slotsQuiet (s : State) (n owner : Nat) : Bool :=
  match (sheetAt s n).bind (fun sh => (sh.session owner).map (fun x => (sh, x))) with
  | none => true
  | some (sh, x) => linesQuiet s sh (x.cells.map (fun q => (q.2.2.1, q.2.2.2)))

/-- The tail headers that a publish of an owner's session reads (R78): their addresses. -/
def publishReads (s : State) (owner n : Nat) : List (Sheet × Nat) :=
  match (sheetAt s n).bind (fun sh => (sh.session owner).map (fun x => (sh, x))) with
  | none => []
  | some (sh, x) => x.appends.filterMap (fun q =>
      ((sh.bound q.1).bind (fun c => (c.at sh.gen).bind (fun v => c.header v))).map (fun a => (sh, a)))

/-- The tail header that a CRD of a cell reads (R89). -/
def crdReads (s : State) (owner v n i : Nat) : List (Sheet × Nat) :=
  match readTarget s owner v n i with
  | .error _ => []
  | .ok (w, sh, c) =>
    if sh.answerAt c w.gen = some shOK then (((c.at w.gen).bind (fun x => c.header x)).map (fun a => (sh, a))).toList else []

/-- The lines of tail headers are combined (R127). -/
def combineHeaders (s : State) (l : List (Sheet × Nat)) : State := l.foldl (fun s x => arenaCombine s x.1 x.2 8) s
/-- The first poisoned granule among tail headers (R405). -/
def headerPoison (s : State) (l : List (Sheet × Nat)) : Option (Nat × Nat) := l.findSome? (fun x => arenaPoison s x.1 x.2 8)

/-- A publish reaches the sheet engine (R77, R131, R132): the first of its core. -/
def performPublish (s : State) (j : Nat) : Option State :=
  match s.publishes[j]? with
  | none => none
  | some p =>
    if (s.publishes.take j).any (fun q => q.core == p.core) then none
    else
      let (hi, n, _) := packed p.operand
      if hi = 0 ∧ slotsQuiet s n (ownerOf s p.core) = false then none
      else
        let reads := if hi ≠ 0 ∨ p.cancel = true then [] else publishReads s (ownerOf s p.core) n
        let s := combineHeaders { s with publishes := s.publishes.eraseIdx j } reads
        match headerPoison s reads with
        | some (u, a) => some (consumeAt s p.core u a)
        | none =>
        let r := if hi ≠ 0 then (shNOSHEET, 0, s) else publishOp s (ownerOf s p.core) n p.cancel
        some (if p.reply then replyTo r.2.2 p.core (.value (sheetWord r.1 r.2.1 0) 0) else r.2.2)

/-- SHEET_PUBLISH (R77). -/
def execSheetPublish (pub : Nat) (s : State) : Out := happen s (performPublish s pub)

end Sys2Proof.Machine
end

