-- ==== Sys2Proof/Machine/SheetInstr.lean ====
section
/-!
DEFINITION. The sheet instructions (R310 to R324).
-/

namespace Sys2Proof.Machine

/-- A held command to the sheet engine. -/
def Action.sheet : Action → Bool
  | .cwpub _ _ => true
  | .cappend _ _ => true
  | _ => false

/-- The commands of a core reach the sheet engine in program order (R121, R132): no acquire of it is outstanding, its earlier publishes have
performed, and its held commands have left the region buffer. -/
def sheetTurn : Act Unit := do
  let s ← get
  afterAcquire
  waitUntil (s.publishes.all (fun p => p.core != s.cur) && s.core.rbuf.all (fun e => !(e.committed && e.act.sheet)))


/-- The running core's owner name. -/
def myOwner : Act Nat := do
  let s ← get
  return ownerOf s s.cur

/-- The n doublewords of a block (R310): a space-0 pointer, 64-byte aligned, checked and read as loads of the core. -/
def readBlock (s0 : State) (x : Word) (n : Nat) : Act (List Nat) := do
  trapIf (x.toNat % 64 != 0) 4 x
  trapIf (walkPolicy x).isNone 5 x
  let els ← (List.range n).mapM (fun i => do
    let ea := x + word (8 * i)
    let pl ← checkAccess .load ea 8 0
    return (ea, 8, pl))
  gather s0 els

/-- A bind or an edit by two readers, from the doublewords of its block, the mode and URGENT. -/
abbrev BindOp := State → (Nat → Nat → Option Nat) → (Nat → Nat → Option Nat) → (Nat → Nat) → Bool → Bool → Nat × Nat × State

/-- CBIND and CEDIT: the engine reads at the homes once every earlier access of the core has performed at DEV scope (R310); a poisoned
granule of what it reads is consumed (R405). -/
def bindInstr (edit : Bool) (op : BindOp) (g a : BitVec 4) : Act Unit := do
  let s0 ← get
  let x ← readReg a.toNat
  canWrite g.toNat
  let ws ← readBlock s0 x 16
  sheetTurn
  released
  let s ← get
  let urgent : Bool := match s.core.team.bind (teamAt s) with | some t => t.urgent | none => false
  let user := !s.core.supervisor
  let w (i : Nat) : Nat := ws.getD i 0
  engineState 10 (bindBlock w).sheet
  engineReads (bindReads s (coreRead s s.cur user) w edit)
  let s ← get
  let rd := coreRead s s.cur user
  let r := op s rd rd w user urgent
  set r.2.2
  writeReg g.toNat (sheetWord r.1 r.2.1 0)
  retire 4

/-- CBIND (R312). -/
def execCbind (g a : BitVec 4) (s : State) : Out := runTermOnce (.cbind 0 0) [a.toNat] [g.toNat] (bindInstr false bindOp g a) s
/-- CEDIT (R313). -/
def execCedit (g a : BitVec 4) (s : State) : Out := runTermOnce (.cedit 0 0) [a.toNat] [g.toNat] (bindInstr true editOp g a) s

/-- CUNBIND (R314). -/
def execCunbind (g a : BitVec 4) (s : State) : Out :=
  runTermOnce (.cunbind 0 0) [a.toNat] [g.toNat] (do
    let x ← readReg a.toNat
    canWrite g.toNat
    sheetTurn
    let (hi, n, i) := packed x
    engineState 10 n
    let s ← get
    let r := if hi ≠ 0 then (shNOCELL, s) else unbindOp s n i
    set r.2
    writeReg g.toNat (sheetWord r.1 0 0)
    retire 4) s

/-- The 32-bit words of a session or fence block from its doublewords after the first. -/
def blockCells (ws : List Nat) (n : Nat) : List Nat := (List.range n).map (fun i => ws.getD (1 + i / 2) 0 / 2 ^ (32 * (i % 2)) % 2 ^ 32)

/-- A session or fence block is malformed (R315, R320); at most `most` cells. -/
def blockBad (w0 : Nat) (most : Nat) (cells : List Nat) : Bool :=
  let n := bits w0 39 32
  bits w0 63 40 != 0 || bits w0 31 28 != 0 || bits w0 19 0 != 0 || n == 0 || most < n || cells.any (fun c => c / 2 ^ 20 != 0)

/-- A session or fence block: its first doubleword and its cells. -/
def readCells (s0 : State) (x : Word) (most : Nat) : Act (Nat × List Nat) := do
  let w0 := (← readBlock s0 x 1).headD 0
  let n := bits w0 39 32
  if n = 0 ∨ most < n then return (w0, [])
  else
    let ws ← readBlock s0 x (1 + (n + 1) / 2)
    return (w0, blockCells ws n)

/-- The block of a command that may wait: read as the command is given, and carried by it from then on (R310). -/
def carriedCells (s0 : State) (x : Word) (most : Nat) : Act (Nat × List Nat) :=
  match s0.core.carried with
  | some (w0 :: cells) => return (w0, cells)
  | _ => readCells s0 x most

/-- The command of the running core waits with the contents of its block (R310, R324). -/
def keepWaiting {α : Type} (s : State) (w0 : Nat) (cells : List Nat) : Act α :=
  throw (.block (modCoreAt s s.cur (fun c => { c with wait := some .poll, carried := some (w0 :: cells) })))

/-- Records that an owner's write session waits, or no longer does, on a sheet. -/
def noteWaiting (s : State) (owner : Nat) (at_ : Option (Nat × List Nat)) : State :=
  let mine (n : Nat) : List (Nat × List Nat) := match at_ with | some (m, cells) => if m = n then [(owner, cells)] else [] | none => []
  { s with sheets := s.sheets.map (fun p => (p.1, { p.2 with waiting := p.2.waiting.filter (fun x => x.1 != owner) ++ mine p.1 })) }

/-- The entries from `first` on loaded into the table of the running core's team. -/
def loadTds (s : State) (first : Nat) (ds : List Desc) : State := (ds.zipIdx).foldl (fun s d => setTd s (first + d.2) d.1) s

/-- CWOPEN (R315, R323, R324). -/
def execCwopen (g : BitVec 4) (desc : BitVec 8) (a : BitVec 4) (s : State) : Out :=
  runTermOnce (.cwopen 0 desc 0) [a.toNat] [g.toNat] (do
    let s0 ← get
    let x ← readReg a.toNat
    canWrite g.toNat
    let (w0, cells) ← carriedCells s0 x 64
    ownedEntry ((List.range cells.length).map (fun i => desc.toNat + i))
    sheetTurn
    let me ← myOwner
    modify (fun s => noteWaiting s me none)
    let n := bits w0 27 20
    engineState 10 n
    if blockBad w0 64 cells || 256 < desc.toNat + cells.length then writeReg g.toNat (sheetWord shBADDESC 0 0)
    else match openOp (← get) me n cells with
      | .code c => writeReg g.toNat (sheetWord c 0 0)
      | .wait => keepWaiting (noteWaiting s0 me (some (n, cells))) w0 cells
      | .ok ds s' =>
        set (loadTds s' desc.toNat ds)
        writeReg g.toNat (sheetWord shOK 0 0)
    retire 4) s

/-- CWPUB (R77, R316, R324): in a region with G = s0 it is held; else a publish goes to the engine once every earlier access of the core
has performed at DEV scope (R131), and the core waits for its generation. -/
def execCwpub (g a : BitVec 4) (cancel : BitVec 1) (s : State) : Out :=
  if g = 0 ∧ s.core.region.isSome = true then
    runInstr (do
      let x ← readReg a.toNat
      holdCommand (.cwpub g a cancel) (.cwpub x (cancel == 1))
      retire 4) s
  else
    runTermOnce (.cwpub 0 0 cancel) [a.toNat] [g.toNat] (withReply .reply (readReg a.toNat)
      (fun x => do
        canWrite g.toNat
        sheetTurn
        released
        engineState 10 (packed x).2.1
        return fun s => { s with publishes := s.publishes ++ [{ core := s.cur, operand := x, cancel := cancel == 1, reply := true }] })
      (fun _ v _ => do writeReg g.toNat v; retire 4)) s

/-- CAPPEND on a packed cell. -/
def appendPacked (s : State) (owner : Nat) (x : Word) (k : Nat) : Nat × State :=
  let (hi, n, i) := packed x
  if hi ≠ 0 then (shNOCELL, s) else appendOp s owner n i k

/-- CAPPEND (R78, R317, R324). -/
def execCappend (g : BitVec 4) (k : BitVec 6) (a : BitVec 4) (s : State) : Out :=
  if g = 0 ∧ s.core.region.isSome = true then
    runInstr (do
      let x ← readReg a.toNat
      holdCommand (.cappend g k a) (.cappend x (k.toNat + 1))
      retire 4) s
  else
    runTermOnce (.cappend 0 k 0) [a.toNat] [g.toNat] (do
      let x ← readReg a.toNat
      canWrite g.toNat
      sheetTurn
      let me ← myOwner
      engineState 10 (packed x).2.1
      let r := appendPacked (← get) me x (k.toNat + 1)
      set r.2
      writeReg g.toNat (sheetWord r.1 0 0)
      retire 4) s

/-- VOPEN (R318). -/
def execVopen (g a : BitVec 4) (s : State) : Out :=
  runTermOnce (.vopen 0 0) [a.toNat] [g.toNat] (do
    let x ← readReg a.toNat
    canWrite g.toNat
    sheetTurn
    let (hi, n, _) := packed x
    engineState 10 n
    let s ← get
    let r := if hi ≠ 0 then (shNOSHEET, 0, 0, s) else vopenOp s (ownerOf s s.cur) n
    set r.2.2.2
    writeReg g.toNat (sheetWord r.1 r.2.1 r.2.2.1)
    retire 4) s

/-- VCLOSE (R318). -/
def execVclose (g v : BitVec 4) (s : State) : Out :=
  runTermOnce (.vclose 0 v) [] [g.toNat] (do
    canWrite g.toNat
    sheetTurn
    let s ← get
    (match viewAt s (ownerOf s s.cur) v.toNat with | some w => engineState 10 w.sheet | none => pure ())
    let s ← get
    let r := vcloseOp s (ownerOf s s.cur) v.toNat
    set r.2
    writeReg g.toNat (sheetWord r.1 0 0)
    retire 4) s

/-- The engine reads tail headers for the running core: a poisoned one is consumed (R127, R405). -/
def readHeaders (l : List (Sheet × Nat)) : Act Unit := do
  modify (fun s => combineHeaders s l)
  match headerPoison (← get) l with
  | some (u, a) => throw (.consume u a)
  | none => pure ()

/-- CRD (R319, R323, R324). -/
def execCrd (g : BitVec 4) (desc : BitVec 8) (a v : BitVec 4) (s : State) : Out :=
  runTermOnce (.crd 0 desc 0 v) [a.toNat] (pairRegs g.toNat) (do
    let x ← readReg a.toNat
    if g != 0 then
      canWrite g.toNat
      canWrite (g.toNat + 1)
    ownedEntry [desc.toNat]
    sheetTurn
    let (hi, n, i) := packed x
    engineState 10 n
    let s ← get
    if hi = 0 then readHeaders (crdReads s (ownerOf s s.cur) v.toNat n i)
    let s ← get
    if hi ≠ 0 then writePair g.toNat (word shNOCELL) 0
    else match crdOp s (ownerOf s s.cur) v.toNat n i desc.toNat with
      | .code c => writePair g.toNat (word c) 0
      | .wait => waitHere
      | .ok addr ds s' =>
        set (loadTds s' desc.toNat ds)
        writePair g.toNat (word shOK) (word addr)
    retire 4) s

/-- CFENCE (R320, R324). -/
def execCfence (g a v : BitVec 4) (s : State) : Out :=
  runTermOnce (.cfence 0 0 v) [a.toNat] [g.toNat] (do
    let s0 ← get
    let x ← readReg a.toNat
    canWrite g.toNat
    let (w0, cells) ← carriedCells s0 x 16
    sheetTurn
    engineState 10 (bits w0 27 20)
    let s ← get
    if blockBad w0 16 cells then writeReg g.toNat (sheetWord shBADDESC 0 0)
    else match fenceCode s (ownerOf s s.cur) v.toNat (bits w0 27 20) cells with
      | some c => writeReg g.toNat (sheetWord c 0 0)
      | none => keepWaiting s0 w0 cells
    retire 4) s

/-- CSTAT (R321). -/
def execCstat (g a : BitVec 4) (s : State) : Out :=
  runTermOnce (.cstat 0 0) [a.toNat] (pairRegs g.toNat) (do
    let x ← readReg a.toNat
    sheetTurn
    let (hi, n, i) := packed x
    engineState 10 n
    let s ← get
    let r := if hi ≠ 0 then (word shNOCELL, 0) else statOp s n i
    writePair g.toNat r.1 r.2
    retire 4) s

/-- CREVOKE (R322). -/
def execCrevoke (g a : BitVec 4) (s : State) : Out :=
  runTermOnce (.crevoke 0 0) (pairRegs a.toNat) [g.toNat] (do
    supervisorOnly (.crevoke g a)
    let (x, y) ← readPair a.toNat
    canWrite g.toNat
    sheetTurn
    let (hi, n, _) := packed x
    engineState 10 n
    let s ← get
    let r := if y.toNat / 2 ^ 48 ≠ 0 then (shBADDESC, 0, s) else if hi ≠ 0 then (shNOSHEET, 0, s) else revokeOp s n y.toNat
    set r.2.2
    writeReg g.toNat (sheetWord r.1 r.2.1 0)
    retire 4) s

end Sys2Proof.Machine
end

