-- ==== Sys2Proof/Machine/Suffix.lean ====
section
/-!
DEFINITION. The suffix engine (R325 to R331, R384 to R396): its slots as operations, its instructions, and its event.
-/

namespace Sys2Proof.Machine

/-! ### Slots (R384 to R386) -/

/-- BADARG (R325). -/
def sxBADARG : Word := -1
/-- FULL. -/
def sxFULL : Word := -2
/-- BADSLOT. -/
def sxBADSLOT : Word := -3
/-- SHORT. -/
def sxSHORT : Word := -4

/-- A slot. -/
def sxSlot (s : State) (i : Nat) : Option SxSlot := SMap.get? s.suffix.slots i
/-- The state with the suffix engine changed. -/
def modSuffix (s : State) (f : Suffix → Suffix) : State := { s with suffix := f s.suffix }

/-- Slot i changed by a command that arrived at `stamp`, for the SXSAVEs too that have arrived later and wait (R392). -/
def Suffix.modSlot (e : Suffix) (stamp i : Nat) (f : SxSlot → SxSlot) : Suffix :=
  { e with
    slots := match SMap.get? e.slots i with | some x => SMap.set e.slots i (f x) | none => e.slots
    saves := e.saves.map (fun x => if x.slot = i ∧ stamp < x.stamp then { x with shot := x.shot.map f } else x) }

/-- LMIN, DMAX and the window of a parameter word (R326). -/
def parLmin (p : Word) : Nat := bits p.toNat 6 0
/-- DMAX. -/
def parDmax (p : Word) : Nat := bits p.toNat 13 7
/-- W. -/
def parWindow (p : Word) : Nat := 2 ^ bits p.toNat 18 14
/-- A parameter word is well formed. -/
def parOk (p : Word) : Bool :=
  p.toNat / 2 ^ 19 == 0 && 12 ≤ bits p.toNat 18 14 && bits p.toNat 18 14 ≤ 24
    && 1 ≤ parDmax p && parDmax p ≤ 64 && 1 ≤ parLmin p && parLmin p ≤ 64

/-- The slot with its lower bound raised (R386): tokens below it leave. -/
def SxSlot.raise (x : SxSlot) : SxSlot :=
  let lo := max x.lo (max (4096 * ((x.n - parWindow x.par) / 4096)) x.loE)
  { x with lo := lo, toks := x.toks.drop (lo - x.lo) }

/-- The capacity in tokens (R385). -/
def Suffix.capacity (x : Suffix) : Nat := match x.index with | some (_, gib) => gib * 2 ^ 26 | none => 0
/-- The tokens kept over all open slots. -/
def Suffix.kept (x : Suffix) : Nat := x.slots.foldl (fun n p => n + (p.2.n - p.2.lo)) 0

/-- The slot that eviction chooses (R390): the oldest query stamp, the lower number first. -/
def evictee : List (Nat × SxSlot) → Option (Nat × SxSlot)
  | [] => none
  | p :: rest =>
    let q := evictee rest
    if p.2.n - p.2.lo < 4096 then q
    else match q with
      | some y => if y.2.stamp < p.2.stamp then some y else some p
      | none => some p

/-- A record of the suffix engine (R391). -/
def postSuffix (s : State) (status slot gen : Nat) : State :=
  match s.suffix.ring with
  | some r => ringPost s r (recordOf s gen slot 0 7 status 1 0)
  | none => s

/-- Eviction by a command that arrived at `stamp` until the kept tokens fit (R390); none where no slot is eligible.  `fuel` bounds the
steps. -/
def evictTokens (stamp : Nat) : Nat → State → Option State
  | 0, _ => none
  | fuel + 1, s =>
    if s.suffix.kept ≤ s.suffix.capacity then some s
    else match evictee s.suffix.slots with
      | none => none
      | some (i, x) =>
        let lo := x.lo + 4096
        evictTokens stamp fuel (postSuffix (modSuffix s (fun e => e.modSlot stamp i (fun x => { x with loE := lo }.raise))) 1 i lo)

/-- Eviction for the state reached; without an index region no token fits and nothing is evicted (R385). -/
def fitTokens (s : State) (stamp : Nat) : Option State :=
  match s.suffix.index with
  | none => if s.suffix.kept = 0 then some s else none
  | some _ => evictTokens stamp (s.suffix.kept / 4096 + 2) s

/-! ### The mailbox (R394, R395) -/

/-- The address of a slot's mailbox entry. -/
def mailAddr (s : State) (i : Nat) : Option Nat := s.suffix.mailbox.map (fun b => b + 512 * i)
/-- The header of a slot's mailbox entry; 0 without a mailbox array. -/
def mailHeader (s : State) (i : Nat) : Nat := match mailAddr s i with | some a => homeNat s a 8 | none => 0
/-- The header can be read, and where an entry is posted be written as 0, in one step at its home (R117). -/
def mailReady (s : State) (i : Nat) : Bool :=
  match mailAddr s i with
  | some a => (homeAt s (lineOf a)).waiting.isEmpty && (mailHeader s i < 2 ^ 63 || homeOpen s (lineOf a))
  | none => true
/-- No write waits at the home of a slot's header: what an earlier command wrote there has performed (R394). -/
def mailQuiet (s : State) (i : Nat) : Bool := match mailAddr s i with | some a => (homeAt s (lineOf a)).waiting.isEmpty | none => true
/-- The header of a mailbox entry is usable for a history of n tokens (R395). -/
def mailUsable (h n : Nat) : Bool :=
  bits h 63 63 == 1 && bits h 62 56 == 0 && bits h 47 40 == 0 && bits h 39 0 == n && 1 ≤ bits h 55 48 && bits h 55 48 ≤ 64
/-- The bytes of a slot's mailbox entry that a query for at most d drafts reads after n tokens (R395): the header, and the tokens of a
usable entry. -/
def mailReads (s : State) (i n d : Nat) : List (Nat × Nat) :=
  match mailAddr s i with
  | none => []
  | some a =>
    let h := mailHeader s i
    (a, 8) :: (if mailUsable h n then (List.range (min (bits h 55 48) d)).map (fun j => (a + 64 + 4 * j, 4)) else [])
/-- The lines of physical ranges that the engine reads are combined (R127). -/
def physCombine (s : State) (l : List (Nat × Nat)) : State := l.foldl (fun s x => combineBytes s x.1 x.2) s
/-- The engine reads physical ranges for the running core: their lines are combined (R127), and poison among them is consumed (R405). -/
def physReads (l : List (Nat × Nat)) : Act Unit := do
  let s ← get
  let s := physCombine s l
  match l.findSome? (fun x => poisonAt s { space := .mem, key := 0, addr := x.1 } x.2) with
  | some (u, a) => throw (.consume u a)
  | none => set s
/-- The header is written as 0. -/
def mailClear (s : State) (who i : Nat) : State :=
  match mailAddr s i with
  | some a => arriveWrite s (.suffix who) { space := .mem, key := 0, addr := a } (.store (leBytes 0 8)) false false
  | none => s

/-- The drafts of a usable entry (R395): the header, the tokens and D. -/
def mailDrafts (s : State) (i n d : Nat) : Option (List Nat) :=
  if mailUsable (mailHeader s i) n then some ((mailReads s i n d).tail.map (fun x => homeNat s x.1 x.2)) else none

/-! ### The commands (R326 to R330, R387 to R393) -/

/-- The commands that wait in the queues of their slots (R331, R423): whose they are, their arrival and their slot. -/
def suffixQueue (s : State) : List (Nat × Nat × Nat) :=
  let entry (who : Nat) : Option (List Nat) → Option (Nat × Nat × Nat)
    | some (t :: i :: _) => some (who, t, i)
    | _ => none
  s.cores.filterMap (fun p => if p.2.wait = some .reply ∧ p.2.reply.isNone = true then entry p.1 p.2.carried else none)
    ++ s.channels.filterMap (fun p => if p.2.busy && !p.2.finished && p.2.seen.cls == 1 then entry (channelOwner p.1) p.2.carried else none)

/-- The slots that are open, or in whose queue a command waits that a closed slot answers (R389). -/
def takenSlots (s : State) : List Nat := s.suffix.slots.map (fun p => p.1) ++ (suffixQueue s).map (fun q => q.2.2)

/-- The lowest free slot (log 139). -/
def freeSlot (s : State) : Option Nat :=
  let l := takenSlots s
  ((List.range (l.length + 1)).find? (fun i => !l.contains i)).filter (fun i => i < 16384)

/-- SXOPEN (R326). -/
def sxOpen (s : State) (who : Nat) (par : Word) : Word × State :=
  if !parOk par then (sxBADARG, s)
  else match freeSlot s with
    | none => (sxFULL, s)
    | some i =>
      (word i, mailClear (modSuffix (cleanEngine s 11 i) (fun e =>
        { e with slots := SMap.set e.slots i { par := par, n := 0, loE := 0, lo := 0, toks := [], stamp := e.arrivals, rebuild := false }
                 arrivals := e.arrivals + 1 })) who i)

/-- SXFREE that arrived at `stamp` (R326). -/
def sxFree (s : State) (who i stamp : Nat) : Word × State :=
  match sxSlot s i with
  | none => (sxBADSLOT, s)
  | some _ => (0, mailClear (modSuffix s (fun e => { e with
      slots := SMap.erase e.slots i
      saves := e.saves.map (fun x => if x.slot = i ∧ stamp < x.stamp then { x with shot := none } else x) })) who i)

/-- The slot with tokens appended, and its lower bound raised (R386, R389). -/
def SxSlot.append (x : SxSlot) (ts : List Nat) : SxSlot :=
  { x with n := x.n + ts.length, toks := x.toks ++ ts.map (BitVec.ofNat 32) }.raise

/-- SXAPP of tokens that arrived at `stamp` (R389, R390). -/
def sxAppend (s : State) (i stamp : Nat) (ts : List Nat) : Word × State :=
  match sxSlot s i with
  | none => (sxBADSLOT, s)
  | some x =>
    let n := x.n + ts.length
    if 2 ^ 40 ≤ n then (sxFULL, s)
    else match fitTokens (modSuffix s (fun e => e.modSlot stamp i (fun x => x.append ts))) stamp with
      | some s' => (word n, s')
      | none => (sxFULL, s)

/-- The largest p of R387 for a length, below a bound. -/
def matchAt (toks : List (BitVec 32)) (lo n len : Nat) : Nat → Option Nat
  | 0 => none
  | p + 1 =>
    -- p is the candidate
    if p < lo + len then none
    else if (toks.drop (p - len - lo)).take len = (toks.drop (n - len - lo)).take len then some p
    else matchAt toks lo n len p

/-- The match of a query (R387): its length and p; lengths down to Lmin. -/
def matchFrom (toks : List (BitVec 32)) (lo n lmin : Nat) : Nat → Option (Nat × Nat)
  | 0 => none
  | len + 1 =>
    if len + 1 < lmin then none
    else match matchAt toks lo n (len + 1) n with
      | some p => some (len + 1, p)
      | none => matchFrom toks lo n lmin len

/-- The drafts of the index (R387): L and the tokens. -/
def SxSlot.query (x : SxSlot) : Nat × List Nat :=
  match matchFrom x.toks x.lo x.n (parLmin x.par) (min 64 x.n) with
  | none => (0, [])
  | some (len, p) => (len, ((x.toks.drop (p - x.lo)).take (min (parDmax x.par) (x.n - p))).map (fun t => t.toNat))

/-- SXQRY (R384, R387, R388, R395) that arrived at `stamp`, after the engine's reads: sD, the drafts and the state. -/
def sxQuery (s : State) (who i stamp : Nat) (x : SxSlot) : Word × List Nat × State :=
  let posted : Bool := 2 ^ 63 ≤ mailHeader s i
  let mail := mailDrafts s i x.n (parDmax x.par)
  let s := if posted then mailClear s who i else s
  let s := modSuffix s (fun e => { e with slots := SMap.set e.slots i { x with stamp := stamp }, arrivals := max e.arrivals (stamp + 1) })
  match mail with
  | some ds => (word (2 ^ 16 + ds.length * 2 ^ 8 + 0xFF), ds, s)
  | none =>
    let (len, ds) := x.query
    (word (ds.length * 2 ^ 8 + len), ds, s)

/-- The doublewords of a saved area before its tokens (R329). -/
def SxSlot.header (x : SxSlot) : List Nat := [x.par.toNat, x.n, x.lo, 0, 0, 0, 0, 0]
/-- The bytes of a saved area. -/
def SxSlot.size (x : SxSlot) : Nat := 64 + 4 * (x.n - x.lo)
/-- A byte of a saved area. -/
def SxSlot.byteAt (x : SxSlot) (j : Nat) : Byte :=
  if j < 64 then BitVec.ofNat 8 (x.header.getD (j / 8) 0 / 256 ^ (j % 8))
  else ((x.toks.getD ((j - 64) / 4) 0) >>> (8 * (j % 4))).setWidth 8

/-- The header of a saved area is malformed (R393); `w` gives its doublewords. -/
def areaBad (w : Nat → Nat) : Bool :=
  !parOk (word (w 0)) || w 2 % 4096 != 0 || w 1 < w 2 || 2 ^ 40 ≤ w 1 || [3, 4, 5, 6, 7].any (fun i => w i != 0)

/-- SXLOAD of an area (R390, R393). -/
def sxLoad (s : State) (who : Nat) (w : Nat → Nat) (toks : List Nat) : Word × State :=
  if areaBad w then (sxBADARG, s)
  else match freeSlot s with
    | none => (sxFULL, s)
    | some i =>
      let x : SxSlot := { par := word (w 0), n := w 1, loE := w 2, lo := w 2, toks := toks.map (BitVec.ofNat 32), stamp := s.suffix.arrivals
                          rebuild := true }
      match fitTokens (modSuffix s (fun e => { e with slots := SMap.set e.slots i x.raise, arrivals := e.arrivals + 1 })) s.suffix.arrivals with
      | some s' => (word i, mailClear (cleanEngine s' 11 i) who i)
      | none => (sxFULL, s)

/-- SXSTAT (R330). -/
def sxStat (s : State) (i : Nat) : Word × Word :=
  match sxSlot s i with
  | none => (sxBADSLOT, 0)
  | some x => (word (x.n + (if x.rebuild then 2 ^ 40 else 0) + (if 2 ^ 63 ≤ mailHeader s i then 2 ^ 41 else 0)), word x.lo)

/-- The slot rebuilds: a later command waits (R393). -/
def rebuilding (s : State) (i : Nat) : Bool := match sxSlot s i with | some x => x.rebuild | none => false

/-- A rebuild ends (R391, R393). -/
def rebuildDone (s : State) (i : Nat) : Option State :=
  match sxSlot s i with
  | some x =>
    if x.rebuild then
      some (postSuffix (modSuffix s (fun e => { e with slots := SMap.set e.slots i { x with rebuild := false } })) 2 i x.n)
    else none
  | none => none

/-- SUFFIX_REBUILD_DONE (R393). -/
def execSuffixRebuildDone (slot : Nat) (s : State) : Out := happen s (rebuildDone s slot)

/-! ### The instructions -/


/-- A command to a slot waits that arrived before `stamp`. -/
def slotQueued (s : State) (who i stamp : Nat) : Bool := (suffixQueue s).any (fun q => q.1 != who && q.2.2 == i && q.2.1 < stamp)

/-- A command to a slot that arrived at `stamp` cannot be processed yet (R331, R393, R394): the slot rebuilds, an earlier command waits, or
the 0 that an earlier one writes into its mailbox header has not performed. -/
def slotBusy (s : State) (who i stamp : Nat) : Bool := rebuilding s i || slotQueued s who i stamp || !mailQuiet s i

/-- The same of SXSTAT, which no rebuild holds up, nor what a rebuild holds up (R330, R389). -/
def statBusy (s : State) (who i stamp : Nat) : Bool := (!rebuilding s i && slotQueued s who i stamp) || !mailQuiet s i

/-- A SXSAVE that arrived at `stamp` waits: its slot as it stands (R392). -/
def noteSave (s : State) (who i stamp : Nat) : State :=
  if s.suffix.saves.any (fun x => x.who == who && x.stamp == stamp) then s
  else modSuffix s (fun e => { e with
    saves := e.saves.filter (fun x => x.who != who) ++ [{ who := who, stamp := stamp, slot := i, shot := sxSlot s i }] })
/-- The slot that a SXSAVE saves: as of its arrival at `stamp` (R392). -/
def savedSlot (s : State) (who i stamp : Nat) : Option SxSlot :=
  match s.suffix.saves.find? (fun x => x.who == who && x.stamp == stamp) with | some x => x.shot | none => sxSlot s i
/-- A SXSAVE waits no more. -/
def dropSave (s : State) (who : Nat) : State := modSuffix s (fun e => { e with saves := e.saves.filter (fun x => x.who != who) })

/-- The commands of a core reach the suffix engine in program order (R121, R331): no acquire of it is outstanding, and its held SXAPPs have
left the region buffer. -/
def suffixTurn : Act Unit := do
  afterAcquire
  waitUntil ((← getC).rbuf.all (fun e => !(e.committed && (match e.act with | .sxapp _ _ => true | _ => false))))

/-- When the running core's command arrived at the engine (R384): now, unless it waits there already. -/
def arrivalNow (s0 : State) : Nat :=
  match s0.core.wait, s0.core.carried with
  | some .reply, some (t :: _) => t
  | _, _ => s0.suffix.arrivals

/-- The core's command waits at the engine, whatever happens (R396), with its arrival, its slot and what it has brought; or it is its
turn. -/
def engineWait (s0 : State) (i : Nat) (brought : List Nat) (b : Bool) : Act Unit :=
  if b then
    let t := arrivalNow s0
    throw (.block (modCoreAt (modSuffix s0 (fun e => { e with arrivals := max e.arrivals (t + 1) })) s0.cur
      (fun c => { c with wait := some .reply, carried := some (t :: i :: brought) })))
  else pure ()

/-- The places of n 32-bit words in space 0 or in the core's own A buffer (R327, R328), checked in order: alignment, then the space, then
the access (R220). -/
def tokenPlaces (kind : Kind) (x : Word) (n : Nat) : Act (List Place) := do
  let s ← get
  (List.range n).mapM (fun i => do
    let ea := x + word (4 * i)
    trapIf (ea.toNat % 4 != 0) kind.alignCause ea
    let ok : Bool := match decodePtr s s.cur ea with | some (.mem _ _) => true | some (.buf t .bufA _) => t == s.cur | _ => false
    trapIf (!ok) kind.accessCause ea
    let pl ← checkAccess kind ea 4 0
    return pl.1)

/-- A place of space 0 or of core k's A buffer as two numbers, and back. -/
def Place.code (p : Place) : List Nat := [if p.space = .mem then 0 else 1, p.addr]
/-- The place with a code. -/
def placeOf (k b addr : Nat) : Place := if b = 0 then { space := .mem, key := 0, addr := addr } else { space := .bufA, key := k, addr := addr }

/-- The places that a waiting SXAPP has brought (R396). -/
def broughtPlaces (k : Nat) : List Nat → List Place
  | b :: a :: rest => placeOf k b a :: broughtPlaces k rest
  | _ => []

/-- The places of the running core's SXAPP: checked as the command is given, and brought with it from then on (R327, R396). -/
def appendPlaces (s0 : State) (y : Word) (n : Nat) : Act (List Place) :=
  match s0.core.wait, s0.core.carried with
  | some .reply, some (_ :: _ :: brought) => return broughtPlaces s0.cur brought
  | _, _ => tokenPlaces .load y n

/-- The engine reads a 32-bit word at its home or bank (R111). -/
def engineWord (s : State) (p : Place) : Nat := if p.space == .mem then homeNat s p.addr 4 else placeNat s p 4

/-- The lines of the words at places are combined (R127). -/
def combineWords (s : State) (ps : List Place) : State := physCombine s ((ps.filter (fun p => p.space == .mem)).map (fun p => (p.addr, 4)))

/-- The engine reads words for a core (R127, R405). -/
def engineWords (ps : List Place) : Act (List Nat) := do
  modify (fun s => combineWords s ps)
  let s ← get
  ps.forM (fun p => consumes s p 4 [])
  return ps.map (engineWord s)

/-- The engine's write of bytes for a core, or for a channel by 40960 + its number; a write into a primary's A buffer reaches its twin's
(R414). -/
def engineWrite (s : State) (who : Nat) (p : Place) (bs : SMap Byte) : State :=
  if p.space == .mem then arriveWrite s (.suffix who) p (.store bs) false false else (performAt s engineSrc p (.store bs)).1

/-- Every write of the engine for a core has performed. -/
def engineWritten (s : State) (who : Nat) : Bool := s.homes.all (fun p => p.2.waiting.all (fun w => w.src != .suffix who))

/-- An SWM copy that the core's herd holds of a line leaves before the engine accesses it for the core (R114). -/
def engineLines (s0 : State) (ps : List Place) : Act Unit := do
  let h := herdOf s0.cur
  match ps.find? (fun p => p.space == .mem && swmCopy s0 h (lineOf p.addr)) with
  | some p => throw (.block (dropSwm s0 h (lineOf p.addr)))
  | none => waitUntil (ps.all (fun p => p.space != .mem || !writingBack s0 h (lineOf p.addr)))

/-- Drafts with their places, as a command carries them. -/
def draftCode (ds : List (Place × Nat)) : List Nat := ds.flatMap (fun x => x.1.code ++ [x.2])
/-- The drafts that a command of core k carries. -/
def draftsOf (k : Nat) : List Nat → List (Place × Nat)
  | b :: a :: v :: rest => (placeOf k b a, v) :: draftsOf k rest
  | _ => []

/-- The drafts of the first line reach their home together, and the others follow once they have performed (R388). -/
def sendDrafts (s : State) (who : Nat) (ds : List (Place × Nat)) : State × List (Place × Nat) :=
  match ds with
  | [] => (s, [])
  | x :: _ =>
    let now := ds.takeWhile (fun y => lineOf y.1.addr == lineOf x.1.addr)
    (now.foldl (fun s p => engineWrite s who p.1 (leBytes p.2 4)) s, ds.drop now.length)

/-- The running core has no right to write 4 bytes at an address of space 0 any more, whose page carries the cell attribute (R98). -/
def draftRefused (s : State) (ea : Word) : Bool :=
  match decodePtr s s.cur ea with
  | some (.mem _ va) =>
    (match (xlate s s.cur va .store (!s.core.supervisor)).1 with
     | .ok _ leaf => bits leaf 7 7 == 1 && !arenaStore s s.cur va 4
     | _ => false)
  | _ => false

/-- The address of the first draft of the next line that the core may not write any more (R92, R98; log 138); `v` is the answer, which holds
the number of all drafts, and `y` their address. -/
def refusedDraft (s : State) (y v : Word) (ds : List (Place × Nat)) : Option Word :=
  let now := ds.takeWhile (fun x => lineOf x.1.addr == lineOf ((ds.head?.map (fun z => z.1.addr)).getD 0))
  ((List.range now.length).map (fun i => y + word (4 * (bits v.toNat 15 8 - ds.length + i)))).find? (draftRefused s)

/-- The engine has answered, and the core goes on once the engine's writes have performed, its drafts line by line, each line with the right
to it that the core then has; or the command runs.  `reads` reads the operands, and gives the address of the drafts. -/
def engineReply (d : Nat) (reads : Act Word) (run : State → Act (Word × List (Place × Nat) × State)) : Act Unit := do
  let s0 ← get
  match s0.core.reply with
  | some (.value v _) =>
    let y ← reads
    waitUntil (engineWritten s0 s0.cur)
    match draftsOf s0.cur (s0.core.carried.getD []) with
    | [] =>
      writeReg d v
      retire 4
    | ds =>
      if let some ea := refusedDraft s0 y v ds then trap 27 ea
      let (s1, later) := sendDrafts s0 s0.cur ds
      throw (.block (modCoreAt s1 s0.cur (fun c => { c with carried := some (draftCode later) })))
  | some (.trap c v) => trap c v
  | none =>
    let (v, ds, s') ← run s0
    -- the reply stands, and the operands are read again as it is taken
    throw (.block (replyTo (modCoreAt s' s0.cur (fun _ =>
      { s'.core with regs := s0.core.regs, queues := s0.core.queues, wait := some .reply, carried := some (draftCode ds) }))
      s0.cur (.value v 0)))

/-- SXOPEN. -/
def execSxopen (d a : BitVec 4) (s : State) : Out :=
  runTermOnce (.sxopen 0 0) [a.toNat] [d.toNat] (do
    let x ← readReg a.toNat
    canWrite d.toNat
    suffixTurn
    let s ← get
    let r := sxOpen s s.cur x
    set r.2
    writeReg d.toNat r.1
    retire 4) s

/-- SXFREE. -/
def execSxfree (d a : BitVec 4) (s : State) : Out :=
  runTermOnce (.sxfree 0 0) [a.toNat] [d.toNat] (do
    let s0 ← get
    let x ← readReg a.toNat
    canWrite d.toNat
    suffixTurn
    engineWait s0 x.toNat [] (x.toNat / 2 ^ 14 == 0 && slotBusy s0 s0.cur x.toNat (arrivalNow s0))
    engineState 11 x.toNat
    let s ← get
    let r := if x.toNat / 2 ^ 14 ≠ 0 then (sxBADARG, s) else sxFree s s.cur x.toNat (arrivalNow s0)
    set r.2
    writeReg d.toNat r.1
    retire 4) s

/-- A bad operand of SXAPP. -/
def sxappBad (x : Word) : Bool := x.toNat / 2 ^ 23 != 0 || bits x.toNat 15 14 != 0 || bits x.toNat 22 16 == 0 || 64 < bits x.toNat 22 16

/-- The place of token i of a held SXAPP of core k, as its mode at execute reads it. -/
def heldToken (s : State) (k : Nat) (user : Bool) (b : Word) (i : Nat) : Option Place :=
  match decodePtr s k (b + word (4 * i)) with
  | some (.mem _ va) => match (xlate s k va .load user).1 with | .ok pa _ => some { space := .mem, key := 0, addr := pa } | _ => none
  | some (.buf t .bufA off) => if t = k then some { space := .bufA, key := k, addr := off } else none
  | _ => none

/-- The places of the tokens of a held SXAPP, as many as can be read. -/
def heldTokens (s : State) (k : Nat) (user : Bool) (a b : Word) : List Place :=
  if sxappBad a then [] else (List.range (bits a.toNat 22 16)).filterMap (heldToken s k user b)

/-- SXAPP at the engine, as its held command reaches it: the token range was checked at execute, and tokens that cannot be read any more
give BADARG. -/
def sxappHeld (s : State) (k : Nat) (user : Bool) (a b : Word) : State :=
  let ps := heldTokens s k user a b
  if sxappBad a || ps.length < bits a.toNat 22 16 then s
  else (sxAppend (combineWords s ps) (a.toNat % 2 ^ 14) s.suffix.arrivals (ps.map (engineWord s))).2

/-- The first poisoned granule among the tokens of a held SXAPP (R405). -/
def sxappPoison (s : State) (k : Nat) (user : Bool) (a b : Word) : Option (Nat × Nat) :=
  (enginePoison s 11 (a.toNat % 2 ^ 14)).orElse (fun _ => (heldTokens s k user a b).findSome? (fun p => poisonAt s p 4))

/-- SXAPP (R327, R331, R389). -/
def execSxapp (d a b : BitVec 4) (s : State) : Out :=
  if d = 0 ∧ s.core.region.isSome = true then
    runInstr (do
      let x ← readReg a.toNat
      let y ← readReg b.toNat
      if !sxappBad x then let _ ← tokenPlaces .load y (bits x.toNat 22 16)
      holdCommand (.sxapp d a b) (.sxapp x y)
      retire 4) s
  else
    runTermOnce (.sxapp 0 0 0) [a.toNat, b.toNat] [d.toNat] (do
      let s0 ← get
      let x ← readReg a.toNat
      let y ← readReg b.toNat
      canWrite d.toNat
      if sxappBad x then writeReg d.toNat sxBADARG
      else
        let ps ← appendPlaces s0 y (bits x.toNat 22 16)
        suffixTurn
        if s0.core.wait != some .reply then released
        engineLines s0 ps
        let i := x.toNat % 2 ^ 14
        engineWait s0 i (ps.flatMap Place.code) (slotBusy s0 s0.cur i (arrivalNow s0))
        engineState 11 i
        let ts ← engineWords ps
        let r := sxAppend (← get) (x.toNat % 2 ^ 14) (arrivalNow s0) ts
        set r.2
        writeReg d.toNat r.1
      retire 4) s

/-- SXQRY (R328, R388, R395). -/
def execSxqry (d a b : BitVec 4) (s : State) : Out :=
  runTermOnce (.sxqry 0 0 0) [a.toNat, b.toNat] [d.toNat] (engineReply d.toNat
    (do let _ ← readReg a.toNat; readReg b.toNat)
    (fun s0 => do
      let x ← readReg a.toNat
      let y ← readReg b.toNat
      canWrite d.toNat
      suffixTurn
      let i := x.toNat
      if 2 ^ 14 ≤ i then return (sxBADARG, [], ← get)
      else
        engineWait s0 i [] (slotBusy s0 s0.cur i (arrivalNow s0))
        engineState 11 i
        match sxSlot s0 i with
        | none => return (sxBADSLOT, [], ← get)
        | some sl =>
          let ps ← tokenPlaces .store y (parDmax sl.par)
          engineLines s0 ps
          engineWait s0 i [] (!mailReady s0 i)
          physReads (mailReads s0 i sl.n (parDmax sl.par))
          let (v, ds, s') := sxQuery (← get) s0.cur i (arrivalNow s0) sl
          return (v, ps.zip ds, s'))) s

/-- The places of n bytes of an area, one for each 64-byte line or its rest, checked in order (R329, R393). -/
def areaPlaces (kind : Kind) (x : Word) (n : Nat) : Act (List (Place × Nat)) := do
  trapIf (x.toNat % 64 != 0) kind.alignCause x
  trapIf (walkPolicy x).isNone kind.accessCause x
  (List.range ((n + 63) / 64)).mapM (fun i => do
    let pl ← checkPlace kind (x + word (64 * i)) (min 64 (n - 64 * i)) 0
    return (pl.1, min 64 (n - 64 * i)))

/-- The bytes of a saved area written line by line. -/
def saveArea (s : State) (who : Nat) (x : SxSlot) (ps : List (Place × Nat)) : State :=
  (ps.zipIdx).foldl (fun s p => engineWrite s who p.1.1 ((List.range p.1.2).map (fun j => (j, x.byteAt (64 * p.2 + j))))) s

/-- SXSAVE (R329, R392). -/
def execSxsave (d a b : BitVec 4) (s : State) : Out :=
  runTermOnce (.sxsave 0 0 0) [a.toNat, b.toNat] [d.toNat] (engineReply d.toNat
    (do let _ ← readReg a.toNat; readReg b.toNat)
    (fun s0 => do
      let x ← readReg a.toNat
      let y ← readReg b.toNat
      canWrite d.toNat
      suffixTurn
      let i := x.toNat % 2 ^ 14
      if bits x.toNat 31 14 ≠ 0 then return (sxBADARG, [], ← get)
      else
        engineWait (noteSave s0 s0.cur i (arrivalNow s0)) i [] (slotBusy s0 s0.cur i (arrivalNow s0))
        engineState 11 i
        match savedSlot s0 s0.cur i (arrivalNow s0) with
        | none => return (sxBADSLOT, [], dropSave (← get) s0.cur)
        | some sl =>
          if x.toNat / 2 ^ 32 < sl.size then return (sxSHORT, [], dropSave (← get) s0.cur)
          else
            let ps ← areaPlaces .store y sl.size
            engineLines s0 (ps.map (fun p => p.1))
            return (word sl.size, [], saveArea (dropSave (← get) s0.cur) s0.cur sl ps))) s

/-- The tokens of an area from its places. -/
def areaTokens (s : State) (ps : List (Place × Nat)) (n : Nat) : List Nat :=
  (List.range n).map (fun j =>
    let off := 64 + 4 * j
    match ps[off / 64]? with
    | some p => homeNat s (p.1.addr + off % 64) 4
    | none => 0)

/-- SXLOAD (R329, R393): the engine reads at the homes once every earlier access of the core has performed at DEV scope. -/
def execSxload (d b : BitVec 4) (s : State) : Out :=
  runTermOnce (.sxload 0 0) [b.toNat] [d.toNat] (do
    let s0 ← get
    let y ← readReg b.toNat
    canWrite d.toNat
    suffixTurn
    released
    let hs ← areaPlaces .load y 64
    engineLines s0 (hs.map (fun p => p.1))
    modify (fun s => physCombine s (hs.map (fun p => (p.1.addr, p.2))))
    let s ← get
    hs.forM (fun p => consumes s p.1 p.2 [])
    let w (i : Nat) : Nat := match hs with | p :: _ => homeNat s (p.1.addr + 8 * i) 8 | [] => 0
    if areaBad w then writeReg d.toNat sxBADARG
    else
      let ps ← areaPlaces .load y (64 + 4 * (w 1 - w 2))
      engineLines s0 (ps.map (fun p => p.1))
      modify (fun s => physCombine s (ps.map (fun p => (p.1.addr, p.2))))
      let s ← get
      ps.forM (fun p => consumes s p.1 p.2 [])
      let r := sxLoad s s.cur w (areaTokens s ps (w 1 - w 2))
      set r.2
      writeReg d.toNat r.1
    retire 4) s

/-- SXSTAT (R330). -/
def execSxstat (d a : BitVec 4) (s : State) : Out :=
  runTermOnce (.sxstat 0 0) [a.toNat] (pairRegs d.toNat) (do
    let s0 ← get
    let x ← readReg a.toNat
    suffixTurn
    let i := x.toNat
    engineWait s0 i [] (i / 2 ^ 14 == 0 && statBusy s0 s0.cur i (arrivalNow s0))
    engineState 11 i
    if i / 2 ^ 14 = 0 ∧ (sxSlot s0 i).isSome = true then
      physReads (match mailAddr s0 i with | some a => [(a, 8)] | none => [])
    let s ← get
    let r := if x.toNat / 2 ^ 14 ≠ 0 then (sxBADARG, 0) else sxStat s x.toNat
    writePair d.toNat r.1 r.2
    retire 4) s

end Sys2Proof.Machine
end

