-- ==== Sys2Proof/Machine/Context.lean ====
section
/-!
DEFINITION. CLKREQ (R338), and the context of a core in memory: its layout, CXSAVE and CXLOAD (R340 to R343).
-/

namespace Sys2Proof.Machine

/-! ### Clock requests (R338) -/

/-- A request word that a team may make: its fields within their ranges, its reserved bits 0, RELAX only where the launch block allows it. -/
def clockRequestOk (t : Team) (x : Word) : Bool :=
  x.toNat / 2 ^ 26 == 0 && clockOk x.toNat && (!x.getLsbD 25 || t.lb.clock.getLsbD 25)

/-- The request of a team is replaced, and CLKQ of every core of it. -/
def requestClock (s : State) (tn : Nat) (x : Word) : State :=
  let s := modTeamAt s tn (fun t => { t with clockReq := x })
  { s with cores := s.cores.map (fun p => (p.1, if p.2.team = some tn then { p.2.overwritten [4096 + 0x02B] with clkq := x } else p.2)) }

/-- CLKREQ. -/
def execClkreq (d a : BitVec 4) (s : State) : Out :=
  runTermOnce (.clkreq 0 0) [a.toNat] [d.toNat] (do
    let x ← readReg a.toNat
    canWrite d.toNat
    let s ← get
    let tn := s.core.team.getD 0
    let ok : Bool := match teamAt s tn with | some t => clockRequestOk t x | none => false
    if ok then modify (fun s => requestClock s tn x)
    writeReg d.toNat (if ok then 0 else -1)
    retire 4) s

/-! ### The layout of a context (R341 to R343) -/

/-- The sections: offset and length. -/
def ctxSections : List (Nat × Nat) :=
  [(0, 0x1000), (0x1000, 0x2000), (0x3000, 0x8000), (0xB000, 0x11000), (0x1C000, 0x8000), (0x24000, 0x31000), (0x55000, 0x4000)]

/-- The 64-byte blocks of the sections that a mask selects, by offset, rising. -/
def ctxBlocks (mask : Nat) : List Nat :=
  (ctxSections.zipIdx).flatMap (fun p =>
    if mask / 2 ^ p.2 % 2 = 1 then (List.range (p.1.2 / 64)).map (fun i => p.1.1 + 64 * i) else [])

/-- The control registers from 0x200 on, in their order. -/
def ctxCsrs : List Nat :=
  [0x000, 0x001, 0x003, 0x004, 0x029, 0x100, 0x101, 0x102, 0x103, 0x104, 0x105, 0x106, 0x107, 0x108, 0x109, 0x028]
/-- The control registers from 0x280 on. -/
def ctxInfo : List Nat := [0x010, 0x011, 0x012, 0x013, 0x014, 0x018, 0x019, 0x021, 0x022, 0x02A, 0x02B]

/-- The two doublewords of a handle. -/
def Handle.ctxWord (h : Handle) (second : Bool) : Nat :=
  if second then h.head + h.tail * 2 ^ 8 + h.filled * 2 ^ 16 else h.base + h.size * 2 ^ 16 + h.count * 2 ^ 32

/-- A doubleword of section 0 (R342). -/
def ctxRegister (s : State) (k off : Nat) : Nat :=
  let c := coreAt s k
  let i := off / 8
  if off = 0x000 then 1
  else if off = 0x008 then (corelocOf k).toNat
  else if off = 0x010 then (if c.cacheMode then 1 else 0)
  else if off = 0x018 then c.jobSeq % 2 ^ 28
  else if 0x040 ≤ off ∧ off < 0x0C0 then (vget c.regs 0 (i - 8)).toNat
  else if 0x0C0 ≤ off ∧ off < 0x0E0 then (vget c.ext 0 (i - 24)).toNat
  else if off = 0x0E0 then c.qcfg.toNat
  else if off = 0x0E8 then (List.range 4).foldl (fun n j => n + (vget c.queues [] j).length * 2 ^ (4 * j)) 0
  else if 0x100 ≤ off ∧ off < 0x180 then ((c.queues.toList.flatten).getD (i - 32) 0).toNat
  else if 0x180 ≤ off ∧ off < 0x200 then (vget c.handles Handle.reset ((off - 0x180) / 16)).ctxWord (i % 2 == 1)
  else if 0x200 ≤ off ∧ off < 0x280 then (csrValue s k (ctxCsrs.getD (i - 64) 0x028)).toNat
  else if 0x280 ≤ off ∧ off < 0x2D8 then (csrValue s k (ctxInfo.getD (i - 80) 0x02B)).toNat
  else if off = 0x300 then (match c.deferredTrap with | some (cause, _) => 2 ^ 63 + cause | none => 0)
  else if off = 0x308 then (match c.deferredTrap with | some (_, v) => v.toNat | none => 0)
  else 0

/-- A narrow sum as its doubleword (R343). -/
def Narrow.ctxWord (n : Narrow) : Nat :=
  if n.nan then 0x8000 else (BitVec.ofInt 48 n.m).toNat * 2 ^ 16 + (BitVec.ofInt 16 n.x).toNat

/-- The narrow sum of a doubleword. -/
def Narrow.ofCtx (w : Nat) : Narrow :=
  if w = 0x8000 then { m := 0, x := 0, nan := true } else { m := signedOf 48 (w / 2 ^ 16), x := signedOf 16 w, nan := false }

/-- A doubleword of an accumulator's 8 KiB (R343). -/
def ctxAcc (a : Acc) (off : Nat) : Nat :=
  if off < 0x840 then leNat (fun j => imageByte a (off + j)) 8
  else if off = 0x840 then
    a.count + (boolWord a.is + 2 * boolWord a.of + 4 * boolWord a.nv + 8 * boolWord a.rden).toNat * 2 ^ 8 + a.exit.toNat * 2 ^ 16
  else if 0x900 ≤ off ∧ off < 0x1900 then (a.n ((off - 0x900) / 8)).ctxWord
  else 0

/-- The doubleword of a block record (R343): gW as FP32, EW, the NaN mark. -/
def ctxRecord (r : BlockRec) : Nat := r.gw.toNat + (BitVec.ofInt 16 r.ew).toNat * 2 ^ 32 + (if r.nan then 2 ^ 48 else 0)

/-- The block record of a doubleword. -/
def recordOfCtx (w : Nat) : BlockRec :=
  { ew := signedOf 16 (w / 2 ^ 32), gw := BitVec.ofNat 32 w, nan := w / 2 ^ 48 % 2 == 1 }

/-- The doubleword of block record j (16 * col + b) of a macro. -/
def ctxMacro (m : MacroState) (j : Nat) : Nat :=
  if m.loaded && j % 16 < blockCount m.fmt && j < 1024 then ctxRecord (SMap.getD m.recs recDefault j) else 0

/-- The doubleword at an offset of a core's context (R341). -/
def ctxWord (s : State) (k off : Nat) : Nat :=
  let c := coreAt s k
  if off < 0x1000 then ctxRegister s k off
  else if off < 0x3000 then rowGet (c.row ((off - 0x1000) / 0x400) ((off - 0x1000) % 0x400 / 0x80)) (off % 0x80) 8
  else if off < 0xB000 then ctxAcc (c.acc ((off - 0x3000) / 0x2000)) ((off - 0x3000) % 0x2000)
  else if off < 0x1B000 then leNat (fun j => SMap.getD c.bufA 0 (off - 0xB000 + j)) 8
  else if off < 0x1B400 then leNat (fun j => BitVec.ofNat 8 ((List.range 8).foldl (fun n b =>
    n + if c.full.contains ((off - 0x1B000 + j) * 8 + b) then 2 ^ b else 0) 0)) 8
  else if off < 0x1C000 then 0
  else if off < 0x24000 then leNat (fun j => SMap.getD c.bufC 0 (off - 0x1C000 + j)) 8
  else if off < 0x3C000 then leNat (fun j => SMap.getD c.bufW 0 (off - 0x24000 + j)) 8
  else if off < 0x3C060 then
    (let m := vget c.macs MacroState.reset ((off - 0x3C000) / 8)
     if m.loaded then 1 + m.fmt * 2 ^ 4 else 0)
  else if off < 0x3D000 then 0
  else if off < 0x55000 then ctxMacro (vget c.macs MacroState.reset ((off - 0x3D000) / 0x2000)) ((off - 0x3D000) % 0x2000 / 8)
  else leNat (fun j => SMap.getD c.image 0 (off - 0x55000 + j)) 8

/-! ### CXSAVE (R340) -/

/-- The core's matrix, weight and tile-unit work has completed. -/
def Core.settled (c : Core) : Bool := c.matJobs.isEmpty && c.wJobs.isEmpty && !c.tileBusy

/-- The checks of CXSAVE and CXLOAD before their area is looked at: the area's address and the mask. -/
def ctxOperand (i : Instr) (a : BitVec 4) : Act (Word × Nat) := do
  supervisorOnly i
  let x ← readReg a.toNat
  if bits x.toNat 11 7 ≠ 0 then illegal i 0x02
  notInRegion i
  let c ← getC
  if !c.tq.isEmpty || c.an != 0 then illegal i 0x07
  return (word (x.toNat / 2 ^ 12 * 2 ^ 12), x.toNat % 2 ^ 7)

/-- The places of the blocks of an area, checked in order as accesses of 64 bytes under DIRECT policy (R220). -/
def ctxPlaces (kind : Kind) (base : Word) (mask : Nat) : Act (List (Nat × Word × Place)) := do
  trapIf (mask != 0 && (walkPolicy base).isNone) kind.accessCause base
  (ctxBlocks mask).mapM (fun off => do
    let pl ← checkPlace kind (base + word off) 64 0
    return (off, base + word off, pl.1))

/-- The section in which a poisoned granule of a core lies; the full/empty bits go with the A buffer (R341). -/
def poisonSection (q : Nat × Nat) : Nat :=
  match q.1 with
  | 0 => if q.2 < 64 then 0 else if q.2 < 128 then 1 else if q.2 < 4096 then 2 else 0
  | 1 => if q.2 < 8192 || 16384 ≤ q.2 then 3 else 4
  | 2 => 5
  | _ => 6

/-- A poisoned granule of the sections that a mask selects (R405). -/
def ctxPoison (c : Core) (mask : Nat) : Option Nat :=
  (c.poison.find? (fun q => mask / 2 ^ poisonSection q % 2 == 1)).map (fun q => q.1)

/-- The core without the poison of a section, which a load of the section overwrites (R404). -/
def Core.cleanSection (c : Core) (i : Nat) : Core := { c with poison := c.poison.filter (fun q => poisonSection q != i) }

/-- CXSAVE. -/
def execCxsave (a : BitVec 4) (s : State) : Out :=
  runInstr (withStores do
    let (base, mask) ← ctxOperand (.cxsave a) a
    if mask = 0 then retire 4
    else
      let s ← get
      waitUntil (s.core.settled && fenced s s.cur 4)
      let ps ← ctxPlaces .store base mask
      match ctxPoison s.core mask with
      | some u => throw (.consume u 0)
      | none =>
        storeMany (ps.map (fun p =>
          { pl := (p.2.2, .direct), ea := p.2.1, pair := false
            bytes := (List.range 64).map (fun j => (j, BitVec.ofNat 8 (ctxWord s s.cur (p.1 + j / 8 * 8) / 2 ^ (8 * (j % 8))))) }))
        retire 4) s

/-! ### CXLOAD (R340) -/

/-- The first doubleword of a handle that R290 does not accept, or whose other bits are not 0: 0 or 1. -/
def ctxHandleBad (w0 w1 : Nat) : Option Nat :=
  let size := bits w0 31 16
  let count := bits w0 40 32
  let base := bits w0 15 0
  if bits w0 63 41 ≠ 0 then some 0
  else if bits w1 63 25 ≠ 0 then some 1
  else if count = 0 then none
  else if base % 128 ≠ 0 ∨ size % 128 ≠ 0 ∨ size < 128 ∨ 32768 < size ∨ 256 < count ∨ 65536 < base + size * count then some 0
  else if count ≤ bits w1 7 0 ∨ count ≤ bits w1 15 8 ∨ count < bits w1 24 16 then some 1
  else none

/-- A doubleword of section 0 fails validation (R342; the bits of IMODE and of a handle that must be 0, R8). -/
def ctxRegisterBad (w : Nat → Nat) (off : Nat) : Bool :=
  if off = 0x000 then w 0 != 1
  else if off = 0x010 then 1 < w off
  else if off = 0x0E0 then !qcfgOk (word (w off))
  else if off = 0x0E8 then (List.range 4).any (fun k => w 0x0E0 / 2 ^ (4 * k) % 16 < w off / 2 ^ (4 * k) % 16)
  else if 0x180 ≤ off ∧ off < 0x200 then
    (let first := (off - 0x180) / 16 * 16 + 0x180
     ctxHandleBad (w first) (w (first + 8)) == some (off / 8 % 2))
  else if off = 0x220 then w off == 0 || 255 < w off
  else if off = 0x248 then !tbqConsistent (word (w off))
  else false

/-- A doubleword of the accumulators fails validation (R343): KIND, Count or the flags out of range, or a byte not 0 that must be (R8). -/
def ctxAccBad (w : Nat → Nat) (off : Nat) : Bool :=
  let o := (off - 0x3000) % 0x2000
  if o < 0x800 then false
  else if o = 0x800 then 2 < w off
  else if o = 0x840 then 16 < w off % 256 || 15 < w off / 2 ^ 8 % 256 || w off / 2 ^ 24 != 0
  else if 0x900 ≤ o ∧ o < 0x1900 then false
  else w off != 0

/-- A doubleword of the macro section fails validation (R343, R8): the other bits of a header or of a block record, or a record of a
loaded macro beyond its blocks.  Every format code can be a W format (R54), so that no macro header fails by its format. -/
def ctxMacroBad (w : Nat → Nat) (off : Nat) : Bool :=
  if off < 0x3C060 then bits (w off) 63 8 != 0 || bits (w off) 3 1 != 0
  else if off < 0x3D000 then w off != 0
  else
    let h := w (0x3C000 + 8 * ((off - 0x3D000) / 0x2000))
    let j := (off - 0x3D000) % 0x2000 / 8
    if h % 2 = 1 ∧ (1024 ≤ j ∨ blockCount (bits h 7 4) ≤ j % 16) then w off != 0 else bits (w off) 63 49 != 0

/-- A doubleword fails validation (log 58). -/
def ctxBad (c : Core) (mask : Nat) (w : Nat → Nat) (off : Nat) : Bool :=
  if off < 0x1000 then ctxRegisterBad w off
  else if off < 0x3000 then false
  else if off < 0xB000 then ctxAccBad w off
  else if 0x1B400 ≤ off ∧ off < 0x1C000 then w off != 0
  else if 0x3C000 ≤ off ∧ off < 0x55000 then ctxMacroBad w off
  else if off = 0x55000 then (if mask % 2 = 1 then w 0x010 % 2 == 1 else c.cacheMode)
  else false

/-- The handle of its two doublewords; its subscription is not part of the context. -/
def Handle.ofCtx (h : Handle) (w0 w1 : Nat) : Handle :=
  if bits w0 40 32 = 0 then { Handle.reset with stream := h.stream }
  else { base := bits w0 15 0, size := bits w0 31 16, count := bits w0 40 32, head := bits w1 7 0, tail := bits w1 15 8
         filled := bits w1 24 16, freedHeld := 0, stream := h.stream }

/-- The occupancy of the queues before queue k. -/
def ctxQueueStart (w : Nat → Nat) (k : Nat) : Nat := (List.range k).foldl (fun n j => n + w 0x0E8 / 2 ^ (4 * j) % 16) 0

/-- The core with section 0 loaded (R342): each register takes its image as a write of it does, without its RSV bits (R8; log 58). -/
def Core.loadRegisters (c : Core) (w : Nat → Nat) : Core :=
  let v (off : Nat) : Word := word (w off)
  let cache := w 0x010 % 2 == 1
  { c.cleanSection 0 with
    cacheMode := cache, image := if cache then [] else c.image, ilines := if cache then [] else c.ilines, jobSeq := w 0x018 % 2 ^ 28
    regs := Vector.ofFn (fun (i : Fin 16) => if i.val = 0 then 0 else v (0x040 + 8 * i.val))
    ext := Vector.ofFn (fun (i : Fin 4) => v (0x0C0 + 8 * i.val))
    qcfg := v 0x0E0
    queues := Vector.ofFn (fun (i : Fin 4) =>
      (List.range (w 0x0E8 / 2 ^ (4 * i.val) % 16)).map (fun j => v (0x100 + 8 * (ctxQueueStart w i.val + j))))
    handles := Vector.ofFn (fun (i : Fin 8) => (c.handles[i]).ofCtx (w (0x180 + 16 * i.val)) (w (0x188 + 16 * i.val)))
    status := maskWrite 0xFE007F c.status (v 0x200), evstat := v 0x208 &&& 7, contrib := v 0x210 &&& 0xFFFFFFFF, rgnlim := v 0x220
    tvec := v 0x228 &&& ~~~3, tepc := v 0x230, tcause := v 0x238, tval := v 0x240, tbq := v 0x248 &&& 0xFFFFFFFF
    tbt0 := v 0x250, tbt1 := v 0x258, tregpc := v 0x260, tscratch := v 0x268, timecmp := v 0x270, rgncnt := v 0x278 &&& 255
    deferredTrap := if w 0x300 / 2 ^ 63 % 2 = 1 then some (w 0x300 % 256, v 0x308) else none }

/-- The core with section 1 loaded. -/
def Core.loadTiles (c : Core) (w : Nat → Nat) : Core :=
  { c.cleanSection 1 with
    tiles := Vector.ofFn (fun (t : Fin 8) => Vector.ofFn (fun (r : Fin 8) =>
      BitVec.ofNat 1024 (leNat (fun j => BitVec.ofNat 8 (w (0x1000 + 0x400 * t.val + 0x80 * r.val + j / 8 * 8) / 2 ^ (8 * (j % 8)))) 128))) }

/-- An accumulator of its 8 KiB (R343). -/
def accOfCtx (w : Nat → Nat) (base : Nat) : Acc :=
  let f := w (base + 0x840)
  { kind := match w (base + 0x800) % 256 with | 1 => .fp32 | 2 => .int32 | _ => .none
    elems := tabulate 0 (fun i => BitVec.ofNat 32 (w (base + i / 2 * 8) / 2 ^ (32 * (i % 2))))
    narrow := tabulate Narrow.zero (fun i => Narrow.ofCtx (w (base + 0x900 + 8 * i)))
    count := f % 256, is := f.testBit 8, of := f.testBit 9, nv := f.testBit 10, rden := f.testBit 11
    exit := BitVec.ofNat 8 (f / 2 ^ 16) }

/-- The core with section 2 loaded. -/
def Core.loadAccs (c : Core) (w : Nat → Nat) : Core :=
  { c.cleanSection 2 with accs := Vector.ofFn (fun (n : Fin 4) => accOfCtx w (0x3000 + 0x2000 * n.val)) }

/-- The n bytes of a context from an offset, as the map of a buffer. -/
def ctxBytes (w : Nat → Nat) (off n : Nat) : SMap Byte :=
  (List.range n).filterMap (fun i =>
    let b : Byte := BitVec.ofNat 8 (w ((off + i) / 8 * 8) / 2 ^ (8 * ((off + i) % 8)))
    if b = 0 then none else some (i, b))

/-- The core with section 3 loaded. -/
def Core.loadA (c : Core) (w : Nat → Nat) : Core :=
  { c.cleanSection 3 with
    bufA := ctxBytes w 0xB000 0x10000, full := (List.range 8192).filter (fun i => (w (0x1B000 + i / 64 * 8)).testBit (i % 64)) }
/-- The core with section 4 loaded. -/
def Core.loadC (c : Core) (w : Nat → Nat) : Core :=
  { c.cleanSection 4 with bufC := ctxBytes w 0x1C000 0x8000 }

/-- A macro of its header and its block records. -/
def macroOfCtx (w : Nat → Nat) (m : Nat) : MacroState :=
  let h := w (0x3C000 + 8 * m)
  if h % 2 = 0 then MacroState.reset
  else
    let fmt := bits h 7 4
    { loaded := true, fmt := fmt
      recs := (List.range 1024).filterMap (fun j =>
        if blockCount fmt ≤ j % 16 then none
        else
          let r := recordOfCtx (w (0x3D000 + 0x2000 * m + 8 * j))
          if r = recDefault then none else some (j, r)) }

/-- The core with section 5 loaded. -/
def Core.loadW (c : Core) (w : Nat → Nat) : Core :=
  { c.cleanSection 5 with bufW := ctxBytes w 0x24000 0x18000, macs := Vector.ofFn (fun (m : Fin 12) => macroOfCtx w m.val) }
/-- The core with section 6 loaded. -/
def Core.loadImage (c : Core) (w : Nat → Nat) : Core :=
  { c.cleanSection 6 with image := ctxBytes w 0x55000 0x4000 }

/-- The core with the sections of a mask loaded. -/
def Core.loadContext (c : Core) (mask : Nat) (w : Nat → Nat) : Core :=
  let on (i : Nat) (f : Core → Core) (c : Core) : Core := if mask / 2 ^ i % 2 = 1 then f c else c
  on 6 (·.loadImage w) (on 5 (·.loadW w) (on 4 (·.loadC w) (on 3 (·.loadA w) (on 2 (·.loadAccs w) (on 1 (·.loadTiles w)
    (on 0 (·.loadRegisters w) c))))))

/-- The doublewords of an area from its blocks' values, by offset. -/
def ctxValues (vs : List (Nat × Nat)) (off : Nat) : Nat :=
  match vs.find? (fun v => v.1 == off / 64 * 64) with
  | some v => v.2 / 2 ^ (8 * (off % 64)) % 2 ^ 64
  | none => 0

/-- CXLOAD: the bytes of section 0 that a load ignores include WBMASK; a write of CONTRIB sends the core's partial lines home (R125). -/
def execCxload (a : BitVec 4) (s : State) : Out :=
  runInstr (do
    let s0 ← get
    let (base, mask) ← ctxOperand (.cxload a) a
    if mask = 0 then retire 4
    else
      let c ← getC
      waitUntil (c.settled && c.loads.isEmpty && c.drained)
      let ps ← ctxPlaces .load base mask
      let vs ← gather s0 (ps.map (fun p => (p.2.1, 64, (p.2.2, .direct))))
      let w := ctxValues (ps.zipWith (fun p v => (p.1, v)) vs)
      match (ctxBlocks mask).findSome? (fun b => ((List.range 8).map (fun i => b + 8 * i)).find? (ctxBad c mask w)) with
      | some off => trap 5 (base + word off)
      | none =>
        (match c.deferred.find? (fun p => mask.testBit 3 && !p.2.isEmpty) with
         | some p => trap 28 (ownPtr 1 (8 * p.1))
         | none => pure ())
        if mask % 2 = 1 then modify (fun s => flushPartials s s.cur c.contrib.toNat)
        modC (fun c => c.loadContext mask w)
        retire 4) s

end Sys2Proof.Machine
end

