-- ==== Sys2Proof/Machine/Moves.lean ====
section
/-!
DEFINITION. The move of committed entries from the region buffer to the commit queue and to the engines (R123), and the events of a
core's Step that are no instruction: an encoding that is none, a fetch that fails, and the answers of targets (R185 to R187, R161, R419).
-/

namespace Sys2Proof.Machine

/-! ### The move of committed entries (R121 to R123, R131) -/

/-- The head entry of a core's region buffer leaves it. -/
def popHeld (s : State) (k : Nat) : State := modCoreAt s k (fun c => { c with rbuf := c.rbuf.drop 1, stalled := false })

/-- An earlier acquire of the core has not performed: an engine command is not issued before it (R121). -/
def commandHeld (c : Core) (stamp : Nat) : Bool :=
  c.loads.any (fun l => l.acquire && l.stamp < stamp) || c.cq.any (fun e => e.acquire)

/-- Every access of the core before a stamp has performed at DEV scope, given that every earlier entry has left the region buffer. -/
def beforePerformed (s : State) (k stamp : Nat) : Bool :=
  (coreAt s k).cq.isEmpty && (coreAt s k).loads.all (fun l => stamp ≤ l.stamp) && (herdAt s (herdOf k)).forwards.all (fun f => f.core != k)

/-- No publish of the core is on its way (R132). -/
def publishesDone (s : State) (k : Nat) : Bool := s.publishes.all (fun p => p.core != k)

/-- An engine reads for a held command of a core that has come to it: a poisoned granule is consumed in its place (R405). -/
def engineMove (s : State) (k : Nat) (poison : Option (Nat × Nat)) (s' : State) : Option State :=
  match poison with
  | none => some s'
  | some (u, a) => if (dieAt s (dieOf k)).consuming.any (fun x => x.1 == k) then none else some (consumeAt s k u a)

/-- The ranges that the dispatcher reads for a SPAWN of a core (R303). -/
def spawnReads (s : State) (k : Nat) (user : Bool) (a : Word) : List (Nat × Nat) :=
  if space0 a.toNat 64 then launchReads (coreRead s k user) (a.toNat % 2 ^ 52) else []

/-- The oldest entry of a core's region buffer moves, if it is committed and can move, the two halves of a pair together; with an empty
buffer the stores of the issuing instruction move on (R106). -/
def moveCommitted (s : State) (k : Nat) : Option State :=
  let c := coreAt s k
  match c.rbuf with
  | [] =>
    if fitEntries (16 - c.cq.length) c.issuing = 0 then none else some (modCoreAt s k (fun c => { c.moveIssuing with stalled := false }))
  | e :: _ =>
    if !e.committed then none
    else match e.act with
      | .copyIssue _ _ => if commandHeld c e.stamp then none else some (popHeld s k)
      | .spub n rows =>
        if commandHeld c e.stamp || !streamTurn s k n e.stamp then none else (acceptItem s n rows []).map (fun s => popHeld s k)
      | .hadv producer h n =>
        some (modCoreAt (popHeld s k) k (fun c =>
          if producer then c else c.modHandle h (fun x => { x with freedHeld := x.freedHeld - n })))
      | .cwpub v cancel =>
        if beforePerformed s k e.stamp && publishesDone s k then
          engineMove s k (enginePoison s 10 (packed v).2.1)
            { popHeld (nextChoice s 10 (packed v).2.1) k with
              publishes := s.publishes ++ [{ core := k, operand := v, cancel := cancel, reply := false }] }
        else none
      | .cappend v n =>
        if commandHeld c e.stamp || !publishesDone s k then none
        else engineMove s k (enginePoison s 10 (packed v).2.1) (appendPacked (popHeld (nextChoice s 10 (packed v).2.1) k) (ownerOf s k) v n).2
      | .sxapp a b =>
        if beforePerformed s k e.stamp && !slotBusy s k (a.toNat % 2 ^ 14) s.suffix.arrivals then
          let s := combineWords s (heldTokens s k e.user a b)
          engineMove s k (sxappPoison s k e.user a b) (sxappHeld (popHeld (nextChoice s 11 (a.toNat % 2 ^ 14)) k) k e.user a b)
        else none
      | .evpost a b => if beforePerformed s k e.stamp then some (evpostOp (popHeld s k) k a b) else none
      | .spawn a b =>
        if beforePerformed s k e.stamp then
          let reads := spawnReads s k e.user a
          let s := coreCombine s k e.user reads
          engineMove s k (corePoison s k e.user reads) (spawnOp (popHeld s k) k e.user a b).2
        else none
      | _ =>
        let n := if e.pair then 2 else 1
        if c.cq.length + n ≤ 16 then
          some (modCoreAt s k (fun c => { c with rbuf := c.rbuf.drop n, cq := c.cq ++ c.rbuf.take n, stalled := false }))
        else none

/-- REGION_MOVE_COMMITTED (R123). -/
def execRegionMoveCommitted (core : Nat) (s : State) : Out := happen s (moveCommitted s core)

/-! ### What is no instruction (R161, R185 to R187) -/

/-- The core is at a Step of its own, in which it may raise a trap. -/
def atStep (s : State) (k : Nat) : Bool := (coreAt s k).run == .running && !contained s k

/-- ILLEGAL_INSTRUCTION (R185 to R187): a core raises cause 2 for an encoding. -/
def execIllegalInstruction (core sub : Nat) (long : Bool) (insn : Nat) (s : State) : Out :=
  .next (if atStep s core then raiseTrap s core 2 (illegalVal sub long insn) else s)

/-- INSTRUCTION_FETCH_FAULT (R161): a core raises 0, 1 or 12 for an address of its instruction stream. -/
def execInstructionFetchFault (core cause addr : Nat) (s : State) : Out :=
  .next (if atStep s core && (cause == 0 || cause == 1 || cause == 12) then raiseTrap s core cause (word addr) else s)

/-! ### Targets of spaces 3 and 4 (R112, R288, R419) -/

/-- An outstanding transaction of a core leaves it. -/
def dropExternAt (s : State) (k i : Nat) : State := modCoreAt s k (fun c => { c with extern := c.extern.eraseIdx i, stalled := false })

/-- A target answers a transaction: a store of the core performs there, or is refused (cause 7, deferred); a load receives its value, or
is refused (cause 5, precise); a byte of a copy job goes on, or its job ends with an address fault. -/
def targetAnswer (s : State) (k i : Nat) (ok : Bool) (value : Nat) : Option State :=
  match (coreAt s k).extern[i]? with
  | none => none
  | some (write, e) =>
    let s' := dropExternAt s k i
    match e.act with
    | .copyRead slot n =>
      some (match runningJob s' k slot with
       | none => s'
       | some j => if ok then writeCopy s' k slot j n (BitVec.ofNat 8 value) false else endJob s' k slot 2)
    | .copyWrite slot n =>
      some (match SMap.get? (coreAt s' k).jobs slot with
       | none => s'
       | some j =>
         if !ok then endJob s' k slot 2
         else if n = j.len then endJob s' k slot 0
         else modJobAt s' k slot (fun j => j.mark n false))
    | _ =>
      if write then some (if ok then s' else raiseDeferred s' k 7 e.ea)
      else if ok then
        some (modCoreAt s' k (fun c => { c with loads := c.loads.map (fun l =>
          if l.stamp = e.stamp ∧ l.place.extern = true then { l with fwd := leBytes value l.size } else l) }))
      else some (replyTo (modCoreAt s' k Core.dropAway) k (.trap 5 e.ea))

/-- TARGET_ACKNOWLEDGEMENT (R419): answer 0 completes or acknowledges the transaction, any other refuses it. -/
def execTargetAcknowledgement (core idx answer value : Nat) (s : State) : Out :=
  happen s (targetAnswer s core idx (answer == 0) value)

/-- REMOTE_TIMEOUT (R419): no answer within 1 ms is a refusal. -/
def execRemoteTimeout (core idx : Nat) (s : State) : Out := happen s (targetAnswer s core idx false 0)

end Sys2Proof.Machine
end

