-- ==== Sys2Proof/Machine/Teams.lean ====
section
/-!
DEFINITION. Teams on their herds (R65 to R67, R84, R357 to R361, R366 to R377): vacating, numbering, placing, starting, resizing, swapping
and ending them, and the kid pool.
-/

namespace Sys2Proof.Machine

/-! ### Herds and cores of a team (R10, R369, R412) -/

/-- The enabled cores of a herd, rising. -/
def herdCores (s : State) (h : Nat) : List Nat := ((List.range 8).map (herdCore h)).filter (fun k => !s.fused.contains k)
/-- A herd with an enabled core. -/
def enabledHerd (s : State) (h : Nat) : Bool := s.fused.isEmpty || !(herdCores s h).isEmpty
/-- The herds of a rectangle, row by row. -/
def Rect.herds (r : Rect) : List Nat :=
  (List.range r.h).flatMap (fun j => (List.range r.w).map (fun i => 640 * r.die + 32 * (r.y + j) + (r.x + i)))
/-- The enabled herds of a list of rectangles. -/
def rectsHerds (s : State) (rs : List Rect) : List Nat := (rs.flatMap Rect.herds).filter (enabledHerd s)
/-- A rectangle lies on a die. -/
def Rect.ok (r : Rect) : Bool := r.die < 8 && 1 ≤ r.w && 1 ≤ r.h && r.x + r.w ≤ 32 && r.y + r.h ≤ 20

/-- A herd of a twin team is a primary herd: its column counts even from the west edge of its rectangle (R412). -/
def Team.primaryHerd (t : Team) (h : Nat) : Bool :=
  match t.rects.find? (fun r => r.die == herdDie h) with
  | some r => (h % 32 + r.x) % 2 == 0
  | none => true

/-- The logical cores of a team in order of their index (R10): its enabled cores, or the primaries of its pairs (R412). -/
def Team.logical (s : State) (t : Team) : List Nat :=
  if t.lb.twin then
    (((t.herds.filter t.primaryHerd).flatMap (herdCores s)).filter (fun k => !s.fused.contains (k + 2))).foldl insertNat []
  else (t.herds.flatMap (herdCores s)).foldl insertNat []

/-- Every core of a team that runs its threads. -/
def Team.threads (s : State) (t : Team) : List Nat :=
  if t.lb.twin then (t.logical s).flatMap (fun k => [k, k + 2]) else t.logical s

/-! ### Vacating (R124, R357) -/

/-- The core issues, or would. -/
def Core.active (c : Core) : Bool := c.run == .running || c.run == .faultSleep || c.run == .stopped

/-- The core can be vacated now: an answer that its instruction waits for or already has, and stores that it has begun, come first
(R233, R309, R349, R396). -/
def Core.vacatable (c : Core) : Bool :=
  c.active && c.wait != some .reply && c.wait != some .stores && !(c.wait == some .bank && c.reply.isSome)

/-- A core stops issuing (R124, R357): its region and its waiting instruction are withdrawn, and it keeps its resume state. -/
def vacateCore (s : State) (k : Nat) : State :=
  modCoreAt (endWait s k) k (fun c => { c.discard with
    run := .vacated, pc := (match c.region with | some r => r.entry | none => c.pc), terminating := false, wait := none, reply := none
    command := none, carried := none, crc := 0, twinAt := none, twinOk := false, stalled := false })

/-- Every write of a core's copy jobs and plain vector stores that its home has accepted has performed there. -/
def jobWritesDone (s : State) (k : Nat) : Bool :=
  s.homes.all (fun h => h.2.waiting.all (fun w => match w.src with
    | .copy j _ => j != k
    | .stv j _ => j != k
    | _ => true))

/-- Everything that a core has committed and every job that it has issued has performed (R124). -/
def coreDrained (s : State) (k : Nat) : Bool :=
  let c := coreAt s k
  c.rbuf.isEmpty && c.issuing.isEmpty && c.cq.isEmpty && c.loads.isEmpty && c.walks.isEmpty && c.matJobs.isEmpty && c.wJobs.isEmpty && !c.tileBusy
    && c.extern.isEmpty && c.arrival.isNone && c.jobs.all (fun p => p.2.state == .ended)
    && (herdAt s (herdOf k)).forwards.all (fun f => f.core != k) && publishesDone s k && jobWritesDone s k

/-- A herd cache holds SWM dirty lines or partial lines. -/
def herdDirty (s : State) (h : Nat) : Bool :=
  (herdAt s h).lines.any (fun p => p.2.expiry.isNone && p.2.marks != 0) || !(herdAt s h).parts.isEmpty

/-- Everything that a herd cache has sent home has performed there. -/
def herdQuiet (s : State) (h : Nat) : Bool :=
  (herdAt s h).victims.isEmpty && (herdAt s h).forwards.isEmpty
    && s.homes.all (fun p => p.2.waiting.all (fun w => w.src != .writeback h && w.src != .forward h))

/-- The SWM lines and the partial lines of a herd cache start on their way home, and no SWM copy stays (R124, R372). -/
def flushHerd (s : State) (h : Nat) : State :=
  let s := (herdAt s h).lines.foldl (fun s p => dropSwm s h p.1) s
  modHerdAt s h (fun x => { x with parts := [], victims := x.victims ++ x.parts.map victimOf })

/-- What vacating a set of herds comes to. -/
inductive Quiet where
  | done
  | moved (s : State)
  | wait

/-- Vacates the cores of herds, and then their caches (R124): the next thing to do, or none left. -/
def quiesce (s : State) (herds : List Nat) : Quiet :=
  let ks := herds.flatMap (herdCores s)
  if ks.any (fun k => (coreAt s k).vacatable) then
    .moved (ks.foldl (fun s k => if (coreAt s k).vacatable then vacateCore s k else s) s)
  else if ks.any (fun k => (coreAt s k).active) || !ks.all (coreDrained s) then .wait
  else match herds.find? (herdDirty s) with
    | some h => .moved (flushHerd s h)
    | none => if herds.all (herdQuiet s) then .done else .wait

/-- The chunk of a core returns whole to its range unit (R357, R374). -/
def returnChunk (s : State) (tn k : Nat) : State :=
  match (coreAt s k).chunk with
  | none => s
  | some x => modCoreAt (modTeamAt s tn (fun t => { t with range := { t.range with returned := t.range.returned ++ [x] } })) k
      (fun c => { c with chunk := none })

/-! ### Saved contexts (R341, R358, R359, R361) -/

/-- The sections of the buffers that a claim names (R341). -/
def claimSections (c : BitVec 3) : Nat :=
  (if c.getLsbD 1 then 2 ^ 3 else 0) + (if c.getLsbD 0 then 2 ^ 4 else 0) + (if c.getLsbD 2 then 2 ^ 5 else 0)

/-- The section of the instruction store of a core: saved where it is pinned (R358, R359). -/
def Core.storeSection (c : Core) : Nat := if c.cacheMode then 0 else 2 ^ 6

/-- The core with the sections of a mask cleared, lists of takers and of barrier waiters included (R372: storage that a save or a scan-out
moves is left cleared). -/
def Core.clearSections (c : Core) (mask : Nat) : Core :=
  { c.loadContext mask (fun _ => 0) with
    deferred := if mask.testBit 3 then [] else c.deferred, barWait := if mask.testBit 3 then [] else c.barWait }

/-- Sections of a core's context as they stand in a save area, and the rest of the core. -/
def saveCore (s : State) (k mask : Nat) : SavedCore :=
  let c := coreAt s k
  { mask := mask
    area := (ctxBlocks mask).flatMap (fun b => (List.range 8).filterMap (fun i =>
      let v := ctxWord s k (b + 8 * i)
      if v = 0 then none else some (b + 8 * i, v)))
    rest := { c.clearSections 127 with
      deferred := if mask.testBit 3 then c.deferred else [], barWait := if mask.testBit 3 then c.barWait else []
      ilines := [], poison := c.poison.filter (fun q => mask.testBit (poisonSection q)) } }

/-- A doubleword of a save area. -/
def SavedCore.word (x : SavedCore) (off : Nat) : Nat := SMap.getD x.area 0 off

/-- A saved context fails the checks of CXLOAD (R361). -/
def SavedCore.bad (x : SavedCore) : Bool :=
  (ctxBlocks x.mask).any (fun b => (List.range 8).any (fun i => ctxBad x.rest x.mask x.word (b + 8 * i)))

/-- The core with the saved sections loaded; its other sections stay (R359, R376). -/
def SavedCore.onto (x : SavedCore) (c : Core) : Core :=
  { c.loadContext x.mask x.word with
    deferred := if x.mask.testBit 3 then x.rest.deferred else c.deferred
    barWait := if x.mask.testBit 3 then x.rest.barWait else c.barWait
    poison := x.rest.poison ++ c.poison.filter (fun q => !x.mask.testBit (poisonSection q)) }

/-- A saved context on the core on which it resumes: what was not saved stays in place there, and no grant is in force yet (R359, R380). -/
def SavedCore.resumed (x : SavedCore) (phys : Core) (twin : Option (Nat × Bool)) : Core :=
  { x.onto { x.rest with
      macs := phys.macs, bufW := phys.bufW, bufA := phys.bufA, full := phys.full, deferred := phys.deferred, barWait := phys.barWait
      bufC := phys.bufC, image := [], poison := phys.poison } with
    ilines := [], twin := twin, clkg := 0, stalled := false }

/-! ### The state of a starting core (R372, R412) -/

/-- The lines of a team's pinned segments. -/
def pinnedLines (t : Team) : List (Nat × Nat) :=
  (t.pins.filter (fun p => p.2 != 0)).flatMap (fun p =>
    (List.range (lineOf (p.1 + (p.2 - 1)) + 1 - lineOf p.1)).map (fun i => (64 * (lineOf p.1 + i), 64)))

/-- The team's image, read through its translation: the pinned segments one after another (R372, R442; log 3). -/
def pinnedImage (s : State) (t : Team) : SMap Byte :=
  (((t.pins.flatMap (fun p => (List.range p.2).map (fun i => p.1 + i))).take pinnedSize).zipIdx).filterMap (fun q =>
    match spaceRead s t.root q.1 1 with
    | some b => if b % 256 = 0 then none else some (q.2, BitVec.ofNat 8 b)
    | none => none)

/-- Where a counter of a starting core begins (R190): at 0, and in the twin of a pair, whose counters differ from the primary's (R412), at a
free value that is not 0 (log 123). -/
def counterStart (tn id which : Nat) (twin : Option (Nat × Bool)) : Word :=
  match twin with
  | some (_, false) => word (1 + Config.twinStart tn id which % (2 ^ 64 - 1))
  | _ => 0

/-- A core at the start of its team: the buffers that `clear` names (W, A, C) are cleared, and the instruction store holds the team's image
or, in instruction-cache mode, nothing. -/
def Core.started (c : Core) (t : Team) (tn id n : Nat) (tvec : Word) (image : SMap Byte) (clear : BitVec 3) (twin : Option (Nat × Bool)) :
    Core :=
  { Core.reset with
    run := .idle, team := some tn, claim := t.lb.claim, pc := t.lb.entry
    cacheMode := t.pins.isEmpty, pins := if t.pins.isEmpty then Core.reset.pins else t.pins, image := image
    regs := vset (vset (vset (Vector.replicate 16 0) 1 0xFFFFFFFFFFFFFFFE) 2 (Config.stackTop tn id)) 3 t.lb.args
    macs := if clear.getLsbD 2 then Vector.replicate 12 MacroState.reset else c.macs
    bufW := c.bufW
    bufA := if clear.getLsbD 1 then [] else c.bufA
    full := if clear.getLsbD 1 then [] else c.full
    deferred := if clear.getLsbD 1 then [] else c.deferred
    barWait := if clear.getLsbD 1 then [] else c.barWait
    bufC := if clear.getLsbD 0 then [] else c.bufC
    status := 0, coreid := word id, teamid := word tn, teamsz := word n, shgen := t.shgen, shcell := t.shcell
    rgnlim := word t.lb.rgnlim, clkg := c.clkg, clkq := t.clockReq, tvec := tvec
    tepc := c.tepc, tcause := c.tcause, tval := c.tval, tbq := c.tbq, tbt0 := c.tbt0, tbt1 := c.tbt1, tregpc := c.tregpc
    tscratch := c.tscratch, twin := twin, cycle := counterStart tn id 0 twin, instret := counterStart tn id 1 twin
    poison := c.poison.filter (fun q => 3 ≤ poisonSection q && poisonSection q ≤ 5
      && !(q.1 == 1 && (claimSections clear).testBit (poisonSection q))) }

/-- A starting core of the team that BOOT makes (R428): supervisor mode, and team number 0 of its die. -/
def Core.booted (c : Core) (t : Team) : Core :=
  match t.src with
  | .boot _ => { c with status := statusReset, teamid := 0 }
  | _ => c

/-- The subscriptions that a team holds for the handles of a core, which last until UNSUB or the team's end, are the starting core's again
(R293, R376): those of a twin pair stand under its primary (log 119). -/
def resubscribe (s : State) (tn k : Nat) (twin : Option (Nat × Bool)) : State :=
  let key := match twin with | some (p, false) => p | _ => k
  s.streams.foldl (fun s p => (p.2.subs.filter (fun x => x.1 == key && x.2 / 8 == tn)).foldl (fun s x =>
    modCoreAt s k (fun c => c.modHandle (x.2 % 8) (fun h => { h with stream := some p.1 }))) s) s

/-- The cores of a team among `ks` put into the state of R372, not yet issuing; the lines of the image are combined as they are read
(R127). -/
def initCores (s : State) (tn : Nat) (t : Team) (ks : List Nat) : State :=
  let s := spaceCombine s t.root (pinnedLines t)
  let ls := t.logical s
  let n := ls.length
  let image := pinnedImage s t
  let one (s : State) (k id : Nat) (twin : Option (Nat × Bool)) : State :=
    if ks.contains k then
      resubscribe (modCoreAt s k (fun c => (c.started t tn id n (vget t.tvecs 0 (dieOf k)) image t.lb.claim twin).booted t)) tn k twin
    else s
  (ls.zipIdx).foldl (fun s p =>
    if t.lb.twin then one (one s p.1 p.2 (some (p.1 + 2, true))) (p.1 + 2) p.2 (some (p.1, false)) else one s p.1 p.2 none) s

/-- The herds of a team in the order in which they start (R373). -/
def Team.startOrder (s : State) (t : Team) : List Nat :=
  ((t.threads s).map herdOf).foldl (fun l h => if l.contains h then l else l ++ [h]) []

/-! ### Numbering and resizing (R10, R375) -/

/-- The owner that stands for the cores that a team has lost (the model's own name for their views, sessions and kids). -/
def lostOwner (tn : Nat) : Nat := 65536 * (tn + 1) + 65535

/-- The spawners of kids renamed, as COREIDs are renumbered (R304, R375). -/
def renameSpawners (s : State) (f : Nat → Nat) : State :=
  { s with teams := s.teams.map (fun p => (p.1, { p.2 with
      kids := p.2.kids.map (fun x => (x.1, f x.2.1, x.2.2))
      src := match p.2.src with | .kid id parent owner d => .kid id parent (f owner) d | x => x })) }

/-- Renumbers a team after its herds have changed (R375): COREID and TEAMSZ at one instant, and EVSTAT.RESIZE on the cores of `remain`. -/
def renumber (s : State) (tn : Nat) (remain : List Nat) : State :=
  match teamAt s tn with
  | none => s
  | some t =>
    let ls := t.logical s
    let base := 65536 * (tn + 1)
    let new (o : Nat) : Nat :=
      if o / 65536 = tn + 1 ∧ o ≠ lostOwner tn then
        (match (ls.zipIdx).find? (fun p => remain.contains p.1 && (coreAt s p.1).coreid.toNat == o - base) with
         | some p => base + p.2
         | none => lostOwner tn)
      else o
    let s := renameSpawners (renameOwners s new) new
    let set (s : State) (k id : Nat) : State :=
      if remain.contains k then
        modCoreAt s k (fun c => { c.overwritten [4096 + 0x011, 4096 + 0x013] with coreid := word id, teamsz := word ls.length, evstat := setBit c.evstat 1 true, stalled := false })
      else s
    let s := (ls.zipIdx).foldl (fun s p => if t.lb.twin then set (set s p.1 p.2) (p.1 + 2) p.2 else set s p.1 p.2) s
    modTeamAt s tn (fun t => { t with resizes := min (t.resizes + 1) 65535 })

/-- A core leaves its team and issues nothing more. -/
def releaseCore (s : State) (k : Nat) : State :=
  modCoreAt (leaveGroups s k) k (fun c => { c with
    run := .idle, team := none, claim := 0, twin := none, terminating := false, wait := none, reply := none, command := none, carried := none
    crc := 0, chunk := none, wbmask := 0, region := none, pendingRegion := none, tq := [], an := 0, delay := 0, shgen := 0, shcell := 0
    twinAt := none, twinOk := false })

/-- A team loses vacated herds (R375): their chunks return, their cores leave it, and the others are renumbered. -/
def loseHerds (s : State) (tn : Nat) (hs : List Nat) : State :=
  match teamAt s tn with
  | none => s
  | some t =>
    let gone := (t.threads s).filter (fun k => hs.contains (herdOf k))
    let remain := (t.threads s).filter (fun k => !hs.contains (herdOf k))
    let s := gone.foldl (fun s k => returnChunk s tn k) s
    let s := gone.foldl releaseCore s
    renumber (modTeamAt s tn (fun t =>
      { t with herds := t.herds.filter (fun h => !hs.contains h), toStart := t.toStart.filter (fun h => !hs.contains h) })) tn remain

/-! ### The kid pool (R377) -/

/-- A team is a kid of another. -/
def kidOf (s : State) (parent n : Nat) : Bool :=
  match teamAt s n with
  | some t => (match t.src with | .kid _ p _ _ => p == parent | _ => false)
  | none => false

/-- A queued kid of a die takes an entry: 1 of its team's quota, 2 of the pool. -/
def giveEntry (s : State) (d n e : Nat) : State :=
  modTeamAt (modDieAt s d (fun x => { x with kidWait := x.kidWait.erase n })) n (fun t => { t with entry := e })

/-- The oldest queued kid of a team, over the queues of all dies. -/
def oldestKid (s : State) (parent : Nat) : Option Nat :=
  leastOf ((s.dies.toList.flatMap (fun x => x.kidWait)).filter (kidOf s parent))

/-- The die on whose queue a kid stands. -/
def queueOf (s : State) (n : Nat) : Nat := (s.dies.toList.findIdx? (fun x => x.kidWait.contains n)).getD 0

/-- Queued kids of a die enter the pool, oldest first, while it has free entries; `fuel` bounds their number. -/
def fillPool : Nat → State → Nat → State
  | 0, s, _ => s
  | fuel + 1, s, d =>
    match (dieAt s d).kidWait with
    | [] => s
    | n :: _ =>
      if (dieAt s d).poolUsed + quotas s d < 16384 then
        fillPool fuel (modDieAt (giveEntry s d n 2) d (fun x => { x with poolUsed := x.poolUsed + 1 })) d
      else s

/-- A kid's entry is free (R377): one of a quota in force goes to the oldest queued kid of its team, any other to the oldest of the die. -/
def freeEntry (s : State) (n parent d e : Nat) : State :=
  match e with
  | 1 =>
    (match (if (match teamAt s parent with | some t => t.reserves | none => false) then oldestKid s parent else none) with
     | some m => giveEntry s (queueOf s m) m 1
     | none =>
       let s := modTeamAt s parent (fun t => { t with quotaUsed := t.quotaUsed - 1 })
       (match teamAt s parent with | some t => fillPool 1 s t.home | none => s))
  | 2 => fillPool 1 (modDieAt s d (fun x => { x with poolUsed := x.poolUsed - 1 })) d
  | _ => modDieAt s d (fun x => { x with kidWait := x.kidWait.erase n })

/-! ### The order of tasks and free herds (R367 to R370) -/

/-- A task waits for herds: queued, with a pool entry if it is a kid (R67), or swapped out. -/
def Team.waiting (t : Team) : Bool :=
  (t.st == .queued && (match t.src with | .kid _ _ _ _ => t.entry != 0 | _ => true)) || t.st == .swapped

/-- One task stands before another (R367). -/
def taskBefore (a : Nat × Team) (b : Nat × Team) : Bool :=
  a.2.level < b.2.level || (a.2.level == b.2.level && (a.2.arrival < b.2.arrival || (a.2.arrival == b.2.arrival && a.1 < b.1)))

/-- The waiting tasks, in their order. -/
def waitingTasks (s : State) : List (Nat × Team) :=
  let ins (x : Nat × Team) (l : List (Nat × Team)) : List (Nat × Team) :=
    l.takeWhile (fun y => taskBefore y x) ++ x :: l.dropWhile (fun y => taskBefore y x)
  (s.teams.filter (fun p => p.2.waiting)).foldl (fun l p => ins p l) []

/-- The herds that placed teams hold, or that will return to them (R376). -/
def heldHerds (s : State) : List Nat :=
  (s.teams.filter (fun p => p.2.placed)).flatMap (fun p => p.2.herds ++ p.2.claimedBy.flatMap (fun x => x.2))

/-- The herds that a level-0 task has claimed and that have been vacated for it (R370). -/
def claimedFor (s : State) (tn : Nat) : List Nat :=
  s.teams.flatMap (fun p => (p.2.claimedBy.filter (fun x => x.1 == tn)).flatMap (fun x => x.2.filter (fun h => !p.2.herds.contains h)))

/-- A herd that a task may be placed on. -/
def freeFor (s : State) (tn h : Nat) : Bool :=
  enabledHerd s h && s.mgmt.stage != .shutdown && (!(heldHerds s).contains h || (claimedFor s tn).contains h)
    && (match (dieAt s (herdDie h)).containment with | some z => !z.herds.contains h | none => true)

/-! ### Placements (R369, R412) -/

/-- The dies that a task may use: a kid, that of the core that spawned it. -/
def Team.dies (t : Team) : List Nat := match t.src with | .kid _ _ _ d => [d] | .boot d => [d] | _ => List.range 8

/-- A row of herds of a die for a rectangle: none for one that must not lie in it, else 1 for an enabled herd, 0 for a fused-off one. -/
def herdRow (s : State) (ok : Nat → Bool) (d y : Nat) : List (Option Nat) :=
  (List.range 32).map (fun x =>
    let h := 640 * d + 32 * y + x
    if enabledHerd s h then (if ok h then some 1 else none) else some 0)

/-- The counts of columns x0, x0 + 1, … together, as a set of bits. -/
def runCounts (twin : Bool) : List (Option Nat) → Nat → Nat → Nat
  | [], _, _ => 0
  | none :: _, _, _ => 0
  | some n :: rest, w, sum => (if twin && w % 2 = 0 then 0 else 2 ^ (sum + n)) ||| runCounts twin rest (w + 1) (sum + n)

/-- The counts of every rectangle of the given rows. -/
def rowCounts (twin : Bool) : List (Option Nat) → Nat
  | [] => 0
  | x :: rest => runCounts twin (x :: rest) 0 0 ||| rowCounts twin rest

/-- Rows put on top of one another. -/
def addRows (a b : List (Option Nat)) : List (Option Nat) :=
  List.zipWith (fun x y => match x, y with | some m, some n => some (m + n) | _, _ => none) a b

/-- The counts of the rectangles that start at the first row. -/
def downCounts (twin : Bool) : List (List (Option Nat)) → List (Option Nat) → Nat
  | [], _ => 0
  | r :: rest, acc => let a := addRows acc r; rowCounts twin a ||| downCounts twin rest a

/-- The counts of the rectangles of rows. -/
def gridCounts (twin : Bool) : List (List (Option Nat)) → Nat
  | [] => 0
  | r :: rest => downCounts twin (r :: rest) (List.replicate 32 (some 0)) ||| gridCounts twin rest

/-- The herd counts that one rectangle of a die can have, as a set of bits without 0. -/
def dieCounts (s : State) (ok : Nat → Bool) (twin : Bool) (d : Nat) : Nat :=
  let m := gridCounts twin ((List.range 20).map (herdRow s ok d))
  m - m % 2

/-- The sums of a member of one set of bits below 641 and a member of another. -/
def sumset (a b : Nat) : Nat := (List.range 641).foldl (fun m c => if b.testBit c then m ||| a * 2 ^ c else m) 0

/-- The herd counts that rectangles on exactly n of the dies can have, by n. -/
def reachCounts : List Nat → List Nat
  | [] => [1]
  | b :: rest =>
    let r := reachCounts rest
    List.zipWith (fun x y => x ||| y) (r ++ [0]) (0 :: (if b = 0 then r.map (fun _ => 0) else r.map (fun a => sumset a b)))

/-- The best placement (R369): the largest count of herds from hmin to hmax, on the fewest dies. -/
def bestCount (s : State) (ok : Nat → Bool) (twin : Bool) (dies : List Nat) (hmin hmax : Nat) : Option (Nat × Nat) :=
  let r := reachCounts (dies.map (dieCounts s ok twin))
  ((List.range (hmax + 1 - hmin)).map (fun i => hmax - i)).findSome? (fun c =>
    ((List.range r.length).find? (fun n => (r.getD n 0).testBit c)).map (fun n => (c, n)))

/-- A swapped-out team resumes only on its own herds (R360, R369); one to which claimed herds are still to return does too, since they join
its rectangle (R376; log 105). -/
def Team.bound (s : State) (tn : Nat) (t : Team) : Bool :=
  t.kept || !t.claimedBy.isEmpty || s.streams.any (fun p => p.2.subs.any (fun x => x.2 / 8 == tn))
    || s.dies.toList.any (fun d => d.groups.toList.any (fun g => g.team == tn))

/-- The herd counts that a waiting task may take: those of its block, or, once it has run, the count that it had (log 86). -/
def Team.counts (t : Team) : Nat × Nat := if t.st == .swapped then (t.herds.length, t.herds.length) else (t.lb.hmin, t.lb.hmax)

/-- The herds that `ok` allows are enough for a waiting task. -/
def roomFor (s : State) (tn : Nat) (t : Team) (ok : Nat → Bool) : Bool :=
  if t.st == .swapped && t.bound s tn then t.herds.all ok
  else (bestCount s ok t.lb.twin t.dies t.counts.1 t.counts.2).isSome

/-! ### Power (R378, R379) -/

/-- 65,536 times the M and V terms of a number of herds and cores at a pair of ratios. -/
def countPower (herds cores km kv : Nat) : Nat := 432 * herds * km + 49 * cores * kv
/-- 65,536 times the M and V terms of a team at a pair of ratios. -/
def teamPower (s : State) (t : Team) (km kv : Nat) : Nat := countPower t.herds.length (t.herds.flatMap (herdCores s)).length km kv
/-- 65,536 times the fixed terms at a pin-rate step and the N ratios. -/
def fixedPower (h : Nat) (kn : List Nat) : Nat := 65536 * (200 + 115 * (5 + h)) + 179200 * kn.foldl (fun a b => a + b) 0
/-- The placed teams. -/
def placedTeams (s : State) : List (Nat × Team) := s.teams.filter (fun p => p.2.placed && !p.2.herds.isEmpty)
/-- The model with a number of herds and cores at their floor and everything else at its lowest fits under the cap; alone, or beside the
placed teams. -/
def floorFits (s : State) (herds cores : Nat) (alone : Bool) : Bool :=
  fixedPower 0 (List.replicate 8 6) + countPower herds cores 4 4
    + (if alone then 0 else (placedTeams s).foldl (fun n p => n + teamPower s p.2 4 4) 0) ≤ 65536 * s.mgmt.effCap

/-- The arbiter lets a task be placed on a number of herds and cores (R379). -/
def countAllowed (s : State) (t : Team) (herds cores : Nat) : Bool :=
  floorFits s herds cores true && (!t.suspended || floorFits s herds cores false)

/-- The arbiter lets a task with the given herds be placed (R379). -/
def powerAllows (s : State) (t : Team) (hs : List Nat) : Bool := countAllowed s t hs.length (hs.flatMap (herdCores s)).length

/-- The quota of a team fits the pool of its die beside the quotas in force there (R377). -/
def quotaFits (s : State) (t : Team) (d : Nat) : Bool :=
  s.teams.foldl (fun n p => if p.2.reserves && p.2.home == d then n + p.2.lb.quota else n) 0 + t.lb.quota ≤ 16384

/-! ### What keeps a task from its herds (R368, R371) -/

/-- The fewest cores that n of the enabled herds that `ok` allows can have together. -/
def fewestCores (s : State) (ok : Nat → Bool) (n : Nat) : Nat :=
  if s.fused.isEmpty then 8 * n
  else ((((List.range 5120).filter (fun h => enabledHerd s h && ok h)).map (fun h => (herdCores s h).length)).foldl insertNat []).take n |>.sum

/-- Rectangles on exactly n of the dies can have c herds together, with the lowest of those dies, the team's home, one that `fits`. -/
def homeFits (s : State) (ok fits : Nat → Bool) (twin : Bool) (c n : Nat) : List Nat → Bool
  | [] => false
  | d :: rest =>
    (fits d && (sumset (dieCounts s ok twin d) ((reachCounts (rest.map (dieCounts s ok twin))).getD (n - 1) 0)).testBit c)
      || homeFits s ok fits twin c n rest

/-- A waiting task could be placed on herds that `ok` allows: some best placement there passes the pool and the cap (R369, R377, R379;
log 128). -/
def couldPlace (s : State) (tn : Nat) (t : Team) (ok : Nat → Bool) : Bool :=
  if t.st == .swapped && t.bound s tn then t.herds.all ok && quotaFits s t t.home && powerAllows s t t.herds
  else match bestCount s ok t.lb.twin t.dies t.counts.1 t.counts.2 with
    | none => false
    | some (c, n) => homeFits s ok (quotaFits s t) t.lb.twin c n t.dies && countAllowed s t c (fewestCores s ok c)

/-- No task earlier in the order could be placed on the same herds (R368). -/
def inTurn (s : State) (tn : Nat) (t : Team) (hs : List Nat) : Bool :=
  (waitingTasks s).all (fun p => p.1 == tn || !taskBefore p (tn, t) || !couldPlace s p.1 p.2 (fun h => hs.contains h && freeFor s p.1 h))

/-! ### TEAM_PLACE (R369) -/

/-- A rectangle put among others, by die. -/
def insertRect (r : Rect) : List Rect → List Rect
  | [] => [r]
  | x :: rest => if r.die < x.die then r :: x :: rest else x :: insertRect r rest

/-- The placement may be taken: free herds, a best one, in the order of tasks, within the pool and the cap. -/
def placementOk (s : State) (tn : Nat) (t : Team) (rs : List Rect) : Bool :=
  let hs := rectsHerds s rs
  rs.all Rect.ok && rs.all (fun r => t.dies.contains r.die && (!t.lb.twin || r.w % 2 == 0)) && hs.all (freeFor s tn)
    && !(t.st == .swapped && t.bound s tn)
    && bestCount s (freeFor s tn) t.lb.twin t.dies t.counts.1 t.counts.2 == some (hs.length, rs.length)
    && inTurn s tn t hs && quotaFits s t ((rs.head?.map (fun r => r.die)).getD 0) && powerAllows s t hs

/-- A saved context with further sections of the core as they stand. -/
def SavedCore.more (x y : SavedCore) : SavedCore :=
  { x with
    mask := x.mask ||| y.mask, area := y.area.foldl (fun m q => SMap.set m q.1 q.2) x.area
    rest := { x.rest with
      deferred := if y.mask.testBit 3 then y.rest.deferred else x.rest.deferred
      barWait := if y.mask.testBit 3 then y.rest.barWait else x.rest.barWait
      poison := x.rest.poison ++ y.rest.poison.filter (fun q => y.mask.testBit (poisonSection q)) } }

/-- The buffers that a claim names on herds, as far as swapped-out teams have left contents of theirs in place there, are saved into those
teams' areas and cleared, before a team that claims them comes in (R359). -/
def saveKept (s : State) (tn : Nat) (claim : BitVec 3) (hs : List Nat) : State :=
  s.teams.foldl (fun s p =>
    if p.1 = tn ∨ p.2.st ≠ .swapped then s
    else p.2.saved.foldl (fun s x =>
      match ((p.2.logical s)[x.1 / 2]?).map (fun k => if x.1 % 2 = 0 then k else k + 2) with
      | none => s
      | some k =>
        let mask := claimSections (claim &&& p.2.lb.claim) &&& (127 - x.2.mask % 128)
        if mask = 0 ∨ hs.contains (herdOf k) = false then s
        else
          let y := saveCore s k mask
          modCoreAt (modTeamAt s p.1 (fun t => { t with saved := SMap.set t.saved x.1 (x.2.more y) })) k (fun c => c.clearSections mask)) s) s

/-- A task takes a placement: it comes to hold the herds, on which no grant is in force yet; a swapped-out one will resume there. -/
def takePlacement (s : State) (tn : Nat) (rs : List Rect) : State :=
  let claim := match teamAt s tn with | some t => t.lb.claim | none => 0
  let home := match teamAt s tn with | some t => t.home | none => 0
  let s := saveKept s tn claim (rectsHerds s rs)
  let s' := (rectsHerds s rs).foldl (fun s h => modHerdAt s h (fun x => { x with clkg := 0 })) s
  let s' := modTeamAt { s' with arrivals := s.arrivals + 1 } tn (fun t => { t with
    order := s.arrivals, rects := rs, herds := rectsHerds s rs, proposal := [], st := if t.st == .swapped then .swapped else .starting
    tvecs := s.dies.map (fun d => d.tvecdef)
    suspended := t.suspended && t.st == .swapped })
  -- entries of its quota that its kids still hold count on its new home die from now on
  fillPool (dieAt s' home).kidWait.length s' home

/-- The placer adds a rectangle to the placement of a waiting task, and takes the placement once it may. -/
def placeTeam (s : State) (tn : Nat) (r : Rect) : Option State :=
  match teamAt s tn with
  | none => none
  | some t =>
    if !t.waiting || !r.ok then none
    else
      let rs := if t.proposal.any (fun x => x.die == r.die) then [r] else insertRect r t.proposal
      if placementOk s tn t rs then some (takePlacement s tn rs) else some (modTeamAt s tn (fun t => { t with proposal := rs }))

/-- TEAM_PLACE. -/
def execTeamPlace (task die x y w h : Nat) (s : State) : Out :=
  happen s (placeTeam s task { die := die, x := x, y := y, w := w, h := h })

/-- TASK_AGE (R367). -/
def execTaskAge (task : Nat) (s : State) : Out :=
  .next (modTeamAt s task (fun t => if t.waiting && (t.level == 2 || t.level == 3) then { t with level := t.level - 1 } else t))

/-! ### TEAM_START and HERD_START (R364, R372, R373) -/

/-- No grant is in force on a herd yet: the arbiter has not evaluated since its placement (R380). -/
def ungranted (s : State) (h : Nat) : Bool := (herdAt s h).clkg == 0

/-- The herds of a starting team have been cleared of what earlier teams left in their caches, and the arbiter has evaluated. -/
def startTeam (s : State) (tn : Nat) : Option State :=
  match teamAt s tn with
  | none => none
  | some t =>
    if t.st != .starting || t.herds.any (fun h => herdDirty s h || !herdQuiet s h || ungranted s h) then none
    else
      let s := t.herds.foldl (fun s h => modHerdAt s h (fun x => { x with lines := [] })) s
      let s := initCores s tn t (t.threads s)
      some (modTeamAt s tn (fun t => { t with
        st := .running, toStart := t.startOrder s, range := rangeStart t.lb, clockReq := t.lb.clock, slice := (t.kv, (dieAt s t.home).kn, 0)
        td := t.lb.tds.foldl (fun m x => SMap.set m x.1 x.2) t.td }))

/-- TEAM_START. -/
def execTeamStart (team : Nat) (s : State) : Out := happen s (startTeam s team)

/-- The slice of a team begins with its first herd (R359): the grant in force, and the tick of its home die. -/
def Team.beginSlice (s : State) (t : Team) : Team :=
  if (t.threads s).any (fun k => (coreAt s k).active) then t
  else { t with slice := (t.kv, (dieAt s t.home).kn, t.slice.2.2), began := (dieAt s t.home).clock }

/-- The next herd of a team starts; on a herd that resumes, the threads that have not ended. -/
def startHerd (s : State) (tn h : Nat) : Option State :=
  match teamAt s tn with
  | none => none
  | some t =>
    if t.st != .running || t.swapping || t.toStart.head? != some h || ungranted s h then none
    else
      let ks := (t.threads s).filter (fun k => herdOf k == h)
      let again := ks.filter (fun k => (coreAt s k).run == .vacated)
      let s := modTeamAt s tn (fun t => { t.beginSlice s with toStart := t.toStart.drop 1 })
      some ((if again.isEmpty then ks else again).foldl (fun s k =>
        modCoreAt s k (fun c => { c with run := .running, stalled := false })) s)

/-- HERD_START. -/
def execHerdStart (team herd : Nat) (s : State) : Out := happen s (startHerd s team herd)

/-! ### SPATIAL_PREEMPT (R358, R370, R375) -/

/-- The herds that claims of a team have not taken from it yet leave the team with these (R370). -/
def Team.unclaimed (t : Team) : List Nat := t.herds.filter (fun h => t.claimedBy.all (fun x => !x.2.contains h))

/-- The rectangle of the herds of a team on a die that no claim names: the smallest around them, for a twin team of whole pairs counted
from the west edge of its placement (R412). -/
def Team.box (t : Team) (d : Nat) : Option Rect :=
  let hs := t.unclaimed.filter (fun h => herdDie h == d)
  match hs with
  | [] => none
  | h :: _ =>
    let xs := hs.map (fun h => h % 32)
    let ys := hs.map (fun h => h % 640 / 32)
    let west := match t.rects.find? (fun r => r.die == d) with | some r => r.x | none => 0
    let x0 := xs.foldl min (h % 32)
    let x1 := xs.foldl max 0 + 1
    let y0 := ys.foldl min (h % 640 / 32)
    let lo := if t.lb.twin then x0 - (x0 + west) % 2 else x0
    let hi := if t.lb.twin then x1 + (x1 + west) % 2 else x1
    some { die := d, x := lo, y := y0, w := hi - lo, h := ys.foldl max 0 + 1 - y0 }

/-- A rectangle is a band of whole rows or columns at one edge of a victim's rectangle, or the whole of it where the victim keeps herds on
another die; the victim keeps its HMIN (R370). -/
def bandOk (s : State) (v : Team) (r : Rect) : Bool :=
  match v.box r.die with
  | none => false
  | some b =>
    let n := (rectsHerds s [r]).length
    let inside := b.x ≤ r.x && r.x + r.w ≤ b.x + b.w && b.y ≤ r.y && r.y + r.h ≤ b.y + b.h
    let rows := r.x == b.x && r.w == b.w && (r.y == b.y || r.y + r.h == b.y + b.h)
    let cols := r.y == b.y && r.h == b.h && (r.x == b.x || r.x + r.w == b.x + b.w)
    let whole := r.w == b.w && r.h == b.h
    inside && (rows || cols) && (!whole || v.unclaimed.any (fun h => herdDie h != r.die)) && v.lb.hmin + n ≤ v.unclaimed.length
      && (!v.lb.twin || (r.w % 2 == 0 && (r.x + b.x) % 2 == 0))

/-- One of the narrowest claims of a team that a task could make, on its dies and of the herds that it may take. -/
def someBand (s : State) (v : Team) (dies : List Nat) (takes : List Nat → Bool) : Bool :=
  dies.any (fun d => match v.box d with
    | none => false
    | some b =>
      [b, { b with h := 1 }, { b with w := 1 }, { b with y := b.y + b.h - 1, h := 1 }, { b with x := b.x + b.w - 1, w := 1 }, { b with w := 2 },
       { b with x := b.x + b.w - 2, w := 2 }].any (fun r => bandOk s v r && takes (rectsHerds s [r])))

/-- A victim of a level-0 task: a running team of level 1 to 3 that no die's BOOT has started. -/
def Team.victim (t : Team) : Bool := t.st == .running && 1 ≤ t.level && !t.swapping && (match t.src with | .boot _ => false | _ => true)

/-- The dispatcher in whose queues a task waits (R367): that of a kid's die; all other tasks stand in the same queues (log 128). -/
def Team.queue (t : Team) : Option Nat := match t.src with | .kid _ _ _ d => some d | _ => none

/-- The claim of a rectangle from a team may begin (R370): no team of a larger level has herds that the task could claim, and no earlier
task of level 0 waits at the head of its queue. -/
def claimOk (s : State) (tn : Nat) (t : Team) (v : Nat × Team) (r : Rect) : Bool :=
  -- a task that R360 binds takes its own herds alone
  let takes (hs : List Nat) : Bool := !(t.st == .swapped && t.bound s tn) || hs.all t.herds.contains
  t.level == 0 && t.waiting && t.dies.contains r.die && v.2.victim && r.ok && bandOk s v.2 r && takes (rectsHerds s [r])
    && !roomFor s tn t (freeFor s tn)
    && s.teams.all (fun p => !p.2.victim || p.2.level ≤ v.2.level || !someBand s p.2 t.dies takes)
    && (waitingTasks s).all (fun p => p.1 == tn || p.2.queue != t.queue || !taskBefore p (tn, t))

/-- The scan-out of a vacated core for a claim into the save area of its team, and the core cleared of it (R358). -/
def scanOut (s : State) (v k : Nat) (claim : BitVec 3) : State :=
  let x := saveCore s k (claimSections claim + (coreAt s k).storeSection)
  modCoreAt (modTeamAt s v (fun t => { t with scanned := SMap.set t.scanned k x })) k (fun c =>
    { c.clearSections (claimSections claim + 2 ^ 6) with ilines := [] })

/-- A level-0 task claims herds of a team: the decision vacates their cores; when they are vacated, they are scanned out and the team is
resized. -/
def preemptTeam (s : State) (tn : Nat) (r : Rect) : Option State :=
  let hs := rectsHerds s [r]
  match teamAt s tn, s.teams.find? (fun p => p.2.placed && hs.all (fun h => p.2.herds.contains h)) with
  | some t, some (vn, v) =>
    if v.claimedBy.contains (tn, hs) then
      (match quiesce s hs with
       | .wait => none
       | .moved s' => some s'
       | .done =>
         let gone := (v.threads s).filter (fun k => hs.contains (herdOf k))
         some (loseHerds (gone.foldl (fun s k => scanOut s vn k t.lb.claim) (saveKept s tn t.lb.claim hs)) vn hs))
    else if claimOk s tn t (vn, v) r then
      let s := modTeamAt s vn (fun v => { v with claimedBy := v.claimedBy ++ [(tn, hs)] })
      some (match quiesce s hs with | .moved s' => s' | _ => s)
    else none
  | _, _ => none

/-- SPATIAL_PREEMPT. -/
def execSpatialPreempt (task die x y w h : Nat) (s : State) : Out :=
  happen s (preemptTeam s task { die := die, x := x, y := y, w := w, h := h })

/-! ### HERDS_RETURN (R376, R409) -/

/-- The claimant that stands for a containment. -/
def containClaim : Nat := 2 ^ 32

/-- Claimed herds can return: their claimant has ended and holds them no more, or the fence over them has lifted. -/
def claimOver (s : State) (x : Nat × List Nat) : Bool :=
  x.2.all (fun h => match (dieAt s (herdDie h)).containment with | some z => !z.herds.contains h | none => true)
    && (if x.1 = containClaim then (x.2.flatMap (herdCores s)).all (coreDrained s)
        else match teamAt s x.1 with
          | some u => (u.st == .ended || u.st == .failed || u.st == .ending) && u.herds.isEmpty
          | none => true)

/-- Claimed herds return to their team: the team is renumbered, and their cores will start again with the scanned buffers loaded back.  They
wait for a team that is swapped out, or about to be, to run again, and for another team that holds them then to leave them (log 105). -/
def returnHerds (s : State) (tn : Nat) : Option State :=
  match teamAt s tn with
  | none => none
  | some t =>
    let unheld (h : Nat) : Bool := s.teams.all (fun p => !(p.2.placed && p.2.herds.contains h))
    match t.claimedBy.find? (fun x => claimOver s x && x.2.all (fun h => !t.herds.contains h)) with
    | none => none
    | some x =>
      let s := modTeamAt s tn (fun t => { t with claimedBy := t.claimedBy.erase x })
      match t.st with
      | .starting | .running =>
        if t.swapping || !x.2.all unheld then none
        else
          let remain := t.threads s
          let t' : Team := { t with herds := t.herds ++ x.2 }
          let back := (t'.threads s).filter (fun k => x.2.contains (herdOf k))
          let s := x.2.foldl (fun s h => modHerdAt s h (fun x => { x with clkg := 0 })) s
          let s := renumber (modTeamAt s tn (fun t => { t with
            herds := t.herds ++ x.2, scanned := t.scanned.filter (fun p => !back.contains p.1)
            toStart := t.toStart ++ (t'.startOrder s).filter (fun h => x.2.contains h) })) tn remain
          match teamAt s tn with
          | some u => some (back.foldl (fun s k =>
              match SMap.get? t.scanned k with | some c => modCoreAt s k c.onto | none => s) (initCores s tn u back))
          | none => some s
      | .queued | .swapped => none
      | _ => some s

/-- HERDS_RETURN. -/
def execHerdsReturn (team : Nat) (s : State) : Out := happen s (returnHerds s team)

/-! ### SLICE_EXPIRE and TEAM_RESUME (R359 to R361, R371) -/

/-- Every core of a team waits in JOIN or has ended, a kid of it is ready on its die, and no herds are free (R371). -/
def joinStuck (s : State) (tn : Nat) (t : Team) : Bool :=
  (t.threads s).all (fun k => (coreAt s k).run == .idle || (coreAt s k).wait == some .join)
    && (waitingTasks s).any (fun p => match p.2.src with
      | .kid _ parent _ d => parent == tn && (List.range 640).all (fun h => !freeFor s p.1 (640 * d + h))
      | _ => false)

/-- The claim of the task that comes in as a team goes out (R359): the first of the order that could be placed once the team's herds are
free.  Where another comes in after all, `saveKept` saves what it claims beyond (log 86). -/
def incomingClaim (s : State) (tn : Nat) : BitVec 3 :=
  let out := (match teamAt s tn with | some t => t.herds | none => [])
  match (waitingTasks s).find? (fun p => p.1 != tn && couldPlace s p.1 p.2 (fun h => out.contains h || freeFor s p.1 h)) with
  | some p => p.2.lb.claim
  | none => 0

/-- The sections that a core saves as its team goes out (R359): of the buffers, those that the incoming team and its own both claim. -/
def swapMask (both : BitVec 3) (c : Core) : Nat := 7 + claimSections both + c.storeSection

/-- The KiB of the sections of a mask. -/
def sectionKiB (mask : Nat) : Nat := (ctxSections.zipIdx).foldl (fun n p => if mask.testBit p.2 then n + p.1.2 / 1024 else n) 0

/-- Ks of a team that would be swapped out now (R359). -/
def savedKiB (s : State) (tn : Nat) (t : Team) : Nat :=
  let both := t.lb.claim &&& incomingClaim s tn
  (t.threads s).foldl (fun n k => max n (sectionKiB (swapMask both (coreAt s k)))) 0

/-- KN times the lower bound of a slice in V-cycles (R359), at the grant with which the slice began. -/
def sliceFloor (s : State) (tn : Nat) (t : Team) : Nat :=
  8 * (savedKiB s tn t + t.slice.2.2) * t.slice.1 + 2048 * t.slice.2.1

/-- KN times Q, the slice that the supervisor has programmed for the level (R359). -/
def sliceAsked (s : State) (t : Team) : Nat := vget s.slices 0 t.level * t.slice.2.1

/-- The tick at which the slice of a team ends (R359; a V-cycle is the KV-th part of a tick, R27, R115). -/
def sliceEnd (s : State) (tn : Nat) (t : Team) : Nat :=
  t.began + max (sliceAsked s t) (sliceFloor s tn t) / (t.slice.2.1 * t.slice.1)

/-- A team that the time slicer may swap out for a task of a level (R371): one that runs at that level or a larger number. -/
def Team.sliced (t : Team) (level : Nat) : Bool :=
  t.st == .running && level ≤ t.level && !t.herds.isEmpty && t.toStart.isEmpty && (match t.src with | .boot _ => false | _ => true)

/-- No other such team's slice ends before (R371); when the slice itself ends is not modelled (log 106). -/
def sliceFirst (s : State) (tn : Nat) (t : Team) (level : Nat) : Bool :=
  s.teams.all (fun p => p.1 == tn || !p.2.sliced level || p.2.swapping || sliceEnd s tn t ≤ sliceEnd s p.1 p.2)

/-- A running team may be swapped out: the arbiter asks for it, its kids need its herds, or a task of its level or of a smaller number
cannot be placed and its slice ends first. -/
def mayExpire (s : State) (tn : Nat) (t : Team) : Bool :=
  t.suspended || joinStuck s tn t
    || (waitingTasks s).any (fun p => t.sliced p.2.level && !couldPlace s p.1 p.2 (freeFor s p.1) && sliceFirst s tn t p.2.level)

/-- The vacated cores of a team are saved, what is saved of their storage is cleared, and the herds and the quota are free (R359, R371,
R372, R377). -/
def swapOut (s : State) (tn : Nat) (t : Team) : State :=
  let incoming := incomingClaim s tn
  let save (k : Nat) : SavedCore := saveCore s k (swapMask (t.lb.claim &&& incoming) (coreAt s k))
  let saved : SMap SavedCore := ((t.logical s).zipIdx).flatMap (fun p =>
    if t.lb.twin then [(2 * p.2, save p.1), (2 * p.2 + 1, save (p.1 + 2))] else [(2 * p.2, save p.1)])
  let kept := (t.lb.claim &&& ~~~incoming) != 0
  let clamped := sliceAsked s t < sliceFloor s tn t
  let buffers := claimSections (t.lb.claim &&& incoming)
  let s := (t.threads s).foldl (fun s k => returnChunk s tn k) s
  let s := (t.threads s).foldl (fun s k => modCoreAt s k (fun c => { c.clearSections (buffers + 2 ^ 6) with
    run := .idle, team := none, claim := 0, twin := none, chunk := none, ilines := [], deferredTrap := none })) s
  let s := modTeamAt { s with arrivals := s.arrivals + 1 } tn (fun t => { t with
    st := .swapped, swapping := false, saved := saved, kept := kept, swaps := min (t.swaps + 1) (2 ^ 24 - 1)
    clamp := t.clamp || clamped, arrival := if t.suspended then t.arrival else s.arrivals })
  fillPool (dieAt s t.home).kidWait.length s t.home

/-- A time slice ends: the team is vacated, and then swapped out. -/
def expireSlice (s : State) (tn : Nat) : Option State :=
  match teamAt s tn with
  | none => none
  | some t =>
    if t.st != .running || !t.toStart.isEmpty || t.herds.isEmpty then none
    else if !t.swapping then
      if mayExpire s tn t && t.claimedBy.all (fun x => x.2.all (fun h => !t.herds.contains h)) then
        some (modTeamAt s tn (fun t => { t with swapping := true }))
      else none
    else match quiesce s t.herds with
      | .wait => none
      | .moved s' => some s'
      | .done => some (swapOut s tn t)

/-- SLICE_EXPIRE. -/
def execSliceExpire (team : Nat) (s : State) : Out := happen s (expireSlice s team)


/-! ### Ending a team (R84, R85, R88, R293, R307, R372) -/

/-- The engines forget a team (R88, R239, R293, R307): its views, sessions, commutative ranges, subscriptions and trees. -/
def forgetTeam (s : State) (tn : Nat) : State :=
  let owners := s.sheets.flatMap (fun p =>
    (p.2.views.map (fun v => v.owner) ++ p.2.sessions.map (fun x => x.owner)).filter (fun o => o / 65536 == tn + 1))
  let s := owners.foldl closeOwner s
  let s := s.ranges.foldl (fun s p => if p.2.team = tn then clearRange s p.1 else s) s
  { s with streams := s.streams.map (fun p =>
      let st := (p.2.subs.filter (fun x => x.2 / 8 == tn)).foldl Stream.drop p.2
      (p.1, if st.team = some tn then { st with tree := [], team := none } else st)) }

/-- The herds of a team are free: its cores leave it, and no SWM copy stays in their caches. -/
def releaseTeam (s : State) (tn : Nat) (t : Team) : State :=
  let s := (t.threads s).foldl (fun s k => if (coreAt s k).team = some tn then releaseCore s k else s) s
  let s := t.herds.foldl (fun s h => modHerdAt s h (fun x => { x with lines := x.lines.filter (fun p => p.2.expiry.isSome) })) s
  let s := modTeamAt (forgetTeam s tn) tn (fun t => { t with st := .ending, herds := [], toStart := [], swapping := false, saved := [], scanned := [] })
  fillPool (dieAt s t.home).kidWait.length s t.home

/-- Every thread of a team has ended, and no claimed herds are to return to it (R372, R376; log 105). -/
def threadsEnded (s : State) (t : Team) : Bool :=
  t.toStart.isEmpty && t.claimedBy.isEmpty && (t.threads s).all (fun k => (coreAt s k).run == .idle)

/-- A team finishes or is ended: its cores are vacated, its caches go home, and its herds are free. -/
def finishTeam (s : State) (tn : Nat) : Option State :=
  match teamAt s tn with
  | none => none
  | some t =>
    match t.st with
    | .running =>
      if threadsEnded s t || t.failure.isSome || t.contained.isSome then some (modTeamAt s tn (fun t => { t with st := .ending, toStart := [] })) else none
    | .ending =>
      if t.herds.isEmpty then none
      else (match quiesce s t.herds with
        | .wait => none
        | .moved s' => some s'
        | .done => some (releaseTeam s tn t))
    | _ => none

/-- TEAM_FINISH. -/
def execTeamFinish (team : Nat) (s : State) : Out := happen s (finishTeam s team)

/-- A team has finished and freed its herds, and every kid that it spawned is complete (R67). -/
def Team.over (t : Team) : Bool := t.st == .ending && t.herds.isEmpty && t.kids.all (fun x => x.2.2.isSome)

/-- The state of a team whose task is complete. -/
def Team.finalState (t : Team) : TeamState := if t.failure.isSome then .failed else .ended

/-- The task of a team is complete (R84, R85, R131): its recalculation ends, fails, or runs again after containment (R409). -/
def completeTask (s : State) (tn : Nat) : Option State :=
  match teamAt s tn with
  | none => none
  | some t =>
    if !t.over then none
    else
      let s' := modTeamAt s tn (fun t => { t with st := t.finalState })
      match t.src with
      | .kid _ _ _ _ => none
      | .supervisor => some s'
      | .boot _ => some s'
      | .formula n i g =>
        some (match t.contained with
          | none => taskEnds s' n i g t.failure
          | some summary =>
            match (SMap.get? s.sheets n).bind (fun sh => sh.exact i g) with
            | some (_, v) => if t.lb.rgnlim ≤ v.contained + 1 then taskEnds s' n i g (some summary) else rerun s' n i g
            | none => s')

/-- TASK_COMPLETE. -/
def execTaskComplete (team : Nat) (s : State) : Out := happen s (completeTask s team)

/-- A team or a kid of it, directly or not, has ended with a failure status (R304). -/
def Team.anyFailed (t : Team) : Bool := t.failure.isSome || t.kids.any (fun x => x.2.2 == some true)

/-- The cores of a team look again. -/
def wakeTeam (s : State) (tn : Nat) : State :=
  { s with cores := s.cores.map (fun p => (p.1, if p.2.team = some tn then { p.2 with stalled := false } else p.2)) }

/-- A kid is complete (R67, R377): its parent knows, and its entry is free. -/
def completeKid (s : State) (tn : Nat) : Option State :=
  match teamAt s tn with
  | none => none
  | some t =>
    match t.src with
    | .kid id parent _ d =>
      if !t.over then none
      else
        let s := modTeamAt s tn (fun t => { t with st := t.finalState })
        let s := modTeamAt s parent (fun p => { p with kids := p.kids.map (fun x => if x.1 = id then (x.1, x.2.1, some t.anyFailed) else x) })
        some (wakeTeam (freeEntry s tn parent d t.entry) parent)
    | _ => none

/-- KID_COMPLETE. -/
def execKidComplete (team : Nat) (s : State) : Out := happen s (completeKid s team)

/-- The supervisor ends a team (R85, R424): one that holds no herds is over at once. -/
def endTeam (s : State) (tn : Nat) (failure : Option Word) : State :=
  match teamAt s tn with
  | none => s
  | some t =>
    let s := modTeamAt s tn (fun t => { t with failure := match t.failure with | some f => some f | none => failure })
    match t.st with
    | .queued => releaseTeam s tn { t with herds := [] }
    | .swapped => releaseTeam s tn { t with herds := [] }
    | .starting => modTeamAt s tn (fun t => { t with st := .ending, toStart := [] })
    | .running => modTeamAt s tn (fun t => { t with st := .ending, toStart := [], swapping := false })
    | _ => s

/-! ### TEAM_RESUME (R360, R361) -/

/-- The herds of a resuming team take its saved contexts: its logical cores by twice their index, and one more for a twin. -/
def loadSaved (s : State) (t : Team) : State :=
  let put (s : State) (k i : Nat) (twin : Option (Nat × Bool)) : State :=
    match SMap.get? t.saved i with
    | some x => modCoreAt s k (fun p => x.resumed p twin)
    | none => s
  ((t.logical s).zipIdx).foldl (fun s p =>
    if t.lb.twin then put (put s p.1 (2 * p.2) (some (p.1 + 2, true))) (p.1 + 2) (2 * p.2 + 1) (some (p.1, false))
    else put s p.1 (2 * p.2) none) s

/-- A swapped-out team resumes on its herds, whose cores issue once the arbiter has evaluated (R360, R380); a context that fails the checks
of CXLOAD ends the team (R361; log 54). -/
def resumeTeam (s : State) (tn : Nat) : Option State :=
  match teamAt s tn with
  | none => none
  | some t =>
    if t.st != .swapped || !t.herds.all (freeFor s tn) || !inTurn s tn t t.herds || !quotaFits s t t.home || !powerAllows s t t.herds
        || t.herds.any (fun h => herdDirty s h || !herdQuiet s h) then none
    else if t.saved.any (fun p => p.2.bad) then some (endTeam { s with free := s.free + 1 } tn (some (Config.contextStatus s.free)))
    else
      let s := saveKept s tn t.lb.claim t.herds
      let s := loadSaved (t.herds.foldl (fun s h => modHerdAt s h (fun x => { x with lines := [], clkg := 0 })) s) t
      let left := (t.startOrder s).filter (fun h => (t.threads s).any (fun k => herdOf k == h && (coreAt s k).run == .vacated))
      let restored := t.saved.foldl (fun n p => max n (sectionKiB p.2.mask)) 0
      some (modTeamAt { s with arrivals := s.arrivals + 1 } tn (fun t => { t with
        order := s.arrivals, st := .running, toStart := left, saved := [], kept := false, suspended := false, proposal := []
        slice := (t.slice.1, t.slice.2.1, restored) }))

/-- TEAM_RESUME. -/
def execTeamResume (team : Nat) (s : State) : Out := happen s (resumeTeam s team)

/-! ### What the supervisor does to a team that waits (R361, R442) -/

/-- A team that waits for its first placement is to be loaded pinned, or not. -/
def pinTeam (s : State) (tn : Nat) (segs : List (Nat × Nat)) : State :=
  modTeamAt s tn (fun t => if t.st = .queued ∧ (segs.map (fun p => p.2)).sum ≤ pinnedSize then { t with pins := segs } else t)

/-- A doubleword of the save area of a swapped-out team is written. -/
def writeSaved (s : State) (tn i off v : Nat) : State :=
  modTeamAt s tn (fun t =>
    if t.st = .swapped then
      { t with saved := t.saved.map (fun p =>
          if p.1 = i ∧ (ctxBlocks p.2.mask).contains (off / 64 * 64) = true then
            (p.1, { p.2 with area := SMap.set p.2.area (off / 8 * 8) (v % 2 ^ 64) })
          else p) }
    else t)

end Sys2Proof.Machine
end

