-- ==== Sys2Proof/Machine/Arbiter.lean ====
section
/-!
DEFINITION. The clock-ratio arbiter (R378 to R381).
-/

namespace Sys2Proof.Machine

/-- The fields of a request word (R338). -/
def reqM (w : Word) : Nat := bits w.toNat 4 0
/-- KV. -/
def reqV (w : Word) : Nat := bits w.toNat 9 5
/-- KN. -/
def reqN (w : Word) : Nat := bits w.toNat 14 10
/-- H. -/
def reqH (w : Word) : Nat := bits w.toNat 16 15
/-- The weight of M, V, N, H by index 0 to 3. -/
def reqW (w : Word) (i : Nat) : Nat := w.toNat / 2 ^ (17 + 2 * i) % 4

/-- The distance of two numbers. -/
def dist (a b : Nat) : Nat := (a - b) + (b - a)

/-- The first of a list with the least cost. -/
def cheapest {α : Type} (cost : α → Nat) : List α → Option α
  | [] => none
  | x :: rest => match cheapest cost rest with
    | some y => if cost y < cost x then some y else some x
    | none => some x

/-- A sum over a list. -/
def total {α : Type} (f : α → Nat) (l : List α) : Nat := l.foldl (fun n x => n + f x) 0

/-- The numbers from hi down to lo. -/
def downTo (hi lo : Nat) : List Nat := (List.range (hi + 1 - lo)).map (fun i => hi - i)

/-- Steps 1 and 2 (R379): the pin-rate step and the N of each die. -/
def wantH (ts : List Team) : Nat :=
  (cheapest (fun h => total (fun t => reqW t.clockReq 3 * dist h (reqH t.clockReq) * t.herds.length) ts) (downTo 3 0)).getD 3
/-- The N of a die. -/
def wantN (ts : List Team) (d : Nat) : Nat :=
  (cheapest (fun k => total (fun t =>
    reqW t.clockReq 2 * dist k (reqN t.clockReq) * (t.herds.filter (fun h => herdDie h == d)).length) ts) (downTo 16 6)).getD 16

/-- The first of the greatest of a list lowered by one. -/
def lowerMax (l : List Nat) : List Nat :=
  let m := l.foldl max 0
  match l.findIdx? (fun x => x == m) with
  | some i => l.set i (m - 1)
  | none => l

/-- Step 3 (R379): H is lowered by one step, then N step by step, and H again once every N is at 6, until the model with every team at its
floor fits; `once` says that the first step of H is still to come, and `fuel` bounds the steps. -/
def lowerToFit (cap floor : Nat) : Nat → Bool → Nat → List Nat → Nat × List Nat
  | 0, _, h, kn => (h, kn)
  | fuel + 1, once, h, kn =>
    if fixedPower h kn + floor ≤ cap then (h, kn)
    else if once && 0 < h then lowerToFit cap floor fuel false (h - 1) kn
    else if 6 < kn.foldl max 0 then lowerToFit cap floor fuel false h (lowerMax kn)
    else if 0 < h then lowerToFit cap floor fuel false (h - 1) kn
    else (h, kn)

/-- The team that is suspended first (R379): the greatest level, then the one placed last. -/
def suspendFirst (ts : List (Nat × Team)) : Option (Nat × Team) :=
  ts.foldl (fun (best : Option (Nat × Team)) p => match best with
    | none => some p
    | some b => if b.2.level < p.2.level || (b.2.level == p.2.level && b.2.order < p.2.order) then some p else some b) none

/-- Teams are suspended until the floor fits under the cap; `fuel` bounds their number. -/
def suspendToFit : Nat → State → State
  | 0, s => s
  | fuel + 1, s =>
    let ts := (placedTeams s).filter (fun p => !p.2.suspended)
    if fixedPower 0 (List.replicate 8 6) + total (fun p => teamPower s p.2 4 4) ts ≤ 65536 * s.mgmt.effCap then s
    else match suspendFirst (ts.filter (fun p => p.2.st != .ending)) with
      | none => s
      | some (n, t) =>
        -- a starting team returns to its queue, and what its quota reserved is free for the kids that wait (R377)
        suspendToFit fuel (if t.st == .starting then
            let s := modTeamAt s n (fun x => { x with suspended := true, st := .queued, rects := [], herds := [] })
            fillPool (dieAt s t.home).kidWait.length s t.home
          else modTeamAt s n (fun x => { x with suspended := true }))

/-- Step 4 (R379): the M and V of a team within its share. -/
def shareOf (s : State) (ts : List Team) (cap fixed : Nat) (t : Team) : Nat × Nat :=
  let cores (t : Team) : Nat := (t.herds.flatMap (herdCores s)).length
  let floor := total (fun t => teamPower s t 4 4) ts
  let all := total cores ts
  let ok (p : Nat × Nat) : Bool :=
    (teamPower s t p.1 p.2 - teamPower s t 4 4) * all ≤ (cap - fixed - floor) * cores t
  let pairs := (downTo 16 4).flatMap (fun m => (downTo 16 4).map (fun v => (m, v)))
  (cheapest (fun p => reqW t.clockReq 0 * dist p.1 (reqM t.clockReq) + reqW t.clockReq 1 * dist p.2 (reqV t.clockReq))
    (pairs.filter ok)).getD (4, 4)

/-- CLKG of a herd of a team at a grant (R381). -/
def grantWord (h kn : Nat) (t : Team) : Word :=
  word (t.km + t.kv * 2 ^ 5 + kn * 2 ^ 10 + h * 2 ^ 15 + (if t.relaxed then 2 ^ 25 else 0))

/-- The grant that a team's herd is to come to. -/
def targetGrant (s : State) (t : Team) (herd : Nat) : Word := grantWord s.pinRate (dieAt s (herdDie herd)).kn t

/-- The fields of a grant lowered to those of another (R380); a herd that no grant is in force on takes it whole. -/
def lowered (old new : Word) : Word :=
  if reqM old = 0 then new
  else word (min (reqM old) (reqM new) + min (reqV old) (reqV new) * 2 ^ 5 + min (reqN old) (reqN new) * 2 ^ 10
    + min (reqH old) (reqH new) * 2 ^ 15 + bits new.toNat 25 25 * 2 ^ 25)

/-- A herd's ratios take effect: CLKG of its cores, and EVSTAT.CLK, in one step (R380). -/
def setGrant (s : State) (herd : Nat) (w : Word) : State :=
  if (herdAt s herd).clkg = w then s
  else (herdCores s herd).foldl (fun s k => modCoreAt s k (fun c => { c.overwritten [4096 + 0x02A] with
      clkg := w, evstat := if c.run ≠ .idle ∧ c.clkg ≠ w then setBit c.evstat 0 true else c.evstat, stalled := false }))
    (modHerdAt s herd (fun x => { x with clkg := w }))

/-- The arbiter evaluates (R379, R380): the new grant, and every lowered ratio at once.  A suspended team counts at its floor until it has
been swapped out, so that no grant models above what the running teams take. -/
def arbitrate (s : State) : State :=
  let s := suspendToFit s.teams.length s
  let ts := (placedTeams s).map (fun p => p.2)
  let cap := 65536 * s.mgmt.effCap
  let floor := total (fun t => teamPower s t 4 4) ts
  let (h, kn) := lowerToFit cap floor 90 true (wantH ts) ((List.range 8).map (wantN ts))
  let fixed := fixedPower h kn
  let s := (List.range 8).foldl (fun s d => modDieAt s d (fun x => { x with kn := kn.getD d 16 })) { s with pinRate := h }
  let s := (placedTeams s).foldl (fun s p =>
    let g := if p.2.suspended then (4, 4) else shareOf s ts cap fixed p.2
    modTeamAt s p.1 (fun t => { t with km := g.1, kv := g.2, relaxed := t.clockReq.getLsbD 25 })) s
  let held := heldHerds s
  let s := s.herds.foldl (fun s p => if p.2.clkg != 0 && !held.contains p.1 then modHerdAt s p.1 (fun x => { x with clkg := 0 }) else s) s
  (placedTeams s).foldl (fun s p =>
    p.2.herds.foldl (fun s herd => setGrant s herd (lowered (herdAt s herd).clkg (targetGrant s p.2 herd))) s) s

/-- ARBITER_EVALUATE. -/
def execArbiterEvaluate (s : State) : Out := .next (arbitrate s)

/-- A raised ratio takes effect on the next herd of its team that a grant is in force on (R380). -/
def raiseHerd (s : State) (herd : Nat) : Option State :=
  match (placedTeams s).find? (fun p => p.2.herds.contains herd) with
  | none => none
  | some (_, t) =>
    match (t.startOrder s).find? (fun h => !ungranted s h && (herdAt s h).clkg != targetGrant s t h) with
    | some h => if h = herd then some (setGrant s herd (targetGrant s t herd)) else none
    | none => none

/-- GRANT_RAISE_HERD. -/
def execGrantRaiseHerd (herd : Nat) (s : State) : Out := happen s (raiseHerd s herd)

end Sys2Proof.Machine
end

