-- ==== Sys2Proof/Machine/Reliability.lean ====
section
/-!
DEFINITION. Errors and containment (R34, R356, R402 to R411, R415): poison, the scrubbers, the containment of a rectangle, router
failures, and transactions and responses that fail their CRC.
-/

namespace Sys2Proof.Machine

/-! ### Uncorrectable errors (R356, R402 to R404) -/

/-- Poisons a granule of a core. -/
def poisonCore (s : State) (k unit i : Nat) : State :=
  modCoreAt s k (fun c => { c with poison := if c.poison.contains (unit, i) then c.poison else c.poison ++ [(unit, i)] })

/-- A clean copy that a core reads is dropped (R356): inside a region the region is discarded and re-entered, counted; outside, the
instruction is executed again. -/
def retryAt (s : State) (k : Nat) : State :=
  if (coreAt s k).region.isSome then discardCounted s k 26 2 else wake s k

/-- A herd's copy of a line is the only one of some bytes. -/
def dirtyLine (s : State) (h line : Nat) : Bool :=
  match SMap.get? (herdAt s h).lines line with | some l => l.expiry.isNone && l.marks != 0 | none => false

/-- A partial line of a herd's cache or of its victim buffer is poisoned: the only copy of its sums (R404). -/
def poisonPartial (s : State) (h line : Nat) : State :=
  let mark (p : Partial) : Partial := if p.line = line then { p with poisoned := true } else p
  modHerdAt s h (fun x => { x with parts := x.parts.map mark, victims := x.victims.map (fun v => { v with part := v.part.map mark }) })

/-- A herd holds a partial of a line. -/
def partialLine (s : State) (h line : Nat) : Bool :=
  (herdAt s h).parts.any (fun p => p.line == line) || (herdAt s h).victims.any (fun v => v.holds line)

/-- An uncorrectable error in a granule (R356, R402), by the UNIT codes of R410: 0 a register, 1 a buffer or, from 16384 on, its full/empty
bits, 2 a macro row and 3 the instruction store of core `key`, by their index; 4 a line of the herd cache of core `key`; 5 a dirty line of
L2, 6 a line of HBM or, of the OS complex memory, doubleword `key` of the line; 9 a clean line of L2 or of a base-die cache that core `key`
reads; 10 doubleword `key` of the state of sheet `addr` and 11 that of suffix slot `addr` (log 108).  A granule with an intact copy behind
it is dropped, and any other is poisoned. -/
def errorAt (s : State) (place key addr : Nat) : State :=
  match place with
  | 0 | 1 | 2 => poisonCore s key place addr
  | 3 =>
    if (coreAt s key).cacheMode then retryAt (modCoreAt s key (fun c => { c with ilines := c.ilines.filter (fun p => p.1 != addr) })) key
    else poisonCore s key 3 addr
  | 4 =>
    let h := herdOf key
    if partialLine s h addr then poisonPartial s h addr
    else if dirtyLine s h addr then poisonLine s { unit := 4, key := h, addr := addr }
    else if (SMap.get? (herdAt s h).lines addr).isSome then
      retryAt (modHerdAt s h (fun x => { x with lines := SMap.erase x.lines addr })) key
    else s
  | 5 | 6 => poisonLine s (memMark place (64 * addr + 8 * (key % 8)))
  | 9 => retryAt s key
  | 10 | 11 => poisonLine s (engineMark place addr key)
  | _ => s

/-- UNCORRECTABLE_ERROR (R356). -/
def execUncorrectableError (place key addr : Nat) (s : State) : Out := .next (errorAt s place key addr)

/-- MACRO_SCRUB (R403): macro `mac % 16` of a core is read, and its row `mac / 16 - 1` fails its parity; none does where that is
negative. -/
def execMacroScrub (core mac : Nat) (s : State) : Out :=
  .next (if mac % 16 < 12 && 16 ≤ mac && mac / 16 ≤ 128 && (vget (coreAt s core).macs MacroState.reset (mac % 16)).loaded
    then poisonCore s core 2 (128 * (mac % 16) + (mac / 16 - 1)) else s)

/-- A scrubber finds an uncorrectable error (R403): a clean copy is dropped, any other granule is poisoned. -/
def scrubError (s : State) (place key addr : Nat) : State :=
  match place with
  | 3 =>
    if (coreAt s key).cacheMode then modCoreAt s key (fun c => { c with ilines := c.ilines.filter (fun p => p.1 != addr) })
    else poisonCore s key 3 addr
  | 4 =>
    if partialLine s (herdOf key) addr || dirtyLine s (herdOf key) addr then errorAt s 4 key addr
    else modHerdAt s (herdOf key) (fun x => { x with lines := SMap.erase x.lines addr })
  | 9 => s
  | n => errorAt s n key addr

/-- A corrected error is counted on the die of core `key`, for a row of R402 (R403, R426). -/
def countCorrected (s : State) (row key : Nat) : State :=
  modDieAt s (dieOf key) (fun d => { d with corrected := vset d.corrected row (min (vget d.corrected 0 row + 1) (2 ^ 64 - 1)) })

/-- PATROL_SCRUB (R403): a granule is rewritten.  Places 0 to 8 name the row of R402 in which it corrects an error, 16 and above an
uncorrectable error in the place less 16; at any other it finds nothing. -/
def execPatrolScrub (place key addr : Nat) (s : State) : Out :=
  .next (if place < 9 then countCorrected s place key else if 16 ≤ place then scrubError s (place - 16) key addr else s)

/-! ### Containment rectangles (R406) -/

/-- A CRECT register is valid and holds a herd. -/
def crectHas (w : Word) (h : Nat) : Bool :=
  w.getLsbD 63 && bits w.toNat 4 0 ≤ h % 32 && h % 32 ≤ bits w.toNat 9 5 && bits w.toNat 14 10 ≤ h % 640 / 32 && h % 640 / 32 ≤ bits w.toNat 19 15

/-- The rectangle that holds a herd, in the layout of CRECT bits 19:0. -/
def zoneRect (s : State) (h : Nat) : Nat :=
  match (dieAt s (herdDie h)).crect.toList.find? (fun w => crectHas w h) with
  | some w => bits w.toNat 19 0
  | none => h % 640 / 32 * 2 ^ 15 + h % 640 / 32 * 2 ^ 10 + h % 32 * 2 ^ 5 + h % 32

/-- The enabled herds of the rectangle that holds a herd. -/
def zoneHerds (s : State) (h : Nat) : List Nat :=
  ((List.range 640).map (fun i => 640 * herdDie h + i)).filter (fun g => crectHas (word (2 ^ 63 + zoneRect s h)) g && enabledHerd s g)

/-! ### Containment (R407 to R411) -/

/-- The team from which a team descends through its parents; `fuel` bounds the depth. -/
def rootTeam : Nat → State → Nat → Nat
  | 0, _, tn => tn
  | fuel + 1, s, tn =>
    match teamAt s tn with
    | some t => (match t.src with | .kid _ parent _ _ => rootTeam fuel s parent | _ => tn)
    | none => tn

/-- A team works for the recalculation of a formula. -/
def formulaTeam (s : State) (tn : Nat) : Bool :=
  match teamAt s (rootTeam s.nextTeam s tn) with
  | some t => (match t.src with | .formula _ _ _ => true | _ => false)
  | none => false

/-- The herds of a rectangle that a team holds, in a twin team with the partners of their pairs (R411, R412). -/
def Team.inZone (t : Team) (zs : List Nat) : List Nat :=
  t.herds.filter (fun h => zs.contains h || (t.lb.twin && (zs.contains (if t.primaryHerd h then h + 1 else h - 1))))

/-- A team loses the herds of a contained rectangle (R375, R409): chunks return, partners outside are vacated, and, where it works for no
formula, the herds are to come back. -/
def loseZone (s : State) (zs : List Nat) (tn : Nat) : State :=
  match teamAt s tn with
  | none => s
  | some t =>
    let hs := t.inZone zs
    let out := (hs.filter (fun h => !zs.contains h)).flatMap (herdCores s)
    let s := out.foldl (fun s k => if (coreAt s k).vacatable then vacateCore s k else s) s
    let s := loseHerds s tn hs
    modTeamAt s tn (fun t => { t with
      range := { t.range with requests := t.range.requests.filter (fun k => !hs.contains (herdOf k)) }
      claimedBy := if formulaTeam s tn then t.claimedBy else t.claimedBy ++ [(containClaim, hs)] })

/-- The waiters of other banks without those of dropped cores. -/
def Core.dropWaiters (c : Core) (gone : Nat → Bool) : Core :=
  { c with
    deferred := (c.deferred.map (fun p => (p.1, p.2.filter (fun w => match w with
      | .take k => !gone k
      | .peek k => !gone k
      | .put k _ => !gone k)))).filter (fun p => !p.2.isEmpty)
    barWait := c.barWait.map (fun p => (p.1, p.2.filter (fun k => !gone k))) }

/-- A waiting write comes from inside a rectangle. -/
def WriteSrc.within (w : WriteSrc) (zs : List Nat) : Bool :=
  match w with
  | .core k => zs.contains (herdOf k)
  | .forward h => zs.contains h
  | .copy k _ => zs.contains (herdOf k)
  | .stv k _ => zs.contains (herdOf k)
  | .writeback h => zs.contains h
  | .suffix _ => false
  | .ring _ => false
  | .sheet => false
  | .outside => false

/-- Everything that the cores and herds of a rectangle have sent and that has not performed is dropped, and they reset (R407 steps 1
to 3). -/
def resetZone (s : State) (zs : List Nat) : State :=
  let gone (k : Nat) : Bool := zs.contains (herdOf k)
  let s := (zs.flatMap (herdCores s)).foldl leaveGroups s
  { s with
    cores := (s.cores.filter (fun p => !gone p.1)).map (fun p => (p.1, p.2.dropWaiters gone))
    herds := s.herds.filter (fun p => !zs.contains p.1)
    net := s.net.filter (fun m => !gone m.src)
    homes := s.homes.map (fun p => (p.1, { p.2 with
      waiting := p.2.waiting.filter (fun w => !w.src.within zs), holders := p.2.holders.filter (fun h => !zs.contains h) }))
    poison := s.poison.filter (fun m => !(m.unit == 4 && zs.contains m.key))
    publishes := s.publishes.filter (fun p => !gone p.core)
    streams := s.streams.map (fun p => (p.1, (p.2.subs.filter (fun x => gone x.1)).foldl Stream.drop p.2))
    dies := s.dies.map (fun d => { d with faults := d.faults.map (fun r => { r with
      cores := r.cores.filter (fun k => !gone k), jobs := r.jobs.filter (fun x => !gone x.1) }) }) }

/-- A team of a formula ends because of a containment (R409). -/
def endContained (s : State) (summary : Word) (tn : Nat) : State :=
  let s := modTeamAt s tn (fun t => { t with contained := some (t.contained.getD summary) })
  match teamAt s tn with
  | none => s
  | some t =>
    let s := endTeam s tn none
    if t.herds.isEmpty && t.placed then releaseTeam s tn t else s

/-- The containment record of a core's consumption (R410), its PHASE clear. -/
def containmentRecord (s : State) (k unit addr : Nat) : Nat :=
  let d := dieOf k
  (dieAt s d).clock % 2 ^ 64 * 2 ^ 192 + recordTeam s k % 2 ^ 16 * 2 ^ 176 + zoneRect s (herdOf k) * 2 ^ 156 + d * 2 ^ 153
    + xOf k * 2 ^ 147 + yOf k * 2 ^ 140 + unit * 2 ^ 136 + addr % 2 ^ 64

/-- The address that a containment record and a fault summary carry: for units 4 to 6 and 8 alone. -/
def containAddr (unit addr : Nat) : Nat := if (4 ≤ unit && unit ≤ 6) || unit = 8 then addr else 0

/-- A record with another TIME (R100). -/
def stamped (r time : Nat) : Nat := r % 2 ^ 192 + time % 2 ^ 64 * 2 ^ 192

/-- After the fault of a part the ring logic posts again a record that an event ring has posted once, with the TIME of this moment or that of
its first posting (R104; log 98). -/
def repost (s : State) (n i : Nat) (now : Bool) : State :=
  match (ringAt s n).posted[i]? with
  | none => s
  | some r =>
    if s.faulted then
      ringSend (setRing s n { ringAt s n with posted := (ringAt s n).posted.eraseIdx i }) n
        (if now then stamped r.toNat (ioClock s) else r.toNat)
    else s

/-- The rectangle of core k is contained (R407, R409, R410). -/
def contain (s : State) (k unit addr : Nat) : State :=
  let d := dieOf k
  let zs := zoneHerds s (herdOf k)
  let a := containAddr unit addr
  let record := containmentRecord s k unit a
  let summary := faultSummary k 32 (coreAt s k).rgncnt.toNat (word a)
  let hit := ((s.teams.filter (fun p => p.2.placed && p.2.herds.any (fun h => zs.contains h))).map (fun p => p.1))
  let roots := (hit.filter (formulaTeam s)).map (rootTeam s.nextTeam s)
  let family := (s.teams.filter (fun p => roots.contains (rootTeam s.nextTeam s p.1) && p.2.st != .ended && p.2.st != .failed)).map (fun p => p.1)
  let s := modDieAt s d (fun x => { x with
    containment := some { herds := zs }, consuming := x.consuming.filter (fun e => !zs.contains (herdOf e.1)) })
  let s := hit.foldl (fun s tn => loseZone s zs tn) s
  let s := resetZone s zs
  let s := family.foldl (fun s tn => endContained s summary tn) s
  ringPost { s with faulted := true } (66 + 2 * d) record

/-- The twins outside a core's rectangle whose partners lie in it can be vacated: an answer that one of them waits for comes first (R396,
R411). -/
def partnersReady (s : State) (k : Nat) : Bool :=
  let zs := zoneHerds s (herdOf k)
  (s.teams.filter (fun p => p.2.placed && p.2.lb.twin)).all (fun p =>
    ((p.2.inZone zs).filter (fun h => !zs.contains h)).all (fun h =>
      (herdCores s h).all (fun j => !(coreAt s j).active || (coreAt s j).vacatable)))

/-- A consumption by a core starts the containment of its rectangle, once none is in progress on its die. -/
def startContainment (s : State) (k : Nat) : Option State :=
  if (dieAt s (dieOf k)).containment.isSome || !partnersReady s k then none
  else match (dieAt s (dieOf k)).consuming.find? (fun e => e.1 == k) with
    | some (_, unit, addr) => some (contain s k unit addr)
    | none => none

/-- CONTAINMENT_START: by the core whose consumption it is. -/
def execContainmentStart (die x y : Nat) (s : State) : Out := happen s (startContainment s (coreKey die x y))

/-- CONTAINMENT_FENCE_LIFT (R407): every herd of the rectangle has reset. -/
def execContainmentFenceLift (die : Nat) (s : State) : Out := .next (modDieAt s die (fun d => { d with containment := none }))

/-- A router fails (R407): its rectangle is contained, and the die routes around it. -/
def failRouter (s : State) (k : Nat) : State :=
  let p := (xOf k, yOf k)
  let s := modDieAt s (dieOf k) (fun d => { d with failedRouters := if d.failedRouters.contains p then d.failedRouters else d.failedRouters ++ [p] })
  let s := consumeAt s k 7 0
  (startContainment s k).getD s

/-- ROUTER_FAILURE. -/
def execRouterFailure (die x y : Nat) (s : State) : Out :=
  .next (if die < 8 && x < 64 && y < 80 then failRouter s (coreKey die x y) else s)

/-! ### CRC failures (R34, R404, R415) -/

/-- The first transaction that waits at the home of a line, or else the next one that arrives there, fails its CRC: it is requested again
up to three times, and the fourth failure ends it (R34; log 129). -/
def failWrite (s : State) (line : Nat) : State :=
  if !(homeAt s line).waiting.isEmpty && (homeAt s line).crc = 3 then dropWrite s line
  else modHomeAt s line (fun y => { y with crc := min (y.crc + 1) 4 })

/-- TRANSACTION_CRC_FAIL. -/
def execTransactionCrcFail (line : Nat) (s : State) : Out := .next (failWrite s line)

/-- A read response at a core fails its CRC (R415): response i to the loads on its load path, or, behind them, the one that its fetch or its
waiting instruction asks for.  It is requested again up to three times, and then treated as an error with an intact copy behind it.  For a
copy unit or a walker, which no region holds, that is to read again: latency alone. -/
def failResponse (s : State) (k i : Nat) : State :=
  match (coreAt s k).loads[i]? with
  | none =>
    let c := coreAt s k
    if i ≠ c.loads.length ∨ c.run ≠ .running then s
    else if c.crc < 3 then modCoreAt s k (fun c => { c with crc := c.crc + 1 })
    else retryAt (modCoreAt s k (fun c => { c with crc := 0 })) k
  | some l =>
    let crcTo (n : Nat) : State := modCoreAt s k (fun c => { c with loads := c.loads.set i { l with crc := n } })
    if l.crc < 3 then crcTo (l.crc + 1) else retryAt (crcTo 0) k

/-- READ_RESPONSE_CRC_FAIL. -/
def execReadResponseCrcFail (core idx : Nat) (s : State) : Out := .next (failResponse s core idx)

/-- LINK_FLIT_ERROR (R34): the replay of a flit and the sparing of a lane change only latency. -/
def execLinkFlitError (_die _link : Nat) (_lane : Bool) (s : State) : Out := .next s

end Sys2Proof.Machine
end

