-- ==== Sys2Proof/Machine/Window.lean ====
section
/-!
DEFINITION. The command window (R422, R423): its channels, and the sheet and suffix commands that they carry.
-/

namespace Sys2Proof.Machine

/-! ### Channels (R422, R423) -/

/-- The channel with a number. -/
def channelAt (s : State) (ch : Nat) : Channel := SMap.getD s.channels Channel.reset ch
/-- The state with a channel changed. -/
def modChannelAt (s : State) (ch : Nat) (f : Channel → Channel) : State :=
  { s with channels := SMap.set s.channels ch (f (channelAt s ch)) }

/-- What a command comes to when it runs. -/
inductive Ran where
  /-- It finishes, with RES0 and, where the command writes it, RES1. -/
  | done (res0 : Word) (res1 : Option Word) (s : State)
  /-- It sets ERR and has no effect. -/
  | bad (err : Nat)
  /-- It goes on later. -/
  | wait (s : State)

/-- A channel at GO: it is busy with the operands that its registers hold, and its old answer is gone (log 42). -/
def Channel.begin_ (c : Channel) : Channel :=
  { c with busy := true, done := false, err := 0, res0 := 0, res1 := 0, given := some c.operands }

/-- GO of a channel whose command is `mine` (R423), or the next part of a command that has begun: a finished command waits for its
COMMAND_DONE, and a GO while BUSY is set is ignored.  `run` sees the channel as it was, with the operands of its GO. -/
def command (ch : Nat) (mine : Channel → Bool) (run : State → Nat → Channel → Ran) (s : State) : State :=
  let c := (channelAt s ch).seen
  if 33 ≤ ch || c.finished || !mine c then s
  else
    let s := modChannelAt s ch (fun c => { if c.busy then c else c.begin_ with carried := none })
    match run s ch c with
    | .done a b s' => modChannelAt s' ch (fun c => { c with res0 := a, res1 := b.getD c.res1, finished := true })
    | .bad e => modChannelAt s ch (fun c => { c with err := e, finished := true })
    | .wait s' => s'

/-- A command finishes (R420, R423): DONE is set after everything that it has written has performed, the slots that a bind zeroes and its
drafts line by line (R388) included, and vector 64 signals a supervisor function. -/
def commandEnds (s : State) (ch : Nat) : Option State :=
  let c := (channelAt s ch).seen
  if c.finished && engineWritten s (channelOwner ch) && (c.cls != 0 || sheetWritten s) then
    match draftsOf 0 (c.carried.getD []) with
    | [] =>
      let s := modChannelAt s ch (fun c => { c with busy := false, done := true, finished := false, given := none, carried := none })
      some (if c.cls = 2 then { s with raised := s.raised ++ [.vector 64] } else s)
    | ds =>
      let (s1, later) := sendDrafts s (channelOwner ch) ds
      some (modChannelAt s1 ch (fun c => { c with carried := some (draftCode later) }))
  else none

/-- COMMAND_DONE (R423). -/
def execCommandDone (ch : Nat) (s : State) : Out := happen s (commandEnds s ch)

/-- A write of the engine for a channel at a physical address of HBM. -/
def channelWrite (s : State) (ch a : Nat) (bs : SMap Byte) : State :=
  engineWrite s (channelOwner ch) { space := .mem, key := 0, addr := a } bs

/-- The n bytes at a physical address lie in HBM (R29). -/
def inHbm (a n : Nat) : Bool := a + n ≤ hbmEnd

/-- The bytes that an engine reads at a physical address for a channel. -/
def channelRead (s : State) (a n : Nat) : Option Nat := if inHbm a n then some (homeNat s a n) else none

/-! ### Sheet commands (R310 to R324, R423) -/

/-- The table of a channel with descriptors loaded from an entry on. -/
def loadChannel (s : State) (ch first : Nat) (ds : List Desc) : State :=
  modChannelAt s ch (fun c => { c with td := (ds.zipIdx).foldl (fun m d => SMap.set m (first + d.2) d.1) c.td })

/-- The engine reads in the address space of a sheet: through the root of its ASID, and at the address itself where no launch has named
one (log 29, log 73). -/
def sheetSpace (s : State) (n a k : Nat) : Option Nat :=
  match (sheetAt s n).bind (fun sh => SMap.get? s.roots sh.asid) with
  | some root => spaceRead s root a k
  | none => physRead s a k

/-- The descriptor and the launch block that a bind block names, which a channel gives by device physical address, lie in HBM, aligned or
not (R423). -/
def bindAreas (s : State) (w : Nat → Nat) (edit : Bool) : Bool :=
  (sheetAt s (bindBlock w).sheet).isNone || bindBad w edit || ((edit || inHbm (w 1) 64) && (w 2 == 0 || inHbm (w 2) 64))

/-- The physical ranges of what a launch block's list names, in the address space of a sheet, as far as it can be read. -/
def listRanges (s : State) (n : Nat) (l : List (Nat × Nat)) : List (Nat × Nat) :=
  match (sheetAt s n).bind (fun sh => SMap.get? s.roots sh.asid) with
  | some root => l.filterMap (fun x => match walk s x.1 3 root with | .ok pa _ => some (pa, x.2) | _ => none)
  | none => l

/-- What the engine reads for a bind or an edit of a channel is combined first (R127): the areas at physical addresses, and the rest in the
sheet's address space, with the table entries that lead there. -/
def bindCombine (s : State) (w : Nat → Nat) (edit : Bool) : State :=
  let n := (bindBlock w).sheet
  let areas := bindReads s (fun _ _ => none) w edit
  let rd (a k : Nat) : Option Nat := if areas.contains (a, k) then channelRead s a k else sheetSpace s n a k
  let list := (bindReads s rd w edit).drop areas.length
  let s := match (sheetAt s n).bind (fun sh => SMap.get? s.roots sh.asid) with
    | some root => list.foldl (fun s x => combineWalk s x.1 3 root) s
    | none => s
  physCombine s (areas ++ listRanges s n list)

/-- CBIND or CEDIT from a channel: the block, the descriptor and the launch block are read at physical addresses, and what the launch
block's list names in the sheet's address space. -/
def channelBind (edit : Bool) (op : BindOp) (s : State) (a : Nat) : Ran :=
  if !inHbm a 128 then .bad 2
  else if a % 64 ≠ 0 then .done (sheetWord shBADDESC 0 0) none s
  else
    let w (i : Nat) : Nat := homeNat s (a + 8 * i) 8
    if !bindAreas s w edit then .bad 2
    else
      let s := bindCombine (combineBytes s a 128) w edit
      let r := op s (channelRead s) (sheetSpace s (bindBlock w).sheet) w false false
      .done (sheetWord r.1 r.2.1 0) none r.2.2

/-- The doublewords of a session or fence block with N cells, of at most `most`. -/
def blockLength (w0 most : Nat) : Nat := let n := bits w0 39 32; if n = 0 ∨ most < n then 1 else 1 + (n + 1) / 2

/-- The first doubleword and the cells of a session or fence block at a physical address, or as the waiting command carries them (R310). -/
def channelCells (s : State) (c : Channel) (most : Nat) : Except Ran (Nat × List Nat) :=
  let a := c.arga.toNat
  match c.carried with
  | some (w0 :: cells) => .ok (w0, cells)
  | _ =>
    let w0 := homeNat s a 8
    let k := blockLength w0 most
    if !inHbm a 8 then .error (.bad 2)
    else if a % 64 ≠ 0 then .error (.done (sheetWord shBADDESC 0 0) none s)
    else if !inHbm a (8 * k) then .error (.bad 2)
    else .ok (w0, if k = 1 then [] else blockCells ((List.range k).map (fun i => homeNat s (a + 8 * i) 8)) (bits w0 39 32))

/-- The block of a session or fence command that does not carry it yet is combined as the engine reads it (R127). -/
def blockCombine (s : State) (c : Channel) (most : Nat) : State :=
  let a := c.arga.toNat
  match c.carried with
  | some (_ :: _) => s
  | _ =>
    let n := 8 * blockLength (homeNat s a 8) most
    if a % 64 = 0 ∧ inHbm a n = true then combineBytes s a n else s

/-- The channel's command waits with what it carries. -/
def keepChannel (s : State) (ch : Nat) (l : List Nat) : Ran := .wait (modChannelAt s ch (fun c => { c with carried := some l }))

/-- CWOPEN from a channel. -/
def channelOpen (s : State) (ch : Nat) (c : Channel) : Ran :=
  let me := channelOwner ch
  let s := blockCombine s c 64
  match channelCells s c 64 with
  | .error r => r
  | .ok (w0, cells) =>
    let s := noteWaiting s me none
    let n := bits w0 27 20
    if blockBad w0 64 cells || 256 < c.desc + cells.length then .done (sheetWord shBADDESC 0 0) none s
    else match openOp s me n cells with
      | .code x => .done (sheetWord x 0 0) none s
      | .wait => keepChannel (noteWaiting s me (some (n, cells))) ch (w0 :: cells)
      | .ok ds s' => .done (sheetWord shOK 0 0) none (loadChannel s' ch c.desc ds)

/-- CRD from a channel. -/
def channelCrd (s : State) (ch v : Nat) (c : Channel) : Ran :=
  let (hi, n, i) := packed c.arga
  if hi ≠ 0 then .done (word shNOCELL) (some 0) s
  else match crdOp s (channelOwner ch) v n i c.desc with
    | .code x => .done (word x) (some 0) s
    | .wait => .wait s
    | .ok addr ds s' => .done (word shOK) (some (word addr)) (loadChannel s' ch c.desc ds)

/-- CFENCE from a channel. -/
def channelFence (s : State) (ch v : Nat) (c : Channel) : Ran :=
  let s := blockCombine s c 16
  match channelCells s c 16 with
  | .error r => r
  | .ok (w0, cells) =>
    if blockBad w0 16 cells then .done (sheetWord shBADDESC 0 0) none s
    else match fenceCode s (channelOwner ch) v (bits w0 27 20) cells with
      | some x => .done (sheetWord x 0 0) none s
      | none => keepChannel s ch (w0 :: cells)

/-- A sheet command of a channel, by F<8:0> of its encoding (R184, R423). -/
def sheetCommand (s : State) (ch : Nat) (c : Channel) : Ran :=
  let me := channelOwner ch
  let v := c.fn / 2 ^ 5
  let (hi, n, i) := packed c.arga
  match c.fn % 2 ^ 5, v with
  | 0x00, 0 => channelBind false bindOp s c.arga.toNat
  | 0x01, 0 => channelBind true editOp s c.arga.toNat
  | 0x02, 0 =>
    let r := if hi ≠ 0 then (shNOCELL, s) else unbindOp s n i
    .done (sheetWord r.1 0 0) none r.2
  | 0x03, 0 => channelOpen s ch c
  | 0x04, 0 | 0x04, 1 =>
    if hi = 0 ∧ slotsQuiet s n me = false then .wait s
    else
      let r := if hi ≠ 0 then (shNOSHEET, 0, s) else publishOp s me n (v == 1)
      .done (sheetWord r.1 r.2.1 0) none r.2.2
  | 0x05, 0 =>
    if 64 ≤ c.desc then .bad 1
    else
      let r := appendPacked s me c.arga (c.desc + 1)
      .done (sheetWord r.1 0 0) none r.2
  | 0x06, 0 =>
    let r := if hi ≠ 0 then (shNOSHEET, 0, 0, s) else vopenOp s me n
    .done (sheetWord r.1 r.2.1 r.2.2.1) none r.2.2.2
  | 0x07, _ =>
    let r := vcloseOp s me v
    .done (sheetWord r.1 0 0) none r.2
  | 0x08, _ => channelCrd s ch v c
  | 0x09, _ => channelFence s ch v c
  | 0x0A, 0 =>
    let r := if hi ≠ 0 then (word shNOCELL, 0) else statOp s n i
    .done r.1 (some r.2) s
  | 0x0B, 0 =>
    let r := if c.arga1.toNat / 2 ^ 48 ≠ 0 then (shBADDESC, 0, s) else if hi ≠ 0 then (shNOSHEET, 0, s) else revokeOp s n c.arga1.toNat
    .done (sheetWord r.1 r.2.1 0) none r.2.2
  | _, _ => .bad 1

/-- CHANNEL_SHEET_COMMAND (R423). -/
def execChannelSheetCommand (ch : Nat) (s : State) : Out := .next (command ch (fun c => c.cls == 0) sheetCommand s)

/-! ### Suffix commands (R325 to R331, R423) -/

/-- When a channel's suffix command arrived at the engine (R384): now, unless it waits there already. -/
def channelArrival (s : State) (c : Channel) : Nat := match c.carried with | some (t :: _) => t | _ => s.suffix.arrivals

/-- A channel's command waits in its slot's queue (R331, R423). -/
def queueUp (s : State) (ch i : Nat) (c : Channel) : Ran :=
  let t := channelArrival s c
  keepChannel (modSuffix s (fun e => { e with arrivals := max e.arrivals (t + 1) })) ch [t, i]
/-- A channel's command waits in its slot's queue, or it is its turn. -/
def slotTurn (s : State) (ch i : Nat) (c : Channel) (b : Bool) (go : Ran) : Ran := if b then queueUp s ch i c else go

/-- The slot of a channel's command is not free for it yet. -/
def channelBusy (s : State) (ch i : Nat) (c : Channel) : Bool := slotBusy s (channelOwner ch) i (channelArrival s c)

/-- SXAPP from a channel. -/
def channelAppend (s : State) (ch : Nat) (c : Channel) : Ran :=
  let x := c.arga
  let b := c.argb.toNat
  let i := x.toNat % 2 ^ 14
  if sxappBad x then .done sxBADARG none s
  else
    let n := bits x.toNat 22 16
    if !inHbm b (4 * n) then .bad 2
    else if b % 4 ≠ 0 then .done sxBADARG none s
    else slotTurn s ch i c (channelBusy s ch i c) (
      let s := combineBytes s b (4 * n)
      let r := sxAppend s i (channelArrival s c) ((List.range n).map (fun j => homeNat s (b + 4 * j) 4))
      .done r.1 none r.2)

/-- SXQRY from a channel. -/
def channelQuery (s : State) (ch : Nat) (c : Channel) : Ran :=
  let i := c.arga.toNat
  let b := c.argb.toNat
  if 2 ^ 14 ≤ i then .done sxBADARG none s
  else slotTurn s ch i c (channelBusy s ch i c) (match sxSlot s i with
    | none => .done sxBADSLOT none s
    | some sl =>
      if !inHbm b (4 * parDmax sl.par) then .bad 2
      else if b % 4 ≠ 0 then .done sxBADARG none s
      else slotTurn s ch i c (!mailReady s i) (
        let s := physCombine s (mailReads s i sl.n (parDmax sl.par))
        let (v, ds, s) := sxQuery s (channelOwner ch) i (channelArrival s c) sl
        let places := (ds.zipIdx).map (fun p => (({ space := .mem, key := 0, addr := b + 4 * p.2 } : Place), p.1))
        .done v none (modChannelAt s ch (fun c => { c with carried := some (draftCode places) }))))

/-- SXSAVE from a channel. -/
def channelSave (s : State) (ch : Nat) (c : Channel) : Ran :=
  let x := c.arga
  let b := c.argb.toNat
  let i := x.toNat % 2 ^ 14
  let me := channelOwner ch
  if bits x.toNat 31 14 ≠ 0 then .done sxBADARG none s
  else if channelBusy s ch i c then queueUp (noteSave s me i (channelArrival s c)) ch i c
  else
    let sl? := savedSlot s me i (channelArrival s c)
    let s := dropSave s me
    match sl? with
    | none => .done sxBADSLOT none s
    | some sl =>
      if x.toNat / 2 ^ 32 < sl.size then .done sxSHORT none s
      else if !inHbm b sl.size then .bad 2
      else if b % 64 ≠ 0 then .done sxBADARG none s
      else
        let ps := (List.range ((sl.size + 63) / 64)).map (fun j =>
          (({ space := .mem, key := 0, addr := b + 64 * j } : Place), min 64 (sl.size - 64 * j)))
        .done (word sl.size) none (saveArea s me sl ps)

/-- SXLOAD from a channel. -/
def channelLoad (s : State) (ch b : Nat) : Ran :=
  if !inHbm b 64 then .bad 2
  else if b % 64 ≠ 0 then .done sxBADARG none s
  else
    let s := combineBytes s b 64
    let w (i : Nat) : Nat := homeNat s (b + 8 * i) 8
    if areaBad w then .done sxBADARG none s
    else if !inHbm b (64 + 4 * (w 1 - w 2)) then .bad 2
    else
      let s := combineBytes s b (64 + 4 * (w 1 - w 2))
      let r := sxLoad s (channelOwner ch) w ((List.range (w 1 - w 2)).map (fun j => homeNat s (b + 64 + 4 * j) 4))
      .done r.1 none r.2

/-- A suffix command of a channel, by F<4:0> of its encoding (R325, R423). -/
def suffixCommand (s : State) (ch : Nat) (c : Channel) : Ran :=
  let x := c.arga
  let i := x.toNat
  match c.fn with
  | 0x00 => let r := sxOpen s (channelOwner ch) x; .done r.1 none r.2
  | 0x01 => channelAppend s ch c
  | 0x02 => channelQuery s ch c
  | 0x03 => channelSave s ch c
  | 0x04 => channelLoad s ch c.argb.toNat
  | 0x05 =>
    if i / 2 ^ 14 ≠ 0 then .done sxBADARG none s
    else slotTurn s ch i c (channelBusy s ch i c) (
      let r := sxFree s (channelOwner ch) i (channelArrival s c)
      .done r.1 none r.2)
  | 0x06 =>
    if i / 2 ^ 14 ≠ 0 then .done sxBADARG (some 0) s
    else slotTurn s ch i c (statBusy s (channelOwner ch) i (channelArrival s c)) (
      let r := sxStat s i
      .done r.1 (some r.2) (if (sxSlot s i).isSome then physCombine s ((mailReads s i 0 0).take 1) else s))
  | _ => .bad 1

/-- CHANNEL_SUFFIX_COMMAND (R423). -/
def execChannelSuffixCommand (ch : Nat) (s : State) : Out := .next (command ch (fun c => c.cls == 1) suffixCommand s)

end Sys2Proof.Machine
end

