-- ==== Sys2Proof/Machine/Supervisor.lean ====
section
/-!
DEFINITION. The supervisor functions of the command window (R424, R426, R428, R430, R431).
-/

namespace Sys2Proof.Machine

/-- The answer −1: what a function names does not exist, or it is refused (R424). -/
def noSuch (s : State) : Ran := .done (-1) none s
/-- The answer 0 of a function without a value: OK (R72). -/
def okay (s : State) : Ran := .done 0 none s

/-- A channel carries a supervisor function. -/
def Channel.isFn (c : Channel) (n : Nat) : Bool := c.cls == 2 && c.fn == n

/-! ### Sheets (R424) -/

/-- SHEETNEW: a sheet with an arena and an error ring. -/
def sheetNew (s : State) (_ch : Nat) (c : Channel) : Ran :=
  let a := c.arga.toNat
  let base := c.argb.toNat
  let size := c.argd.toNat
  if (SMap.get? s.sheets (bits a 7 0)).isSome then .done (word shBUSY) none s
  else if base % 65536 ≠ 0 ∨ size % 65536 ≠ 0 ∨ size = 0 ∨ 2 ^ 36 < size ∨ 2 ^ 52 < base + size then .done (word shBADDESC) none s
  else .done (word shOK) none (setSheetAt (cleanEngine s 10 (bits a 7 0)) (bits a 7 0)
    { asid := bits a 23 8, errRing := bits a 29 24, base := base, size := size, alloc := [], gen := 0, cells := [], sessions := []
      views := [], marking := [], waiting := [], deleting := false })

/-- SHEETNEW. -/
def execSheetnew (ch : Nat) (s : State) : Out := .next (command ch (fun c => c.isFn 0x00) sheetNew s)

/-- SHEETDEL: it is done once the sheet is gone. -/
def sheetDel (s : State) (_ch : Nat) (c : Channel) : Ran :=
  let n := bits c.arga.toNat 7 0
  if c.busy then (if (SMap.get? s.sheets n).isSome then .wait s else .done (word shOK) none s)
  else
    let r := deleteOp s n
    if r.1 ≠ shOK ∨ (SMap.get? r.2.sheets n).isNone = true then .done (word r.1) none r.2 else .wait r.2

/-- SHEETDEL. -/
def execSheetdel (ch : Nat) (s : State) : Out := .next (command ch (fun c => c.isFn 0x01) sheetDel s)

/-! ### Teams (R85, R362, R382, R424) -/

/-- The lines of a launch block at a physical address, and of what its list names in the space of a root table, are combined as they are
read (R127); a list is read by doublewords, the block and the descriptors whole. -/
def launchCombine (s : State) (root a : Nat) : State :=
  let s := combineBytes s a 64
  let rd (b k : Nat) : Option Nat := if k = 64 then channelRead s b k else spaceRead s root b k
  spaceCombine s root ((launchReads rd a).drop 1)

/-- LAUNCH: the block is read at its physical address, and what its list names in the space of the root table (R363); a block address that
HBM does not decode sets ERR 2 (R422). -/
def launchTask (s : State) (_ch : Nat) (c : Channel) : Ran :=
  if inHbm c.arga.toNat 64 = false then .bad 2
  else
  let s := launchCombine s c.argd.toNat c.arga.toNat
  match readLaunch (channelRead s) (spaceRead s c.argd.toNat) false 5120 c.arga.toNat with
  | .error _ => .done (-1) none s
  | .ok lb =>
    let asid := bits c.argb.toNat 15 0
    let (n, s) := addTask { s with roots := SMap.set s.roots asid c.argd.toNat } (fun a =>
      newTeam .supervisor lb asid c.argd.toNat 0 0 (taskLevel lb.prio false false) a)
    .done (word n) none s

/-- LAUNCH. -/
def execLaunch (ch : Nat) (s : State) : Out := .next (command ch (fun c => c.isFn 0x02) launchTask s)

/-- TEAMEND: it is done once the team holds no herds. -/
def teamEnd (s : State) (_ch : Nat) (c : Channel) : Ran :=
  let n := c.arga.toNat
  let s := if c.busy then s else endTeam s n (if c.argb = 0 then none else some c.argd)
  match teamAt s n with
  | none => noSuch s
  | some t => if t.placed && !t.herds.isEmpty then .wait s else okay s

/-- TEAMEND. -/
def execTeamend (ch : Nat) (s : State) : Out := .next (command ch (fun c => c.isFn 0x03) teamEnd s)

/-- STATE of TEAMSTAT. -/
def TeamState.code : TeamState → Nat
  | .queued => 0
  | .starting => 1
  | .running => 2
  | .swapped => 3
  | .ending => 4
  | .ended => 5
  | .failed => 6

/-- TEAMSTAT of a team (R382). -/
def Team.stat (t : Team) : Word :=
  word (t.swaps * 2 ^ 40 + t.resizes * 2 ^ 24 + (if t.clamp then 2 ^ 15 else 0) + (if t.urgent then 2 ^ 14 else 0) + t.level % 4 * 2 ^ 12 + t.st.code)

/-- TEAMSTAT without a write. -/
def teamStat (s : State) (_ch : Nat) (c : Channel) : Ran :=
  match teamAt s c.arga.toNat with
  | none => noSuch s
  | some t => .done t.stat none s

/-- TEAMSTAT_READ. -/
def execTeamstatRead (ch : Nat) (s : State) : Out := .next (command ch (fun c => c.isFn 0x04 && !c.argd.getLsbD 0) teamStat s)

/-- TEAMSTAT with a write: CLAMP is cleared by a 1, URGENT is written. -/
def teamStatSet (s : State) (_ch : Nat) (c : Channel) : Ran :=
  match teamAt s c.arga.toNat with
  | none => noSuch s
  | some t => .done t.stat none (modTeamAt s c.arga.toNat (fun t =>
      { t with clamp := t.clamp && !c.argb.getLsbD 15, urgent := c.argb.getLsbD 14 }))

/-- TEAMSTAT_WRITE. -/
def execTeamstatWrite (ch : Nat) (s : State) : Out := .next (command ch (fun c => c.isFn 0x04 && c.argd.getLsbD 0) teamStatSet s)

/-! ### Translation (R352, R355) -/

/-- A translation of an address space and a range of pages. -/
def inShoot (asid first last : Nat) (e : Nat × Nat × Nat × Nat) : Bool := e.1 == asid && first ≤ e.2.1 && e.2.1 ≤ last

/-- What a core's command at the suffix engine has translated has performed (R328, R329, R396): the writes at their homes, the drafts that
have not been sent, and the tokens that a waiting SXAPP has brought. -/
def suffixDrained (s : State) (k : Nat) : Bool :=
  let c := coreAt s k
  engineWritten s k && (c.wait != some .reply || (match c.reply with
    | some _ => (draftsOf k (c.carried.getD [])).isEmpty
    | none => (broughtPlaces k ((c.carried.getD []).drop 2)).isEmpty))

/-- Every access of the cores of an address space, and of the engines for them and for its sheets, has performed. -/
def spaceDrained (s : State) (asid : Nat) : Bool :=
  (sheetWritten s || s.sheets.all (fun p => p.2.asid != asid)) && s.cores.all (fun p =>
    (match p.2.team.bind (teamAt s) with | some t => t.asid != asid | none => true)
      || (p.2.rbuf.isEmpty && p.2.issuing.isEmpty && p.2.cq.isEmpty && p.2.loads.isEmpty && p.2.walks.isEmpty && p.2.extern.isEmpty
        && (herdAt s (herdOf p.1)).forwards.all (fun f => f.core != p.1) && jobWritesDone s p.1 && suffixDrained s p.1))

/-- SHOOT: no TLB and no translation cache keeps the translations, and it is done once every access that used one has performed. -/
def shootDown (s : State) (_ch : Nat) (c : Channel) : Ran :=
  let asid := c.arga.toNat
  let first := c.argb.toNat / 2 ^ 16
  let last := (c.argb.toNat + (c.argd.toNat - 1)) / 2 ^ 16
  let keep (l : List (Nat × Nat × Nat × Nat)) : List (Nat × Nat × Nat × Nat) := l.filter (fun e => !inShoot asid first last e)
  let s := if c.argd = 0 then s else { s with
    herds := s.herds.map (fun p => (p.1, { p.2 with tlb := keep p.2.tlb })), dies := s.dies.map (fun d => { d with tcache := keep d.tcache }) }
  if spaceDrained s asid then okay s else .wait s

/-- SHOOT. -/
def execShoot (ch : Nat) (s : State) : Out := .next (command ch (fun c => c.isFn 0x05) shootDown s)

/-- A core that sleeps on a fault record resumes (R355). -/
def resumeFault (s : State) (k : Nat) : State :=
  modCoreAt s k (fun c => { c with run := .running, faultSleep := none, stalled := false })

/-- A core that sleeps on a fault record takes the page fault (R355). -/
def refuseFault (s : State) (k : Nat) : State :=
  match (coreAt s k).faultSleep with
  | none => s
  | some f =>
    match f.regPc with
    | some pc =>
      let s := modCoreAt (resumeFault s k) k (fun c => { c with pendingRegion := none })
      modCoreAt (takeTrap s k f.cause f.va false f.resume) k (fun c => { c with tregpc := pc })
    | none => takeTrap (resumeFault s k) k f.cause f.va false f.resume

/-- FAULTEND: 0 RESOLVED, 1 REFUSED. -/
def faultEnd (s : State) (_ch : Nat) (c : Channel) : Ran :=
  let d := bits c.arga.toNat 18 16
  let mine (r : FaultRecord) : Bool := r.team % 65536 == bits c.arga.toNat 15 0 && r.vpn == c.argb.toNat
  match (dieAt s d).faults.find? mine with
  | none => noSuch s
  | some r =>
    if 1 < c.argd.toNat then noSuch s
    else
      let s := modDieAt s d (fun x => { x with faults := x.faults.erase r })
      okay (if c.argd = 0 then
          r.jobs.foldl (fun s x => modJobAt s x.1 x.2 (fun j => { j with fault := none })) (r.cores.foldl resumeFault s)
        else r.jobs.foldl (fun s x => endJob s x.1 x.2 2) (r.cores.foldl refuseFault s))

/-- FAULTEND. -/
def execFaultend (ch : Nat) (s : State) : Out := .next (command ch (fun c => c.isFn 0x06) faultEnd s)

/-! ### Queues and registers of a die (R354, R377, R410, R426) -/

/-- The number of a die's queue as a ring: 0 fault, 1 containment, 2 kid. -/
def queueRing (kind d : Nat) : Nat := if kind = 0 then 65 + 2 * d else if kind = 1 then 66 + 2 * d else 96 + d

/-- QPLACE: the queue stands empty at its base, and records that wait on chip go to it. -/
def queuePlace (s : State) (_ch : Nat) (c : Channel) : Ran :=
  let kind := bits c.arga.toNat 1 0
  let d := bits c.arga.toNat 10 8
  let n := queueRing kind d
  let r := ringAt s n
  let holds : Bool := if kind = 2 then !(dieAt s d).kidWait.isEmpty else r.placed && (r.prod != r.cons || !r.held.isEmpty)
  let base := c.argb.toNat
  let size := c.argd.toNat
  if kind = 3 ∨ holds = true ∨ base % 65536 ≠ 0 ∨ size < 6 ∨ 20 < size ∨ inHbm base (32 * 2 ^ size) = false then noSuch s
  else okay (ringRelease r.held.length (setRing s n { r with base := base, size := size, prod := 0, cons := 0, placed := true }) n)

/-- QPLACE. -/
def execQplace (ch : Nat) (s : State) : Out := .next (command ch (fun c => c.isFn 0x07) queuePlace s)

/-- A register of a die (R426); none for a number that names none. -/
def dieReg (d : Die) (n : Nat) : Option Nat :=
  if n < 0x20 then some (vget d.crect 0 n).toNat
  else if n = 0x20 then some d.lease
  else if n = 0x21 then some d.aging
  else if n = 0x22 then some d.stagger
  else if n = 0x23 then some d.spill
  else if n ≤ 0x2B then some (vget d.keep 0 (n - 0x24)).toNat
  else if n = 0x2C then some d.tvecdef.toNat
  else if 0x30 ≤ n ∧ n ≤ 0x38 then some (vget d.corrected 0 (n - 0x30))
  else none

/-- DIEREG without a write. -/
def dieRead (s : State) (_ch : Nat) (c : Channel) : Ran :=
  match dieReg (dieAt s (bits c.arga.toNat 2 0)) (bits c.arga.toNat 15 8) with
  | some v => .done (word v) none s
  | none => noSuch s

/-- DIEREG_READ. -/
def execDieregRead (ch : Nat) (s : State) : Out := .next (command ch (fun c => c.isFn 0x08 && !c.argd.getLsbD 0) dieRead s)

/-- The corners of a CRECT value: first and last column, first and last row. -/
def crectX0 (w : Nat) : Nat := bits w 4 0
/-- HX1. -/
def crectX1 (w : Nat) : Nat := bits w 9 5
/-- HY0. -/
def crectY0 (w : Nat) : Nat := bits w 14 10
/-- HY1. -/
def crectY1 (w : Nat) : Nat := bits w 19 15

/-- Two rectangles share a herd. -/
def crectMeet (a b : Nat) : Bool := crectX0 a ≤ crectX1 b && crectX0 b ≤ crectX1 a && crectY0 a ≤ crectY1 b && crectY0 b ≤ crectY1 a

/-- A value may be written to CRECT register n of a die (R406). -/
def crectOk (d : Die) (n v : Nat) : Bool :=
  v / 2 ^ 63 % 2 == 0
    || (crectX0 v ≤ crectX1 v && crectY0 v ≤ crectY1 v && crectY1 v ≤ 19
      && (List.range 32).all (fun i => i == n || !(vget d.crect 0 i).getLsbD 63 || !crectMeet v (vget d.crect 0 i).toNat))

/-- The die after a write of a register; none where it is refused (R426). -/
def dieRegSet (s : State) (d : Die) (n : Nat) (w : Word) : Option Die :=
  let v := w.toNat
  if n < 0x20 then (if crectOk d n v then some { d with crect := vset d.crect n (word (v / 2 ^ 63 % 2 * 2 ^ 63 + v % 2 ^ 20)) } else none)
  else if n = 0x20 then (if 16 ≤ v ∧ v ≤ 255 then some { d with lease := v } else none)
  else if n = 0x21 then (if 10 ≤ v ∧ v ≤ 24 then some { d with aging := v } else none)
  else if n = 0x22 then (if 1 ≤ v ∧ v ≤ 64 then some { d with stagger := v } else none)
  else if n = 0x23 then (if v ≤ 1024 ∧ s.ranges.isEmpty = true then some { d with spill := v } else none)
  else if n = 0x2C then (if v % 4 = 0 then some { d with tvecdef := w } else none)
  else none

/-- DIEREG with a write: a CRECT register waits for a containment in progress on its die (R406). -/
def dieWrite (s : State) (_ch : Nat) (c : Channel) : Ran :=
  let d := bits c.arga.toNat 2 0
  let n := bits c.arga.toNat 15 8
  if n < 0x20 ∧ (dieAt s d).containment.isSome = true then .wait s
  else match dieReg (dieAt s d) n, dieRegSet s (dieAt s d) n c.argb with
    | some old, some x => .done (word old) none (modDieAt s d (fun _ => x))
    | _, _ => noSuch s

/-- DIEREG_WRITE. -/
def execDieregWrite (ch : Nat) (s : State) : Out := .next (command ch (fun c => c.isFn 0x08 && c.argd.getLsbD 0) dieWrite s)

/-- QSLICE (R359). -/
def sliceSet (s : State) (_ch : Nat) (c : Channel) : Ran :=
  let q := c.argb.toNat
  if q = 0 ∨ 2 ^ 32 ≤ q then noSuch s else okay { s with slices := vset s.slices (bits c.arga.toNat 1 0) q }

/-- QSLICE. -/
def execQslice (ch : Nat) (s : State) : Out := .next (command ch (fun c => c.isFn 0x09) sliceSet s)

/-! ### The suffix engine (R385, R391, R394) -/

/-- The index region: 1 to 128 GiB. -/
def indexPlace (s : State) (_ch : Nat) (c : Channel) : Ran :=
  let a := c.argb.toNat
  let n := c.argd.toNat
  if !s.suffix.slots.isEmpty || a % 2 ^ 30 != 0 || n == 0 || 128 < n || !inHbm a (n * 2 ^ 30) then noSuch s
  else okay (modSuffix s (fun e => { e with index := some (a, n) }))

/-- SUFFIX_INDEX_PLACE. -/
def execSuffixIndexPlace (ch : Nat) (s : State) : Out := .next (command ch (fun c => c.isFn 0x0A && c.arga == 0) indexPlace s)

/-- The mailbox array: 8 MiB. -/
def mailboxPlace (s : State) (_ch : Nat) (c : Channel) : Ran :=
  let a := c.argb.toNat
  if !s.suffix.slots.isEmpty || a % 2 ^ 23 != 0 || !inHbm a (2 ^ 23) then noSuch s
  else okay (modSuffix s (fun e => { e with mailbox := some a }))

/-- SUFFIX_MAILBOX_PLACE. -/
def execSuffixMailboxPlace (ch : Nat) (s : State) : Out := .next (command ch (fun c => c.isFn 0x0A && c.arga == 1) mailboxPlace s)

/-- The ring of the engine. -/
def suffixRing (s : State) (_ch : Nat) (c : Channel) : Ran :=
  if !s.suffix.slots.isEmpty || 64 ≤ c.argb.toNat then noSuch s else okay (modSuffix s (fun e => { e with ring := some c.argb.toNat }))

/-- SUFFIX_RING_ASSIGN. -/
def execSuffixRingAssign (ch : Nat) (s : State) : Out := .next (command ch (fun c => c.isFn 0x0A && c.arga == 2) suffixRing s)

/-! ### Power, doorbells and groups (R207, R299, R301, R431) -/

/-- POWER: the cap, and the grant that follows from it. -/
def powerSet (s : State) (_ch : Nat) (c : Channel) : Ran :=
  let p := c.argb.toNat
  if p < 1000 ∨ 2800 < p then noSuch s
  else
    let m := s.mgmt
    okay (arbitrate { s with mgmt := { m with cap := p, effCap := if m.effCap = m.cap then p else min m.effCap p } })

/-- POWER. -/
def execPower (ch : Nat) (s : State) : Out := .next (command ch (fun c => c.isFn 0x0B) powerSet s)

/-- DOORBELL: interrupt 1 is pending, and EVSTAT.WAKE is set. -/
def ringDoorbell (s : State) (_ch : Nat) (c : Channel) : Ran :=
  match coreOfLoc s c.arga.toNat with
  | none => noSuch s
  | some k => okay (modCoreAt (setEvent s k 2) k (fun c => { c with doorbell := true, stalled := false }))

/-- DOORBELL. -/
def execDoorbell (ch : Nat) (s : State) : Out := .next (command ch (fun c => c.isFn 0x0C) ringDoorbell s)

/-- WBGROUP: a group is assigned to a team, or freed; it is joined with the groups of its number that the team has on other dies, and
counts with them. -/
def groupAssign (s : State) (_ch : Nat) (c : Channel) : Ran :=
  let d := bits c.arga.toNat 2 0
  let g := bits c.arga.toNat 11 8
  let t := c.argb.toNat
  if t ≠ 0 ∧ (teamAt s t).isNone = true then noSuch s
  else
    let joined := (List.range 8).find? (fun e => t != 0 && e != d && (groupAt s e g).team == t)
    okay (modGroupAt s d g (fun x =>
      { team := t, counter := match joined with | some e => (groupAt s e g).counter | none => x.counter
        members := if x.team = t then x.members else [] }))

/-- WBGROUP. -/
def execWbgroup (ch : Nat) (s : State) : Out := .next (command ch (fun c => c.isFn 0x0D) groupAssign s)

/-! ### BOOT (R428) -/

/-- The team that BOOT makes of a die: its block has the entry, the descriptor as ARGS and every buffer claimed. -/
def bootTeam (s : State) (d : Nat) (entry desc : Word) : Team :=
  let r : Rect := { die := d, x := 0, y := 0, w := 32, h := 20 }
  let lb : LaunchBlock :=
    { entry := entry, args := desc, slices := 0, quota := 0, rgnlim := 4, chunk := 0, prio := 0, twin := false, claim := 7, hmax := 640, hmin := 1
      clock := 0, tds := [] }
  { newTeam (.boot d) lb 0 0 0 0 0 s.arrivals with
    st := .running, rects := [r], herds := rectsHerds s [r], order := s.arrivals, tvecs := s.dies.map (fun d => d.tvecdef) }

/-- Every enabled core of a die starts in supervisor mode. -/
def bootDie (s : State) (d : Nat) (entry desc : Word) : State :=
  let t := bootTeam s d entry desc
  let ks := t.threads s
  let s := saveKept s d t.lb.claim t.herds
  let s := { s with teams := SMap.set s.teams d t, arrivals := s.arrivals + 1 }
  let s := t.herds.foldl (fun s h => modHerdAt s h (fun x => { x with lines := [], clkg := 0 })) s
  let s := initCores (arbitrate s) d t ks
  ks.foldl (fun s k => modCoreAt s k (fun c => { c with run := .running })) s

/-- BOOT: refused where a core of the die belongs to a team, the herds of a team that is coming to start included, and where the compute
dies have no power. -/
def bootOp (s : State) (_ch : Nat) (c : Channel) : Ran :=
  let d := c.arga.toNat
  if 8 ≤ d ∨ s.mgmt.stage = .shutdown ∨ s.cores.any (fun p => dieOf p.1 == d && p.2.team.isSome) = true
      ∨ (heldHerds s).any (fun h => herdDie h == d) = true then noSuch s
  else okay (bootDie s d c.argb c.argd)

/-- BOOT. -/
def execBoot (ch : Nat) (s : State) : Out := .next (command ch (fun c => c.isFn 0x0E) bootOp s)

/-! ### DEBUG (R430) -/

/-- The doubleword that follows the register section. -/
def debugTail (c : Core) : Nat :=
  Config.debugWord c.rbuf.length c.committedEntries.length (match c.region with | some r => r.entry | none => 0)

/-- The state of a stopped core written at a physical address. -/
def writeDebug (s : State) (ch k a : Nat) : State :=
  let s := (List.range 512).foldl (fun s i => channelWrite s ch (a + 8 * i) (leBytes (ctxWord s k (8 * i)) 8)) s
  channelWrite s ch (a + 4096) (leBytes (debugTail (coreAt s k)) 8)

/-- A core halts at the start of a Step: a wait that an interrupt ends is withdrawn, and no region is discarded. -/
def stopCore (s : State) (k : Nat) : State :=
  let s := if (coreAt s k).wait = some .bank then withdraw s k else s
  let s := if (coreAt s k).faultSleep.isSome then leaveFault s k else s
  modCoreAt s k (fun c => { c with
    run := .stopped, terminating := false, wait := none, reply := none, command := none, carried := none, crc := 0, twinAt := none
    twinOk := false, stalled := false })

/-- The core is at the start of a Step, or will be once its wait is withdrawn. -/
def Core.stoppable (c : Core) : Bool :=
  c.wait != some .reply && c.wait != some .stores && !(c.wait == some .bank && c.reply.isSome)

/-- DEBUG stop: the core stops, and its state is written once the loads that it has issued have written their registers (R188). -/
def debugHalt (s : State) (ch : Nat) (c : Channel) : Ran :=
  match coreOfLoc s c.arga.toNat with
  | none => noSuch s
  | some k =>
    let a := c.argd.toNat
    if !(coreAt s k).active || a % 8 != 0 || !inHbm a 4104 then noSuch s
    else if !(coreAt s k).stoppable || contained s k then .wait s
    else
      let s := stopCore s k
      if (coreAt s k).loads.isEmpty then okay (writeDebug s ch k a) else .wait s

/-- DEBUG_STOP. -/
def execDebugStop (ch : Nat) (s : State) : Out := .next (command ch (fun c => c.isFn 0x0F && c.argb == 0) debugHalt s)

/-- DEBUG resume: refused where the core is not stopped. -/
def debugGo (s : State) (_ch : Nat) (c : Channel) : Ran :=
  match coreOfLoc s c.arga.toNat with
  | none => noSuch s
  | some k =>
    if (coreAt s k).run = .stopped then okay (modCoreAt s k (fun c => { c with run := .running, stalled := false })) else noSuch s

/-- DEBUG_RESUME. -/
def execDebugResume (ch : Nat) (s : State) : Out := .next (command ch (fun c => c.isFn 0x0F && c.argb == 1) debugGo s)

/-- DEBUG step: the stopped core's next turn is one Step, and the command is done after it. -/
def debugOne (s : State) (_ch : Nat) (c : Channel) : Ran :=
  match coreOfLoc s c.arga.toNat with
  | none => noSuch s
  | some k =>
    if c.busy then (if s.agenda.contains (.single k) then .wait s else okay s)
    else if (coreAt s k).run = .stopped then .wait { s with agenda := .single k :: s.agenda }
    else noSuch s

/-- DEBUG_STEP. -/
def execDebugStep (ch : Nat) (s : State) : Out := .next (command ch (fun c => c.isFn 0x0F && c.argb == 2) debugOne s)

/-! ### Retention and peers (R240, R418) -/

/-- RETAIN with the operands of R240. -/
def windowRetain (s : State) (_ch : Nat) (c : Channel) : Ran :=
  let r := retainOp s c.arga.toNat c.argb.toNat (c.argd.toNat % 16)
  .done r.1 none r.2

/-- SV_RETAIN. -/
def execSvRetain (ch : Nat) (s : State) : Out := .next (command ch (fun c => c.isFn 0x10) windowRetain s)

/-- UNRETAIN with the operands of R240. -/
def windowUnretain (s : State) (_ch : Nat) (c : Channel) : Ran := okay (unretainOp s c.arga.toNat)

/-- SV_UNRETAIN. -/
def execSvUnretain (ch : Nat) (s : State) : Out := .next (command ch (fun c => c.isFn 0x11) windowUnretain s)

/-- PEERSET fills the peer table; which peers have an entry then is a free value (log 38). -/
def peerSet (s : State) (_ch : Nat) (c : Channel) : Ran :=
  okay { s with peers := (Config.peerTable s.free c.arga c.argb c.argd).filter (fun n => n < 64), free := s.free + 1 }

/-- PEERSET. -/
def execPeerset (ch : Nat) (s : State) : Out := .next (command ch (fun c => c.isFn 0x12) peerSet s)

/-! ### GO (R422, R423) -/

/-- A supervisor function of a channel, by FN. -/
def supervisorCommand (s : State) (ch : Nat) (c : Channel) : Ran :=
  match c.fn with
  | 0x00 => sheetNew s ch c
  | 0x01 => sheetDel s ch c
  | 0x02 => launchTask s ch c
  | 0x03 => teamEnd s ch c
  | 0x04 => if c.argd.getLsbD 0 then teamStatSet s ch c else teamStat s ch c
  | 0x05 => shootDown s ch c
  | 0x06 => faultEnd s ch c
  | 0x07 => queuePlace s ch c
  | 0x08 => if c.argd.getLsbD 0 then dieWrite s ch c else dieRead s ch c
  | 0x09 => sliceSet s ch c
  | 0x0A => if c.arga = 0 then indexPlace s ch c else if c.arga = 1 then mailboxPlace s ch c
      else if c.arga = 2 then suffixRing s ch c else noSuch s
  | 0x0B => powerSet s ch c
  | 0x0C => ringDoorbell s ch c
  | 0x0D => groupAssign s ch c
  | 0x0E => bootOp s ch c
  | 0x0F => if c.argb = 0 then debugHalt s ch c else if c.argb = 1 then debugGo s ch c
      else if c.argb = 2 then debugOne s ch c else noSuch s
  | 0x10 => windowRetain s ch c
  | 0x11 => windowUnretain s ch c
  | 0x12 => peerSet s ch c
  | _ => .bad 1

/-- The command of a channel, whatever its class. -/
def anyCommand (s : State) (ch : Nat) (c : Channel) : Ran :=
  match c.cls with
  | 0 => sheetCommand s ch c
  | 1 => suffixCommand s ch c
  | 2 => supervisorCommand s ch c
  | _ => .bad 1

/-- A write of GO on a channel (R422). -/
def goChannel (s : State) (ch : Nat) : State := if (channelAt s ch).busy then s else command ch (fun _ => true) anyCommand s

/-- A command that has begun goes on, if it can finish. -/
def continueChannel (s : State) (ch : Nat) : Option State :=
  let c := (channelAt s ch).seen
  if !c.busy || c.finished then none
  else match anyCommand s ch c with
    | .wait _ => none
    | _ => some (command ch (fun _ => true) anyCommand s)

end Sys2Proof.Machine
end

