-- ==== Sys2Proof/Machine/HostPort.lean ====
section
/-!
DEFINITION. The registers of the command window, the part description, the host port, boot, attestation and the board (R102, R103, R420,
R422, R425, R427, R429, R431).
-/

namespace Sys2Proof.Machine

/-! ### Registers of rings and queues (R102, R103, R422) -/

/-- The ring whose registers stand at an offset of the window, and the offset in its block: rings 0 to 63, and the fault and containment
queues of the dies with their registers renumbered as those of a ring (CFG, PROD and CONS at +0x08 to +0x18). -/
def ringOfOffset (off : Nat) : Option (Nat × Nat) :=
  if 0x0200000 ≤ off ∧ off < 0x0201000 then some ((off - 0x0200000) / 0x40, (off - 0x0200000) % 0x40)
  else if 0x0220000 ≤ off ∧ off < 0x0228000 then
    let d := (off - 0x0220000) / 0x1000
    match (off - 0x0220000) % 0x1000 with
    | 0x00 => some (65 + 2 * d, 0x10)
    | 0x08 => some (65 + 2 * d, 0x18)
    | 0x10 => some (66 + 2 * d, 0x10)
    | 0x18 => some (66 + 2 * d, 0x18)
    | 0x20 => some (65 + 2 * d, 0x08)
    | 0x28 => some (66 + 2 * d, 0x08)
    | _ => none
  else none

/-- The ring after a write of its RINGCFG, FQCFG or CQCFG: SIZE changes on an event ring alone, and within 6 to 20.  What PROD becomes
when SIZE changes is not stated: DESIGN CHOICE, it keeps its low SIZE + 1 bits (log 112). -/
def Ring.configure (r : Ring) (n v : Nat) : Ring :=
  let size := if n < 64 ∧ 6 ≤ bits v 4 0 ∧ bits v 4 0 ≤ 20 then bits v 4 0 else r.size
  { r with ticks := bits v 63 40, count := max 1 (bits v 39 24), target := bits v 23 8, size := size, prod := r.prod % 2 ^ (size + 1) }

/-- RING_CONFIG_WRITE: COUNT records that have been written already raise the interrupt. -/
def configWrite (s : State) (off v : Nat) : Option State :=
  match ringOfOffset off with
  | some (n, 0x08) =>
    let r := (ringAt s n).configure n v
    let s := ringRelease r.held.length (setRing s n r) n
    some (if 0 < (ringAt s n).unsignalled && r.count ≤ (ringAt s n).unsignalled then raiseRing s n else s)
  | _ => none

/-- RING_CONFIG_WRITE. -/
def execRingConfigWrite (off value : Nat) (s : State) : Out := happen s (configWrite s off value)

/-- A write of a consumer index: held records go to memory while there is room. -/
def consumerWrite (s : State) (off v : Nat) : Option State :=
  match ringOfOffset off with
  | some (n, 0x18) =>
    let r := { ringAt s n with cons := v % 2 ^ 21 }
    some (ringRelease r.held.length (setRing s n r) n)
  | _ => none

/-- QUEUE_CONSUMER_WRITE. -/
def execQueueConsumerWrite (off value : Nat) (s : State) : Out := happen s (consumerWrite s off value)

/-- TICKS ticks have passed since the first unsignalled record of a ring. -/
def tickDue (s : State) (n : Nat) : Bool :=
  let r := ringAt s n
  r.ticks != 0 && r.unsignalled != 0 && r.sinceTick + r.ticks ≤ ioClock s

/-- A ring number that stands for a ring or a queue. -/
def ringNumber (n : Nat) : Bool := n < 64 || (65 ≤ n && n ≤ 80)

/-- RING_TICK_INTERRUPT (R102). -/
def execRingTickInterrupt (ring : Nat) (s : State) : Out := .next (if ringNumber ring && tickDue s ring then raiseRing s ring else s)

/-! ### Registers of channels (R422) -/

/-- The channel after a write of one of its registers, GO apart. -/
def Channel.set (c : Channel) (r v : Nat) : Channel :=
  match r with
  | 0x000 => { c with desc := bits v 23 16, cls := bits v 15 12, fn := bits v 8 0 }
  | 0x008 => { c with arga := word v }
  | 0x010 => { c with arga1 := word v }
  | 0x018 => { c with argb := word v }
  | 0x020 => { c with argd := word v }
  | 0x030 => { c with done := c.done && !(v / 2 % 2 == 1) }
  | _ => c

/-- A doubleword of a channel's descriptor table written: RO and RSV fields stay, since only the sheet engine sets them (R246). -/
def Channel.setTable (c : Channel) (off v : Nat) : Channel :=
  let e := off / 64
  let lo := 64 * (off % 64 / 8)
  let old : Desc := SMap.getD c.td 0 e
  let new : Desc := (old &&& ~~~(BitVec.ofNat 512 (2 ^ 64 - 1) <<< lo)) ||| (BitVec.ofNat 512 (v % 2 ^ 64) <<< lo)
  { c with td := SMap.set c.td e (old.rewritten new) }

/-- A write of 8 bytes at an offset of a channel. -/
def channelSet (s : State) (ch r v : Nat) : State :=
  if r = 0x028 then (if v % 2 ^ 64 = 1 then goChannel s ch else s)
  else if 0x4000 ≤ r then modChannelAt s ch (fun c => c.setTable (r - 0x4000) v)
  else modChannelAt s ch (fun c => c.set r v)

/-- A write of 8 bytes at an offset of the window to a register that has no row of its own: a channel's registers and table, and RINGBASE;
anything else is read-only (R7).  What a RINGBASE that is not 32-byte aligned stores is not stated: DESIGN CHOICE, bits 4:0 are stored
as 0 (log 112). -/
def windowWrite (s : State) (off v : Nat) : State :=
  if off % 8 ≠ 0 then s
  else if off < 0x0108000 then channelSet s (off / 0x8000) (off % 0x8000) v
  else match ringOfOffset off with
    | some (n, 0x00) => setRing s n { ringAt s n with base := v % 2 ^ 64 / 32 * 32 }
    | _ => s

/-- REGISTER_WRITE (R7). -/
def execRegisterWrite (off value : Nat) (s : State) : Out := .next (windowWrite s off value)

/-! ### The part description (R425) -/

/-- The enabled cores of a die. -/
def dieCores (s : State) (d : Nat) : List Nat := ((List.range 5120).map (fun i => 5120 * d + i)).filter (fun k => !s.fused.contains k)
/-- The quads of a die with an enabled core. -/
def dieQuads (s : State) (d : Nat) : Nat :=
  ((List.range 1280).filter (fun q => [0, 1, 64, 65].any (fun j =>
    !s.fused.contains (5120 * d + 128 * (q / 32) + 2 * (q % 32) + j)))).length

/-- A byte of the part description. -/
def describe (s : State) (off : Nat) : Byte :=
  let byteOf (v : Nat) : Byte := BitVec.ofNat 8 (v / 256 ^ (off % 8))
  if off < 0x008 then byteOf 1
  else if off < 0x010 then BitVec.ofNat 8 (([0x4C, 0x58, 0x43, 0x2D, 0x47, 0x34, 0x2D, 0x41] : List Nat).getD (off - 0x008) 0)
  else if off < 0x018 then byteOf s.serial.toNat
  else if off < 0x058 then
    let d := (off - 0x018) / 8
    byteOf ((dieCores s d).length + dieHerds s d * 2 ^ 16 + dieQuads s d * 2 ^ 32)
  else if off < 0x080 then 0
  else if off < 0x080 + 5120 then
    let d := (off - 0x080) / 640
    let i := (off - 0x080) % 640
    BitVec.ofNat 8 ((List.range 8).foldl (fun n b => n + if s.fused.contains (5120 * d + 8 * i + b) then 0 else 2 ^ b) 0)
  else 0

/-! ### Reads of the window (R7, R102, R422) -/

/-- A register or a doubleword of the table of a channel as a read gives it: GO is write-only and reads as 0, and so do reserved bits. -/
def Channel.read (c : Channel) (r : Nat) : Word :=
  match r with
  | 0x000 => word (c.desc % 2 ^ 8 * 2 ^ 16 + c.cls % 2 ^ 4 * 2 ^ 12 + c.fn % 2 ^ 9)
  | 0x008 => c.arga
  | 0x010 => c.arga1
  | 0x018 => c.argb
  | 0x020 => c.argd
  | 0x030 => word (c.err % 2 ^ 8 * 2 ^ 8 + (if c.done then 2 else 0) + (if c.busy then 1 else 0))
  | 0x038 => c.res0
  | 0x040 => c.res1
  | _ => if 0x4000 ≤ r then ((SMap.getD c.td 0 ((r - 0x4000) / 64)) >>> (64 * (r % 64 / 8))).setWidth 64 else 0

/-- A register of a ring as a read gives it. -/
def Ring.read (r : Ring) (i : Nat) : Word :=
  match i with
  | 0x00 => word r.base
  | 0x08 => word (r.ticks % 2 ^ 24 * 2 ^ 40 + r.count % 2 ^ 16 * 2 ^ 24 + r.target % 2 ^ 16 * 2 ^ 8 + r.size % 2 ^ 5)
  | 0x10 => word (r.prod % 2 ^ 21)
  | 0x18 => word (r.cons % 2 ^ 21)
  | 0x20 => word (min r.held.length 256)
  | _ => 0

/-- The bytes of the part description. -/
def descriptionSize : Nat := 0x080 + 5120

/-- A read of 8 bytes at an offset of the window; what holds no register reads as 0. -/
def registerRead (s : State) (off : Nat) : Word :=
  if off % 8 ≠ 0 then 0
  else if off < 0x0108000 then (channelAt s (off / 0x8000)).read (off % 0x8000)
  else if 0x0210000 ≤ off ∧ off < 0x0210000 + descriptionSize then word (leNat (fun i => describe s (off - 0x0210000 + i)) 8)
  else match ringOfOffset off with
    | some (n, i) => (ringAt s n).read i
    | none => 0

/-! ### The host port (R111, R420) -/

/-- HOST_MEM_ACCESS: an access of at most 64 bytes within a line of HBM performs at its home. -/
def hostAccess (s : State) (write : Bool) (a n v : Nat) : State :=
  if n = 0 ∨ 64 < a % 64 + n ∨ inHbm a n = false then s
  else if write then arriveWrite s .outside { space := .mem, key := 0, addr := a } (.store (leBytes v n)) false (n == 64)
  else combineBytes s a n

/-- HOST_MEM_ACCESS (R420). -/
def execHostMemAccess (write : Bool) (addr size value : Nat) (s : State) : Out := .next (hostAccess s write addr size value)

/-! ### SPDM (R429; codes, order of requests and signed bytes are those of SPDM 1.3, log 41) -/

/-- The measurements that a GET_MEASUREMENTS asks for: all for 0xFF, else the one with the index. -/
def Mgmt.asked (m : Mgmt) (op : Nat) : List (Nat × List Byte) := m.measurements.filter (fun x => op == 0xFF || x.1 == op)

/-- The bytes of a text. -/
def textBytes (t : String) : List Byte := t.toList.map (fun c => BitVec.ofNat 8 c.toNat)

/-- What is signed before the hash of the messages: the version four times, and the context of the signature, filled up with zeros. -/
def spdmPrefix (context : String) : List Byte :=
  (List.replicate 4 (textBytes "dmtf-spdm-v1.3.*")).flatten ++ List.replicate (36 - context.length) 0 ++ textBytes context

/-- A measurement in an answer: its index, its form and its length before its digest. -/
def measurementBlock (x : Nat × List Byte) : List Byte :=
  [BitVec.ofNat 8 x.1, 1, 51, 0, BitVec.ofNat 8 x.1, 48, 0] ++ x.2

/-- The bytes of a request, and of an answer with its nonce, before its signature. -/
def spdmMessages (code param : Nat) (a : SpdmAnswer) (nonce : BitVec 256) : List Byte :=
  let byte (n : Nat) : Byte := BitVec.ofNat 8 n
  let record := a.blocks.flatMap measurementBlock
  [0x13, byte code, byte (param / 256), byte param] ++ [0x13, byte a.code, byte a.param1, byte a.param2]
    ++ [byte a.blocks.length, byte record.length, byte (record.length / 256), byte (record.length / 65536)] ++ record
    ++ (List.range 32).map (fun i => (nonce >>> (8 * i)).setWidth 8)

/-- An answer signed with the device identity key: ECDSA over the SHA-384 of what is signed. -/
def spdmSigned (n code param : Nat) (context : String) (a : SpdmAnswer) : SpdmAnswer :=
  let m := spdmPrefix context ++ sha384 (spdmMessages code param a (Config.spdmNonce n))
  { a with signature := some (ecdsaSign Config.identityKey (Config.signFactor n) (sha384 m)) }

/-- An answer without measurements or signature. -/
def spdmPlain (code param1 : Nat) : SpdmAnswer :=
  { code := code, param1 := param1, param2 := 0, algorithms := [], blocks := [], signature := none }

/-- ALGORITHMS: the base hash, and the device identity key's algorithm as an extended one (R429). -/
def spdmAlgorithms : SpdmAnswer := { spdmPlain 0x63 0 with algorithms := [.sha384, .ecdsaBrainpoolP384r1] }

/-- The management core answers an SPDM request, whose two parameters are bits 15:8 and 7:0 of `param`, and the verify data of FINISH the
bits above: GET_VERSION, GET_CAPABILITIES and NEGOTIATE_ALGORITHMS connect, in this order; the other requests need a connection, or a
session; FINISH opens one where its verify data is that of the key exchange, and END_SESSION closes it.  An answer 0x7F is an error, by its
code: 1 invalid, 4 unexpected, 6 verify data that differ, 7 unsupported. -/
def spdmReply (m : Mgmt) (n code param : Nat) : Mgmt × SpdmAnswer :=
  let op := param % 256
  let connected (r : Mgmt × SpdmAnswer) : Mgmt × SpdmAnswer := if m.connected = 3 then r else (m, spdmPlain 0x7F 4)
  let inSession (r : Mgmt × SpdmAnswer) : Mgmt × SpdmAnswer := if m.secured then r else (m, spdmPlain 0x7F 4)
  match code with
  | 0x84 => ({ m with connected := 1, exchange := none, secured := false }, spdmPlain 0x04 0)
  | 0xE1 => if m.connected = 1 then ({ m with connected := 2 }, spdmPlain 0x61 0) else (m, spdmPlain 0x7F 4)
  | 0xE3 => if m.connected = 2 then ({ m with connected := 3 }, spdmAlgorithms) else (m, spdmPlain 0x7F 4)
  | 0x81 => connected (m, spdmPlain 0x01 0)
  | 0x82 => connected (m, spdmPlain 0x02 0)
  | 0x83 => connected (m, spdmSigned n code param "responder-challenge_auth signing" (spdmPlain 0x03 0))
  | 0xE0 =>
    connected (
      if op = 0 then (m, spdmPlain 0x60 m.measurements.length)
      else if (m.asked op).isEmpty then (m, spdmPlain 0x7F 1)
      else
        let a := { spdmPlain 0x60 0 with blocks := m.asked op }
        (m, if param.testBit 8 then spdmSigned n code param "responder-measurements signing" a else a))
  | 0xE4 => connected ({ m with exchange := some n }, spdmSigned n code param "responder-key_exchange_rsp signing" (spdmPlain 0x64 0))
  | 0xE5 =>
    (match m.exchange with
     | some e =>
       if param / 2 ^ 16 = Config.verifyData e then ({ m with exchange := none, secured := true }, spdmPlain 0x65 0)
       else ({ m with exchange := none }, spdmPlain 0x7F 6)
     | none => (m, spdmPlain 0x7F 4))
  | 0xE8 => inSession (m, spdmPlain 0x68 0)
  | 0xE9 => inSession (m, spdmPlain 0x69 (param / 256 % 256))
  | 0xEC => inSession ({ m with secured := false }, spdmPlain 0x6C 0)
  | _ => (m, spdmPlain 0x7F 7)

/-- The answer to an SPDM request, with the free values of a fresh counter. -/
def spdmAnswer (s : State) (code param : Nat) : State :=
  let r := spdmReply s.mgmt s.free code param
  { s with free := s.free + 1, mgmt := { r.1 with answer := some r.2 } }

/-- SPDM_REQUEST (R429). -/
def execSpdmRequest (code param : Nat) (s : State) : Out := .next (spdmAnswer s code param)

/-- The supervisor extends measurement 4: the digest of its old value and the new configuration (R429 says no more; log 110). -/
def extendMeasurement (s : State) (bytes : List Byte) : State :=
  { s with mgmt := { s.mgmt with
    measurements := s.mgmt.measurements.map (fun x => if x.1 = 4 then (4, sha384 (x.2 ++ bytes)) else x) } }

/-! ### Boot (R427) -/

/-- A firmware copy that verifies: the first, else the second. -/
def Mgmt.copy (m : Mgmt) : Option Nat := m.firmware.find? (fun i => (Config.firmware i).verifies Config.fusedKey m.minVersion)

/-- POWER_ON: the management core verifies a firmware copy and starts it, or halts with code 1. -/
def powerOn (s : State) : Option State :=
  if s.mgmt.stage = .off then
    some { s with mgmt := { s.mgmt with stage := if s.mgmt.copy.isSome then .network 0 0 else .halted 1 } }
  else none

/-- POWER_ON. -/
def execPowerOn (s : State) : Out := happen s (powerOn s)

/-- A doubleword of an image. -/
def imageWord (img : List Byte) (off : Nat) : Nat := leNat (fun i => img.getD (off + i) 0) 8

/-- A section of an image: its type, load address, offset in the file and length. -/
def imageSection (img : List Byte) (i : Nat) : Nat × Nat × Nat × Nat :=
  (imageWord img (0x40 + 32 * i), imageWord img (0x48 + 32 * i), imageWord img (0x50 + 32 * i), imageWord img (0x58 + 32 * i))

/-- The sections of an image. -/
def imageSections (img : List Byte) : List (Nat × Nat × Nat × Nat) := (List.range (imageWord img 0x18)).map (imageSection img)

/-- A section lies inside the file, and inside a range of R417. -/
def sectionOk (img : List Byte) (x : Nat × Nat × Nat × Nat) : Bool :=
  x.2.2.1 + x.2.2.2 ≤ img.length
    && (x.2.1 + x.2.2.2 ≤ hbmEnd || (hbmEnd ≤ x.2.1 && x.2.1 + x.2.2.2 ≤ 0x1A000000000)
      || (0x1A000000000 ≤ x.2.1 && x.2.1 + x.2.2.2 ≤ 0x1A004000000))

/-- The reserved bytes of an image header: 0x020 to 0x03F, the entries of absent sections, and 0x1A0 to 0x1FF. -/
def headerReserved (img : List Byte) : Bool :=
  let n := imageWord img 0x18
  ((List.range 32).map (fun i => 0x20 + i) ++ (List.range (32 * (8 - n))).map (fun i => 0x40 + 32 * n + i)
    ++ (List.range 96).map (fun i => 0x1A0 + i)).any (fun i => img.getD i 0 != 0)

/-- The signature of an image covers the SHA-384 of bytes 0x000 to 0x13F followed by every byte from 0x200 on. -/
def imageSigned (img : List Byte) : Bool :=
  ecdsaVerify Config.imageKey (sha384 (img.take 0x140 ++ img.drop 0x200))
    (beNat ((img.drop 0x140).take 48)) (beNat ((img.drop 0x170).take 48))

/-- An image verifies (R427); its magic is "LXCG4IMG". -/
def imageOk (m : Mgmt) (img : List Byte) : Bool :=
  512 ≤ img.length
    && (img.take 8).map (fun b => b.toNat) == [0x4C, 0x58, 0x43, 0x47, 0x34, 0x49, 0x4D, 0x47]
    && imageWord img 0x08 == 1 && !headerReserved img
    && 1 ≤ imageWord img 0x18 && imageWord img 0x18 ≤ 8 && (imageSections img).all (sectionOk img)
    && m.minVersion ≤ imageWord img 0x10 && imageSigned img

/-- The bytes of a section that lie in a line, by address; the command window holds no memory. -/
def sectionBytes (img : List Byte) (x : Nat × Nat × Nat × Nat) (line : Nat) : SMap Byte :=
  ((List.range 64).map (fun j => 64 * line + j)).filterMap (fun a =>
    if x.2.1 ≤ a ∧ a < x.2.1 + x.2.2.2 ∧ a < 0x1A000000000 then some (a, img.getD (x.2.2.1 + (a - x.2.1)) 0) else none)

/-- A section's bytes at their load address, each line in one transaction (R34). -/
def loadSection (img : List Byte) (s : State) (x : Nat × Nat × Nat × Nat) : State :=
  (List.range (lineOf (x.2.1 + x.2.2.2 + 63) - lineOf x.2.1)).foldl (fun s i =>
    arriveHome s (lineOf x.2.1 + i) (fun s => (sectionBytes img x (lineOf x.2.1 + i)).foldl (fun s b => setMemByte s b.1 b.2) s)) s

/-- The firmware loads a verified image, records the measurements, and releases OS core 0 at the entry section (R427, R429). -/
def releaseImage (s : State) (img : List Byte) : State :=
  let s := (imageSections img).foldl (loadSection img) s
  let held := (imageSections img).flatMap (fun x => (img.drop x.2.2.1).take x.2.2.2)
  let description := (List.range descriptionSize).map (describe s)
  { s with mgmt := { s.mgmt with
    stage := .released
    osEntry := ((imageSections img).find? (fun x => x.1 == 2)).map (fun x => word x.2.1)
    measurements := [(1, sha384 (Config.firmware (s.mgmt.copy.getD 0)).bytes), (2, sha384 (img.take 512 ++ held)),
      (3, sha384 description), (4, List.replicate 48 0)] } }

/-- A retry of step 2, up to 10 times, or the halt with code 2. -/
def retryBoot (retries discards : Nat) : BootStage := if retries < 10 then .network (retries + 1) discards else .halted 2

/-- A complete image: it is released, or discarded up to 3 times, or the firmware halts with code 3. -/
def imageArrived (s : State) (discards : Nat) (img : List Byte) : State :=
  if imageOk s.mgmt img then releaseImage s img
  else { s with mgmt := { s.mgmt with stage := if discards < 3 then .network 0 (discards + 1) else .halted 3 } }

/-- The bytes of a TFTP block in a frame: their number in bits 18:5, and the bytes above. -/
def frameBytes (frame : Nat) : List Byte := (List.range (bits frame 18 5)).map (fun i => BitVec.ofNat 8 (frame / 2 ^ (19 + 8 * i)))

/-- The boot port (R421): 0 unless the BOOTPORT fuse names another. -/
def Mgmt.bootPort (m : Mgmt) : Nat := m.bootFuse.getD 0

/-- A frame of an Ethernet port (log 84): bits 1:0 say what it is, 0 an attempt that timed out, 1 a DHCPv6 reply, 2 a TFTP block, 3 the last
block, and bits 4:2 name the port, of which the boot takes the boot port alone.  A block of more than 8,192 bytes is none that was agreed on,
and is dropped. -/
def bootFrame (s : State) (frame : Nat) : State :=
  let enter (st : BootStage) : State := { s with mgmt := { s.mgmt with stage := st } }
  if bits frame 4 2 ≠ s.mgmt.bootPort ∨ (2 ≤ frame % 4 ∧ 8192 < bits frame 18 5) then s else
  match s.mgmt.stage, frame % 4 with
  | .network a d, 0 => enter (retryBoot a d)
  | .network a d, 1 => enter (.fetch a d [])
  | .fetch a d _, 0 => enter (retryBoot a d)
  | .fetch a d img, 2 => enter (.fetch a d (img ++ frameBytes frame))
  | .fetch _ d img, 3 => imageArrived s d (img ++ frameBytes frame)
  | _, _ => s

/-- NETWORK_BOOT_FRAME (R427). -/
def execNetworkBootFrame (frame : Nat) (s : State) : Out := .next (bootFrame s frame)

/-! ### Temperature (R431) -/

/-- THERMAL_POLL: above TMAX the effective cap falls by 100 W down to 1,000 W, and otherwise it rises by as much up to the cap. -/
def pollThermal (s : State) (temp : Nat) : State :=
  let m := s.mgmt
  let cap := if m.tmax < temp then max 1000 (m.effCap - 100) else min m.cap (m.effCap + 100)
  if cap = m.effCap then s else arbitrate { s with mgmt := { m with effCap := cap } }

/-- TMAX set, within 85 to 110 degrees (R431; log 111). -/
def setTmax (s : State) (degrees : Nat) : State :=
  if 85 ≤ degrees ∧ degrees ≤ 110 then { s with mgmt := { s.mgmt with tmax := degrees } } else s

/-- THERMAL_POLL. -/
def execThermalPoll (temp _power : Nat) (s : State) : Out := .next (pollThermal s temp)

/-- The compute dies lose their power: what their cores, herds and blocks hold is gone, and nothing of them runs. -/
def shutdownDies (s : State) : State :=
  { s with cores := [], herds := [], quads := [], dies := Vector.replicate 8 Die.reset, homes := [], poison := [], ranges := [], streams := []
           net := [], publishes := [], agenda := []
           teams := s.teams.map (fun p => (p.1, { p.2 with st := .failed, herds := [], toStart := [], claimedBy := [], proposal := [] }))
           mgmt := { s.mgmt with stage := .shutdown } }

/-- THERMAL_SHUTDOWN: at 125 degrees. -/
def execThermalShutdown (temp : Nat) (s : State) : Out := .next (if 125 ≤ temp then shutdownDies s else s)

end Sys2Proof.Machine
end

