-- ==== Sys2Proof/Machine/Progress.lean ====
section
/-!
DEFINITION. What the part does on its own when the agenda is empty and the current core waits: the model's own choice among the moves that
the engines may make (log 7), each of them an event of the opcode table; and the placing of an instruction at the next fetch (log 16).
-/

namespace Sys2Proof.Machine

/-- A move that leaves the state as it is, is none. -/
def changed (s s' : State) : Option State := if s' = s then none else some s'

/-- The moves of a core's engines. -/
def coreMoves (s : State) (k : Nat) : Option State :=
  let c := coreAt s k
  (moveCommitted s k)
    <|> performHead s k
    <|> (if headCompared s k then arriveHead s k else none)
    <|> (List.range c.loads.length).findSome? (loadHome s k)
    <|> startWeight s k
    <|> finishWeight s k
    <|> (if c.tileBusy then takeTile s (quadOf k) else none)
    <|> (List.range c.walks.length).findSome? (fun i => changed s (walkOne s k i) <|> endWalk s k i)
    <|> c.jobs.findSome? (fun p => dispatchJob s k p.1 <|> completeJob s k p.1
          <|> (if p.2.state == .running && p.2.next < p.2.len then changed s (copyByte s k p.1 p.2.next) else none))
    <|> acceptSpub s k
    <|> serveRange s k
    <|> arriveGroup s k

/-- The moves of a herd: its matrix engine, its forwards and its victim buffer. -/
def herdMoves (s : State) (h : Nat) : Option State :=
  startMatrix s h
    <|> (List.range 2).findSome? (finishMatrix s h)
    <|> arriveForward s h
    <|> (match (herdAt s h).victims with
      | [] => none
      | v :: _ => some (match v.phase with
        | 0 => requestBack s h v.line
        | 1 => grantBack s h v.line
        | 2 => cancelBack s h v.line
        | _ => dataBack s h v.line))

/-- The moves of the sheet engine on a sheet. -/
def sheetMoves (s : State) (n : Nat) (sh : Sheet) : Option State :=
  markStep s n <|> sh.cells.findSome? (fun p => copyEntry s n p.1) <|> sh.cells.findSome? (fun p => markFresh s n p.1) <|> nextDispatch s n

/-- The first rectangle of a die with the given number of herds that `ok` allows. -/
def rectOf (s : State) (ok : Nat → Bool) (twin : Bool) (d n : Nat) : Option Rect :=
  (List.range 20).findSome? (fun y => (List.range 32).findSome? (fun x =>
    (List.range (20 - y)).findSome? (fun h => (List.range (32 - x)).findSome? (fun w =>
      let r : Rect := { die := d, x := x, y := y, w := w + 1, h := h + 1 }
      if n ≤ (w + 1) * (h + 1) && (!twin || r.w % 2 == 0) then
        (let hs := rectsHerds s [r]
         if hs.length = n ∧ hs.all ok = true then some r else none)
      else none))))

/-- Rectangles on exactly m of the dies with n herds together. -/
def rectsOf (s : State) (ok : Nat → Bool) (twin : Bool) : List Nat → Nat → Nat → Option (List Rect)
  | [], m, n => if m = 0 ∧ n = 0 then some [] else none
  | d :: rest, m, n =>
    (match m with
     | 0 => none
     | m' + 1 =>
       let b := dieCounts s ok twin d
       let left := reachCounts (rest.map (dieCounts s ok twin))
       (List.range n).findSome? (fun i =>
         if b.testBit (n - i) && (left.getD m' 0).testBit i then
           (rectOf s ok twin d (n - i)).bind (fun r => (rectsOf s ok twin rest m' i).map (fun l => r :: l))
         else none))
    <|> rectsOf s ok twin rest m n

/-- The best placement of a waiting task that `placementOk` accepts. -/
def placeMove (s : State) (p : Nat × Team) : Option State :=
  let t := p.2
  let ok := freeFor s p.1
  if t.st == .swapped && t.herds.all ok then resumeTeam s p.1
  else
    let best := if t.st == .swapped then bestCount s ok t.lb.twin t.dies t.herds.length t.herds.length
      else bestCount s ok t.lb.twin t.dies t.lb.hmin t.lb.hmax
    match best with
    | none => none
    | some (n, m) =>
      match rectsOf s ok t.lb.twin t.dies m n with
      | none => none
      | some rs => if placementOk s p.1 t rs then some (takePlacement s p.1 rs) else none

/-- The moves of a team. -/
def teamMoves (s : State) (tn : Nat) (t : Team) : Option State :=
  startTeam s tn
    <|> (match t.toStart with | h :: _ => startHerd s tn h | [] => none)
    <|> (if t.swapping then expireSlice s tn else none)
    <|> (t.claimedBy.findSome? (fun x =>
          (t.rects.map (fun r => r.die)).findSome? (fun d =>
            if x.2.any (fun h => t.herds.contains h && herdDie h == d) then
              ({ t with herds := x.2 } : Team).box d |>.bind (preemptTeam s x.1)
            else none)))
    <|> returnHerds s tn
    <|> finishTeam s tn
    <|> completeTask s tn
    <|> completeKid s tn

/-- What the engines of the part do next, if anything. -/
def progress (s : State) : Option State :=
  s.cores.findSome? (fun p => coreMoves s p.1)
    <|> s.herds.findSome? (fun p => herdMoves s p.1)
    <|> s.homes.findSome? (fun p => performHome s p.1)
    <|> arriveMsg s 0
    <|> s.streams.findSome? (fun p => deliverItem s p.1)
    <|> performPublish s 0
    <|> s.sheets.findSome? (fun p => sheetMoves s p.1 p.2)
    <|> s.suffix.slots.findSome? (fun p => rebuildDone s p.1)
    <|> (List.range 8).findSome? (fun d => match (dieAt s d).consuming with | e :: _ => startContainment s e.1 | [] => none)
    <|> (List.range 8).findSome? (fun d =>
          if (dieAt s d).containment.isSome then some (modDieAt s d (fun x => { x with containment := none })) else none)
    <|> s.teams.findSome? (fun p => teamMoves s p.1 p.2)
    <|> (waitingTasks s).findSome? (placeMove s)
    <|> s.channels.findSome? (fun p => continueChannel s p.1 <|> commandEnds s p.1)
    <|> (if (placedTeams s).isEmpty then none else changed s (arbitrate s))

/-- The claims that a level-0 task could make of a team, the narrowest first. -/
def bandMoves (s : State) (tn : Nat) (t : Team) (v : Team) : Option State :=
  t.dies.findSome? (fun d => (v.box d).bind (fun b =>
    (List.range b.h).findSome? (fun i =>
      let r := { b with h := i + 1 }
      if (t.st == .swapped && t.bound s tn) || t.counts.1 ≤ (rectsHerds s [r]).length then preemptTeam s tn r else none)))

/-- What changes once nothing else can move: grants, claims and time slices. -/
def rotate (s : State) : Option State :=
  (placedTeams s).findSome? (fun p => p.2.herds.findSome? (raiseHerd s))
    <|> (waitingTasks s).findSome? (fun p => if p.2.level = 0 then s.teams.findSome? (fun v => bandMoves s p.1 p.2 v.2) else none)
    <|> s.teams.findSome? (fun p => expireSlice s p.1)

/-- Core 0 as BOOT leaves it, with bytes at its pc and nothing that comes before its next issue (R428; log 16). -/
def placeNext (s : State) (bs : List Byte) : State :=
  let s := (List.range bs.length).foldl (fun s i => setMemByte s (4096 + i) (bs.getD i 0)) s
  let s := modDieAt s 0 (fun d => { d with containment := none, consuming := [] })
  modCoreAt { s with cur := 0, agenda := [] } 0 (fun c => { c with
    run := .running, team := some 0, claim := 7, pc := 4096, tq := [], an := 0, delay := 0, pendingRegion := none, terminating := false
    deferredTrap := none, status := setBit (setBit c.status 17 true) 20 false, cacheMode := true, ilines := [], wait := none, reply := none
    carried := none, crc := 0, issuing := [], faultSleep := none, twin := none, stalled := false })

end Sys2Proof.Machine
end

