-- ==== Sys2Proof/Machine/Dispatch.lean ====
section
/-!
DEFINITION. The meaning of every step of the part: one arm per constructor.
-/

namespace Sys2Proof.Machine

/-- The effect of a step. -/
def exec (i : Instr) (s : State) : Host.Outcome State Fault Refusal :=
  match i with
  | .add d a k b => Sys2Proof.Machine.execAdd d a k b s
  | .sub d a k b => Sys2Proof.Machine.execSub d a k b s
  | .mul d a k b => Sys2Proof.Machine.execMul d a k b s
  | .mulh d a k b => Sys2Proof.Machine.execMulh d a k b s
  | .mulhu d a k b => Sys2Proof.Machine.execMulhu d a k b s
  | .div d a k b => Sys2Proof.Machine.execDiv d a k b s
  | .divu d a k b => Sys2Proof.Machine.execDivu d a k b s
  | .rem d a k b => Sys2Proof.Machine.execRem d a k b s
  | .remu d a k b => Sys2Proof.Machine.execRemu d a k b s
  | .and d a k b => Sys2Proof.Machine.execAnd d a k b s
  | .or d a k b => Sys2Proof.Machine.execOr d a k b s
  | .xor d a k b => Sys2Proof.Machine.execXor d a k b s
  | .shl d a k b => Sys2Proof.Machine.execShl d a k b s
  | .shr d a k b => Sys2Proof.Machine.execShr d a k b s
  | .sha d a k b => Sys2Proof.Machine.execSha d a k b s
  | .rot d a k b => Sys2Proof.Machine.execRot d a k b s
  | .min d a k b => Sys2Proof.Machine.execMin d a k b s
  | .max d a k b => Sys2Proof.Machine.execMax d a k b s
  | .minu d a k b => Sys2Proof.Machine.execMinu d a k b s
  | .maxu d a k b => Sys2Proof.Machine.execMaxu d a k b s
  | .slt d a k b => Sys2Proof.Machine.execSlt d a k b s
  | .sltu d a k b => Sys2Proof.Machine.execSltu d a k b s
  | .seq d a k b => Sys2Proof.Machine.execSeq d a k b s
  | .cmov d a k b => Sys2Proof.Machine.execCmov d a k b s
  | .addw d a k b => Sys2Proof.Machine.execAddw d a k b s
  | .subw d a k b => Sys2Proof.Machine.execSubw d a k b s
  | .madd d a k b => Sys2Proof.Machine.execMadd d a k b s
  | .addx d a k b n => Sys2Proof.Machine.execAddx d a k b n s
  | .clz d a => Sys2Proof.Machine.execClz d a s
  | .ctz d a => Sys2Proof.Machine.execCtz d a s
  | .popc d a => Sys2Proof.Machine.execPopc d a s
  | .bswap d a => Sys2Proof.Machine.execBswap d a s
  | .sext d a n => Sys2Proof.Machine.execSext d a n s
  | .zext d a n => Sys2Proof.Machine.execZext d a n s
  | .fadd d a k b t rm sat => Sys2Proof.Machine.execFadd d a k b t rm sat s
  | .fsub d a k b t rm sat => Sys2Proof.Machine.execFsub d a k b t rm sat s
  | .fmul d a k b t rm sat => Sys2Proof.Machine.execFmul d a k b t rm sat s
  | .ffma d a k b t rm sat => Sys2Proof.Machine.execFfma d a k b t rm sat s
  | .fdiv d a k b t rm sat => Sys2Proof.Machine.execFdiv d a k b t rm sat s
  | .fsqrt d a t rm sat => Sys2Proof.Machine.execFsqrt d a t rm sat s
  | .fmin d a k b t => Sys2Proof.Machine.execFmin d a k b t s
  | .fmax d a k b t => Sys2Proof.Machine.execFmax d a k b t s
  | .fcmp d a k b t cc => Sys2Proof.Machine.execFcmp d a k b t cc s
  | .fcvt d a tk sk rm sat => Sys2Proof.Machine.execFcvt d a tk sk rm sat s
  | .fclass d a t => Sys2Proof.Machine.execFclass d a t s
  | .fsgnj d a k b t => Sys2Proof.Machine.execFsgnj d a k b t s
  | .fsgnjn d a k b t => Sys2Proof.Machine.execFsgnjn d a k b t s
  | .fsgnjx d a k b t => Sys2Proof.Machine.execFsgnjx d a k b t s
  | .addi d a v => Sys2Proof.Machine.execAddi d a v s
  | .andi d a v => Sys2Proof.Machine.execAndi d a v s
  | .ori d a v => Sys2Proof.Machine.execOri d a v s
  | .xori d a v => Sys2Proof.Machine.execXori d a v s
  | .shli d a n => Sys2Proof.Machine.execShli d a n s
  | .shri d a n => Sys2Proof.Machine.execShri d a n s
  | .shai d a n => Sys2Proof.Machine.execShai d a n s
  | .roti d a n => Sys2Proof.Machine.execRoti d a n s
  | .bfx d a wd pos => Sys2Proof.Machine.execBfx d a wd pos s
  | .bfi d a wd pos => Sys2Proof.Machine.execBfi d a wd pos s
  | .li d v => Sys2Proof.Machine.execLi d v s
  | .lih d v => Sys2Proof.Machine.execLih d v s
  | .lix d e v => Sys2Proof.Machine.execLix d e v s
  | .csrr d c => Sys2Proof.Machine.execCsrr d c s
  | .csrw d a c => Sys2Proof.Machine.execCsrw d a c s
  | .csrs d a c => Sys2Proof.Machine.execCsrs d a c s
  | .csrc d a c => Sys2Proof.Machine.execCsrc d a c s
  | .beq a b n disp => Sys2Proof.Machine.execBeq a b n disp s
  | .bne a b n disp => Sys2Proof.Machine.execBne a b n disp s
  | .blt a b n disp => Sys2Proof.Machine.execBlt a b n disp s
  | .bge a b n disp => Sys2Proof.Machine.execBge a b n disp s
  | .bltu a b n disp => Sys2Proof.Machine.execBltu a b n disp s
  | .bgeu a b n disp => Sys2Proof.Machine.execBgeu a b n disp s
  | .jal d n disp => Sys2Proof.Machine.execJal d n disp s
  | .jalr d a n => Sys2Proof.Machine.execJalr d a n s
  | .nop => Sys2Proof.Machine.execNop s
  | .trap a => Sys2Proof.Machine.execTrap a s
  | .brk => Sys2Proof.Machine.execBrk s
  | .eret => Sys2Proof.Machine.execEret s
  | .sleep a => Sys2Proof.Machine.execSleep a s
  | .fenceI => Sys2Proof.Machine.execFenceI s
  | .qcfg a => Sys2Proof.Machine.execQcfg a s
  | .cxsave a => Sys2Proof.Machine.execCxsave a s
  | .cxload a => Sys2Proof.Machine.execCxload a s
  | .ldb d a ord scope pol off => Sys2Proof.Machine.execLdb d a ord scope pol off s
  | .ldbu d a ord scope pol off => Sys2Proof.Machine.execLdbu d a ord scope pol off s
  | .ldh d a ord scope pol off => Sys2Proof.Machine.execLdh d a ord scope pol off s
  | .ldhu d a ord scope pol off => Sys2Proof.Machine.execLdhu d a ord scope pol off s
  | .ldw d a ord scope pol off => Sys2Proof.Machine.execLdw d a ord scope pol off s
  | .ldwu d a ord scope pol off => Sys2Proof.Machine.execLdwu d a ord scope pol off s
  | .ldd d a ord scope pol off => Sys2Proof.Machine.execLdd d a ord scope pol off s
  | .ldq d a ord scope pol off => Sys2Proof.Machine.execLdq d a ord scope pol off s
  | .stb d a ord scope pol off => Sys2Proof.Machine.execStb d a ord scope pol off s
  | .sth d a ord scope pol off => Sys2Proof.Machine.execSth d a ord scope pol off s
  | .stw d a ord scope pol off => Sys2Proof.Machine.execStw d a ord scope pol off s
  | .std d a ord scope pol off => Sys2Proof.Machine.execStd d a ord scope pol off s
  | .stq d a ord scope pol off => Sys2Proof.Machine.execStq d a ord scope pol off s
  | .ldx d a b => Sys2Proof.Machine.execLdx d a b s
  | .stx d a b => Sys2Proof.Machine.execStx d a b s
  | .amoadd d a k b ord scope w => Sys2Proof.Machine.execAmoadd d a k b ord scope w s
  | .amoand d a k b ord scope w => Sys2Proof.Machine.execAmoand d a k b ord scope w s
  | .amoor d a k b ord scope w => Sys2Proof.Machine.execAmoor d a k b ord scope w s
  | .amoxor d a k b ord scope w => Sys2Proof.Machine.execAmoxor d a k b ord scope w s
  | .amomin d a k b ord scope w => Sys2Proof.Machine.execAmomin d a k b ord scope w s
  | .amomax d a k b ord scope w => Sys2Proof.Machine.execAmomax d a k b ord scope w s
  | .amominu d a k b ord scope w => Sys2Proof.Machine.execAmominu d a k b ord scope w s
  | .amomaxu d a k b ord scope w => Sys2Proof.Machine.execAmomaxu d a k b ord scope w s
  | .amoswap d a k b ord scope w => Sys2Proof.Machine.execAmoswap d a k b ord scope w s
  | .cas d a k b ord scope w => Sys2Proof.Machine.execCas d a k b ord scope w s
  | .redadd a k b ord scope w => Sys2Proof.Machine.execRedadd a k b ord scope w s
  | .redmin a k b ord scope w => Sys2Proof.Machine.execRedmin a k b ord scope w s
  | .redmax a k b ord scope w => Sys2Proof.Machine.execRedmax a k b ord scope w s
  | .redfadd a b ord scope w => Sys2Proof.Machine.execRedfadd a b ord scope w s
  | .take d a ord scope => Sys2Proof.Machine.execTake d a ord scope s
  | .put a b ord scope => Sys2Proof.Machine.execPut a b ord scope s
  | .peek d a ord scope => Sys2Proof.Machine.execPeek d a ord scope s
  | .feinit a b scope full => Sys2Proof.Machine.execFeinit a b scope full s
  | .fence scope => Sys2Proof.Machine.execFence scope s
  | .pref a b => Sys2Proof.Machine.execPref a b s
  | .rflush a b => Sys2Proof.Machine.execRflush a b s
  | .rinv a b => Sys2Proof.Machine.execRinv a b s
  | .retain d a b => Sys2Proof.Machine.execRetain d a b s
  | .unretain a => Sys2Proof.Machine.execUnretain a s
  | .crdecl d a b elem op => Sys2Proof.Machine.execCrdecl d a b elem op s
  | .crclr a => Sys2Proof.Machine.execCrclr a s
  | .waita d a b => Sys2Proof.Machine.execWaita d a b s
  | .tld g desc a rows => Sys2Proof.Machine.execTld g desc a rows s
  | .tst g desc a rows => Sys2Proof.Machine.execTst g desc a rows s
  | .tlds g a rows => Sys2Proof.Machine.execTlds g a rows s
  | .tsts g a rows => Sys2Proof.Machine.execTsts g a rows s
  | .tdld desc a => Sys2Proof.Machine.execTdld desc a s
  | .tdst desc a => Sys2Proof.Machine.execTdst desc a s
  | .tfill g fmt a rows => Sys2Proof.Machine.execTfill g fmt a rows s
  | .textr g fmt idx a => Sys2Proof.Machine.execTextr g fmt idx a s
  | .tins g fmt idx a => Sys2Proof.Machine.execTins g fmt idx a s
  | .tmov d a rows => Sys2Proof.Machine.execTmov d a rows s
  | .tzero d rows => Sys2Proof.Machine.execTzero d rows s
  | .tadd d a h b rows fmt f64 => Sys2Proof.Machine.execTadd d a h b rows fmt f64 s
  | .tsub d a h b rows fmt f64 => Sys2Proof.Machine.execTsub d a h b rows fmt f64 s
  | .tmul d a h b rows fmt f64 => Sys2Proof.Machine.execTmul d a h b rows fmt f64 s
  | .tfma d a h b rows fmt f64 => Sys2Proof.Machine.execTfma d a h b rows fmt f64 s
  | .tmin d a h b rows fmt f64 => Sys2Proof.Machine.execTmin d a h b rows fmt f64 s
  | .tmax d a h b rows fmt f64 => Sys2Proof.Machine.execTmax d a h b rows fmt f64 s
  | .tabs d a rows fmt f64 => Sys2Proof.Machine.execTabs d a rows fmt f64 s
  | .tneg d a rows fmt f64 => Sys2Proof.Machine.execTneg d a rows fmt f64 s
  | .trcp d a rows fmt f64 => Sys2Proof.Machine.execTrcp d a rows fmt f64 s
  | .trsq d a rows fmt f64 => Sys2Proof.Machine.execTrsq d a rows fmt f64 s
  | .texp2 d a rows fmt f64 => Sys2Proof.Machine.execTexp2 d a rows fmt f64 s
  | .tlog2 d a rows fmt f64 => Sys2Proof.Machine.execTlog2 d a rows fmt f64 s
  | .ttanh d a rows fmt f64 => Sys2Proof.Machine.execTtanh d a rows fmt f64 s
  | .tcmp d a h b rows fmt f64 cc => Sys2Proof.Machine.execTcmp d a h b rows fmt f64 cc s
  | .tsel d a h b rows fmt f64 => Sys2Proof.Machine.execTsel d a h b rows fmt f64 s
  | .tand d a h b rows => Sys2Proof.Machine.execTand d a h b rows s
  | .tor d a h b rows => Sys2Proof.Machine.execTor d a h b rows s
  | .txor d a h b rows => Sys2Proof.Machine.execTxor d a h b rows s
  | .tnot d a rows => Sys2Proof.Machine.execTnot d a rows s
  | .tshl d a h b rows fmt => Sys2Proof.Machine.execTshl d a h b rows fmt s
  | .tshr d a h b rows fmt => Sys2Proof.Machine.execTshr d a h b rows fmt s
  | .tcvt d a src rows fmt f64 sat rm => Sys2Proof.Machine.execTcvt d a src rows fmt f64 sat rm s
  | .tqnt d a src rows fmt sat rm => Sys2Proof.Machine.execTqnt d a src rows fmt sat rm s
  | .tdq d a src rows fmt sat rm => Sys2Proof.Machine.execTdq d a src rows fmt sat rm s
  | .tred d a rows fmt f64 k => Sys2Proof.Machine.execTred d a rows fmt f64 k s
  | .tscan d a rows fmt f64 => Sys2Proof.Machine.execTscan d a rows fmt f64 s
  | .tbcast d a b rows fmt => Sys2Proof.Machine.execTbcast d a b rows fmt s
  | .ttrn d a fmt => Sys2Proof.Machine.execTtrn d a fmt s
  | .tperm d a h b rows fmt => Sys2Proof.Machine.execTperm d a h b rows fmt s
  | .tgath d a h b rows fmt => Sys2Proof.Machine.execTgath d a h b rows fmt s
  | .tscat d a h b rows fmt => Sys2Proof.Machine.execTscat d a h b rows fmt s
  | .ttopk d a k rows fmt => Sys2Proof.Machine.execTtopk d a k rows fmt s
  | .tnoise d a rows fmt => Sys2Proof.Machine.execTnoise d a rows fmt s
  | .mma ad ta ha wm p mode fmta => Sys2Proof.Machine.execMma ad ta ha wm p mode fmta s
  | .mmaz ad ta ha wm p mode fmta => Sys2Proof.Machine.execMmaz ad ta ha wm p mode fmta s
  | .wld g desc a => Sys2Proof.Machine.execWld g desc a s
  | .wldh g fmt h => Sys2Proof.Machine.execWldh g fmt h s
  | .wclr g => Sys2Proof.Machine.execWclr g s
  | .aprom g => Sys2Proof.Machine.execAprom g s
  | .aclr g => Sys2Proof.Machine.execAclr g s
  | .amov g a => Sys2Proof.Machine.execAmov g a s
  | .aadd g a => Sys2Proof.Machine.execAadd g a s
  | .ald g a => Sys2Proof.Machine.execAld g a s
  | .ast g a => Sys2Proof.Machine.execAst g a s
  | .acvt g fmt sat rm a => Sys2Proof.Machine.execAcvt g fmt sat rm a s
  | .aepi g desc a => Sys2Proof.Machine.execAepi g desc a s
  | .mstat g a => Sys2Proof.Machine.execMstat g a s
  | .copy d a b scope fl => Sys2Proof.Machine.execCopy d a b scope fl s
  | .copys d a b scope fl => Sys2Proof.Machine.execCopys d a b scope fl s
  | .jwait d a => Sys2Proof.Machine.execJwait d a s
  | .jpoll d a => Sys2Proof.Machine.execJpoll d a s
  | .subscr d a h => Sys2Proof.Machine.execSubscr d a h s
  | .unsub d a h => Sys2Proof.Machine.execUnsub d a h s
  | .spub a t => Sys2Proof.Machine.execSpub a t s
  | .hcfg a h => Sys2Proof.Machine.execHcfg a h s
  | .hwait d a h => Sys2Proof.Machine.execHwait d a h s
  | .hadvc d a h => Sys2Proof.Machine.execHadvc d a h s
  | .hadvp d a h => Sys2Proof.Machine.execHadvp d a h s
  | .binit d a b => Sys2Proof.Machine.execBinit d a b s
  | .barv d a b => Sys2Proof.Machine.execBarv d a b s
  | .bexp d a b => Sys2Proof.Machine.execBexp d a b s
  | .bwait d a b => Sys2Proof.Machine.execBwait d a b s
  | .binv d a => Sys2Proof.Machine.execBinv d a s
  | .wbara d a grp => Sys2Proof.Machine.execWbara d a grp s
  | .wbarw d a grp => Sys2Proof.Machine.execWbarw d a grp s
  | .wbmask a => Sys2Proof.Machine.execWbmask a s
  | .rnginit a => Sys2Proof.Machine.execRnginit a s
  | .rngget d a => Sys2Proof.Machine.execRngget d a s
  | .spawn d a b => Sys2Proof.Machine.execSpawn d a b s
  | .join d a => Sys2Proof.Machine.execJoin d a s
  | .evpost d a b => Sys2Proof.Machine.execEvpost d a b s
  | .treeld d a b => Sys2Proof.Machine.execTreeld d a b s
  | .cbind g a => Sys2Proof.Machine.execCbind g a s
  | .cedit g a => Sys2Proof.Machine.execCedit g a s
  | .cunbind g a => Sys2Proof.Machine.execCunbind g a s
  | .cwopen g desc a => Sys2Proof.Machine.execCwopen g desc a s
  | .cwpub g a cancel => Sys2Proof.Machine.execCwpub g a cancel s
  | .cappend g k a => Sys2Proof.Machine.execCappend g k a s
  | .vopen g a => Sys2Proof.Machine.execVopen g a s
  | .vclose g v => Sys2Proof.Machine.execVclose g v s
  | .crd g desc a v => Sys2Proof.Machine.execCrd g desc a v s
  | .cfence g a v => Sys2Proof.Machine.execCfence g a v s
  | .cstat g a => Sys2Proof.Machine.execCstat g a s
  | .crevoke g a => Sys2Proof.Machine.execCrevoke g a s
  | .sxopen d a => Sys2Proof.Machine.execSxopen d a s
  | .sxapp d a b => Sys2Proof.Machine.execSxapp d a b s
  | .sxqry d a b => Sys2Proof.Machine.execSxqry d a b s
  | .sxsave d a b => Sys2Proof.Machine.execSxsave d a b s
  | .sxload d b => Sys2Proof.Machine.execSxload d b s
  | .sxfree d a => Sys2Proof.Machine.execSxfree d a s
  | .sxstat d a => Sys2Proof.Machine.execSxstat d a s
  | .rbegin a b wbuf => Sys2Proof.Machine.execRbegin a b wbuf s
  | .rend => Sys2Proof.Machine.execRend s
  | .rabort => Sys2Proof.Machine.execRabort s
  | .clkreq d a => Sys2Proof.Machine.execClkreq d a s
  | .exti e v => Sys2Proof.Machine.execExti e v s
  | .exts e v => Sys2Proof.Machine.execExts e v s
  | .nop16 => Sys2Proof.Machine.execNop16 s
  | .add16 d a => Sys2Proof.Machine.execAdd16 d a s
  | .sub16 d a => Sys2Proof.Machine.execSub16 d a s
  | .and16 d a => Sys2Proof.Machine.execAnd16 d a s
  | .or16 d a => Sys2Proof.Machine.execOr16 d a s
  | .xor16 d a => Sys2Proof.Machine.execXor16 d a s
  | .shl16 d a => Sys2Proof.Machine.execShl16 d a s
  | .shr16 d a => Sys2Proof.Machine.execShr16 d a s
  | .sha16 d a => Sys2Proof.Machine.execSha16 d a s
  | .addi16 d v => Sys2Proof.Machine.execAddi16 d v s
  | .li16 d v => Sys2Proof.Machine.execLi16 d v s
  | .shli16 d n => Sys2Proof.Machine.execShli16 d n s
  | .shri16 d n => Sys2Proof.Machine.execShri16 d n s
  | .shai16 d n => Sys2Proof.Machine.execShai16 d n s
  | .ldw16 d a x => Sys2Proof.Machine.execLdw16 d a x s
  | .stw16 d a x => Sys2Proof.Machine.execStw16 d a x s
  | .ldd16 d a x => Sys2Proof.Machine.execLdd16 d a x s
  | .std16 d a x => Sys2Proof.Machine.execStd16 d a x s
  | .beqz hi a lo => Sys2Proof.Machine.execBeqz hi a lo s
  | .bnez hi a lo => Sys2Proof.Machine.execBnez hi a lo s
  | .jalr16 d a n => Sys2Proof.Machine.execJalr16 d a n s
  | .takeInterrupt core => Sys2Proof.Machine.execTakeInterrupt core s
  | .deferredTrap core => Sys2Proof.Machine.execDeferredTrap core s
  | .timerExpire core => Sys2Proof.Machine.execTimerExpire core s
  | .waitaTimeout core => Sys2Proof.Machine.execWaitaTimeout core s
  | .commitQueuePerform core => Sys2Proof.Machine.execCommitQueuePerform core s
  | .regionMoveCommitted core => Sys2Proof.Machine.execRegionMoveCommitted core s
  | .homeArrive fwd key => Sys2Proof.Machine.execHomeArrive fwd key s
  | .homePerformWrite line => Sys2Proof.Machine.execHomePerformWrite line s
  | .homeLoad core idx => Sys2Proof.Machine.execHomeLoad core idx s
  | .leaseExpire herd line => Sys2Proof.Machine.execLeaseExpire herd line s
  | .remoteAccessArrive msg => Sys2Proof.Machine.execRemoteAccessArrive msg s
  | .bankTake msg => Sys2Proof.Machine.execBankTake msg s
  | .bankPeek msg => Sys2Proof.Machine.execBankPeek msg s
  | .bankPut msg => Sys2Proof.Machine.execBankPut msg s
  | .bankInit msg => Sys2Proof.Machine.execBankInit msg s
  | .bankBinit msg => Sys2Proof.Machine.execBankBinit msg s
  | .bankBarv msg => Sys2Proof.Machine.execBankBarv msg s
  | .bankBexp msg => Sys2Proof.Machine.execBankBexp msg s
  | .bankBwait msg => Sys2Proof.Machine.execBankBwait msg s
  | .bankBinv msg => Sys2Proof.Machine.execBankBinv msg s
  | .barCompletion msg => Sys2Proof.Machine.execBarCompletion msg s
  | .writebackRequest herd line => Sys2Proof.Machine.execWritebackRequest herd line s
  | .writebackGrant herd line => Sys2Proof.Machine.execWritebackGrant herd line s
  | .writebackCancel herd line => Sys2Proof.Machine.execWritebackCancel herd line s
  | .writebackData herd line => Sys2Proof.Machine.execWritebackData herd line s
  | .recall herd line => Sys2Proof.Machine.execRecall herd line s
  | .partialSpill line => Sys2Proof.Machine.execPartialSpill line s
  | .copyJobDispatch core slot => Sys2Proof.Machine.execCopyJobDispatch core slot s
  | .copyJobComplete core slot => Sys2Proof.Machine.execCopyJobComplete core slot s
  | .streamAccept core => Sys2Proof.Machine.execStreamAccept core s
  | .streamDeliver stream => Sys2Proof.Machine.execStreamDeliver stream s
  | .matrixJobStart herd => Sys2Proof.Machine.execMatrixJobStart herd s
  | .matrixJobComplete herd port => Sys2Proof.Machine.execMatrixJobComplete herd port s
  | .weightJobStart core => Sys2Proof.Machine.execWeightJobStart core s
  | .weightJobComplete core => Sys2Proof.Machine.execWeightJobComplete core s
  | .tileUnitDispatch quad => Sys2Proof.Machine.execTileUnitDispatch quad s
  | .walkerCommandDone core idx => Sys2Proof.Machine.execWalkerCommandDone core idx s
  | .sheetPublish pub => Sys2Proof.Machine.execSheetPublish pub s
  | .staleMark sheet => Sys2Proof.Machine.execStaleMark sheet s
  | .cellDispatch sheet cell => Sys2Proof.Machine.execCellDispatch sheet cell s
  | .taskComplete team => Sys2Proof.Machine.execTaskComplete team s
  | .cellMarkFresh sheet cell => Sys2Proof.Machine.execCellMarkFresh sheet cell s
  | .appendPrefixCopy sheet cell => Sys2Proof.Machine.execAppendPrefixCopy sheet cell s
  | .ringTickInterrupt ring => Sys2Proof.Machine.execRingTickInterrupt ring s
  | .teamPlace task die x y w h => Sys2Proof.Machine.execTeamPlace task die x y w h s
  | .teamStart team => Sys2Proof.Machine.execTeamStart team s
  | .herdStart team herd => Sys2Proof.Machine.execHerdStart team herd s
  | .taskAge task => Sys2Proof.Machine.execTaskAge task s
  | .spatialPreempt task die x y w h => Sys2Proof.Machine.execSpatialPreempt task die x y w h s
  | .herdsReturn team => Sys2Proof.Machine.execHerdsReturn team s
  | .sliceExpire team => Sys2Proof.Machine.execSliceExpire team s
  | .teamResume team => Sys2Proof.Machine.execTeamResume team s
  | .teamFinish team => Sys2Proof.Machine.execTeamFinish team s
  | .rangeRequest core => Sys2Proof.Machine.execRangeRequest core s
  | .kidComplete team => Sys2Proof.Machine.execKidComplete team s
  | .wbarArrive core => Sys2Proof.Machine.execWbarArrive core s
  | .arbiterEvaluate => Sys2Proof.Machine.execArbiterEvaluate s
  | .grantRaiseHerd herd => Sys2Proof.Machine.execGrantRaiseHerd herd s
  | .suffixRebuildDone slot => Sys2Proof.Machine.execSuffixRebuildDone slot s
  | .uncorrectableError place key addr => Sys2Proof.Machine.execUncorrectableError place key addr s
  | .macroScrub core mac => Sys2Proof.Machine.execMacroScrub core mac s
  | .patrolScrub place key addr => Sys2Proof.Machine.execPatrolScrub place key addr s
  | .containmentStart die x y => Sys2Proof.Machine.execContainmentStart die x y s
  | .containmentFenceLift die => Sys2Proof.Machine.execContainmentFenceLift die s
  | .routerFailure die x y => Sys2Proof.Machine.execRouterFailure die x y s
  | .transactionCrcFail line => Sys2Proof.Machine.execTransactionCrcFail line s
  | .readResponseCrcFail core idx => Sys2Proof.Machine.execReadResponseCrcFail core idx s
  | .linkFlitError die link lane => Sys2Proof.Machine.execLinkFlitError die link lane s
  | .remoteTimeout core idx => Sys2Proof.Machine.execRemoteTimeout core idx s
  | .hostMemAccess write addr size value => Sys2Proof.Machine.execHostMemAccess write addr size value s
  | .spdmRequest code param => Sys2Proof.Machine.execSpdmRequest code param s
  | .powerOn => Sys2Proof.Machine.execPowerOn s
  | .thermalPoll temp power => Sys2Proof.Machine.execThermalPoll temp power s
  | .thermalShutdown temp => Sys2Proof.Machine.execThermalShutdown temp s
  | .sheetnew ch => Sys2Proof.Machine.execSheetnew ch s
  | .sheetdel ch => Sys2Proof.Machine.execSheetdel ch s
  | .launch ch => Sys2Proof.Machine.execLaunch ch s
  | .teamend ch => Sys2Proof.Machine.execTeamend ch s
  | .teamstatRead ch => Sys2Proof.Machine.execTeamstatRead ch s
  | .teamstatWrite ch => Sys2Proof.Machine.execTeamstatWrite ch s
  | .shoot ch => Sys2Proof.Machine.execShoot ch s
  | .faultend ch => Sys2Proof.Machine.execFaultend ch s
  | .qplace ch => Sys2Proof.Machine.execQplace ch s
  | .dieregRead ch => Sys2Proof.Machine.execDieregRead ch s
  | .dieregWrite ch => Sys2Proof.Machine.execDieregWrite ch s
  | .qslice ch => Sys2Proof.Machine.execQslice ch s
  | .suffixIndexPlace ch => Sys2Proof.Machine.execSuffixIndexPlace ch s
  | .suffixMailboxPlace ch => Sys2Proof.Machine.execSuffixMailboxPlace ch s
  | .suffixRingAssign ch => Sys2Proof.Machine.execSuffixRingAssign ch s
  | .power ch => Sys2Proof.Machine.execPower ch s
  | .doorbell ch => Sys2Proof.Machine.execDoorbell ch s
  | .wbgroup ch => Sys2Proof.Machine.execWbgroup ch s
  | .boot ch => Sys2Proof.Machine.execBoot ch s
  | .debugStop ch => Sys2Proof.Machine.execDebugStop ch s
  | .debugResume ch => Sys2Proof.Machine.execDebugResume ch s
  | .debugStep ch => Sys2Proof.Machine.execDebugStep ch s
  | .svRetain ch => Sys2Proof.Machine.execSvRetain ch s
  | .svUnretain ch => Sys2Proof.Machine.execSvUnretain ch s
  | .peerset ch => Sys2Proof.Machine.execPeerset ch s
  | .channelSheetCommand ch => Sys2Proof.Machine.execChannelSheetCommand ch s
  | .channelSuffixCommand ch => Sys2Proof.Machine.execChannelSuffixCommand ch s
  | .commandDone ch => Sys2Proof.Machine.execCommandDone ch s
  | .ringConfigWrite off value => Sys2Proof.Machine.execRingConfigWrite off value s
  | .queueConsumerWrite off value => Sys2Proof.Machine.execQueueConsumerWrite off value s
  | .registerWrite off value => Sys2Proof.Machine.execRegisterWrite off value s
  | .illegalInstruction core sub long insn => Sys2Proof.Machine.execIllegalInstruction core sub long insn s
  | .instructionFetchFault core cause addr => Sys2Proof.Machine.execInstructionFetchFault core cause addr s
  | .targetAcknowledgement core idx answer value => Sys2Proof.Machine.execTargetAcknowledgement core idx answer value s
  | .networkBootFrame frame => Sys2Proof.Machine.execNetworkBootFrame frame s

end Sys2Proof.Machine
end

