-- ==== Sys2Proof/Machine/Short.lean ====
section
/-!
DEFINITION. The 16-bit instructions from their halfword (R163, R175): what the issue runs.  `Laws/Short.lean` shows that it is the
meaning of what `decode16` reads.
-/

namespace Sys2Proof.Machine

/-- Runs the 16-bit instruction of a halfword; `bad` is what a halfword that is none does. -/
def run16 (h : Nat) (bad : Reject → Bool → Out) (s : State) : Out :=
  match bits h 14 10 with
  | 0x00 => bad (if h % 65536 = 0 then .definedIllegal else .unassigned) false
  | 0x1 => if bits h 9 0 == 0 then execNop16 s else bad .reserved false
  | 0x2 =>
    match bits h 1 0 with
    | 0x0 => execAdd16 (fld h 6) (fld h 2) s
    | 0x1 => execSub16 (fld h 6) (fld h 2) s
    | 0x2 => execAnd16 (fld h 6) (fld h 2) s
    | _ => execOr16 (fld h 6) (fld h 2) s
  | 0x3 =>
    match bits h 1 0 with
    | 0x0 => execXor16 (fld h 6) (fld h 2) s
    | 0x1 => execShl16 (fld h 6) (fld h 2) s
    | 0x2 => execShr16 (fld h 6) (fld h 2) s
    | _ => execSha16 (fld h 6) (fld h 2) s
  | 0x4 => execAddi16 (fld h 6) (fld h 0) s
  | 0x5 => execLi16 (fld h 6) (fld h 0) s
  | 0x6 => execShli16 (fld h 6) (fld h 0) s
  | 0x7 => execShri16 (fld h 6) (fld h 0) s
  | 0x8 => execShai16 (fld h 6) (fld h 0) s
  | 0x9 => execLdw16 (fld h 6) (fld h 2) (fld h 0) s
  | 0xa => execStw16 (fld h 6) (fld h 2) (fld h 0) s
  | 0xb => execLdd16 (fld h 6) (fld h 2) (fld h 0) s
  | 0xc => execStd16 (fld h 6) (fld h 2) (fld h 0) s
  | 0xd => execBeqz (fld h 6) (fld h 2) (fld h 0) s
  | 0xe => execBnez (fld h 6) (fld h 2) (fld h 0) s
  | 0xf => if bits h 1 1 == 0 then execJalr16 (fld h 6) (fld h 2) (fld h 0) s else bad .badValue false
  | _ => bad .unassigned false

end Sys2Proof.Machine
end

