-- ==== Sys2Proof/Machine/Issue.lean ====
section
/-!
DEFINITION. One issue of a core (R204): its interrupts, deferred traps and pending regions, the exit address, fetch, decode and
annulment; and which agent moves next.  The meaning of an instruction and the decoder are arguments, which Step.lean supplies.
-/

namespace Sys2Proof.Machine

/-- The exit address (R372). -/
def exitAddr : Word := 0xFFFFFFFFFFFFFFFE

/-- The core stalls. -/
def stallAt (s : State) (k : Nat) : State := modCoreAt s k (fun c => { c with stalled := true })

/-- The core has consumed a poisoned granule and waits for its containment (R405). -/
def consuming (s : State) (k : Nat) : Bool := (dieAt s (dieOf k)).consuming.any (fun e => e.1 == k)

/-- A pending region begins at this issue (R335): with an empty transfer queue and AN = 0, and not at the terminating instruction itself. -/
def Core.opensPending (c : Core) : Bool :=
  c.pendingRegion.isSome && c.region.isNone && c.tq.isEmpty && c.an == 0 && !c.terminating

/-- The pending region begins, if it is to, at the instruction that has been fetched. -/
def openPending (s : State) (k : Nat) : State :=
  match (coreAt s k).pendingRegion with
  | some w => if (coreAt s k).opensPending then setCoreAt s k ((coreAt s k).openRegion w true) else s
  | none => s

/-- An annulled instruction of `size` bytes passes (R204). -/
def Core.annulled (c : Core) (size : Nat) : Core :=
  { c with pc := (c.flow size).1, tq := (c.flow size).2, an := c.an - 1, delay := c.delay - 1, cycle := c.cycle + 1 }

/-- The sub-code of an encoding that is no instruction: 0x06 stands above 0x01 to 0x04 in user mode (R187). -/
def rejectSub (r : Reject) (sup user : Bool) : Nat :=
  if sup && user && r != .definedIllegal && r != .unassigned then 0x06 else r.sub

/-- An encoding that is no instruction raises illegal instruction (R185 to R187). -/
def illegalFetched (s : State) (k : Nat) (long : Bool) (insn : Nat) (r : Reject) (sup : Bool) : Out :=
  .next (raiseTrap s k 2 (illegalVal (rejectSub r sup (!(coreAt s k).supervisor)) long insn))

/-- What the core does with a halfword that is a 16-bit instruction: it passes it annulled, or runs it (R204). -/
def runHalf (s : State) (k h : Nat) : Out :=
  if 0 < (coreAt s k).an then .next (modCoreAt s k (fun c => c.annulled 2)) else run16 h (illegalFetched s k false h) s

/-- What the core does with a 32-bit instruction that its fetch has read (R185, R204). -/
def runWord (ex : Instr → State → Out) (dec : Nat → Decoded) (s : State) (k w : Nat) : Out :=
  if 0 < (coreAt s k).an then .next (modCoreAt s k (fun c => c.annulled 4))
  else match dec w with
    | .ok i => ex i s
    | .bad r sup => illegalFetched s k true w r sup

/-- A fetch has not given a halfword: its trap, the consumption of a poisoned line, or a fill that waits (R133, R161, R405). -/
def fetchFailed (s : State) (k : Nat) (f : Fetched) (a : Word) : Out :=
  match f with
  | .fault c => .next (raiseTrap s k c a)
  | .poison u x => .next (stallAt (consumeAt s k u x) k)
  | .later => .next (stallAt s k)
  | .half _ => .next s

/-- The fetch at the pc and what follows (R161, R204, R335, R372); an odd pc raises instruction address misaligned (log 15). -/
def fetchIssue (ex : Instr → State → Out) (dec : Nat → Decoded) (s : State) (k : Nat) : Out :=
  let pc := (coreAt s k).pc
  if pc = exitAddr then commitThen s (fun s => .next (endThread s k))
  else if pc.toNat % 2 = 1 then .next (raiseTrap s k 0 pc)
  else match fetchHalf s k pc with
    | (.half h1, s1) =>
      if h1 < 0x8000 then runHalf (openPending s1 k) k h1
      else match fetchHalf s1 k (pc + 2) with
        | (.half h2, s2) => runWord ex dec (openPending s2 k) k (h1 * 65536 + h2)
        | (f, s2) => fetchFailed s2 k f (pc + 2)
    | (f, s1) => fetchFailed s1 k f pc

/-- One issue of core k. -/
def issueCore (ex : Instr → State → Out) (dec : Nat → Decoded) (s : State) (k : Nat) : Out :=
  let s := { s with cur := k }
  let c := coreAt s k
  if c.run = .faultSleep then
    .next (if deferredReady s k then takeDeferred s k else if (pendingInterrupt s k).isSome then takeInterruptAt s k else stallAt s k)
  else if c.run ≠ .running ∨ contained s k = true ∨ consuming s k = true then .next (stallAt s k)
  else if deferredReady s k then .next (takeDeferred s k)
  else if interruptReady s k then .next (takeInterruptAt s k)
  else if c.opensPending && !c.loads.isEmpty then .next (stallAt s k)
  else fetchIssue ex dec s k

/-- The core can issue something now. -/
def canIssue (s : State) (k : Nat) : Bool :=
  let c := coreAt s k
  !c.stalled && (match c.run with
    | .running => !contained s k && !consuming s k
    | .faultSleep => (pendingInterrupt s k).isSome
    | _ => false)

/-- Every core looks again. -/
def wakeAll (s : State) : State := { s with cores := s.cores.map (fun p => (p.1, { p.2 with stalled := false })) }

/-- The lease clock of a die advances, unless it would lead another by more than two ticks (R118). -/
def tickDie (s : State) (d : Nat) : State :=
  if s.dies.toList.all (fun x => (dieAt s d).clock + 1 ≤ x.clock + 2) then modDieAt s d (fun x => { x with clock := x.clock + 1 }) else s

/-- Every lease clock advances by one tick. -/
def tickAll (s : State) : State := { s with dies := s.dies.map (fun x => { x with clock := x.clock + 1 }) }

/-- What shows that a core has completed a Step: its pc, its counters or its status have changed, or it runs no more. -/
def Core.stepMark (c : Core) : Word × Word × Word × Word × Bool := (c.pc, c.instret, c.cycle, c.status, c.run == .running)

/-- The stopped core issues again; a page fault that it would sleep on ends the Step (log 113). -/
def stopAgain (s : State) (k : Nat) : State :=
  let s := if (coreAt s k).run = .faultSleep then leaveFault s k else s
  modCoreAt s k (fun c => { c with run := if c.run = .running ∨ c.run = .faultSleep then .stopped else c.run })

/-- A round of turns: the engines, the cores beside the current one that can issue, and time. -/
def round (s : State) : List Turn :=
  .engines :: (s.cores.filter (fun p => p.1 != s.cur && canIssue s p.1)).map (fun p => .issue p.1) ++ [.pass]

/-- A stopped core issues until it has completed one Step, while the rest of the part goes on (R430). -/
def singleStep (ex : Instr → State → Out) (dec : Nat → Decoded) (s : State) (k : Nat) : Out :=
  if (coreAt s k).run = .stopped then
    let s0 := modCoreAt s k (fun c => { c with run := .running, stalled := false })
    match issueCore ex dec s0 k with
    | .next s1 =>
      let s2 := stopAgain s1 k
      .next (wakeAll (if (coreAt s1 k).stepMark = (coreAt s0 k).stepMark then { s2 with agenda := s2.agenda ++ round s2 ++ [.single k] } else s2))
    | o => o
  else .next s

/-- The remote debug service performs a DEBUG function (R430), inside a secured session alone (R429; log 141).  It writes as a channel beyond
those of the window does; a halt that cannot be completed yet tries again. -/
def remoteDebug (s : State) (core fn area : Nat) : State :=
  let c : Channel := { Channel.reset with arga := word core, argb := word fn, argd := word area }
  let r : Ran := match fn with
    | 0 => debugHalt s 33 c
    | 1 => debugGo s 33 c
    | 2 => debugOne s 33 c
    | _ => .wait s
  if !s.mgmt.secured then s
  else match r with
    | .done _ _ s' => s'
    | .bad _ => s
    | .wait s' => if fn = 0 then { s' with agenda := s'.agenda ++ round s' ++ [.remoteDebug core fn area] } else s'

/-- A turn of the agenda. -/
def runTurn (ex : Instr → State → Out) (dec : Nat → Decoded) (t : Turn) (s : State) : Out :=
  match t with
  | .issue k => issueCore ex dec s k
  | .event i => match ex i s with | .next s' => .next (wakeAll s') | o => o
  | .tick d => .next (wakeAll (tickDie s d))
  | .cycles k n => .next (modCoreAt s k (fun c => { c with cycle := c.cycle + word n }))
  | .copyByte k slot i => .next (wakeAll (copyByte s k slot i))
  | .evict h line => .next (wakeAll (evictLine s h line))
  | .dropTlb h i => .next (modHerdAt s h (fun x => { x with tlb := x.tlb.eraseIdx i }))
  | .walkLine k i => .next (wakeAll (walkOne s k i))
  | .single k => singleStep ex dec s k
  | .pin team segments => .next (wakeAll (pinTeam s team segments))
  | .saveArea team i off v => .next (wakeAll (writeSaved s team i off v))
  | .tmax n => .next (setTmax s n)
  | .measure bytes => .next (extendMeasurement s bytes)
  | .remoteDebug core fn area => .next (wakeAll (remoteDebug s core fn area))
  | .repost n i now => .next (wakeAll (repost s n i now))
  | .engines =>
    match progress s with
    | some s' => .next (wakeAll { s' with agenda := .engines :: s'.agenda })
    | none => .next s
  | .pass => .next (wakeAll ((rotate s).getD (tickAll s)))

/-- The next step: the agenda's turn; without one a round begins, with an issue of the current core if it can issue. -/
def stepWith (ex : Instr → State → Out) (dec : Nat → Decoded) (s : State) : Out :=
  match s.agenda with
  | t :: rest => runTurn ex dec t { s with agenda := rest }
  | [] => if canIssue s s.cur then issueCore ex dec { s with agenda := round s } s.cur else .next { s with agenda := round s }

end Sys2Proof.Machine
end

