-- ==== Sys2Proof/Machine/Step.lean ====
section
/-!
DEFINITION. One step of the part (R204 and the agents of R106), and the placing of an instruction at the next fetch.
-/

namespace Sys2Proof.Machine

/-- One step: the next agent moves. -/
def step (s : State) : Host.Outcome State Fault Refusal := stepWith exec decode32 s

/-- The state with an instruction stored where the next step fetches it (log 16): core 0 is as BOOT leaves it, in team 0 of die 0,
and nothing else is to move. -/
def State.withFetchWord (s : State) (nbits w : Nat) : State := placeNext s (tableBytes nbits w)

end Sys2Proof.Machine
end

