-- ==== Sys2Proof/Safety.lean ====
section
/-!
DEFINITION. What a safe run is, and the words in which statements about every state are put: the canonical form of memory, what a
core's operands give, and what it is for an instruction to complete.
-/

namespace Sys2Proof.Machine

/-- Memory is in its canonical form: addresses strictly rising, and no entry equal to what an unlisted address reads as. -/
abbrev Memory.wf (m : List Host.Cell) : Bool := SMap.wf m 0

/-! ### Scalar operands (R188, R194, R195) -/

/-- A scalar register can be read at once: s0 always; any other where no load will still write it, it is not poisoned and, where it is
a queue, the queue is not empty. -/
def Core.readable (c : Core) (r : Nat) : Bool :=
  r == 0 || (!c.pendingReg r && !c.poison.contains (0, r) && (c.depth r == 0 || !(vget c.queues [] (r - 12)).isEmpty))

/-- The value that a read of a scalar register gives: 0 for s0, the oldest entry of a queue. -/
def Core.valueOf (c : Core) (r : Nat) : Word :=
  if r = 0 then 0 else if c.depth r = 0 then vget c.regs 0 r else (vget c.queues [] (r - 12)).headD 0

/-- The core after a read of a scalar register: a queue has lost its oldest entry. -/
def Core.popped (c : Core) (r : Nat) : Core :=
  if r = 0 ∨ c.depth r = 0 then c else { c with queues := vset c.queues (r - 12) (vget c.queues [] (r - 12)).tail }

/-- A list of registers can be read in this order. -/
def Core.readsOk (c : Core) : List Nat → Bool
  | [] => true
  | r :: rs => c.readable r && (c.popped r).readsOk rs

/-- The core after a list of registers is read in this order. -/
def Core.afterReads (c : Core) : List Nat → Core
  | [] => c
  | r :: rs => (c.popped r).afterReads rs

/-- The values that a list of registers gives, read in this order. -/
def Core.values (c : Core) : List Nat → List Word
  | [] => []
  | r :: rs => c.valueOf r :: (c.popped r).values rs

/-- A scalar register can be written at once: s0 always; any other where no load will still write it and, where it is a queue, the queue
has room. -/
def Core.writable (c : Core) (r : Nat) : Bool :=
  r == 0 || (!c.pendingReg r && (c.depth r == 0 || decide ((vget c.queues [] (r - 12)).length < c.depth r)))

/-- The running core is replaced. -/
def State.withCore (s : State) (c : Core) : State := setCoreAt s s.cur c

/-- The state after the running core reads a scalar register. -/
def State.popped (s : State) (r : Nat) : State :=
  if r = 0 ∨ s.core.depth r = 0 then s else s.withCore (s.core.popped r)

/-- The state after the running core reads a list of registers in this order. -/
def State.afterReads (s : State) : List Nat → State
  | [] => s
  | r :: rs => (s.popped r).afterReads rs

/-- Operand B: the register, or the entry of the constant table, that K and B select (R165). -/
def Core.valueB (c : Core) (k : BitVec 1) (b : BitVec 6) : Word := if k = 0 then c.valueOf b.toNat else intConst b.toNat

/-! ### Completion (R204) -/

/-- What a terminating instruction finds: an open region has committed, and a new one with its window is pending (R335). -/
def State.terminated (s : State) : State :=
  match s.core.region with
  | none => s
  | some r => s.withCore { s.core.commit with pendingRegion := some r.window, terminating := true }

/-- Between s and t the running core has completed one instruction of `size` bytes that is no branch: its pc and transfer queue have gone
on, it counts one instruction and one cycle more, and it waits for nothing. -/
def Completes (s t : State) (size : Nat) : Prop :=
  t.cur = s.cur ∧ t.core.pc = (s.core.flow size).1 ∧ t.core.tq = (s.core.flow size).2 ∧ t.core.an = s.core.an
    ∧ t.core.instret = s.core.instret + 1 ∧ t.core.cycle = s.core.cycle + 1
    ∧ t.core.wait = none ∧ t.core.reply = none ∧ t.core.stalled = false

/-- The running core is alone with its instruction: in no region and no twin pair, with nothing on its load path, in its region buffer or
in its commit queue, and it has begun no wait. -/
def State.quiet (s : State) : Bool :=
  s.core.region.isNone && s.core.twin.isNone && s.core.loads.isEmpty && s.core.rbuf.isEmpty && s.core.cq.isEmpty
    && s.core.wait.isNone && s.core.reply.isNone

/-- The devices, cores and memory beside the running core are as before. -/
def othersKept (s t : State) : Prop :=
  t.mem = s.mem ∧ t.cur = s.cur ∧ t.agenda = s.agenda ∧ (∀ k, k ≠ s.cur → coreAt t k = coreAt s k)

end Sys2Proof.Machine
end

