-- ==== Sys2Proof/Certificates/Slice0/Obligations.lean ====
section
/-!
DEFINITION. The statements for the provers, with the tables that say what each group of instructions does.
-/

namespace Sys2Proof.Spec

open Sys2Proof.Machine

/-! ### Integer instructions (R196 to R198, R175) -/

/-- ALU instructions on sA and B that write sD: the constructor and the value (R196). -/
def aluTable : List ((BitVec 4 → BitVec 4 → BitVec 1 → BitVec 6 → Instr) × (Word → Word → Word)) :=
  [(.add, fun x y => x + y), (.sub, fun x y => x - y), (.mul, fun x y => x * y),
   (.mulh, fun x y => BitVec.ofInt 64 (x.toInt * y.toInt / 2 ^ 64)), (.mulhu, fun x y => BitVec.ofNat 64 (x.toNat * y.toNat / 2 ^ 64)),
   (.div, fun x y => if y = 0 then BitVec.allOnes 64 else BitVec.ofInt 64 (x.toInt.tdiv y.toInt)),
   (.divu, fun x y => if y = 0 then BitVec.allOnes 64 else BitVec.ofNat 64 (x.toNat / y.toNat)),
   (.rem, fun x y => if y = 0 then x else x - BitVec.ofInt 64 (x.toInt.tdiv y.toInt) * y),
   (.remu, fun x y => if y = 0 then x else x - BitVec.ofNat 64 (x.toNat / y.toNat) * y),
   (.and, fun x y => x &&& y), (.or, fun x y => x ||| y), (.xor, fun x y => x ^^^ y),
   (.shl, fun x y => x <<< (y.toNat % 64)), (.shr, fun x y => x >>> (y.toNat % 64)),
   (.sha, fun x y => x.sshiftRight (y.toNat % 64)), (.rot, fun x y => x.rotateRight (y.toNat % 64)),
   (.min, fun x y => if x.toInt ≤ y.toInt then x else y), (.max, fun x y => if x.toInt ≤ y.toInt then y else x),
   (.minu, fun x y => if x.toNat ≤ y.toNat then x else y), (.maxu, fun x y => if x.toNat ≤ y.toNat then y else x),
   (.slt, fun x y => if x.toInt < y.toInt then 1 else 0), (.sltu, fun x y => if x.toNat < y.toNat then 1 else 0),
   (.seq, fun x y => if x = y then 1 else 0),
   (.addw, fun x y => ((x + y).setWidth 32).signExtend 64), (.subw, fun x y => ((x - y).setWidth 32).signExtend 64),
   (fun d a k b => .addx d a k b 0, fun x y => x + y), (fun d a k b => .addx d a k b 1, fun x y => x + 2 * y),
   (fun d a k b => .addx d a k b 2, fun x y => x + 4 * y), (fun d a k b => .addx d a k b 3, fun x y => x + 8 * y)]

/-- The number of zeros above the highest one of a word; 64 for 0. -/
def leadingZeros (x : Word) : Nat := ((List.range 64).find? (fun i => x.getLsbD (63 - i))).getD 64
/-- The number of zeros below the lowest one of a word; 64 for 0. -/
def trailingZeros (x : Word) : Nat := ((List.range 64).find? (fun i => x.getLsbD i)).getD 64
/-- The number of ones of a word. -/
def onesOf (x : Word) : Nat := ((List.range 64).filter (fun i => x.getLsbD i)).length
/-- The eight bytes of a word in reverse order. -/
def reversed (x : Word) : Word :=
  x.extractLsb' 0 8 ++ x.extractLsb' 8 8 ++ x.extractLsb' 16 8 ++ x.extractLsb' 24 8
    ++ x.extractLsb' 32 8 ++ x.extractLsb' 40 8 ++ x.extractLsb' 48 8 ++ x.extractLsb' 56 8
/-- A word with its low n bits sign-extended. -/
def signed (n : Nat) (x : Word) : Word := (x.setWidth n).signExtend 64
/-- A word with its low n bits zero-extended. -/
def unsigned (n : Nat) (x : Word) : Word := (x.setWidth n).setWidth 64

/-- Instructions on one register: the instruction, its size, its source, its destination, and the value (R175, R196, R197). -/
noncomputable def unaryTable (d a : BitVec 4) (v : BitVec 17) (n : BitVec 6) (w : BitVec 6) (u : BitVec 6) :
    List (Instr × Nat × BitVec 4 × (Word → Word)) :=
  [(.clz d a, 4, a, fun x => BitVec.ofNat 64 (leadingZeros x)), (.ctz d a, 4, a, fun x => BitVec.ofNat 64 (trailingZeros x)),
   (.popc d a, 4, a, fun x => BitVec.ofNat 64 (onesOf x)), (.bswap d a, 4, a, reversed),
   (.sext d a 0, 4, a, signed 8), (.sext d a 1, 4, a, signed 16), (.sext d a 2, 4, a, signed 32),
   (.zext d a 0, 4, a, unsigned 8), (.zext d a 1, 4, a, unsigned 16), (.zext d a 2, 4, a, unsigned 32),
   (.addi d a v, 4, a, fun x => x + v.signExtend 64), (.andi d a v, 4, a, fun x => x &&& v.signExtend 64),
   (.ori d a v, 4, a, fun x => x ||| v.signExtend 64), (.xori d a v, 4, a, fun x => x ^^^ v.signExtend 64),
   (.shli d a n, 4, a, fun x => x <<< n.toNat), (.shri d a n, 4, a, fun x => x >>> n.toNat),
   (.shai d a n, 4, a, fun x => x.sshiftRight n.toNat), (.roti d a n, 4, a, fun x => x.rotateRight n.toNat),
   (.bfx d a w n, 4, a, fun x => BitVec.ofNat 64 (x.toNat / 2 ^ n.toNat % 2 ^ (w.toNat + 1))),
   (.addi16 d u, 2, d, fun x => x + u.signExtend 64), (.shli16 d n, 2, d, fun x => x <<< n.toNat),
   (.shri16 d n, 2, d, fun x => x >>> n.toNat), (.shai16 d n, 2, d, fun x => x.sshiftRight n.toNat)]

/-- 16-bit instructions on sD and sA that write sD (R175). -/
noncomputable def alu16Table : List ((BitVec 4 → BitVec 4 → Instr) × (Word → Word → Word)) :=
  [(.add16, fun x y => x + y), (.sub16, fun x y => x - y), (.and16, fun x y => x &&& y), (.or16, fun x y => x ||| y),
   (.xor16, fun x y => x ^^^ y), (.shl16, fun x y => x <<< (y.toNat % 64)), (.shr16, fun x y => x >>> (y.toNat % 64)),
   (.sha16, fun x y => x.sshiftRight (y.toNat % 64))]

/-! ### Floating point (R199 to R201) -/

/-- Floating instructions on sA and B whose result is rounded once: the exact result from the rounding mode and the operands, with the
flags of the operation (R199). -/
def fltTable : List ((BitVec 4 → BitVec 4 → BitVec 1 → BitVec 6 → BitVec 1 → BitVec 3 → BitVec 1 → Instr)
    × (Nat → FVal → FVal → FVal × BitVec 5)) :=
  [(.fadd, fun m x y => FVal.add m x y), (.fsub, fun m x y => FVal.add m x y.negate), (.fmul, fun _ x y => FVal.mul x y),
   (.fdiv, fun _ x y => FVal.div x y)]

/-- STATUS is not poisoned where an RM field names its mode (R177, R405). -/
def modeClean (c : Core) (rm : BitVec 3) : Bool := rm != 4 || !c.poison.contains (0, 4096)

/-- Operand B of a floating instruction as a code of its format. -/
def fltOperand (c : Core) (k : BitVec 1) (b : BitVec 6) (t : BitVec 1) : Nat :=
  if k = 0 then fltCode t (c.valueOf b.toNat) else fltConst t b.toNat

/-- The core with a rounded result in sD and its flags added to STATUS. -/
def rounded (c : Core) (d : BitVec 4) (t : BitVec 1) (mode : Nat) (sat : BitVec 1) (r : FVal × BitVec 5) : Core :=
  let x := (fltFmt t).finish mode (sat == 1) r.1
  (c.put d.toNat (BitVec.ofNat 64 x.1)).orFlags (r.2 ||| x.2)

/-- The floating instructions on two codes that round nothing and set no flag: FMIN, FMAX, FCMP, FSGNJ, FSGNJN, FSGNJX (R199, R200). -/
def fltBitsTable (d a : BitVec 4) (k : BitVec 1) (b : BitVec 6) (t : BitVec 1) (cc : BitVec 2) : List (Instr × (Nat → Nat → Nat)) :=
  let f := fltFmt t
  let sign := 2 ^ f.signBit
  [(.fmin d a k b t, f.minmax false), (.fmax d a k b t, f.minmax true),
   (.fcmp d a k b t cc, fun x y => if FVal.cc cc.toNat (f.value x) (f.value y) then 1 else 0),
   (.fsgnj d a k b t, fun x y => x % sign + y / sign % 2 * sign),
   (.fsgnjn d a k b t, fun x y => x % sign + (1 - y / sign % 2) * sign),
   (.fsgnjx d a k b t, fun x y => x % sign + (x / sign + y / sign) % 2 * sign)]

/-! ### Branches (R167, R202 to R204) -/

/-- The B-format branches and their conditions (R202). -/
def branchTable : List ((BitVec 4 → BitVec 4 → BitVec 2 → BitVec 15 → Instr) × (Word → Word → Bool)) :=
  [(.beq, fun x y => decide (x = y)), (.bne, fun x y => decide (x ≠ y)), (.blt, fun x y => decide (x.toInt < y.toInt)),
   (.bge, fun x y => decide (y.toInt ≤ x.toInt)), (.bltu, fun x y => decide (x.toNat < y.toNat)),
   (.bgeu, fun x y => decide (y.toNat ≤ x.toNat))]

/-- The core after a branch that has completed: as after any instruction, with the target, if it is taken, behind the transfer queue with
count 2, with the annul count 2 if it annuls its slots, and with two delay slots to come (R204). -/
def branched (c : Core) (size : Nat) (target : Option Word) (annul : Bool) : Core :=
  { c.advance size with
    tq := (c.flow size).2 ++ (match target with | some t => [{ target := t, count := 2 }] | none => [])
    an := if annul then 2 else c.an
    delay := 2 }

/-! ### Control registers (R189 to R193) -/

/-- What CSRW, CSRS and CSRC write (R193): the constructor, its number, and the value from the old one and sA. -/
def csrTable : List ((BitVec 4 → BitVec 4 → BitVec 12 → Instr) × Nat) := [(.csrw, 1), (.csrs, 2), (.csrc, 3)]

/-- The access of a control register is permitted (R187, R193). -/
def csrAllowed (c : Core) (n : BitVec 12) : Bool :=
  csrAssigned n.toNat && (!csrSupervisor n.toNat || c.supervisor) && !c.poison.contains (0, 4096 + n.toNat)

end Sys2Proof.Spec

open Sys2Proof Sys2Proof.Machine Sys2Proof.Spec

/-- R196, R175: an ALU instruction writes its value to sD, reads its operands in order, changes nothing else and completes, whatever its
operands are (register or constant, ordinary register, queue or s0); a 16-bit one is that of 32 bits with sD as operand A and sA as operand B. -/
def Obligations.AluOfTwoOperands : Prop :=
  (∀ p ∈ aluTable, ∀ (d a : BitVec 4) (k : BitVec 1) (b : BitVec 6) (s : State),
    let rs := a.toNat :: regsB k b
    s.core.readsOk rs = true → (s.core.afterReads rs).writable d.toNat = true →
    exec (p.1 d a k b) s = .next (s.withCore
      (((s.core.afterReads rs).put d.toNat (p.2 (s.core.valueOf a.toNat) ((s.core.popped a.toNat).valueB k b))).advance 4)))
  ∧ (∀ p ∈ alu16Table, ∀ (d a : BitVec 4) (s : State),
    let rs := [d.toNat, a.toNat]
    s.core.readsOk rs = true → (s.core.afterReads rs).writable d.toNat = true →
    exec (p.1 d a) s = .next (s.withCore
      (((s.core.afterReads rs).put d.toNat (p.2 (s.core.valueOf d.toNat) ((s.core.popped d.toNat).valueOf a.toNat))).advance 2)))

/-- R196: MADD adds the product to sD; CMOV writes sA where B is not zero and nothing otherwise, and reads sD in both cases (R176; that
it does in the second is the model's reading, log 101). -/
def Obligations.AluOfThreeOperands : Prop :=
  ∀ (d a : BitVec 4) (k : BitVec 1) (b : BitVec 6) (s : State),
    let c := s.core
    let x := c.valueOf a.toNat
    let y := (c.popped a.toNat).valueB k b
    let rs := a.toNat :: regsB k b
    (c.readsOk (rs ++ [d.toNat]) = true → (c.afterReads (rs ++ [d.toNat])).writable d.toNat = true →
      exec (.madd d a k b) s = .next (s.withCore
        (((c.afterReads (rs ++ [d.toNat])).put d.toNat ((c.afterReads rs).valueOf d.toNat + x * y)).advance 4)))
    ∧ (c.readsOk (rs ++ [d.toNat]) = true → y ≠ 0 → (c.afterReads (rs ++ [d.toNat])).writable d.toNat = true →
      exec (.cmov d a k b) s = .next (s.withCore (((c.afterReads (rs ++ [d.toNat])).put d.toNat x).advance 4)))
    ∧ (c.readsOk (rs ++ [d.toNat]) = true → y = 0 →
      exec (.cmov d a k b) s = .next (s.withCore ((c.afterReads (rs ++ [d.toNat])).advance 4)))

/-- R196, R197 and R175: an instruction on one register writes its value to sD and completes, with no other effect; so does BFI, which replaces
a field of sD by the low bits of sA. -/
def Obligations.AluOfOneOperand : Prop :=
  ∀ (d a : BitVec 4) (v : BitVec 17) (n w u : BitVec 6) (s : State),
    let c := s.core
    (∀ p ∈ unaryTable d a v n w u, c.readable p.2.2.1.toNat = true → (c.popped p.2.2.1.toNat).writable d.toNat = true →
      exec p.1 s = .next (s.withCore
        (((c.popped p.2.2.1.toNat).put d.toNat (p.2.2.2 (c.valueOf p.2.2.1.toNat))).advance p.2.1)))
    ∧ (c.readsOk [a.toNat, d.toNat] = true → (c.afterReads [a.toNat, d.toNat]).writable d.toNat = true → n.toNat + w.toNat < 64 →
      ∃ r : Word, (∀ i, r.getLsbD i = if n.toNat ≤ i ∧ i ≤ n.toNat + w.toNat then (c.valueOf a.toNat).getLsbD (i - n.toNat)
          else ((c.popped a.toNat).valueOf d.toNat).getLsbD i)
        ∧ exec (.bfi d a w n) s = .next (s.withCore (((c.afterReads [a.toNat, d.toNat]).put d.toNat r).advance 4)))

/-- R198: LI, LIH and LIX write their constants, EXTI and EXTS the extension registers (R171, R172); NOP only completes (R211). -/
def Obligations.ConstantsAndNop : Prop :=
  ∀ (d : BitVec 4) (v : BitVec 21) (e : BitVec 2) (x : BitVec 19) (z : BitVec 24) (u : BitVec 6) (s : State),
    let c := s.core
    let put := fun (w : Word) => s.withCore ((c.put d.toNat w).advance 4)
    (c.writable d.toNat = true → exec (.li d v) s = .next (put (v.signExtend 64)))
    ∧ (c.writable d.toNat = true → exec (.lih d v) s = .next (put (v.signExtend 64 * 2 ^ 17)))
    ∧ (c.writable d.toNat = true → c.poison.contains (0, 16 + e.toNat) = false →
        exec (.lix d e x) s = .next (put (c.ext[e.toNat]! + x.signExtend 64)))
    ∧ (c.writable d.toNat = true → exec (.li16 d u) s = .next (s.withCore ((c.put d.toNat (u.signExtend 64)).advance 2)))
    ∧ exec (.exti e z) s = .next (s.withCore
        ({ c with ext := c.ext.set! e.toNat (z.signExtend 64), poison := c.poison.erase (0, 16 + e.toNat) }.advance 4))
    ∧ (c.poison.contains (0, 16 + e.toNat) = false →
        exec (.exts e z) s = .next (s.withCore
          ({ c with ext := c.ext.set! e.toNat (c.ext[e.toNat]! * 2 ^ 24 + z.setWidth 64) }.advance 4)))
    ∧ exec .nop s = .next (s.withCore (c.advance 4)) ∧ exec .nop16 s = .next (s.withCore (c.advance 2))

/-- R196: what division by zero and the overflowing division give, and that neither traps. -/
def Obligations.DivisionCorners : Prop :=
  ∀ (d a : BitVec 4) (b : BitVec 6) (s : State),
    let c := s.core
    let rs := [a.toNat, b.toNat]
    let x := c.valueOf a.toNat
    let y := (c.popped a.toNat).valueOf b.toNat
    let put := fun (w : Word) => s.withCore (((c.afterReads rs).put d.toNat w).advance 4)
    c.readsOk rs = true → (c.afterReads rs).writable d.toNat = true →
    (y = 0 → exec (.div d a 0 b) s = .next (put (BitVec.allOnes 64)) ∧ exec (.divu d a 0 b) s = .next (put (BitVec.allOnes 64))
      ∧ exec (.rem d a 0 b) s = .next (put x) ∧ exec (.remu d a 0 b) s = .next (put x))
    ∧ (x = BitVec.intMin 64 → y = BitVec.allOnes 64 →
      exec (.div d a 0 b) s = .next (put (BitVec.intMin 64)) ∧ exec (.rem d a 0 b) s = .next (put 0))

/-- R199: FADD, FSUB, FMUL, FDIV, FFMA and FSQRT round the exact result once, in the mode of RM, write it and set the flags.  STATUS is not poisoned where
RM names its mode (R405).  That FDIV sets NV for 0/0 and for infinity by infinity, which R52 does not list, is the model's choice, taken from
IEEE 754 (log 13). -/
def Obligations.FloatRounded : Prop :=
  ∀ (d a : BitVec 4) (k : BitVec 1) (b : BitVec 6) (t : BitVec 1) (rm : BitVec 3) (sat : BitVec 1) (s : State),
    let c := s.core
    let rs := a.toNat :: regsB k b
    let f := fltFmt t
    let mode := if rm = 4 then c.rm else rm.toNat
    let x := f.value (fltCode t (c.valueOf a.toNat))
    let y := f.value (fltOperand (c.popped a.toNat) k b t)
    modeClean c rm = true →
    (∀ p ∈ fltTable, c.readsOk rs = true → (c.afterReads rs).writable d.toNat = true →
      exec (p.1 d a k b t rm sat) s = .next (s.withCore ((rounded (c.afterReads rs) d t mode sat (p.2 mode x y)).advance 4)))
    ∧ (c.readsOk (rs ++ [d.toNat]) = true → (c.afterReads (rs ++ [d.toNat])).writable d.toNat = true →
      exec (.ffma d a k b t rm sat) s = .next (s.withCore ((rounded (c.afterReads (rs ++ [d.toNat])) d t mode sat
        (FVal.fma mode x y (f.value (fltCode t ((c.afterReads rs).valueOf d.toNat))))).advance 4)))
    ∧ (c.readsOk [a.toNat] = true → (c.popped a.toNat).writable d.toNat = true →
      exec (.fsqrt d a t rm sat) s = .next (s.withCore ((rounded (c.popped a.toNat) d t mode sat x.sqrt).advance 4)))

/-- R199, R200: the floating instructions that round nothing write their value and set no flag; so does FCLASS. -/
def Obligations.FloatBits : Prop :=
  ∀ (d a : BitVec 4) (k : BitVec 1) (b : BitVec 6) (t : BitVec 1) (cc : BitVec 2) (s : State),
    let c := s.core
    let rs := a.toNat :: regsB k b
    let x := fltCode t (c.valueOf a.toNat)
    (∀ p ∈ fltBitsTable d a k b t cc, c.readsOk rs = true → (c.afterReads rs).writable d.toNat = true →
      exec p.1 s = .next (s.withCore
        (((c.afterReads rs).put d.toNat (BitVec.ofNat 64 (p.2 x (fltOperand (c.popped a.toNat) k b t)))).advance 4)))
    ∧ (c.readable a.toNat = true → (c.popped a.toNat).writable d.toNat = true →
      exec (.fclass d a t) s = .next (s.withCore
        (((c.popped a.toNat).put d.toNat (BitVec.ofNat 64 ((fltFmt t).classify x))).advance 4)))

/-- R201: FCVT converts the value of its source kind to its target kind, in the mode of RM, and sets the flags of the conversion.  STATUS is not poisoned
where RM names its mode (R405). -/
def Obligations.FloatConverts : Prop :=
  ∀ (d a : BitVec 4) (tk sk rm : BitVec 3) (sat : BitVec 1) (s : State),
    let c := s.core
    let r := kindConvert tk.toNat (if rm = 4 then c.rm else rm.toNat) (sat == 1) (kindValue sk.toNat (c.valueOf a.toNat))
    modeClean c rm = true → c.readable a.toNat = true → (c.popped a.toNat).writable d.toNat = true →
    exec (.fcvt d a tk sk rm sat) s = .next (s.withCore ((((c.popped a.toNat).put d.toNat r.1).orFlags r.2).advance 4))

/-- R167, R202 and R204: a branch enqueues its target behind the transfer queue with count 2 if it is taken, and annuls its two slots as
N says; its target is its own address and twice its displacement. -/
def Obligations.Branches : Prop :=
  (∀ p ∈ branchTable, ∀ (a b : BitVec 4) (n : BitVec 2) (disp : BitVec 15) (s : State),
    let c := s.core
    let rs := [a.toNat, b.toNat]
    let taken := p.2 (c.valueOf a.toNat) ((c.popped a.toNat).valueOf b.toNat)
    c.readsOk rs = true →
    exec (p.1 a b n disp) s = .next (s.withCore (branched (c.afterReads rs) 4
      (if taken then some (c.pc + 2 * disp.signExtend 64) else none)
      (match n.toNat with | 0 => false | 1 => taken | 2 => !taken | _ => true))))
  ∧ (∀ (hi a : BitVec 4) (lo : BitVec 2) (s : State),
    let c := s.core
    let go := fun (taken : Bool) => Host.Outcome.next (s.withCore (branched (c.popped a.toNat) 2
      (if taken then some (c.pc + 2 * (hi ++ lo).signExtend 64) else none) false))
    c.readable a.toNat = true →
    exec (.beqz hi a lo) s = go (decide (c.valueOf a.toNat = 0)) ∧ exec (.bnez hi a lo) s = go (decide (c.valueOf a.toNat ≠ 0)))

/-- R202 to R204: JAL and JALR write the link, are always taken, and annul their slots if N is 1; an odd target of JALR raises cause 0
with TVAL holding the target, and the jump has no effect. -/
def Obligations.Jumps : Prop :=
  (∀ (d : BitVec 4) (n : BitVec 1) (disp : BitVec 20) (s s1 : State) (l : Word),
    linkAddr s 4 s = .ok (l, s1) → s1.core.writable d.toNat = true →
    exec (.jal d n disp) s = .next (s1.withCore (branched (s1.core.put d.toNat l) 4 (some (s.core.pc + 2 * disp.signExtend 64)) (n == 1))))
  ∧ (∀ (d a : BitVec 4) (n : BitVec 1) (s s1 : State) (l : Word),
    let t := s.core.valueOf a.toNat
    s.core.readable a.toNat = true → t.toNat % 2 = 0 →
    (linkAddr s 4 (s.popped a.toNat) = .ok (l, s1) → s1.core.writable d.toNat = true →
      exec (.jalr d a n) s = .next (s1.withCore (branched (s1.core.put d.toNat l) 4 (some t) (n == 1))))
    ∧ (linkAddr s 2 (s.popped a.toNat) = .ok (l, s1) → s1.core.writable d.toNat = true →
      exec (.jalr16 d a n) s = .next (s1.withCore (branched (s1.core.put d.toNat l) 2 (some t) (n == 1)))))
  ∧ (∀ (d a : BitVec 4) (n : BitVec 1) (s : State),
    s.core.readable a.toNat = true → (s.core.valueOf a.toNat).toNat % 2 = 1 →
    exec (.jalr d a n) s = .next (raiseTrap s s.cur 0 (s.core.valueOf a.toNat))
      ∧ exec (.jalr16 d a n) s = .next (raiseTrap s s.cur 0 (s.core.valueOf a.toNat)))

/-- R193: CSRR copies a control register that it may read to sD; CSRW, CSRS and CSRC write it and copy its old value to sD in one step,
after an open region has committed (R335). -/
def Obligations.ControlRegisters : Prop :=
  (∀ (d : BitVec 4) (n : BitVec 12) (s : State), csrAllowed s.core n = true → s.core.writable d.toNat = true →
    exec (.csrr d n) s = .next (s.withCore ((s.core.put d.toNat (csrValue s s.cur n.toNat)).advance 4)))
  ∧ (∀ p ∈ csrTable, ∀ (d a : BitVec 4) (n : BitVec 12) (s : State),
    let s1 := s.terminated
    let x := s1.core.valueOf a.toNat
    let old := csrValue (s1.popped a.toNat) s.cur n.toNat
    let s2 := putCsr (s1.popped a.toNat) s.cur n.toNat p.2 x
    s.core.twin = none → csrAllowed s1.core n = true → s1.core.readable a.toNat = true → s2.core.writable d.toNat = true →
    exec (p.1 d a n) s = .next (s2.withCore ((s2.core.put d.toNat old).advance 4)))

/-- R211 to R214 and R194: what the system instructions do when they complete, after an open region has committed.  That TRAP counts as an instruction
that completes, before it enters its trap, is the model's reading (log 89).  TRAP finds TVEC, and SLEEP EVSTAT, not poisoned (R405), and QCFG takes
the marks of what it writes (R404). -/
def Obligations.SystemInstructions : Prop :=
  ∀ (a : BitVec 4) (s : State),
    let s1 := s.terminated
    let c := s1.core
    let x := c.valueOf a.toNat
    s.core.twin = none →
    (c.readable a.toNat = true → c.tvecBad = false → exec (.trap a) s = .next
      (takeTrap (s1.withCore ((c.popped a.toNat).advance 4)) s.cur (if c.supervisor then 9 else 8) x false (c.flow 4).1))
    ∧ exec .brk s = .next (raiseTrap s1 s.cur 3 c.pc)
    ∧ (c.readable a.toNat = true → c.poison.contains (0, 4096 + 0x001) = false → (c.evstat &&& x &&& 7 ≠ 0 ∨ (pendingInterrupt s1 s.cur).isSome = true) →
      exec (.sleep a) s = .next (s1.withCore ((c.popped a.toNat).advance 4)))
    ∧ (c.tq = [] → exec .fenceI s = .next (s1.withCore ({ c with ilines := [] }.advance 4)))
    ∧ (c.readable a.toNat = true → qcfgOk x = true → (∀ r, 12 ≤ r → r < 16 → c.pendingReg r = false) → exec (.qcfg a) s = .next (s1.withCore
      ({ (c.popped a.toNat).overwritten [12, 13, 14, 15, 4096 + 0x002] with
         qcfg := x, queues := Vector.replicate 4 [], regs := (((c.regs.set 12 0).set 13 0).set 14 0).set 15 0 }.advance 4)))

/-- R210: ERET in supervisor mode, with an empty transfer queue, no annulment and no region, and with a consistent TBQ, completes and
restores what trap entry has saved; in user mode it is illegal with SUB 0x06, with an inconsistent TBQ with SUB 0x02, which stands higher
in the table of R187, and otherwise with a pending transfer, an annulment or in a region with SUB 0x07, and has no other effect.  The
registers that it reads are not poisoned (R405). -/
def Obligations.ReturnFromTrap : Prop :=
  ∀ s : State,
    let c := s.core
    let busy := !(c.tq.isEmpty && c.an == 0 && c.region.isNone)
    let clean := ∀ n ∈ [0x000, 0x101, 0x104, 0x105, 0x106], c.poison.contains (0, 4096 + n) = false
    (c.supervisor = true → clean → busy = false → tbqConsistent c.tbq = true → ∃ t, exec .eret s = .next t
      ∧ t.core.pc = c.tepc ∧ t.core.tq = tbqTransfers c.tbq c.tbt0 c.tbt1 ∧ t.core.an = c.tbq.toNat / 64 % 4
      ∧ t.core.pendingRegion = (if c.tbq.toNat / 256 % 2 = 1 then some (tbqWindow c.tbq) else none)
      ∧ t.core.supervisor = c.status.getLsbD 18 ∧ t.core.ie = c.status.getLsbD 19
      ∧ (∀ i, i ≠ 17 → i ≠ 20 → t.core.status.getLsbD i = c.status.getLsbD i)
      ∧ t.core.instret = c.instret + 1 ∧ t.core.regs = c.regs ∧ t.core.queues = c.queues ∧ othersKept s t)
    ∧ (c.supervisor = false → exec .eret s = .next (raiseTrap s s.cur 2 (illegalVal 0x06 true (encode .eret))))
    ∧ (c.supervisor = true → clean → tbqConsistent c.tbq = true → busy = true →
      exec .eret s = .next (raiseTrap s s.cur 2 (illegalVal 0x07 true (encode .eret))))
    ∧ (c.supervisor = true → clean → tbqConsistent c.tbq = false →
      exec .eret s = .next (raiseTrap s s.cur 2 (illegalVal 0x02 true (encode .eret))))

/-- R208: taking a trap outside a region saves the resume address, the transfer queue and the status, enters supervisor mode with
interrupts disabled, and goes on at the handler, whose vector is not poisoned (R405); registers and memory are as before. -/
def Obligations.TrapEntry : Prop :=
  ∀ (s : State) (cause : Nat) (val : Word) (int : Bool) (resume : Word),
    let c := s.core
    let t := (takeTrap s s.cur cause val int resume)
    c.region = none → c.tvecBad = false → c.tvec.toNat / 4 ≠ 0 →
    t.core.tepc = resume ∧ t.core.tcause = BitVec.ofNat 64 ((if int then 2 ^ 63 else 0) + cause) ∧ t.core.tval = val
      ∧ t.core.tbq = c.tbqNow ∧ t.core.pc = BitVec.ofNat 64 (c.tvec.toNat / 4 * 4)
      ∧ t.core.status.getLsbD 19 = c.status.getLsbD 20 ∧ t.core.status.getLsbD 20 = false
      ∧ t.core.status.getLsbD 18 = c.status.getLsbD 17 ∧ t.core.status.getLsbD 17 = true
      ∧ t.core.tq = [] ∧ t.core.an = 0 ∧ t.core.pendingRegion = none
      ∧ t.core.regs = c.regs ∧ t.mem = s.mem ∧ (∀ k, k ≠ s.cur → coreAt t k = coreAt s k)

namespace Sys2Proof.Spec

/-! ### Loads and stores (R222 to R224) -/

/-- One form of a load or store: the instruction, the registers that it reads in order, its effective address, the access size, its policy
field, whether it acquires, its ORD and SCOPE, and the size of the instruction. -/
structure Access where
  instr : Instr
  regs : List Nat
  ea : Word
  size : Nat
  pol : Nat
  acquire : Bool
  ord : Nat
  scope : Nat
  length : Nat

/-- A form of an M-format instruction: sA + OFF × size. -/
def mForm (i : Instr) (rs : List Nat) (x : Word) (size : Nat) (ord : BitVec 2) (scope : BitVec 3) (pol : BitVec 2) (off : BitVec 10) : Access :=
  { instr := i, regs := rs, ea := x + off.signExtend 64 * BitVec.ofNat 64 size, size := size, pol := pol.toNat, acquire := ord == 1
    ord := ord.toNat, scope := scope.toNat, length := 4 }

/-- Every form of a load, with where its value goes (R222, R224, R175). -/
noncomputable def loadForms (c : Core) (d a b : BitVec 4) (ord : BitVec 2) (scope : BitVec 3) (pol : BitVec 2) (off : BitVec 10) (x : BitVec 2) :
    List (Access × LoadDst) :=
  let v := c.valueOf a.toNat
  let m := fun (i : Instr) (n : Nat) => mForm i [a.toNat] v n ord scope pol off
  let plain := fun (i : Instr) (rs : List Nat) (ea : Word) (n l : Nat) =>
    ({ instr := i, regs := rs, ea := ea, size := n, pol := 0, acquire := false, ord := 0, scope := 0, length := l } : Access)
  [(m (.ldb d a ord scope pol off) 1, .reg d.toNat 1 true), (m (.ldbu d a ord scope pol off) 1, .reg d.toNat 1 false),
   (m (.ldh d a ord scope pol off) 2, .reg d.toNat 2 true), (m (.ldhu d a ord scope pol off) 2, .reg d.toNat 2 false),
   (m (.ldw d a ord scope pol off) 4, .reg d.toNat 4 true), (m (.ldwu d a ord scope pol off) 4, .reg d.toNat 4 false),
   (m (.ldd d a ord scope pol off) 8, .reg d.toNat 8 false), (m (.ldq d a ord scope pol off) 16, .pair d.toNat),
   (plain (.ldx d a b) [a.toNat, b.toNat] (v + (c.popped a.toNat).valueOf b.toNat) 8 4, .reg d.toNat 8 false),
   (plain (.ldw16 d a x) [a.toNat] (v + BitVec.ofNat 64 (x.toNat * 4)) 4 2, .reg d.toNat 4 true),
   (plain (.ldd16 d a x) [a.toNat] (v + BitVec.ofNat 64 (x.toNat * 8)) 8 2, .reg d.toNat 8 false)]

/-- Every form of a store, with the number that it stores (R223, R224, R175): the registers are read in the order A, B, D. -/
noncomputable def storeForms (c : Core) (d a b : BitVec 4) (ord : BitVec 2) (scope : BitVec 3) (pol : BitVec 2) (off : BitVec 10) (x : BitVec 2) :
    List (Access × Nat) :=
  let v := c.valueOf a.toNat
  let c1 := c.popped a.toNat
  let w := (c1.valueOf d.toNat).toNat
  let m := fun (i : Instr) (n : Nat) => mForm i [a.toNat, d.toNat] v n ord scope pol off
  let plain := fun (i : Instr) (rs : List Nat) (ea : Word) (n l : Nat) =>
    ({ instr := i, regs := rs, ea := ea, size := n, pol := 0, acquire := false, ord := 0, scope := 0, length := l } : Access)
  [(m (.stb d a ord scope pol off) 1, w), (m (.sth d a ord scope pol off) 2, w), (m (.stw d a ord scope pol off) 4, w),
   (m (.std d a ord scope pol off) 8, w),
   (mForm (.stq d a ord scope pol off) (a.toNat :: if d = 0 then [] else [d.toNat, d.toNat + 1]) v 16 ord scope pol off,
     if d = 0 then 0 else w + 2 ^ 64 * ((c1.popped d.toNat).valueOf (d.toNat + 1)).toNat),
   (plain (.stx d a b) [a.toNat, b.toNat, d.toNat] (v + c1.valueOf b.toNat) 8 4, ((c1.popped b.toNat).valueOf d.toNat).toNat),
   (plain (.stw16 d a x) [a.toNat, d.toNat] (v + BitVec.ofNat 64 (x.toNat * 4)) 4 2, w),
   (plain (.std16 d a x) [a.toNat, d.toNat] (v + BitVec.ofNat 64 (x.toNat * 8)) 8 2, w)]

/-- The entry of an access that the running core's instruction makes; one of space 0 notes whether its address lies in an arena (R98). -/
def entryOf (s : State) (a : Action) (pl : Place × Policy) (ea : Word) (ord scope : Nat) : Entry :=
  { act := a, place := pl.1, ea := ea, pol := pl.2, ord := ord, scope := scope, stamp := s.core.stamp, committed := false, sent := false
    checked := s.core.twinOk, user := !s.core.supervisor, cell := pl.1.space == .mem && inArena s ea }

/-- The core with an entry behind its commit queue. -/
def queued (c : Core) (e : Entry) : Core := { c with stamp := c.stamp + 1, cq := c.cq ++ [{ e with committed := true }] }
/-- The core with an entry behind its region buffer. -/
def held (c : Core) (e : Entry) : Core := { c with stamp := c.stamp + 1, rbuf := c.rbuf ++ [e] }

/-- The running core, at c, whose instruction has made an entry for each of its stores, in order: as many as have room are in the commit queue, and it
waits until the others have entered (log 18). -/
def storesBegun (s : State) (c : Core) (bs : List ((Place × Policy) × Word × SMap Byte)) : Core :=
  let es := bs.zipIdx.map (fun b =>
    { entryOf s (.store b.1.2.2) b.1.1 b.1.2.1 0 0 with stamp := c.stamp + b.2, committed := true })
  { c with stamp := c.stamp + bs.length, cq := c.cq ++ es.take (16 - c.cq.length), issuing := es.drop (16 - c.cq.length)
           wait := some .stores, stalled := true }

/-- Outside regions an entry can join the commit queue (R122). -/
def queueOpen (c : Core) : Bool := c.region.isNone && c.rbuf.isEmpty && decide (c.cq.length < 16)
/-- In a region an entry joins the region buffer as a new one (R122). -/
def bufferOpen (c : Core) (e : Entry) : Bool :=
  c.region.isSome && (match c.rbuf.getLast? with | some y => !merges y e && decide (c.held + e.slots ≤ 64) | none => true)

/-- A load that has passed its checks may go on (R109, R121, R195, R334): no earlier acquire is to perform, its destination is free, and it
reads only marked blocks of the window. -/
def loadOpen (s : State) (dst : LoadDst) (pl : Place) (size : Nat) (ea : Word) : Prop :=
  s.core.acquirePending = false ∧ dst.free s = .ok ((), s) ∧ windowRead pl size ea s = .ok ((), s)

/-! ### Atomics (R225 to R228) -/

/-- The atomics with their operations (R226). -/
def amoTable : List ((BitVec 4 → BitVec 4 → BitVec 1 → BitVec 6 → BitVec 2 → BitVec 3 → BitVec 1 → Instr) × AmoOp) :=
  [(.amoadd, .add), (.amoand, .and), (.amoor, .or), (.amoxor, .xor), (.amomin, .min), (.amomax, .max), (.amominu, .minu),
   (.amomaxu, .maxu), (.amoswap, .swap), (.cas, .cas)]

/-- The registers of an atomic, in order: A, B, and D where it is CAS. -/
def amoRegs (op : AmoOp) (d a : BitVec 4) (k : BitVec 1) (b : BitVec 6) : List Nat :=
  a.toNat :: regsB k b ++ (if op = .cas then [d.toNat] else [])

/-- The expected value of CAS; 0 for the others. -/
def amoExpected (op : AmoOp) (c : Core) (d a : BitVec 4) (k : BitVec 1) (b : BitVec 6) : Word :=
  if op = .cas then (c.afterReads (a.toNat :: regsB k b)).valueOf d.toNat else 0

/-- The reductions with their operations (R227). -/
def redTable (a : BitVec 4) (k : BitVec 1) (b : BitVec 6) (ord : BitVec 2) (scope : BitVec 3) (w : BitVec 1) : List (Instr × RedOp) :=
  [(.redadd a k b ord scope w, .add), (.redmin a k b ord scope w, .min), (.redmax a k b ord scope w, .max)]

end Sys2Proof.Spec

/-- R222, R223: a load from the core's own A or C buffer takes its bytes, those of the core's own earlier stores first (R109), into its
destination, extended as the load says, and completes; it changes nothing else. -/
def Obligations.LoadsFromOwnBuffers : Prop :=
  ∀ (d a b : BitVec 4) (ord : BitVec 2) (scope : BitVec 3) (pol : BitVec 2) (off : BitVec 10) (x : BitVec 2) (s s1 : State)
    (pl : Place × Policy), ∀ p ∈ loadForms s.core d a b ord scope pol off x,
    s.core.reply = none → s.core.remoteLoad = false →
    s.core.readsOk p.1.regs = true → checkAccess .load p.1.ea p.1.size p.1.pol (s.afterReads p.1.regs) = .ok (pl, s1) →
    (pl.1.space = .bufA ∨ pl.1.space = .bufC) → pl.1.key = s.cur → loadOpen s1 p.2 pl.1 p.1.size p.1.ea →
    poisonAt s1 pl.1 p.1.size = none →
    exec p.1.instr s = .next (s1.withCore
      ((p.2.write s1.core (fwdNat s1 pl.1 (forwarded s1.core pl.1 p.1.size) p.1.size)).advance p.1.length))

/-- R113, R120, R221, R223: a load of space 0 that misses in its herd cache joins the load path with the bytes that it forwards, and completes;
its register is written when it performs. A load of another core's buffer is sent to its bank with the bytes that it forwards, unless it forwards them
all, and waits; once it has all its bytes it writes its destination and completes, and a trap in the answer is precise. That it waits is the model's
choice (log 28). -/
def Obligations.LoadsJoinTheLoadPath : Prop :=
  ∀ (d a b : BitVec 4) (ord : BitVec 2) (scope : BitVec 3) (pol : BitVec 2) (off : BitVec 10) (x : BitVec 2) (s s1 : State)
    (pl : Place × Policy) (l : LoadEntry) (val : Word) (cause : Nat), ∀ p ∈ loadForms s.core d a b ord scope pol off x,
    let c := s1.core
    let fwd := forwarded c pl.1 p.1.size
    let entry : LoadEntry := { dst := p.2, place := pl.1, size := p.1.size, ea := p.1.ea, pol := pl.2, acquire := p.1.acquire
                               scope := p.1.scope, stamp := c.stamp, fwd := fwd, remote := false, crc := 0 }
    let t := s.afterReads p.1.regs
    s.core.readsOk p.1.regs = true →
    (s.core.reply = none → s.core.remoteLoad = false →
      checkAccess .load p.1.ea p.1.size p.1.pol t = .ok (pl, s1) → loadOpen s1 p.2 pl.1 p.1.size p.1.ea →
      (pl.1.space = .mem → fwd.length ≠ p.1.size → herdHit s1 (herdOf s1.cur) (lineOf pl.1.addr) pl.2 = none →
        swmCopy s1 (herdOf s1.cur) (lineOf pl.1.addr) = false →
        exec p.1.instr s = .next (s1.withCore ({ c with stamp := c.stamp + 1, loads := c.loads ++ [entry] }.advance p.1.length)))
      ∧ ((pl.1.space = .bufA ∨ pl.1.space = .bufC) → pl.1.key ≠ s.cur →
        let own := forwarded s.core pl.1 p.1.size
        let sent : LoadEntry := { entry with
          dst := .pair 0, pol := .direct, acquire := false, stamp := s.core.stamp, fwd := own, remote := true }
        exec p.1.instr s = .next { (s.withCore { s.core with
            stamp := s.core.stamp + 1, wait := some .reply, stalled := true, loads := s.core.loads ++ [sent] }) with
          net := s.net ++ if own.length = p.1.size then []
            else [{ src := s.cur, dst := pl.1.key, off := pl.1.addr, ea := p.1.ea, kind := .load s.core.stamp }] }))
    ∧ (s.core.reply = none → s.core.awayLoads = [l] → l.fwd.length = l.size →
      let t1 := t.withCore t.core.dropAway
      p.2.free t1 = .ok ((), t1) →
      exec p.1.instr s = .next (t1.withCore ((p.2.write t1.core (leNat (fun i => SMap.getD l.fwd 0 i) l.size)).advance p.1.length)))
    ∧ (s.core.reply = some (.trap cause val) → exec p.1.instr s = .next (raiseTrap s s.cur cause val))

/-- R113, R114: a load of space 0 that hits a leased copy of its herd takes its bytes from it, those of the core's own earlier stores first,
and completes at once. -/
def Obligations.LoadsHitTheHerdCache : Prop :=
  ∀ (d a b : BitVec 4) (ord : BitVec 2) (scope : BitVec 3) (pol : BitVec 2) (off : BitVec 10) (x : BitVec 2) (s s1 : State)
    (pl : Place × Policy) (l : HLine), ∀ p ∈ loadForms s.core d a b ord scope pol off x,
    let c := s1.core
    let fwd := forwarded c pl.1 p.1.size
    let line := lineOf pl.1.addr
    s.core.reply = none → s.core.remoteLoad = false →
    s.core.readsOk p.1.regs = true → checkAccess .load p.1.ea p.1.size p.1.pol (s.afterReads p.1.regs) = .ok (pl, s1) →
    loadOpen s1 p.2 pl.1 p.1.size p.1.ea → pl.1.space = .mem → pl.2 ≠ .swm → c.loads = [] → fwd.length ≠ p.1.size →
    homeOnly s1 pl p.1.acquire p.1.scope = false → herdHit s1 (herdOf s1.cur) line pl.2 = some l → s1.poison = [] →
    exec p.1.instr s = .next (s1.withCore
      ((p.2.write c (leNat (fun i => (SMap.get? fwd i).getD (l.byte (pl.1.addr % 64 + i))) p.1.size)).advance p.1.length))

/-- R223: a store outside regions becomes one entry of the commit queue, with its bytes, and completes; memory and buffers are as before
until the entry performs. In a region an entry that lies outside the window and merges with none is held in the region buffer (R122). -/
def Obligations.StoresEnterTheQueue : Prop :=
  ∀ (d a b : BitVec 4) (ord : BitVec 2) (scope : BitVec 3) (pol : BitVec 2) (off : BitVec 10) (x : BitVec 2) (s s1 : State)
    (pl : Place × Policy), ∀ p ∈ storeForms s.core d a b ord scope pol off x,
    let e := entryOf s1 (.store (leBytes p.2 p.1.size)) pl p.1.ea p.1.ord p.1.scope
    s.core.readsOk p.1.regs = true → checkAccess .store p.1.ea p.1.size p.1.pol (s.afterReads p.1.regs) = .ok (pl, s1) →
    (queueOpen s1.core = true → exec p.1.instr s = .next (s1.withCore ((queued s1.core e).advance p.1.length)))
    ∧ (∀ r, s1.core.region = some r → inWindow r s1.cur pl.1 = false → bufferOpen s1.core e = true →
      exec p.1.instr s = .next (s1.withCore ((held s1.core e).advance p.1.length)))

/-- R122, R332: a store of a region into its local write window is written to the window at once, and its bytes are marked in the region, which stays
open; every other byte of the core's three buffers, and all of memory, is as before. -/
def Obligations.StoresIntoTheWindow : Prop :=
  ∀ (d a b : BitVec 4) (ord : BitVec 2) (scope : BitVec 3) (pol : BitVec 2) (off : BitVec 10) (x : BitVec 2) (s s1 : State)
    (pl : Place × Policy) (r : Region), ∀ p ∈ storeForms s.core d a b ord scope pol off x,
    s.core.readsOk p.1.regs = true → checkAccess .store p.1.ea p.1.size p.1.pol (s.afterReads p.1.regs) = .ok (pl, s1) →
    s1.core.region = some r → inWindow r s1.cur pl.1 = true → s1.core.acquirePending = false → s1.core.cq = [] → s1.core.rbuf = [] →
    s1.core.twin = none → actTagged s1 pl.1 (.store (leBytes p.2 p.1.size)) = false →
    SMap.sorted s1.core.bufA = true → SMap.sorted s1.core.bufC = true →
    ∃ t, exec p.1.instr s = .next t ∧ Completes s1 t p.1.length ∧ t.mem = s1.mem
      ∧ (∀ i, placeByte t { space := pl.1.space, key := s1.cur, addr := 0 } i
          = if pl.1.addr ≤ i ∧ i < pl.1.addr + p.1.size then BitVec.ofNat 8 (p.2 / 256 ^ (i - pl.1.addr))
            else placeByte s1 { space := pl.1.space, key := s1.cur, addr := 0 } i)
      ∧ (∀ b ∈ [Space.bufW, Space.bufA, Space.bufC], b ≠ pl.1.space →
        ∀ i, placeByte t { space := b, key := s1.cur, addr := 0 } i = placeByte s1 { space := b, key := s1.cur, addr := 0 } i)
      ∧ t.core.region = some (r.mark pl.1.addr p.1.size)

/-- R225, R226: an atomic with D = s0 becomes one entry of the commit queue (of the region buffer in a region) and completes. -/
def Obligations.AtomicsWithoutResult : Prop :=
  ∀ p ∈ amoTable, ∀ (a : BitVec 4) (k : BitVec 1) (b : BitVec 6) (ord : BitVec 2) (scope : BitVec 3) (w : BitVec 1) (s s1 : State)
    (pl : Place × Policy),
    let c := s.core
    let rs := amoRegs p.2 0 a k b
    let x := c.valueOf a.toNat
    let e := entryOf s1 (.amo p.2 (w == 1) ((c.popped a.toNat).valueB k b) (amoExpected p.2 c 0 a k b) false) pl x ord.toNat scope.toNat
    c.readsOk rs = true → checkAccess .atomic x (if w = 1 then 4 else 8) 0 (s.afterReads rs) = .ok (pl, s1) →
    (queueOpen s1.core = true → exec (p.1 0 a k b ord scope w) s = .next (s1.withCore ((queued s1.core e).advance 4)))
    ∧ (bufferOpen s1.core e = true → exec (p.1 0 a k b ord scope w) s = .next (s1.withCore ((held s1.core e).advance 4)))

/-- R225, R226: an atomic with a result ends an open region, sends its entry through the commit queue and waits; when the old value has come
it writes it to sD and completes. -/
def Obligations.AtomicsWithResult : Prop :=
  ∀ p ∈ amoTable, ∀ (d a : BitVec 4) (k : BitVec 1) (b : BitVec 6) (ord : BitVec 2) (scope : BitVec 3) (w : BitVec 1) (s s1 : State)
    (pl : Place × Policy) (v u : Word),
    let t := s.terminated
    let c := t.core
    let rs := amoRegs p.2 d a k b
    let x := c.valueOf a.toNat
    let e := entryOf s1 (.amo p.2 (w == 1) ((c.popped a.toNat).valueB k b) (amoExpected p.2 c d a k b) true) pl x ord.toNat scope.toNat
    d ≠ 0 → s.core.twin = none → c.readsOk rs = true →
    (c.reply = some (.value v u) → (c.afterReads rs).writable d.toNat = true →
      exec (p.1 d a k b ord scope w) s = .next (t.withCore (((c.afterReads rs).put d.toNat v).advance 4)))
    ∧ (c.reply = none → c.wait = none → checkAccess .atomic x (if w = 1 then 4 else 8) 0 (t.afterReads rs) = .ok (pl, s1) →
      s1.core.writable d.toNat = true → s1.core.rbuf = [] → s1.core.cq.length < 16 →
      exec (p.1 d a k b ord scope w) s = .next (t.withCore { queued c e with wait := some .reply, stalled := true }))

/-- R227, R228: a reduction becomes one entry with the contributor index at issue, which is not poisoned (R405), and completes; one that the
commutative range of its address does not accept raises cause 7. -/
def Obligations.Reductions : Prop :=
  ∀ (a : BitVec 4) (k : BitVec 1) (b : BitVec 6) (ord : BitVec 2) (scope : BitVec 3) (w : BitVec 1) (s s1 : State) (pl : Place × Policy),
    let c := s.core
    let x := c.valueOf a.toNat
    let good := fun (op : RedOp) => decide (pl.1.space = .mem) && (match rangeOf s1 pl.1.addr with
      | some (_, r) => !r.closed && !rangeAccepts r op (w == 1) | none => false)
    let rule := fun (i : Instr) (op : RedOp) (rs : List Nat) (y : Word) =>
      c.readsOk rs = true → checkAccess .atomic x (if w = 1 then 4 else 8) 0 (s.afterReads rs) = .ok (pl, s1) →
      let e := entryOf s1 (.red op (w == 1) y s1.core.contrib.toNat) pl x ord.toNat scope.toNat
      let clean := s1.core.poison.contains (0, 4096 + 0x003) = false
      (good op = false → clean → queueOpen s1.core = true → exec i s = .next (s1.withCore ((queued s1.core e).advance 4)))
      ∧ (good op = false → clean → bufferOpen s1.core e = true → exec i s = .next (s1.withCore ((held s1.core e).advance 4)))
      ∧ (good op = true → exec i s = .next (raiseTrap s s.cur 7 x))
    (∀ p ∈ redTable a k b ord scope w, rule p.1 p.2 (a.toNat :: regsB k b) ((c.popped a.toNat).valueB k b))
    ∧ (b.toNat < 16 → rule (.redfadd a (b.setWidth 4) ord scope w) .fadd [a.toNat, b.toNat] ((c.popped a.toNat).valueOf b.toNat))

/-- R231, R232: TAKE and PEEK end an open region, send a message to the bank and wait; with the bank's answer they write it to sD and complete.
PUT and FEINIT become one entry and complete.  That the message of TAKE and PEEK leaves at issue is the model's choice (log 143). -/
def Obligations.FullEmptyOperations : Prop :=
  (∀ (d a : BitVec 4) (ord : BitVec 2) (scope : BitVec 3) (s s1 : State) (pl : Place × Policy) (v u : Word),
    ∀ p ∈ [(Instr.take d a ord scope, MsgKind.take), (Instr.peek d a ord scope, MsgKind.peek)],
    let t := s.terminated
    let c := t.core
    let x := c.valueOf a.toNat
    s.core.twin = none → c.readable a.toNat = true →
    (c.reply = some (.value v u) → (c.popped a.toNat).writable d.toNat = true →
      exec p.1 s = .next (t.withCore (((c.popped a.toNat).put d.toNat v).advance 4)))
    ∧ (c.reply = none → c.wait = none → checkAccess .take x 8 0 (t.popped a.toNat) = .ok (pl, s1) →
      s1.core.writable d.toNat = true → s1.core.acquirePending = false →
      exec p.1 s = .next { t.withCore { c with wait := some .bank, stalled := true } with
        net := t.net ++ [{ src := t.cur, dst := pl.1.key, off := pl.1.addr, ea := x, kind := p.2 }] }))
  ∧ (∀ (a b : BitVec 4) (ord : BitVec 2) (scope : BitVec 3) (full : BitVec 1) (s s1 : State) (pl : Place × Policy),
    let c := s.core
    let x := c.valueOf a.toNat
    let v := (c.popped a.toNat).valueOf b.toNat
    let put := entryOf s1 (.put v) pl x ord.toNat scope.toNat
    let init := entryOf s1 (.feinit v (full == 1)) pl x 0 scope.toNat
    c.readsOk [a.toNat, b.toNat] = true → checkAccess .put x 8 0 (s.afterReads [a.toNat, b.toNat]) = .ok (pl, s1) →
    (queueOpen s1.core = true → exec (.put a b ord scope) s = .next (s1.withCore ((queued s1.core put).advance 4)))
    ∧ (bufferOpen s1.core put = true → exec (.put a b ord scope) s = .next (s1.withCore ((held s1.core put).advance 4)))
    ∧ ((pl.1.key = s1.cur → syncTagged s1.core pl.1.addr = false) →
      (queueOpen s1.core = true → exec (.feinit a b scope full) s = .next (s1.withCore ((queued s1.core init).advance 4)))
      ∧ (bufferOpen s1.core init = true → exec (.feinit a b scope full) s = .next (s1.withCore ((held s1.core init).advance 4)))))

/-- R234, R236, R237: FENCE completes once the earlier accesses have performed; PREF starts the cache walker, RFLUSH is one entry, and RINV, after an
open region has committed and the core's entries have drained, gives the walker its lines, waits for it, and completes with its answer; with a pointer of
another space PREF and RFLUSH only complete, and RINV gives the walker no line. -/
def Obligations.FencesAndWalker : Prop :=
  ∀ (a b : BitVec 4) (scope : BitVec 3) (s : State) (pol : Policy) (v u : Word),
    let c := s.core
    let rs := [a.toNat, b.toNat]
    let x := c.valueOf a.toNat
    let n := ((c.popped a.toNat).valueOf b.toNat).toNat
    let c' := c.afterReads rs
    let e := { entryOf (s.afterReads rs) (.rflush (BitVec.ofNat 64 (x.toNat % 2 ^ 52)) n) ({ space := .mem, key := 0, addr := 0 }, pol) x 0 0 with
      enc := encode (.rflush a b), cell := false }
    (fenced s s.cur scope.toNat = true → exec (.fence scope) s = .next (s.withCore (c.advance 4)))
    ∧ (c.readsOk rs = true → walkPolicy x = some pol → walkRoom c' = true →
      exec (.pref a b) s = .next (s.withCore ({ c' with walks := c'.walks ++ [walkOf 0 (x.toNat % 2 ^ 52) n pol] }.advance 4)))
    ∧ (c.readsOk rs = true → walkPolicy x = none →
      exec (.pref a b) s = .next (s.withCore (c'.advance 4)) ∧ exec (.rflush a b) s = .next (s.withCore (c'.advance 4)))
    ∧ (c.readsOk rs = true → walkPolicy x = some pol → queueOpen c' = true →
      exec (.rflush a b) s = .next (s.withCore ((queued c' e).advance 4)))
    ∧ (let t := s.terminated
       let y := t.core.valueOf a.toNat
       let m := ((t.core.popped a.toNat).valueOf b.toNat).toNat
       let begun := fun (w : Walk) => t.withCore { t.core with walks := t.core.walks ++ [w], wait := some .reply, stalled := true }
       s.core.twin = none →
       (t.core.readsOk rs = true → t.core.reply = some (.value v u) →
         exec (.rinv a b) s = .next (t.withCore ((t.core.afterReads rs).advance 4)))
       ∧ (t.core.reply = none → t.core.wait = some .reply → exec (.rinv a b) s = .next (t.withCore { t.core with stalled := true }))
       ∧ (t.core.readsOk rs = true → t.core.reply = none → t.core.wait = none → t.core.acquirePending = false → t.core.drained = true →
         walkRoom t.core = true →
         (walkPolicy y = some pol → exec (.rinv a b) s = .next (begun (walkOf 2 (y.toNat % 2 ^ 52) m pol)))
         ∧ (walkPolicy y = none → exec (.rinv a b) s = .next (begun (walkOf 2 0 0 .direct)))))

/-- R235, R238 to R242: RETAIN and UNRETAIN in supervisor mode, CRDECL and CRCLR, and WAITA, each as it completes after an open region has
committed.  That CRDECL answers −3 for a pointer of another space before it looks at anything else is the model's choice (log 118), and so is the order
of RETAIN's answers where several apply (log 120). -/
def Obligations.RangesRetentionAndWaits : Prop :=
  ∀ (d a b : BitVec 4) (elem : BitVec 3) (op : BitVec 2) (s : State),
    let t := s.terminated
    let c := t.core
    let x := c.valueOf a.toNat
    let y := (c.popped a.toNat).valueOf b.toNat
    let z := (c.afterReads [a.toNat, b.toNat]).valueOf d.toNat
    s.core.twin = none →
    (c.supervisor = true → c.readsOk [a.toNat, b.toNat, d.toNat] = true →
      let r := retainOp (t.afterReads [a.toNat, b.toNat, d.toNat]) x.toNat y.toNat (z.toNat % 16)
      r.2.core.writable d.toNat = true → exec (.retain d a b) s = .next (r.2.withCore ((r.2.core.put d.toNat r.1).advance 4)))
    ∧ (c.supervisor = true → c.readable a.toNat = true →
      let u := unretainOp (t.popped a.toNat) x.toNat
      exec (.unretain a) s = .next (u.withCore (u.core.advance 4)))
    ∧ (c.readsOk [a.toNat, b.toNat] = true → (c.afterReads [a.toNat, b.toNat]).writable d.toNat = true → (walkPolicy x).isNone = true →
      exec (.crdecl d a b elem op) s = .next (t.withCore (((c.afterReads [a.toNat, b.toNat]).put d.toNat (-3)).advance 4)))
    ∧ (c.readable a.toNat = true → ∀ r, SMap.get? t.ranges (x.toNat % 64) = some r → r.team = c.team.getD 0 →
      (c.popped a.toNat).drained = true →
      let u := clearRange (t.popped a.toNat) (x.toNat % 64)
      exec (.crclr a) s = .next (u.withCore (u.core.advance 4)))
    ∧ (c.readsOk [a.toNat, b.toNat, d.toNat] = true → ∀ p,
      waitaPlace x (t.afterReads [a.toNat, b.toNat, d.toNat]) = .ok (p, t.afterReads [a.toNat, b.toNat, d.toNat]) →
      (c.afterReads [a.toNat, b.toNat, d.toNat]).writable d.toNat = true → c.acquirePending = false → c.cq = [] → c.rbuf = [] →
      poisonAt t p 8 = none →
      let ends := fun (v : Word) => exec (.waita d a b) s = .next (t.withCore
        (((c.afterReads [a.toNat, b.toNat, d.toNat]).put d.toNat v).advance 4))
      (c.wait = none → BitVec.ofNat 64 (placeNat t p 8) ≠ y → ends (BitVec.ofNat 64 (placeNat t p 8)))
      ∧ (∀ st n ex sp o cmp v, c.wait = some (.waita st n ex sp o cmp (some v)) → v ≠ y → ends v))

/-- R238: CRDECL of a range that lies within one page, overlaps no other and finds a free number writes that number to sD and declares the range.  That
it is the lowest free number is the model's choice (log 118). -/
def Obligations.RangeDeclared : Prop :=
  ∀ (d a b : BitVec 4) (elem : BitVec 3) (op : BitVec 2) (s s1 : State) (pa leaf i : Nat),
    let t := s.terminated
    let c := t.core
    let x := c.valueOf a.toNat
    let n := (c.popped a.toNat).valueOf b.toNat
    let va := x.toNat % 2 ^ 52
    s.core.twin = none → c.readsOk [a.toNat, b.toNat] = true → (c.afterReads [a.toNat, b.toNat]).writable d.toNat = true →
    (walkPolicy x).isSome = true → va % 64 = 0 → n.toNat % 64 = 0 → n ≠ 0 →
    xlate (t.afterReads [a.toNat, b.toNat]) t.cur va .store (!c.supervisor) = (.ok pa leaf, s1) → onePage s1 s1.cur va n.toNat = true →
    s1.ranges.any (fun p => pa < p.2.base + p.2.len && p.2.base < pa + n.toNat) = false → freeRange s1 = some i →
    s1.core.writable d.toNat = true → s1.cur = s.cur →
    let r : CommRange := { base := pa, len := n.toNat, fmt := elem.toNat, op := op.toNat, team := s1.core.team.getD 0, closed := false }
    exec (.crdecl d a b elem op) s = .next
      (State.withCore { s1 with ranges := SMap.set s1.ranges i r } ((s1.core.put d.toNat (BitVec.ofNat 64 i)).advance 4))

namespace Sys2Proof.Spec

/-! ### Tile instructions (R249 to R265) -/

/-- The tiles can be used at once (R253, R255, R279, R334): no matrix job holds one, no load will still write one, the core's place in the
tile unit's queue is free, and in a region none that is written has been read before. -/
def tilesReady (c : Core) (reads writes : List Nat) : Bool :=
  (reads ++ writes).all (fun t => !c.tileLocked t && !c.tilePending t) && !c.tileBusy
    && (match c.region with | some r => writes.all (fun t => !r.rbwTile.getLsbD t) | none => true)

/-- The first n rows of a tile are not poisoned (R405). -/
def rowsClean (c : Core) (t n : Nat) : Bool := (List.range n).all (fun r => !c.poison.contains (0, 64 + 8 * t + r))

/-- The rows of operand TB: of the tile, or of the head slot of the handle (R254). -/
def rowsB (c : Core) (h : BitVec 1) (b : BitVec 3) (slot : List Row) (r : Nat) : Row := if h = 0 then c.row b.toNat r else slot.getD r 0

/-- Between s and t a tile instruction has completed that wrote tile rows and sticky flags (R253, R255): registers, accumulators, macros, buffers,
handles, jobs, entries and loads of its core are as before, and so are memory and the other cores. -/
def TileWritten (s t : State) (row : Nat → Nat → Row) (flags : BitVec 5) : Prop :=
  Completes s t 4 ∧ (∀ q r, q < 8 → r < 8 → t.core.row q r = row q r) ∧ t.core.status = s.core.status ||| flags.setWidth 64
    ∧ t.core.regs = s.core.regs ∧ t.core.queues = s.core.queues ∧ t.core.ext = s.core.ext ∧ t.core.accs = s.core.accs
    ∧ t.core.bufA = s.core.bufA ∧ t.core.bufC = s.core.bufC ∧ t.core.bufW = s.core.bufW
    ∧ t.core.macs = s.core.macs ∧ t.core.handles = s.core.handles ∧ t.core.full = s.core.full ∧ t.core.jobs = s.core.jobs
    ∧ t.core.matJobs = s.core.matJobs ∧ t.core.wJobs = s.core.wJobs ∧ t.core.cq = s.core.cq ∧ t.core.rbuf = s.core.rbuf
    ∧ t.core.loads = s.core.loads ∧ othersKept s t

/-- What a row-by-row instruction leaves in the tiles: rows 0 to n - 1 of TD, all else as before. -/
def rowsWritten (c : Core) (d n : Nat) (f : Nat → Row × BitVec 5) (q r : Nat) : Row := if q = d ∧ r < n then (f r).1 else c.row q r
/-- The flags of rows 0 to n - 1. -/
def rowFlags (n : Nat) (f : Nat → Row × BitVec 5) : BitVec 5 := (List.range n).foldl (fun fl r => fl ||| (f r).2) 0

/-- The row-by-row instructions on TA and TB: what they write from the rows of TA, TB and the old TD, and whether they read TD (R256, R257,
R259, R265). -/
def rowTableB (mode : Nat) (d a : BitVec 3) (h : BitVec 1) (b rows : BitVec 3) (fmt : BitVec 4) (f64 : BitVec 1) (cc : BitVec 2) :
    List (Instr × (Row → Row → Row → Row × BitVec 5) × Bool) :=
  let code := tileCode fmt f64
  let each := fun (code : Nat) (f : Nat → Nat → Nat → Nat × BitVec 5) => mapRow code f
  [(.tadd d a h b rows fmt f64, each code (fun x y _ => elemOp code mode (FVal.add mode) (fun x y => x + y) x y), false),
   (.tsub d a h b rows fmt f64, each code (fun x y _ => elemOp code mode (fun x y => FVal.add mode x y.negate) (fun x y => x - y) x y), false),
   (.tmul d a h b rows fmt f64, each code (fun x y _ => elemOp code mode FVal.mul (fun x y => x * y) x y), false),
   (.tfma d a h b rows fmt f64, each code (fun x y z => match ffmt code with
      | some f => finishElem f mode (FVal.fma mode (f.value x) (f.value y) (f.value z)) | none => (0, 0)), true),
   (.tmin d a h b rows fmt f64, each code (fun x y _ => (elemMinmax code false x y, 0)), false),
   (.tmax d a h b rows fmt f64, each code (fun x y _ => (elemMinmax code true x y, 0)), false),
   (.tcmp d a h b rows fmt f64 cc, each code (fun x y _ => (if elemCc code cc.toNat x y then 2 ^ elemWidth code - 1 else 0, 0)), false),
   (.tsel d a h b rows fmt f64, each code (fun x y z => (if z = 0 then y else x, 0)), true),
   (.tand d a h b rows, fun x y _ => (x &&& y, 0), false), (.tor d a h b rows, fun x y _ => (x ||| y, 0), false),
   (.txor d a h b rows, fun x y _ => (x ^^^ y, 0), false),
   (.tshl d a h b rows fmt, each fmt.toNat (fun x y _ =>
      (if elemWidth fmt.toNat ≤ y then 0 else x * 2 ^ y % 2 ^ elemWidth fmt.toNat, 0)), false),
   (.tshr d a h b rows fmt, each fmt.toNat (fun x y _ => (elemShr fmt.toNat x y, 0)), false),
   (.tperm d a h b rows fmt, fun x y _ => (rowOf fmt.toNat ((List.range (elemCount fmt.toNat)).map (fun j =>
      if rowGet y j 1 < elemCount fmt.toNat then rowElem fmt.toNat x (rowGet y j 1) else 0)), 0), false)]

/-- The row-by-row instructions on TA (R256, R258 to R263). -/
def rowTable (c : Core) (d a rows : BitVec 3) (src fmt : BitVec 4) (f64 sat : BitVec 1) (rm k : BitVec 3) (red : BitVec 2) :
    List (Instr × (Row → Row × BitVec 5)) :=
  let code := tileCode fmt f64
  let mode := c.rm
  let conv := if rm = 4 then c.rm else rm.toNat
  let each := fun (f : Nat → Nat × BitVec 5) (x : Row) => mapRow code (fun e _ _ => f e) x 0 0
  let fun1 := fun (g : FFmt → Nat → Nat → Nat × BitVec 5) => each (fun e => match ffmt code with | some f => g f mode e | none => (0, 0))
  [(.tmov d a rows, fun x => (x, 0)), (.tnot d a rows, fun x => (~~~x, 0)),
   (.tabs d a rows fmt f64, each (fun e => (elemAbs code e, 0))), (.tneg d a rows fmt f64, each (fun e => (elemNeg code e, 0))),
   (.trcp d a rows fmt f64, fun1 elemRcp), (.trsq d a rows fmt f64, fun1 elemRsq), (.texp2 d a rows fmt f64, fun1 elemExp2),
   (.tlog2 d a rows fmt f64, fun1 elemLog2), (.ttanh d a rows fmt f64, fun1 elemTanh),
   (.tqnt d a src rows fmt sat rm, quantRow src.toNat fmt.toNat conv (sat == 1)),
   (.tdq d a src rows fmt sat rm, dequantRow src.toNat fmt.toNat conv (sat == 1)),
   (.tred d a rows fmt f64 red, reduceRow code red.toNat mode),
   (.tscan d a rows fmt f64, fun x =>
      let rs := (prefixSums mode (rowValues code x)).map (sumElem code mode)
      (rowOf code (rs.map (fun r => r.1)), rs.foldl (fun fl r => fl ||| r.2) 0)),
   (.ttopk d a k rows fmt, fun x => (topRow fmt.toNat (k.toNat + 1) x, 0))]

end Sys2Proof.Spec

/-- R253 to R265: a row-by-row instruction on TA and TB (a tile, or the head slot of a handle that holds one), or on TA alone, writes rows 0 to
ROWS of TD from the rows of its operands as they were, adds the flags of its elements to STATUS, takes the core's place in the unit's queue,
and completes; registers, buffers, the other units' state, memory and the other cores are as before.  No row that it reads is poisoned, nor STATUS,
whose RM some of them read (R405).  That the rows are written at issue is the model's choice (log 92), and that TSEL tests the bits of an element, so that
−0 counts as not zero, its reading (log 20).  TQNT to SE2M1 sets the flags of log 63, the model's reading, and writes the special byte of a zero
block of log 114, its choice, and TRED and TSCAN add a row from its first element on, which decides NV where it holds a NaN and both infinities
(log 131, its choice). -/
def Obligations.TileRowByRow : Prop :=
  (∀ (d a : BitVec 3) (h : BitVec 1) (b rows : BitVec 3) (fmt : BitVec 4) (f64 : BitVec 1) (cc : BitVec 2) (s : State) (slot : List Row),
    ∀ p ∈ rowTableB s.core.rm d a h b rows fmt f64 cc,
    let c := s.core
    let n := rows.toNat + 1
    let f := fun r => p.2.1 (c.row a.toNat r) (rowsB c h b slot r) (c.row d.toNat r)
    (h = 1 → handleRows b.toNat n s = .ok (slot, s)) → c.poison.contains (0, 4096) = false →
    tilesReady c (a.toNat :: d.toNat :: if h = 0 then [b.toNat] else []) [d.toNat] = true →
    rowsClean c a.toNat n = true → (h = 0 → rowsClean c b.toNat n = true) → (p.2.2 = true → rowsClean c d.toNat n = true) →
    ∃ t, exec p.1 s = .next t ∧ TileWritten s t (rowsWritten c d.toNat n f) (rowFlags n f) ∧ t.core.tileBusy = true)
  ∧ (∀ (d a rows : BitVec 3) (src fmt : BitVec 4) (f64 sat : BitVec 1) (rm k : BitVec 3) (red : BitVec 2) (s : State),
    ∀ p ∈ rowTable s.core d a rows src fmt f64 sat rm k red,
    let c := s.core
    let n := rows.toNat + 1
    let f := fun r => p.2 (c.row a.toNat r)
    c.poison.contains (0, 4096) = false → tilesReady c [a.toNat, d.toNat] [d.toNat] = true → rowsClean c a.toNat n = true →
    ∃ t, exec p.1 s = .next t ∧ TileWritten s t (rowsWritten c d.toNat n f) (rowFlags n f) ∧ t.core.tileBusy = true)

/-- R259, R265 and R53: TZERO, TBCAST, TTRN, TGATH and TNOISE write the rows that their rules give, set no flag, take the core's place in the unit's queue
and complete. That the rows are written at issue is the model's choice (log 92), and so is it that TBCAST copies the two bits above an FP6 element
(log 132). -/
def Obligations.TileRearranged : Prop :=
  ∀ (d a : BitVec 3) (h : BitVec 1) (b rows : BitVec 3) (m : BitVec 1) (fmt : BitVec 4) (s : State) (slot : List Row),
    let c := s.core
    let n := rows.toNat + 1
    let code := fmt.toNat
    let e := elemCount code
    let writes := fun (i : Instr) (count : Nat) (f : Nat → Row) =>
      ∃ t, exec i s = .next t ∧ TileWritten s t (rowsWritten c d.toNat count (fun r => (f r, 0))) 0 ∧ t.core.tileBusy = true
    (tilesReady c [d.toNat] [d.toNat] = true → writes (.tzero d rows) n (fun _ => 0))
    ∧ (tilesReady c [a.toNat, d.toNat] [d.toNat] = true → rowsClean c a.toNat 8 = true →
      writes (.tbcast d a m rows fmt) n (fun r =>
        if m = 0 then c.row a.toNat 0 else rowOf code (List.replicate e (rowElem code (c.row a.toNat r) 0)))
      ∧ writes (.ttrn d a fmt) 8 (fun r => rowOf code ((List.range e).map (fun j => rowElem code (c.row a.toNat (j % 8)) (j / 8 * 8 + r))))
      ∧ writes (.tnoise d a rows fmt) n (fun r => rowOf code ((List.range e).map (fun j =>
          match ffmt code with
          | some f => (f.finish 0 false (.num false (2 * noiseBits (BitVec.ofNat 64 (rowGet (c.row a.toNat 0) 0 8)) (rowGet (c.row a.toNat 0) 8 4)
              (rowGet (c.row a.toNat 0) 12 4) ((rowGet (c.row a.toNat 0) 16 4 + r * e + j) % 2 ^ 32) + 1) (-24) false)).1
          | none => 0))))
    ∧ ((h = 1 → handleRows b.toNat n s = .ok (slot, s)) →
      tilesReady c (a.toNat :: d.toNat :: if h = 0 then [b.toNat] else []) [d.toNat] = true → rowsClean c a.toNat 8 = true →
      (h = 0 → rowsClean c b.toNat n = true) →
      writes (.tgath d a h b rows fmt) n (fun r => rowOf code ((List.range e).map (fun j =>
        let p := rowGet (rowsB c h b slot r) (2 * j) 2
        if p < 8 * e then rowElem code (c.row a.toNat (p / e)) (p % e) else 0))))

/-- R260, R265: TCVT writes the group of tiles that its formats ask for from the elements of the source group in order; TSCAT writes each element
of the rows of TA to the place in TD that TB names, in order, and leaves the rest of TD; both take the core's place in the unit's queue and complete.
STATUS is not poisoned where TCVT's RM names its mode (R405). That the rows are written at issue is the model's choice (log 92). -/
def Obligations.TileGroups : Prop :=
  (∀ (d a : BitVec 3) (src : BitVec 4) (rows : BitVec 3) (fmt : BitVec 4) (f64 sat : BitVec 1) (rm : BitVec 3) (s : State),
    let c := s.core
    let n := rows.toNat + 1
    let sc := if f64 = 1 ∧ src = 0xF then 16 else src.toNat
    let tc := if f64 = 1 ∧ fmt = 0xF then 16 else fmt.toNat
    let qs := max (elemWidth sc / elemWidth tc) 1
    let qd := max (elemWidth tc / elemWidth sc) 1
    let from_ := (List.range qs).map (fun i => a.toNat + i)
    let to_ := (List.range qd).map (fun i => d.toNat + i)
    let es := fun (r : Nat) => (groupElems sc (fun t r => c.row t r) a.toNat qs r).map
      (fun x => convertElem sc tc (if rm = 4 then c.rm else rm.toNat) (sat == 1) x)
    modeClean c rm = true → a.toNat + qs ≤ 8 → d.toNat + qd ≤ 8 → tilesReady c (from_ ++ to_) to_ = true → from_.all (fun t => rowsClean c t n) = true →
    ∃ t, exec (.tcvt d a src rows fmt f64 sat rm) s = .next t
      ∧ TileWritten s t (fun q r => if d.toNat ≤ q ∧ q < d.toNat + qd ∧ r < n
          then rowOf tc ((((es r).map (fun e => e.1)).drop ((q - d.toNat) * elemCount tc)).take (elemCount tc)) else c.row q r)
        ((List.range n).foldl (fun fl r => (es r).foldl (fun fl e => fl ||| e.2) fl) 0) ∧ t.core.tileBusy = true)
  ∧ (∀ (d a : BitVec 3) (h : BitVec 1) (b rows : BitVec 3) (fmt : BitVec 4) (s : State) (slot : List Row),
    let c := s.core
    let n := rows.toNat + 1
    let rowsOut := (List.range n).foldl (fun td r => scatterRow fmt.toNat (rowsB c h b slot r) (c.row a.toNat r) td)
      ((List.range 8).map (fun r => c.row d.toNat r))
    (h = 1 → handleRows b.toNat n s = .ok (slot, s)) →
    tilesReady c (a.toNat :: d.toNat :: if h = 0 then [b.toNat] else []) [d.toNat] = true →
    rowsClean c a.toNat n = true → rowsClean c d.toNat 8 = true → (h = 0 → rowsClean c b.toNat n = true) →
    ∃ t, exec (.tscat d a h b rows fmt) s = .next t
      ∧ TileWritten s t (fun q r => if q = d.toNat then rowsOut.getD r 0 else c.row q r) 0 ∧ t.core.tileBusy = true)

/-- R252: TFILL fills the rows with the low bits of sA, TEXTR writes an element to sD, sign-extended for the signed integer formats and 0 beyond
the tile, and TINS replaces one element and nothing beyond the tile. -/
def Obligations.TileElements : Prop :=
  ∀ (g : BitVec 3) (d : BitVec 4) (fmt a idx : BitVec 4) (t' rows : BitVec 3) (s : State),
    let c := s.core
    let code := fmt.toNat
    let e := elemCount code
    let x := c.valueOf a.toNat
    let n := ((c.popped a.toNat).valueOf idx.toNat).toNat
    let m := (c.valueOf idx.toNat).toNat
    let open_ := fun (ts : List Nat) => ts.all (fun t => !c.tileLocked t && !c.tilePending t)
    c.region = none →
    (c.readable a.toNat = true → open_ [g.toNat] = true → ∃ t, exec (.tfill g fmt a rows) s = .next t ∧ Completes s t 4 ∧ othersKept s t
      ∧ (∀ q r, q < 8 → r < 8 → t.core.row q r = if q = g.toNat ∧ r < rows.toNat + 1
          then rowOf code (List.replicate e (scalarElem code x)) else c.row q r)
      ∧ t.core.regs = c.regs ∧ t.core.status = c.status)
    ∧ (c.readable idx.toNat = true → open_ [t'.toNat] = true → (c.popped idx.toNat).writable d.toNat = true →
      rowsClean c t'.toNat 8 = true →
      exec (.textr d fmt idx t') s = .next (s.withCore (((c.popped idx.toNat).put d.toNat
        (if m < 8 * e then extractWord code (rowElem code (c.row t'.toNat (m / e)) (m % e)) else 0)).advance 4)))
    ∧ (c.readsOk [a.toNat, idx.toNat] = true → open_ [g.toNat] = true →
      ∃ t, exec (.tins g fmt idx a) s = .next t ∧ Completes s t 4 ∧ othersKept s t
      ∧ (∀ q r, q < 8 → r < 8 → t.core.row q r = if q = g.toNat ∧ r = n / e ∧ n < 8 * e
          then setElem code (c.row q r) (n % e) (scalarElem code x) else c.row q r)
      ∧ t.core.regs = c.regs ∧ t.core.status = c.status)

/-- R246, R249 to R251, R339: TLD clears its rows and loads the containers of its descriptor's rows; TST stores them, row by row one entry for
each aligned block; TLDS and TSTS move whole rows of the core's own buffers. TST and TSTS complete once their stores have entered the commit
queue. That TSTS makes each row two entries which perform together (log 19), and how the entries of one instruction enter the queue (log 18),
are the model's choices. -/
def Obligations.TileMemory : Prop :=
  ∀ (g : BitVec 3) (desc : BitVec 8) (a : BitVec 4) (rows : BitVec 3) (s s1 s2 : State),
    let c := s.core
    let n := rows.toNat + 1
    let x := c.valueOf a.toNat
    let p := s.popped a.toNat
    let d := teamTd s s.cur desc.toNat
    let ready := c.readable a.toNat && !c.tileLocked g.toNat && !c.tilePending g.toNat && c.region.isNone && c.wait.isNone
    let blank := fun (z : State) => z.withCore ((List.range n).foldl (fun c r => c.setRow g.toNat r 0) z.core)
    (ready = true → ∀ ps, checkPieces .load (tilePieces d x.toNat n) p = .ok (ps, s1) → ps.all (fun q => !q.2.1.away s.cur) = true →
      loadPieces s g.toNat ps [] (blank s1) = .ok ((), s2) → exec (.tld g desc a rows) s = .next (s2.withCore (s2.core.advance 4)))
    ∧ (ready = true → d.rdonly = false → rowsClean c g.toNat n = true →
      ∀ ps, checkPieces .store (tilePieces d x.toNat n) p = .ok (ps, s1) → s1.core.tiles = c.tiles → s1.core.poison = c.poison →
      storeMany (blocksOf (ps.map (fun q =>
          { row := q.1.1, addr := q.1.2.addr, size := q.1.2.size, pl := q.2
            value := rowGet (c.row g.toNat q.1.1) q.1.2.off q.1.2.size % 2 ^ q.1.2.keep }))) s1 = .ok ((), s2) → s1.core.region = none →
      exec (.tst g desc a rows) s = .next (s2.withCore (s2.core.advance 4)))
    ∧ (ready = true → c.loads = [] → c.acquirePending = false → c.poison = [] → ∀ rs, localRows false x n p = .ok (rs, p) →
      exec (.tlds g a rows) s = .next (s.withCore
        (((rs.zipIdx).foldl (fun c' v => c'.setRow g.toNat v.2
          (BitVec.ofNat 1024 (fwdNat p v.1.2 (forwarded p.core v.1.2 128) 128))) p.core).advance 4)))
    ∧ (ready = true → rowsClean c g.toNat n = true → ∀ rs, localRows true x n p = .ok (rs, p) → rs.all (fun r => !tagged p r.2 128) = true →
      storeMany (rs.zipIdx.flatMap (fun r =>
        let v := (c.row g.toNat r.2).toNat
        [{ pl := (r.1.2, .direct), ea := r.1.1, bytes := leBytes v 64, pair := true },
         { pl := ({ r.1.2 with addr := r.1.2.addr + 64 }, .direct), ea := r.1.1 + 64, bytes := leBytes (v / 2 ^ 512) 64, pair := false }])) p
        = .ok ((), s2) →
      exec (.tsts g a rows) s = .next (s2.withCore (s2.core.advance 4)))
    ∧ (c.wait = some .stores → c.issuing = [] →
      exec (.tst g desc a rows) s = .next (s.withCore (c.advance 4)) ∧ exec (.tsts g a rows) s = .next (s.withCore (c.advance 4)))

/-- R246, R247, R339: TDLD loads a valid descriptor, with its RO fields 0, into the table of the core's team, after an open region has
committed; TDST is one entry of 64 bytes. -/
def Obligations.DescriptorMemory : Prop :=
  ∀ (desc : BitVec 8) (a : BitVec 4) (s s1 s2 : State) (pl : Place × Policy) (v : Nat),
    (let t := s.terminated
     let x := t.core.valueOf a.toNat
     let d := Desc.clearRo (BitVec.ofNat 512 v)
     s.core.twin = none → t.core.readable a.toNat = true → x.toNat % 64 = 0 → t.core.shcell.getLsbD 63 = false →
     checkAccess .load x 64 0 (t.popped a.toNat) = .ok (pl, s1) → gather t [(x, 64, pl)] s1 = .ok ([v], s2) → d.valid = true →
     exec (.tdld desc a) s = .next ((setTd s2 desc.toNat d).withCore (s2.core.advance 4)))
    ∧ (let x := s.core.valueOf a.toNat
       let e := entryOf s1 (.store (leBytes (teamTd s1 s1.cur desc.toNat).toNat 64)) pl x 0 0
       s.core.readable a.toNat = true → x.toNat % 64 = 0 → checkAccess .store x 64 0 (s.popped a.toNat) = .ok (pl, s1) →
       queueOpen s1.core = true → exec (.tdst desc a) s = .next (s1.withCore ((queued s1.core e).advance 4)))

namespace Sys2Proof.Spec

/-! ### Matrix instructions (R266 to R282) -/

/-- The conditions under which a matrix job issues at once (R269, R273, R275): the W buffer is claimed, the macro will be loaded with a format that
pairs with A's, the mode's operands are in their ranges, the accumulator's kind agrees, the handle has slots of the size that A needs, the core has
fewer than four jobs, no earlier acquire is to perform, and its tiles are not to be written by a load. -/
def matrixReady (c : Core) (zero : Bool) (ad : BitVec 2) (ta : BitVec 3) (ha : BitVec 1) (wm : BitVec 4) (mode : BitVec 2) (fmta : BitVec 4) : Bool :=
  let f := fmta.toNat
  let m := wm.toNat
  claims c .bufW && (c.nextMacro m).1 && pairs f (c.nextMacro m).2
    && (mode != 1 || (!badDecision (vget c.ext 0 2) && !c.poison.contains (0, 18)))
    && (mode != 2 || (decide ((vget c.ext 0 3).toNat % 32 < planes f) && !c.poison.contains (0, 19)))
    && (zero || c.nextKind ad.toNat == .none || c.nextKind ad.toNat == pairKind f)
    && (ha == 0 || (decide (matrixSlot f ≤ (vget c.handles Handle.reset ta.toNat).size) && (vget c.handles Handle.reset ta.toNat).count != 0))
    && decide (c.matJobs.length < 4) && !c.acquirePending
    && (ha == 1 || (!c.tilePending ta.toNat && (f != 7 || !c.tilePending (ta.toNat + 1))))

/-- The job that MMA or MMAZ issues (R275). -/
def matrixJob (c : Core) (zero : Bool) (ad : BitVec 2) (ta : BitVec 3) (ha : BitVec 1) (wm p : BitVec 4) (mode : BitVec 2) (fmta : BitVec 4) : MatJob :=
  { zero := zero, ad := ad.toNat, ta := ta.toNat, handle := ha == 1, mac := wm.toNat, fmta := fmta.toNat, interval := p.toNat + 1
    mode := mode.toNat, e2 := vget c.ext 0 2, e3 := vget c.ext 0 3, order := c.stamp, port := none, rows := [] }

/-- The core with a weight job behind the others (R270). -/
def withWeight (c : Core) (kind m fmt h : Nat) (cols : List Row) (recs : SMap BlockRec) : Core :=
  { c with stamp := c.stamp + 1
           wJobs := c.wJobs ++ [{ kind := kind, mac := m, fmt := fmt, handle := h, started := false, order := c.stamp, cols := cols, recs := recs }] }

/-- Accumulators that no matrix job holds (R279). -/
def accsOpen (c : Core) (as : List Nat) : Bool := as.all (fun a => !c.accLocked a)
/-- An accumulator with no poisoned row (R405). -/
def accClean (c : Core) (a : Nat) : Bool := (List.range 8).all (fun r => !c.poison.contains (0, 128 + 8 * a + r))

/-- Between s and t an instruction has completed that wrote accumulators and nothing else. -/
def AccWritten (s t : State) (acc : Nat → Acc) : Prop :=
  Completes s t 4 ∧ (∀ i, i < 4 → t.core.acc i = acc i) ∧ t.core.regs = s.core.regs ∧ t.core.tiles = s.core.tiles ∧ t.core.status = s.core.status
    ∧ t.core.bufA = s.core.bufA ∧ t.core.bufC = s.core.bufC ∧ t.core.bufW = s.core.bufW ∧ othersKept s t

end Sys2Proof.Spec

/-- R273 to R275: MMA and MMAZ under the conditions of their issue put one job behind the core's others, and complete.  That a job on a port counts among
the core's four is the model's reading (log 124). -/
def Obligations.MatrixJobsIssue : Prop :=
  ∀ (ad : BitVec 2) (ta : BitVec 3) (ha : BitVec 1) (wm p : BitVec 4) (mode : BitVec 2) (fmta : BitVec 4) (s : State),
    let c := s.core
    let issued := fun (zero : Bool) => s.withCore
      ({ c with stamp := c.stamp + 1, matJobs := c.matJobs ++ [matrixJob c zero ad ta ha wm p mode fmta] }.advance 4)
    c.region = none →
    (matrixReady c false ad ta ha wm mode fmta = true → exec (.mma ad ta ha wm p mode fmta) s = .next (issued false))
    ∧ (matrixReady c true ad ta ha wm mode fmta = true → exec (.mmaz ad ta ha wm p mode fmta) s = .next (issued true))

/-- R269, R275: MMA and MMAZ on a macro that will be EMPTY raise matrix operand error with the macro and code 0x02, on formats that do not pair with code
0x01, on a decision operand out of range with code 0x04 and on a plane that A does not have with code 0x05; MMA on an accumulator of another kind raises it
with the accumulator and code 0x03.  On a W buffer that is not claimed they raise cause 5 (R358).  Each code is stated where no other applies; that it is
raised before cause 34 of a slot too small is the model's choice (log 136). -/
def Obligations.MatrixOperandErrors : Prop :=
  ∀ (ad : BitVec 2) (ta : BitVec 3) (ha : BitVec 1) (wm p : BitVec 4) (mode : BitVec 2) (fmta : BitVec 4) (s : State),
    let c := s.core
    let m := wm.toNat
    let f := fmta.toNat
    let fits := claims c .bufW && (c.nextMacro m).1 && pairs f (c.nextMacro m).2
    let both := fun (cause : Nat) (v : Word) =>
      exec (.mma ad ta ha wm p mode fmta) s = .next (raiseTrap s s.cur cause v)
      ∧ exec (.mmaz ad ta ha wm p mode fmta) s = .next (raiseTrap s s.cur cause v)
    (claims c .bufW = false → both 5 (BitVec.ofNat 64 (2 ^ 61 + 8192 * m)))
    ∧ (claims c .bufW = true → (c.nextMacro m).1 = false → both 30 (BitVec.ofNat 64 (m * 256 + 2)))
    ∧ (claims c .bufW = true → (c.nextMacro m).1 = true → pairs f (c.nextMacro m).2 = false → both 30 (BitVec.ofNat 64 (m * 256 + 1)))
    ∧ (fits = true → mode = 1 → c.poison.contains (0, 18) = false → badDecision (vget c.ext 0 2) = true → both 30 (BitVec.ofNat 64 (m * 256 + 4)))
    ∧ (fits = true → mode = 2 → c.poison.contains (0, 19) = false → planes f ≤ (vget c.ext 0 3).toNat % 32 → both 30 (BitVec.ofNat 64 (m * 256 + 5)))
    ∧ (fits = true → (mode = 1 → badDecision (vget c.ext 0 2) = false ∧ c.poison.contains (0, 18) = false) →
      (mode = 2 → (vget c.ext 0 3).toNat % 32 < planes f ∧ c.poison.contains (0, 19) = false) →
      c.nextKind ad.toNat ≠ .none → c.nextKind ad.toNat ≠ pairKind f →
      exec (.mma ad ta ha wm p mode fmta) s = .next (raiseTrap s s.cur 30 (BitVec.ofNat 64 (ad.toNat * 256 + 3))))

/-- R270 to R272: WCLR, WLDH and WLD put one weight job behind the core's others and complete; WLD's reads perform at its issue (the model's
choice, log 25).  The columns are aligned there: a value that the spec leaves open is taken from the machine's next free value (log 21), a zero block
and its record are the model's reading (logs 49, 133), and so it is that the cell keeps the TERN code 10 (log 115, its choice). -/
def Obligations.WeightJobsIssue : Prop :=
  ∀ (g fmt : BitVec 4) (h : BitVec 3) (desc : BitVec 8) (a : BitVec 4) (s s1 s2 : State) (els : List (Word × Nat × (Place × Policy))) (vals : List Nat),
    let c := s.core
    let hd := vget c.handles Handle.reset h.toNat
    let x := (c.valueOf a.toNat).toNat
    let d := teamTd s s.cur desc.toNat
    let plan := (List.range 64).map (fun col => (col, columnReads d x col))
    let al := alignColumns d.code d.scale s2.free (splitColumns d x plan vals)
    c.region = none → claims c .bufW = true → c.acquirePending = false →
    exec (.wclr g) s = .next (s.withCore ((withWeight c 2 g.toNat 0 0 (List.replicate 64 0) []).advance 4))
    ∧ (weightSlot fmt.toNat ≤ hd.size → hd.count ≠ 0 →
      exec (.wldh g fmt h) s = .next (s.withCore ((withWeight c 1 g.toNat fmt.toNat h.toNat [] []).advance 4)))
    ∧ (c.readable a.toNat = true → d.code ≠ 16 →
      checkReads (plan.flatMap (fun p => p.2.map (fun r => r.2))) (s.popped a.toNat) = .ok (els, s1) → gather s els s1 = .ok (vals, s2) → s2.core.acquirePending = false →
      exec (.wld g desc a) s = .next (State.withCore { s2 with free := s2.free + 1 }
        ((withWeight s2.core 0 g.toNat d.code 0 al.1 al.2).advance 4)))

/-- R276, R282: APROM promotes, ACLR clears, AMOV copies, AADD adds, and MSTAT reads and clears the status of accumulators that no job holds. -/
def Obligations.Accumulators : Prop :=
  ∀ (g a : BitVec 2) (d : BitVec 4) (s : State),
    let c := s.core
    let gp := (c.acc g.toNat).promote
    let ap := (c.acc a.toNat).promote
    let writes := fun (i : Instr) (acc : Nat → Acc) => ∃ t, exec i s = .next t ∧ AccWritten s t acc
    c.region = none → accsOpen c [g.toNat, a.toNat] = true → accClean c g.toNat = true → accClean c a.toNat = true →
    writes (.aprom g) (fun i => if i = g.toNat then gp else c.acc i)
    ∧ writes (.aclr g) (fun i => if i = g.toNat then Acc.reset else c.acc i)
    ∧ (g ≠ a → writes (.amov g a) (fun i => if i = g.toNat then { c.acc g.toNat with kind := ap.kind, elems := ap.elems, narrow := [], count := 0 }
        else if i = a.toNat then ap else c.acc i))
    ∧ writes (.amov a a) (fun i => if i = a.toNat then ap else c.acc i)
    ∧ (g ≠ a → gp.kind = ap.kind → ap.kind ≠ .none → writes (.aadd g a) (fun i =>
        if i = g.toNat then accSum gp ap else if i = a.toNat then ap else c.acc i))
    ∧ (c.writable d.toNat = true → exec (.mstat d a) s = .next (s.withCore
        (((c.put d.toNat (mstatWord ap)).setAcc a.toNat { ap with nv := false, of := false, is := false, rden := false }).advance 4)))

/-- R277: ALD restores an accumulator from its spill image. AST promotes it and stores its image as 33 entries of 64 bytes, of which as many as
have room enter the commit queue at once, and completes once all have; in a region they are held, and it completes at once. How the entries of one
instruction enter the queue is the model's choice (log 18). -/
def Obligations.AccumulatorImages : Prop :=
  ∀ (g : BitVec 2) (a : BitVec 4) (s s1 s2 : State) (p : Place) (vs : List Nat),
    let c := s.core
    let x := c.valueOf a.toNat
    let acc := (c.acc g.toNat).promote
    let last := vs.getD 32 0
    c.readable a.toNat = true → accsOpen c [g.toNat] = true →
    (c.region = none → imagePlace false x (s.popped a.toNat) = .ok (p, s1) →
      gather s ((List.range 33).map (fun i => (x + BitVec.ofNat 64 (64 * i), 64, ({ p with addr := p.addr + 64 * i }, .direct)))) s1 = .ok (vs, s2) →
      s2.core.region = none → last ≤ 2 →
      ∃ t, exec (.ald g a) s = .next t ∧ Completes s2 t 4 ∧ t.mem = s2.mem
        ∧ (t.core.acc g.toNat).kind = (match last with | 1 => .fp32 | 2 => .int32 | _ => .none)
        ∧ (∀ i, i < 512 → (t.core.acc g.toNat).elem i = BitVec.ofNat 32 (vs.getD (i / 16) 0 / 2 ^ (32 * (i % 16)))))
    ∧ (imagePlace true x (s.popped a.toNat) = .ok (p, s.popped a.toNat) → accClean c g.toNat = true → c.wait = none →
      let z := (c.popped a.toNat).setAcc g.toNat acc
      let piece := fun (i : Nat) => (List.range 64).map (fun j => (j, imageByte acc (64 * i + j)))
      (c.region = none → c.rbuf = [] → exec (.ast g a) s = .next (s.withCore (storesBegun s z ((List.range 33).map (fun i =>
        (({ p with addr := p.addr + 64 * i }, .direct), x + BitVec.ofNat 64 (64 * i), piece i))))))
      ∧ (∀ r, c.region = some r →
        storeMany ((List.range 33).map (fun i =>
          { pl := ({ p with addr := p.addr + 64 * i }, .direct), ea := x + BitVec.ofNat 64 (64 * i), bytes := piece i, pair := false }))
          (s.withCore { z with region := some (if r.wrAcc.getLsbD g.toNat then r else { r with rbwAcc := r.rbwAcc ||| (1 <<< g.toNat) }) })
          = .ok ((), s2) →
        exec (.ast g a) s = .next (s2.withCore (s2.core.advance 4))))
    ∧ (c.wait = some .stores → c.issuing = [] → exec (.ast g a) s = .next (s.withCore (c.advance 4)))

/-- R278, R281: ACVT writes the converted elements of an accumulator to its tile or tiles, and AEPI stores those of its epilogue to the rows of a
descriptor; both add the flags of the conversions to the accumulator and complete, AEPI once its stores have entered the commit queue. How the
entries of one instruction enter the queue is the model's choice (log 18). -/
def Obligations.AccumulatorConversions : Prop :=
  ∀ (g fmt : BitVec 4) (sat : BitVec 1) (rm : BitVec 3) (a : BitVec 2) (desc : BitVec 8) (e : BitVec 4) (s s1 s2 : State) (st : List StorePiece),
    let c := s.core
    let acc := (c.acc a.toNat).promote
    let rs := (List.range 512).map (fun i => accConvert acc.kind fmt.toNat (if rm = 4 then c.rm else rm.toNat) (sat == 1) (acc.elem i))
    let ts := if fmt = 0xF then [g.toNat, g.toNat + 1] else [g.toNat]
    let code := fun (r first n : Nat) => rowOf fmt.toNat (((rs.map (fun x => x.1)).drop (64 * r + first)).take n)
    let n := (c.valueOf e.toNat).toNat
    let d := teamTd s s.cur desc.toNat
    let es := epilogue d acc (n / 2 ^ 48 % 4) (n / 2 ^ 24 % 2 ^ 24) (n % 2 ^ 24)
    c.region = none → accsOpen c [a.toNat] = true → accClean c a.toNat = true →
    (modeClean c rm = true → ts.all (fun t => decide (t < 8) && !c.tileLocked t && !c.tilePending t) = true → ∃ t, exec (.acvt g fmt sat rm a) s = .next t ∧ Completes s t 4
      ∧ othersKept s t ∧ t.core.regs = c.regs ∧ t.core.acc a.toNat = acc.flagged rs
      ∧ (∀ q r, q < 8 → r < 8 → t.core.row q r = if fmt = 0xF ∧ q = g.toNat then code r 0 32 else if fmt = 0xF ∧ q = g.toNat + 1 then code r 32 32
          else if q = g.toNat then code r 0 64 else c.row q r))
    ∧ (c.wait = some .stores → c.issuing = [] → exec (.aepi a desc e) s = .next (s.withCore (c.advance 4)))
    ∧ (c.wait = none → c.readable e.toNat = true → 8 ≤ elemWidth d.code → d.code ≠ 16 → d.scale = 0 → n < 2 ^ 49 → d.rdonly = false →
      checkStores (elemWidth d.code / 8) (es.map (fun x => (x.1, x.2.1, x.2.2.1))) (s.popped e.toNat) = .ok (st, s1) →
      s1.core.region = none → s1.core.poison = c.poison →
      storeMany (blocksOf st) (s1.withCore (s1.core.setAcc a.toNat (acc.flagged (es.map (fun x => x.2.2))))) = .ok ((), s2) →
      exec (.aepi a desc e) s = .next (s2.withCore (s2.core.advance 4)))

namespace Sys2Proof.Spec

/-! ### Engines, the sheet and regions (R284 to R343) -/

/-- The state after a one-result instruction that has nothing left to do but to write sD. -/
def giving (u : State) (d : BitVec 4) (v : Word) : State := u.withCore ((u.core.put d.toNat v).advance 4)
/-- The state after an instruction whose results go to the pair of sD. -/
def givingPair (u : State) (d : BitVec 4) (v w : Word) : State :=
  u.withCore ((if d = 0 then u.core else (u.core.put d.toNat v).put (d.toNat + 1) w).advance 4)
/-- The pair of sD can be written. -/
def pairWritable (c : Core) (d : BitVec 4) : Bool := d == 0 || (c.writable d.toNat && (c.put d.toNat 0).writable (d.toNat + 1))

/-- The first register of a pair, and the second; the pair of s0 is 0 (R170). -/
def firstOf (c : Core) (a : BitVec 4) : Word := if a = 0 then 0 else c.valueOf a.toNat
def secondOf (c : Core) (a : BitVec 4) : Word := if a = 0 then 0 else (c.popped a.toNat).valueOf (a.toNat + 1)

/-- A command without a place, as a region holds it, with the encoding of its instruction. -/
def commandOf (c : Core) (i : Instr) (a : Action) (ord scope : Nat) : Entry :=
  { act := a, place := { space := .mem, key := 0, addr := 0 }, ea := 0, pol := .direct, ord := ord, scope := scope, stamp := c.stamp
    committed := false, sent := false, checked := false, user := !c.supervisor, enc := encode i }

/-- A copy job as its instruction leaves it (R285, R287). -/
def copyJobOf (c : Core) (stream : Option Nat) (dst src : Word) (len : Nat) (fl : BitVec 5) (scope : BitVec 3) : Job :=
  { seq := (c.jobSeq + 1) % 2 ^ 28, state := if c.region.isSome then .held else .queued, status := 1, stream := stream
    dst := dst, src := src, len := len, flagA := fl.getLsbD 4, flagR := fl.getLsbD 3, flagOrd := fl.getLsbD 2, scope := scope.toNat
    cmpl := fl.toNat % 4, e0 := c.ext[0], e1 := c.ext[1], stamp := c.stamp, user := !c.supervisor
    next := 0, done := [], item := [], tainted := [], stage := 0, fault := none }

/-- The core with a job in slot i. -/
def withJob (c : Core) (i : Nat) (j : Job) : Core := { c with jobs := SMap.set c.jobs i j, jobSeq := j.seq, stamp := c.stamp + 1 }

/-- The core with a handle replaced. -/
def withHandle (c : Core) (h : BitVec 3) (x : Handle) : Core := { c with handles := c.handles.set h.toNat x }

/-- The commands of the running core reach the sheet engine in its order (R132). -/
def sheetFree (t : State) : Bool :=
  !t.core.acquirePending && t.publishes.all (fun p => p.core != t.cur) && t.core.rbuf.all (fun e => !(e.committed && e.act.sheet))

/-- The commands of the running core reach the suffix engine in its order (R121, R331). -/
def suffixFree (t : State) : Bool :=
  !t.core.acquirePending && t.core.rbuf.all (fun e => !(e.committed && (match e.act with | .sxapp _ _ => true | _ => false)))

/-- The commands of the running core reach the distributor in its order (R121, R128). -/
def distributorFree (c : Core) : Bool :=
  !c.acquirePending
    && c.rbuf.all (fun e => !(e.committed && (match e.act with | .spub _ _ => true | .hadv _ _ _ => true | _ => false)))

/-- The instruction has begun no wait and has no answer. -/
def begins (c : Core) : Bool := c.wait.isNone && c.reply.isNone

end Sys2Proof.Spec

/-- R285 to R289: outside regions COPY and COPYS take the lowest free job slot, issue the job, write its identifier and complete; a length or
stream number beyond its field raises cause 7. JWAIT and JPOLL give the status of a job that has ended, 6 of one whose slot has gone on, and
JPOLL gives 1 of one that is pending. That a
job takes the lowest free slot is the model's choice (log 62). -/
def Obligations.CopyJobs : Prop :=
  (∀ (d a b : BitVec 4) (scope : BitVec 3) (fl : BitVec 5) (s : State) (i : Nat) (dst src n : Word) (rs : List Nat) (streamed : Bool),
    let c := s.core.afterReads rs
    let x := s.afterReads rs
    let instr := if streamed then Instr.copys d a b scope fl else .copy d a b scope fl
    let job := copyJobOf c (if streamed then some n.toNat else none) (if streamed then 0 else dst) src (if streamed then 1024 else n.toNat) fl scope
    (if streamed then rs = [a.toNat, b.toNat] ∧ n = s.core.valueOf a.toNat ∧ src = (s.core.popped a.toNat).valueOf b.toNat
      else rs = pairRegs a.toNat ++ [b.toNat] ∧ dst = firstOf s.core a ∧ src = secondOf s.core a
        ∧ n = (s.core.afterReads (pairRegs a.toNat)).valueOf b.toNat) →
    s.core.twin = none → s.core.region = none → s.core.readsOk rs = true →
    c.poison.contains (0, 16) = false → c.poison.contains (0, 17) = false →
    (n.toNat < (if streamed then 2 ^ 12 else 2 ^ 32) → copyChecks streamed (if streamed then 0 else dst) src (if streamed then 1024 else n.toNat) x = .ok ((), x) →
      completionCheck (fl.toNat % 4) c.ext[0] x = .ok ((), x) → c.writable d.toNat = true → c.acquirePending = false → c.freeSlot = some i →
      exec instr s = .next (s.withCore (((withJob c i job).put d.toNat (BitVec.ofNat 64 (job.seq * 16 + i))).advance 4)))
    ∧ ((if streamed then 2 ^ 12 else 2 ^ 32) ≤ n.toNat → exec instr s = .next (raiseTrap s s.cur 7 n)))
  ∧ (∀ (d a : BitVec 4) (s : State) (r : Nat),
    let t := s.terminated
    let status := fun (c : Core) (x : Word) =>
      match SMap.get? c.jobs (x.toNat % 16) with
      | some j => if j.seq = x.toNat / 16 % 2 ^ 28 then (if j.state = .ended then j.status else 1) else 6
      | none => 6
    s.core.twin = none →
    (t.core.readable a.toNat = true → (t.core.popped a.toNat).writable d.toNat = true → status t.core (t.core.valueOf a.toNat) = r → r ≠ 1 →
      exec (.jwait d a) s = .next (giving (t.popped a.toNat) d (BitVec.ofNat 64 r)))
    ∧ (s.core.readable a.toNat = true → (s.core.popped a.toNat).writable d.toNat = true → status s.core (s.core.valueOf a.toNat) = r →
      exec (.jpoll d a) s = .next (giving (s.popped a.toNat) d (BitVec.ofNat 64 r))))

/-- R290 to R292: HCFG of an unsubscribed handle with a base, a slot size and a count within their ranges configures it with no filled slot; of a
subscribed one it raises cause 34. HWAIT gives the filled slots, or the head or tail slot once enough slots are filled or free, and till
then stalls; HADVC and HADVP move the head and the tail and give the filled slots, and an advance beyond what is filled or free raises cause 34. -/
def Obligations.Handles : Prop :=
  (∀ (a : BitVec 4) (h : BitVec 3) (s : State) (off : Nat),
    let t := s.terminated
    let rs := pairRegs a.toNat
    let c := t.core.afterReads rs
    let p := firstOf t.core a
    let q := (secondOf t.core a).toNat
    let size := q % 65536
    let count := q / 65536 % 512
    s.core.twin = none → t.core.readsOk rs = true →
    (c.handles[h.toNat].stream = none → decodePtr (t.afterReads rs) t.cur p = some (.buf t.cur .bufA off) → p.toNat % 128 = 0 →
      claims c .bufA = true → q < 2 ^ 25 → size % 128 = 0 → 128 ≤ size → size ≤ 32768 → 1 ≤ count → count ≤ 256 → off + size * count ≤ 65536 →
      exec (.hcfg a h) s = .next (t.withCore ((withHandle c h
        { base := off, size := size, count := count, head := 0, tail := 0, filled := 0, freedHeld := 0, stream := none }).advance 4)))
    ∧ (c.handles[h.toNat].stream ≠ none → exec (.hcfg a h) s = .next (raiseTrap t s.cur 34 (BitVec.ofNat 64 h.toNat))))
  ∧ (∀ (d a : BitVec 4) (h : BitVec 3) (s : State),
    let c := s.core.popped a.toNat
    let x := s.core.valueOf a.toNat
    let n := x.toInt
    let m := x.toNat
    let hd := c.handles[h.toNat]
    let used := { hd with head := (hd.head + m) % max hd.count 1, filled := hd.filled - m }
    let added := { hd with tail := (hd.tail + m) % max hd.count 1, filled := hd.filled + m }
    let moved := fun (y : Handle) => s.withCore
      ((({ withHandle c h y with stamp := c.stamp + 1 }).put d.toNat (BitVec.ofNat 64 y.filled)).advance 4)
    s.core.readable a.toNat = true → c.writable d.toNat = true →
    (hd.count < n.natAbs → exec (.hwait d a h) s = .next (raiseTrap s s.cur 34 (BitVec.ofNat 64 h.toNat)))
    ∧ (n = 0 → exec (.hwait d a h) s = .next (giving (s.popped a.toNat) d (BitVec.ofNat 64 hd.filled)))
    ∧ (0 < n → n.natAbs ≤ hd.count → n.natAbs ≤ hd.filled → exec (.hwait d a h) s = .next (giving (s.popped a.toNat) d (hd.slotPtr hd.head)))
    ∧ (n < 0 → n.natAbs ≤ hd.count → n.natAbs ≤ hd.count - hd.filled →
      exec (.hwait d a h) s = .next (giving (s.popped a.toNat) d (hd.slotPtr hd.tail)))
    ∧ (n.natAbs ≤ hd.count → (0 < n ∧ hd.filled < n.natAbs ∨ n < 0 ∧ hd.count - hd.filled < n.natAbs) →
      exec (.hwait d a h) s = .next (s.withCore { s.core with stalled := true }))
    ∧ (c.region = none → m ≤ hd.filled → c.handleBusy h.toNat = false → exec (.hadvc d a h) s = .next (moved used))
    ∧ (c.region = none → m ≤ hd.count - hd.filled → exec (.hadvp d a h) s = .next (moved added))
    ∧ (hd.filled < m → exec (.hadvc d a h) s = .next (raiseTrap s s.cur 34 (BitVec.ofNat 64 h.toNat)))
    ∧ (hd.count - hd.filled < m → exec (.hadvp d a h) s = .next (raiseTrap s s.cur 34 (BitVec.ofNat 64 h.toNat))))

/-- R293 to R295: SUBSCR and UNSUB, once the core's earlier commands have reached the distributor (R121, R128), add and remove a subscription (that UNSUB finds no item on its way, and so completes at once, is the model's choice,
log 26); SPUB sends the eight rows of its tile to the distributor and waits, and with
the answer completes. R307: TREELD loads the tree of a stream, or removes it. -/
def Obligations.Streams : Prop :=
  ∀ (d a b : BitVec 4) (h : BitVec 3) (s s1 s2 s3 s4 : State),
    let t := s.terminated
    let c := t.core
    let x := c.valueOf a.toNat
    let p := t.popped a.toNat
    let st := streamAt t x.toNat
    let hd := c.handles[h.toNat]
    s.core.twin = none →
    (c.readable a.toNat = true → (c.popped a.toNat).writable d.toNat = true → distributorFree (c.popped a.toNat) = true →
      (x.toNat < 4096 → hd.count ≠ 0 → 1024 ≤ hd.size → hd.stream = none → st.subs.length < 256 → (st.tree = [] ∨ s.cur ∈ st.tree) →
        exec (.subscr d a h) s = .next (giving (modStreamAt (p.withCore (withHandle (c.popped a.toNat) h { hd with stream := some x.toNat })) x.toNat
          (fun y => { y with subs := y.subs ++ [(s.cur, 8 * c.team.getD 0 + h.toNat)] })) d 0))
      ∧ (4096 ≤ x.toNat → exec (.subscr d a h) s = .next (giving p d (-1)))
      ∧ (x.toNat < 4096 → hd.stream = some x.toNat →
        exec (.unsub d a h) s = .next (giving (modStreamAt (p.withCore (withHandle (c.popped a.toNat) h { hd with stream := none })) x.toNat
          (fun y => y.drop (s.cur, 8 * c.team.getD 0 + h.toNat))) d 0))
      ∧ (hd.stream ≠ some x.toNat → exec (.unsub d a h) s = .next (giving p d (-1))))
    ∧ (s.core.readable a.toNat = true →
      let y := s.core.valueOf a.toNat
      let c' := s.core.popped a.toNat
      (y.toNat < 4096 → s.core.reply.isSome = true → exec (.spub a h) s = .next (s.withCore (c'.advance 4)))
      ∧ (y.toNat < 4096 → begins s.core = true → s.core.tileLocked h.toNat = false → s.core.tilePending h.toNat = false → rowsClean s.core h.toNat 8 = true →
        s.core.acquirePending = false → s.core.region = none →
        exec (.spub a h) s = .next (s.withCore { s.core with
          command := some (.spub y.toNat ((List.range 8).map (fun r => s.core.row h.toNat r))), wait := some .reply
          stamp := s.core.stamp + 1, stalled := true }))
      ∧ (4096 ≤ y.toNat → exec (.spub a h) s = .next (raiseTrap s s.cur 7 y)))
    ∧ (let rs := [a.toNat, b.toNat]
       let y := ((c.popped a.toNat).valueOf b.toNat)
       let z := streamAt t y.toNat
       c.readsOk rs = true → (c.afterReads rs).writable d.toNat = true → y.toNat < 4096 →
       (t.core.reply = none → x = 0 → z.subs = [] → z.queue = [] → exec (.treeld d a b) s = .next
         (giving (modStreamAt (t.afterReads rs) y.toNat (fun w => { w with tree := [], team := none })) d 0))
       ∧ (x = 0 → z.subs ≠ [] → exec (.treeld d a b) s = .next (giving (t.afterReads rs) d (-5)))
       ∧ (∀ (header : Nat) (ws cores : List Nat) (head : Word × Nat × (Place × Policy)) (els : List (Word × Nat × (Place × Policy))),
         x ≠ 0 → t.core.reply = none → tablePlace x (t.afterReads rs) = .ok (head, s1) → head.2.2.1.away t.cur = false →
         gather t [head] s1 = .ok ([header], s2) → 1 ≤ header % 8192 → header % 8192 ≤ 4096 →
         (List.range (header % 8192)).mapM (fun i => tablePlace (x + BitVec.ofNat 64 (8 + 8 * i))) s2 = .ok (els, s3) →
         gather t els s3 = .ok (ws, s4) → treeStatus t y.toNat header ws = (0, cores) → s4.core.writable d.toNat = true →
         exec (.treeld d a b) s = .next (giving (modStreamAt s4 y.toNat (fun w => { w with tree := cores, team := s4.core.team })) d 0)))

/-- R297: BINIT, BARV, BEXP and BINV with D = s0 become one entry and complete; with a result they end an open region, send their entry and wait,
and with the answer write it to sD and complete. So does BWAIT, by a message to the bank. -/
def Obligations.BarrierObjects : Prop :=
  ∀ (d a b : BitVec 4) (s s1 : State) (pl : Place × Policy) (v u : Word),
    (∀ p ∈ [(Instr.binit d a b, 0, [a.toNat, b.toNat]), (.barv d a b, 1, [a.toNat, b.toNat]), (.bexp d a b, 2, [a.toNat, b.toNat]),
        (.binv d a, 4, [a.toNat])],
      let operand := fun (c : Core) => if p.2.1 = 4 then 0 else (c.popped a.toNat).valueOf b.toNat
      let c := s.core
      let e := entryOf s1 (.barrier p.2.1 (operand c) false) pl (c.valueOf a.toNat) 2 3
      let t := s.terminated
      let f := entryOf s1 (.barrier p.2.1 (operand t.core) true) pl (t.core.valueOf a.toNat) 2 3
      (d = 0 → c.readsOk p.2.2 = true → barrierPlace .put (c.valueOf a.toNat) (s.afterReads p.2.2) = .ok (pl, s1) →
        (queueOpen s1.core = true → exec p.1 s = .next (s1.withCore ((queued s1.core e).advance 4)))
        ∧ (bufferOpen s1.core e = true → exec p.1 s = .next (s1.withCore ((held s1.core e).advance 4))))
      ∧ (d ≠ 0 → s.core.twin = none → t.core.readsOk p.2.2 = true →
        (t.core.reply = some (.value v u) → (t.core.afterReads p.2.2).writable d.toNat = true →
          exec p.1 s = .next (giving (t.afterReads p.2.2) d v))
        ∧ (begins t.core = true → barrierPlace .put (t.core.valueOf a.toNat) (t.afterReads p.2.2) = .ok (pl, s1) → s1.core.writable d.toNat = true →
          s1.core.rbuf = [] → s1.core.cq.length < 16 →
          exec p.1 s = .next (t.withCore { queued t.core f with wait := some .reply, stalled := true }))))
    ∧ (let t := s.terminated
       let x := t.core.valueOf a.toNat
       let n := ((t.core.popped a.toNat).valueOf b.toNat).toNat
       let rs := [a.toNat, b.toNat]
       s.core.twin = none → t.core.readsOk rs = true →
       (t.core.reply = some (.value v u) → (t.core.afterReads rs).writable d.toNat = true →
         exec (.bwait d a b) s = .next (giving (t.afterReads rs) d v))
       ∧ (begins t.core = true → barrierPlace .take x (t.afterReads rs) = .ok (pl, s1) → s1.core.writable d.toNat = true →
         s1.core.acquirePending = false →
         exec (.bwait d a b) s = .next { t.withCore { t.core with wait := some .bank, stalled := true } with
           net := t.net ++ [{ src := t.cur, dst := pl.1.key, off := pl.1.addr, ea := x, kind := .bwait (n % 2 ^ 23) }] }))

/-- R299, R300: WBMASK leaves every group and joins the one it names, WBARA sends an arrival and gives the phase it will complete, WBARW gives the
counter once it has gone on from the operand or an event is there, its EVSTAT not poisoned (R405); an arrival or wait of a core that is no member is illegal with SUB 0x07.  State
names a member by its team and its core. -/
def Obligations.WiredBarriers : Prop :=
  ∀ (d a grp : BitVec 4) (s : State),
    let t := s.terminated
    let c := t.core
    let x := c.valueOf a.toNat
    let p := t.popped a.toNat
    let own := p.core
    let g := groupAt t (dieOf t.cur) grp.toNat
    let me := 65536 * c.team.getD 0 + t.cur
    let member := g.members.any (fun m => m.1 == me)
    let left := leaveGroups p t.cur
    let named := groupAt t (dieOf t.cur) (x.toNat % 16)
    s.core.twin = none → c.readable a.toNat = true →
    (x.toNat < 32 → arrivalPending p t.cur = false →
      (x.getLsbD 4 = false → exec (.wbmask a) s = .next (left.withCore ({ left.core.overwritten [4096 + 0x004] with wbmask := x }.advance 4)))
      ∧ (x.getLsbD 4 = true → named.team ≠ 0 → c.team = some named.team →
        let u := modGroupAt left (dieOf t.cur) (x.toNat % 16) (fun y => { y with members := y.members ++ [(me, false)] })
        exec (.wbmask a) s = .next (u.withCore ({ u.core.overwritten [4096 + 0x004] with wbmask := x }.advance 4))))
    ∧ ((32 ≤ x.toNat ∨ (x.getLsbD 4 = true ∧ (named.team = 0 ∨ c.team ≠ some named.team))) → exec (.wbmask a) s = .next (raiseTrap t s.cur 2 (illegalVal 0x02 true (encode (.wbmask a)))))
    ∧ (member = true → arrivalPending p t.cur = false → own.writable d.toNat = true →
      exec (.wbara d a grp) s = .next (t.withCore (({ own.put d.toNat (g.counter.setWidth 64) with
        arrival := some (grp.toNat, x.getLsbD 0, own.stamp), stamp := own.stamp + 1 }).advance 4)))
    ∧ (member = true → own.writable d.toNat = true → own.poison.contains (0, 4096 + 0x001) = false → (g.counter ≠ x.setWidth 32 ∨ c.evstat ≠ 0) →
      exec (.wbarw d a grp) s = .next (giving p d (g.counter.setWidth 64)))
    ∧ (member = false → exec (.wbara d a grp) s = .next (raiseTrap t s.cur 2 (illegalVal 0x07 true (encode (.wbara d a grp)))))
    ∧ (member = false → own.writable d.toNat = true →
      exec (.wbarw d a grp) s = .next (raiseTrap t s.cur 2 (illegalVal 0x07 true (encode (.wbarw d a grp)))))

/-- R302 to R305 and R338: RNGINIT sets up the range of the team and RNGGET asks for a chunk of it and gives it; SPAWN launches kids, JOIN gives
their status once they have ended, EVPOST posts its record or wakes its core, and CLKREQ replaces the request of the team. -/
def Obligations.RangesKidsAndEvents : Prop :=
  ∀ (d a b : BitVec 4) (s s1 s2 : State) (pl : Place × Policy) (u v : Word) (r : Int) (tm : Team),
    let t := s.terminated
    let c := t.core
    let x := c.valueOf a.toNat
    let y := (c.popped a.toNat).valueOf b.toNat
    let p := t.popped a.toNat
    let rs := [a.toNat, b.toNat]
    let tn := c.team.getD 0
    s.core.twin = none →
    (c.readable a.toNat = true → x.toNat < 2 ^ 35 →
      let q := modTeamAt p tn (fun m => { m with range := { m.range with
        next := 0, ns := x.toNat % 2 ^ 32, factor := x.toNat / 2 ^ 32 + 1, returned := [] } })
      exec (.rnginit a) s = .next (q.withCore (q.core.advance 4)))
    ∧ (c.readable a.toNat = true →
      (c.reply = some (.value u v) → pairWritable p.core d = true → exec (.rngget d a) s = .next (givingPair p d u v))
      ∧ (begins c = true → x.toNat < 2 → d ≠ 0 → p.core.writable d.toNat = true → p.core.writable (d.toNat + 1) = true →
        exec (.rngget d a) s = .next (modTeamAt (t.withCore { c with
            command := some (.rngget (x.getLsbD 0)), wait := some .reply, stalled := true }) tn
          (fun m => { m with range := { m.range with requests := m.range.requests ++ [t.cur] } }))))
    ∧ (d ≠ 0 ∨ s.core.region = none → c.readsOk rs = true → (c.afterReads rs).writable d.toNat = true →
      (if space0 x.toNat 64 = true then checkAccess .load x 64 0 (t.afterReads rs) = .ok (pl, s1) else s1 = t.afterReads rs) →
      fenced s1 s1.cur 3 = true → s1.core.region = none →
      let user := !s1.core.supervisor
      (if space0 x.toNat 64 = true then engineReads (launchReads (coreRead s1 s1.cur user) (x.toNat % 2 ^ 52)) s1 = .ok ((), s2) else s2 = s1) →
      let k := spawnOp s2 s2.cur user x y
      k.2.core.writable d.toNat = true → exec (.spawn d a b) s = .next (giving k.2 d k.1))
    ∧ (c.readable a.toNat = true → p.core.writable d.toNat = true → joinStatus p p.cur x = some r →
      exec (.join d a) s = .next (giving p d (BitVec.ofInt 64 r)))
    ∧ (d ≠ 0 ∨ s.core.region = none → c.readsOk rs = true → (c.afterReads rs).writable d.toNat = true →
      (evpostOk (t.afterReads rs) x y = false → exec (.evpost d a b) s = .next (giving (t.afterReads rs) d (-1)))
      ∧ (evpostOk (t.afterReads rs) x y = true → (x.getLsbD 63 = false → (c.afterReads rs).poison.contains (0, 4096 + 0x019) = false) → c.region = none → fenced (t.afterReads rs) t.cur 3 = true →
        let q := evpostOp (t.afterReads rs) t.cur x y
        q.core.writable d.toNat = true → q.cur = t.cur → exec (.evpost d a b) s = .next (giving q d 0)))
    ∧ (c.readable a.toNat = true → p.core.writable d.toNat = true → teamAt p tn = some tm →
      (clockRequestOk tm x = true → exec (.clkreq d a) s = .next (giving (requestClock p tn x) d 0))
      ∧ (clockRequestOk tm x = false → exec (.clkreq d a) s = .next (giving p d (-1))))

/-- R122, R303, R305, R316, R317, R327: in a region with D = s0, SPAWN, EVPOST, CWPUB, CAPPEND and SXAPP become one held command, and complete. -/
def Obligations.CommandsHeldInRegions : Prop :=
  ∀ (a b : BitVec 4) (k : BitVec 6) (cancel : BitVec 1) (s s1 : State) (pl : Place × Policy),
    let c := s.core
    let x := c.valueOf a.toNat
    let y := (c.popped a.toNat).valueOf b.toNat
    let rs := [a.toNat, b.toNat]
    let holds := fun (i : Instr) (act : Action) (z : State) =>
      bufferOpen z.core (commandOf z.core i act 2 3) = true → exec i s = .next (z.withCore ((held z.core (commandOf z.core i act 2 3)).advance 4))
    c.region ≠ none →
    (c.readsOk rs = true → (if space0 x.toNat 64 = true then checkAccess .load x 64 0 (s.afterReads rs) = .ok (pl, s1) else s1 = s.afterReads rs) →
      holds (.spawn 0 a b) (.spawn x y) s1)
    ∧ (c.readsOk rs = true → evpostOk (s.afterReads rs) x y = true →
      (x.getLsbD 63 = false → (c.afterReads rs).poison.contains (0, 4096 + 0x019) = false) → holds (.evpost 0 a b) (.evpost x y) (s.afterReads rs))
    ∧ (c.readable a.toNat = true → holds (.cwpub 0 a cancel) (.cwpub x (cancel == 1)) (s.popped a.toNat)
      ∧ holds (.cappend 0 k a) (.cappend x (k.toNat + 1)) (s.popped a.toNat))
    ∧ (∀ ps, c.readsOk rs = true → sxappBad x = false → tokenPlaces .load y (x.toNat / 2 ^ 16 % 2 ^ 7) (s.afterReads rs) = .ok (ps, s1) →
      holds (.sxapp 0 a b) (.sxapp x y) s1)

/-- R310 to R314, R322: CBIND and CEDIT read their block and give the code and generation of the bind; CUNBIND and CREVOKE give the code of
theirs; CREVOKE in user mode is illegal with SUB 0x06.  The lines that the engine reads are combined first (R127), and no granule that it reads is
poisoned (R405).  That the table of a range takes room of the arena is the model's choice (log 137). -/
def Obligations.SheetBinding : Prop :=
  ∀ (g a : BitVec 4) (s s1 s2 : State) (ws : List Nat),
    let t := s.terminated
    let c := t.core
    let x := c.valueOf a.toNat
    let p := t.popped a.toNat
    let urgent := match s1.core.team.bind (teamAt s1) with | some m => m.urgent | none => false
    let user := !s1.core.supervisor
    let w := fun (i : Nat) => ws.getD i 0
    let rd := coreRead s2 s2.cur user
    let bound := fun (op : BindOp) => op s2 rd rd w user urgent
    let sound := fun (edit : Bool) => engineMarks s1 10 (bindBlock w).sheet = []
      ∧ engineReads (bindReads s1 (coreRead s1 s1.cur user) w edit) s1 = .ok ((), s2)
    let gives := fun (i : Instr) (r : Nat × Nat × State) =>
      r.2.2.core.writable g.toNat = true → exec i s = .next (giving r.2.2 g (sheetWord r.1 r.2.1 0))
    s.core.twin = none →
    (c.readable a.toNat = true → p.core.writable g.toNat = true → readBlock t x 16 p = .ok (ws, s1) → sheetFree s1 = true → fenced s1 s1.cur 3 = true →
      (sound false → gives (.cbind g a) (bound bindOp)) ∧ (sound true → gives (.cedit g a) (bound editOp)))
    ∧ (c.readable a.toNat = true → p.core.writable g.toNat = true → sheetFree p = true → engineMarks p 10 (x.toNat / 2 ^ 20 % 256) = [] →
      (x.toNat / 2 ^ 28 % 2 ^ 35 = 0 → let r := unbindOp p (x.toNat / 2 ^ 20 % 256) (x.toNat % 2 ^ 20)
        gives (.cunbind g a) (r.1, 0, r.2))
      ∧ (x.toNat / 2 ^ 28 % 2 ^ 35 ≠ 0 → gives (.cunbind g a) (shNOCELL, 0, p)))
    ∧ (let rs := pairRegs a.toNat
       let q := t.afterReads rs
       let sheet := (firstOf c a).toNat
       let gen := (secondOf c a).toNat
       c.supervisor = true → c.readsOk rs = true → q.core.writable g.toNat = true → sheetFree q = true →
       engineMarks q 10 (sheet / 2 ^ 20 % 256) = [] →
       (gen < 2 ^ 48 → sheet / 2 ^ 28 % 2 ^ 35 = 0 → gives (.crevoke g a) (revokeOp q (sheet / 2 ^ 20 % 256) gen))
       ∧ (2 ^ 48 ≤ gen → gives (.crevoke g a) (shBADDESC, 0, q))
       ∧ (gen < 2 ^ 48 → sheet / 2 ^ 28 % 2 ^ 35 ≠ 0 → gives (.crevoke g a) (shNOSHEET, 0, q)))
    ∧ (c.supervisor = false → exec (.crevoke g a) s = .next (raiseTrap t s.cur 2 (illegalVal 0x06 true (encode (.crevoke g a)))))

/-- R315 to R321, R323, R324: the sheet sessions: CWOPEN loads the descriptors of its cells or gives a code, CWPUB sends its publish and gives its
answer, CAPPEND, VOPEN, VCLOSE, CFENCE and CSTAT give theirs, and CRD loads a descriptor and gives the address.  A command that waits carries the
contents of its block (R310), the lines of the tail headers that CRD reads are combined first (R127), and the sheet's state is not poisoned (R405). -/
def Obligations.SheetSessions : Prop :=
  ∀ (g a v : BitVec 4) (desc : BitVec 8) (k : BitVec 6) (cancel : BitVec 1) (s s1 : State) (w0 : Nat) (cells : List Nat) (u u' : Word),
    let t := s.terminated
    let c := t.core
    let x := c.valueOf a.toNat
    let p := t.popped a.toNat
    let me := ownerOf p p.cur
    let sheet := x.toNat / 2 ^ 20 % 256
    let plain := x.toNat / 2 ^ 28 % 2 ^ 35 == 0
    let cell := x.toNat % 2 ^ 20
    let gives := fun (i : Instr) (z : State) (w : Word) => z.core.writable g.toNat = true → exec i s = .next (giving z g w)
    let sound := fun (z : State) (n : Nat) => engineMarks z 10 n = []
    let free := p.core.writable g.toNat && sheetFree p && (engineMarks p 10 sheet).isEmpty
    s.core.twin = none → c.readable a.toNat = true →
    (p.core.writable g.toNat = true → carriedCells t x 64 p = .ok ((w0, cells), s1) → (s1.core.shcell.getLsbD 63 = true → cells = [] ∨ 34 ≤ desc.toNat) →
      sheetFree s1 = true → sound s1 (w0 / 2 ^ 20 % 256) →
      let z := noteWaiting s1 (ownerOf s1 s1.cur) none
      let bad := blockBad w0 64 cells || decide (256 < desc.toNat + cells.length)
      (bad = true → gives (.cwopen g desc a) z (sheetWord shBADDESC 0 0))
      ∧ (bad = false → ∀ code, openOp z (ownerOf s1 s1.cur) (w0 / 2 ^ 20 % 256) cells = .code code → gives (.cwopen g desc a) z (sheetWord code 0 0))
      ∧ (bad = false → ∀ ds s2, openOp z (ownerOf s1 s1.cur) (w0 / 2 ^ 20 % 256) cells = .ok ds s2 →
        gives (.cwopen g desc a) (loadTds s2 desc.toNat ds) (sheetWord shOK 0 0)))
    ∧ (g ≠ 0 ∨ s.core.region = none → c.reply = some (.value u u') → gives (.cwpub g a cancel) p u)
    ∧ (g ≠ 0 ∨ s.core.region = none → begins c = true → free = true → fenced p p.cur 3 = true →
      exec (.cwpub g a cancel) s = .next ({ t.withCore { c with wait := some .reply, stalled := true } with
        publishes := t.publishes ++ [{ core := t.cur, operand := x, cancel := cancel == 1, reply := true }] }))
    ∧ (free = true →
      (g ≠ 0 ∨ s.core.region = none → let r := if plain then appendOp p me sheet cell (k.toNat + 1) else (shNOCELL, p)
       gives (.cappend g k a) r.2 (sheetWord r.1 0 0))
      ∧ (let r := if plain then vopenOp p me sheet else (shNOSHEET, 0, 0, p)
         gives (.vopen g a) r.2.2.2 (sheetWord r.1 r.2.1 r.2.2.1)))
    ∧ (t.core.writable g.toNat = true → sheetFree t = true → (∀ w, viewAt t (ownerOf t t.cur) v.toNat = some w → sound t w.sheet) →
      let r := vcloseOp t (ownerOf t t.cur) v.toNat
      gives (.vclose g v) r.2 (sheetWord r.1 0 0))
    ∧ (pairWritable p.core g = true → (g = 0 ∨ p.core.writable (g.toNat + 1) = true) → (c.shcell.getLsbD 63 = true → 34 ≤ desc.toNat) → sheetFree p = true →
      sound p sheet →
      (plain = false → exec (.crd g desc a v) s = .next (givingPair p g (BitVec.ofNat 64 shNOCELL) 0))
      ∧ (plain = true → readHeaders (crdReads p me v.toNat sheet cell) p = .ok ((), s1) → ∀ code,
        crdOp s1 (ownerOf s1 s1.cur) v.toNat sheet cell desc.toNat = .code code → pairWritable s1.core g = true →
        exec (.crd g desc a v) s = .next (givingPair s1 g (BitVec.ofNat 64 code) 0))
      ∧ (plain = true → readHeaders (crdReads p me v.toNat sheet cell) p = .ok ((), s1) → ∀ addr ds s2,
        crdOp s1 (ownerOf s1 s1.cur) v.toNat sheet cell desc.toNat = .ok addr ds s2 →
        let z := loadTds s2 desc.toNat ds
        pairWritable z.core g = true → exec (.crd g desc a v) s = .next (givingPair z g (BitVec.ofNat 64 shOK) (BitVec.ofNat 64 addr))))
    ∧ (p.core.writable g.toNat = true → carriedCells t x 16 p = .ok ((w0, cells), s1) → sheetFree s1 = true → sound s1 (w0 / 2 ^ 20 % 256) →
      (blockBad w0 16 cells = true → gives (.cfence g a v) s1 (sheetWord shBADDESC 0 0))
      ∧ (blockBad w0 16 cells = false → ∀ code, fenceCode s1 (ownerOf s1 s1.cur) v.toNat (w0 / 2 ^ 20 % 256) cells = some code →
        gives (.cfence g a v) s1 (sheetWord code 0 0)))
    ∧ (pairWritable p.core g = true → sheetFree p = true → sound p sheet →
      let r := if plain then statOp p sheet cell else (BitVec.ofNat 64 shNOCELL, 0)
      exec (.cstat g a) s = .next (givingPair p g r.1 r.2))

/-- R326 to R331, R387 to R393, R396: SXOPEN, SXFREE, SXAPP, SXLOAD and SXSTAT give the engine's result and complete.  SXQRY and SXSAVE have their
result at the engine, which writes their drafts and their area, a line of drafts at a time (R388), and give it and complete once those writes have
performed; that SXQRY traps with cause 27 at a line of drafts that its core may no longer write is the model's reading of R98 (log 138), and that the
lowest free slot is taken its choice (log 139).  Each is processed once the core's earlier commands to the engine are (R331) and no earlier command waits at its slot (R393); what the
engine reads is combined first (R127) and not poisoned (R405).  Held commands and the queues of slots are the model's fields. -/
def Obligations.SuffixSlots : Prop :=
  ∀ (d a b : BitVec 4) (s s1 s2 : State) (ps : List Place) (qs rows : List (Place × Nat)) (ts : List Nat) (sl : SxSlot) (u v : Word),
    let t := s.terminated
    let c := t.core
    let x := c.valueOf a.toNat
    let y := (c.popped a.toNat).valueOf b.toNat
    let rs := [a.toNat, b.toNat]
    let p := t.popped a.toNat
    let q := t.afterReads rs
    let gives := fun (i : Instr) (r : Word × State) => r.2.core.writable d.toNat = true → exec i s = .next (giving r.2 d r.1)
    let turn := fun (z : State) (i : Nat) => slotBusy t t.cur i (arrivalNow t) = false ∧ engineMarks z 11 i = []
    let answers := fun (i : Instr) (w : Word) (ds : List (Place × Nat)) (z : State) => ∃ r, exec i s = .next r
      ∧ r.core.reply = some (.value w 0) ∧ r.core.carried = some (draftCode ds) ∧ r.core.wait = some .reply ∧ r.core.regs = c.regs
      ∧ r.core.queues = c.queues ∧ r.suffix = z.suffix ∧ r.homes = z.homes ∧ r.mem = z.mem
    s.core.twin = none →
    (c.readable a.toNat = true → p.core.writable d.toNat = true → suffixFree p = true →
      gives (.sxopen d a) (sxOpen p p.cur x)
      ∧ (2 ^ 14 ≤ x.toNat → engineMarks p 11 x.toNat = [] → gives (.sxfree d a) (sxBADARG, p))
      ∧ (x.toNat < 2 ^ 14 → turn p x.toNat → gives (.sxfree d a) (sxFree p p.cur x.toNat (arrivalNow t))))
    ∧ (c.readable a.toNat = true → pairWritable p.core d = true → suffixFree p = true → engineMarks p 11 x.toNat = [] →
      (2 ^ 14 ≤ x.toNat → exec (.sxstat d a) s = .next (givingPair p d sxBADARG 0))
      ∧ (x.toNat < 2 ^ 14 → statBusy t t.cur x.toNat (arrivalNow t) = false →
        (if (sxSlot t x.toNat).isSome = true
          then physReads (match mailAddr t x.toNat with | some m => [(m, 8)] | none => []) p = .ok ((), s1) else s1 = p) →
        pairWritable s1.core d = true →
        exec (.sxstat d a) s = .next (givingPair s1 d (sxStat s1 x.toNat).1 (sxStat s1 x.toNat).2)))
    ∧ (d ≠ 0 ∨ s.core.region = none → c.readsOk rs = true → q.core.writable d.toNat = true →
      (sxappBad x = true → gives (.sxapp d a b) (sxBADARG, q))
      ∧ (sxappBad x = false → appendPlaces t y (x.toNat / 2 ^ 16 % 2 ^ 7) q = .ok (ps, s1) → suffixFree s1 = true →
        (c.wait = some .reply ∨ fenced s1 s1.cur 3 = true) → engineLines t ps s1 = .ok ((), s1) → turn s1 (x.toNat % 2 ^ 14) →
        engineWords ps s1 = .ok (ts, s2) → gives (.sxapp d a b) (sxAppend s2 (x.toNat % 2 ^ 14) (arrivalNow t) ts)))
    ∧ (c.readsOk rs = true → c.reply = some (.value v u) → engineWritten t t.cur = true →
      (draftsOf t.cur (c.carried.getD []) = [] → gives (.sxqry d a b) (v, q) ∧ gives (.sxsave d a b) (v, q))
      ∧ (∀ ea, refusedDraft t y v (draftsOf t.cur (c.carried.getD [])) = some ea → exec (.sxqry d a b) s = .next (raiseTrap t s.cur 27 ea))
      ∧ (draftsOf t.cur (c.carried.getD []) ≠ [] → refusedDraft t y v (draftsOf t.cur (c.carried.getD [])) = none →
        let z := sendDrafts t t.cur (draftsOf t.cur (c.carried.getD []))
        exec (.sxqry d a b) s = .next (modCoreAt z.1 t.cur (fun m => { m with carried := some (draftCode z.2), stalled := true }))))
    ∧ (c.readsOk rs = true → c.reply = none → q.core.writable d.toNat = true → suffixFree q = true →
      let i := x.toNat
      (2 ^ 14 ≤ i → answers (.sxqry d a b) sxBADARG [] q)
      ∧ (i < 2 ^ 14 → turn q i → sxSlot t i = none → answers (.sxqry d a b) sxBADSLOT [] q)
      ∧ (i < 2 ^ 14 → turn q i → sxSlot t i = some sl → tokenPlaces .store y (parDmax sl.par) q = .ok (ps, s1) → engineLines t ps s1 = .ok ((), s1) →
        mailReady t i = true → physReads (mailReads t i sl.n (parDmax sl.par)) s1 = .ok ((), s2) →
        let r := sxQuery s2 t.cur i (arrivalNow t) sl
        answers (.sxqry d a b) r.1 (ps.zip r.2.1) r.2.2))
    ∧ (c.readsOk rs = true → c.reply = none → q.core.writable d.toNat = true → suffixFree q = true →
      let i := x.toNat % 2 ^ 14
      (x.toNat / 2 ^ 14 % 2 ^ 18 ≠ 0 → answers (.sxsave d a b) sxBADARG [] q)
      ∧ (x.toNat / 2 ^ 14 % 2 ^ 18 = 0 → turn q i →
        let saved := savedSlot t t.cur i (arrivalNow t)
        (saved = none → answers (.sxsave d a b) sxBADSLOT [] (dropSave q t.cur))
        ∧ (saved = some sl → x.toNat / 2 ^ 32 < sl.size → answers (.sxsave d a b) sxSHORT [] (dropSave q t.cur))
        ∧ (saved = some sl → sl.size ≤ x.toNat / 2 ^ 32 → areaPlaces .store y sl.size q = .ok (qs, s1) →
          engineLines t (qs.map (fun z => z.1)) s1 = .ok ((), s1) →
          answers (.sxsave d a b) (BitVec.ofNat 64 sl.size) [] (saveArea (dropSave s1 t.cur) t.cur sl qs))))
    ∧ (c.readable b.toNat = true →
      let q := t.popped b.toNat
      let y := c.valueOf b.toNat
      q.core.writable d.toNat = true → suffixFree q = true → fenced q q.cur 3 = true → areaPlaces .load y 64 q = .ok (qs, s1) →
      engineLines t (qs.map (fun z => z.1)) s1 = .ok ((), s1) →
      let z1 := physCombine s1 (qs.map (fun z => (z.1.addr, z.2)))
      let w := fun (i : Nat) => match qs with | z :: _ => homeNat z1 (z.1.addr + 8 * i) 8 | [] => 0
      (∀ z ∈ qs, poisonAt z1 z.1 z.2 = none) →
      (areaBad w = true → gives (.sxload d b) (sxBADARG, z1))
      ∧ (areaBad w = false → areaPlaces .load y (64 + 4 * (w 1 - w 2)) z1 = .ok (rows, s2) →
        engineLines t (rows.map (fun z => z.1)) s2 = .ok ((), s2) →
        let z2 := physCombine s2 (rows.map (fun z => (z.1.addr, z.2)))
        (∀ z ∈ rows, poisonAt z2 z.1 z.2 = none) → gives (.sxload d b) (sxLoad z2 z2.cur w (areaTokens z2 rows (w 1 - w 2)))))

/-- R332 to R337: RBEGIN commits an open region and opens one with its window and the checkpoint of before its operand reads, once no load is on
its way, and is illegal with SUB 0x07 in a delay slot, of a branch taken or not, and with a pending transfer or annulment (R204); REND commits; RABORT
discards, counted, at the limit with cause 26, and outside regions is illegal with SUB 0x07.  That a delay slot is known by a field of its own, which a
trap entry and ERET clear, is the model's reading (log 116), and so is what a discard gives back of handles and jobs (logs 9 and 95). -/
def Obligations.Regions : Prop :=
  ∀ (a b : BitVec 4) (wbuf : BitVec 1) (s : State) (r : Region),
    let c := s.core.commit
    let rs := [a.toNat, b.toNat]
    let x := (c.valueOf a.toNat).toNat
    let n := ((c.popped a.toNat).valueOf b.toNat).toNat
    let w : Window := if n = 0 then { buf := 0, base := 0, len := 0 } else { buf := wbuf.toNat, base := x, len := n }
    let ok : Prop := n = 0 ∨ (x % 64 = 0 ∧ n % 64 = 0 ∧ x + n ≤ (if wbuf = 0 then 65536 else 32768))
    let opened : Region := { entry := c.pc, implicit := false, window := w, regs := c.regs, ext := c.ext, qcfg := c.qcfg, queues := c.queues
                             handles := c.handles, seq := c.jobSeq, rbwTile := 0, wrTile := 0, rbwAcc := 0, wrAcc := 0, rbwMac := 0
                             marks := [], produced := Vector.replicate 8 0, consumed := Vector.replicate 8 0
                             poison := c.poison.filter checkpointMark }
    (s.core.twin = none →
      (c.tq = [] → c.an = 0 → c.delay = 0 → c.loads = [] → c.readsOk rs = true →
        (ok → exec (.rbegin a b wbuf) s = .next (s.withCore
          ({ c.afterReads rs with region := some opened, pendingRegion := none }.advance 4)))
        ∧ (¬ ok → exec (.rbegin a b wbuf) s = .next (raiseTrap (s.withCore c) s.cur 7 (BitVec.ofNat 64 x))))
      ∧ ((c.tq ≠ [] ∨ c.an ≠ 0 ∨ c.delay ≠ 0) →
        exec (.rbegin a b wbuf) s = .next (raiseTrap (s.withCore c) s.cur 2 (illegalVal 0x07 true (encode (.rbegin a b wbuf)))))
      ∧ exec .rend s = .next (s.withCore (c.advance 4)))
    ∧ (s.core.region = some r →
      (s.core.rgncnt ≠ s.core.rgnlim → exec .rabort s = .next (s.withCore
        { s.core.discard with rgncnt := s.core.rgncnt + 1, pc := r.entry, stalled := false, cycle := s.core.cycle + 1
                              instret := s.core.instret + 1 }))
      ∧ (s.core.rgncnt = s.core.rgnlim → exec .rabort s = .next (takeTrap s s.cur 26 1 false r.entry)))
    ∧ (s.core.region = none → exec .rabort s = .next (raiseTrap s s.cur 2 (illegalVal 0x07 true (encode .rabort))))

/-- R340 to R343: CXSAVE stores the blocks of the sections that its mask selects, as one core's context lies in them: as many as have room enter the
commit queue at once, and it completes once all have; CXLOAD loads the sections; both are supervisor instructions, and with no section selected they only complete. That CXSAVE
waits until its last entry has entered is the model's choice (log 18). -/
def Obligations.Contexts : Prop :=
  ∀ (a : BitVec 4) (s s1 s2 : State) (ps : List (Nat × Word × Place)) (vs : List Nat),
    let c := s.core
    let x := (c.valueOf a.toNat).toNat
    let p := s.popped a.toNat
    let base := BitVec.ofNat 64 (x / 4096 * 4096)
    let mask := x % 128
    let quiet := c.region.isNone && c.tq.isEmpty && c.an == 0
    (c.wait = some .stores → c.issuing = [] → exec (.cxsave a) s = .next (s.withCore (c.advance 4)))
    ∧ (c.supervisor = true → c.readable a.toNat = true → x / 128 % 32 = 0 → quiet = true →
      (mask = 0 → (c.wait ≠ some .stores → exec (.cxsave a) s = .next (s.withCore ((c.popped a.toNat).advance 4)))
        ∧ exec (.cxload a) s = .next (s.withCore ((c.popped a.toNat).advance 4)))
      ∧ (mask ≠ 0 → c.wait = none → c.settled = true → fenced p p.cur 4 = true → ctxPlaces .store base mask p = .ok (ps, s1) →
        ctxPoison c mask = none → s1.core.region = none → s1.core.rbuf = [] →
        exec (.cxsave a) s = .next (s1.withCore (storesBegun s1 s1.core (ps.map (fun q => ((q.2.2, .direct), q.2.1,
          (List.range 64).map (fun j => (j, BitVec.ofNat 8 (ctxWord p p.cur (q.1 + j / 8 * 8) / 2 ^ (8 * (j % 8)))))))))))
      ∧ (mask ≠ 0 → c.settled = true → c.loads = [] → p.core.drained = true → ctxPlaces .load base mask p = .ok (ps, s1) →
        gather s (ps.map (fun q => (q.2.1, 64, (q.2.2, .direct)))) s1 = .ok (vs, s2) →
        let w := ctxValues (ps.zipWith (fun q v => (q.1, v)) vs)
        (∀ off ∈ (ctxBlocks mask).flatMap (fun b => (List.range 8).map (fun i => b + 8 * i)), ctxBad p.core mask w off = false) →
        (mask.testBit 3 = true → c.deferred.all (fun q => q.2.isEmpty) = true) →
        let u := if mask % 2 = 1 then flushPartials s2 s2.cur c.contrib.toNat else s2
        exec (.cxload a) s = .next (u.withCore ((u.core.loadContext mask w).advance 4))))
    ∧ (c.supervisor = false →
      (c.wait ≠ some .stores → exec (.cxsave a) s = .next (raiseTrap s s.cur 2 (illegalVal 0x06 true (encode (.cxsave a)))))
      ∧ exec (.cxload a) s = .next (raiseTrap s s.cur 2 (illegalVal 0x06 true (encode (.cxload a)))))

namespace Sys2Proof.Spec

/-! ### Events (the agents of R106) -/

/-- The event of a message that arrives, where the message belongs to the event's row. -/
def rowEvent (s : State) (n : Nat) (row : MsgRow) : Option State :=
  (s.net[n]?).bind (fun m => if msgRow s m = row then arriveMsg s n else none)

/-- The events of the core, the memory system, the engines and the banks, with what they do when they are due. -/
noncomputable def memoryEvents (n m : Nat) (fwd : Bool) (s : State) : List (Instr × Option State) :=
  [(.commitQueuePerform n, performHead s n), (.regionMoveCommitted n, moveCommitted s n),
   (.homeArrive fwd n, if fwd then arriveForward s n else if headCompared s n then arriveHead s n else none),
   (.homePerformWrite n, performHome s n), (.homeLoad n m, loadHome s n m), (.leaseExpire n m, some (expireLease s n m)),
   (.remoteAccessArrive n, rowEvent s n .access), (.bankTake n, rowEvent s n .take), (.bankPeek n, rowEvent s n .peek),
   (.bankPut n, rowEvent s n .put), (.bankInit n, rowEvent s n .init), (.bankBinit n, rowEvent s n .binit),
   (.bankBarv n, rowEvent s n .barv), (.bankBexp n, rowEvent s n .bexp), (.bankBwait n, rowEvent s n .bwait),
   (.bankBinv n, rowEvent s n .binv), (.barCompletion n, rowEvent s n .bar), (.writebackRequest n m, some (requestBack s n m)),
   (.writebackGrant n m, some (grantBack s n m)), (.writebackCancel n m, some (cancelBack s n m)),
   (.writebackData n m, some (dataBack s n m)),
   (.recall n m, if n ∈ (homeAt s m).holders then some (recallHerd s n m) else none), (.partialSpill n, some (spillLine s n)),
   (.copyJobDispatch n m, dispatchJob s n m), (.copyJobComplete n m, completeJob s n m), (.streamAccept n, acceptSpub s n),
   (.streamDeliver n, deliverItem s n), (.matrixJobStart n, startMatrix s n), (.matrixJobComplete n m, finishMatrix s n m),
   (.weightJobStart n, startWeight s n), (.weightJobComplete n, finishWeight s n), (.tileUnitDispatch n, takeTile s n),
   (.walkerCommandDone n m, endWalk s n m), (.wbarArrive n, arriveGroup s n), (.rangeRequest n, serveRange s n)]

/-- The events of the sheet, the scheduler, the arbiter and the suffix engine. -/
noncomputable def schedulerEvents (n m : Nat) (r : Rect) (s : State) : List (Instr × Option State) :=
  [(.sheetPublish n, performPublish s n), (.staleMark n, markStep s n), (.cellDispatch n m, dispatchCell s n m),
   (.taskComplete n, completeTask s n), (.cellMarkFresh n m, (cellKeys s n m).findSome? (markFresh s n)),
   (.appendPrefixCopy n m, (cellKeys s n m).findSome? (copyEntry s n)),
   (.ringTickInterrupt n, if ringNumber n && tickDue s n then some (raiseRing s n) else none),
   (.teamPlace n r.die r.x r.y r.w r.h, placeTeam s n r), (.spatialPreempt n r.die r.x r.y r.w r.h, preemptTeam s n r),
   (.teamStart n, startTeam s n), (.herdStart n m, startHerd s n m),
   (.taskAge n, some (modTeamAt s n (fun t => if t.waiting && (t.level == 2 || t.level == 3) then { t with level := t.level - 1 } else t))),
   (.herdsReturn n, returnHerds s n), (.sliceExpire n, expireSlice s n), (.teamResume n, resumeTeam s n), (.teamFinish n, finishTeam s n),
   (.kidComplete n, completeKid s n), (.arbiterEvaluate, some (arbitrate s)), (.grantRaiseHerd n, raiseHerd s n),
   (.suffixRebuildDone n, rebuildDone s n)]

/-- The events of the reliability unit, the links, the host and the boot. -/
noncomputable def outsideEvents (n m k v : Nat) (b : Bool) (s : State) : List (Instr × Option State) :=
  [(.uncorrectableError n m k, some (errorAt s n m k)),
   (.macroScrub n m, if m % 16 < 12 ∧ 16 ≤ m ∧ m / 16 ≤ 128 ∧ (vget (coreAt s n).macs MacroState.reset (m % 16)).loaded = true
     then some (poisonCore s n 2 (128 * (m % 16) + (m / 16 - 1))) else none),
   (.patrolScrub n m k, if n < 9 then some (countCorrected s n m) else if 16 ≤ n then some (scrubError s (n - 16) m k) else none),
   (.containmentStart n m k, startContainment s (coreKey n m k)),
   (.containmentFenceLift n, some (modDieAt s n (fun d => { d with containment := none }))),
   (.routerFailure n m k, if n < 8 ∧ m < 64 ∧ k < 80 then some (failRouter s (coreKey n m k)) else none),
   (.transactionCrcFail n, some (failWrite s n)), (.readResponseCrcFail n m, some (failResponse s n m)), (.linkFlitError n m b, none),
   (.remoteTimeout n m, targetAnswer s n m false 0), (.targetAcknowledgement n m k v, targetAnswer s n m (decide (k = 0)) v),
   (.hostMemAccess b n m v, some (hostAccess s b n m v)),
   (.spdmRequest n m, some (spdmAnswer s n m)),
   (.powerOn, powerOn s), (.thermalPoll n m, some (pollThermal s n)), (.thermalShutdown n, if 125 ≤ n then some (shutdownDies s) else none),
   (.commandDone n, commandEnds s n), (.ringConfigWrite n v, configWrite s n v), (.queueConsumerWrite n v, consumerWrite s n v),
   (.registerWrite n v, some (windowWrite s n v)), (.networkBootFrame n, some (bootFrame s n))]

/-- The commands of a channel: the event, whether the channel's fields ask for it, and what it does (R423, R424). -/
noncomputable def commandTable (ch : Nat) : List (Instr × (Channel → Bool) × (State → Nat → Channel → Ran)) :=
  let fn := fun (n : Nat) (c : Channel) => c.cls == 2 && c.fn == n
  [(.sheetnew ch, fn 0x00, sheetNew), (.sheetdel ch, fn 0x01, sheetDel), (.launch ch, fn 0x02, launchTask), (.teamend ch, fn 0x03, teamEnd),
   (.teamstatRead ch, fun c => fn 0x04 c && !c.argd.getLsbD 0, teamStat), (.teamstatWrite ch, fun c => fn 0x04 c && c.argd.getLsbD 0, teamStatSet),
   (.shoot ch, fn 0x05, shootDown), (.faultend ch, fn 0x06, faultEnd), (.qplace ch, fn 0x07, queuePlace),
   (.dieregRead ch, fun c => fn 0x08 c && !c.argd.getLsbD 0, dieRead), (.dieregWrite ch, fun c => fn 0x08 c && c.argd.getLsbD 0, dieWrite),
   (.qslice ch, fn 0x09, sliceSet), (.suffixIndexPlace ch, fun c => fn 0x0A c && c.arga == 0, indexPlace),
   (.suffixMailboxPlace ch, fun c => fn 0x0A c && c.arga == 1, mailboxPlace), (.suffixRingAssign ch, fun c => fn 0x0A c && c.arga == 2, suffixRing),
   (.power ch, fn 0x0B, powerSet), (.doorbell ch, fn 0x0C, ringDoorbell), (.wbgroup ch, fn 0x0D, groupAssign), (.boot ch, fn 0x0E, bootOp),
   (.debugStop ch, fun c => fn 0x0F c && c.argb == 0, debugHalt), (.debugResume ch, fun c => fn 0x0F c && c.argb == 1, debugGo),
   (.debugStep ch, fun c => fn 0x0F c && c.argb == 2, debugOne), (.svRetain ch, fn 0x10, windowRetain), (.svUnretain ch, fn 0x11, windowUnretain),
   (.peerset ch, fn 0x12, peerSet), (.channelSheetCommand ch, fun c => c.cls == 0, sheetCommand),
   (.channelSuffixCommand ch, fun c => c.cls == 1, suffixCommand)]

/-- GO takes a command (R423): the channel is busy with the operands of its registers, and its answer is cleared; a busy channel goes on with
its own.  What a command carries from one turn to the next is its own to set. -/
def begun (s : State) (ch : Nat) : State :=
  modChannelAt s ch (fun c =>
    if c.busy then { c with carried := none }
    else { c with busy := true, done := false, err := 0, res0 := 0, res1 := 0, given := some c.operands, carried := none })

/-- A command has its answer and waits for COMMAND_DONE. -/
def answered (s : State) (ch : Nat) (r : Word) (q : Option Word) : State :=
  modChannelAt s ch (fun c => { c with res0 := r, res1 := q.getD c.res1, finished := true })

end Sys2Proof.Spec

/-- An event of an agent that is due moves that agent; one that is not due leaves the machine as it is. The numbers by which events name agents are the
model's (log 85), and so are the argument codings of the error and scrub events (log 77) and of the boot's (log 84); that LINK_FLIT_ERROR has no effect is
its choice (log 78), and what SPDM messages hold is taken from outside the spec (logs 41, 141). -/
def Obligations.EventsMoveTheirAgents : Prop :=
  ∀ (n m k v : Nat) (b : Bool) (r : Rect) (s : State),
    ∀ p ∈ memoryEvents n m b s ++ schedulerEvents n m r s ++ outsideEvents n m k v b s, exec p.1 s = .next (p.2.getD s)

/-- R207 to R209, R185, R187, R161, R347, R348, R235: the events that enter traps: an illegal instruction or a failed fetch raises its cause where the core
is at a step, a due interrupt and a due deferred trap enter, the timer wakes its core and WAITA times out. How an event names its core is the
model's (log 85). -/
def Obligations.EventsEnterTraps : Prop :=
  ∀ (k sub insn cause addr : Nat) (long : Bool) (s : State) (st n off : Nat) (o : Bool) (sp : Space) (cmp v : Word) (seen : Option Word),
    let c := coreAt s k
    (atStep s k = true → exec (.illegalInstruction k sub long insn) s = .next (raiseTrap s k 2 (illegalVal sub long insn))
      ∧ ((cause = 0 ∨ cause = 1 ∨ cause = 12) → exec (.instructionFetchFault k cause addr) s
          = .next (raiseTrap s k cause (BitVec.ofNat 64 addr))))
    ∧ (atStep s k = false → exec (.illegalInstruction k sub long insn) s = .next s ∧ exec (.instructionFetchFault k cause addr) s = .next s)
    ∧ (stepping s k = true → c.run = .running → c.deferredTrap = some (cause, v) → deferredReady s k = true →
      (c.wait ≠ some .bank → c.wait ≠ some .poll → c.faultSleep = none → c.refusedBy = [] →
        exec (.deferredTrap k) s = .next (takeTrap (modCoreAt s k (fun c => { c with deferredTrap := none })) k cause v false c.pc))
      ∧ (c.tvecBad = false → c.tvec.toNat / 4 ≠ 0 → ∃ t, exec (.deferredTrap k) s = .next t ∧ (coreAt t k).tcause = BitVec.ofNat 64 cause ∧ (coreAt t k).tval = v
        ∧ (coreAt t k).deferredTrap = none ∧ (coreAt t k).wait = none ∧ (coreAt t k).pc = BitVec.ofNat 64 (c.tvec.toNat / 4 * 4)))
    ∧ (stepping s k = true → c.run = .running → c.wait = none → c.faultSleep = none → deferredReady s k = false →
      pendingInterrupt s k = some n → exec (.takeInterrupt k) s = .next (takeTrap (modCoreAt s k (fun c => 
        { c with doorbell := c.doorbell && n != 1 })) k n 0 true c.pc))
    ∧ (pendingInterrupt s k = none → exec (.takeInterrupt k) s = .next s)
    ∧ (c.timecmp.toNat ≤ (dieAt s (dieOf k)).clock → exec (.timerExpire k) s = .next (modCoreAt s k (fun c => { c with stalled := false })))
    ∧ (c.wait = some (.waita st n o sp off cmp seen) → n ≠ 0 → n ≤ (dieAt s (dieOf k)).clock - st →
      exec (.waitaTimeout k) s = .next (modCoreAt s k (fun c => { c with wait := some (.waita st n true sp off cmp seen), stalled := false })))

/-- R116, R117, R119, R226: a store at the head of a commit queue performs in its core's own buffer, and a store or an atomic that waits at its home
performs in memory, in one step: exactly its bytes change, an atomic's old value goes to its core, and the entry leaves the queue.  The write has not
failed its CRC four times (R34), and lies in no arena, where its right would be looked at again (R98). -/
def Obligations.StoresPerform : Prop :=
  (∀ (k n v : Nat) (s : State) (e : Entry) (rest : List Entry),
    let c := coreAt s k
    let buffer := fun (z : State) (i : Nat) => placeByte z { space := e.place.space, key := k, addr := 0 } i
    c.twin = none → c.cq = e :: rest → e.act = .store (leBytes v n) → 0 < n → (e.place.space = .bufA ∨ e.place.space = .bufC) → e.place.key = k →
    e.pair = false → headReady s k e = true → actTagged s e.place e.act = false → SMap.sorted c.bufA = true → SMap.sorted c.bufC = true →
    ∃ t, exec (.commitQueuePerform k) s = .next t ∧ (coreAt t k).cq = rest ∧ (coreAt t k).regs = c.regs ∧ t.mem = s.mem
      ∧ (∀ j, j ≠ k → coreAt t j = coreAt s j)
      ∧ (∀ i, buffer t i = if e.place.addr ≤ i ∧ i < e.place.addr + n then BitVec.ofNat 8 (v / 256 ^ (i - e.place.addr)) else buffer s i))
  ∧ (∀ (k line n : Nat) (s : State) (w : WaitingWrite) (rest : List WaitingWrite) (e : Entry) (more : List Entry),
    (homeAt s line).waiting = w :: rest → (homeAt s line).crc ≤ 3 → homeOpen s line = true → e.cell = false → w.src = .core k → w.place.space = .mem →
    (coreAt s k).cq = e :: more → e.act = w.act → Memory.wf s.mem = true → s.ranges = [] → s.poison = [] →
    (∀ v, w.act = .store (leBytes v n) → 0 < n → e.pol ≠ .swm → e.pol ≠ .herd →
      ∃ t, exec (.homePerformWrite line) s = .next t ∧ (coreAt t k).cq = more ∧ (homeAt t line).waiting = rest
        ∧ (∀ a, memByte t a = if w.place.addr ≤ a ∧ a < w.place.addr + n then BitVec.ofNat 8 (v / 256 ^ (a - w.place.addr)) else memByte s a))
    ∧ (∀ op b x, w.act = .amo op false b x true →
      ∃ t, exec (.homePerformWrite line) s = .next t ∧ (coreAt t k).cq = more
        ∧ (coreAt t k).reply = some (.value (BitVec.ofNat 64 (memNat s w.place.addr 8)) 0)
        ∧ (∀ a, memByte t a = if w.place.addr ≤ a ∧ a < w.place.addr + 8
            then BitVec.ofNat 8 (amoValue op 64 (memNat s w.place.addr 8) b.toNat x.toNat / 256 ^ (a - w.place.addr)) else memByte s a)))

/-- R422 to R424, R426: a command runs in the channel whose fields at GO ask for it, and in no other; a finished command and a channel that the window
does not have leave the machine as it is; GO clears the answer; and SHEETNEW, DIEREG, QSLICE, DOORBELL and TEAMSTAT answer as their rules say. That GO
clears the answer is the model's choice (log 42). -/
def Obligations.ChannelCommands : Prop :=
  ∀ (ch : Nat) (s : State),
    let c := (channelAt s ch).seen
    let z := begun s ch
    (∀ p ∈ commandTable ch,
      ((33 ≤ ch ∨ c.finished = true ∨ p.2.1 c = false) → exec p.1 s = .next s)
      ∧ (ch < 33 → c.finished = false → p.2.1 c = true →
        (∀ a q u, p.2.2 z ch c = .done a q u → exec p.1 s = .next (answered u ch a q))
        ∧ (∀ e, p.2.2 z ch c = .bad e → exec p.1 s = .next (modChannelAt z ch (fun c => { c with err := e, finished := true })))
        ∧ (∀ u, p.2.2 z ch c = .wait u → exec p.1 s = .next u)))
    ∧ (ch < 33 → c.finished = false → c.cls = 2 →
      (c.fn = 0 → SMap.get? s.sheets (c.arga.toNat % 256) = none → c.argb.toNat % 65536 = 0 → c.argd.toNat % 65536 = 0 → c.argd ≠ 0 →
        c.argd.toNat ≤ 2 ^ 36 → c.argb.toNat + c.argd.toNat ≤ 2 ^ 52 →
        ∃ sh : Sheet, exec (.sheetnew ch) s = .next (answered (setSheetAt (cleanEngine z 10 (c.arga.toNat % 256)) (c.arga.toNat % 256) sh) ch 0 none)
          ∧ sh.asid = c.arga.toNat / 256 % 65536 ∧ sh.base = c.argb.toNat ∧ sh.size = c.argd.toNat ∧ sh.gen = 0 ∧ sh.cells = [])
      ∧ (c.fn = 4 → teamAt s c.arga.toNat = none → exec (if c.argd.getLsbD 0 then .teamstatWrite ch else .teamstatRead ch) s
          = .next (answered z ch (-1) none))
      ∧ (c.fn = 8 → c.argd.getLsbD 0 = false → c.arga.toNat / 256 % 256 = 0x20 →
        exec (.dieregRead ch) s = .next (answered z ch (BitVec.ofNat 64 (dieAt s (c.arga.toNat % 8)).lease) none))
      ∧ (c.fn = 9 → c.argb ≠ 0 → c.argb.toNat < 2 ^ 32 → exec (.qslice ch) s
          = .next (answered { z with slices := vset z.slices (c.arga.toNat % 4) c.argb.toNat } ch 0 none))
      ∧ (c.fn = 12 → coreOfLoc s c.arga.toNat = none → exec (.doorbell ch) s = .next (answered z ch (-1) none)))

namespace Sys2Proof.Spec

/-! ### Encoding, steps and the whole machine -/

/-- A step begins an issue in the state x: the current core's, with a new round, where the agenda is empty, or that of the agenda's core. -/
def issues (s x : State) : Prop :=
  (s.agenda = [] ∧ canIssue s s.cur = true ∧ x = { s with agenda := round s })
    ∨ ∃ k rest, s.agenda = .issue k :: rest ∧ x = { s with agenda := rest, cur := k }

/-- A pending region opens at this issue (R335): the transfer queue is empty, no annulment is left, and the core is not at the terminating
instruction itself. -/
def opens (c : Core) : Prop :=
  c.pendingRegion.isSome = true ∧ c.region = none ∧ c.tq = [] ∧ c.an = 0 ∧ c.terminating = false

/-- The issue in x comes to a fetch (R204, R209, R335, R348, R372): the core runs outside a contained rectangle, no interrupt and no deferred trap is
due, and where a pending region opens no load is on its way. -/
def fetches (x : State) : Prop :=
  x.core.run = .running ∧ contained x x.cur = false ∧ consuming x x.cur = false ∧ deferredReady x x.cur = false
    ∧ interruptReady x x.cur = false ∧ x.core.pc ≠ BitVec.ofNat 64 (2 ^ 64 - 2) ∧ x.core.pc.toNat % 2 = 0
    ∧ (opens x.core → x.core.loads = [])

/-- The state in which a fetched instruction runs (R335): with the pending region open at it, where one opens. -/
def enters (y z : State) : Prop :=
  (opens y.core → ∃ w, y.core.pendingRegion = some w ∧ z = y.withCore (y.core.openRegion w true)) ∧ (¬ opens y.core → z = y)

end Sys2Proof.Spec

/-- R160 to R184: the worked encodings of the spec, bit by bit, decode to their instructions, and the reserved ones are refused. -/
def Obligations.DecodeWords : Prop :=
  decodeTableWord 16 0x0924 = some (.add16 4 9) ∧ decodeTableWord 16 0x0400 = some .nop16
  ∧ decodeTableWord 32 0x848BFFFD = some (.addi 4 5 0x1FFFD) ∧ decodeTableWord 32 0x80CFE400 = some (.add 6 7 1 57)
  ∧ decodeTableWord 32 0xB6EA01FF = some (.ldd 7 5 0 0 0 511) ∧ decodeTableWord 32 0xB30CB000 = some (.ldw 8 6 1 3 0 0)
  ∧ decodeTableWord 32 0x9A92FFF8 = some (.bne 4 9 1 0x7FF8) ∧ decodeTableWord 32 0xF5456789 = some (.exts 1 0x456789)
  ∧ decodeBytes [0xEA, 0xB6, 0xFF, 0x01] = .ok (.ldd 7 5 0 0 0 511) ∧ decodeBytes [0x45, 0xF5, 0x89, 0x67] = .ok (.exts 1 0x456789)
  ∧ decode32 0xB30CF000 = .bad .badValue false ∧ decodeBytes [0, 0] = .bad .definedIllegal false ∧ decodeBytes [0x24] = .bad .truncated false

/-- R160 to R184: the bytes of every well-formed instruction decode to it, with every operand at every value, and every instruction that the decoder gives
is well-formed. -/
def Obligations.DecodeInvertsEncode : Prop :=
  (∀ i : Instr, i.wf = true → i.size ≠ 0 → decodeBytes (encodeBytes i) = .ok i)
  ∧ (∀ (bs : List Byte) (i : Instr), decodeBytes bs = .ok i → i.wf = true)

/-- R160, R161, R204, R335: a step at whose program counter the bytes of an instruction stand, in the instruction cache or the pinned image, runs that
instruction in the state after the fetch, with a pending region open at it where one opens, where nothing comes before it and no annulment is left.
The turns of the agenda are the model's form (log 7), and so is the place of a pinned segment in the image (log 3). -/
def Obligations.StepRunsDecoded : Prop :=
  ∀ (s x : State) (i : Instr), issues s x → fetches x →
    (∀ h y1 z, fetchHalf x x.cur x.core.pc = (.half h, y1) → y1.cur = x.cur → y1.core.an = 0 →
      (h < 0x8000 → decode16 h = .ok i → enters y1 z → step s = exec i z)
      ∧ (∀ g y2, 0x8000 ≤ h → fetchHalf y1 x.cur (x.core.pc + 2) = (.half g, y2) → y2.cur = x.cur → y2.core.an = 0 →
        decode32 (h * 65536 + g) = .ok i → enters y2 z → step s = exec i z))
    ∧ (∀ b l z, x.core.cacheMode = false → x.core.pins = [(b, l)] → b ≤ x.core.pc.toNat → x.core.pc.toNat + 4 ≤ b + l → l ≤ 16384 →
      x.core.poison = [] → x.core.an = 0 →
      decodeBytes ((List.range 4).map (fun j => SMap.getD x.core.image 0 (x.core.pc.toNat - b + j))) = .ok i → enters x z →
      step s = exec i z)

/-- Every instruction and every event answers a next state, whatever the state, and so does every step: no ordinary state ends a run. That a step
is one turn of the agenda is the model's form (log 7). -/
def Obligations.EveryStepGoesOn : Prop :=
  (∀ (i : Instr) (s : State), ∃ t, exec i s = .next t) ∧ (∀ s : State, ∃ t, step s = .next t)

/-- Memory keeps its canonical form in every step, whatever turn it takes: addresses strictly rising, and no entry equal to what an unlisted
address reads as. What an unlisted address reads as is the model's choice (log 2). -/
def Obligations.MemoryStaysCanonical : Prop :=
  ∀ s t : State, Memory.wf s.mem = true → step s = .next t → Memory.wf t.mem = true

/-- R189, R191, R229, R290, R426: what the spec gives at reset: STATUS with MODE 1 alone, the control registers of their Reset column, every full/empty bit
empty, every handle with a slot count of 0, and the registers of each die at their defaults; and memory is in its canonical form. Only the values that the
spec gives are stated. -/
def Obligations.ResetState : Prop :=
  Memory.wf State.reset.mem = true
  ∧ (∀ k : Nat,
    let c := coreAt State.reset k
    c.status = BitVec.ofNat 64 (2 ^ 17) ∧ c.evstat = 0 ∧ c.qcfg = 0 ∧ c.contrib = 0 ∧ c.wbmask = 0 ∧ c.shgen = 0 ∧ c.shcell = 0
      ∧ c.cycle = 0 ∧ c.instret = 0 ∧ c.rgncnt = 0 ∧ c.rgnlim = 4 ∧ c.tvec = 0 ∧ c.tepc = 0 ∧ c.tcause = 0 ∧ c.tval = 0 ∧ c.tbq = 0
      ∧ c.tbt0 = 0 ∧ c.tbt1 = 0 ∧ c.tregpc = 0 ∧ c.tscratch = 0 ∧ c.timecmp = BitVec.allOnes 64
      ∧ c.ext = Vector.replicate 4 0 ∧ c.full = [] ∧ (∀ h : Fin 8, c.handles[h].count = 0))
  ∧ (∀ d : Fin 8,
    let x := State.reset.dies[d]
    x.crect = Vector.replicate 32 0 ∧ x.lease = 64 ∧ x.aging = 16 ∧ x.stagger = 4 ∧ x.spill = 16
      ∧ x.keep = Vector.replicate 8 0 ∧ x.tvecdef = 0 ∧ x.corrected = Vector.replicate 9 0)
end

