-- ==== Sys2Proof/Laws/SMap.lean ====
section
/-!
SUPPORT. The laws of sparse maps: a read after a write, and that every operation keeps the canonical form.
-/

namespace Sys2Proof.Machine

variable {α : Type}

theorem SMap.get?_above (m : SMap α) (b k : Nat) (h : SMap.above m b = true) (hk : k ≤ b) : SMap.get? m k = none := by
  induction m generalizing b with
  | nil => rfl
  | cons p m ih =>
    obtain ⟨a, x⟩ := p
    simp only [SMap.above, Bool.and_eq_true, decide_eq_true_eq] at h
    simp only [SMap.get?]
    rw [if_neg (by omega)]
    exact ih a h.2 (by omega)

theorem SMap.above_mono (m : SMap α) (b c : Nat) (h : SMap.above m b = true) (hc : c ≤ b) : SMap.above m c = true := by
  cases m with
  | nil => rfl
  | cons p m =>
    obtain ⟨a, x⟩ := p
    simp only [SMap.above, Bool.and_eq_true, decide_eq_true_eq] at h ⊢
    exact ⟨by omega, h.2⟩

/-- A read of the key written gives the value written. -/
@[simp] theorem SMap.get?_set_same (m : SMap α) (k : Nat) (x : α) : SMap.get? (SMap.set m k x) k = some x := by
  induction m with
  | nil => simp [SMap.set, SMap.get?]
  | cons p m ih =>
    obtain ⟨a, y⟩ := p
    simp only [SMap.set]
    split
    · simp [SMap.get?]
    · split
      · simp [SMap.get?]
      · rename_i h1 h2
        simp only [SMap.get?]
        rw [if_neg h2]
        exact ih

/-- A write leaves every other key alone. -/
theorem SMap.get?_set_other (m : SMap α) (k j : Nat) (x : α) (h : j ≠ k) :
    SMap.get? (SMap.set m k x) j = SMap.get? m j := by
  induction m with
  | nil => simp [SMap.set, SMap.get?, Ne.symm h]
  | cons p m ih =>
    obtain ⟨a, y⟩ := p
    simp only [SMap.set]
    split
    · simp only [SMap.get?]
      rw [if_neg (Ne.symm h)]
    · split
      · rename_i h1 h2
        simp only [SMap.get?]
        rw [if_neg (Ne.symm h), if_neg (by omega)]
      · simp only [SMap.get?]
        split
        · rfl
        · exact ih

theorem SMap.get?_erase_other (m : SMap α) (k j : Nat) (h : j ≠ k) : SMap.get? (SMap.erase m k) j = SMap.get? m j := by
  induction m with
  | nil => rfl
  | cons p m ih =>
    obtain ⟨a, y⟩ := p
    simp only [SMap.erase]
    split
    · rename_i h1
      simp only [SMap.get?]
      rw [if_neg (by omega)]
    · simp only [SMap.get?]
      split
      · rfl
      · exact ih

theorem SMap.get?_erase_same (m : SMap α) (k : Nat) (h : SMap.sorted m = true) : SMap.get? (SMap.erase m k) k = none := by
  induction m with
  | nil => rfl
  | cons p m ih =>
    obtain ⟨a, y⟩ := p
    simp only [SMap.sorted] at h
    simp only [SMap.erase]
    split
    · rename_i h1
      exact SMap.get?_above m a k h (by omega)
    · rename_i h1
      simp only [SMap.get?]
      rw [if_neg h1]
      apply ih
      cases m with
      | nil => rfl
      | cons q m =>
        obtain ⟨c, z⟩ := q
        simp only [SMap.above, Bool.and_eq_true] at h
        exact h.2

@[simp] theorem SMap.getD_set_same (m : SMap α) (d : α) (k : Nat) (x : α) : SMap.getD (SMap.set m k x) d k = x := by
  simp [SMap.getD]

theorem SMap.getD_set_other (m : SMap α) (d : α) (k j : Nat) (x : α) (h : j ≠ k) :
    SMap.getD (SMap.set m k x) d j = SMap.getD m d j := by
  simp [SMap.getD, SMap.get?_set_other m k j x h]

theorem SMap.above_set (m : SMap α) (b k : Nat) (x : α) (h : SMap.above m b = true) (hk : b < k) :
    SMap.above (SMap.set m k x) b = true := by
  induction m generalizing b with
  | nil => simp [SMap.set, SMap.above, hk]
  | cons p m ih =>
    obtain ⟨a, y⟩ := p
    simp only [SMap.above, Bool.and_eq_true, decide_eq_true_eq] at h
    simp only [SMap.set]
    split
    · simp only [SMap.above, Bool.and_eq_true, decide_eq_true_eq]
      exact ⟨hk, by assumption, h.2⟩
    · split
      · rename_i h1 h2
        subst h2
        simp only [SMap.above, Bool.and_eq_true, decide_eq_true_eq]
        exact h
      · simp only [SMap.above, Bool.and_eq_true, decide_eq_true_eq]
        exact ⟨h.1, ih a h.2 (by omega)⟩

theorem SMap.sorted_set (m : SMap α) (k : Nat) (x : α) (h : SMap.sorted m = true) : SMap.sorted (SMap.set m k x) = true := by
  cases m with
  | nil => rfl
  | cons p m =>
    obtain ⟨a, y⟩ := p
    simp only [SMap.sorted] at h
    simp only [SMap.set]
    split
    · simp only [SMap.sorted, SMap.above, Bool.and_eq_true, decide_eq_true_eq]
      exact ⟨by assumption, h⟩
    · split
      · rename_i h1 h2
        subst h2
        exact h
      · simp only [SMap.sorted]
        exact SMap.above_set m a k x h (by omega)

theorem SMap.above_erase (m : SMap α) (b k : Nat) (h : SMap.above m b = true) : SMap.above (SMap.erase m k) b = true := by
  induction m generalizing b with
  | nil => rfl
  | cons p m ih =>
    obtain ⟨a, y⟩ := p
    simp only [SMap.above, Bool.and_eq_true, decide_eq_true_eq] at h
    simp only [SMap.erase]
    split
    · exact SMap.above_mono m a b h.2 (by omega)
    · simp only [SMap.above, Bool.and_eq_true, decide_eq_true_eq]
      exact ⟨h.1, ih a h.2⟩

theorem SMap.sorted_of_above (m : SMap α) (b : Nat) (h : SMap.above m b = true) : SMap.sorted m = true := by
  cases m with
  | nil => rfl
  | cons p m =>
    obtain ⟨a, y⟩ := p
    simp only [SMap.above, Bool.and_eq_true] at h
    exact h.2

theorem SMap.sorted_erase (m : SMap α) (k : Nat) (h : SMap.sorted m = true) : SMap.sorted (SMap.erase m k) = true := by
  cases m with
  | nil => rfl
  | cons p m =>
    obtain ⟨a, y⟩ := p
    simp only [SMap.sorted] at h
    simp only [SMap.erase]
    split
    · exact SMap.sorted_of_above m a h
    · simp only [SMap.sorted]
      exact SMap.above_erase m a k h

theorem SMap.all_set (m : SMap α) (k : Nat) (x : α) (f : Nat × α → Bool) (h : m.all f = true) (hx : f (k, x) = true) :
    (SMap.set m k x).all f = true := by
  induction m with
  | nil => simp [SMap.set, hx]
  | cons p m ih =>
    obtain ⟨a, y⟩ := p
    simp only [List.all_cons, Bool.and_eq_true] at h
    simp only [SMap.set]
    split
    · simp [hx, h.1, h.2]
    · split
      · simp [hx, h.2]
      · simp [h.1, ih h.2]

theorem SMap.all_erase (m : SMap α) (k : Nat) (f : Nat × α → Bool) (h : m.all f = true) :
    (SMap.erase m k).all f = true := by
  induction m with
  | nil => rfl
  | cons p m ih =>
    obtain ⟨a, y⟩ := p
    simp only [List.all_cons, Bool.and_eq_true] at h
    simp only [SMap.erase]
    split
    · exact h.2
    · simp [h.1, ih h.2]

/-- A write that lists no default keeps the canonical form. -/
theorem SMap.wf_put [DecidableEq α] (m : SMap α) (d : α) (k : Nat) (x : α) (h : SMap.wf m d = true) :
    SMap.wf (SMap.put m d k x) d = true := by
  simp only [SMap.wf, Bool.and_eq_true] at h ⊢
  simp only [SMap.put]
  split
  · exact ⟨SMap.sorted_erase m k h.1, SMap.all_erase m k _ h.2⟩
  · exact ⟨SMap.sorted_set m k x h.1, SMap.all_set m k x _ h.2 (by simpa using by assumption)⟩

/-- A read after such a write, at the same key. -/
theorem SMap.getD_put_same [DecidableEq α] (m : SMap α) (d : α) (k : Nat) (x : α) (h : SMap.sorted m = true) :
    SMap.getD (SMap.put m d k x) d k = x := by
  simp only [SMap.put]
  split
  · rename_i e
    simp [SMap.getD, SMap.get?_erase_same m k h, e]
  · simp [SMap.getD]

/-- A read after such a write, at another key. -/
theorem SMap.getD_put_other [DecidableEq α] (m : SMap α) (d : α) (k j : Nat) (x : α) (h : j ≠ k) :
    SMap.getD (SMap.put m d k x) d j = SMap.getD m d j := by
  simp only [SMap.put]
  split
  · simp [SMap.getD, SMap.get?_erase_other m k j h]
  · exact SMap.getD_set_other m d k j x h

end Sys2Proof.Machine
end

