-- ==== Sys2Proof/Laws/Core.lean ====
section
/-!
SUPPORT. The laws of the operations over the running core: replacing a core, the steps of a meaning, and what reading and writing
scalar registers do.
-/

namespace Sys2Proof.Machine

theorem SMap.set_set {α : Type} (m : SMap α) (k : Nat) (x y : α) : SMap.set (SMap.set m k x) k y = SMap.set m k y := by
  induction m with
  | nil => simp [SMap.set]
  | cons p m ih =>
    obtain ⟨a, z⟩ := p
    simp only [SMap.set]
    split
    · simp [SMap.set]
    · split
      · rename_i h1 h2; subst h2; simp [SMap.set]
      · rename_i h1 h2; simp [SMap.set, h1, h2, ih]

@[simp] theorem coreAt_setCoreAt_same (s : State) (k : Nat) (c : Core) : coreAt (setCoreAt s k c) k = c := by
  simp [coreAt, setCoreAt]

theorem coreAt_setCoreAt_other (s : State) (k j : Nat) (c : Core) (h : j ≠ k) : coreAt (setCoreAt s k c) j = coreAt s j := by
  simp [coreAt, setCoreAt, SMap.getD_set_other _ _ _ _ _ h]

@[simp] theorem setCoreAt_setCoreAt (s : State) (k : Nat) (c d : Core) : setCoreAt (setCoreAt s k c) k d = setCoreAt s k d := by
  simp [setCoreAt, SMap.set_set]

@[simp] theorem core_withCore (s : State) (c : Core) : (s.withCore c).core = c := by simp [State.withCore, State.core, setCoreAt, coreAt]
@[simp] theorem cur_withCore (s : State) (c : Core) : (s.withCore c).cur = s.cur := rfl
@[simp] theorem mem_withCore (s : State) (c : Core) : (s.withCore c).mem = s.mem := rfl
@[simp] theorem agenda_withCore (s : State) (c : Core) : (s.withCore c).agenda = s.agenda := rfl
@[simp] theorem withCore_withCore (s : State) (c d : Core) : (s.withCore c).withCore d = s.withCore d := by
  simp [State.withCore, setCoreAt, SMap.set_set]
theorem coreAt_withCore_other (s : State) (c : Core) (k : Nat) (h : k ≠ s.cur) : coreAt (s.withCore c) k = coreAt s k := by
  simp [State.withCore, coreAt_setCoreAt_other _ _ _ _ h]

/-! ### The steps of a meaning -/

theorem bind_ok {α β : Type} (x : Act α) (f : α → Act β) (s s' : State) (a : α) (h : x s = .ok (a, s')) : (x >>= f) s = f a s' := by
  simp [bind, StateT.bind, h, Except.bind]

theorem bind_error {α β : Type} (x : Act α) (f : α → Act β) (s : State) (e : Stop) (h : x s = .error e) : (x >>= f) s = .error e := by
  simp [bind, StateT.bind, h, Except.bind]

@[simp] theorem pure_run {α : Type} (a : α) (s : State) : (pure a : Act α) s = .ok (a, s) := rfl
@[simp] theorem get_run (s : State) : (get : Act State) s = .ok (s, s) := rfl
@[simp] theorem set_run (s t : State) : (set t : Act PUnit) s = .ok (⟨⟩, t) := rfl
@[simp] theorem modify_run (f : State → State) (s : State) : (modify f : Act PUnit) s = .ok (⟨⟩, f s) := rfl
@[simp] theorem throw_run {α : Type} (e : Stop) (s : State) : (throw e : Act α) s = .error e := rfl
@[simp] theorem getC_run (s : State) : getC s = .ok (s.core, s) := rfl
@[simp] theorem modC_run (f : Core → Core) (s : State) : modC f s = .ok (⟨⟩, s.withCore (f s.core)) := rfl
@[simp] theorem trap_run {α : Type} (c : Nat) (v : Word) (s : State) : (trap c v : Act α) s = .error (.trap c v) := rfl
@[simp] theorem waitHere_run {α : Type} (s : State) : (waitHere : Act α) s = .error .wait := rfl
@[simp] theorem waitUntil_run (b : Bool) (s : State) : waitUntil b s = if b then .ok (⟨⟩, s) else .error .wait := by
  cases b <;> rfl
@[simp] theorem trapIf_run (b : Bool) (c : Nat) (v : Word) (s : State) :
    trapIf b c v s = if b then .error (.trap c v) else .ok (⟨⟩, s) := by cases b <;> rfl
@[simp] theorem retire_run (size : Nat) (s : State) : retire size s = .ok (⟨⟩, s.withCore (s.core.advance size)) := rfl
@[simp] theorem retireBranch_run (size : Nat) (t : Option Word) (a : Bool) (s : State) :
    retireBranch size t a s = .ok (⟨⟩, s.withCore (s.core.branch size t a)) := rfl
@[simp] theorem setFlags_run (f : BitVec 5) (s : State) : setFlags f s = .ok (⟨⟩, s.withCore (s.core.orFlags f)) := rfl

/-- A meaning whose steps succeed answers the state that they reach. -/
theorem runInstr_ok (act : Act Unit) (s t : State) (h : act s = .ok ((), t)) : runInstr act s = .next t := by simp [runInstr, h]

/-- A meaning whose steps raise a trap takes it in the state in which it began. -/
theorem runInstr_trap (act : Act Unit) (s : State) (c : Nat) (v : Word) (h : act s = .error (.trap c v)) :
    runInstr act s = .next (raiseTrap s s.cur c v) := by simp [runInstr, h]

/-- A meaning never faults and is never refused. -/
theorem runInstr_next (act : Act Unit) (s : State) : ∃ t, runInstr act s = .next t := by
  unfold runInstr
  split <;> exact ⟨_, rfl⟩

/-! ### Scalar registers -/

theorem noPoison_run (u i : Nat) (s : State) :
    noPoison u i s = if s.core.poison.contains (u, i) then .error (.consume u 0) else .ok (⟨⟩, s) := by
  simp only [noPoison, bind, StateT.bind, Except.bind, getC_run]
  split <;> rfl

/-- A register that can be read gives its value, and a queue loses its oldest entry (R188, R195). -/
theorem readReg_ok (s : State) (r : Nat) (h : s.core.readable r = true) : readReg r s = .ok (s.core.valueOf r, s.popped r) := by
  unfold Core.readable at h
  by_cases h0 : r = 0
  · subst h0; simp [readReg, bind, StateT.bind, Except.bind, Core.valueOf, State.popped]
  · have hb : (r == 0) = false := by simp [h0]
    simp only [hb, Bool.false_or, Bool.and_eq_true, Bool.not_eq_true'] at h
    obtain ⟨⟨hp, hn⟩, hq⟩ := h
    simp only [readReg, bind, StateT.bind, Except.bind, getC_run, h0, if_false, hp, Bool.false_eq_true, noPoison_run, hn,
      Core.valueOf, State.popped, Core.popped, false_or]
    by_cases hd : s.core.depth r = 0
    · simp [hd, pure, StateT.pure, Except.pure]
    · simp only [hd, if_false]
      cases hv : vget s.core.queues [] (r - 12) with
      | nil => simp [hd, hv] at hq
      | cons v rest => simp [bind, StateT.bind, Except.bind, pure, StateT.pure, Except.pure]

@[simp] theorem core_popped (s : State) (r : Nat) : (s.popped r).core = s.core.popped r := by
  unfold State.popped
  split
  · rename_i h; simp [Core.popped, h]
  · simp
@[simp] theorem withCore_popped (s : State) (r : Nat) (c : Core) : (s.popped r).withCore c = s.withCore c := by
  unfold State.popped
  split <;> simp
@[simp] theorem cur_popped (s : State) (r : Nat) : (s.popped r).cur = s.cur := by
  unfold State.popped
  split <;> simp
@[simp] theorem mem_popped (s : State) (r : Nat) : (s.popped r).mem = s.mem := by
  unfold State.popped
  split <;> simp

@[simp] theorem core_afterReads (s : State) (rs : List Nat) : (s.afterReads rs).core = s.core.afterReads rs := by
  induction rs generalizing s with
  | nil => rfl
  | cons r rs ih => simp [State.afterReads, Core.afterReads, ih]
@[simp] theorem withCore_afterReads (s : State) (rs : List Nat) (c : Core) : (s.afterReads rs).withCore c = s.withCore c := by
  induction rs generalizing s with
  | nil => rfl
  | cons r rs ih => simp [State.afterReads, ih]
@[simp] theorem cur_afterReads (s : State) (rs : List Nat) : (s.afterReads rs).cur = s.cur := by
  induction rs generalizing s with
  | nil => rfl
  | cons r rs ih => simp [State.afterReads, ih]

theorem canWrite_ok (s : State) (r : Nat) (h : s.core.writable r = true) : canWrite r s = .ok (⟨⟩, s) := by
  unfold Core.writable at h
  by_cases h0 : r = 0
  · subst h0; simp [canWrite, bind, StateT.bind, Except.bind]
  · have hb : (r == 0) = false := by simp [h0]
    simp only [hb, Bool.false_or, Bool.and_eq_true, Bool.not_eq_true'] at h
    obtain ⟨hp, hq⟩ := h
    have hn : ¬(s.core.depth r ≠ 0 ∧ s.core.depth r ≤ (vget s.core.queues [] (r - 12)).length) := by
      rintro ⟨a, b⟩
      simp [a] at hq
      omega
    simp [canWrite, bind, StateT.bind, Except.bind, h0, hp, hn, pure, StateT.pure, Except.pure]

/-- A register that can be written takes the value: s0 discards it, a queue takes it as its youngest entry (R164, R195). -/
theorem writeReg_ok (s : State) (r : Nat) (v : Word) (h : s.core.writable r = true) :
    writeReg r v s = .ok (⟨⟩, s.withCore (s.core.put r v)) := by
  simp [writeReg, bind, StateT.bind, Except.bind, canWrite_ok s r h]

theorem readReg_bind {β : Type} (f : Word → Act β) (s : State) (r : Nat) (h : s.core.readable r = true) :
    (readReg r >>= f) s = f (s.core.valueOf r) (s.popped r) := bind_ok _ _ _ _ _ (readReg_ok s r h)

theorem writeReg_bind {β : Type} (r : Nat) (v : Word) (f : PUnit → Act β) (s : State) (h : s.core.writable r = true) :
    (writeReg r v >>= f) s = f ⟨⟩ (s.withCore (s.core.put r v)) := bind_ok _ _ _ _ _ (writeReg_ok s r v h)

/-- Operand B: a register or an entry of the constant table (R165). -/
theorem operandB_ok (k : BitVec 1) (b : BitVec 6) (s : State) (h : s.core.readsOk (regsB k b) = true) :
    operandB k b s = .ok (s.core.valueB k b, s.afterReads (regsB k b)) := by
  unfold regsB at h ⊢
  unfold operandB Core.valueB
  split
  · rename_i hk
    simp [hk, Core.readsOk] at h
    simp [readReg_ok s _ h, State.afterReads]
  · rfl

/-- The form sD := f(sA, B) (R196). -/
theorem alu2_ok (d a : BitVec 4) (k : BitVec 1) (b : BitVec 6) (f : Word → Word → Word) (s : State)
    (h : s.core.readsOk (a.toNat :: regsB k b) = true) (hw : (s.core.afterReads (a.toNat :: regsB k b)).writable d.toNat = true) :
    runInstr (alu2 d a k b f) s = .next (s.withCore
      (((s.core.afterReads (a.toNat :: regsB k b)).put d.toNat (f (s.core.valueOf a.toNat) ((s.core.popped a.toNat).valueB k b))).advance 4)) := by
  simp only [Core.readsOk, Bool.and_eq_true] at h
  apply runInstr_ok
  unfold alu2
  rw [readReg_bind _ _ _ h.1, bind_ok _ _ _ _ _ (operandB_ok k b _ (by simpa using h.2)),
    writeReg_bind _ _ _ _ (by simpa [Core.afterReads] using hw)]
  simp [Core.afterReads]

/-- The form sD := f(sA) (R196, R197). -/
theorem alu1_ok (d a : BitVec 4) (size : Nat) (f : Word → Word) (s : State) (h : s.core.readable a.toNat = true)
    (hw : (s.core.popped a.toNat).writable d.toNat = true) :
    runInstr (alu1 d a size f) s = .next (s.withCore (((s.core.popped a.toNat).put d.toNat (f (s.core.valueOf a.toNat))).advance size)) := by
  apply runInstr_ok
  unfold alu1
  rw [readReg_bind _ _ _ h, writeReg_bind _ _ _ _ (by simpa using hw)]
  simp

/-- The form sD := sD op sA of 16 bits (R175). -/
theorem alu16_ok (d a : BitVec 4) (f : Word → Word → Word) (s : State) (h : s.core.readsOk [d.toNat, a.toNat] = true)
    (hw : (s.core.afterReads [d.toNat, a.toNat]).writable d.toNat = true) :
    runInstr (alu16 d a f) s = .next (s.withCore (((s.core.afterReads [d.toNat, a.toNat]).put d.toNat
      (f (s.core.valueOf d.toNat) ((s.core.popped d.toNat).valueOf a.toNat))).advance 2)) := by
  simp only [Core.readsOk, Bool.and_eq_true, Bool.and_true] at h
  apply runInstr_ok
  unfold alu16
  rw [readReg_bind _ _ _ h.1, readReg_bind _ _ _ (by simpa using h.2), writeReg_bind _ _ _ _ (by simpa [Core.afterReads] using hw)]
  simp [Core.afterReads]

theorem aluConst_ok (d : BitVec 4) (size : Nat) (v : Word) (s : State) (hw : s.core.writable d.toNat = true) :
    runInstr (aluConst d size v) s = .next (s.withCore ((s.core.put d.toNat v).advance size)) := by
  apply runInstr_ok
  unfold aluConst
  rw [writeReg_bind _ _ _ _ hw]
  simp

end Sys2Proof.Machine
end

