-- ==== Sys2Proof/Laws/Run.lean ====
section
/-!
SUPPORT. The laws of the forms in which meanings run: terminating instructions, those that a twin pair issues once, and those that wait
for an answer.
-/

namespace Sys2Proof.Machine

/-- A terminating instruction of a core that has no twin runs in the state whose region has committed (R335). -/
theorem runTerm_eq (act : Act Unit) (s : State) (h : s.core.twin = none) : runTerm act s = runInstr act s.terminated := by
  unfold runTerm State.terminated
  cases hr : s.core.region with
  | none => simp
  | some r =>
    simp only [commitThen, hr, h]
    congr 1
    have : ∀ t : State, modCoreAt s s.cur (fun c => c.commit) = t → t.cur = s.cur → t.core = s.core.commit := by
      intro t ht _; subst ht; simp [modCoreAt, State.core, setCoreAt, coreAt]
    simp [modCoreAt, State.core, setCoreAt, State.withCore, SMap.set_set, coreAt]

/-- An instruction that a twin pair issues once runs as it is on a core that has no twin (R414). -/
theorem runOnce_eq (i : Instr) (reads dst : List Nat) (act : Act Unit) (s : State) (h : s.core.twin = none) : runOnce i reads dst act s = runInstr act s := by
  simp [runOnce, h]

theorem runBoth_eq (i : Instr) (reads : List Nat) (more : Core → List Word) (act : Act Unit) (s : State) (h : s.core.twin = none) :
    runBoth i reads more act s = runInstr act s := by
  simp [runBoth, h]

@[simp] theorem twin_commit (c : Core) : c.commit.twin = c.twin := by unfold Core.commit; split <;> rfl

@[simp] theorem twin_terminated (s : State) : s.terminated.core.twin = s.core.twin := by
  unfold State.terminated
  split <;> simp

@[simp] theorem cur_terminated (s : State) : s.terminated.cur = s.cur := by
  unfold State.terminated
  split <;> rfl

theorem runTermOnce_eq (i : Instr) (reads dst : List Nat) (act : Act Unit) (s : State) (h : s.core.twin = none) :
    runTermOnce i reads dst act s = runInstr act s.terminated := by
  have ht := runTerm_eq act s h
  unfold runTermOnce
  unfold runTerm at ht
  cases hr : s.core.region with
  | none => simp [hr] at ht; simp [runOnce_eq _ _ _ _ _ h, ht]
  | some r =>
    simp only [hr] at ht
    rw [← ht]
    simp only [commitThen, hr, h]
    rw [runOnce_eq]
    have h' : (coreAt s s.cur).twin = none := h
    show (coreAt (setCoreAt (setCoreAt s s.cur _) s.cur _) s.cur).twin = none
    rw [coreAt_setCoreAt_same]
    show (coreAt (setCoreAt s s.cur _) s.cur).twin = none
    rw [coreAt_setCoreAt_same, twin_commit]
    exact h'

end Sys2Proof.Machine
end

