-- ==== Sys2Proof/Laws/Access.lean ====
section
/-!
SUPPORT. The laws of the operations by which instructions reach memory: loads, stores, entries, and waiting for an answer.
-/

namespace Sys2Proof.Machine

theorem afterAcquire_ok (s : State) (h : s.core.acquirePending = false) : afterAcquire s = .ok ((), s) := by
  simp [afterAcquire, bind, StateT.bind, Except.bind, h]

/-- A load from the core's own buffer takes its value at once (R109, R112). -/
theorem loadAt_own (s0 s1 : State) (dst : LoadDst) (ea : Word) (size pol : Nat) (acq : Bool) (scope : Nat) (s : State) (pl : Place × Policy)
    (hc : checkAccess .load ea size pol s = .ok (pl, s1)) (hsp : pl.1.space = .bufA ∨ pl.1.space = .bufC) (hk : pl.1.key = s0.cur)
    (h0 : s0.core.reply = none) (hr : s0.core.remoteLoad = false)
    (h1 : s1.core.acquirePending = false) (h2 : dst.free s1 = .ok ((), s1)) (h3 : windowRead pl.1 size ea s1 = .ok ((), s1))
    (hp : poisonAt s1 pl.1 size = none) :
    loadAt s0 dst ea size pol acq scope s
      = .ok ((), s1.withCore (dst.write s1.core (fwdNat s1 pl.1 (forwarded s1.core pl.1 size) size))) := by
  have hcons : consumes s1 pl.1 size (forwarded s1.core pl.1 size) s1 = .ok ((), s1) := by
    unfold consumes; rw [hp]; split <;> rfl
  have he : pl.1.extern = false := by rcases hsp with h | h <;> simp [Place.extern, h]
  unfold loadAt
  simp only [h0, hr, Option.isSome_none, Bool.or_self, Bool.false_eq_true, if_false]
  rw [bind_ok _ _ _ _ _ hc]
  have hb : pl.1.away s0.cur = false := by simp [Place.away, he, hk]
  simp only [hb, Bool.false_eq_true, if_false]
  unfold loadFrom
  rw [bind_ok _ _ _ _ _ (afterAcquire_ok _ h1), bind_ok _ _ _ _ _ h2, bind_ok _ _ _ _ _ h3, bind_ok _ _ _ _ _ (get_run _)]
  rcases hsp with h | h <;> simp [h] <;> rw [bind_ok _ _ _ _ _ hcons] <;> rfl

/-- A load that joins the load path (R120). -/
theorem deferLoad_ok (dst : LoadDst) (pl : Place × Policy) (ea : Word) (size : Nat) (acq : Bool) (scope : Nat) (fwd : SMap Byte) (s : State) :
    deferLoad dst pl ea size acq scope fwd s = .ok ((), s.withCore { s.core with
      stamp := s.core.stamp + 1
      loads := s.core.loads ++ [{ dst := dst, place := pl.1, size := size, ea := ea, pol := pl.2, acquire := acq, scope := scope
                                  stamp := s.core.stamp, fwd := fwd, remote := false, crc := 0 }] }) := by
  simp [deferLoad, nextStamp, bind, StateT.bind, Except.bind, pure, StateT.pure, Except.pure]

/-- An access outside regions becomes the last entry of the commit queue (R122). -/
theorem appendQueue_ok (e : Entry) (s : State) (h1 : s.core.rbuf = []) (h2 : s.core.cq.length < 16) :
    appendQueue e s = .ok ((), s.withCore { s.core with cq := s.core.cq ++ [{ e with committed := true }] }) := by
  simp [appendQueue, bind, StateT.bind, Except.bind, h1, h2]

/-- An access of a region becomes the last entry of the region buffer where it merges with none (R122). -/
theorem appendHeld_ok (e : Entry) (s : State)
    (h : ∀ y, s.core.rbuf.getLast? = some y → merges y e = false ∧ s.core.held + e.slots ≤ 64) :
    appendHeld e s = .ok ((), s.withCore { s.core with rbuf := s.core.rbuf ++ [e] }) := by
  unfold appendHeld
  simp only [bind, StateT.bind, Except.bind, getC_run]
  cases hg : s.core.rbuf.getLast? with
  | none => simp
  | some y => obtain ⟨h1, h2⟩ := h y hg; simp [h1, h2]

theorem appendEntry_queue (e : Entry) (s : State) (h : s.core.region = none) (h1 : s.core.rbuf = []) (h2 : s.core.cq.length < 16) :
    appendEntry e s = .ok ((), s.withCore { s.core with cq := s.core.cq ++ [{ e with committed := true }] }) := by
  unfold appendEntry
  rw [bind_ok _ _ _ _ _ (getC_run _)]
  rw [if_neg (by simp [h])]
  exact appendQueue_ok e s h1 h2

theorem appendEntry_held (e : Entry) (s : State) (hr : s.core.region.isSome = true)
    (h : ∀ y, s.core.rbuf.getLast? = some y → merges y e = false ∧ s.core.held + e.slots ≤ 64) :
    appendEntry e s = .ok ((), s.withCore { s.core with rbuf := s.core.rbuf ++ [e] }) := by
  unfold appendEntry
  rw [bind_ok _ _ _ _ _ (getC_run _)]
  rw [if_pos hr]
  exact appendHeld_ok e s h

/-- Whether an address lies in an arena does not rest on the core's stamp. -/
@[simp] theorem inArena_stamp (s : State) (n : Nat) (ea : Word) :
    inArena (s.withCore { s.core with stamp := n }) ea = inArena s ea := by
  have h : (s.withCore { s.core with stamp := n }).core.team = s.core.team := by simp
  unfold inArena
  rw [h]
  rfl

theorem mkEntry_ok (a : Action) (pl : Place × Policy) (ea : Word) (ord scope : Nat) (s : State) :
    mkEntry a pl ea ord scope s = .ok ({ act := a, place := pl.1, ea := ea, pol := pl.2, ord := ord, scope := scope, stamp := s.core.stamp
                                         committed := false, sent := false, checked := s.core.twinOk, user := !s.core.supervisor
                                         cell := pl.1.space == .mem && inArena s ea },
      s.withCore { s.core with stamp := s.core.stamp + 1 }) := by
  simp [mkEntry, nextStamp, bind, StateT.bind, Except.bind, pure, StateT.pure, Except.pure, Core.supervisor]

/-- An instruction whose answer has come reads its operands again and finishes (R221). -/
theorem withReply_value {α : Type} (w : Wait) (reads : Act α) (send : α → Act (State → State)) (fin : α → Word → Word → Act Unit)
    (s : State) (u v : Word) (h : s.core.reply = some (.value u v)) : withReply w reads send fin s = (reads >>= fun x => fin x u v) s := by
  simp [withReply, bind, StateT.bind, Except.bind, h]

/-- An instruction that has not begun to wait sends, and waits in the state that sending gives to the state in which it began. -/
theorem withReply_send {α : Type} (w : Wait) (reads : Act α) (send : α → Act (State → State)) (fin : α → Word → Word → Act Unit)
    (s s1 s2 : State) (x : α) (f : State → State) (h : s.core.reply = none) (hw : s.core.wait ≠ some w) (hr : reads s = .ok (x, s1))
    (hs : send x s1 = .ok (f, s2)) :
    withReply w reads send fin s = .error (.block (modCoreAt (f s) (f s).cur (fun c => { c with wait := some w }))) := by
  simp [withReply, bind, StateT.bind, Except.bind, h, hw, hr, hs]

/-! ### Instructions that make several stores (R106, R250) -/

/-- The entries of an instruction's stores: one for each, committed, with stamps that rise from the core's next one. -/
theorem mkEntries_ok (bs : List Block) (s : State) (hb : bs ≠ []) :
    ∃ es, mkEntries bs s = .ok (es, s.withCore { s.core with stamp := s.core.stamp + bs.length }) ∧
      es.map (fun e => (e.act, e.place, e.ea, e.pair)) = bs.map (fun b => (Action.store b.bytes, b.pl.1, b.ea, b.pair)) ∧
      ∀ e ∈ es, e.committed = true := by
  induction bs generalizing s with
  | nil => exact absurd rfl hb
  | cons b rest ih =>
    have hrest : ∃ es, mkEntries rest (s.withCore { s.core with stamp := s.core.stamp + 1 })
          = .ok (es, s.withCore { s.core with stamp := s.core.stamp + 1 + rest.length }) ∧
        es.map (fun e => (e.act, e.place, e.ea, e.pair)) = rest.map (fun b => (Action.store b.bytes, b.pl.1, b.ea, b.pair)) ∧
        ∀ e ∈ es, e.committed = true := by
      cases rest with
      | nil => exact ⟨[], rfl, rfl, by simp⟩
      | cons c cs => simpa using ih (s.withCore { s.core with stamp := s.core.stamp + 1 }) (by simp)
    obtain ⟨es, h1, h2, h3⟩ := hrest
    refine ⟨{ act := .store b.bytes, place := b.pl.1, ea := b.ea, pol := b.pl.2, ord := 0, scope := 0, stamp := s.core.stamp
              committed := true, sent := false, checked := s.core.twinOk, user := !s.core.supervisor, pair := b.pair
              cell := b.pl.1.space == .mem && inArena s b.ea } :: es, ?_, ?_, ?_⟩
    · unfold mkEntries
      rw [bind_ok _ _ _ _ _ (mkEntry_ok _ _ _ _ _ _), bind_ok _ _ _ _ _ h1]
      simp [pure, StateT.pure, Except.pure, Nat.add_assoc, Nat.add_comm 1]
    · simp [h2]
    · simpa using h3

/-- Entries for which the queue has room enter it whole, unless the last of them is half of a pair. -/
theorem fitEntries_all (n : Nat) (l : List Entry) (h : l.length ≤ n) (hp : ∀ e, l.getLast? = some e → e.pair = false) :
    fitEntries n l = l.length := by
  induction l generalizing n with
  | nil => cases n <;> rfl
  | cons e rest ih =>
    cases n with
    | zero => simp at h
    | succ n =>
      have hr : fitEntries n rest = rest.length := by
        refine ih n (by simpa using h) (fun x hx => hp x ?_)
        cases rest with
        | nil => simp at hx
        | cons y ys => simpa using hx
      have hc : (e.pair && decide (n = 0)) = false := by
        cases n with
        | succ n => simp
        | zero =>
          have : rest = [] := List.length_eq_zero_iff.mp (by simpa using h)
          subst this
          simpa using hp e rfl
      simp [fitEntries, hr, hc]

/-- The stores of an instruction outside regions are the last entries of the commit queue, in order, where it has room for them. -/
theorem storeMany_queue (bs : List Block) (s : State) (hb : bs ≠ []) (hr : s.core.region = none) (h1 : s.core.rbuf = [])
    (h2 : s.core.cq.length + bs.length ≤ 16) (hp : ∀ b, bs.getLast? = some b → b.pair = false) :
    ∃ es, storeMany bs s = .ok ((), s.withCore { s.core with
        stamp := s.core.stamp + bs.length, cq := s.core.cq ++ es, issuing := [] }) ∧
      es.map (fun e => (e.act, e.place, e.ea, e.pair)) = bs.map (fun b => (Action.store b.bytes, b.pl.1, b.ea, b.pair)) ∧
      ∀ e ∈ es, e.committed = true := by
  obtain ⟨es, he, hm, hc⟩ := mkEntries_ok bs s hb
  refine ⟨es, ?_, hm, hc⟩
  have hl : es.length = bs.length := by simpa using congrArg List.length hm
  have hlast : ∀ e, es.getLast? = some e → e.pair = false := by
    intro e hx
    have := congrArg List.getLast? hm
    rw [List.getLast?_map, List.getLast?_map, hx] at this
    cases hb : bs.getLast? with
    | none => simp [hb] at this
    | some b => simp [hb] at this; rw [this.2.2.2]; exact hp b hb
  have hf := fitEntries_all (16 - s.core.cq.length) es (by omega) hlast
  unfold storeMany
  rw [bind_ok _ _ _ _ _ (getC_run _), bind_ok _ _ _ _ _ (get_run _)]
  simp only [hr]
  rw [bind_ok _ _ _ _ _ (show waitUntil (bs.isEmpty || s.core.rbuf.isEmpty) s = .ok ((), s) by simp [h1])]
  rw [bind_ok _ _ _ _ _ he]
  simp [bind, StateT.bind, Except.bind, pure, StateT.pure, Except.pure, Core.moveIssuing, hf, hr]

theorem withStores_first (act : Act Unit) (s : State) (h : s.core.wait ≠ some .stores) : withStores act s = act s := by
  unfold withStores
  rw [bind_ok _ _ _ _ _ (getC_run _), if_neg h]

/-- An instruction whose stores have all entered the commit queue completes. -/
theorem withStores_done (act : Act Unit) (s : State) (h : s.core.wait = some .stores) (he : s.core.issuing = []) :
    withStores act s = retire 4 s := by
  unfold withStores
  rw [bind_ok _ _ _ _ _ (getC_run _), if_pos h]
  simp [bind, StateT.bind, Except.bind, he]

end Sys2Proof.Machine
end

