-- ==== Sys2Proof/Laws/Exec.lean ====
section
/-!
SUPPORT. The meaning of each constructor, as rewriting rules.
-/

namespace Sys2Proof.Machine

@[simp] theorem exec_add : ∀ d a k b s, exec (.add d a k b) s = execAdd d a k b s := fun _ _ _ _ _ => rfl
@[simp] theorem exec_sub : ∀ d a k b s, exec (.sub d a k b) s = execSub d a k b s := fun _ _ _ _ _ => rfl
@[simp] theorem exec_mul : ∀ d a k b s, exec (.mul d a k b) s = execMul d a k b s := fun _ _ _ _ _ => rfl
@[simp] theorem exec_mulh : ∀ d a k b s, exec (.mulh d a k b) s = execMulh d a k b s := fun _ _ _ _ _ => rfl
@[simp] theorem exec_mulhu : ∀ d a k b s, exec (.mulhu d a k b) s = execMulhu d a k b s := fun _ _ _ _ _ => rfl
@[simp] theorem exec_div : ∀ d a k b s, exec (.div d a k b) s = execDiv d a k b s := fun _ _ _ _ _ => rfl
@[simp] theorem exec_divu : ∀ d a k b s, exec (.divu d a k b) s = execDivu d a k b s := fun _ _ _ _ _ => rfl
@[simp] theorem exec_rem : ∀ d a k b s, exec (.rem d a k b) s = execRem d a k b s := fun _ _ _ _ _ => rfl
@[simp] theorem exec_remu : ∀ d a k b s, exec (.remu d a k b) s = execRemu d a k b s := fun _ _ _ _ _ => rfl
@[simp] theorem exec_and : ∀ d a k b s, exec (.and d a k b) s = execAnd d a k b s := fun _ _ _ _ _ => rfl
@[simp] theorem exec_or : ∀ d a k b s, exec (.or d a k b) s = execOr d a k b s := fun _ _ _ _ _ => rfl
@[simp] theorem exec_xor : ∀ d a k b s, exec (.xor d a k b) s = execXor d a k b s := fun _ _ _ _ _ => rfl
@[simp] theorem exec_shl : ∀ d a k b s, exec (.shl d a k b) s = execShl d a k b s := fun _ _ _ _ _ => rfl
@[simp] theorem exec_shr : ∀ d a k b s, exec (.shr d a k b) s = execShr d a k b s := fun _ _ _ _ _ => rfl
@[simp] theorem exec_sha : ∀ d a k b s, exec (.sha d a k b) s = execSha d a k b s := fun _ _ _ _ _ => rfl
@[simp] theorem exec_rot : ∀ d a k b s, exec (.rot d a k b) s = execRot d a k b s := fun _ _ _ _ _ => rfl
@[simp] theorem exec_min : ∀ d a k b s, exec (.min d a k b) s = execMin d a k b s := fun _ _ _ _ _ => rfl
@[simp] theorem exec_max : ∀ d a k b s, exec (.max d a k b) s = execMax d a k b s := fun _ _ _ _ _ => rfl
@[simp] theorem exec_minu : ∀ d a k b s, exec (.minu d a k b) s = execMinu d a k b s := fun _ _ _ _ _ => rfl
@[simp] theorem exec_maxu : ∀ d a k b s, exec (.maxu d a k b) s = execMaxu d a k b s := fun _ _ _ _ _ => rfl
@[simp] theorem exec_slt : ∀ d a k b s, exec (.slt d a k b) s = execSlt d a k b s := fun _ _ _ _ _ => rfl
@[simp] theorem exec_sltu : ∀ d a k b s, exec (.sltu d a k b) s = execSltu d a k b s := fun _ _ _ _ _ => rfl
@[simp] theorem exec_seq : ∀ d a k b s, exec (.seq d a k b) s = execSeq d a k b s := fun _ _ _ _ _ => rfl
@[simp] theorem exec_cmov : ∀ d a k b s, exec (.cmov d a k b) s = execCmov d a k b s := fun _ _ _ _ _ => rfl
@[simp] theorem exec_addw : ∀ d a k b s, exec (.addw d a k b) s = execAddw d a k b s := fun _ _ _ _ _ => rfl
@[simp] theorem exec_subw : ∀ d a k b s, exec (.subw d a k b) s = execSubw d a k b s := fun _ _ _ _ _ => rfl
@[simp] theorem exec_madd : ∀ d a k b s, exec (.madd d a k b) s = execMadd d a k b s := fun _ _ _ _ _ => rfl
@[simp] theorem exec_addx : ∀ d a k b n s, exec (.addx d a k b n) s = execAddx d a k b n s := fun _ _ _ _ _ _ => rfl
@[simp] theorem exec_clz : ∀ d a s, exec (.clz d a) s = execClz d a s := fun _ _ _ => rfl
@[simp] theorem exec_ctz : ∀ d a s, exec (.ctz d a) s = execCtz d a s := fun _ _ _ => rfl
@[simp] theorem exec_popc : ∀ d a s, exec (.popc d a) s = execPopc d a s := fun _ _ _ => rfl
@[simp] theorem exec_bswap : ∀ d a s, exec (.bswap d a) s = execBswap d a s := fun _ _ _ => rfl
@[simp] theorem exec_sext : ∀ d a n s, exec (.sext d a n) s = execSext d a n s := fun _ _ _ _ => rfl
@[simp] theorem exec_zext : ∀ d a n s, exec (.zext d a n) s = execZext d a n s := fun _ _ _ _ => rfl
@[simp] theorem exec_fadd : ∀ d a k b t rm sat s, exec (.fadd d a k b t rm sat) s = execFadd d a k b t rm sat s := fun _ _ _ _ _ _ _ _ => rfl
@[simp] theorem exec_fsub : ∀ d a k b t rm sat s, exec (.fsub d a k b t rm sat) s = execFsub d a k b t rm sat s := fun _ _ _ _ _ _ _ _ => rfl
@[simp] theorem exec_fmul : ∀ d a k b t rm sat s, exec (.fmul d a k b t rm sat) s = execFmul d a k b t rm sat s := fun _ _ _ _ _ _ _ _ => rfl
@[simp] theorem exec_ffma : ∀ d a k b t rm sat s, exec (.ffma d a k b t rm sat) s = execFfma d a k b t rm sat s := fun _ _ _ _ _ _ _ _ => rfl
@[simp] theorem exec_fdiv : ∀ d a k b t rm sat s, exec (.fdiv d a k b t rm sat) s = execFdiv d a k b t rm sat s := fun _ _ _ _ _ _ _ _ => rfl
@[simp] theorem exec_fsqrt : ∀ d a t rm sat s, exec (.fsqrt d a t rm sat) s = execFsqrt d a t rm sat s := fun _ _ _ _ _ _ => rfl
@[simp] theorem exec_fmin : ∀ d a k b t s, exec (.fmin d a k b t) s = execFmin d a k b t s := fun _ _ _ _ _ _ => rfl
@[simp] theorem exec_fmax : ∀ d a k b t s, exec (.fmax d a k b t) s = execFmax d a k b t s := fun _ _ _ _ _ _ => rfl
@[simp] theorem exec_fcmp : ∀ d a k b t cc s, exec (.fcmp d a k b t cc) s = execFcmp d a k b t cc s := fun _ _ _ _ _ _ _ => rfl
@[simp] theorem exec_fcvt : ∀ d a tk sk rm sat s, exec (.fcvt d a tk sk rm sat) s = execFcvt d a tk sk rm sat s := fun _ _ _ _ _ _ _ => rfl
@[simp] theorem exec_fclass : ∀ d a t s, exec (.fclass d a t) s = execFclass d a t s := fun _ _ _ _ => rfl
@[simp] theorem exec_fsgnj : ∀ d a k b t s, exec (.fsgnj d a k b t) s = execFsgnj d a k b t s := fun _ _ _ _ _ _ => rfl
@[simp] theorem exec_fsgnjn : ∀ d a k b t s, exec (.fsgnjn d a k b t) s = execFsgnjn d a k b t s := fun _ _ _ _ _ _ => rfl
@[simp] theorem exec_fsgnjx : ∀ d a k b t s, exec (.fsgnjx d a k b t) s = execFsgnjx d a k b t s := fun _ _ _ _ _ _ => rfl
@[simp] theorem exec_addi : ∀ d a v s, exec (.addi d a v) s = execAddi d a v s := fun _ _ _ _ => rfl
@[simp] theorem exec_andi : ∀ d a v s, exec (.andi d a v) s = execAndi d a v s := fun _ _ _ _ => rfl
@[simp] theorem exec_ori : ∀ d a v s, exec (.ori d a v) s = execOri d a v s := fun _ _ _ _ => rfl
@[simp] theorem exec_xori : ∀ d a v s, exec (.xori d a v) s = execXori d a v s := fun _ _ _ _ => rfl
@[simp] theorem exec_shli : ∀ d a n s, exec (.shli d a n) s = execShli d a n s := fun _ _ _ _ => rfl
@[simp] theorem exec_shri : ∀ d a n s, exec (.shri d a n) s = execShri d a n s := fun _ _ _ _ => rfl
@[simp] theorem exec_shai : ∀ d a n s, exec (.shai d a n) s = execShai d a n s := fun _ _ _ _ => rfl
@[simp] theorem exec_roti : ∀ d a n s, exec (.roti d a n) s = execRoti d a n s := fun _ _ _ _ => rfl
@[simp] theorem exec_bfx : ∀ d a wd pos s, exec (.bfx d a wd pos) s = execBfx d a wd pos s := fun _ _ _ _ _ => rfl
@[simp] theorem exec_bfi : ∀ d a wd pos s, exec (.bfi d a wd pos) s = execBfi d a wd pos s := fun _ _ _ _ _ => rfl
@[simp] theorem exec_li : ∀ d v s, exec (.li d v) s = execLi d v s := fun _ _ _ => rfl
@[simp] theorem exec_lih : ∀ d v s, exec (.lih d v) s = execLih d v s := fun _ _ _ => rfl
@[simp] theorem exec_lix : ∀ d e v s, exec (.lix d e v) s = execLix d e v s := fun _ _ _ _ => rfl
@[simp] theorem exec_csrr : ∀ d c s, exec (.csrr d c) s = execCsrr d c s := fun _ _ _ => rfl
@[simp] theorem exec_csrw : ∀ d a c s, exec (.csrw d a c) s = execCsrw d a c s := fun _ _ _ _ => rfl
@[simp] theorem exec_csrs : ∀ d a c s, exec (.csrs d a c) s = execCsrs d a c s := fun _ _ _ _ => rfl
@[simp] theorem exec_csrc : ∀ d a c s, exec (.csrc d a c) s = execCsrc d a c s := fun _ _ _ _ => rfl
@[simp] theorem exec_beq : ∀ a b n disp s, exec (.beq a b n disp) s = execBeq a b n disp s := fun _ _ _ _ _ => rfl
@[simp] theorem exec_bne : ∀ a b n disp s, exec (.bne a b n disp) s = execBne a b n disp s := fun _ _ _ _ _ => rfl
@[simp] theorem exec_blt : ∀ a b n disp s, exec (.blt a b n disp) s = execBlt a b n disp s := fun _ _ _ _ _ => rfl
@[simp] theorem exec_bge : ∀ a b n disp s, exec (.bge a b n disp) s = execBge a b n disp s := fun _ _ _ _ _ => rfl
@[simp] theorem exec_bltu : ∀ a b n disp s, exec (.bltu a b n disp) s = execBltu a b n disp s := fun _ _ _ _ _ => rfl
@[simp] theorem exec_bgeu : ∀ a b n disp s, exec (.bgeu a b n disp) s = execBgeu a b n disp s := fun _ _ _ _ _ => rfl
@[simp] theorem exec_jal : ∀ d n disp s, exec (.jal d n disp) s = execJal d n disp s := fun _ _ _ _ => rfl
@[simp] theorem exec_jalr : ∀ d a n s, exec (.jalr d a n) s = execJalr d a n s := fun _ _ _ _ => rfl
@[simp] theorem exec_nop : ∀ s, exec (.nop) s = execNop s := fun _ => rfl
@[simp] theorem exec_trap : ∀ a s, exec (.trap a) s = execTrap a s := fun _ _ => rfl
@[simp] theorem exec_brk : ∀ s, exec (.brk) s = execBrk s := fun _ => rfl
@[simp] theorem exec_eret : ∀ s, exec (.eret) s = execEret s := fun _ => rfl
@[simp] theorem exec_sleep : ∀ a s, exec (.sleep a) s = execSleep a s := fun _ _ => rfl
@[simp] theorem exec_fenceI : ∀ s, exec (.fenceI) s = execFenceI s := fun _ => rfl
@[simp] theorem exec_qcfg : ∀ a s, exec (.qcfg a) s = execQcfg a s := fun _ _ => rfl
@[simp] theorem exec_cxsave : ∀ a s, exec (.cxsave a) s = execCxsave a s := fun _ _ => rfl
@[simp] theorem exec_cxload : ∀ a s, exec (.cxload a) s = execCxload a s := fun _ _ => rfl
@[simp] theorem exec_ldb : ∀ d a ord scope pol off s, exec (.ldb d a ord scope pol off) s = execLdb d a ord scope pol off s := fun _ _ _ _ _ _ _ => rfl
@[simp] theorem exec_ldbu : ∀ d a ord scope pol off s, exec (.ldbu d a ord scope pol off) s = execLdbu d a ord scope pol off s := fun _ _ _ _ _ _ _ => rfl
@[simp] theorem exec_ldh : ∀ d a ord scope pol off s, exec (.ldh d a ord scope pol off) s = execLdh d a ord scope pol off s := fun _ _ _ _ _ _ _ => rfl
@[simp] theorem exec_ldhu : ∀ d a ord scope pol off s, exec (.ldhu d a ord scope pol off) s = execLdhu d a ord scope pol off s := fun _ _ _ _ _ _ _ => rfl
@[simp] theorem exec_ldw : ∀ d a ord scope pol off s, exec (.ldw d a ord scope pol off) s = execLdw d a ord scope pol off s := fun _ _ _ _ _ _ _ => rfl
@[simp] theorem exec_ldwu : ∀ d a ord scope pol off s, exec (.ldwu d a ord scope pol off) s = execLdwu d a ord scope pol off s := fun _ _ _ _ _ _ _ => rfl
@[simp] theorem exec_ldd : ∀ d a ord scope pol off s, exec (.ldd d a ord scope pol off) s = execLdd d a ord scope pol off s := fun _ _ _ _ _ _ _ => rfl
@[simp] theorem exec_ldq : ∀ d a ord scope pol off s, exec (.ldq d a ord scope pol off) s = execLdq d a ord scope pol off s := fun _ _ _ _ _ _ _ => rfl
@[simp] theorem exec_stb : ∀ d a ord scope pol off s, exec (.stb d a ord scope pol off) s = execStb d a ord scope pol off s := fun _ _ _ _ _ _ _ => rfl
@[simp] theorem exec_sth : ∀ d a ord scope pol off s, exec (.sth d a ord scope pol off) s = execSth d a ord scope pol off s := fun _ _ _ _ _ _ _ => rfl
@[simp] theorem exec_stw : ∀ d a ord scope pol off s, exec (.stw d a ord scope pol off) s = execStw d a ord scope pol off s := fun _ _ _ _ _ _ _ => rfl
@[simp] theorem exec_std : ∀ d a ord scope pol off s, exec (.std d a ord scope pol off) s = execStd d a ord scope pol off s := fun _ _ _ _ _ _ _ => rfl
@[simp] theorem exec_stq : ∀ d a ord scope pol off s, exec (.stq d a ord scope pol off) s = execStq d a ord scope pol off s := fun _ _ _ _ _ _ _ => rfl
@[simp] theorem exec_ldx : ∀ d a b s, exec (.ldx d a b) s = execLdx d a b s := fun _ _ _ _ => rfl
@[simp] theorem exec_stx : ∀ d a b s, exec (.stx d a b) s = execStx d a b s := fun _ _ _ _ => rfl
@[simp] theorem exec_amoadd : ∀ d a k b ord scope w s, exec (.amoadd d a k b ord scope w) s = execAmoadd d a k b ord scope w s := fun _ _ _ _ _ _ _ _ => rfl
@[simp] theorem exec_amoand : ∀ d a k b ord scope w s, exec (.amoand d a k b ord scope w) s = execAmoand d a k b ord scope w s := fun _ _ _ _ _ _ _ _ => rfl
@[simp] theorem exec_amoor : ∀ d a k b ord scope w s, exec (.amoor d a k b ord scope w) s = execAmoor d a k b ord scope w s := fun _ _ _ _ _ _ _ _ => rfl
@[simp] theorem exec_amoxor : ∀ d a k b ord scope w s, exec (.amoxor d a k b ord scope w) s = execAmoxor d a k b ord scope w s := fun _ _ _ _ _ _ _ _ => rfl
@[simp] theorem exec_amomin : ∀ d a k b ord scope w s, exec (.amomin d a k b ord scope w) s = execAmomin d a k b ord scope w s := fun _ _ _ _ _ _ _ _ => rfl
@[simp] theorem exec_amomax : ∀ d a k b ord scope w s, exec (.amomax d a k b ord scope w) s = execAmomax d a k b ord scope w s := fun _ _ _ _ _ _ _ _ => rfl
@[simp] theorem exec_amominu : ∀ d a k b ord scope w s, exec (.amominu d a k b ord scope w) s = execAmominu d a k b ord scope w s := fun _ _ _ _ _ _ _ _ => rfl
@[simp] theorem exec_amomaxu : ∀ d a k b ord scope w s, exec (.amomaxu d a k b ord scope w) s = execAmomaxu d a k b ord scope w s := fun _ _ _ _ _ _ _ _ => rfl
@[simp] theorem exec_amoswap : ∀ d a k b ord scope w s, exec (.amoswap d a k b ord scope w) s = execAmoswap d a k b ord scope w s := fun _ _ _ _ _ _ _ _ => rfl
@[simp] theorem exec_cas : ∀ d a k b ord scope w s, exec (.cas d a k b ord scope w) s = execCas d a k b ord scope w s := fun _ _ _ _ _ _ _ _ => rfl
@[simp] theorem exec_redadd : ∀ a k b ord scope w s, exec (.redadd a k b ord scope w) s = execRedadd a k b ord scope w s := fun _ _ _ _ _ _ _ => rfl
@[simp] theorem exec_redmin : ∀ a k b ord scope w s, exec (.redmin a k b ord scope w) s = execRedmin a k b ord scope w s := fun _ _ _ _ _ _ _ => rfl
@[simp] theorem exec_redmax : ∀ a k b ord scope w s, exec (.redmax a k b ord scope w) s = execRedmax a k b ord scope w s := fun _ _ _ _ _ _ _ => rfl
@[simp] theorem exec_redfadd : ∀ a b ord scope w s, exec (.redfadd a b ord scope w) s = execRedfadd a b ord scope w s := fun _ _ _ _ _ _ => rfl
@[simp] theorem exec_take : ∀ d a ord scope s, exec (.take d a ord scope) s = execTake d a ord scope s := fun _ _ _ _ _ => rfl
@[simp] theorem exec_put : ∀ a b ord scope s, exec (.put a b ord scope) s = execPut a b ord scope s := fun _ _ _ _ _ => rfl
@[simp] theorem exec_peek : ∀ d a ord scope s, exec (.peek d a ord scope) s = execPeek d a ord scope s := fun _ _ _ _ _ => rfl
@[simp] theorem exec_feinit : ∀ a b scope full s, exec (.feinit a b scope full) s = execFeinit a b scope full s := fun _ _ _ _ _ => rfl
@[simp] theorem exec_fence : ∀ scope s, exec (.fence scope) s = execFence scope s := fun _ _ => rfl
@[simp] theorem exec_pref : ∀ a b s, exec (.pref a b) s = execPref a b s := fun _ _ _ => rfl
@[simp] theorem exec_rflush : ∀ a b s, exec (.rflush a b) s = execRflush a b s := fun _ _ _ => rfl
@[simp] theorem exec_rinv : ∀ a b s, exec (.rinv a b) s = execRinv a b s := fun _ _ _ => rfl
@[simp] theorem exec_retain : ∀ d a b s, exec (.retain d a b) s = execRetain d a b s := fun _ _ _ _ => rfl
@[simp] theorem exec_unretain : ∀ a s, exec (.unretain a) s = execUnretain a s := fun _ _ => rfl
@[simp] theorem exec_crdecl : ∀ d a b elem op s, exec (.crdecl d a b elem op) s = execCrdecl d a b elem op s := fun _ _ _ _ _ _ => rfl
@[simp] theorem exec_crclr : ∀ a s, exec (.crclr a) s = execCrclr a s := fun _ _ => rfl
@[simp] theorem exec_waita : ∀ d a b s, exec (.waita d a b) s = execWaita d a b s := fun _ _ _ _ => rfl
@[simp] theorem exec_tld : ∀ g desc a rows s, exec (.tld g desc a rows) s = execTld g desc a rows s := fun _ _ _ _ _ => rfl
@[simp] theorem exec_tst : ∀ g desc a rows s, exec (.tst g desc a rows) s = execTst g desc a rows s := fun _ _ _ _ _ => rfl
@[simp] theorem exec_tlds : ∀ g a rows s, exec (.tlds g a rows) s = execTlds g a rows s := fun _ _ _ _ => rfl
@[simp] theorem exec_tsts : ∀ g a rows s, exec (.tsts g a rows) s = execTsts g a rows s := fun _ _ _ _ => rfl
@[simp] theorem exec_tdld : ∀ desc a s, exec (.tdld desc a) s = execTdld desc a s := fun _ _ _ => rfl
@[simp] theorem exec_tdst : ∀ desc a s, exec (.tdst desc a) s = execTdst desc a s := fun _ _ _ => rfl
@[simp] theorem exec_tfill : ∀ g fmt a rows s, exec (.tfill g fmt a rows) s = execTfill g fmt a rows s := fun _ _ _ _ _ => rfl
@[simp] theorem exec_textr : ∀ g fmt idx a s, exec (.textr g fmt idx a) s = execTextr g fmt idx a s := fun _ _ _ _ _ => rfl
@[simp] theorem exec_tins : ∀ g fmt idx a s, exec (.tins g fmt idx a) s = execTins g fmt idx a s := fun _ _ _ _ _ => rfl
@[simp] theorem exec_tmov : ∀ d a rows s, exec (.tmov d a rows) s = execTmov d a rows s := fun _ _ _ _ => rfl
@[simp] theorem exec_tzero : ∀ d rows s, exec (.tzero d rows) s = execTzero d rows s := fun _ _ _ => rfl
@[simp] theorem exec_tadd : ∀ d a h b rows fmt f64 s, exec (.tadd d a h b rows fmt f64) s = execTadd d a h b rows fmt f64 s := fun _ _ _ _ _ _ _ _ => rfl
@[simp] theorem exec_tsub : ∀ d a h b rows fmt f64 s, exec (.tsub d a h b rows fmt f64) s = execTsub d a h b rows fmt f64 s := fun _ _ _ _ _ _ _ _ => rfl
@[simp] theorem exec_tmul : ∀ d a h b rows fmt f64 s, exec (.tmul d a h b rows fmt f64) s = execTmul d a h b rows fmt f64 s := fun _ _ _ _ _ _ _ _ => rfl
@[simp] theorem exec_tfma : ∀ d a h b rows fmt f64 s, exec (.tfma d a h b rows fmt f64) s = execTfma d a h b rows fmt f64 s := fun _ _ _ _ _ _ _ _ => rfl
@[simp] theorem exec_tmin : ∀ d a h b rows fmt f64 s, exec (.tmin d a h b rows fmt f64) s = execTmin d a h b rows fmt f64 s := fun _ _ _ _ _ _ _ _ => rfl
@[simp] theorem exec_tmax : ∀ d a h b rows fmt f64 s, exec (.tmax d a h b rows fmt f64) s = execTmax d a h b rows fmt f64 s := fun _ _ _ _ _ _ _ _ => rfl
@[simp] theorem exec_tabs : ∀ d a rows fmt f64 s, exec (.tabs d a rows fmt f64) s = execTabs d a rows fmt f64 s := fun _ _ _ _ _ _ => rfl
@[simp] theorem exec_tneg : ∀ d a rows fmt f64 s, exec (.tneg d a rows fmt f64) s = execTneg d a rows fmt f64 s := fun _ _ _ _ _ _ => rfl
@[simp] theorem exec_trcp : ∀ d a rows fmt f64 s, exec (.trcp d a rows fmt f64) s = execTrcp d a rows fmt f64 s := fun _ _ _ _ _ _ => rfl
@[simp] theorem exec_trsq : ∀ d a rows fmt f64 s, exec (.trsq d a rows fmt f64) s = execTrsq d a rows fmt f64 s := fun _ _ _ _ _ _ => rfl
@[simp] theorem exec_texp2 : ∀ d a rows fmt f64 s, exec (.texp2 d a rows fmt f64) s = execTexp2 d a rows fmt f64 s := fun _ _ _ _ _ _ => rfl
@[simp] theorem exec_tlog2 : ∀ d a rows fmt f64 s, exec (.tlog2 d a rows fmt f64) s = execTlog2 d a rows fmt f64 s := fun _ _ _ _ _ _ => rfl
@[simp] theorem exec_ttanh : ∀ d a rows fmt f64 s, exec (.ttanh d a rows fmt f64) s = execTtanh d a rows fmt f64 s := fun _ _ _ _ _ _ => rfl
@[simp] theorem exec_tcmp : ∀ d a h b rows fmt f64 cc s, exec (.tcmp d a h b rows fmt f64 cc) s = execTcmp d a h b rows fmt f64 cc s := fun _ _ _ _ _ _ _ _ _ => rfl
@[simp] theorem exec_tsel : ∀ d a h b rows fmt f64 s, exec (.tsel d a h b rows fmt f64) s = execTsel d a h b rows fmt f64 s := fun _ _ _ _ _ _ _ _ => rfl
@[simp] theorem exec_tand : ∀ d a h b rows s, exec (.tand d a h b rows) s = execTand d a h b rows s := fun _ _ _ _ _ _ => rfl
@[simp] theorem exec_tor : ∀ d a h b rows s, exec (.tor d a h b rows) s = execTor d a h b rows s := fun _ _ _ _ _ _ => rfl
@[simp] theorem exec_txor : ∀ d a h b rows s, exec (.txor d a h b rows) s = execTxor d a h b rows s := fun _ _ _ _ _ _ => rfl
@[simp] theorem exec_tnot : ∀ d a rows s, exec (.tnot d a rows) s = execTnot d a rows s := fun _ _ _ _ => rfl
@[simp] theorem exec_tshl : ∀ d a h b rows fmt s, exec (.tshl d a h b rows fmt) s = execTshl d a h b rows fmt s := fun _ _ _ _ _ _ _ => rfl
@[simp] theorem exec_tshr : ∀ d a h b rows fmt s, exec (.tshr d a h b rows fmt) s = execTshr d a h b rows fmt s := fun _ _ _ _ _ _ _ => rfl
@[simp] theorem exec_tcvt : ∀ d a src rows fmt f64 sat rm s, exec (.tcvt d a src rows fmt f64 sat rm) s = execTcvt d a src rows fmt f64 sat rm s := fun _ _ _ _ _ _ _ _ _ => rfl
@[simp] theorem exec_tqnt : ∀ d a src rows fmt sat rm s, exec (.tqnt d a src rows fmt sat rm) s = execTqnt d a src rows fmt sat rm s := fun _ _ _ _ _ _ _ _ => rfl
@[simp] theorem exec_tdq : ∀ d a src rows fmt sat rm s, exec (.tdq d a src rows fmt sat rm) s = execTdq d a src rows fmt sat rm s := fun _ _ _ _ _ _ _ _ => rfl
@[simp] theorem exec_tred : ∀ d a rows fmt f64 k s, exec (.tred d a rows fmt f64 k) s = execTred d a rows fmt f64 k s := fun _ _ _ _ _ _ _ => rfl
@[simp] theorem exec_tscan : ∀ d a rows fmt f64 s, exec (.tscan d a rows fmt f64) s = execTscan d a rows fmt f64 s := fun _ _ _ _ _ _ => rfl
@[simp] theorem exec_tbcast : ∀ d a b rows fmt s, exec (.tbcast d a b rows fmt) s = execTbcast d a b rows fmt s := fun _ _ _ _ _ _ => rfl
@[simp] theorem exec_ttrn : ∀ d a fmt s, exec (.ttrn d a fmt) s = execTtrn d a fmt s := fun _ _ _ _ => rfl
@[simp] theorem exec_tperm : ∀ d a h b rows fmt s, exec (.tperm d a h b rows fmt) s = execTperm d a h b rows fmt s := fun _ _ _ _ _ _ _ => rfl
@[simp] theorem exec_tgath : ∀ d a h b rows fmt s, exec (.tgath d a h b rows fmt) s = execTgath d a h b rows fmt s := fun _ _ _ _ _ _ _ => rfl
@[simp] theorem exec_tscat : ∀ d a h b rows fmt s, exec (.tscat d a h b rows fmt) s = execTscat d a h b rows fmt s := fun _ _ _ _ _ _ _ => rfl
@[simp] theorem exec_ttopk : ∀ d a k rows fmt s, exec (.ttopk d a k rows fmt) s = execTtopk d a k rows fmt s := fun _ _ _ _ _ _ => rfl
@[simp] theorem exec_tnoise : ∀ d a rows fmt s, exec (.tnoise d a rows fmt) s = execTnoise d a rows fmt s := fun _ _ _ _ _ => rfl
@[simp] theorem exec_mma : ∀ ad ta ha wm p mode fmta s, exec (.mma ad ta ha wm p mode fmta) s = execMma ad ta ha wm p mode fmta s := fun _ _ _ _ _ _ _ _ => rfl
@[simp] theorem exec_mmaz : ∀ ad ta ha wm p mode fmta s, exec (.mmaz ad ta ha wm p mode fmta) s = execMmaz ad ta ha wm p mode fmta s := fun _ _ _ _ _ _ _ _ => rfl
@[simp] theorem exec_wld : ∀ g desc a s, exec (.wld g desc a) s = execWld g desc a s := fun _ _ _ _ => rfl
@[simp] theorem exec_wldh : ∀ g fmt h s, exec (.wldh g fmt h) s = execWldh g fmt h s := fun _ _ _ _ => rfl
@[simp] theorem exec_wclr : ∀ g s, exec (.wclr g) s = execWclr g s := fun _ _ => rfl
@[simp] theorem exec_aprom : ∀ g s, exec (.aprom g) s = execAprom g s := fun _ _ => rfl
@[simp] theorem exec_aclr : ∀ g s, exec (.aclr g) s = execAclr g s := fun _ _ => rfl
@[simp] theorem exec_amov : ∀ g a s, exec (.amov g a) s = execAmov g a s := fun _ _ _ => rfl
@[simp] theorem exec_aadd : ∀ g a s, exec (.aadd g a) s = execAadd g a s := fun _ _ _ => rfl
@[simp] theorem exec_ald : ∀ g a s, exec (.ald g a) s = execAld g a s := fun _ _ _ => rfl
@[simp] theorem exec_ast : ∀ g a s, exec (.ast g a) s = execAst g a s := fun _ _ _ => rfl
@[simp] theorem exec_acvt : ∀ g fmt sat rm a s, exec (.acvt g fmt sat rm a) s = execAcvt g fmt sat rm a s := fun _ _ _ _ _ _ => rfl
@[simp] theorem exec_aepi : ∀ g desc a s, exec (.aepi g desc a) s = execAepi g desc a s := fun _ _ _ _ => rfl
@[simp] theorem exec_mstat : ∀ g a s, exec (.mstat g a) s = execMstat g a s := fun _ _ _ => rfl
@[simp] theorem exec_copy : ∀ d a b scope fl s, exec (.copy d a b scope fl) s = execCopy d a b scope fl s := fun _ _ _ _ _ _ => rfl
@[simp] theorem exec_copys : ∀ d a b scope fl s, exec (.copys d a b scope fl) s = execCopys d a b scope fl s := fun _ _ _ _ _ _ => rfl
@[simp] theorem exec_jwait : ∀ d a s, exec (.jwait d a) s = execJwait d a s := fun _ _ _ => rfl
@[simp] theorem exec_jpoll : ∀ d a s, exec (.jpoll d a) s = execJpoll d a s := fun _ _ _ => rfl
@[simp] theorem exec_subscr : ∀ d a h s, exec (.subscr d a h) s = execSubscr d a h s := fun _ _ _ _ => rfl
@[simp] theorem exec_unsub : ∀ d a h s, exec (.unsub d a h) s = execUnsub d a h s := fun _ _ _ _ => rfl
@[simp] theorem exec_spub : ∀ a t s, exec (.spub a t) s = execSpub a t s := fun _ _ _ => rfl
@[simp] theorem exec_hcfg : ∀ a h s, exec (.hcfg a h) s = execHcfg a h s := fun _ _ _ => rfl
@[simp] theorem exec_hwait : ∀ d a h s, exec (.hwait d a h) s = execHwait d a h s := fun _ _ _ _ => rfl
@[simp] theorem exec_hadvc : ∀ d a h s, exec (.hadvc d a h) s = execHadvc d a h s := fun _ _ _ _ => rfl
@[simp] theorem exec_hadvp : ∀ d a h s, exec (.hadvp d a h) s = execHadvp d a h s := fun _ _ _ _ => rfl
@[simp] theorem exec_binit : ∀ d a b s, exec (.binit d a b) s = execBinit d a b s := fun _ _ _ _ => rfl
@[simp] theorem exec_barv : ∀ d a b s, exec (.barv d a b) s = execBarv d a b s := fun _ _ _ _ => rfl
@[simp] theorem exec_bexp : ∀ d a b s, exec (.bexp d a b) s = execBexp d a b s := fun _ _ _ _ => rfl
@[simp] theorem exec_bwait : ∀ d a b s, exec (.bwait d a b) s = execBwait d a b s := fun _ _ _ _ => rfl
@[simp] theorem exec_binv : ∀ d a s, exec (.binv d a) s = execBinv d a s := fun _ _ _ => rfl
@[simp] theorem exec_wbara : ∀ d a grp s, exec (.wbara d a grp) s = execWbara d a grp s := fun _ _ _ _ => rfl
@[simp] theorem exec_wbarw : ∀ d a grp s, exec (.wbarw d a grp) s = execWbarw d a grp s := fun _ _ _ _ => rfl
@[simp] theorem exec_wbmask : ∀ a s, exec (.wbmask a) s = execWbmask a s := fun _ _ => rfl
@[simp] theorem exec_rnginit : ∀ a s, exec (.rnginit a) s = execRnginit a s := fun _ _ => rfl
@[simp] theorem exec_rngget : ∀ d a s, exec (.rngget d a) s = execRngget d a s := fun _ _ _ => rfl
@[simp] theorem exec_spawn : ∀ d a b s, exec (.spawn d a b) s = execSpawn d a b s := fun _ _ _ _ => rfl
@[simp] theorem exec_join : ∀ d a s, exec (.join d a) s = execJoin d a s := fun _ _ _ => rfl
@[simp] theorem exec_evpost : ∀ d a b s, exec (.evpost d a b) s = execEvpost d a b s := fun _ _ _ _ => rfl
@[simp] theorem exec_treeld : ∀ d a b s, exec (.treeld d a b) s = execTreeld d a b s := fun _ _ _ _ => rfl
@[simp] theorem exec_cbind : ∀ g a s, exec (.cbind g a) s = execCbind g a s := fun _ _ _ => rfl
@[simp] theorem exec_cedit : ∀ g a s, exec (.cedit g a) s = execCedit g a s := fun _ _ _ => rfl
@[simp] theorem exec_cunbind : ∀ g a s, exec (.cunbind g a) s = execCunbind g a s := fun _ _ _ => rfl
@[simp] theorem exec_cwopen : ∀ g desc a s, exec (.cwopen g desc a) s = execCwopen g desc a s := fun _ _ _ _ => rfl
@[simp] theorem exec_cwpub : ∀ g a cancel s, exec (.cwpub g a cancel) s = execCwpub g a cancel s := fun _ _ _ _ => rfl
@[simp] theorem exec_cappend : ∀ g k a s, exec (.cappend g k a) s = execCappend g k a s := fun _ _ _ _ => rfl
@[simp] theorem exec_vopen : ∀ g a s, exec (.vopen g a) s = execVopen g a s := fun _ _ _ => rfl
@[simp] theorem exec_vclose : ∀ g v s, exec (.vclose g v) s = execVclose g v s := fun _ _ _ => rfl
@[simp] theorem exec_crd : ∀ g desc a v s, exec (.crd g desc a v) s = execCrd g desc a v s := fun _ _ _ _ _ => rfl
@[simp] theorem exec_cfence : ∀ g a v s, exec (.cfence g a v) s = execCfence g a v s := fun _ _ _ _ => rfl
@[simp] theorem exec_cstat : ∀ g a s, exec (.cstat g a) s = execCstat g a s := fun _ _ _ => rfl
@[simp] theorem exec_crevoke : ∀ g a s, exec (.crevoke g a) s = execCrevoke g a s := fun _ _ _ => rfl
@[simp] theorem exec_sxopen : ∀ d a s, exec (.sxopen d a) s = execSxopen d a s := fun _ _ _ => rfl
@[simp] theorem exec_sxapp : ∀ d a b s, exec (.sxapp d a b) s = execSxapp d a b s := fun _ _ _ _ => rfl
@[simp] theorem exec_sxqry : ∀ d a b s, exec (.sxqry d a b) s = execSxqry d a b s := fun _ _ _ _ => rfl
@[simp] theorem exec_sxsave : ∀ d a b s, exec (.sxsave d a b) s = execSxsave d a b s := fun _ _ _ _ => rfl
@[simp] theorem exec_sxload : ∀ d b s, exec (.sxload d b) s = execSxload d b s := fun _ _ _ => rfl
@[simp] theorem exec_sxfree : ∀ d a s, exec (.sxfree d a) s = execSxfree d a s := fun _ _ _ => rfl
@[simp] theorem exec_sxstat : ∀ d a s, exec (.sxstat d a) s = execSxstat d a s := fun _ _ _ => rfl
@[simp] theorem exec_rbegin : ∀ a b wbuf s, exec (.rbegin a b wbuf) s = execRbegin a b wbuf s := fun _ _ _ _ => rfl
@[simp] theorem exec_rend : ∀ s, exec (.rend) s = execRend s := fun _ => rfl
@[simp] theorem exec_rabort : ∀ s, exec (.rabort) s = execRabort s := fun _ => rfl
@[simp] theorem exec_clkreq : ∀ d a s, exec (.clkreq d a) s = execClkreq d a s := fun _ _ _ => rfl
@[simp] theorem exec_exti : ∀ e v s, exec (.exti e v) s = execExti e v s := fun _ _ _ => rfl
@[simp] theorem exec_exts : ∀ e v s, exec (.exts e v) s = execExts e v s := fun _ _ _ => rfl
@[simp] theorem exec_nop16 : ∀ s, exec (.nop16) s = execNop16 s := fun _ => rfl
@[simp] theorem exec_add16 : ∀ d a s, exec (.add16 d a) s = execAdd16 d a s := fun _ _ _ => rfl
@[simp] theorem exec_sub16 : ∀ d a s, exec (.sub16 d a) s = execSub16 d a s := fun _ _ _ => rfl
@[simp] theorem exec_and16 : ∀ d a s, exec (.and16 d a) s = execAnd16 d a s := fun _ _ _ => rfl
@[simp] theorem exec_or16 : ∀ d a s, exec (.or16 d a) s = execOr16 d a s := fun _ _ _ => rfl
@[simp] theorem exec_xor16 : ∀ d a s, exec (.xor16 d a) s = execXor16 d a s := fun _ _ _ => rfl
@[simp] theorem exec_shl16 : ∀ d a s, exec (.shl16 d a) s = execShl16 d a s := fun _ _ _ => rfl
@[simp] theorem exec_shr16 : ∀ d a s, exec (.shr16 d a) s = execShr16 d a s := fun _ _ _ => rfl
@[simp] theorem exec_sha16 : ∀ d a s, exec (.sha16 d a) s = execSha16 d a s := fun _ _ _ => rfl
@[simp] theorem exec_addi16 : ∀ d v s, exec (.addi16 d v) s = execAddi16 d v s := fun _ _ _ => rfl
@[simp] theorem exec_li16 : ∀ d v s, exec (.li16 d v) s = execLi16 d v s := fun _ _ _ => rfl
@[simp] theorem exec_shli16 : ∀ d n s, exec (.shli16 d n) s = execShli16 d n s := fun _ _ _ => rfl
@[simp] theorem exec_shri16 : ∀ d n s, exec (.shri16 d n) s = execShri16 d n s := fun _ _ _ => rfl
@[simp] theorem exec_shai16 : ∀ d n s, exec (.shai16 d n) s = execShai16 d n s := fun _ _ _ => rfl
@[simp] theorem exec_ldw16 : ∀ d a x s, exec (.ldw16 d a x) s = execLdw16 d a x s := fun _ _ _ _ => rfl
@[simp] theorem exec_stw16 : ∀ d a x s, exec (.stw16 d a x) s = execStw16 d a x s := fun _ _ _ _ => rfl
@[simp] theorem exec_ldd16 : ∀ d a x s, exec (.ldd16 d a x) s = execLdd16 d a x s := fun _ _ _ _ => rfl
@[simp] theorem exec_std16 : ∀ d a x s, exec (.std16 d a x) s = execStd16 d a x s := fun _ _ _ _ => rfl
@[simp] theorem exec_beqz : ∀ hi a lo s, exec (.beqz hi a lo) s = execBeqz hi a lo s := fun _ _ _ _ => rfl
@[simp] theorem exec_bnez : ∀ hi a lo s, exec (.bnez hi a lo) s = execBnez hi a lo s := fun _ _ _ _ => rfl
@[simp] theorem exec_jalr16 : ∀ d a n s, exec (.jalr16 d a n) s = execJalr16 d a n s := fun _ _ _ _ => rfl
@[simp] theorem exec_takeInterrupt : ∀ core s, exec (.takeInterrupt core) s = execTakeInterrupt core s := fun _ _ => rfl
@[simp] theorem exec_deferredTrap : ∀ core s, exec (.deferredTrap core) s = execDeferredTrap core s := fun _ _ => rfl
@[simp] theorem exec_timerExpire : ∀ core s, exec (.timerExpire core) s = execTimerExpire core s := fun _ _ => rfl
@[simp] theorem exec_waitaTimeout : ∀ core s, exec (.waitaTimeout core) s = execWaitaTimeout core s := fun _ _ => rfl
@[simp] theorem exec_commitQueuePerform : ∀ core s, exec (.commitQueuePerform core) s = execCommitQueuePerform core s := fun _ _ => rfl
@[simp] theorem exec_regionMoveCommitted : ∀ core s, exec (.regionMoveCommitted core) s = execRegionMoveCommitted core s := fun _ _ => rfl
@[simp] theorem exec_homeArrive : ∀ fwd key s, exec (.homeArrive fwd key) s = execHomeArrive fwd key s := fun _ _ _ => rfl
@[simp] theorem exec_homePerformWrite : ∀ line s, exec (.homePerformWrite line) s = execHomePerformWrite line s := fun _ _ => rfl
@[simp] theorem exec_homeLoad : ∀ core idx s, exec (.homeLoad core idx) s = execHomeLoad core idx s := fun _ _ _ => rfl
@[simp] theorem exec_leaseExpire : ∀ herd line s, exec (.leaseExpire herd line) s = execLeaseExpire herd line s := fun _ _ _ => rfl
@[simp] theorem exec_remoteAccessArrive : ∀ msg s, exec (.remoteAccessArrive msg) s = execRemoteAccessArrive msg s := fun _ _ => rfl
@[simp] theorem exec_bankTake : ∀ msg s, exec (.bankTake msg) s = execBankTake msg s := fun _ _ => rfl
@[simp] theorem exec_bankPeek : ∀ msg s, exec (.bankPeek msg) s = execBankPeek msg s := fun _ _ => rfl
@[simp] theorem exec_bankPut : ∀ msg s, exec (.bankPut msg) s = execBankPut msg s := fun _ _ => rfl
@[simp] theorem exec_bankInit : ∀ msg s, exec (.bankInit msg) s = execBankInit msg s := fun _ _ => rfl
@[simp] theorem exec_bankBinit : ∀ msg s, exec (.bankBinit msg) s = execBankBinit msg s := fun _ _ => rfl
@[simp] theorem exec_bankBarv : ∀ msg s, exec (.bankBarv msg) s = execBankBarv msg s := fun _ _ => rfl
@[simp] theorem exec_bankBexp : ∀ msg s, exec (.bankBexp msg) s = execBankBexp msg s := fun _ _ => rfl
@[simp] theorem exec_bankBwait : ∀ msg s, exec (.bankBwait msg) s = execBankBwait msg s := fun _ _ => rfl
@[simp] theorem exec_bankBinv : ∀ msg s, exec (.bankBinv msg) s = execBankBinv msg s := fun _ _ => rfl
@[simp] theorem exec_barCompletion : ∀ msg s, exec (.barCompletion msg) s = execBarCompletion msg s := fun _ _ => rfl
@[simp] theorem exec_writebackRequest : ∀ herd line s, exec (.writebackRequest herd line) s = execWritebackRequest herd line s := fun _ _ _ => rfl
@[simp] theorem exec_writebackGrant : ∀ herd line s, exec (.writebackGrant herd line) s = execWritebackGrant herd line s := fun _ _ _ => rfl
@[simp] theorem exec_writebackCancel : ∀ herd line s, exec (.writebackCancel herd line) s = execWritebackCancel herd line s := fun _ _ _ => rfl
@[simp] theorem exec_writebackData : ∀ herd line s, exec (.writebackData herd line) s = execWritebackData herd line s := fun _ _ _ => rfl
@[simp] theorem exec_recall : ∀ herd line s, exec (.recall herd line) s = execRecall herd line s := fun _ _ _ => rfl
@[simp] theorem exec_partialSpill : ∀ line s, exec (.partialSpill line) s = execPartialSpill line s := fun _ _ => rfl
@[simp] theorem exec_copyJobDispatch : ∀ core slot s, exec (.copyJobDispatch core slot) s = execCopyJobDispatch core slot s := fun _ _ _ => rfl
@[simp] theorem exec_copyJobComplete : ∀ core slot s, exec (.copyJobComplete core slot) s = execCopyJobComplete core slot s := fun _ _ _ => rfl
@[simp] theorem exec_streamAccept : ∀ core s, exec (.streamAccept core) s = execStreamAccept core s := fun _ _ => rfl
@[simp] theorem exec_streamDeliver : ∀ stream s, exec (.streamDeliver stream) s = execStreamDeliver stream s := fun _ _ => rfl
@[simp] theorem exec_matrixJobStart : ∀ herd s, exec (.matrixJobStart herd) s = execMatrixJobStart herd s := fun _ _ => rfl
@[simp] theorem exec_matrixJobComplete : ∀ herd port s, exec (.matrixJobComplete herd port) s = execMatrixJobComplete herd port s := fun _ _ _ => rfl
@[simp] theorem exec_weightJobStart : ∀ core s, exec (.weightJobStart core) s = execWeightJobStart core s := fun _ _ => rfl
@[simp] theorem exec_weightJobComplete : ∀ core s, exec (.weightJobComplete core) s = execWeightJobComplete core s := fun _ _ => rfl
@[simp] theorem exec_tileUnitDispatch : ∀ quad s, exec (.tileUnitDispatch quad) s = execTileUnitDispatch quad s := fun _ _ => rfl
@[simp] theorem exec_walkerCommandDone : ∀ core idx s, exec (.walkerCommandDone core idx) s = execWalkerCommandDone core idx s := fun _ _ _ => rfl
@[simp] theorem exec_sheetPublish : ∀ pub s, exec (.sheetPublish pub) s = execSheetPublish pub s := fun _ _ => rfl
@[simp] theorem exec_staleMark : ∀ sheet s, exec (.staleMark sheet) s = execStaleMark sheet s := fun _ _ => rfl
@[simp] theorem exec_cellDispatch : ∀ sheet cell s, exec (.cellDispatch sheet cell) s = execCellDispatch sheet cell s := fun _ _ _ => rfl
@[simp] theorem exec_taskComplete : ∀ team s, exec (.taskComplete team) s = execTaskComplete team s := fun _ _ => rfl
@[simp] theorem exec_cellMarkFresh : ∀ sheet cell s, exec (.cellMarkFresh sheet cell) s = execCellMarkFresh sheet cell s := fun _ _ _ => rfl
@[simp] theorem exec_appendPrefixCopy : ∀ sheet cell s, exec (.appendPrefixCopy sheet cell) s = execAppendPrefixCopy sheet cell s := fun _ _ _ => rfl
@[simp] theorem exec_ringTickInterrupt : ∀ ring s, exec (.ringTickInterrupt ring) s = execRingTickInterrupt ring s := fun _ _ => rfl
@[simp] theorem exec_teamPlace : ∀ task die x y w h s, exec (.teamPlace task die x y w h) s = execTeamPlace task die x y w h s := fun _ _ _ _ _ _ _ => rfl
@[simp] theorem exec_teamStart : ∀ team s, exec (.teamStart team) s = execTeamStart team s := fun _ _ => rfl
@[simp] theorem exec_herdStart : ∀ team herd s, exec (.herdStart team herd) s = execHerdStart team herd s := fun _ _ _ => rfl
@[simp] theorem exec_taskAge : ∀ task s, exec (.taskAge task) s = execTaskAge task s := fun _ _ => rfl
@[simp] theorem exec_spatialPreempt : ∀ task die x y w h s, exec (.spatialPreempt task die x y w h) s = execSpatialPreempt task die x y w h s := fun _ _ _ _ _ _ _ => rfl
@[simp] theorem exec_herdsReturn : ∀ team s, exec (.herdsReturn team) s = execHerdsReturn team s := fun _ _ => rfl
@[simp] theorem exec_sliceExpire : ∀ team s, exec (.sliceExpire team) s = execSliceExpire team s := fun _ _ => rfl
@[simp] theorem exec_teamResume : ∀ team s, exec (.teamResume team) s = execTeamResume team s := fun _ _ => rfl
@[simp] theorem exec_teamFinish : ∀ team s, exec (.teamFinish team) s = execTeamFinish team s := fun _ _ => rfl
@[simp] theorem exec_rangeRequest : ∀ core s, exec (.rangeRequest core) s = execRangeRequest core s := fun _ _ => rfl
@[simp] theorem exec_kidComplete : ∀ team s, exec (.kidComplete team) s = execKidComplete team s := fun _ _ => rfl
@[simp] theorem exec_wbarArrive : ∀ core s, exec (.wbarArrive core) s = execWbarArrive core s := fun _ _ => rfl
@[simp] theorem exec_arbiterEvaluate : ∀ s, exec (.arbiterEvaluate) s = execArbiterEvaluate s := fun _ => rfl
@[simp] theorem exec_grantRaiseHerd : ∀ herd s, exec (.grantRaiseHerd herd) s = execGrantRaiseHerd herd s := fun _ _ => rfl
@[simp] theorem exec_suffixRebuildDone : ∀ slot s, exec (.suffixRebuildDone slot) s = execSuffixRebuildDone slot s := fun _ _ => rfl
@[simp] theorem exec_uncorrectableError : ∀ place key addr s, exec (.uncorrectableError place key addr) s = execUncorrectableError place key addr s := fun _ _ _ _ => rfl
@[simp] theorem exec_macroScrub : ∀ core mac s, exec (.macroScrub core mac) s = execMacroScrub core mac s := fun _ _ _ => rfl
@[simp] theorem exec_patrolScrub : ∀ place key addr s, exec (.patrolScrub place key addr) s = execPatrolScrub place key addr s := fun _ _ _ _ => rfl
@[simp] theorem exec_containmentStart : ∀ die x y s, exec (.containmentStart die x y) s = execContainmentStart die x y s := fun _ _ _ _ => rfl
@[simp] theorem exec_containmentFenceLift : ∀ die s, exec (.containmentFenceLift die) s = execContainmentFenceLift die s := fun _ _ => rfl
@[simp] theorem exec_routerFailure : ∀ die x y s, exec (.routerFailure die x y) s = execRouterFailure die x y s := fun _ _ _ _ => rfl
@[simp] theorem exec_transactionCrcFail : ∀ line s, exec (.transactionCrcFail line) s = execTransactionCrcFail line s := fun _ _ => rfl
@[simp] theorem exec_readResponseCrcFail : ∀ core idx s, exec (.readResponseCrcFail core idx) s = execReadResponseCrcFail core idx s := fun _ _ _ => rfl
@[simp] theorem exec_linkFlitError : ∀ die link lane s, exec (.linkFlitError die link lane) s = execLinkFlitError die link lane s := fun _ _ _ _ => rfl
@[simp] theorem exec_remoteTimeout : ∀ core idx s, exec (.remoteTimeout core idx) s = execRemoteTimeout core idx s := fun _ _ _ => rfl
@[simp] theorem exec_hostMemAccess : ∀ write addr size value s, exec (.hostMemAccess write addr size value) s = execHostMemAccess write addr size value s := fun _ _ _ _ _ => rfl
@[simp] theorem exec_spdmRequest : ∀ code param s, exec (.spdmRequest code param) s = execSpdmRequest code param s := fun _ _ _ => rfl
@[simp] theorem exec_powerOn : ∀ s, exec (.powerOn) s = execPowerOn s := fun _ => rfl
@[simp] theorem exec_thermalPoll : ∀ temp power s, exec (.thermalPoll temp power) s = execThermalPoll temp power s := fun _ _ _ => rfl
@[simp] theorem exec_thermalShutdown : ∀ temp s, exec (.thermalShutdown temp) s = execThermalShutdown temp s := fun _ _ => rfl
@[simp] theorem exec_sheetnew : ∀ ch s, exec (.sheetnew ch) s = execSheetnew ch s := fun _ _ => rfl
@[simp] theorem exec_sheetdel : ∀ ch s, exec (.sheetdel ch) s = execSheetdel ch s := fun _ _ => rfl
@[simp] theorem exec_launch : ∀ ch s, exec (.launch ch) s = execLaunch ch s := fun _ _ => rfl
@[simp] theorem exec_teamend : ∀ ch s, exec (.teamend ch) s = execTeamend ch s := fun _ _ => rfl
@[simp] theorem exec_teamstatRead : ∀ ch s, exec (.teamstatRead ch) s = execTeamstatRead ch s := fun _ _ => rfl
@[simp] theorem exec_teamstatWrite : ∀ ch s, exec (.teamstatWrite ch) s = execTeamstatWrite ch s := fun _ _ => rfl
@[simp] theorem exec_shoot : ∀ ch s, exec (.shoot ch) s = execShoot ch s := fun _ _ => rfl
@[simp] theorem exec_faultend : ∀ ch s, exec (.faultend ch) s = execFaultend ch s := fun _ _ => rfl
@[simp] theorem exec_qplace : ∀ ch s, exec (.qplace ch) s = execQplace ch s := fun _ _ => rfl
@[simp] theorem exec_dieregRead : ∀ ch s, exec (.dieregRead ch) s = execDieregRead ch s := fun _ _ => rfl
@[simp] theorem exec_dieregWrite : ∀ ch s, exec (.dieregWrite ch) s = execDieregWrite ch s := fun _ _ => rfl
@[simp] theorem exec_qslice : ∀ ch s, exec (.qslice ch) s = execQslice ch s := fun _ _ => rfl
@[simp] theorem exec_suffixIndexPlace : ∀ ch s, exec (.suffixIndexPlace ch) s = execSuffixIndexPlace ch s := fun _ _ => rfl
@[simp] theorem exec_suffixMailboxPlace : ∀ ch s, exec (.suffixMailboxPlace ch) s = execSuffixMailboxPlace ch s := fun _ _ => rfl
@[simp] theorem exec_suffixRingAssign : ∀ ch s, exec (.suffixRingAssign ch) s = execSuffixRingAssign ch s := fun _ _ => rfl
@[simp] theorem exec_power : ∀ ch s, exec (.power ch) s = execPower ch s := fun _ _ => rfl
@[simp] theorem exec_doorbell : ∀ ch s, exec (.doorbell ch) s = execDoorbell ch s := fun _ _ => rfl
@[simp] theorem exec_wbgroup : ∀ ch s, exec (.wbgroup ch) s = execWbgroup ch s := fun _ _ => rfl
@[simp] theorem exec_boot : ∀ ch s, exec (.boot ch) s = execBoot ch s := fun _ _ => rfl
@[simp] theorem exec_debugStop : ∀ ch s, exec (.debugStop ch) s = execDebugStop ch s := fun _ _ => rfl
@[simp] theorem exec_debugResume : ∀ ch s, exec (.debugResume ch) s = execDebugResume ch s := fun _ _ => rfl
@[simp] theorem exec_debugStep : ∀ ch s, exec (.debugStep ch) s = execDebugStep ch s := fun _ _ => rfl
@[simp] theorem exec_svRetain : ∀ ch s, exec (.svRetain ch) s = execSvRetain ch s := fun _ _ => rfl
@[simp] theorem exec_svUnretain : ∀ ch s, exec (.svUnretain ch) s = execSvUnretain ch s := fun _ _ => rfl
@[simp] theorem exec_peerset : ∀ ch s, exec (.peerset ch) s = execPeerset ch s := fun _ _ => rfl
@[simp] theorem exec_channelSheetCommand : ∀ ch s, exec (.channelSheetCommand ch) s = execChannelSheetCommand ch s := fun _ _ => rfl
@[simp] theorem exec_channelSuffixCommand : ∀ ch s, exec (.channelSuffixCommand ch) s = execChannelSuffixCommand ch s := fun _ _ => rfl
@[simp] theorem exec_commandDone : ∀ ch s, exec (.commandDone ch) s = execCommandDone ch s := fun _ _ => rfl
@[simp] theorem exec_ringConfigWrite : ∀ off value s, exec (.ringConfigWrite off value) s = execRingConfigWrite off value s := fun _ _ _ => rfl
@[simp] theorem exec_queueConsumerWrite : ∀ off value s, exec (.queueConsumerWrite off value) s = execQueueConsumerWrite off value s := fun _ _ _ => rfl
@[simp] theorem exec_registerWrite : ∀ off value s, exec (.registerWrite off value) s = execRegisterWrite off value s := fun _ _ _ => rfl
@[simp] theorem exec_illegalInstruction : ∀ core sub long insn s, exec (.illegalInstruction core sub long insn) s = execIllegalInstruction core sub long insn s := fun _ _ _ _ _ => rfl
@[simp] theorem exec_instructionFetchFault : ∀ core cause addr s, exec (.instructionFetchFault core cause addr) s = execInstructionFetchFault core cause addr s := fun _ _ _ _ => rfl
@[simp] theorem exec_targetAcknowledgement : ∀ core idx answer value s, exec (.targetAcknowledgement core idx answer value) s = execTargetAcknowledgement core idx answer value s := fun _ _ _ _ _ => rfl
@[simp] theorem exec_networkBootFrame : ∀ frame s, exec (.networkBootFrame frame) s = execNetworkBootFrame frame s := fun _ _ => rfl

end Sys2Proof.Machine
end

