-- ==== Sys2Proof/Laws/State.lean ====
section
/-!
SUPPORT. What the updates of State leave of each of its fields: one lemma for each field and update, so that no later proof
unfolds a record update.
-/

namespace Sys2Proof.Machine

/-! ### setCoreAt -/

@[simp] theorem cur_setCoreAt (s : State) (k : Nat) (c : Core) : (setCoreAt s k c).cur = s.cur := rfl
@[simp] theorem agenda_setCoreAt (s : State) (k : Nat) (c : Core) : (setCoreAt s k c).agenda = s.agenda := rfl
@[simp] theorem free_setCoreAt (s : State) (k : Nat) (c : Core) : (setCoreAt s k c).free = s.free := rfl
@[simp] theorem cores_setCoreAt (s : State) (k : Nat) (c : Core) : (setCoreAt s k c).cores = SMap.set s.cores k c := rfl
@[simp] theorem herds_setCoreAt (s : State) (k : Nat) (c : Core) : (setCoreAt s k c).herds = s.herds := rfl
@[simp] theorem quads_setCoreAt (s : State) (k : Nat) (c : Core) : (setCoreAt s k c).quads = s.quads := rfl
@[simp] theorem dies_setCoreAt (s : State) (k : Nat) (c : Core) : (setCoreAt s k c).dies = s.dies := rfl
@[simp] theorem mem_setCoreAt (s : State) (k : Nat) (c : Core) : (setCoreAt s k c).mem = s.mem := rfl
@[simp] theorem homes_setCoreAt (s : State) (k : Nat) (c : Core) : (setCoreAt s k c).homes = s.homes := rfl
@[simp] theorem poison_setCoreAt (s : State) (k : Nat) (c : Core) : (setCoreAt s k c).poison = s.poison := rfl
@[simp] theorem ranges_setCoreAt (s : State) (k : Nat) (c : Core) : (setCoreAt s k c).ranges = s.ranges := rfl
@[simp] theorem streams_setCoreAt (s : State) (k : Nat) (c : Core) : (setCoreAt s k c).streams = s.streams := rfl
@[simp] theorem net_setCoreAt (s : State) (k : Nat) (c : Core) : (setCoreAt s k c).net = s.net := rfl
@[simp] theorem teams_setCoreAt (s : State) (k : Nat) (c : Core) : (setCoreAt s k c).teams = s.teams := rfl
@[simp] theorem nextTeam_setCoreAt (s : State) (k : Nat) (c : Core) : (setCoreAt s k c).nextTeam = s.nextTeam := rfl
@[simp] theorem nextKid_setCoreAt (s : State) (k : Nat) (c : Core) : (setCoreAt s k c).nextKid = s.nextKid := rfl
@[simp] theorem arrivals_setCoreAt (s : State) (k : Nat) (c : Core) : (setCoreAt s k c).arrivals = s.arrivals := rfl
@[simp] theorem sheets_setCoreAt (s : State) (k : Nat) (c : Core) : (setCoreAt s k c).sheets = s.sheets := rfl
@[simp] theorem publishes_setCoreAt (s : State) (k : Nat) (c : Core) : (setCoreAt s k c).publishes = s.publishes := rfl
@[simp] theorem suffix_setCoreAt (s : State) (k : Nat) (c : Core) : (setCoreAt s k c).suffix = s.suffix := rfl
@[simp] theorem rings_setCoreAt (s : State) (k : Nat) (c : Core) : (setCoreAt s k c).rings = s.rings := rfl
@[simp] theorem faulted_setCoreAt (s : State) (k : Nat) (c : Core) : (setCoreAt s k c).faulted = s.faulted := rfl
@[simp] theorem channels_setCoreAt (s : State) (k : Nat) (c : Core) : (setCoreAt s k c).channels = s.channels := rfl
@[simp] theorem slices_setCoreAt (s : State) (k : Nat) (c : Core) : (setCoreAt s k c).slices = s.slices := rfl
@[simp] theorem roots_setCoreAt (s : State) (k : Nat) (c : Core) : (setCoreAt s k c).roots = s.roots := rfl
@[simp] theorem pinRate_setCoreAt (s : State) (k : Nat) (c : Core) : (setCoreAt s k c).pinRate = s.pinRate := rfl
@[simp] theorem peers_setCoreAt (s : State) (k : Nat) (c : Core) : (setCoreAt s k c).peers = s.peers := rfl
@[simp] theorem mgmt_setCoreAt (s : State) (k : Nat) (c : Core) : (setCoreAt s k c).mgmt = s.mgmt := rfl
@[simp] theorem raised_setCoreAt (s : State) (k : Nat) (c : Core) : (setCoreAt s k c).raised = s.raised := rfl
@[simp] theorem fused_setCoreAt (s : State) (k : Nat) (c : Core) : (setCoreAt s k c).fused = s.fused := rfl
@[simp] theorem serial_setCoreAt (s : State) (k : Nat) (c : Core) : (setCoreAt s k c).serial = s.serial := rfl

/-! ### modCoreAt -/

@[simp] theorem cur_modCoreAt (s : State) (k : Nat) (f : Core → Core) : (modCoreAt s k f).cur = s.cur := rfl
@[simp] theorem agenda_modCoreAt (s : State) (k : Nat) (f : Core → Core) : (modCoreAt s k f).agenda = s.agenda := rfl
@[simp] theorem free_modCoreAt (s : State) (k : Nat) (f : Core → Core) : (modCoreAt s k f).free = s.free := rfl
@[simp] theorem cores_modCoreAt (s : State) (k : Nat) (f : Core → Core) : (modCoreAt s k f).cores = SMap.set s.cores k (f (coreAt s k)) := rfl
@[simp] theorem herds_modCoreAt (s : State) (k : Nat) (f : Core → Core) : (modCoreAt s k f).herds = s.herds := rfl
@[simp] theorem quads_modCoreAt (s : State) (k : Nat) (f : Core → Core) : (modCoreAt s k f).quads = s.quads := rfl
@[simp] theorem dies_modCoreAt (s : State) (k : Nat) (f : Core → Core) : (modCoreAt s k f).dies = s.dies := rfl
@[simp] theorem mem_modCoreAt (s : State) (k : Nat) (f : Core → Core) : (modCoreAt s k f).mem = s.mem := rfl
@[simp] theorem homes_modCoreAt (s : State) (k : Nat) (f : Core → Core) : (modCoreAt s k f).homes = s.homes := rfl
@[simp] theorem poison_modCoreAt (s : State) (k : Nat) (f : Core → Core) : (modCoreAt s k f).poison = s.poison := rfl
@[simp] theorem ranges_modCoreAt (s : State) (k : Nat) (f : Core → Core) : (modCoreAt s k f).ranges = s.ranges := rfl
@[simp] theorem streams_modCoreAt (s : State) (k : Nat) (f : Core → Core) : (modCoreAt s k f).streams = s.streams := rfl
@[simp] theorem net_modCoreAt (s : State) (k : Nat) (f : Core → Core) : (modCoreAt s k f).net = s.net := rfl
@[simp] theorem teams_modCoreAt (s : State) (k : Nat) (f : Core → Core) : (modCoreAt s k f).teams = s.teams := rfl
@[simp] theorem nextTeam_modCoreAt (s : State) (k : Nat) (f : Core → Core) : (modCoreAt s k f).nextTeam = s.nextTeam := rfl
@[simp] theorem nextKid_modCoreAt (s : State) (k : Nat) (f : Core → Core) : (modCoreAt s k f).nextKid = s.nextKid := rfl
@[simp] theorem arrivals_modCoreAt (s : State) (k : Nat) (f : Core → Core) : (modCoreAt s k f).arrivals = s.arrivals := rfl
@[simp] theorem sheets_modCoreAt (s : State) (k : Nat) (f : Core → Core) : (modCoreAt s k f).sheets = s.sheets := rfl
@[simp] theorem publishes_modCoreAt (s : State) (k : Nat) (f : Core → Core) : (modCoreAt s k f).publishes = s.publishes := rfl
@[simp] theorem suffix_modCoreAt (s : State) (k : Nat) (f : Core → Core) : (modCoreAt s k f).suffix = s.suffix := rfl
@[simp] theorem rings_modCoreAt (s : State) (k : Nat) (f : Core → Core) : (modCoreAt s k f).rings = s.rings := rfl
@[simp] theorem faulted_modCoreAt (s : State) (k : Nat) (f : Core → Core) : (modCoreAt s k f).faulted = s.faulted := rfl
@[simp] theorem channels_modCoreAt (s : State) (k : Nat) (f : Core → Core) : (modCoreAt s k f).channels = s.channels := rfl
@[simp] theorem slices_modCoreAt (s : State) (k : Nat) (f : Core → Core) : (modCoreAt s k f).slices = s.slices := rfl
@[simp] theorem roots_modCoreAt (s : State) (k : Nat) (f : Core → Core) : (modCoreAt s k f).roots = s.roots := rfl
@[simp] theorem pinRate_modCoreAt (s : State) (k : Nat) (f : Core → Core) : (modCoreAt s k f).pinRate = s.pinRate := rfl
@[simp] theorem peers_modCoreAt (s : State) (k : Nat) (f : Core → Core) : (modCoreAt s k f).peers = s.peers := rfl
@[simp] theorem mgmt_modCoreAt (s : State) (k : Nat) (f : Core → Core) : (modCoreAt s k f).mgmt = s.mgmt := rfl
@[simp] theorem raised_modCoreAt (s : State) (k : Nat) (f : Core → Core) : (modCoreAt s k f).raised = s.raised := rfl
@[simp] theorem fused_modCoreAt (s : State) (k : Nat) (f : Core → Core) : (modCoreAt s k f).fused = s.fused := rfl
@[simp] theorem serial_modCoreAt (s : State) (k : Nat) (f : Core → Core) : (modCoreAt s k f).serial = s.serial := rfl

/-! ### withCore -/

@[simp] theorem free_withCore (s : State) (c : Core) : (s.withCore c).free = s.free := rfl
@[simp] theorem cores_withCore (s : State) (c : Core) : (s.withCore c).cores = SMap.set s.cores s.cur c := rfl
@[simp] theorem herds_withCore (s : State) (c : Core) : (s.withCore c).herds = s.herds := rfl
@[simp] theorem quads_withCore (s : State) (c : Core) : (s.withCore c).quads = s.quads := rfl
@[simp] theorem dies_withCore (s : State) (c : Core) : (s.withCore c).dies = s.dies := rfl
@[simp] theorem homes_withCore (s : State) (c : Core) : (s.withCore c).homes = s.homes := rfl
@[simp] theorem poison_withCore (s : State) (c : Core) : (s.withCore c).poison = s.poison := rfl
@[simp] theorem ranges_withCore (s : State) (c : Core) : (s.withCore c).ranges = s.ranges := rfl
@[simp] theorem streams_withCore (s : State) (c : Core) : (s.withCore c).streams = s.streams := rfl
@[simp] theorem net_withCore (s : State) (c : Core) : (s.withCore c).net = s.net := rfl
@[simp] theorem teams_withCore (s : State) (c : Core) : (s.withCore c).teams = s.teams := rfl
@[simp] theorem nextTeam_withCore (s : State) (c : Core) : (s.withCore c).nextTeam = s.nextTeam := rfl
@[simp] theorem nextKid_withCore (s : State) (c : Core) : (s.withCore c).nextKid = s.nextKid := rfl
@[simp] theorem arrivals_withCore (s : State) (c : Core) : (s.withCore c).arrivals = s.arrivals := rfl
@[simp] theorem sheets_withCore (s : State) (c : Core) : (s.withCore c).sheets = s.sheets := rfl
@[simp] theorem publishes_withCore (s : State) (c : Core) : (s.withCore c).publishes = s.publishes := rfl
@[simp] theorem suffix_withCore (s : State) (c : Core) : (s.withCore c).suffix = s.suffix := rfl
@[simp] theorem rings_withCore (s : State) (c : Core) : (s.withCore c).rings = s.rings := rfl
@[simp] theorem faulted_withCore (s : State) (c : Core) : (s.withCore c).faulted = s.faulted := rfl
@[simp] theorem channels_withCore (s : State) (c : Core) : (s.withCore c).channels = s.channels := rfl
@[simp] theorem slices_withCore (s : State) (c : Core) : (s.withCore c).slices = s.slices := rfl
@[simp] theorem roots_withCore (s : State) (c : Core) : (s.withCore c).roots = s.roots := rfl
@[simp] theorem pinRate_withCore (s : State) (c : Core) : (s.withCore c).pinRate = s.pinRate := rfl
@[simp] theorem peers_withCore (s : State) (c : Core) : (s.withCore c).peers = s.peers := rfl
@[simp] theorem mgmt_withCore (s : State) (c : Core) : (s.withCore c).mgmt = s.mgmt := rfl
@[simp] theorem raised_withCore (s : State) (c : Core) : (s.withCore c).raised = s.raised := rfl
@[simp] theorem fused_withCore (s : State) (c : Core) : (s.withCore c).fused = s.fused := rfl
@[simp] theorem serial_withCore (s : State) (c : Core) : (s.withCore c).serial = s.serial := rfl

/-! ### modHerdAt -/

@[simp] theorem cur_modHerdAt (s : State) (h : Nat) (f : Herd → Herd) : (modHerdAt s h f).cur = s.cur := rfl
@[simp] theorem agenda_modHerdAt (s : State) (h : Nat) (f : Herd → Herd) : (modHerdAt s h f).agenda = s.agenda := rfl
@[simp] theorem free_modHerdAt (s : State) (h : Nat) (f : Herd → Herd) : (modHerdAt s h f).free = s.free := rfl
@[simp] theorem cores_modHerdAt (s : State) (h : Nat) (f : Herd → Herd) : (modHerdAt s h f).cores = s.cores := rfl
@[simp] theorem herds_modHerdAt (s : State) (h : Nat) (f : Herd → Herd) : (modHerdAt s h f).herds = SMap.set s.herds h (f (herdAt s h)) := rfl
@[simp] theorem quads_modHerdAt (s : State) (h : Nat) (f : Herd → Herd) : (modHerdAt s h f).quads = s.quads := rfl
@[simp] theorem dies_modHerdAt (s : State) (h : Nat) (f : Herd → Herd) : (modHerdAt s h f).dies = s.dies := rfl
@[simp] theorem mem_modHerdAt (s : State) (h : Nat) (f : Herd → Herd) : (modHerdAt s h f).mem = s.mem := rfl
@[simp] theorem homes_modHerdAt (s : State) (h : Nat) (f : Herd → Herd) : (modHerdAt s h f).homes = s.homes := rfl
@[simp] theorem poison_modHerdAt (s : State) (h : Nat) (f : Herd → Herd) : (modHerdAt s h f).poison = s.poison := rfl
@[simp] theorem ranges_modHerdAt (s : State) (h : Nat) (f : Herd → Herd) : (modHerdAt s h f).ranges = s.ranges := rfl
@[simp] theorem streams_modHerdAt (s : State) (h : Nat) (f : Herd → Herd) : (modHerdAt s h f).streams = s.streams := rfl
@[simp] theorem net_modHerdAt (s : State) (h : Nat) (f : Herd → Herd) : (modHerdAt s h f).net = s.net := rfl
@[simp] theorem teams_modHerdAt (s : State) (h : Nat) (f : Herd → Herd) : (modHerdAt s h f).teams = s.teams := rfl
@[simp] theorem nextTeam_modHerdAt (s : State) (h : Nat) (f : Herd → Herd) : (modHerdAt s h f).nextTeam = s.nextTeam := rfl
@[simp] theorem nextKid_modHerdAt (s : State) (h : Nat) (f : Herd → Herd) : (modHerdAt s h f).nextKid = s.nextKid := rfl
@[simp] theorem arrivals_modHerdAt (s : State) (h : Nat) (f : Herd → Herd) : (modHerdAt s h f).arrivals = s.arrivals := rfl
@[simp] theorem sheets_modHerdAt (s : State) (h : Nat) (f : Herd → Herd) : (modHerdAt s h f).sheets = s.sheets := rfl
@[simp] theorem publishes_modHerdAt (s : State) (h : Nat) (f : Herd → Herd) : (modHerdAt s h f).publishes = s.publishes := rfl
@[simp] theorem suffix_modHerdAt (s : State) (h : Nat) (f : Herd → Herd) : (modHerdAt s h f).suffix = s.suffix := rfl
@[simp] theorem rings_modHerdAt (s : State) (h : Nat) (f : Herd → Herd) : (modHerdAt s h f).rings = s.rings := rfl
@[simp] theorem faulted_modHerdAt (s : State) (h : Nat) (f : Herd → Herd) : (modHerdAt s h f).faulted = s.faulted := rfl
@[simp] theorem channels_modHerdAt (s : State) (h : Nat) (f : Herd → Herd) : (modHerdAt s h f).channels = s.channels := rfl
@[simp] theorem slices_modHerdAt (s : State) (h : Nat) (f : Herd → Herd) : (modHerdAt s h f).slices = s.slices := rfl
@[simp] theorem roots_modHerdAt (s : State) (h : Nat) (f : Herd → Herd) : (modHerdAt s h f).roots = s.roots := rfl
@[simp] theorem pinRate_modHerdAt (s : State) (h : Nat) (f : Herd → Herd) : (modHerdAt s h f).pinRate = s.pinRate := rfl
@[simp] theorem peers_modHerdAt (s : State) (h : Nat) (f : Herd → Herd) : (modHerdAt s h f).peers = s.peers := rfl
@[simp] theorem mgmt_modHerdAt (s : State) (h : Nat) (f : Herd → Herd) : (modHerdAt s h f).mgmt = s.mgmt := rfl
@[simp] theorem raised_modHerdAt (s : State) (h : Nat) (f : Herd → Herd) : (modHerdAt s h f).raised = s.raised := rfl
@[simp] theorem fused_modHerdAt (s : State) (h : Nat) (f : Herd → Herd) : (modHerdAt s h f).fused = s.fused := rfl
@[simp] theorem serial_modHerdAt (s : State) (h : Nat) (f : Herd → Herd) : (modHerdAt s h f).serial = s.serial := rfl

/-! ### modDieAt -/

@[simp] theorem cur_modDieAt (s : State) (d : Nat) (f : Die → Die) : (modDieAt s d f).cur = s.cur := rfl
@[simp] theorem agenda_modDieAt (s : State) (d : Nat) (f : Die → Die) : (modDieAt s d f).agenda = s.agenda := rfl
@[simp] theorem free_modDieAt (s : State) (d : Nat) (f : Die → Die) : (modDieAt s d f).free = s.free := rfl
@[simp] theorem cores_modDieAt (s : State) (d : Nat) (f : Die → Die) : (modDieAt s d f).cores = s.cores := rfl
@[simp] theorem herds_modDieAt (s : State) (d : Nat) (f : Die → Die) : (modDieAt s d f).herds = s.herds := rfl
@[simp] theorem quads_modDieAt (s : State) (d : Nat) (f : Die → Die) : (modDieAt s d f).quads = s.quads := rfl
@[simp] theorem dies_modDieAt (s : State) (d : Nat) (f : Die → Die) : (modDieAt s d f).dies = vset s.dies d (f (dieAt s d)) := rfl
@[simp] theorem mem_modDieAt (s : State) (d : Nat) (f : Die → Die) : (modDieAt s d f).mem = s.mem := rfl
@[simp] theorem homes_modDieAt (s : State) (d : Nat) (f : Die → Die) : (modDieAt s d f).homes = s.homes := rfl
@[simp] theorem poison_modDieAt (s : State) (d : Nat) (f : Die → Die) : (modDieAt s d f).poison = s.poison := rfl
@[simp] theorem ranges_modDieAt (s : State) (d : Nat) (f : Die → Die) : (modDieAt s d f).ranges = s.ranges := rfl
@[simp] theorem streams_modDieAt (s : State) (d : Nat) (f : Die → Die) : (modDieAt s d f).streams = s.streams := rfl
@[simp] theorem net_modDieAt (s : State) (d : Nat) (f : Die → Die) : (modDieAt s d f).net = s.net := rfl
@[simp] theorem teams_modDieAt (s : State) (d : Nat) (f : Die → Die) : (modDieAt s d f).teams = s.teams := rfl
@[simp] theorem nextTeam_modDieAt (s : State) (d : Nat) (f : Die → Die) : (modDieAt s d f).nextTeam = s.nextTeam := rfl
@[simp] theorem nextKid_modDieAt (s : State) (d : Nat) (f : Die → Die) : (modDieAt s d f).nextKid = s.nextKid := rfl
@[simp] theorem arrivals_modDieAt (s : State) (d : Nat) (f : Die → Die) : (modDieAt s d f).arrivals = s.arrivals := rfl
@[simp] theorem sheets_modDieAt (s : State) (d : Nat) (f : Die → Die) : (modDieAt s d f).sheets = s.sheets := rfl
@[simp] theorem publishes_modDieAt (s : State) (d : Nat) (f : Die → Die) : (modDieAt s d f).publishes = s.publishes := rfl
@[simp] theorem suffix_modDieAt (s : State) (d : Nat) (f : Die → Die) : (modDieAt s d f).suffix = s.suffix := rfl
@[simp] theorem rings_modDieAt (s : State) (d : Nat) (f : Die → Die) : (modDieAt s d f).rings = s.rings := rfl
@[simp] theorem faulted_modDieAt (s : State) (d : Nat) (f : Die → Die) : (modDieAt s d f).faulted = s.faulted := rfl
@[simp] theorem channels_modDieAt (s : State) (d : Nat) (f : Die → Die) : (modDieAt s d f).channels = s.channels := rfl
@[simp] theorem slices_modDieAt (s : State) (d : Nat) (f : Die → Die) : (modDieAt s d f).slices = s.slices := rfl
@[simp] theorem roots_modDieAt (s : State) (d : Nat) (f : Die → Die) : (modDieAt s d f).roots = s.roots := rfl
@[simp] theorem pinRate_modDieAt (s : State) (d : Nat) (f : Die → Die) : (modDieAt s d f).pinRate = s.pinRate := rfl
@[simp] theorem peers_modDieAt (s : State) (d : Nat) (f : Die → Die) : (modDieAt s d f).peers = s.peers := rfl
@[simp] theorem mgmt_modDieAt (s : State) (d : Nat) (f : Die → Die) : (modDieAt s d f).mgmt = s.mgmt := rfl
@[simp] theorem raised_modDieAt (s : State) (d : Nat) (f : Die → Die) : (modDieAt s d f).raised = s.raised := rfl
@[simp] theorem fused_modDieAt (s : State) (d : Nat) (f : Die → Die) : (modDieAt s d f).fused = s.fused := rfl
@[simp] theorem serial_modDieAt (s : State) (d : Nat) (f : Die → Die) : (modDieAt s d f).serial = s.serial := rfl

/-! ### modHomeAt -/

@[simp] theorem cur_modHomeAt (s : State) (l : Nat) (f : Home → Home) : (modHomeAt s l f).cur = s.cur := rfl
@[simp] theorem agenda_modHomeAt (s : State) (l : Nat) (f : Home → Home) : (modHomeAt s l f).agenda = s.agenda := rfl
@[simp] theorem free_modHomeAt (s : State) (l : Nat) (f : Home → Home) : (modHomeAt s l f).free = s.free := rfl
@[simp] theorem cores_modHomeAt (s : State) (l : Nat) (f : Home → Home) : (modHomeAt s l f).cores = s.cores := rfl
@[simp] theorem herds_modHomeAt (s : State) (l : Nat) (f : Home → Home) : (modHomeAt s l f).herds = s.herds := rfl
@[simp] theorem quads_modHomeAt (s : State) (l : Nat) (f : Home → Home) : (modHomeAt s l f).quads = s.quads := rfl
@[simp] theorem dies_modHomeAt (s : State) (l : Nat) (f : Home → Home) : (modHomeAt s l f).dies = s.dies := rfl
@[simp] theorem mem_modHomeAt (s : State) (l : Nat) (f : Home → Home) : (modHomeAt s l f).mem = s.mem := rfl
@[simp] theorem homes_modHomeAt (s : State) (l : Nat) (f : Home → Home) : (modHomeAt s l f).homes = SMap.set s.homes l (f (homeAt s l)) := rfl
@[simp] theorem poison_modHomeAt (s : State) (l : Nat) (f : Home → Home) : (modHomeAt s l f).poison = s.poison := rfl
@[simp] theorem ranges_modHomeAt (s : State) (l : Nat) (f : Home → Home) : (modHomeAt s l f).ranges = s.ranges := rfl
@[simp] theorem streams_modHomeAt (s : State) (l : Nat) (f : Home → Home) : (modHomeAt s l f).streams = s.streams := rfl
@[simp] theorem net_modHomeAt (s : State) (l : Nat) (f : Home → Home) : (modHomeAt s l f).net = s.net := rfl
@[simp] theorem teams_modHomeAt (s : State) (l : Nat) (f : Home → Home) : (modHomeAt s l f).teams = s.teams := rfl
@[simp] theorem nextTeam_modHomeAt (s : State) (l : Nat) (f : Home → Home) : (modHomeAt s l f).nextTeam = s.nextTeam := rfl
@[simp] theorem nextKid_modHomeAt (s : State) (l : Nat) (f : Home → Home) : (modHomeAt s l f).nextKid = s.nextKid := rfl
@[simp] theorem arrivals_modHomeAt (s : State) (l : Nat) (f : Home → Home) : (modHomeAt s l f).arrivals = s.arrivals := rfl
@[simp] theorem sheets_modHomeAt (s : State) (l : Nat) (f : Home → Home) : (modHomeAt s l f).sheets = s.sheets := rfl
@[simp] theorem publishes_modHomeAt (s : State) (l : Nat) (f : Home → Home) : (modHomeAt s l f).publishes = s.publishes := rfl
@[simp] theorem suffix_modHomeAt (s : State) (l : Nat) (f : Home → Home) : (modHomeAt s l f).suffix = s.suffix := rfl
@[simp] theorem rings_modHomeAt (s : State) (l : Nat) (f : Home → Home) : (modHomeAt s l f).rings = s.rings := rfl
@[simp] theorem faulted_modHomeAt (s : State) (l : Nat) (f : Home → Home) : (modHomeAt s l f).faulted = s.faulted := rfl
@[simp] theorem channels_modHomeAt (s : State) (l : Nat) (f : Home → Home) : (modHomeAt s l f).channels = s.channels := rfl
@[simp] theorem slices_modHomeAt (s : State) (l : Nat) (f : Home → Home) : (modHomeAt s l f).slices = s.slices := rfl
@[simp] theorem roots_modHomeAt (s : State) (l : Nat) (f : Home → Home) : (modHomeAt s l f).roots = s.roots := rfl
@[simp] theorem pinRate_modHomeAt (s : State) (l : Nat) (f : Home → Home) : (modHomeAt s l f).pinRate = s.pinRate := rfl
@[simp] theorem peers_modHomeAt (s : State) (l : Nat) (f : Home → Home) : (modHomeAt s l f).peers = s.peers := rfl
@[simp] theorem mgmt_modHomeAt (s : State) (l : Nat) (f : Home → Home) : (modHomeAt s l f).mgmt = s.mgmt := rfl
@[simp] theorem raised_modHomeAt (s : State) (l : Nat) (f : Home → Home) : (modHomeAt s l f).raised = s.raised := rfl
@[simp] theorem fused_modHomeAt (s : State) (l : Nat) (f : Home → Home) : (modHomeAt s l f).fused = s.fused := rfl
@[simp] theorem serial_modHomeAt (s : State) (l : Nat) (f : Home → Home) : (modHomeAt s l f).serial = s.serial := rfl

/-! ### setMemByte -/

@[simp] theorem cur_setMemByte (s : State) (a : Nat) (b : Byte) : (setMemByte s a b).cur = s.cur := rfl
@[simp] theorem agenda_setMemByte (s : State) (a : Nat) (b : Byte) : (setMemByte s a b).agenda = s.agenda := rfl
@[simp] theorem free_setMemByte (s : State) (a : Nat) (b : Byte) : (setMemByte s a b).free = s.free := rfl
@[simp] theorem cores_setMemByte (s : State) (a : Nat) (b : Byte) : (setMemByte s a b).cores = s.cores := rfl
@[simp] theorem herds_setMemByte (s : State) (a : Nat) (b : Byte) : (setMemByte s a b).herds = s.herds := rfl
@[simp] theorem quads_setMemByte (s : State) (a : Nat) (b : Byte) : (setMemByte s a b).quads = s.quads := rfl
@[simp] theorem dies_setMemByte (s : State) (a : Nat) (b : Byte) : (setMemByte s a b).dies = s.dies := rfl
@[simp] theorem mem_setMemByte (s : State) (a : Nat) (b : Byte) : (setMemByte s a b).mem = SMap.put s.mem 0 a b := rfl
@[simp] theorem homes_setMemByte (s : State) (a : Nat) (b : Byte) : (setMemByte s a b).homes = s.homes := rfl
@[simp] theorem poison_setMemByte (s : State) (a : Nat) (b : Byte) : (setMemByte s a b).poison = s.poison := rfl
@[simp] theorem ranges_setMemByte (s : State) (a : Nat) (b : Byte) : (setMemByte s a b).ranges = s.ranges := rfl
@[simp] theorem streams_setMemByte (s : State) (a : Nat) (b : Byte) : (setMemByte s a b).streams = s.streams := rfl
@[simp] theorem net_setMemByte (s : State) (a : Nat) (b : Byte) : (setMemByte s a b).net = s.net := rfl
@[simp] theorem teams_setMemByte (s : State) (a : Nat) (b : Byte) : (setMemByte s a b).teams = s.teams := rfl
@[simp] theorem nextTeam_setMemByte (s : State) (a : Nat) (b : Byte) : (setMemByte s a b).nextTeam = s.nextTeam := rfl
@[simp] theorem nextKid_setMemByte (s : State) (a : Nat) (b : Byte) : (setMemByte s a b).nextKid = s.nextKid := rfl
@[simp] theorem arrivals_setMemByte (s : State) (a : Nat) (b : Byte) : (setMemByte s a b).arrivals = s.arrivals := rfl
@[simp] theorem sheets_setMemByte (s : State) (a : Nat) (b : Byte) : (setMemByte s a b).sheets = s.sheets := rfl
@[simp] theorem publishes_setMemByte (s : State) (a : Nat) (b : Byte) : (setMemByte s a b).publishes = s.publishes := rfl
@[simp] theorem suffix_setMemByte (s : State) (a : Nat) (b : Byte) : (setMemByte s a b).suffix = s.suffix := rfl
@[simp] theorem rings_setMemByte (s : State) (a : Nat) (b : Byte) : (setMemByte s a b).rings = s.rings := rfl
@[simp] theorem faulted_setMemByte (s : State) (a : Nat) (b : Byte) : (setMemByte s a b).faulted = s.faulted := rfl
@[simp] theorem channels_setMemByte (s : State) (a : Nat) (b : Byte) : (setMemByte s a b).channels = s.channels := rfl
@[simp] theorem slices_setMemByte (s : State) (a : Nat) (b : Byte) : (setMemByte s a b).slices = s.slices := rfl
@[simp] theorem roots_setMemByte (s : State) (a : Nat) (b : Byte) : (setMemByte s a b).roots = s.roots := rfl
@[simp] theorem pinRate_setMemByte (s : State) (a : Nat) (b : Byte) : (setMemByte s a b).pinRate = s.pinRate := rfl
@[simp] theorem peers_setMemByte (s : State) (a : Nat) (b : Byte) : (setMemByte s a b).peers = s.peers := rfl
@[simp] theorem mgmt_setMemByte (s : State) (a : Nat) (b : Byte) : (setMemByte s a b).mgmt = s.mgmt := rfl
@[simp] theorem raised_setMemByte (s : State) (a : Nat) (b : Byte) : (setMemByte s a b).raised = s.raised := rfl
@[simp] theorem fused_setMemByte (s : State) (a : Nat) (b : Byte) : (setMemByte s a b).fused = s.fused := rfl
@[simp] theorem serial_setMemByte (s : State) (a : Nat) (b : Byte) : (setMemByte s a b).serial = s.serial := rfl

/-! ### modTeamAt -/

@[simp] theorem cur_modTeamAt (s : State) (t : Nat) (f : Team → Team) : (modTeamAt s t f).cur = s.cur := by unfold modTeamAt; split <;> rfl
@[simp] theorem agenda_modTeamAt (s : State) (t : Nat) (f : Team → Team) : (modTeamAt s t f).agenda = s.agenda := by unfold modTeamAt; split <;> rfl
@[simp] theorem free_modTeamAt (s : State) (t : Nat) (f : Team → Team) : (modTeamAt s t f).free = s.free := by unfold modTeamAt; split <;> rfl
@[simp] theorem cores_modTeamAt (s : State) (t : Nat) (f : Team → Team) : (modTeamAt s t f).cores = s.cores := by unfold modTeamAt; split <;> rfl
@[simp] theorem herds_modTeamAt (s : State) (t : Nat) (f : Team → Team) : (modTeamAt s t f).herds = s.herds := by unfold modTeamAt; split <;> rfl
@[simp] theorem quads_modTeamAt (s : State) (t : Nat) (f : Team → Team) : (modTeamAt s t f).quads = s.quads := by unfold modTeamAt; split <;> rfl
@[simp] theorem dies_modTeamAt (s : State) (t : Nat) (f : Team → Team) : (modTeamAt s t f).dies = s.dies := by unfold modTeamAt; split <;> rfl
@[simp] theorem mem_modTeamAt (s : State) (t : Nat) (f : Team → Team) : (modTeamAt s t f).mem = s.mem := by unfold modTeamAt; split <;> rfl
@[simp] theorem homes_modTeamAt (s : State) (t : Nat) (f : Team → Team) : (modTeamAt s t f).homes = s.homes := by unfold modTeamAt; split <;> rfl
@[simp] theorem poison_modTeamAt (s : State) (t : Nat) (f : Team → Team) : (modTeamAt s t f).poison = s.poison := by unfold modTeamAt; split <;> rfl
@[simp] theorem ranges_modTeamAt (s : State) (t : Nat) (f : Team → Team) : (modTeamAt s t f).ranges = s.ranges := by unfold modTeamAt; split <;> rfl
@[simp] theorem streams_modTeamAt (s : State) (t : Nat) (f : Team → Team) : (modTeamAt s t f).streams = s.streams := by unfold modTeamAt; split <;> rfl
@[simp] theorem net_modTeamAt (s : State) (t : Nat) (f : Team → Team) : (modTeamAt s t f).net = s.net := by unfold modTeamAt; split <;> rfl
@[simp] theorem nextTeam_modTeamAt (s : State) (t : Nat) (f : Team → Team) : (modTeamAt s t f).nextTeam = s.nextTeam := by unfold modTeamAt; split <;> rfl
@[simp] theorem nextKid_modTeamAt (s : State) (t : Nat) (f : Team → Team) : (modTeamAt s t f).nextKid = s.nextKid := by unfold modTeamAt; split <;> rfl
@[simp] theorem arrivals_modTeamAt (s : State) (t : Nat) (f : Team → Team) : (modTeamAt s t f).arrivals = s.arrivals := by unfold modTeamAt; split <;> rfl
@[simp] theorem sheets_modTeamAt (s : State) (t : Nat) (f : Team → Team) : (modTeamAt s t f).sheets = s.sheets := by unfold modTeamAt; split <;> rfl
@[simp] theorem publishes_modTeamAt (s : State) (t : Nat) (f : Team → Team) : (modTeamAt s t f).publishes = s.publishes := by unfold modTeamAt; split <;> rfl
@[simp] theorem suffix_modTeamAt (s : State) (t : Nat) (f : Team → Team) : (modTeamAt s t f).suffix = s.suffix := by unfold modTeamAt; split <;> rfl
@[simp] theorem rings_modTeamAt (s : State) (t : Nat) (f : Team → Team) : (modTeamAt s t f).rings = s.rings := by unfold modTeamAt; split <;> rfl
@[simp] theorem faulted_modTeamAt (s : State) (t : Nat) (f : Team → Team) : (modTeamAt s t f).faulted = s.faulted := by unfold modTeamAt; split <;> rfl
@[simp] theorem channels_modTeamAt (s : State) (t : Nat) (f : Team → Team) : (modTeamAt s t f).channels = s.channels := by unfold modTeamAt; split <;> rfl
@[simp] theorem slices_modTeamAt (s : State) (t : Nat) (f : Team → Team) : (modTeamAt s t f).slices = s.slices := by unfold modTeamAt; split <;> rfl
@[simp] theorem roots_modTeamAt (s : State) (t : Nat) (f : Team → Team) : (modTeamAt s t f).roots = s.roots := by unfold modTeamAt; split <;> rfl
@[simp] theorem pinRate_modTeamAt (s : State) (t : Nat) (f : Team → Team) : (modTeamAt s t f).pinRate = s.pinRate := by unfold modTeamAt; split <;> rfl
@[simp] theorem peers_modTeamAt (s : State) (t : Nat) (f : Team → Team) : (modTeamAt s t f).peers = s.peers := by unfold modTeamAt; split <;> rfl
@[simp] theorem mgmt_modTeamAt (s : State) (t : Nat) (f : Team → Team) : (modTeamAt s t f).mgmt = s.mgmt := by unfold modTeamAt; split <;> rfl
@[simp] theorem raised_modTeamAt (s : State) (t : Nat) (f : Team → Team) : (modTeamAt s t f).raised = s.raised := by unfold modTeamAt; split <;> rfl
@[simp] theorem fused_modTeamAt (s : State) (t : Nat) (f : Team → Team) : (modTeamAt s t f).fused = s.fused := by unfold modTeamAt; split <;> rfl
@[simp] theorem serial_modTeamAt (s : State) (t : Nat) (f : Team → Team) : (modTeamAt s t f).serial = s.serial := by unfold modTeamAt; split <;> rfl

/-! ### Reads of what an update leaves -/

@[simp] theorem memByte_withCore (s : State) (c : Core) (a : Nat) : memByte (s.withCore c) a = memByte s a := rfl
@[simp] theorem memByte_modCoreAt (s : State) (k : Nat) (f : Core → Core) (a : Nat) : memByte (modCoreAt s k f) a = memByte s a := rfl
@[simp] theorem memByte_modHomeAt (s : State) (l : Nat) (f : Home → Home) (a : Nat) : memByte (modHomeAt s l f) a = memByte s a := rfl
@[simp] theorem memByte_modHerdAt (s : State) (h : Nat) (f : Herd → Herd) (a : Nat) : memByte (modHerdAt s h f) a = memByte s a := rfl
@[simp] theorem memByte_modDieAt (s : State) (d : Nat) (f : Die → Die) (a : Nat) : memByte (modDieAt s d f) a = memByte s a := rfl
@[simp] theorem coreAt_setMemByte (s : State) (a : Nat) (b : Byte) (k : Nat) : coreAt (setMemByte s a b) k = coreAt s k := rfl
@[simp] theorem coreAt_modHomeAt (s : State) (l : Nat) (f : Home → Home) (k : Nat) : coreAt (modHomeAt s l f) k = coreAt s k := rfl
@[simp] theorem coreAt_modHerdAt (s : State) (h : Nat) (f : Herd → Herd) (k : Nat) : coreAt (modHerdAt s h f) k = coreAt s k := rfl
@[simp] theorem coreAt_modDieAt (s : State) (d : Nat) (f : Die → Die) (k : Nat) : coreAt (modDieAt s d f) k = coreAt s k := rfl
@[simp] theorem coreAt_modTeamAt (s : State) (t : Nat) (f : Team → Team) (k : Nat) : coreAt (modTeamAt s t f) k = coreAt s k := by
  simp [coreAt]
@[simp] theorem coreAt_modCoreAt_same (s : State) (k : Nat) (f : Core → Core) : coreAt (modCoreAt s k f) k = f (coreAt s k) := by
  simp [modCoreAt]
theorem coreAt_modCoreAt_other (s : State) (k j : Nat) (f : Core → Core) (h : j ≠ k) : coreAt (modCoreAt s k f) j = coreAt s j := by
  simp [modCoreAt, coreAt_setCoreAt_other _ _ _ _ h]
@[simp] theorem homeAt_modHomeAt_same (s : State) (l : Nat) (f : Home → Home) : homeAt (modHomeAt s l f) l = f (homeAt s l) := by
  simp [homeAt]
theorem homeAt_modHomeAt_other (s : State) (l m : Nat) (f : Home → Home) (h : m ≠ l) : homeAt (modHomeAt s l f) m = homeAt s m := by
  simp [homeAt, SMap.getD_set_other _ _ _ _ _ h]

end Sys2Proof.Machine
end

