-- ==== Sys2Proof/Laws/Memory.lean ====
section
/-!
SUPPORT. The laws of memory: a byte read after a write, and that every memory operation keeps the canonical form.
-/

namespace Sys2Proof.Machine

/-- Memory after reset is in its canonical form. -/
theorem memory_wf_reset : Memory.wf State.reset.mem = true := rfl

/-- A canonical memory lists its addresses in rising order. -/
theorem Memory.sorted_of_wf (m : List Host.Cell) (h : Memory.wf m = true) : SMap.sorted m = true := by
  simp only [Memory.wf, SMap.wf, Bool.and_eq_true] at h
  exact h.1

theorem setMemByte_wf (s : State) (a : Nat) (b : Byte) (h : Memory.wf s.mem = true) : Memory.wf (setMemByte s a b).mem = true :=
  SMap.wf_put s.mem 0 a b h

/-- A byte read where one has been written is that byte. -/
theorem memByte_setMemByte_same (s : State) (a : Nat) (b : Byte) (h : Memory.wf s.mem = true) : memByte (setMemByte s a b) a = b :=
  SMap.getD_put_same s.mem 0 a b (Memory.sorted_of_wf _ h)

/-- A write leaves every other byte. -/
theorem memByte_setMemByte_other (s : State) (a x : Nat) (b : Byte) (h : x ≠ a) : memByte (setMemByte s a b) x = memByte s x :=
  SMap.getD_put_other s.mem 0 a x b h

/-- Steps that each keep the canonical form keep it together. -/
theorem foldl_wf {α : Type} (l : List α) (f : State → α → State) (s : State) (h : Memory.wf s.mem = true)
    (hf : ∀ z x, Memory.wf z.mem = true → Memory.wf (f z x).mem = true) : Memory.wf (l.foldl f s).mem = true := by
  induction l generalizing s with
  | nil => exact h
  | cons x l ih => exact ih (f s x) (hf s x h)

theorem setMemNat_wf (s : State) (a n v : Nat) (h : Memory.wf s.mem = true) : Memory.wf (setMemNat s a n v).mem = true :=
  foldl_wf _ _ s h (fun z i hz => setMemByte_wf z (a + i) _ hz)

/-- Bytes outside a number that is written are as before. -/
theorem memByte_setMemNat_other (s : State) (a n v x : Nat) (h : x < a ∨ a + n ≤ x) : memByte (setMemNat s a n v) x = memByte s x := by
  have key : ∀ (l : List Nat) (z : State), (∀ i ∈ l, i < n) →
      memByte (l.foldl (fun s i => setMemByte s (a + i) (BitVec.ofNat 8 (v / 256 ^ i))) z) x = memByte z x := by
    intro l
    induction l with
    | nil => intro z _; rfl
    | cons i l ih =>
      intro z hl
      have hi : i < n := hl i (List.mem_cons_self ..)
      rw [List.foldl_cons, ih _ (fun j hj => hl j (List.mem_cons_of_mem _ hj)), memByte_setMemByte_other _ _ _ _ (by omega)]
  exact key _ s (fun i hi => List.mem_range.mp hi)

theorem setPlaceByte_wf (s : State) (p : Place) (i : Nat) (b : Byte) (h : Memory.wf s.mem = true) :
    Memory.wf (setPlaceByte s p i b).mem = true := by
  unfold setPlaceByte
  split
  · exact setMemByte_wf s _ b h
  · exact h
  · exact h
  · exact h

theorem setPlaceBytes_wf (s : State) (p : Place) (bs : SMap Byte) (h : Memory.wf s.mem = true) :
    Memory.wf (setPlaceBytes s p bs).mem = true :=
  foldl_wf _ _ s h (fun z b hz => setPlaceByte_wf z p b.1 b.2 hz)

theorem cleanPlace_mem (s : State) (p : Place) (n : Nat) : (cleanPlace s p n).mem = s.mem := by
  unfold cleanPlace
  split
  · split <;> rfl
  all_goals rfl

theorem cleanBytes_mem (s : State) (p : Place) (bs : SMap Byte) : (cleanBytes s p bs).mem = s.mem := by
  unfold cleanBytes
  generalize byteRuns bs = l
  induction l generalizing s with
  | nil => rfl
  | cons r l ih => rw [List.foldl_cons, ih, cleanPlace_mem]

/-- Writes at a place leave device memory where the place is no memory. -/
theorem setPlaceByte_mem (s : State) (p : Place) (i : Nat) (b : Byte) (h : p.space ≠ .mem) : (setPlaceByte s p i b).mem = s.mem := by
  unfold setPlaceByte
  split
  · contradiction
  all_goals rfl

theorem mirrorTwin_mem (s : State) (src : Nat) (p : Place) (once clean : Bool) (offs : List Nat) :
    (mirrorTwin s src p once clean offs).mem = s.mem := by
  unfold mirrorTwin
  dsimp only
  split
  next q _ =>
    split
    next => rfl
    next hm =>
      have hp : ({ p with key := q } : Place).space ≠ .mem := fun h => hm (Or.inl h)
      have key : ∀ (l : List Nat) (z : State),
          (l.foldl (fun s i => setPlaceByte s { p with key := q } i (placeByte s p i)) z).mem = z.mem := by
        intro l
        induction l with
        | nil => intro z; rfl
        | cons i l ih => intro z; rw [List.foldl_cons, ih, setPlaceByte_mem _ _ _ _ hp]
      rw [key]
      split
      · rw [cleanBytes_mem]
      · rfl
  next => rfl

theorem poisonPlace_mem (s : State) (p : Place) (n unit : Nat) : (poisonPlace s p n unit).mem = s.mem := by
  unfold poisonPlace
  split <;> rfl

theorem noteWrite_mem (s : State) (k : Nat) : (noteWrite s k).mem = s.mem := by
  unfold noteWrite
  split
  · dsimp only
    split <;> rfl
  · rfl

theorem noteBank_mem (s : State) (p : Place) : (noteBank s p).mem = s.mem := by
  unfold noteBank
  dsimp only
  split
  · split <;> simp [noteWrite_mem]
  · rfl

theorem crcOver_mem (s : State) (line : Nat) : (crcOver s line).mem = s.mem := by
  unfold crcOver
  split <;> rfl

/-- A transaction that arrives at a home has its effect on memory, or none. -/
theorem arriveHome_mem (s : State) (line : Nat) (effect : State → State) :
    (arriveHome s line effect).mem = s.mem ∨ ∃ t, t.mem = s.mem ∧ arriveHome s line effect = effect t := by
  unfold arriveHome
  split
  · exact .inl (by rw [crcOver_mem, poisonPlace_mem])
  · exact .inr ⟨_, crcOver_mem s line, rfl⟩

theorem recallHerd_mem (s : State) (h line : Nat) : (recallHerd s h line).mem = s.mem := by
  unfold recallHerd
  dsimp only
  split
  · simp
  · obtain e | ⟨t, ht, e⟩ := arriveHome_mem (modHomeAt (modHerdAt s h _) line _) line _
    · rw [e]; simp
    · rw [e]; simp [ht]

theorem combineLine_wf (s : State) (line : Nat) (h : Memory.wf s.mem = true) : Memory.wf (combineLine s line).mem = true := by
  unfold combineLine
  split
  · exact h
  · have h1 : Memory.wf ((homeAt s line).holders.foldl (fun s g => recallHerd s g line) s).mem = true :=
      foldl_wf _ _ s h (fun z g hz => by rw [recallHerd_mem]; exact hz)
    dsimp only
    split
    · exact h1
    · rw [mem_modHomeAt]
      split
      · rw [poisonPlace_mem]
        exact foldl_wf _ _ _ h1 (fun z i hz => setMemNat_wf z _ _ _ hz)
      · exact foldl_wf _ _ _ h1 (fun z i hz => setMemNat_wf z _ _ _ hz)

theorem combineBytes_wf (s : State) (a n : Nat) (h : Memory.wf s.mem = true) : Memory.wf (combineBytes s a n).mem = true := by
  unfold combineBytes
  split
  · exact h
  · exact foldl_wf _ _ s h (fun z i hz => combineLine_wf z _ hz)

/-- Whatever performs at a place keeps the canonical form of memory. -/
theorem performAt_wf (s : State) (src : Nat) (p : Place) (a : Action) (h : Memory.wf s.mem = true) :
    Memory.wf (performAt s src p a).1.mem = true := by
  have hc : Memory.wf (if p.space == .mem then combineBytes s p.addr a.size else s).mem = true := by
    split
    · exact combineBytes_wf s _ _ h
    · exact h
  unfold performAt
  dsimp only
  generalize (if p.space == .mem then combineBytes s p.addr a.size else s) = z at hc ⊢
  split
  · exact h
  · cases a
    case store bs =>
      dsimp only
      rw [noteBank_mem, mirrorTwin_mem, cleanBytes_mem]
      exact setPlaceBytes_wf z p _ hc
    case amo op w32 b e reply =>
      dsimp only
      split
      · exact hc
      · rw [noteBank_mem, mirrorTwin_mem]
        exact setPlaceBytes_wf z p _ hc
    case red op w32 b c =>
      dsimp only
      split
      · exact foldl_wf _ _ z hc (fun y i hy => setMemNat_wf y _ _ _ hy)
      · rw [noteBank_mem, mirrorTwin_mem]
        exact setPlaceBytes_wf z p _ hc
    all_goals exact hc

theorem setRing_mem (s : State) (n : Nat) (r : Ring) : (setRing s n r).mem = s.mem := by
  unfold setRing
  split
  · rfl
  · split
    · rfl
    · split <;> rfl

theorem raiseRing_mem (s : State) (n : Nat) : (raiseRing s n).mem = s.mem := by
  unfold raiseRing
  dsimp only
  rw [setRing_mem]

theorem ringAdvance_mem (s : State) (n : Nat) : (ringAdvance s n).mem = s.mem := by
  unfold ringAdvance
  dsimp only
  split
  · rw [raiseRing_mem, setRing_mem]
  · rw [setRing_mem]

theorem ringWrite_wf (s : State) (n rec : Nat) (h : Memory.wf s.mem = true) : Memory.wf (ringWrite s n rec).mem = true := by
  unfold ringWrite
  dsimp only
  split
  · rw [ringAdvance_mem]; exact performAt_wf s _ _ _ h
  · rw [mem_modHomeAt, setRing_mem]; exact h

theorem ringSend_wf (s : State) (n rec : Nat) (h : Memory.wf s.mem = true) : Memory.wf (ringSend s n rec).mem = true := by
  unfold ringSend
  dsimp only
  split
  · rw [setRing_mem]; exact h
  · exact ringWrite_wf s n rec h

theorem ringPost_wf (s : State) (n rec : Nat) (h : Memory.wf s.mem = true) : Memory.wf (ringPost s n rec).mem = true := by
  unfold ringPost
  refine ringSend_wf _ n rec ?_
  split
  · rw [setRing_mem]; exact h
  · exact h

end Sys2Proof.Machine
end

