-- ==== Sys2Proof/Laws/PerInstr.lean ====
section
/-!
SUPPORT. For every instruction: its bytes decode to it, with every operand at every value that is well-formed (R160 to R184).
-/

namespace Sys2Proof.Laws.RoundTrip

/-- The bytes of the instruction, where it is well-formed and has any, decode to it. -/
def Statement (i : Instr) : Prop := i.wf = true → i.size ≠ 0 → decodeBytes (encodeBytes i) = .ok i

theorem fld_eq {n : Nat} (w lo : Nat) (x : BitVec n) (h : w / 2 ^ lo % 2 ^ n = x.toNat) : (fld w lo : BitVec n) = x := by
  apply BitVec.eq_of_toNat_eq
  simp [fld, BitVec.toNat_ofNat, h]

theorem form_ok {w : Nat} {z : List (Nat × Nat)} {i : Instr} (hz : z.all (fun p => bits w p.1 p.2 == 0) = true) (h : i.wf = true) :
    form w z i = .ok i := by
  have : i.problem = none := by simpa [Instr.wf] using h
  unfold form
  rw [if_pos hz, this]

theorem formIf_ok {w : Nat} {z : List (Nat × Nat)} {b : Bool} {i : Instr} (hz : z.all (fun p => bits w p.1 p.2 == 0) = true)
    (hb : b = true) (h : i.wf = true) : formIf w z b i = .ok i := by
  unfold formIf
  rw [form_ok hz h, hb]
  rfl

/-- A 32-bit word laid out in memory is read back (R160). -/
theorem decode_bytes32 (w : Nat) (h1 : 2 ^ 31 ≤ w) (h2 : w < 2 ^ 32) : decodeBytes (bytes32 w) = decode32 w := by
  simp only [bytes32, bytes16, decodeBytes, List.cons_append, List.nil_append, BitVec.toNat_ofNat]
  rw [if_neg (by omega)]
  congr 1
  omega

/-- A 16-bit word laid out in memory is read back (R160). -/
theorem decode_bytes16 (w : Nat) (h2 : w < 2 ^ 15) : decodeBytes (bytes16 w) = decode16 w := by
  simp only [bytes16, decodeBytes, BitVec.toNat_ofNat]
  rw [if_pos (by omega)]
  congr 1
  omega

theorem trip32 {i : Instr} (w : Nat) (he : encode i = w) (hs : i.size = 4) (h1 : 2 ^ 31 ≤ w ∧ w < 2 ^ 32) (h : decode32 w = .ok i) :
    decodeBytes (encodeBytes i) = .ok i := by
  unfold encodeBytes
  rw [if_neg (by rw [hs]; decide), he, decode_bytes32 _ h1.1 h1.2, h]

theorem trip16 {i : Instr} (w : Nat) (he : encode i = w) (hs : i.size = 2) (h1 : w < 2 ^ 15) (h : decode16 w = .ok i) :
    decodeBytes (encodeBytes i) = .ok i := by
  unfold encodeBytes
  rw [if_pos hs, he, decode_bytes16 _ h1, h]

/-- A part of a run of bits that holds a known value. -/
theorem bits_sub {w g gh gl hi lo v : Nat} (h : bits w gh gl = g) (hl : gl ≤ lo ∧ lo ≤ hi ∧ hi ≤ gh)
    (hv : g / 2 ^ (lo - gl) % 2 ^ (hi + 1 - lo) = v) : bits w hi lo = v := by
  subst hv h
  unfold bits
  apply Nat.eq_of_testBit_eq
  intro i
  simp only [Nat.testBit_mod_two_pow, Nat.testBit_div_two_pow]
  by_cases hi' : i < hi + 1 - lo
  · have : i + (lo - gl) < gh + 1 - gl := by omega
    simp only [hi', this, decide_true, Bool.true_and]
    congr 1
    omega
  · simp [hi']

theorem shape0 {v0 v1 v2 v3 g0 g1 w : Nat} (hv0 : v0 < 2 ^ 4) (hv1 : v1 < 2 ^ 4) (hv2 : v2 < 2 ^ 1) (hv3 : v3 < 2 ^ 6) (hg0 : g0 < 2 ^ 7) (hg1 : g1 < 2 ^ 10)
    (h : place (g0 * 2 ^ 25 + g1 * 2 ^ 0) [(v0, 21), (v1, 17), (v2, 16), (v3, 10)] = w) :
    w / 2 ^ 21 % 2 ^ 4 = v0 ∧ w / 2 ^ 17 % 2 ^ 4 = v1 ∧ w / 2 ^ 16 % 2 ^ 1 = v2 ∧ w / 2 ^ 10 % 2 ^ 6 = v3 ∧ bits w 31 25 = g0 ∧ bits w 9 0 = g1 ∧ g0 * 2 ^ 25 ≤ w ∧ w < 2 ^ 32 := by
  simp only [place] at h
  unfold bits
  refine ⟨?_, ?_, ?_, ?_, ?_, ?_, ?_, ?_⟩ <;> omega

theorem shape1 {v0 v1 v2 v3 v4 g0 g1 w : Nat} (hv0 : v0 < 2 ^ 4) (hv1 : v1 < 2 ^ 4) (hv2 : v2 < 2 ^ 1) (hv3 : v3 < 2 ^ 6) (hv4 : v4 < 2 ^ 2) (hg0 : g0 < 2 ^ 7) (hg1 : g1 < 2 ^ 8)
    (h : place (g0 * 2 ^ 25 + g1 * 2 ^ 2) [(v0, 21), (v1, 17), (v2, 16), (v3, 10), (v4, 0)] = w) :
    w / 2 ^ 21 % 2 ^ 4 = v0 ∧ w / 2 ^ 17 % 2 ^ 4 = v1 ∧ w / 2 ^ 16 % 2 ^ 1 = v2 ∧ w / 2 ^ 10 % 2 ^ 6 = v3 ∧ w / 2 ^ 0 % 2 ^ 2 = v4 ∧ bits w 31 25 = g0 ∧ bits w 9 2 = g1 ∧ g0 * 2 ^ 25 ≤ w ∧ w < 2 ^ 32 := by
  simp only [place] at h
  unfold bits
  refine ⟨?_, ?_, ?_, ?_, ?_, ?_, ?_, ?_, ?_⟩ <;> omega

theorem shape2 {v0 v1 g0 g1 w : Nat} (hv0 : v0 < 2 ^ 4) (hv1 : v1 < 2 ^ 4) (hg0 : g0 < 2 ^ 7) (hg1 : g1 < 2 ^ 17)
    (h : place (g0 * 2 ^ 25 + g1 * 2 ^ 0) [(v0, 21), (v1, 17)] = w) :
    w / 2 ^ 21 % 2 ^ 4 = v0 ∧ w / 2 ^ 17 % 2 ^ 4 = v1 ∧ bits w 31 25 = g0 ∧ bits w 16 0 = g1 ∧ g0 * 2 ^ 25 ≤ w ∧ w < 2 ^ 32 := by
  simp only [place] at h
  unfold bits
  refine ⟨?_, ?_, ?_, ?_, ?_, ?_⟩ <;> omega

theorem shape3 {v0 v1 v2 g0 g1 w : Nat} (hv0 : v0 < 2 ^ 4) (hv1 : v1 < 2 ^ 4) (hv2 : v2 < 2 ^ 2) (hg0 : g0 < 2 ^ 7) (hg1 : g1 < 2 ^ 15)
    (h : place (g0 * 2 ^ 25 + g1 * 2 ^ 2) [(v0, 21), (v1, 17), (v2, 0)] = w) :
    w / 2 ^ 21 % 2 ^ 4 = v0 ∧ w / 2 ^ 17 % 2 ^ 4 = v1 ∧ w / 2 ^ 0 % 2 ^ 2 = v2 ∧ bits w 31 25 = g0 ∧ bits w 16 2 = g1 ∧ g0 * 2 ^ 25 ≤ w ∧ w < 2 ^ 32 := by
  simp only [place] at h
  unfold bits
  refine ⟨?_, ?_, ?_, ?_, ?_, ?_, ?_⟩ <;> omega

theorem shape4 {v0 v1 v2 v3 v4 v5 v6 g0 g1 w : Nat} (hv0 : v0 < 2 ^ 4) (hv1 : v1 < 2 ^ 4) (hv2 : v2 < 2 ^ 1) (hv3 : v3 < 2 ^ 6) (hv4 : v4 < 2 ^ 1) (hv5 : v5 < 2 ^ 3) (hv6 : v6 < 2 ^ 1) (hg0 : g0 < 2 ^ 7) (hg1 : g1 < 2 ^ 5)
    (h : place (g0 * 2 ^ 25 + g1 * 2 ^ 5) [(v0, 21), (v1, 17), (v2, 16), (v3, 10), (v4, 4), (v5, 1), (v6, 0)] = w) :
    w / 2 ^ 21 % 2 ^ 4 = v0 ∧ w / 2 ^ 17 % 2 ^ 4 = v1 ∧ w / 2 ^ 16 % 2 ^ 1 = v2 ∧ w / 2 ^ 10 % 2 ^ 6 = v3 ∧ w / 2 ^ 4 % 2 ^ 1 = v4 ∧ w / 2 ^ 1 % 2 ^ 3 = v5 ∧ w / 2 ^ 0 % 2 ^ 1 = v6 ∧ bits w 31 25 = g0 ∧ bits w 9 5 = g1 ∧ g0 * 2 ^ 25 ≤ w ∧ w < 2 ^ 32 := by
  simp only [place] at h
  unfold bits
  refine ⟨?_, ?_, ?_, ?_, ?_, ?_, ?_, ?_, ?_, ?_, ?_⟩ <;> omega

theorem shape5 {v0 v1 v2 v3 v4 g0 g1 w : Nat} (hv0 : v0 < 2 ^ 4) (hv1 : v1 < 2 ^ 4) (hv2 : v2 < 2 ^ 1) (hv3 : v3 < 2 ^ 3) (hv4 : v4 < 2 ^ 1) (hg0 : g0 < 2 ^ 7) (hg1 : g1 < 2 ^ 12)
    (h : place (g0 * 2 ^ 25 + g1 * 2 ^ 5) [(v0, 21), (v1, 17), (v2, 4), (v3, 1), (v4, 0)] = w) :
    w / 2 ^ 21 % 2 ^ 4 = v0 ∧ w / 2 ^ 17 % 2 ^ 4 = v1 ∧ w / 2 ^ 4 % 2 ^ 1 = v2 ∧ w / 2 ^ 1 % 2 ^ 3 = v3 ∧ w / 2 ^ 0 % 2 ^ 1 = v4 ∧ bits w 31 25 = g0 ∧ bits w 16 5 = g1 ∧ g0 * 2 ^ 25 ≤ w ∧ w < 2 ^ 32 := by
  simp only [place] at h
  unfold bits
  refine ⟨?_, ?_, ?_, ?_, ?_, ?_, ?_, ?_, ?_⟩ <;> omega

theorem shape6 {v0 v1 v2 v3 v4 g0 g1 g2 w : Nat} (hv0 : v0 < 2 ^ 4) (hv1 : v1 < 2 ^ 4) (hv2 : v2 < 2 ^ 1) (hv3 : v3 < 2 ^ 6) (hv4 : v4 < 2 ^ 1) (hg0 : g0 < 2 ^ 7) (hg1 : g1 < 2 ^ 5) (hg2 : g2 < 2 ^ 4)
    (h : place (g0 * 2 ^ 25 + g1 * 2 ^ 5 + g2 * 2 ^ 0) [(v0, 21), (v1, 17), (v2, 16), (v3, 10), (v4, 4)] = w) :
    w / 2 ^ 21 % 2 ^ 4 = v0 ∧ w / 2 ^ 17 % 2 ^ 4 = v1 ∧ w / 2 ^ 16 % 2 ^ 1 = v2 ∧ w / 2 ^ 10 % 2 ^ 6 = v3 ∧ w / 2 ^ 4 % 2 ^ 1 = v4 ∧ bits w 31 25 = g0 ∧ bits w 9 5 = g1 ∧ bits w 3 0 = g2 ∧ g0 * 2 ^ 25 ≤ w ∧ w < 2 ^ 32 := by
  simp only [place] at h
  unfold bits
  refine ⟨?_, ?_, ?_, ?_, ?_, ?_, ?_, ?_, ?_, ?_⟩ <;> omega

theorem shape7 {v0 v1 v2 v3 v4 v5 g0 g1 g2 g3 w : Nat} (hv0 : v0 < 2 ^ 4) (hv1 : v1 < 2 ^ 4) (hv2 : v2 < 2 ^ 1) (hv3 : v3 < 2 ^ 6) (hv4 : v4 < 2 ^ 1) (hv5 : v5 < 2 ^ 2) (hg0 : g0 < 2 ^ 7) (hg1 : g1 < 2 ^ 5) (hg2 : g2 < 2 ^ 1) (hg3 : g3 < 2 ^ 1)
    (h : place (g0 * 2 ^ 25 + g1 * 2 ^ 5 + g2 * 2 ^ 3 + g3 * 2 ^ 0) [(v0, 21), (v1, 17), (v2, 16), (v3, 10), (v4, 4), (v5, 1)] = w) :
    w / 2 ^ 21 % 2 ^ 4 = v0 ∧ w / 2 ^ 17 % 2 ^ 4 = v1 ∧ w / 2 ^ 16 % 2 ^ 1 = v2 ∧ w / 2 ^ 10 % 2 ^ 6 = v3 ∧ w / 2 ^ 4 % 2 ^ 1 = v4 ∧ w / 2 ^ 1 % 2 ^ 2 = v5 ∧ bits w 31 25 = g0 ∧ bits w 9 5 = g1 ∧ bits w 3 3 = g2 ∧ bits w 0 0 = g3 ∧ g0 * 2 ^ 25 ≤ w ∧ w < 2 ^ 32 := by
  simp only [place] at h
  unfold bits
  refine ⟨?_, ?_, ?_, ?_, ?_, ?_, ?_, ?_, ?_, ?_, ?_, ?_⟩ <;> omega

theorem shape8 {v0 v1 v2 v3 v4 v5 g0 g1 g2 w : Nat} (hv0 : v0 < 2 ^ 4) (hv1 : v1 < 2 ^ 4) (hv2 : v2 < 2 ^ 3) (hv3 : v3 < 2 ^ 3) (hv4 : v4 < 2 ^ 3) (hv5 : v5 < 2 ^ 1) (hg0 : g0 < 2 ^ 7) (hg1 : g1 < 2 ^ 1) (hg2 : g2 < 2 ^ 6)
    (h : place (g0 * 2 ^ 25 + g1 * 2 ^ 16 + g2 * 2 ^ 4) [(v0, 21), (v1, 17), (v2, 13), (v3, 10), (v4, 1), (v5, 0)] = w) :
    w / 2 ^ 21 % 2 ^ 4 = v0 ∧ w / 2 ^ 17 % 2 ^ 4 = v1 ∧ w / 2 ^ 13 % 2 ^ 3 = v2 ∧ w / 2 ^ 10 % 2 ^ 3 = v3 ∧ w / 2 ^ 1 % 2 ^ 3 = v4 ∧ w / 2 ^ 0 % 2 ^ 1 = v5 ∧ bits w 31 25 = g0 ∧ bits w 16 16 = g1 ∧ bits w 9 4 = g2 ∧ g0 * 2 ^ 25 ≤ w ∧ w < 2 ^ 32 := by
  simp only [place] at h
  unfold bits
  refine ⟨?_, ?_, ?_, ?_, ?_, ?_, ?_, ?_, ?_, ?_, ?_⟩ <;> omega

theorem shape9 {v0 v1 v2 g0 g1 g2 w : Nat} (hv0 : v0 < 2 ^ 4) (hv1 : v1 < 2 ^ 4) (hv2 : v2 < 2 ^ 1) (hg0 : g0 < 2 ^ 7) (hg1 : g1 < 2 ^ 12) (hg2 : g2 < 2 ^ 4)
    (h : place (g0 * 2 ^ 25 + g1 * 2 ^ 5 + g2 * 2 ^ 0) [(v0, 21), (v1, 17), (v2, 4)] = w) :
    w / 2 ^ 21 % 2 ^ 4 = v0 ∧ w / 2 ^ 17 % 2 ^ 4 = v1 ∧ w / 2 ^ 4 % 2 ^ 1 = v2 ∧ bits w 31 25 = g0 ∧ bits w 16 5 = g1 ∧ bits w 3 0 = g2 ∧ g0 * 2 ^ 25 ≤ w ∧ w < 2 ^ 32 := by
  simp only [place] at h
  unfold bits
  refine ⟨?_, ?_, ?_, ?_, ?_, ?_, ?_, ?_⟩ <;> omega

theorem shape10 {v0 v1 v2 g0 w : Nat} (hv0 : v0 < 2 ^ 4) (hv1 : v1 < 2 ^ 4) (hv2 : v2 < 2 ^ 17) (hg0 : g0 < 2 ^ 7)
    (h : place (g0 * 2 ^ 25) [(v0, 21), (v1, 17), (v2, 0)] = w) :
    w / 2 ^ 21 % 2 ^ 4 = v0 ∧ w / 2 ^ 17 % 2 ^ 4 = v1 ∧ w / 2 ^ 0 % 2 ^ 17 = v2 ∧ bits w 31 25 = g0 ∧ g0 * 2 ^ 25 ≤ w ∧ w < 2 ^ 32 := by
  simp only [place] at h
  unfold bits
  refine ⟨?_, ?_, ?_, ?_, ?_, ?_⟩ <;> omega

theorem shape11 {v0 v1 v2 g0 g1 w : Nat} (hv0 : v0 < 2 ^ 4) (hv1 : v1 < 2 ^ 4) (hv2 : v2 < 2 ^ 6) (hg0 : g0 < 2 ^ 7) (hg1 : g1 < 2 ^ 11)
    (h : place (g0 * 2 ^ 25 + g1 * 2 ^ 6) [(v0, 21), (v1, 17), (v2, 0)] = w) :
    w / 2 ^ 21 % 2 ^ 4 = v0 ∧ w / 2 ^ 17 % 2 ^ 4 = v1 ∧ w / 2 ^ 0 % 2 ^ 6 = v2 ∧ bits w 31 25 = g0 ∧ bits w 16 6 = g1 ∧ g0 * 2 ^ 25 ≤ w ∧ w < 2 ^ 32 := by
  simp only [place] at h
  unfold bits
  refine ⟨?_, ?_, ?_, ?_, ?_, ?_, ?_⟩ <;> omega

theorem shape12 {v0 v1 v2 v3 g0 g1 w : Nat} (hv0 : v0 < 2 ^ 4) (hv1 : v1 < 2 ^ 4) (hv2 : v2 < 2 ^ 6) (hv3 : v3 < 2 ^ 6) (hg0 : g0 < 2 ^ 7) (hg1 : g1 < 2 ^ 5)
    (h : place (g0 * 2 ^ 25 + g1 * 2 ^ 12) [(v0, 21), (v1, 17), (v2, 6), (v3, 0)] = w) :
    w / 2 ^ 21 % 2 ^ 4 = v0 ∧ w / 2 ^ 17 % 2 ^ 4 = v1 ∧ w / 2 ^ 6 % 2 ^ 6 = v2 ∧ w / 2 ^ 0 % 2 ^ 6 = v3 ∧ bits w 31 25 = g0 ∧ bits w 16 12 = g1 ∧ g0 * 2 ^ 25 ≤ w ∧ w < 2 ^ 32 := by
  simp only [place] at h
  unfold bits
  refine ⟨?_, ?_, ?_, ?_, ?_, ?_, ?_, ?_⟩ <;> omega

theorem shape13 {v0 v1 g0 w : Nat} (hv0 : v0 < 2 ^ 4) (hv1 : v1 < 2 ^ 21) (hg0 : g0 < 2 ^ 7)
    (h : place (g0 * 2 ^ 25) [(v0, 21), (v1, 0)] = w) :
    w / 2 ^ 21 % 2 ^ 4 = v0 ∧ w / 2 ^ 0 % 2 ^ 21 = v1 ∧ bits w 31 25 = g0 ∧ g0 * 2 ^ 25 ≤ w ∧ w < 2 ^ 32 := by
  simp only [place] at h
  unfold bits
  refine ⟨?_, ?_, ?_, ?_, ?_⟩ <;> omega

theorem shape14 {v0 v1 v2 g0 w : Nat} (hv0 : v0 < 2 ^ 4) (hv1 : v1 < 2 ^ 2) (hv2 : v2 < 2 ^ 19) (hg0 : g0 < 2 ^ 7)
    (h : place (g0 * 2 ^ 25) [(v0, 21), (v1, 19), (v2, 0)] = w) :
    w / 2 ^ 21 % 2 ^ 4 = v0 ∧ w / 2 ^ 19 % 2 ^ 2 = v1 ∧ w / 2 ^ 0 % 2 ^ 19 = v2 ∧ bits w 31 25 = g0 ∧ g0 * 2 ^ 25 ≤ w ∧ w < 2 ^ 32 := by
  simp only [place] at h
  unfold bits
  refine ⟨?_, ?_, ?_, ?_, ?_, ?_⟩ <;> omega

theorem shape15 {v0 v1 g0 g1 w : Nat} (hv0 : v0 < 2 ^ 4) (hv1 : v1 < 2 ^ 12) (hg0 : g0 < 2 ^ 7) (hg1 : g1 < 2 ^ 9)
    (h : place (g0 * 2 ^ 25 + g1 * 2 ^ 12) [(v0, 21), (v1, 0)] = w) :
    w / 2 ^ 21 % 2 ^ 4 = v0 ∧ w / 2 ^ 0 % 2 ^ 12 = v1 ∧ bits w 31 25 = g0 ∧ bits w 20 12 = g1 ∧ g0 * 2 ^ 25 ≤ w ∧ w < 2 ^ 32 := by
  simp only [place] at h
  unfold bits
  refine ⟨?_, ?_, ?_, ?_, ?_, ?_⟩ <;> omega

theorem shape16 {v0 v1 v2 g0 g1 w : Nat} (hv0 : v0 < 2 ^ 4) (hv1 : v1 < 2 ^ 4) (hv2 : v2 < 2 ^ 12) (hg0 : g0 < 2 ^ 7) (hg1 : g1 < 2 ^ 5)
    (h : place (g0 * 2 ^ 25 + g1 * 2 ^ 12) [(v0, 21), (v1, 17), (v2, 0)] = w) :
    w / 2 ^ 21 % 2 ^ 4 = v0 ∧ w / 2 ^ 17 % 2 ^ 4 = v1 ∧ w / 2 ^ 0 % 2 ^ 12 = v2 ∧ bits w 31 25 = g0 ∧ bits w 16 12 = g1 ∧ g0 * 2 ^ 25 ≤ w ∧ w < 2 ^ 32 := by
  simp only [place] at h
  unfold bits
  refine ⟨?_, ?_, ?_, ?_, ?_, ?_, ?_⟩ <;> omega

theorem shape17 {v0 v1 v2 v3 g0 w : Nat} (hv0 : v0 < 2 ^ 4) (hv1 : v1 < 2 ^ 4) (hv2 : v2 < 2 ^ 2) (hv3 : v3 < 2 ^ 15) (hg0 : g0 < 2 ^ 7)
    (h : place (g0 * 2 ^ 25) [(v0, 21), (v1, 17), (v2, 15), (v3, 0)] = w) :
    w / 2 ^ 21 % 2 ^ 4 = v0 ∧ w / 2 ^ 17 % 2 ^ 4 = v1 ∧ w / 2 ^ 15 % 2 ^ 2 = v2 ∧ w / 2 ^ 0 % 2 ^ 15 = v3 ∧ bits w 31 25 = g0 ∧ g0 * 2 ^ 25 ≤ w ∧ w < 2 ^ 32 := by
  simp only [place] at h
  unfold bits
  refine ⟨?_, ?_, ?_, ?_, ?_, ?_, ?_⟩ <;> omega

theorem shape18 {v0 v1 v2 g0 w : Nat} (hv0 : v0 < 2 ^ 4) (hv1 : v1 < 2 ^ 1) (hv2 : v2 < 2 ^ 20) (hg0 : g0 < 2 ^ 7)
    (h : place (g0 * 2 ^ 25) [(v0, 21), (v1, 20), (v2, 0)] = w) :
    w / 2 ^ 21 % 2 ^ 4 = v0 ∧ w / 2 ^ 20 % 2 ^ 1 = v1 ∧ w / 2 ^ 0 % 2 ^ 20 = v2 ∧ bits w 31 25 = g0 ∧ g0 * 2 ^ 25 ≤ w ∧ w < 2 ^ 32 := by
  simp only [place] at h
  unfold bits
  refine ⟨?_, ?_, ?_, ?_, ?_, ?_⟩ <;> omega

theorem shape19 {v0 v1 v2 g0 g1 w : Nat} (hv0 : v0 < 2 ^ 4) (hv1 : v1 < 2 ^ 4) (hv2 : v2 < 2 ^ 1) (hg0 : g0 < 2 ^ 7) (hg1 : g1 < 2 ^ 16)
    (h : place (g0 * 2 ^ 25 + g1 * 2 ^ 1) [(v0, 21), (v1, 17), (v2, 0)] = w) :
    w / 2 ^ 21 % 2 ^ 4 = v0 ∧ w / 2 ^ 17 % 2 ^ 4 = v1 ∧ w / 2 ^ 0 % 2 ^ 1 = v2 ∧ bits w 31 25 = g0 ∧ bits w 16 1 = g1 ∧ g0 * 2 ^ 25 ≤ w ∧ w < 2 ^ 32 := by
  simp only [place] at h
  unfold bits
  refine ⟨?_, ?_, ?_, ?_, ?_, ?_, ?_⟩ <;> omega

theorem shape20 {g0 w : Nat}  (hg0 : g0 < 2 ^ 32)
    (h : place (g0 * 2 ^ 0) [] = w) :
    bits w 31 0 = g0 ∧ g0 * 2 ^ 0 ≤ w ∧ w < 2 ^ 32 := by
  simp only [place] at h
  unfold bits
  refine ⟨?_, ?_, ?_⟩ <;> omega

theorem shape21 {v0 g0 g1 w : Nat} (hv0 : v0 < 2 ^ 4) (hg0 : g0 < 2 ^ 11) (hg1 : g1 < 2 ^ 17)
    (h : place (g0 * 2 ^ 21 + g1 * 2 ^ 0) [(v0, 17)] = w) :
    w / 2 ^ 17 % 2 ^ 4 = v0 ∧ bits w 31 21 = g0 ∧ bits w 16 0 = g1 ∧ g0 * 2 ^ 21 ≤ w ∧ w < 2 ^ 32 := by
  simp only [place] at h
  unfold bits
  refine ⟨?_, ?_, ?_, ?_, ?_⟩ <;> omega

theorem shape22 {v0 v1 v2 v3 v4 v5 g0 w : Nat} (hv0 : v0 < 2 ^ 4) (hv1 : v1 < 2 ^ 4) (hv2 : v2 < 2 ^ 2) (hv3 : v3 < 2 ^ 3) (hv4 : v4 < 2 ^ 2) (hv5 : v5 < 2 ^ 10) (hg0 : g0 < 2 ^ 7)
    (h : place (g0 * 2 ^ 25) [(v0, 21), (v1, 17), (v2, 15), (v3, 12), (v4, 10), (v5, 0)] = w) :
    w / 2 ^ 21 % 2 ^ 4 = v0 ∧ w / 2 ^ 17 % 2 ^ 4 = v1 ∧ w / 2 ^ 15 % 2 ^ 2 = v2 ∧ w / 2 ^ 12 % 2 ^ 3 = v3 ∧ w / 2 ^ 10 % 2 ^ 2 = v4 ∧ w / 2 ^ 0 % 2 ^ 10 = v5 ∧ bits w 31 25 = g0 ∧ g0 * 2 ^ 25 ≤ w ∧ w < 2 ^ 32 := by
  simp only [place] at h
  unfold bits
  refine ⟨?_, ?_, ?_, ?_, ?_, ?_, ?_, ?_, ?_⟩ <;> omega

theorem shape23 {v0 v1 v2 g0 g1 g2 w : Nat} (hv0 : v0 < 2 ^ 4) (hv1 : v1 < 2 ^ 4) (hv2 : v2 < 2 ^ 4) (hg0 : g0 < 2 ^ 7) (hg1 : g1 < 2 ^ 3) (hg2 : g2 < 2 ^ 10)
    (h : place (g0 * 2 ^ 25 + g1 * 2 ^ 14 + g2 * 2 ^ 0) [(v0, 21), (v1, 17), (v2, 10)] = w) :
    w / 2 ^ 21 % 2 ^ 4 = v0 ∧ w / 2 ^ 17 % 2 ^ 4 = v1 ∧ w / 2 ^ 10 % 2 ^ 4 = v2 ∧ bits w 31 25 = g0 ∧ bits w 16 14 = g1 ∧ bits w 9 0 = g2 ∧ g0 * 2 ^ 25 ≤ w ∧ w < 2 ^ 32 := by
  simp only [place] at h
  unfold bits
  refine ⟨?_, ?_, ?_, ?_, ?_, ?_, ?_, ?_⟩ <;> omega

theorem shape24 {v0 v1 v2 v3 v4 v5 v6 g0 g1 w : Nat} (hv0 : v0 < 2 ^ 4) (hv1 : v1 < 2 ^ 4) (hv2 : v2 < 2 ^ 1) (hv3 : v3 < 2 ^ 6) (hv4 : v4 < 2 ^ 2) (hv5 : v5 < 2 ^ 3) (hv6 : v6 < 2 ^ 1) (hg0 : g0 < 2 ^ 7) (hg1 : g1 < 2 ^ 4)
    (h : place (g0 * 2 ^ 25 + g1 * 2 ^ 0) [(v0, 21), (v1, 17), (v2, 16), (v3, 10), (v4, 8), (v5, 5), (v6, 4)] = w) :
    w / 2 ^ 21 % 2 ^ 4 = v0 ∧ w / 2 ^ 17 % 2 ^ 4 = v1 ∧ w / 2 ^ 16 % 2 ^ 1 = v2 ∧ w / 2 ^ 10 % 2 ^ 6 = v3 ∧ w / 2 ^ 8 % 2 ^ 2 = v4 ∧ w / 2 ^ 5 % 2 ^ 3 = v5 ∧ w / 2 ^ 4 % 2 ^ 1 = v6 ∧ bits w 31 25 = g0 ∧ bits w 3 0 = g1 ∧ g0 * 2 ^ 25 ≤ w ∧ w < 2 ^ 32 := by
  simp only [place] at h
  unfold bits
  refine ⟨?_, ?_, ?_, ?_, ?_, ?_, ?_, ?_, ?_, ?_, ?_⟩ <;> omega

theorem shape25 {v0 v1 v2 v3 v4 v5 g0 g1 w : Nat} (hv0 : v0 < 2 ^ 4) (hv1 : v1 < 2 ^ 1) (hv2 : v2 < 2 ^ 6) (hv3 : v3 < 2 ^ 2) (hv4 : v4 < 2 ^ 3) (hv5 : v5 < 2 ^ 1) (hg0 : g0 < 2 ^ 11) (hg1 : g1 < 2 ^ 4)
    (h : place (g0 * 2 ^ 21 + g1 * 2 ^ 0) [(v0, 17), (v1, 16), (v2, 10), (v3, 8), (v4, 5), (v5, 4)] = w) :
    w / 2 ^ 17 % 2 ^ 4 = v0 ∧ w / 2 ^ 16 % 2 ^ 1 = v1 ∧ w / 2 ^ 10 % 2 ^ 6 = v2 ∧ w / 2 ^ 8 % 2 ^ 2 = v3 ∧ w / 2 ^ 5 % 2 ^ 3 = v4 ∧ w / 2 ^ 4 % 2 ^ 1 = v5 ∧ bits w 31 21 = g0 ∧ bits w 3 0 = g1 ∧ g0 * 2 ^ 21 ≤ w ∧ w < 2 ^ 32 := by
  simp only [place] at h
  unfold bits
  refine ⟨?_, ?_, ?_, ?_, ?_, ?_, ?_, ?_, ?_, ?_⟩ <;> omega

theorem shape26 {v0 v1 v2 v3 v4 g0 g1 g2 w : Nat} (hv0 : v0 < 2 ^ 4) (hv1 : v1 < 2 ^ 4) (hv2 : v2 < 2 ^ 2) (hv3 : v3 < 2 ^ 3) (hv4 : v4 < 2 ^ 1) (hg0 : g0 < 2 ^ 11) (hg1 : g1 < 2 ^ 3) (hg2 : g2 < 2 ^ 4)
    (h : place (g0 * 2 ^ 21 + g1 * 2 ^ 14 + g2 * 2 ^ 0) [(v0, 17), (v1, 10), (v2, 8), (v3, 5), (v4, 4)] = w) :
    w / 2 ^ 17 % 2 ^ 4 = v0 ∧ w / 2 ^ 10 % 2 ^ 4 = v1 ∧ w / 2 ^ 8 % 2 ^ 2 = v2 ∧ w / 2 ^ 5 % 2 ^ 3 = v3 ∧ w / 2 ^ 4 % 2 ^ 1 = v4 ∧ bits w 31 21 = g0 ∧ bits w 16 14 = g1 ∧ bits w 3 0 = g2 ∧ g0 * 2 ^ 21 ≤ w ∧ w < 2 ^ 32 := by
  simp only [place] at h
  unfold bits
  refine ⟨?_, ?_, ?_, ?_, ?_, ?_, ?_, ?_, ?_, ?_⟩ <;> omega

theorem shape27 {v0 v1 v2 v3 g0 g1 g2 w : Nat} (hv0 : v0 < 2 ^ 4) (hv1 : v1 < 2 ^ 4) (hv2 : v2 < 2 ^ 2) (hv3 : v3 < 2 ^ 3) (hg0 : g0 < 2 ^ 7) (hg1 : g1 < 2 ^ 7) (hg2 : g2 < 2 ^ 5)
    (h : place (g0 * 2 ^ 25 + g1 * 2 ^ 10 + g2 * 2 ^ 0) [(v0, 21), (v1, 17), (v2, 8), (v3, 5)] = w) :
    w / 2 ^ 21 % 2 ^ 4 = v0 ∧ w / 2 ^ 17 % 2 ^ 4 = v1 ∧ w / 2 ^ 8 % 2 ^ 2 = v2 ∧ w / 2 ^ 5 % 2 ^ 3 = v3 ∧ bits w 31 25 = g0 ∧ bits w 16 10 = g1 ∧ bits w 4 0 = g2 ∧ g0 * 2 ^ 25 ≤ w ∧ w < 2 ^ 32 := by
  simp only [place] at h
  unfold bits
  refine ⟨?_, ?_, ?_, ?_, ?_, ?_, ?_, ?_, ?_⟩ <;> omega

theorem shape28 {v0 v1 v2 v3 g0 g1 g2 w : Nat} (hv0 : v0 < 2 ^ 4) (hv1 : v1 < 2 ^ 4) (hv2 : v2 < 2 ^ 2) (hv3 : v3 < 2 ^ 3) (hg0 : g0 < 2 ^ 11) (hg1 : g1 < 2 ^ 3) (hg2 : g2 < 2 ^ 5)
    (h : place (g0 * 2 ^ 21 + g1 * 2 ^ 14 + g2 * 2 ^ 0) [(v0, 17), (v1, 10), (v2, 8), (v3, 5)] = w) :
    w / 2 ^ 17 % 2 ^ 4 = v0 ∧ w / 2 ^ 10 % 2 ^ 4 = v1 ∧ w / 2 ^ 8 % 2 ^ 2 = v2 ∧ w / 2 ^ 5 % 2 ^ 3 = v3 ∧ bits w 31 21 = g0 ∧ bits w 16 14 = g1 ∧ bits w 4 0 = g2 ∧ g0 * 2 ^ 21 ≤ w ∧ w < 2 ^ 32 := by
  simp only [place] at h
  unfold bits
  refine ⟨?_, ?_, ?_, ?_, ?_, ?_, ?_, ?_, ?_⟩ <;> omega

theorem shape29 {v0 v1 v2 v3 g0 g1 g2 g3 g4 w : Nat} (hv0 : v0 < 2 ^ 4) (hv1 : v1 < 2 ^ 4) (hv2 : v2 < 2 ^ 3) (hv3 : v3 < 2 ^ 1) (hg0 : g0 < 2 ^ 11) (hg1 : g1 < 2 ^ 3) (hg2 : g2 < 2 ^ 2) (hg3 : g3 < 2 ^ 2) (hg4 : g4 < 2 ^ 2)
    (h : place (g0 * 2 ^ 21 + g1 * 2 ^ 14 + g2 * 2 ^ 8 + g3 * 2 ^ 3 + g4 * 2 ^ 0) [(v0, 17), (v1, 10), (v2, 5), (v3, 2)] = w) :
    w / 2 ^ 17 % 2 ^ 4 = v0 ∧ w / 2 ^ 10 % 2 ^ 4 = v1 ∧ w / 2 ^ 5 % 2 ^ 3 = v2 ∧ w / 2 ^ 2 % 2 ^ 1 = v3 ∧ bits w 31 21 = g0 ∧ bits w 16 14 = g1 ∧ bits w 9 8 = g2 ∧ bits w 4 3 = g3 ∧ bits w 1 0 = g4 ∧ g0 * 2 ^ 21 ≤ w ∧ w < 2 ^ 32 := by
  simp only [place] at h
  unfold bits
  refine ⟨?_, ?_, ?_, ?_, ?_, ?_, ?_, ?_, ?_, ?_, ?_⟩ <;> omega

theorem shape30 {v0 g0 g1 w : Nat} (hv0 : v0 < 2 ^ 3) (hg0 : g0 < 2 ^ 27) (hg1 : g1 < 2 ^ 2)
    (h : place (g0 * 2 ^ 5 + g1 * 2 ^ 0) [(v0, 2)] = w) :
    w / 2 ^ 2 % 2 ^ 3 = v0 ∧ bits w 31 5 = g0 ∧ bits w 1 0 = g1 ∧ g0 * 2 ^ 5 ≤ w ∧ w < 2 ^ 32 := by
  simp only [place] at h
  unfold bits
  refine ⟨?_, ?_, ?_, ?_, ?_⟩ <;> omega

theorem shape31 {v0 v1 g0 g1 g2 w : Nat} (hv0 : v0 < 2 ^ 4) (hv1 : v1 < 2 ^ 4) (hg0 : g0 < 2 ^ 11) (hg1 : g1 < 2 ^ 3) (hg2 : g2 < 2 ^ 10)
    (h : place (g0 * 2 ^ 21 + g1 * 2 ^ 14 + g2 * 2 ^ 0) [(v0, 17), (v1, 10)] = w) :
    w / 2 ^ 17 % 2 ^ 4 = v0 ∧ w / 2 ^ 10 % 2 ^ 4 = v1 ∧ bits w 31 21 = g0 ∧ bits w 16 14 = g1 ∧ bits w 9 0 = g2 ∧ g0 * 2 ^ 21 ≤ w ∧ w < 2 ^ 32 := by
  simp only [place] at h
  unfold bits
  refine ⟨?_, ?_, ?_, ?_, ?_, ?_, ?_⟩ <;> omega

theorem shape32 {v0 v1 v2 v3 v4 g0 g1 g2 w : Nat} (hv0 : v0 < 2 ^ 4) (hv1 : v1 < 2 ^ 4) (hv2 : v2 < 2 ^ 4) (hv3 : v3 < 2 ^ 3) (hv4 : v4 < 2 ^ 2) (hg0 : g0 < 2 ^ 7) (hg1 : g1 < 2 ^ 3) (hg2 : g2 < 2 ^ 5)
    (h : place (g0 * 2 ^ 25 + g1 * 2 ^ 14 + g2 * 2 ^ 5) [(v0, 21), (v1, 17), (v2, 10), (v3, 2), (v4, 0)] = w) :
    w / 2 ^ 21 % 2 ^ 4 = v0 ∧ w / 2 ^ 17 % 2 ^ 4 = v1 ∧ w / 2 ^ 10 % 2 ^ 4 = v2 ∧ w / 2 ^ 2 % 2 ^ 3 = v3 ∧ w / 2 ^ 0 % 2 ^ 2 = v4 ∧ bits w 31 25 = g0 ∧ bits w 16 14 = g1 ∧ bits w 9 5 = g2 ∧ g0 * 2 ^ 25 ≤ w ∧ w < 2 ^ 32 := by
  simp only [place] at h
  unfold bits
  refine ⟨?_, ?_, ?_, ?_, ?_, ?_, ?_, ?_, ?_, ?_⟩ <;> omega

theorem shape33 {v0 v1 v2 v3 g0 g1 w : Nat} (hv0 : v0 < 2 ^ 3) (hv1 : v1 < 2 ^ 8) (hv2 : v2 < 2 ^ 4) (hv3 : v3 < 2 ^ 3) (hg0 : g0 < 2 ^ 8) (hg1 : g1 < 2 ^ 6)
    (h : place (g0 * 2 ^ 24 + g1 * 2 ^ 0) [(v0, 21), (v1, 13), (v2, 9), (v3, 6)] = w) :
    w / 2 ^ 21 % 2 ^ 3 = v0 ∧ w / 2 ^ 13 % 2 ^ 8 = v1 ∧ w / 2 ^ 9 % 2 ^ 4 = v2 ∧ w / 2 ^ 6 % 2 ^ 3 = v3 ∧ bits w 31 24 = g0 ∧ bits w 5 0 = g1 ∧ g0 * 2 ^ 24 ≤ w ∧ w < 2 ^ 32 := by
  simp only [place] at h
  unfold bits
  refine ⟨?_, ?_, ?_, ?_, ?_, ?_, ?_, ?_⟩ <;> omega

theorem shape34 {v0 v1 v2 g0 g1 g2 w : Nat} (hv0 : v0 < 2 ^ 3) (hv1 : v1 < 2 ^ 4) (hv2 : v2 < 2 ^ 3) (hg0 : g0 < 2 ^ 8) (hg1 : g1 < 2 ^ 8) (hg2 : g2 < 2 ^ 6)
    (h : place (g0 * 2 ^ 24 + g1 * 2 ^ 13 + g2 * 2 ^ 0) [(v0, 21), (v1, 9), (v2, 6)] = w) :
    w / 2 ^ 21 % 2 ^ 3 = v0 ∧ w / 2 ^ 9 % 2 ^ 4 = v1 ∧ w / 2 ^ 6 % 2 ^ 3 = v2 ∧ bits w 31 24 = g0 ∧ bits w 20 13 = g1 ∧ bits w 5 0 = g2 ∧ g0 * 2 ^ 24 ≤ w ∧ w < 2 ^ 32 := by
  simp only [place] at h
  unfold bits
  refine ⟨?_, ?_, ?_, ?_, ?_, ?_, ?_, ?_⟩ <;> omega

theorem shape35 {v0 v1 g0 g1 w : Nat} (hv0 : v0 < 2 ^ 8) (hv1 : v1 < 2 ^ 4) (hg0 : g0 < 2 ^ 11) (hg1 : g1 < 2 ^ 9)
    (h : place (g0 * 2 ^ 21 + g1 * 2 ^ 0) [(v0, 13), (v1, 9)] = w) :
    w / 2 ^ 13 % 2 ^ 8 = v0 ∧ w / 2 ^ 9 % 2 ^ 4 = v1 ∧ bits w 31 21 = g0 ∧ bits w 8 0 = g1 ∧ g0 * 2 ^ 21 ≤ w ∧ w < 2 ^ 32 := by
  simp only [place] at h
  unfold bits
  refine ⟨?_, ?_, ?_, ?_, ?_, ?_⟩ <;> omega

theorem shape36 {v0 v1 v2 v3 g0 g1 g2 w : Nat} (hv0 : v0 < 2 ^ 3) (hv1 : v1 < 2 ^ 4) (hv2 : v2 < 2 ^ 4) (hv3 : v3 < 2 ^ 3) (hg0 : g0 < 2 ^ 8) (hg1 : g1 < 2 ^ 4) (hg2 : g2 < 2 ^ 6)
    (h : place (g0 * 2 ^ 24 + g1 * 2 ^ 13 + g2 * 2 ^ 0) [(v0, 21), (v1, 17), (v2, 9), (v3, 6)] = w) :
    w / 2 ^ 21 % 2 ^ 3 = v0 ∧ w / 2 ^ 17 % 2 ^ 4 = v1 ∧ w / 2 ^ 9 % 2 ^ 4 = v2 ∧ w / 2 ^ 6 % 2 ^ 3 = v3 ∧ bits w 31 24 = g0 ∧ bits w 16 13 = g1 ∧ bits w 5 0 = g2 ∧ g0 * 2 ^ 24 ≤ w ∧ w < 2 ^ 32 := by
  simp only [place] at h
  unfold bits
  refine ⟨?_, ?_, ?_, ?_, ?_, ?_, ?_, ?_, ?_⟩ <;> omega

theorem shape37 {v0 v1 v2 v3 g0 g1 g2 w : Nat} (hv0 : v0 < 2 ^ 4) (hv1 : v1 < 2 ^ 4) (hv2 : v2 < 2 ^ 4) (hv3 : v3 < 2 ^ 3) (hg0 : g0 < 2 ^ 7) (hg1 : g1 < 2 ^ 1) (hg2 : g2 < 2 ^ 9)
    (h : place (g0 * 2 ^ 25 + g1 * 2 ^ 12 + g2 * 2 ^ 0) [(v0, 21), (v1, 17), (v2, 13), (v3, 9)] = w) :
    w / 2 ^ 21 % 2 ^ 4 = v0 ∧ w / 2 ^ 17 % 2 ^ 4 = v1 ∧ w / 2 ^ 13 % 2 ^ 4 = v2 ∧ w / 2 ^ 9 % 2 ^ 3 = v3 ∧ bits w 31 25 = g0 ∧ bits w 12 12 = g1 ∧ bits w 8 0 = g2 ∧ g0 * 2 ^ 25 ≤ w ∧ w < 2 ^ 32 := by
  simp only [place] at h
  unfold bits
  refine ⟨?_, ?_, ?_, ?_, ?_, ?_, ?_, ?_, ?_⟩ <;> omega

theorem shape38 {v0 v1 v2 v3 g0 g1 w : Nat} (hv0 : v0 < 2 ^ 3) (hv1 : v1 < 2 ^ 4) (hv2 : v2 < 2 ^ 4) (hv3 : v3 < 2 ^ 4) (hg0 : g0 < 2 ^ 8) (hg1 : g1 < 2 ^ 9)
    (h : place (g0 * 2 ^ 24 + g1 * 2 ^ 0) [(v0, 21), (v1, 17), (v2, 13), (v3, 9)] = w) :
    w / 2 ^ 21 % 2 ^ 3 = v0 ∧ w / 2 ^ 17 % 2 ^ 4 = v1 ∧ w / 2 ^ 13 % 2 ^ 4 = v2 ∧ w / 2 ^ 9 % 2 ^ 4 = v3 ∧ bits w 31 24 = g0 ∧ bits w 8 0 = g1 ∧ g0 * 2 ^ 24 ≤ w ∧ w < 2 ^ 32 := by
  simp only [place] at h
  unfold bits
  refine ⟨?_, ?_, ?_, ?_, ?_, ?_, ?_, ?_⟩ <;> omega

theorem shape39 {v0 v1 v2 g0 g1 g2 w : Nat} (hv0 : v0 < 2 ^ 3) (hv1 : v1 < 2 ^ 3) (hv2 : v2 < 2 ^ 3) (hg0 : g0 < 2 ^ 7) (hg1 : g1 < 2 ^ 4) (hg2 : g2 < 2 ^ 12)
    (h : place (g0 * 2 ^ 25 + g1 * 2 ^ 15 + g2 * 2 ^ 0) [(v0, 22), (v1, 19), (v2, 12)] = w) :
    w / 2 ^ 22 % 2 ^ 3 = v0 ∧ w / 2 ^ 19 % 2 ^ 3 = v1 ∧ w / 2 ^ 12 % 2 ^ 3 = v2 ∧ bits w 31 25 = g0 ∧ bits w 18 15 = g1 ∧ bits w 11 0 = g2 ∧ g0 * 2 ^ 25 ≤ w ∧ w < 2 ^ 32 := by
  simp only [place] at h
  unfold bits
  refine ⟨?_, ?_, ?_, ?_, ?_, ?_, ?_, ?_⟩ <;> omega

theorem shape40 {v0 v1 g0 g1 g2 w : Nat} (hv0 : v0 < 2 ^ 3) (hv1 : v1 < 2 ^ 3) (hg0 : g0 < 2 ^ 7) (hg1 : g1 < 2 ^ 7) (hg2 : g2 < 2 ^ 12)
    (h : place (g0 * 2 ^ 25 + g1 * 2 ^ 15 + g2 * 2 ^ 0) [(v0, 22), (v1, 12)] = w) :
    w / 2 ^ 22 % 2 ^ 3 = v0 ∧ w / 2 ^ 12 % 2 ^ 3 = v1 ∧ bits w 31 25 = g0 ∧ bits w 21 15 = g1 ∧ bits w 11 0 = g2 ∧ g0 * 2 ^ 25 ≤ w ∧ w < 2 ^ 32 := by
  simp only [place] at h
  unfold bits
  refine ⟨?_, ?_, ?_, ?_, ?_, ?_, ?_⟩ <;> omega

theorem shape41 {v0 v1 v2 v3 v4 v5 v6 g0 g1 w : Nat} (hv0 : v0 < 2 ^ 3) (hv1 : v1 < 2 ^ 3) (hv2 : v2 < 2 ^ 1) (hv3 : v3 < 2 ^ 3) (hv4 : v4 < 2 ^ 3) (hv5 : v5 < 2 ^ 4) (hv6 : v6 < 2 ^ 1) (hg0 : g0 < 2 ^ 7) (hg1 : g1 < 2 ^ 7)
    (h : place (g0 * 2 ^ 25 + g1 * 2 ^ 0) [(v0, 22), (v1, 19), (v2, 18), (v3, 15), (v4, 12), (v5, 8), (v6, 7)] = w) :
    w / 2 ^ 22 % 2 ^ 3 = v0 ∧ w / 2 ^ 19 % 2 ^ 3 = v1 ∧ w / 2 ^ 18 % 2 ^ 1 = v2 ∧ w / 2 ^ 15 % 2 ^ 3 = v3 ∧ w / 2 ^ 12 % 2 ^ 3 = v4 ∧ w / 2 ^ 8 % 2 ^ 4 = v5 ∧ w / 2 ^ 7 % 2 ^ 1 = v6 ∧ bits w 31 25 = g0 ∧ bits w 6 0 = g1 ∧ g0 * 2 ^ 25 ≤ w ∧ w < 2 ^ 32 := by
  simp only [place] at h
  unfold bits
  refine ⟨?_, ?_, ?_, ?_, ?_, ?_, ?_, ?_, ?_, ?_, ?_⟩ <;> omega

theorem shape42 {v0 v1 v2 v3 v4 g0 g1 g2 w : Nat} (hv0 : v0 < 2 ^ 3) (hv1 : v1 < 2 ^ 3) (hv2 : v2 < 2 ^ 3) (hv3 : v3 < 2 ^ 4) (hv4 : v4 < 2 ^ 1) (hg0 : g0 < 2 ^ 7) (hg1 : g1 < 2 ^ 4) (hg2 : g2 < 2 ^ 7)
    (h : place (g0 * 2 ^ 25 + g1 * 2 ^ 15 + g2 * 2 ^ 0) [(v0, 22), (v1, 19), (v2, 12), (v3, 8), (v4, 7)] = w) :
    w / 2 ^ 22 % 2 ^ 3 = v0 ∧ w / 2 ^ 19 % 2 ^ 3 = v1 ∧ w / 2 ^ 12 % 2 ^ 3 = v2 ∧ w / 2 ^ 8 % 2 ^ 4 = v3 ∧ w / 2 ^ 7 % 2 ^ 1 = v4 ∧ bits w 31 25 = g0 ∧ bits w 18 15 = g1 ∧ bits w 6 0 = g2 ∧ g0 * 2 ^ 25 ≤ w ∧ w < 2 ^ 32 := by
  simp only [place] at h
  unfold bits
  refine ⟨?_, ?_, ?_, ?_, ?_, ?_, ?_, ?_, ?_, ?_⟩ <;> omega

theorem shape43 {v0 v1 v2 v3 v4 v5 v6 v7 g0 g1 w : Nat} (hv0 : v0 < 2 ^ 3) (hv1 : v1 < 2 ^ 3) (hv2 : v2 < 2 ^ 1) (hv3 : v3 < 2 ^ 3) (hv4 : v4 < 2 ^ 3) (hv5 : v5 < 2 ^ 4) (hv6 : v6 < 2 ^ 1) (hv7 : v7 < 2 ^ 2) (hg0 : g0 < 2 ^ 7) (hg1 : g1 < 2 ^ 5)
    (h : place (g0 * 2 ^ 25 + g1 * 2 ^ 2) [(v0, 22), (v1, 19), (v2, 18), (v3, 15), (v4, 12), (v5, 8), (v6, 7), (v7, 0)] = w) :
    w / 2 ^ 22 % 2 ^ 3 = v0 ∧ w / 2 ^ 19 % 2 ^ 3 = v1 ∧ w / 2 ^ 18 % 2 ^ 1 = v2 ∧ w / 2 ^ 15 % 2 ^ 3 = v3 ∧ w / 2 ^ 12 % 2 ^ 3 = v4 ∧ w / 2 ^ 8 % 2 ^ 4 = v5 ∧ w / 2 ^ 7 % 2 ^ 1 = v6 ∧ w / 2 ^ 0 % 2 ^ 2 = v7 ∧ bits w 31 25 = g0 ∧ bits w 6 2 = g1 ∧ g0 * 2 ^ 25 ≤ w ∧ w < 2 ^ 32 := by
  simp only [place] at h
  unfold bits
  refine ⟨?_, ?_, ?_, ?_, ?_, ?_, ?_, ?_, ?_, ?_, ?_, ?_⟩ <;> omega

theorem shape44 {v0 v1 v2 v3 v4 g0 g1 w : Nat} (hv0 : v0 < 2 ^ 3) (hv1 : v1 < 2 ^ 3) (hv2 : v2 < 2 ^ 1) (hv3 : v3 < 2 ^ 3) (hv4 : v4 < 2 ^ 3) (hg0 : g0 < 2 ^ 7) (hg1 : g1 < 2 ^ 12)
    (h : place (g0 * 2 ^ 25 + g1 * 2 ^ 0) [(v0, 22), (v1, 19), (v2, 18), (v3, 15), (v4, 12)] = w) :
    w / 2 ^ 22 % 2 ^ 3 = v0 ∧ w / 2 ^ 19 % 2 ^ 3 = v1 ∧ w / 2 ^ 18 % 2 ^ 1 = v2 ∧ w / 2 ^ 15 % 2 ^ 3 = v3 ∧ w / 2 ^ 12 % 2 ^ 3 = v4 ∧ bits w 31 25 = g0 ∧ bits w 11 0 = g1 ∧ g0 * 2 ^ 25 ≤ w ∧ w < 2 ^ 32 := by
  simp only [place] at h
  unfold bits
  refine ⟨?_, ?_, ?_, ?_, ?_, ?_, ?_, ?_, ?_⟩ <;> omega

theorem shape45 {v0 v1 v2 v3 v4 v5 g0 g1 w : Nat} (hv0 : v0 < 2 ^ 3) (hv1 : v1 < 2 ^ 3) (hv2 : v2 < 2 ^ 1) (hv3 : v3 < 2 ^ 3) (hv4 : v4 < 2 ^ 3) (hv5 : v5 < 2 ^ 4) (hg0 : g0 < 2 ^ 7) (hg1 : g1 < 2 ^ 8)
    (h : place (g0 * 2 ^ 25 + g1 * 2 ^ 0) [(v0, 22), (v1, 19), (v2, 18), (v3, 15), (v4, 12), (v5, 8)] = w) :
    w / 2 ^ 22 % 2 ^ 3 = v0 ∧ w / 2 ^ 19 % 2 ^ 3 = v1 ∧ w / 2 ^ 18 % 2 ^ 1 = v2 ∧ w / 2 ^ 15 % 2 ^ 3 = v3 ∧ w / 2 ^ 12 % 2 ^ 3 = v4 ∧ w / 2 ^ 8 % 2 ^ 4 = v5 ∧ bits w 31 25 = g0 ∧ bits w 7 0 = g1 ∧ g0 * 2 ^ 25 ≤ w ∧ w < 2 ^ 32 := by
  simp only [place] at h
  unfold bits
  refine ⟨?_, ?_, ?_, ?_, ?_, ?_, ?_, ?_, ?_, ?_⟩ <;> omega

theorem shape46 {v0 v1 v2 v3 v4 v5 v6 v7 g0 g1 w : Nat} (hv0 : v0 < 2 ^ 3) (hv1 : v1 < 2 ^ 3) (hv2 : v2 < 2 ^ 4) (hv3 : v3 < 2 ^ 3) (hv4 : v4 < 2 ^ 4) (hv5 : v5 < 2 ^ 1) (hv6 : v6 < 2 ^ 1) (hv7 : v7 < 2 ^ 3) (hg0 : g0 < 2 ^ 7) (hg1 : g1 < 2 ^ 3)
    (h : place (g0 * 2 ^ 25 + g1 * 2 ^ 4) [(v0, 22), (v1, 19), (v2, 15), (v3, 12), (v4, 8), (v5, 7), (v6, 3), (v7, 0)] = w) :
    w / 2 ^ 22 % 2 ^ 3 = v0 ∧ w / 2 ^ 19 % 2 ^ 3 = v1 ∧ w / 2 ^ 15 % 2 ^ 4 = v2 ∧ w / 2 ^ 12 % 2 ^ 3 = v3 ∧ w / 2 ^ 8 % 2 ^ 4 = v4 ∧ w / 2 ^ 7 % 2 ^ 1 = v5 ∧ w / 2 ^ 3 % 2 ^ 1 = v6 ∧ w / 2 ^ 0 % 2 ^ 3 = v7 ∧ bits w 31 25 = g0 ∧ bits w 6 4 = g1 ∧ g0 * 2 ^ 25 ≤ w ∧ w < 2 ^ 32 := by
  simp only [place] at h
  unfold bits
  refine ⟨?_, ?_, ?_, ?_, ?_, ?_, ?_, ?_, ?_, ?_, ?_, ?_⟩ <;> omega

theorem shape47 {v0 v1 v2 v3 v4 v5 v6 g0 g1 w : Nat} (hv0 : v0 < 2 ^ 3) (hv1 : v1 < 2 ^ 3) (hv2 : v2 < 2 ^ 4) (hv3 : v3 < 2 ^ 3) (hv4 : v4 < 2 ^ 4) (hv5 : v5 < 2 ^ 1) (hv6 : v6 < 2 ^ 3) (hg0 : g0 < 2 ^ 7) (hg1 : g1 < 2 ^ 4)
    (h : place (g0 * 2 ^ 25 + g1 * 2 ^ 4) [(v0, 22), (v1, 19), (v2, 15), (v3, 12), (v4, 8), (v5, 3), (v6, 0)] = w) :
    w / 2 ^ 22 % 2 ^ 3 = v0 ∧ w / 2 ^ 19 % 2 ^ 3 = v1 ∧ w / 2 ^ 15 % 2 ^ 4 = v2 ∧ w / 2 ^ 12 % 2 ^ 3 = v3 ∧ w / 2 ^ 8 % 2 ^ 4 = v4 ∧ w / 2 ^ 3 % 2 ^ 1 = v5 ∧ w / 2 ^ 0 % 2 ^ 3 = v6 ∧ bits w 31 25 = g0 ∧ bits w 7 4 = g1 ∧ g0 * 2 ^ 25 ≤ w ∧ w < 2 ^ 32 := by
  simp only [place] at h
  unfold bits
  refine ⟨?_, ?_, ?_, ?_, ?_, ?_, ?_, ?_, ?_, ?_, ?_⟩ <;> omega

theorem shape48 {v0 v1 v2 v3 v4 v5 g0 g1 g2 w : Nat} (hv0 : v0 < 2 ^ 3) (hv1 : v1 < 2 ^ 3) (hv2 : v2 < 2 ^ 3) (hv3 : v3 < 2 ^ 4) (hv4 : v4 < 2 ^ 1) (hv5 : v5 < 2 ^ 2) (hg0 : g0 < 2 ^ 7) (hg1 : g1 < 2 ^ 4) (hg2 : g2 < 2 ^ 5)
    (h : place (g0 * 2 ^ 25 + g1 * 2 ^ 15 + g2 * 2 ^ 2) [(v0, 22), (v1, 19), (v2, 12), (v3, 8), (v4, 7), (v5, 0)] = w) :
    w / 2 ^ 22 % 2 ^ 3 = v0 ∧ w / 2 ^ 19 % 2 ^ 3 = v1 ∧ w / 2 ^ 12 % 2 ^ 3 = v2 ∧ w / 2 ^ 8 % 2 ^ 4 = v3 ∧ w / 2 ^ 7 % 2 ^ 1 = v4 ∧ w / 2 ^ 0 % 2 ^ 2 = v5 ∧ bits w 31 25 = g0 ∧ bits w 18 15 = g1 ∧ bits w 6 2 = g2 ∧ g0 * 2 ^ 25 ≤ w ∧ w < 2 ^ 32 := by
  simp only [place] at h
  unfold bits
  refine ⟨?_, ?_, ?_, ?_, ?_, ?_, ?_, ?_, ?_, ?_, ?_⟩ <;> omega

theorem shape49 {v0 v1 v2 v3 v4 g0 g1 g2 w : Nat} (hv0 : v0 < 2 ^ 3) (hv1 : v1 < 2 ^ 3) (hv2 : v2 < 2 ^ 1) (hv3 : v3 < 2 ^ 3) (hv4 : v4 < 2 ^ 4) (hg0 : g0 < 2 ^ 7) (hg1 : g1 < 2 ^ 3) (hg2 : g2 < 2 ^ 8)
    (h : place (g0 * 2 ^ 25 + g1 * 2 ^ 16 + g2 * 2 ^ 0) [(v0, 22), (v1, 19), (v2, 15), (v3, 12), (v4, 8)] = w) :
    w / 2 ^ 22 % 2 ^ 3 = v0 ∧ w / 2 ^ 19 % 2 ^ 3 = v1 ∧ w / 2 ^ 15 % 2 ^ 1 = v2 ∧ w / 2 ^ 12 % 2 ^ 3 = v3 ∧ w / 2 ^ 8 % 2 ^ 4 = v4 ∧ bits w 31 25 = g0 ∧ bits w 18 16 = g1 ∧ bits w 7 0 = g2 ∧ g0 * 2 ^ 25 ≤ w ∧ w < 2 ^ 32 := by
  simp only [place] at h
  unfold bits
  refine ⟨?_, ?_, ?_, ?_, ?_, ?_, ?_, ?_, ?_, ?_⟩ <;> omega

theorem shape50 {v0 v1 v2 g0 g1 g2 w : Nat} (hv0 : v0 < 2 ^ 3) (hv1 : v1 < 2 ^ 3) (hv2 : v2 < 2 ^ 4) (hg0 : g0 < 2 ^ 7) (hg1 : g1 < 2 ^ 7) (hg2 : g2 < 2 ^ 8)
    (h : place (g0 * 2 ^ 25 + g1 * 2 ^ 12 + g2 * 2 ^ 0) [(v0, 22), (v1, 19), (v2, 8)] = w) :
    w / 2 ^ 22 % 2 ^ 3 = v0 ∧ w / 2 ^ 19 % 2 ^ 3 = v1 ∧ w / 2 ^ 8 % 2 ^ 4 = v2 ∧ bits w 31 25 = g0 ∧ bits w 18 12 = g1 ∧ bits w 7 0 = g2 ∧ g0 * 2 ^ 25 ≤ w ∧ w < 2 ^ 32 := by
  simp only [place] at h
  unfold bits
  refine ⟨?_, ?_, ?_, ?_, ?_, ?_, ?_, ?_⟩ <;> omega

theorem shape51 {v0 v1 v2 v3 v4 g0 g1 g2 w : Nat} (hv0 : v0 < 2 ^ 3) (hv1 : v1 < 2 ^ 3) (hv2 : v2 < 2 ^ 3) (hv3 : v3 < 2 ^ 3) (hv4 : v4 < 2 ^ 4) (hg0 : g0 < 2 ^ 7) (hg1 : g1 < 2 ^ 1) (hg2 : g2 < 2 ^ 8)
    (h : place (g0 * 2 ^ 25 + g1 * 2 ^ 18 + g2 * 2 ^ 0) [(v0, 22), (v1, 19), (v2, 15), (v3, 12), (v4, 8)] = w) :
    w / 2 ^ 22 % 2 ^ 3 = v0 ∧ w / 2 ^ 19 % 2 ^ 3 = v1 ∧ w / 2 ^ 15 % 2 ^ 3 = v2 ∧ w / 2 ^ 12 % 2 ^ 3 = v3 ∧ w / 2 ^ 8 % 2 ^ 4 = v4 ∧ bits w 31 25 = g0 ∧ bits w 18 18 = g1 ∧ bits w 7 0 = g2 ∧ g0 * 2 ^ 25 ≤ w ∧ w < 2 ^ 32 := by
  simp only [place] at h
  unfold bits
  refine ⟨?_, ?_, ?_, ?_, ?_, ?_, ?_, ?_, ?_, ?_⟩ <;> omega

theorem shape52 {v0 v1 v2 v3 g0 g1 g2 w : Nat} (hv0 : v0 < 2 ^ 3) (hv1 : v1 < 2 ^ 3) (hv2 : v2 < 2 ^ 3) (hv3 : v3 < 2 ^ 4) (hg0 : g0 < 2 ^ 7) (hg1 : g1 < 2 ^ 4) (hg2 : g2 < 2 ^ 8)
    (h : place (g0 * 2 ^ 25 + g1 * 2 ^ 15 + g2 * 2 ^ 0) [(v0, 22), (v1, 19), (v2, 12), (v3, 8)] = w) :
    w / 2 ^ 22 % 2 ^ 3 = v0 ∧ w / 2 ^ 19 % 2 ^ 3 = v1 ∧ w / 2 ^ 12 % 2 ^ 3 = v2 ∧ w / 2 ^ 8 % 2 ^ 4 = v3 ∧ bits w 31 25 = g0 ∧ bits w 18 15 = g1 ∧ bits w 7 0 = g2 ∧ g0 * 2 ^ 25 ≤ w ∧ w < 2 ^ 32 := by
  simp only [place] at h
  unfold bits
  refine ⟨?_, ?_, ?_, ?_, ?_, ?_, ?_, ?_, ?_⟩ <;> omega

theorem shape53 {v0 v1 v2 v3 v4 v5 v6 g0 g1 w : Nat} (hv0 : v0 < 2 ^ 2) (hv1 : v1 < 2 ^ 3) (hv2 : v2 < 2 ^ 1) (hv3 : v3 < 2 ^ 4) (hv4 : v4 < 2 ^ 4) (hv5 : v5 < 2 ^ 2) (hv6 : v6 < 2 ^ 4) (hg0 : g0 < 2 ^ 7) (hg1 : g1 < 2 ^ 5)
    (h : place (g0 * 2 ^ 25 + g1 * 2 ^ 0) [(v0, 23), (v1, 20), (v2, 19), (v3, 15), (v4, 11), (v5, 9), (v6, 5)] = w) :
    w / 2 ^ 23 % 2 ^ 2 = v0 ∧ w / 2 ^ 20 % 2 ^ 3 = v1 ∧ w / 2 ^ 19 % 2 ^ 1 = v2 ∧ w / 2 ^ 15 % 2 ^ 4 = v3 ∧ w / 2 ^ 11 % 2 ^ 4 = v4 ∧ w / 2 ^ 9 % 2 ^ 2 = v5 ∧ w / 2 ^ 5 % 2 ^ 4 = v6 ∧ bits w 31 25 = g0 ∧ bits w 4 0 = g1 ∧ g0 * 2 ^ 25 ≤ w ∧ w < 2 ^ 32 := by
  simp only [place] at h
  unfold bits
  refine ⟨?_, ?_, ?_, ?_, ?_, ?_, ?_, ?_, ?_, ?_, ?_⟩ <;> omega

theorem shape54 {v0 v1 v2 g0 g1 w : Nat} (hv0 : v0 < 2 ^ 4) (hv1 : v1 < 2 ^ 8) (hv2 : v2 < 2 ^ 4) (hg0 : g0 < 2 ^ 7) (hg1 : g1 < 2 ^ 9)
    (h : place (g0 * 2 ^ 25 + g1 * 2 ^ 0) [(v0, 21), (v1, 13), (v2, 9)] = w) :
    w / 2 ^ 21 % 2 ^ 4 = v0 ∧ w / 2 ^ 13 % 2 ^ 8 = v1 ∧ w / 2 ^ 9 % 2 ^ 4 = v2 ∧ bits w 31 25 = g0 ∧ bits w 8 0 = g1 ∧ g0 * 2 ^ 25 ≤ w ∧ w < 2 ^ 32 := by
  simp only [place] at h
  unfold bits
  refine ⟨?_, ?_, ?_, ?_, ?_, ?_, ?_⟩ <;> omega

theorem shape55 {v0 v1 v2 g0 g1 g2 w : Nat} (hv0 : v0 < 2 ^ 4) (hv1 : v1 < 2 ^ 4) (hv2 : v2 < 2 ^ 3) (hg0 : g0 < 2 ^ 7) (hg1 : g1 < 2 ^ 1) (hg2 : g2 < 2 ^ 13)
    (h : place (g0 * 2 ^ 25 + g1 * 2 ^ 16 + g2 * 2 ^ 0) [(v0, 21), (v1, 17), (v2, 13)] = w) :
    w / 2 ^ 21 % 2 ^ 4 = v0 ∧ w / 2 ^ 17 % 2 ^ 4 = v1 ∧ w / 2 ^ 13 % 2 ^ 3 = v2 ∧ bits w 31 25 = g0 ∧ bits w 16 16 = g1 ∧ bits w 12 0 = g2 ∧ g0 * 2 ^ 25 ≤ w ∧ w < 2 ^ 32 := by
  simp only [place] at h
  unfold bits
  refine ⟨?_, ?_, ?_, ?_, ?_, ?_, ?_, ?_⟩ <;> omega

theorem shape56 {v0 g0 g1 w : Nat} (hv0 : v0 < 2 ^ 4) (hg0 : g0 < 2 ^ 7) (hg1 : g1 < 2 ^ 21)
    (h : place (g0 * 2 ^ 25 + g1 * 2 ^ 0) [(v0, 21)] = w) :
    w / 2 ^ 21 % 2 ^ 4 = v0 ∧ bits w 31 25 = g0 ∧ bits w 20 0 = g1 ∧ g0 * 2 ^ 25 ≤ w ∧ w < 2 ^ 32 := by
  simp only [place] at h
  unfold bits
  refine ⟨?_, ?_, ?_, ?_, ?_⟩ <;> omega

theorem shape57 {v0 g0 g1 w : Nat} (hv0 : v0 < 2 ^ 2) (hg0 : g0 < 2 ^ 9) (hg1 : g1 < 2 ^ 21)
    (h : place (g0 * 2 ^ 23 + g1 * 2 ^ 0) [(v0, 21)] = w) :
    w / 2 ^ 21 % 2 ^ 2 = v0 ∧ bits w 31 23 = g0 ∧ bits w 20 0 = g1 ∧ g0 * 2 ^ 23 ≤ w ∧ w < 2 ^ 32 := by
  simp only [place] at h
  unfold bits
  refine ⟨?_, ?_, ?_, ?_, ?_⟩ <;> omega

theorem shape58 {v0 v1 g0 g1 g2 w : Nat} (hv0 : v0 < 2 ^ 2) (hv1 : v1 < 2 ^ 2) (hg0 : g0 < 2 ^ 9) (hg1 : g1 < 2 ^ 10) (hg2 : g2 < 2 ^ 9)
    (h : place (g0 * 2 ^ 23 + g1 * 2 ^ 11 + g2 * 2 ^ 0) [(v0, 21), (v1, 9)] = w) :
    w / 2 ^ 21 % 2 ^ 2 = v0 ∧ w / 2 ^ 9 % 2 ^ 2 = v1 ∧ bits w 31 23 = g0 ∧ bits w 20 11 = g1 ∧ bits w 8 0 = g2 ∧ g0 * 2 ^ 23 ≤ w ∧ w < 2 ^ 32 := by
  simp only [place] at h
  unfold bits
  refine ⟨?_, ?_, ?_, ?_, ?_, ?_, ?_⟩ <;> omega

theorem shape59 {v0 v1 g0 g1 g2 w : Nat} (hv0 : v0 < 2 ^ 2) (hv1 : v1 < 2 ^ 4) (hg0 : g0 < 2 ^ 9) (hg1 : g1 < 2 ^ 8) (hg2 : g2 < 2 ^ 9)
    (h : place (g0 * 2 ^ 23 + g1 * 2 ^ 13 + g2 * 2 ^ 0) [(v0, 21), (v1, 9)] = w) :
    w / 2 ^ 21 % 2 ^ 2 = v0 ∧ w / 2 ^ 9 % 2 ^ 4 = v1 ∧ bits w 31 23 = g0 ∧ bits w 20 13 = g1 ∧ bits w 8 0 = g2 ∧ g0 * 2 ^ 23 ≤ w ∧ w < 2 ^ 32 := by
  simp only [place] at h
  unfold bits
  refine ⟨?_, ?_, ?_, ?_, ?_, ?_, ?_⟩ <;> omega

theorem shape60 {v0 v1 v2 v3 v4 g0 g1 g2 w : Nat} (hv0 : v0 < 2 ^ 4) (hv1 : v1 < 2 ^ 4) (hv2 : v2 < 2 ^ 1) (hv3 : v3 < 2 ^ 3) (hv4 : v4 < 2 ^ 2) (hg0 : g0 < 2 ^ 7) (hg1 : g1 < 2 ^ 2) (hg2 : g2 < 2 ^ 9)
    (h : place (g0 * 2 ^ 25 + g1 * 2 ^ 11 + g2 * 2 ^ 0) [(v0, 21), (v1, 17), (v2, 16), (v3, 13), (v4, 9)] = w) :
    w / 2 ^ 21 % 2 ^ 4 = v0 ∧ w / 2 ^ 17 % 2 ^ 4 = v1 ∧ w / 2 ^ 16 % 2 ^ 1 = v2 ∧ w / 2 ^ 13 % 2 ^ 3 = v3 ∧ w / 2 ^ 9 % 2 ^ 2 = v4 ∧ bits w 31 25 = g0 ∧ bits w 12 11 = g1 ∧ bits w 8 0 = g2 ∧ g0 * 2 ^ 25 ≤ w ∧ w < 2 ^ 32 := by
  simp only [place] at h
  unfold bits
  refine ⟨?_, ?_, ?_, ?_, ?_, ?_, ?_, ?_, ?_, ?_⟩ <;> omega

theorem shape61 {v0 v1 v2 g0 g1 w : Nat} (hv0 : v0 < 2 ^ 2) (hv1 : v1 < 2 ^ 8) (hv2 : v2 < 2 ^ 4) (hg0 : g0 < 2 ^ 9) (hg1 : g1 < 2 ^ 9)
    (h : place (g0 * 2 ^ 23 + g1 * 2 ^ 0) [(v0, 21), (v1, 13), (v2, 9)] = w) :
    w / 2 ^ 21 % 2 ^ 2 = v0 ∧ w / 2 ^ 13 % 2 ^ 8 = v1 ∧ w / 2 ^ 9 % 2 ^ 4 = v2 ∧ bits w 31 23 = g0 ∧ bits w 8 0 = g1 ∧ g0 * 2 ^ 23 ≤ w ∧ w < 2 ^ 32 := by
  simp only [place] at h
  unfold bits
  refine ⟨?_, ?_, ?_, ?_, ?_, ?_, ?_⟩ <;> omega

theorem shape62 {v0 v1 g0 g1 g2 w : Nat} (hv0 : v0 < 2 ^ 4) (hv1 : v1 < 2 ^ 2) (hg0 : g0 < 2 ^ 7) (hg1 : g1 < 2 ^ 10) (hg2 : g2 < 2 ^ 9)
    (h : place (g0 * 2 ^ 25 + g1 * 2 ^ 11 + g2 * 2 ^ 0) [(v0, 21), (v1, 9)] = w) :
    w / 2 ^ 21 % 2 ^ 4 = v0 ∧ w / 2 ^ 9 % 2 ^ 2 = v1 ∧ bits w 31 25 = g0 ∧ bits w 20 11 = g1 ∧ bits w 8 0 = g2 ∧ g0 * 2 ^ 25 ≤ w ∧ w < 2 ^ 32 := by
  simp only [place] at h
  unfold bits
  refine ⟨?_, ?_, ?_, ?_, ?_, ?_, ?_⟩ <;> omega

theorem shape63 {v0 v1 v2 v3 v4 g0 g1 w : Nat} (hv0 : v0 < 2 ^ 4) (hv1 : v1 < 2 ^ 4) (hv2 : v2 < 2 ^ 4) (hv3 : v3 < 2 ^ 3) (hv4 : v4 < 2 ^ 5) (hg0 : g0 < 2 ^ 7) (hg1 : g1 < 2 ^ 5)
    (h : place (g0 * 2 ^ 25 + g1 * 2 ^ 0) [(v0, 21), (v1, 17), (v2, 13), (v3, 10), (v4, 5)] = w) :
    w / 2 ^ 21 % 2 ^ 4 = v0 ∧ w / 2 ^ 17 % 2 ^ 4 = v1 ∧ w / 2 ^ 13 % 2 ^ 4 = v2 ∧ w / 2 ^ 10 % 2 ^ 3 = v3 ∧ w / 2 ^ 5 % 2 ^ 5 = v4 ∧ bits w 31 25 = g0 ∧ bits w 4 0 = g1 ∧ g0 * 2 ^ 25 ≤ w ∧ w < 2 ^ 32 := by
  simp only [place] at h
  unfold bits
  refine ⟨?_, ?_, ?_, ?_, ?_, ?_, ?_, ?_, ?_⟩ <;> omega

theorem shape64 {v0 v1 g0 g1 g2 w : Nat} (hv0 : v0 < 2 ^ 4) (hv1 : v1 < 2 ^ 3) (hg0 : g0 < 2 ^ 11) (hg1 : g1 < 2 ^ 1) (hg2 : g2 < 2 ^ 13)
    (h : place (g0 * 2 ^ 21 + g1 * 2 ^ 16 + g2 * 2 ^ 0) [(v0, 17), (v1, 13)] = w) :
    w / 2 ^ 17 % 2 ^ 4 = v0 ∧ w / 2 ^ 13 % 2 ^ 3 = v1 ∧ bits w 31 21 = g0 ∧ bits w 16 16 = g1 ∧ bits w 12 0 = g2 ∧ g0 * 2 ^ 21 ≤ w ∧ w < 2 ^ 32 := by
  simp only [place] at h
  unfold bits
  refine ⟨?_, ?_, ?_, ?_, ?_, ?_, ?_⟩ <;> omega

theorem shape65 {v0 v1 v2 g0 g1 w : Nat} (hv0 : v0 < 2 ^ 4) (hv1 : v1 < 2 ^ 4) (hv2 : v2 < 2 ^ 4) (hg0 : g0 < 2 ^ 7) (hg1 : g1 < 2 ^ 13)
    (h : place (g0 * 2 ^ 25 + g1 * 2 ^ 0) [(v0, 21), (v1, 17), (v2, 13)] = w) :
    w / 2 ^ 21 % 2 ^ 4 = v0 ∧ w / 2 ^ 17 % 2 ^ 4 = v1 ∧ w / 2 ^ 13 % 2 ^ 4 = v2 ∧ bits w 31 25 = g0 ∧ bits w 12 0 = g1 ∧ g0 * 2 ^ 25 ≤ w ∧ w < 2 ^ 32 := by
  simp only [place] at h
  unfold bits
  refine ⟨?_, ?_, ?_, ?_, ?_, ?_, ?_⟩ <;> omega

theorem shape66 {v0 v1 g0 g1 g2 w : Nat} (hv0 : v0 < 2 ^ 4) (hv1 : v1 < 2 ^ 4) (hg0 : g0 < 2 ^ 7) (hg1 : g1 < 2 ^ 8) (hg2 : g2 < 2 ^ 9)
    (h : place (g0 * 2 ^ 25 + g1 * 2 ^ 13 + g2 * 2 ^ 0) [(v0, 21), (v1, 9)] = w) :
    w / 2 ^ 21 % 2 ^ 4 = v0 ∧ w / 2 ^ 9 % 2 ^ 4 = v1 ∧ bits w 31 25 = g0 ∧ bits w 20 13 = g1 ∧ bits w 8 0 = g2 ∧ g0 * 2 ^ 25 ≤ w ∧ w < 2 ^ 32 := by
  simp only [place] at h
  unfold bits
  refine ⟨?_, ?_, ?_, ?_, ?_, ?_, ?_⟩ <;> omega

theorem shape67 {v0 v1 v2 g0 g1 g2 g3 w : Nat} (hv0 : v0 < 2 ^ 4) (hv1 : v1 < 2 ^ 4) (hv2 : v2 < 2 ^ 1) (hg0 : g0 < 2 ^ 7) (hg1 : g1 < 2 ^ 8) (hg2 : g2 < 2 ^ 3) (hg3 : g3 < 2 ^ 5)
    (h : place (g0 * 2 ^ 25 + g1 * 2 ^ 13 + g2 * 2 ^ 6 + g3 * 2 ^ 0) [(v0, 21), (v1, 9), (v2, 5)] = w) :
    w / 2 ^ 21 % 2 ^ 4 = v0 ∧ w / 2 ^ 9 % 2 ^ 4 = v1 ∧ w / 2 ^ 5 % 2 ^ 1 = v2 ∧ bits w 31 25 = g0 ∧ bits w 20 13 = g1 ∧ bits w 8 6 = g2 ∧ bits w 4 0 = g3 ∧ g0 * 2 ^ 25 ≤ w ∧ w < 2 ^ 32 := by
  simp only [place] at h
  unfold bits
  refine ⟨?_, ?_, ?_, ?_, ?_, ?_, ?_, ?_, ?_⟩ <;> omega

theorem shape68 {v0 v1 v2 g0 g1 g2 w : Nat} (hv0 : v0 < 2 ^ 4) (hv1 : v1 < 2 ^ 6) (hv2 : v2 < 2 ^ 4) (hg0 : g0 < 2 ^ 7) (hg1 : g1 < 2 ^ 2) (hg2 : g2 < 2 ^ 9)
    (h : place (g0 * 2 ^ 25 + g1 * 2 ^ 19 + g2 * 2 ^ 0) [(v0, 21), (v1, 13), (v2, 9)] = w) :
    w / 2 ^ 21 % 2 ^ 4 = v0 ∧ w / 2 ^ 13 % 2 ^ 6 = v1 ∧ w / 2 ^ 9 % 2 ^ 4 = v2 ∧ bits w 31 25 = g0 ∧ bits w 20 19 = g1 ∧ bits w 8 0 = g2 ∧ g0 * 2 ^ 25 ≤ w ∧ w < 2 ^ 32 := by
  simp only [place] at h
  unfold bits
  refine ⟨?_, ?_, ?_, ?_, ?_, ?_, ?_, ?_⟩ <;> omega

theorem shape69 {v0 v1 g0 g1 g2 w : Nat} (hv0 : v0 < 2 ^ 4) (hv1 : v1 < 2 ^ 4) (hg0 : g0 < 2 ^ 7) (hg1 : g1 < 2 ^ 12) (hg2 : g2 < 2 ^ 5)
    (h : place (g0 * 2 ^ 25 + g1 * 2 ^ 9 + g2 * 2 ^ 0) [(v0, 21), (v1, 5)] = w) :
    w / 2 ^ 21 % 2 ^ 4 = v0 ∧ w / 2 ^ 5 % 2 ^ 4 = v1 ∧ bits w 31 25 = g0 ∧ bits w 20 9 = g1 ∧ bits w 4 0 = g2 ∧ g0 * 2 ^ 25 ≤ w ∧ w < 2 ^ 32 := by
  simp only [place] at h
  unfold bits
  refine ⟨?_, ?_, ?_, ?_, ?_, ?_, ?_⟩ <;> omega

theorem shape70 {v0 v1 v2 v3 g0 g1 w : Nat} (hv0 : v0 < 2 ^ 4) (hv1 : v1 < 2 ^ 8) (hv2 : v2 < 2 ^ 4) (hv3 : v3 < 2 ^ 4) (hg0 : g0 < 2 ^ 7) (hg1 : g1 < 2 ^ 5)
    (h : place (g0 * 2 ^ 25 + g1 * 2 ^ 0) [(v0, 21), (v1, 13), (v2, 9), (v3, 5)] = w) :
    w / 2 ^ 21 % 2 ^ 4 = v0 ∧ w / 2 ^ 13 % 2 ^ 8 = v1 ∧ w / 2 ^ 9 % 2 ^ 4 = v2 ∧ w / 2 ^ 5 % 2 ^ 4 = v3 ∧ bits w 31 25 = g0 ∧ bits w 4 0 = g1 ∧ g0 * 2 ^ 25 ≤ w ∧ w < 2 ^ 32 := by
  simp only [place] at h
  unfold bits
  refine ⟨?_, ?_, ?_, ?_, ?_, ?_, ?_, ?_⟩ <;> omega

theorem shape71 {v0 v1 v2 g0 g1 g2 w : Nat} (hv0 : v0 < 2 ^ 4) (hv1 : v1 < 2 ^ 4) (hv2 : v2 < 2 ^ 4) (hg0 : g0 < 2 ^ 7) (hg1 : g1 < 2 ^ 8) (hg2 : g2 < 2 ^ 5)
    (h : place (g0 * 2 ^ 25 + g1 * 2 ^ 13 + g2 * 2 ^ 0) [(v0, 21), (v1, 9), (v2, 5)] = w) :
    w / 2 ^ 21 % 2 ^ 4 = v0 ∧ w / 2 ^ 9 % 2 ^ 4 = v1 ∧ w / 2 ^ 5 % 2 ^ 4 = v2 ∧ bits w 31 25 = g0 ∧ bits w 20 13 = g1 ∧ bits w 4 0 = g2 ∧ g0 * 2 ^ 25 ≤ w ∧ w < 2 ^ 32 := by
  simp only [place] at h
  unfold bits
  refine ⟨?_, ?_, ?_, ?_, ?_, ?_, ?_, ?_⟩ <;> omega

theorem shape72 {v0 v1 g0 g1 g2 w : Nat} (hv0 : v0 < 2 ^ 4) (hv1 : v1 < 2 ^ 4) (hg0 : g0 < 2 ^ 7) (hg1 : g1 < 2 ^ 4) (hg2 : g2 < 2 ^ 13)
    (h : place (g0 * 2 ^ 25 + g1 * 2 ^ 17 + g2 * 2 ^ 0) [(v0, 21), (v1, 13)] = w) :
    w / 2 ^ 21 % 2 ^ 4 = v0 ∧ w / 2 ^ 13 % 2 ^ 4 = v1 ∧ bits w 31 25 = g0 ∧ bits w 20 17 = g1 ∧ bits w 12 0 = g2 ∧ g0 * 2 ^ 25 ≤ w ∧ w < 2 ^ 32 := by
  simp only [place] at h
  unfold bits
  refine ⟨?_, ?_, ?_, ?_, ?_, ?_, ?_⟩ <;> omega

theorem shape73 {v0 v1 v2 g0 g1 g2 w : Nat} (hv0 : v0 < 2 ^ 4) (hv1 : v1 < 2 ^ 4) (hv2 : v2 < 2 ^ 1) (hg0 : g0 < 2 ^ 11) (hg1 : g1 < 2 ^ 7) (hg2 : g2 < 2 ^ 5)
    (h : place (g0 * 2 ^ 21 + g1 * 2 ^ 6 + g2 * 2 ^ 0) [(v0, 17), (v1, 13), (v2, 5)] = w) :
    w / 2 ^ 17 % 2 ^ 4 = v0 ∧ w / 2 ^ 13 % 2 ^ 4 = v1 ∧ w / 2 ^ 5 % 2 ^ 1 = v2 ∧ bits w 31 21 = g0 ∧ bits w 12 6 = g1 ∧ bits w 4 0 = g2 ∧ g0 * 2 ^ 21 ≤ w ∧ w < 2 ^ 32 := by
  simp only [place] at h
  unfold bits
  refine ⟨?_, ?_, ?_, ?_, ?_, ?_, ?_, ?_⟩ <;> omega

theorem shape74 {v0 v1 g0 w : Nat} (hv0 : v0 < 2 ^ 2) (hv1 : v1 < 2 ^ 24) (hg0 : g0 < 2 ^ 6)
    (h : place (g0 * 2 ^ 26) [(v0, 24), (v1, 0)] = w) :
    w / 2 ^ 24 % 2 ^ 2 = v0 ∧ w / 2 ^ 0 % 2 ^ 24 = v1 ∧ bits w 31 26 = g0 ∧ g0 * 2 ^ 26 ≤ w ∧ w < 2 ^ 32 := by
  simp only [place] at h
  unfold bits
  refine ⟨?_, ?_, ?_, ?_, ?_⟩ <;> omega

theorem shape75 {g0 w : Nat}  (hg0 : g0 < 2 ^ 15)
    (h : place (g0 * 2 ^ 0) [] = w) :
    bits w 14 0 = g0 ∧ g0 * 2 ^ 0 ≤ w ∧ w < 2 ^ 15 := by
  simp only [place] at h
  unfold bits
  refine ⟨?_, ?_, ?_⟩ <;> omega

theorem shape76 {v0 v1 g0 g1 w : Nat} (hv0 : v0 < 2 ^ 4) (hv1 : v1 < 2 ^ 4) (hg0 : g0 < 2 ^ 5) (hg1 : g1 < 2 ^ 2)
    (h : place (g0 * 2 ^ 10 + g1 * 2 ^ 0) [(v0, 6), (v1, 2)] = w) :
    w / 2 ^ 6 % 2 ^ 4 = v0 ∧ w / 2 ^ 2 % 2 ^ 4 = v1 ∧ bits w 14 10 = g0 ∧ bits w 1 0 = g1 ∧ g0 * 2 ^ 10 ≤ w ∧ w < 2 ^ 15 := by
  simp only [place] at h
  unfold bits
  refine ⟨?_, ?_, ?_, ?_, ?_, ?_⟩ <;> omega

theorem shape77 {v0 v1 g0 w : Nat} (hv0 : v0 < 2 ^ 4) (hv1 : v1 < 2 ^ 6) (hg0 : g0 < 2 ^ 5)
    (h : place (g0 * 2 ^ 10) [(v0, 6), (v1, 0)] = w) :
    w / 2 ^ 6 % 2 ^ 4 = v0 ∧ w / 2 ^ 0 % 2 ^ 6 = v1 ∧ bits w 14 10 = g0 ∧ g0 * 2 ^ 10 ≤ w ∧ w < 2 ^ 15 := by
  simp only [place] at h
  unfold bits
  refine ⟨?_, ?_, ?_, ?_, ?_⟩ <;> omega

theorem shape78 {v0 v1 v2 g0 w : Nat} (hv0 : v0 < 2 ^ 4) (hv1 : v1 < 2 ^ 4) (hv2 : v2 < 2 ^ 2) (hg0 : g0 < 2 ^ 5)
    (h : place (g0 * 2 ^ 10) [(v0, 6), (v1, 2), (v2, 0)] = w) :
    w / 2 ^ 6 % 2 ^ 4 = v0 ∧ w / 2 ^ 2 % 2 ^ 4 = v1 ∧ w / 2 ^ 0 % 2 ^ 2 = v2 ∧ bits w 14 10 = g0 ∧ g0 * 2 ^ 10 ≤ w ∧ w < 2 ^ 15 := by
  simp only [place] at h
  unfold bits
  refine ⟨?_, ?_, ?_, ?_, ?_, ?_⟩ <;> omega

theorem shape79 {v0 v1 v2 g0 g1 w : Nat} (hv0 : v0 < 2 ^ 4) (hv1 : v1 < 2 ^ 4) (hv2 : v2 < 2 ^ 1) (hg0 : g0 < 2 ^ 5) (hg1 : g1 < 2 ^ 1)
    (h : place (g0 * 2 ^ 10 + g1 * 2 ^ 1) [(v0, 6), (v1, 2), (v2, 0)] = w) :
    w / 2 ^ 6 % 2 ^ 4 = v0 ∧ w / 2 ^ 2 % 2 ^ 4 = v1 ∧ w / 2 ^ 0 % 2 ^ 1 = v2 ∧ bits w 14 10 = g0 ∧ bits w 1 1 = g1 ∧ g0 * 2 ^ 10 ≤ w ∧ w < 2 ^ 15 := by
  simp only [place] at h
  unfold bits
  refine ⟨?_, ?_, ?_, ?_, ?_, ?_, ?_⟩ <;> omega

theorem at_decodeAlu {w : Nat} (h : bits w 30 25 = 0) : decode32 w = decodeAlu w := by unfold decode32; rw [h]; rfl
theorem at_decodeFlt {w : Nat} (h : bits w 30 25 = 1) : decode32 w = decodeFlt w := by unfold decode32; rw [h]; rfl
theorem at_decodeShi {w : Nat} (h : bits w 30 25 = 6) : decode32 w = decodeShi w := by unfold decode32; rw [h]; rfl
theorem at_decodeBitf {w : Nat} (h : bits w 30 25 = 7) : decode32 w = decodeBitf w := by unfold decode32; rw [h]; rfl
theorem at_decodeCsr {w : Nat} (h : bits w 30 25 = 11) : decode32 w = decodeCsr w := by unfold decode32; rw [h]; rfl
theorem at_decodeSys {w : Nat} (h : bits w 30 25 = 20) : decode32 w = decodeSys w := by unfold decode32; rw [h]; rfl
theorem at_decodeMidx {w : Nat} (h : bits w 30 25 = 34) : decode32 w = decodeMidx w := by unfold decode32; rw [h]; rfl
theorem at_decodeAmo {w : Nat} (h : bits w 30 25 = 35) : decode32 w = decodeAmo w := by unfold decode32; rw [h]; rfl
theorem at_decodeFe {w : Nat} (h : bits w 30 25 = 36) : decode32 w = decodeFe w := by unfold decode32; rw [h]; rfl
theorem at_decodeMctl {w : Nat} (h : bits w 30 25 = 37) : decode32 w = decodeMctl w := by unfold decode32; rw [h]; rfl
theorem at_decodeTmem {w : Nat} (h : bits w 30 25 = 38) : decode32 w = decodeTmem w := by unfold decode32; rw [h]; rfl
theorem at_decodeTop {w : Nat} (h : bits w 30 25 = 39) : decode32 w = decodeTop w := by unfold decode32; rw [h]; rfl
theorem at_decodeMma {w : Nat} (h : bits w 30 25 = 40) : decode32 w = decodeMma w := by unfold decode32; rw [h]; rfl
theorem at_decodeMx {w : Nat} (h : bits w 30 25 = 41) : decode32 w = decodeMx w := by unfold decode32; rw [h]; rfl
theorem at_decodeEng {w : Nat} (h : bits w 30 25 = 42) : decode32 w = decodeEng w := by unfold decode32; rw [h]; rfl
theorem at_decodeSync {w : Nat} (h : bits w 30 25 = 43) : decode32 w = decodeSync w := by unfold decode32; rw [h]; rfl
theorem at_decodeSheet {w : Nat} (h : bits w 30 25 = 44) : decode32 w = decodeSheet w := by unfold decode32; rw [h]; rfl
theorem at_decodeSuffix {w : Nat} (h : bits w 30 25 = 45) : decode32 w = decodeSuffix w := by unfold decode32; rw [h]; rfl
theorem at_decodeRgn {w : Nat} (h : bits w 30 25 = 46) : decode32 w = decodeRgn w := by unfold decode32; rw [h]; rfl

end Sys2Proof.Laws.RoundTrip

open Sys2Proof Sys2Proof.Laws.RoundTrip

theorem Sys2Proof.Laws.RoundTrip.add (d : BitVec 4) (a : BitVec 4) (k : BitVec 1) (b : BitVec 6) : Statement (.add d a k b) := by
  intro hw _
  obtain ⟨x0, hv⟩ : ∃ x0, place 0x80000000 [(d.toNat, 21), (a.toNat, 17), (k.toNat, 16), (b.toNat, 10)] = x0 := ⟨_, rfl⟩
  obtain ⟨f_d, f_a, f_k, f_b, g0, g1, lb, ub⟩ := shape0 d.isLt a.isLt k.isLt b.isLt (show 64 < _ by decide) (show 0 < _ by decide) hv
  refine trip32 x0 hv rfl ⟨Nat.le_trans (by decide) lb, ub⟩ ?_
  have q : bits x0 30 25 = 0 := bits_sub g0 (by decide) (by decide)
  rw [at_decodeAlu q]
  have q0 : bits x0 9 2 = 0 := bits_sub g1 (by decide) (by decide)
  have q1 : bits x0 9 0 = 0 := g1
  have hd : decodeAlu x0 = form x0 [] (.add (fld x0 21) (fld x0 17) (fld x0 16) (fld x0 10)) := by unfold decodeAlu; rw [q0, q1]; rfl
  rw [hd, fld_eq _ _ _ f_d, fld_eq _ _ _ f_a, fld_eq _ _ _ f_k, fld_eq _ _ _ f_b]
  exact form_ok (rfl) hw

theorem Sys2Proof.Laws.RoundTrip.sub (d : BitVec 4) (a : BitVec 4) (k : BitVec 1) (b : BitVec 6) : Statement (.sub d a k b) := by
  intro hw _
  obtain ⟨x0, hv⟩ : ∃ x0, place 0x80000001 [(d.toNat, 21), (a.toNat, 17), (k.toNat, 16), (b.toNat, 10)] = x0 := ⟨_, rfl⟩
  obtain ⟨f_d, f_a, f_k, f_b, g0, g1, lb, ub⟩ := shape0 d.isLt a.isLt k.isLt b.isLt (show 64 < _ by decide) (show 1 < _ by decide) hv
  refine trip32 x0 hv rfl ⟨Nat.le_trans (by decide) lb, ub⟩ ?_
  have q : bits x0 30 25 = 0 := bits_sub g0 (by decide) (by decide)
  rw [at_decodeAlu q]
  have q0 : bits x0 9 2 = 0 := bits_sub g1 (by decide) (by decide)
  have q1 : bits x0 9 0 = 1 := g1
  have hd : decodeAlu x0 = form x0 [] (.sub (fld x0 21) (fld x0 17) (fld x0 16) (fld x0 10)) := by unfold decodeAlu; rw [q0, q1]; rfl
  rw [hd, fld_eq _ _ _ f_d, fld_eq _ _ _ f_a, fld_eq _ _ _ f_k, fld_eq _ _ _ f_b]
  exact form_ok (rfl) hw

theorem Sys2Proof.Laws.RoundTrip.mul (d : BitVec 4) (a : BitVec 4) (k : BitVec 1) (b : BitVec 6) : Statement (.mul d a k b) := by
  intro hw _
  obtain ⟨x0, hv⟩ : ∃ x0, place 0x80000002 [(d.toNat, 21), (a.toNat, 17), (k.toNat, 16), (b.toNat, 10)] = x0 := ⟨_, rfl⟩
  obtain ⟨f_d, f_a, f_k, f_b, g0, g1, lb, ub⟩ := shape0 d.isLt a.isLt k.isLt b.isLt (show 64 < _ by decide) (show 2 < _ by decide) hv
  refine trip32 x0 hv rfl ⟨Nat.le_trans (by decide) lb, ub⟩ ?_
  have q : bits x0 30 25 = 0 := bits_sub g0 (by decide) (by decide)
  rw [at_decodeAlu q]
  have q0 : bits x0 9 2 = 0 := bits_sub g1 (by decide) (by decide)
  have q1 : bits x0 9 0 = 2 := g1
  have hd : decodeAlu x0 = form x0 [] (.mul (fld x0 21) (fld x0 17) (fld x0 16) (fld x0 10)) := by unfold decodeAlu; rw [q0, q1]; rfl
  rw [hd, fld_eq _ _ _ f_d, fld_eq _ _ _ f_a, fld_eq _ _ _ f_k, fld_eq _ _ _ f_b]
  exact form_ok (rfl) hw

theorem Sys2Proof.Laws.RoundTrip.mulh (d : BitVec 4) (a : BitVec 4) (k : BitVec 1) (b : BitVec 6) : Statement (.mulh d a k b) := by
  intro hw _
  obtain ⟨x0, hv⟩ : ∃ x0, place 0x80000003 [(d.toNat, 21), (a.toNat, 17), (k.toNat, 16), (b.toNat, 10)] = x0 := ⟨_, rfl⟩
  obtain ⟨f_d, f_a, f_k, f_b, g0, g1, lb, ub⟩ := shape0 d.isLt a.isLt k.isLt b.isLt (show 64 < _ by decide) (show 3 < _ by decide) hv
  refine trip32 x0 hv rfl ⟨Nat.le_trans (by decide) lb, ub⟩ ?_
  have q : bits x0 30 25 = 0 := bits_sub g0 (by decide) (by decide)
  rw [at_decodeAlu q]
  have q0 : bits x0 9 2 = 0 := bits_sub g1 (by decide) (by decide)
  have q1 : bits x0 9 0 = 3 := g1
  have hd : decodeAlu x0 = form x0 [] (.mulh (fld x0 21) (fld x0 17) (fld x0 16) (fld x0 10)) := by unfold decodeAlu; rw [q0, q1]; rfl
  rw [hd, fld_eq _ _ _ f_d, fld_eq _ _ _ f_a, fld_eq _ _ _ f_k, fld_eq _ _ _ f_b]
  exact form_ok (rfl) hw

theorem Sys2Proof.Laws.RoundTrip.mulhu (d : BitVec 4) (a : BitVec 4) (k : BitVec 1) (b : BitVec 6) : Statement (.mulhu d a k b) := by
  intro hw _
  obtain ⟨x0, hv⟩ : ∃ x0, place 0x80000004 [(d.toNat, 21), (a.toNat, 17), (k.toNat, 16), (b.toNat, 10)] = x0 := ⟨_, rfl⟩
  obtain ⟨f_d, f_a, f_k, f_b, g0, g1, lb, ub⟩ := shape0 d.isLt a.isLt k.isLt b.isLt (show 64 < _ by decide) (show 4 < _ by decide) hv
  refine trip32 x0 hv rfl ⟨Nat.le_trans (by decide) lb, ub⟩ ?_
  have q : bits x0 30 25 = 0 := bits_sub g0 (by decide) (by decide)
  rw [at_decodeAlu q]
  have q0 : bits x0 9 2 = 1 := bits_sub g1 (by decide) (by decide)
  have q1 : bits x0 9 0 = 4 := g1
  have hd : decodeAlu x0 = form x0 [] (.mulhu (fld x0 21) (fld x0 17) (fld x0 16) (fld x0 10)) := by unfold decodeAlu; rw [q0, q1]; rfl
  rw [hd, fld_eq _ _ _ f_d, fld_eq _ _ _ f_a, fld_eq _ _ _ f_k, fld_eq _ _ _ f_b]
  exact form_ok (rfl) hw

theorem Sys2Proof.Laws.RoundTrip.div (d : BitVec 4) (a : BitVec 4) (k : BitVec 1) (b : BitVec 6) : Statement (.div d a k b) := by
  intro hw _
  obtain ⟨x0, hv⟩ : ∃ x0, place 0x80000005 [(d.toNat, 21), (a.toNat, 17), (k.toNat, 16), (b.toNat, 10)] = x0 := ⟨_, rfl⟩
  obtain ⟨f_d, f_a, f_k, f_b, g0, g1, lb, ub⟩ := shape0 d.isLt a.isLt k.isLt b.isLt (show 64 < _ by decide) (show 5 < _ by decide) hv
  refine trip32 x0 hv rfl ⟨Nat.le_trans (by decide) lb, ub⟩ ?_
  have q : bits x0 30 25 = 0 := bits_sub g0 (by decide) (by decide)
  rw [at_decodeAlu q]
  have q0 : bits x0 9 2 = 1 := bits_sub g1 (by decide) (by decide)
  have q1 : bits x0 9 0 = 5 := g1
  have hd : decodeAlu x0 = form x0 [] (.div (fld x0 21) (fld x0 17) (fld x0 16) (fld x0 10)) := by unfold decodeAlu; rw [q0, q1]; rfl
  rw [hd, fld_eq _ _ _ f_d, fld_eq _ _ _ f_a, fld_eq _ _ _ f_k, fld_eq _ _ _ f_b]
  exact form_ok (rfl) hw

theorem Sys2Proof.Laws.RoundTrip.divu (d : BitVec 4) (a : BitVec 4) (k : BitVec 1) (b : BitVec 6) : Statement (.divu d a k b) := by
  intro hw _
  obtain ⟨x0, hv⟩ : ∃ x0, place 0x80000006 [(d.toNat, 21), (a.toNat, 17), (k.toNat, 16), (b.toNat, 10)] = x0 := ⟨_, rfl⟩
  obtain ⟨f_d, f_a, f_k, f_b, g0, g1, lb, ub⟩ := shape0 d.isLt a.isLt k.isLt b.isLt (show 64 < _ by decide) (show 6 < _ by decide) hv
  refine trip32 x0 hv rfl ⟨Nat.le_trans (by decide) lb, ub⟩ ?_
  have q : bits x0 30 25 = 0 := bits_sub g0 (by decide) (by decide)
  rw [at_decodeAlu q]
  have q0 : bits x0 9 2 = 1 := bits_sub g1 (by decide) (by decide)
  have q1 : bits x0 9 0 = 6 := g1
  have hd : decodeAlu x0 = form x0 [] (.divu (fld x0 21) (fld x0 17) (fld x0 16) (fld x0 10)) := by unfold decodeAlu; rw [q0, q1]; rfl
  rw [hd, fld_eq _ _ _ f_d, fld_eq _ _ _ f_a, fld_eq _ _ _ f_k, fld_eq _ _ _ f_b]
  exact form_ok (rfl) hw

theorem Sys2Proof.Laws.RoundTrip.rem (d : BitVec 4) (a : BitVec 4) (k : BitVec 1) (b : BitVec 6) : Statement (.rem d a k b) := by
  intro hw _
  obtain ⟨x0, hv⟩ : ∃ x0, place 0x80000007 [(d.toNat, 21), (a.toNat, 17), (k.toNat, 16), (b.toNat, 10)] = x0 := ⟨_, rfl⟩
  obtain ⟨f_d, f_a, f_k, f_b, g0, g1, lb, ub⟩ := shape0 d.isLt a.isLt k.isLt b.isLt (show 64 < _ by decide) (show 7 < _ by decide) hv
  refine trip32 x0 hv rfl ⟨Nat.le_trans (by decide) lb, ub⟩ ?_
  have q : bits x0 30 25 = 0 := bits_sub g0 (by decide) (by decide)
  rw [at_decodeAlu q]
  have q0 : bits x0 9 2 = 1 := bits_sub g1 (by decide) (by decide)
  have q1 : bits x0 9 0 = 7 := g1
  have hd : decodeAlu x0 = form x0 [] (.rem (fld x0 21) (fld x0 17) (fld x0 16) (fld x0 10)) := by unfold decodeAlu; rw [q0, q1]; rfl
  rw [hd, fld_eq _ _ _ f_d, fld_eq _ _ _ f_a, fld_eq _ _ _ f_k, fld_eq _ _ _ f_b]
  exact form_ok (rfl) hw

theorem Sys2Proof.Laws.RoundTrip.remu (d : BitVec 4) (a : BitVec 4) (k : BitVec 1) (b : BitVec 6) : Statement (.remu d a k b) := by
  intro hw _
  obtain ⟨x0, hv⟩ : ∃ x0, place 0x80000008 [(d.toNat, 21), (a.toNat, 17), (k.toNat, 16), (b.toNat, 10)] = x0 := ⟨_, rfl⟩
  obtain ⟨f_d, f_a, f_k, f_b, g0, g1, lb, ub⟩ := shape0 d.isLt a.isLt k.isLt b.isLt (show 64 < _ by decide) (show 8 < _ by decide) hv
  refine trip32 x0 hv rfl ⟨Nat.le_trans (by decide) lb, ub⟩ ?_
  have q : bits x0 30 25 = 0 := bits_sub g0 (by decide) (by decide)
  rw [at_decodeAlu q]
  have q0 : bits x0 9 2 = 2 := bits_sub g1 (by decide) (by decide)
  have q1 : bits x0 9 0 = 8 := g1
  have hd : decodeAlu x0 = form x0 [] (.remu (fld x0 21) (fld x0 17) (fld x0 16) (fld x0 10)) := by unfold decodeAlu; rw [q0, q1]; rfl
  rw [hd, fld_eq _ _ _ f_d, fld_eq _ _ _ f_a, fld_eq _ _ _ f_k, fld_eq _ _ _ f_b]
  exact form_ok (rfl) hw

theorem Sys2Proof.Laws.RoundTrip.and (d : BitVec 4) (a : BitVec 4) (k : BitVec 1) (b : BitVec 6) : Statement (.and d a k b) := by
  intro hw _
  obtain ⟨x0, hv⟩ : ∃ x0, place 0x80000009 [(d.toNat, 21), (a.toNat, 17), (k.toNat, 16), (b.toNat, 10)] = x0 := ⟨_, rfl⟩
  obtain ⟨f_d, f_a, f_k, f_b, g0, g1, lb, ub⟩ := shape0 d.isLt a.isLt k.isLt b.isLt (show 64 < _ by decide) (show 9 < _ by decide) hv
  refine trip32 x0 hv rfl ⟨Nat.le_trans (by decide) lb, ub⟩ ?_
  have q : bits x0 30 25 = 0 := bits_sub g0 (by decide) (by decide)
  rw [at_decodeAlu q]
  have q0 : bits x0 9 2 = 2 := bits_sub g1 (by decide) (by decide)
  have q1 : bits x0 9 0 = 9 := g1
  have hd : decodeAlu x0 = form x0 [] (.and (fld x0 21) (fld x0 17) (fld x0 16) (fld x0 10)) := by unfold decodeAlu; rw [q0, q1]; rfl
  rw [hd, fld_eq _ _ _ f_d, fld_eq _ _ _ f_a, fld_eq _ _ _ f_k, fld_eq _ _ _ f_b]
  exact form_ok (rfl) hw

theorem Sys2Proof.Laws.RoundTrip.or (d : BitVec 4) (a : BitVec 4) (k : BitVec 1) (b : BitVec 6) : Statement (.or d a k b) := by
  intro hw _
  obtain ⟨x0, hv⟩ : ∃ x0, place 0x8000000a [(d.toNat, 21), (a.toNat, 17), (k.toNat, 16), (b.toNat, 10)] = x0 := ⟨_, rfl⟩
  obtain ⟨f_d, f_a, f_k, f_b, g0, g1, lb, ub⟩ := shape0 d.isLt a.isLt k.isLt b.isLt (show 64 < _ by decide) (show 10 < _ by decide) hv
  refine trip32 x0 hv rfl ⟨Nat.le_trans (by decide) lb, ub⟩ ?_
  have q : bits x0 30 25 = 0 := bits_sub g0 (by decide) (by decide)
  rw [at_decodeAlu q]
  have q0 : bits x0 9 2 = 2 := bits_sub g1 (by decide) (by decide)
  have q1 : bits x0 9 0 = 10 := g1
  have hd : decodeAlu x0 = form x0 [] (.or (fld x0 21) (fld x0 17) (fld x0 16) (fld x0 10)) := by unfold decodeAlu; rw [q0, q1]; rfl
  rw [hd, fld_eq _ _ _ f_d, fld_eq _ _ _ f_a, fld_eq _ _ _ f_k, fld_eq _ _ _ f_b]
  exact form_ok (rfl) hw

theorem Sys2Proof.Laws.RoundTrip.xor (d : BitVec 4) (a : BitVec 4) (k : BitVec 1) (b : BitVec 6) : Statement (.xor d a k b) := by
  intro hw _
  obtain ⟨x0, hv⟩ : ∃ x0, place 0x8000000b [(d.toNat, 21), (a.toNat, 17), (k.toNat, 16), (b.toNat, 10)] = x0 := ⟨_, rfl⟩
  obtain ⟨f_d, f_a, f_k, f_b, g0, g1, lb, ub⟩ := shape0 d.isLt a.isLt k.isLt b.isLt (show 64 < _ by decide) (show 11 < _ by decide) hv
  refine trip32 x0 hv rfl ⟨Nat.le_trans (by decide) lb, ub⟩ ?_
  have q : bits x0 30 25 = 0 := bits_sub g0 (by decide) (by decide)
  rw [at_decodeAlu q]
  have q0 : bits x0 9 2 = 2 := bits_sub g1 (by decide) (by decide)
  have q1 : bits x0 9 0 = 11 := g1
  have hd : decodeAlu x0 = form x0 [] (.xor (fld x0 21) (fld x0 17) (fld x0 16) (fld x0 10)) := by unfold decodeAlu; rw [q0, q1]; rfl
  rw [hd, fld_eq _ _ _ f_d, fld_eq _ _ _ f_a, fld_eq _ _ _ f_k, fld_eq _ _ _ f_b]
  exact form_ok (rfl) hw

theorem Sys2Proof.Laws.RoundTrip.shl (d : BitVec 4) (a : BitVec 4) (k : BitVec 1) (b : BitVec 6) : Statement (.shl d a k b) := by
  intro hw _
  obtain ⟨x0, hv⟩ : ∃ x0, place 0x8000000c [(d.toNat, 21), (a.toNat, 17), (k.toNat, 16), (b.toNat, 10)] = x0 := ⟨_, rfl⟩
  obtain ⟨f_d, f_a, f_k, f_b, g0, g1, lb, ub⟩ := shape0 d.isLt a.isLt k.isLt b.isLt (show 64 < _ by decide) (show 12 < _ by decide) hv
  refine trip32 x0 hv rfl ⟨Nat.le_trans (by decide) lb, ub⟩ ?_
  have q : bits x0 30 25 = 0 := bits_sub g0 (by decide) (by decide)
  rw [at_decodeAlu q]
  have q0 : bits x0 9 2 = 3 := bits_sub g1 (by decide) (by decide)
  have q1 : bits x0 9 0 = 12 := g1
  have hd : decodeAlu x0 = form x0 [] (.shl (fld x0 21) (fld x0 17) (fld x0 16) (fld x0 10)) := by unfold decodeAlu; rw [q0, q1]; rfl
  rw [hd, fld_eq _ _ _ f_d, fld_eq _ _ _ f_a, fld_eq _ _ _ f_k, fld_eq _ _ _ f_b]
  exact form_ok (rfl) hw

theorem Sys2Proof.Laws.RoundTrip.shr (d : BitVec 4) (a : BitVec 4) (k : BitVec 1) (b : BitVec 6) : Statement (.shr d a k b) := by
  intro hw _
  obtain ⟨x0, hv⟩ : ∃ x0, place 0x8000000d [(d.toNat, 21), (a.toNat, 17), (k.toNat, 16), (b.toNat, 10)] = x0 := ⟨_, rfl⟩
  obtain ⟨f_d, f_a, f_k, f_b, g0, g1, lb, ub⟩ := shape0 d.isLt a.isLt k.isLt b.isLt (show 64 < _ by decide) (show 13 < _ by decide) hv
  refine trip32 x0 hv rfl ⟨Nat.le_trans (by decide) lb, ub⟩ ?_
  have q : bits x0 30 25 = 0 := bits_sub g0 (by decide) (by decide)
  rw [at_decodeAlu q]
  have q0 : bits x0 9 2 = 3 := bits_sub g1 (by decide) (by decide)
  have q1 : bits x0 9 0 = 13 := g1
  have hd : decodeAlu x0 = form x0 [] (.shr (fld x0 21) (fld x0 17) (fld x0 16) (fld x0 10)) := by unfold decodeAlu; rw [q0, q1]; rfl
  rw [hd, fld_eq _ _ _ f_d, fld_eq _ _ _ f_a, fld_eq _ _ _ f_k, fld_eq _ _ _ f_b]
  exact form_ok (rfl) hw

theorem Sys2Proof.Laws.RoundTrip.sha (d : BitVec 4) (a : BitVec 4) (k : BitVec 1) (b : BitVec 6) : Statement (.sha d a k b) := by
  intro hw _
  obtain ⟨x0, hv⟩ : ∃ x0, place 0x8000000e [(d.toNat, 21), (a.toNat, 17), (k.toNat, 16), (b.toNat, 10)] = x0 := ⟨_, rfl⟩
  obtain ⟨f_d, f_a, f_k, f_b, g0, g1, lb, ub⟩ := shape0 d.isLt a.isLt k.isLt b.isLt (show 64 < _ by decide) (show 14 < _ by decide) hv
  refine trip32 x0 hv rfl ⟨Nat.le_trans (by decide) lb, ub⟩ ?_
  have q : bits x0 30 25 = 0 := bits_sub g0 (by decide) (by decide)
  rw [at_decodeAlu q]
  have q0 : bits x0 9 2 = 3 := bits_sub g1 (by decide) (by decide)
  have q1 : bits x0 9 0 = 14 := g1
  have hd : decodeAlu x0 = form x0 [] (.sha (fld x0 21) (fld x0 17) (fld x0 16) (fld x0 10)) := by unfold decodeAlu; rw [q0, q1]; rfl
  rw [hd, fld_eq _ _ _ f_d, fld_eq _ _ _ f_a, fld_eq _ _ _ f_k, fld_eq _ _ _ f_b]
  exact form_ok (rfl) hw

theorem Sys2Proof.Laws.RoundTrip.rot (d : BitVec 4) (a : BitVec 4) (k : BitVec 1) (b : BitVec 6) : Statement (.rot d a k b) := by
  intro hw _
  obtain ⟨x0, hv⟩ : ∃ x0, place 0x8000000f [(d.toNat, 21), (a.toNat, 17), (k.toNat, 16), (b.toNat, 10)] = x0 := ⟨_, rfl⟩
  obtain ⟨f_d, f_a, f_k, f_b, g0, g1, lb, ub⟩ := shape0 d.isLt a.isLt k.isLt b.isLt (show 64 < _ by decide) (show 15 < _ by decide) hv
  refine trip32 x0 hv rfl ⟨Nat.le_trans (by decide) lb, ub⟩ ?_
  have q : bits x0 30 25 = 0 := bits_sub g0 (by decide) (by decide)
  rw [at_decodeAlu q]
  have q0 : bits x0 9 2 = 3 := bits_sub g1 (by decide) (by decide)
  have q1 : bits x0 9 0 = 15 := g1
  have hd : decodeAlu x0 = form x0 [] (.rot (fld x0 21) (fld x0 17) (fld x0 16) (fld x0 10)) := by unfold decodeAlu; rw [q0, q1]; rfl
  rw [hd, fld_eq _ _ _ f_d, fld_eq _ _ _ f_a, fld_eq _ _ _ f_k, fld_eq _ _ _ f_b]
  exact form_ok (rfl) hw

theorem Sys2Proof.Laws.RoundTrip.min (d : BitVec 4) (a : BitVec 4) (k : BitVec 1) (b : BitVec 6) : Statement (.min d a k b) := by
  intro hw _
  obtain ⟨x0, hv⟩ : ∃ x0, place 0x80000010 [(d.toNat, 21), (a.toNat, 17), (k.toNat, 16), (b.toNat, 10)] = x0 := ⟨_, rfl⟩
  obtain ⟨f_d, f_a, f_k, f_b, g0, g1, lb, ub⟩ := shape0 d.isLt a.isLt k.isLt b.isLt (show 64 < _ by decide) (show 16 < _ by decide) hv
  refine trip32 x0 hv rfl ⟨Nat.le_trans (by decide) lb, ub⟩ ?_
  have q : bits x0 30 25 = 0 := bits_sub g0 (by decide) (by decide)
  rw [at_decodeAlu q]
  have q0 : bits x0 9 2 = 4 := bits_sub g1 (by decide) (by decide)
  have q1 : bits x0 9 0 = 16 := g1
  have hd : decodeAlu x0 = form x0 [] (.min (fld x0 21) (fld x0 17) (fld x0 16) (fld x0 10)) := by unfold decodeAlu; rw [q0, q1]; rfl
  rw [hd, fld_eq _ _ _ f_d, fld_eq _ _ _ f_a, fld_eq _ _ _ f_k, fld_eq _ _ _ f_b]
  exact form_ok (rfl) hw

theorem Sys2Proof.Laws.RoundTrip.max (d : BitVec 4) (a : BitVec 4) (k : BitVec 1) (b : BitVec 6) : Statement (.max d a k b) := by
  intro hw _
  obtain ⟨x0, hv⟩ : ∃ x0, place 0x80000011 [(d.toNat, 21), (a.toNat, 17), (k.toNat, 16), (b.toNat, 10)] = x0 := ⟨_, rfl⟩
  obtain ⟨f_d, f_a, f_k, f_b, g0, g1, lb, ub⟩ := shape0 d.isLt a.isLt k.isLt b.isLt (show 64 < _ by decide) (show 17 < _ by decide) hv
  refine trip32 x0 hv rfl ⟨Nat.le_trans (by decide) lb, ub⟩ ?_
  have q : bits x0 30 25 = 0 := bits_sub g0 (by decide) (by decide)
  rw [at_decodeAlu q]
  have q0 : bits x0 9 2 = 4 := bits_sub g1 (by decide) (by decide)
  have q1 : bits x0 9 0 = 17 := g1
  have hd : decodeAlu x0 = form x0 [] (.max (fld x0 21) (fld x0 17) (fld x0 16) (fld x0 10)) := by unfold decodeAlu; rw [q0, q1]; rfl
  rw [hd, fld_eq _ _ _ f_d, fld_eq _ _ _ f_a, fld_eq _ _ _ f_k, fld_eq _ _ _ f_b]
  exact form_ok (rfl) hw

theorem Sys2Proof.Laws.RoundTrip.minu (d : BitVec 4) (a : BitVec 4) (k : BitVec 1) (b : BitVec 6) : Statement (.minu d a k b) := by
  intro hw _
  obtain ⟨x0, hv⟩ : ∃ x0, place 0x80000012 [(d.toNat, 21), (a.toNat, 17), (k.toNat, 16), (b.toNat, 10)] = x0 := ⟨_, rfl⟩
  obtain ⟨f_d, f_a, f_k, f_b, g0, g1, lb, ub⟩ := shape0 d.isLt a.isLt k.isLt b.isLt (show 64 < _ by decide) (show 18 < _ by decide) hv
  refine trip32 x0 hv rfl ⟨Nat.le_trans (by decide) lb, ub⟩ ?_
  have q : bits x0 30 25 = 0 := bits_sub g0 (by decide) (by decide)
  rw [at_decodeAlu q]
  have q0 : bits x0 9 2 = 4 := bits_sub g1 (by decide) (by decide)
  have q1 : bits x0 9 0 = 18 := g1
  have hd : decodeAlu x0 = form x0 [] (.minu (fld x0 21) (fld x0 17) (fld x0 16) (fld x0 10)) := by unfold decodeAlu; rw [q0, q1]; rfl
  rw [hd, fld_eq _ _ _ f_d, fld_eq _ _ _ f_a, fld_eq _ _ _ f_k, fld_eq _ _ _ f_b]
  exact form_ok (rfl) hw

theorem Sys2Proof.Laws.RoundTrip.maxu (d : BitVec 4) (a : BitVec 4) (k : BitVec 1) (b : BitVec 6) : Statement (.maxu d a k b) := by
  intro hw _
  obtain ⟨x0, hv⟩ : ∃ x0, place 0x80000013 [(d.toNat, 21), (a.toNat, 17), (k.toNat, 16), (b.toNat, 10)] = x0 := ⟨_, rfl⟩
  obtain ⟨f_d, f_a, f_k, f_b, g0, g1, lb, ub⟩ := shape0 d.isLt a.isLt k.isLt b.isLt (show 64 < _ by decide) (show 19 < _ by decide) hv
  refine trip32 x0 hv rfl ⟨Nat.le_trans (by decide) lb, ub⟩ ?_
  have q : bits x0 30 25 = 0 := bits_sub g0 (by decide) (by decide)
  rw [at_decodeAlu q]
  have q0 : bits x0 9 2 = 4 := bits_sub g1 (by decide) (by decide)
  have q1 : bits x0 9 0 = 19 := g1
  have hd : decodeAlu x0 = form x0 [] (.maxu (fld x0 21) (fld x0 17) (fld x0 16) (fld x0 10)) := by unfold decodeAlu; rw [q0, q1]; rfl
  rw [hd, fld_eq _ _ _ f_d, fld_eq _ _ _ f_a, fld_eq _ _ _ f_k, fld_eq _ _ _ f_b]
  exact form_ok (rfl) hw

theorem Sys2Proof.Laws.RoundTrip.slt (d : BitVec 4) (a : BitVec 4) (k : BitVec 1) (b : BitVec 6) : Statement (.slt d a k b) := by
  intro hw _
  obtain ⟨x0, hv⟩ : ∃ x0, place 0x80000014 [(d.toNat, 21), (a.toNat, 17), (k.toNat, 16), (b.toNat, 10)] = x0 := ⟨_, rfl⟩
  obtain ⟨f_d, f_a, f_k, f_b, g0, g1, lb, ub⟩ := shape0 d.isLt a.isLt k.isLt b.isLt (show 64 < _ by decide) (show 20 < _ by decide) hv
  refine trip32 x0 hv rfl ⟨Nat.le_trans (by decide) lb, ub⟩ ?_
  have q : bits x0 30 25 = 0 := bits_sub g0 (by decide) (by decide)
  rw [at_decodeAlu q]
  have q0 : bits x0 9 2 = 5 := bits_sub g1 (by decide) (by decide)
  have q1 : bits x0 9 0 = 20 := g1
  have hd : decodeAlu x0 = form x0 [] (.slt (fld x0 21) (fld x0 17) (fld x0 16) (fld x0 10)) := by unfold decodeAlu; rw [q0, q1]; rfl
  rw [hd, fld_eq _ _ _ f_d, fld_eq _ _ _ f_a, fld_eq _ _ _ f_k, fld_eq _ _ _ f_b]
  exact form_ok (rfl) hw

theorem Sys2Proof.Laws.RoundTrip.sltu (d : BitVec 4) (a : BitVec 4) (k : BitVec 1) (b : BitVec 6) : Statement (.sltu d a k b) := by
  intro hw _
  obtain ⟨x0, hv⟩ : ∃ x0, place 0x80000015 [(d.toNat, 21), (a.toNat, 17), (k.toNat, 16), (b.toNat, 10)] = x0 := ⟨_, rfl⟩
  obtain ⟨f_d, f_a, f_k, f_b, g0, g1, lb, ub⟩ := shape0 d.isLt a.isLt k.isLt b.isLt (show 64 < _ by decide) (show 21 < _ by decide) hv
  refine trip32 x0 hv rfl ⟨Nat.le_trans (by decide) lb, ub⟩ ?_
  have q : bits x0 30 25 = 0 := bits_sub g0 (by decide) (by decide)
  rw [at_decodeAlu q]
  have q0 : bits x0 9 2 = 5 := bits_sub g1 (by decide) (by decide)
  have q1 : bits x0 9 0 = 21 := g1
  have hd : decodeAlu x0 = form x0 [] (.sltu (fld x0 21) (fld x0 17) (fld x0 16) (fld x0 10)) := by unfold decodeAlu; rw [q0, q1]; rfl
  rw [hd, fld_eq _ _ _ f_d, fld_eq _ _ _ f_a, fld_eq _ _ _ f_k, fld_eq _ _ _ f_b]
  exact form_ok (rfl) hw

theorem Sys2Proof.Laws.RoundTrip.seq (d : BitVec 4) (a : BitVec 4) (k : BitVec 1) (b : BitVec 6) : Statement (.seq d a k b) := by
  intro hw _
  obtain ⟨x0, hv⟩ : ∃ x0, place 0x80000016 [(d.toNat, 21), (a.toNat, 17), (k.toNat, 16), (b.toNat, 10)] = x0 := ⟨_, rfl⟩
  obtain ⟨f_d, f_a, f_k, f_b, g0, g1, lb, ub⟩ := shape0 d.isLt a.isLt k.isLt b.isLt (show 64 < _ by decide) (show 22 < _ by decide) hv
  refine trip32 x0 hv rfl ⟨Nat.le_trans (by decide) lb, ub⟩ ?_
  have q : bits x0 30 25 = 0 := bits_sub g0 (by decide) (by decide)
  rw [at_decodeAlu q]
  have q0 : bits x0 9 2 = 5 := bits_sub g1 (by decide) (by decide)
  have q1 : bits x0 9 0 = 22 := g1
  have hd : decodeAlu x0 = form x0 [] (.seq (fld x0 21) (fld x0 17) (fld x0 16) (fld x0 10)) := by unfold decodeAlu; rw [q0, q1]; rfl
  rw [hd, fld_eq _ _ _ f_d, fld_eq _ _ _ f_a, fld_eq _ _ _ f_k, fld_eq _ _ _ f_b]
  exact form_ok (rfl) hw

theorem Sys2Proof.Laws.RoundTrip.cmov (d : BitVec 4) (a : BitVec 4) (k : BitVec 1) (b : BitVec 6) : Statement (.cmov d a k b) := by
  intro hw _
  obtain ⟨x0, hv⟩ : ∃ x0, place 0x80000017 [(d.toNat, 21), (a.toNat, 17), (k.toNat, 16), (b.toNat, 10)] = x0 := ⟨_, rfl⟩
  obtain ⟨f_d, f_a, f_k, f_b, g0, g1, lb, ub⟩ := shape0 d.isLt a.isLt k.isLt b.isLt (show 64 < _ by decide) (show 23 < _ by decide) hv
  refine trip32 x0 hv rfl ⟨Nat.le_trans (by decide) lb, ub⟩ ?_
  have q : bits x0 30 25 = 0 := bits_sub g0 (by decide) (by decide)
  rw [at_decodeAlu q]
  have q0 : bits x0 9 2 = 5 := bits_sub g1 (by decide) (by decide)
  have q1 : bits x0 9 0 = 23 := g1
  have hd : decodeAlu x0 = form x0 [] (.cmov (fld x0 21) (fld x0 17) (fld x0 16) (fld x0 10)) := by unfold decodeAlu; rw [q0, q1]; rfl
  rw [hd, fld_eq _ _ _ f_d, fld_eq _ _ _ f_a, fld_eq _ _ _ f_k, fld_eq _ _ _ f_b]
  exact form_ok (rfl) hw

theorem Sys2Proof.Laws.RoundTrip.addw (d : BitVec 4) (a : BitVec 4) (k : BitVec 1) (b : BitVec 6) : Statement (.addw d a k b) := by
  intro hw _
  obtain ⟨x0, hv⟩ : ∃ x0, place 0x80000018 [(d.toNat, 21), (a.toNat, 17), (k.toNat, 16), (b.toNat, 10)] = x0 := ⟨_, rfl⟩
  obtain ⟨f_d, f_a, f_k, f_b, g0, g1, lb, ub⟩ := shape0 d.isLt a.isLt k.isLt b.isLt (show 64 < _ by decide) (show 24 < _ by decide) hv
  refine trip32 x0 hv rfl ⟨Nat.le_trans (by decide) lb, ub⟩ ?_
  have q : bits x0 30 25 = 0 := bits_sub g0 (by decide) (by decide)
  rw [at_decodeAlu q]
  have q0 : bits x0 9 2 = 6 := bits_sub g1 (by decide) (by decide)
  have q1 : bits x0 9 0 = 24 := g1
  have hd : decodeAlu x0 = form x0 [] (.addw (fld x0 21) (fld x0 17) (fld x0 16) (fld x0 10)) := by unfold decodeAlu; rw [q0, q1]; rfl
  rw [hd, fld_eq _ _ _ f_d, fld_eq _ _ _ f_a, fld_eq _ _ _ f_k, fld_eq _ _ _ f_b]
  exact form_ok (rfl) hw

theorem Sys2Proof.Laws.RoundTrip.subw (d : BitVec 4) (a : BitVec 4) (k : BitVec 1) (b : BitVec 6) : Statement (.subw d a k b) := by
  intro hw _
  obtain ⟨x0, hv⟩ : ∃ x0, place 0x80000019 [(d.toNat, 21), (a.toNat, 17), (k.toNat, 16), (b.toNat, 10)] = x0 := ⟨_, rfl⟩
  obtain ⟨f_d, f_a, f_k, f_b, g0, g1, lb, ub⟩ := shape0 d.isLt a.isLt k.isLt b.isLt (show 64 < _ by decide) (show 25 < _ by decide) hv
  refine trip32 x0 hv rfl ⟨Nat.le_trans (by decide) lb, ub⟩ ?_
  have q : bits x0 30 25 = 0 := bits_sub g0 (by decide) (by decide)
  rw [at_decodeAlu q]
  have q0 : bits x0 9 2 = 6 := bits_sub g1 (by decide) (by decide)
  have q1 : bits x0 9 0 = 25 := g1
  have hd : decodeAlu x0 = form x0 [] (.subw (fld x0 21) (fld x0 17) (fld x0 16) (fld x0 10)) := by unfold decodeAlu; rw [q0, q1]; rfl
  rw [hd, fld_eq _ _ _ f_d, fld_eq _ _ _ f_a, fld_eq _ _ _ f_k, fld_eq _ _ _ f_b]
  exact form_ok (rfl) hw

theorem Sys2Proof.Laws.RoundTrip.madd (d : BitVec 4) (a : BitVec 4) (k : BitVec 1) (b : BitVec 6) : Statement (.madd d a k b) := by
  intro hw _
  obtain ⟨x0, hv⟩ : ∃ x0, place 0x8000001a [(d.toNat, 21), (a.toNat, 17), (k.toNat, 16), (b.toNat, 10)] = x0 := ⟨_, rfl⟩
  obtain ⟨f_d, f_a, f_k, f_b, g0, g1, lb, ub⟩ := shape0 d.isLt a.isLt k.isLt b.isLt (show 64 < _ by decide) (show 26 < _ by decide) hv
  refine trip32 x0 hv rfl ⟨Nat.le_trans (by decide) lb, ub⟩ ?_
  have q : bits x0 30 25 = 0 := bits_sub g0 (by decide) (by decide)
  rw [at_decodeAlu q]
  have q0 : bits x0 9 2 = 6 := bits_sub g1 (by decide) (by decide)
  have q1 : bits x0 9 0 = 26 := g1
  have hd : decodeAlu x0 = form x0 [] (.madd (fld x0 21) (fld x0 17) (fld x0 16) (fld x0 10)) := by unfold decodeAlu; rw [q0, q1]; rfl
  rw [hd, fld_eq _ _ _ f_d, fld_eq _ _ _ f_a, fld_eq _ _ _ f_k, fld_eq _ _ _ f_b]
  exact form_ok (rfl) hw

theorem Sys2Proof.Laws.RoundTrip.addx (d : BitVec 4) (a : BitVec 4) (k : BitVec 1) (b : BitVec 6) (n : BitVec 2) : Statement (.addx d a k b n) := by
  intro hw _
  obtain ⟨x0, hv⟩ : ∃ x0, place 0x8000001c [(d.toNat, 21), (a.toNat, 17), (k.toNat, 16), (b.toNat, 10), (n.toNat, 0)] = x0 := ⟨_, rfl⟩
  obtain ⟨f_d, f_a, f_k, f_b, f_n, g0, g1, lb, ub⟩ := shape1 d.isLt a.isLt k.isLt b.isLt n.isLt (show 64 < _ by decide) (show 7 < _ by decide) hv
  refine trip32 x0 hv rfl ⟨Nat.le_trans (by decide) lb, ub⟩ ?_
  have q : bits x0 30 25 = 0 := bits_sub g0 (by decide) (by decide)
  rw [at_decodeAlu q]
  have q0 : bits x0 9 2 = 7 := g1
  have hd : decodeAlu x0 = form x0 [] (.addx (fld x0 21) (fld x0 17) (fld x0 16) (fld x0 10) (fld x0 0)) := by unfold decodeAlu; rw [q0]; rfl
  rw [hd, fld_eq _ _ _ f_d, fld_eq _ _ _ f_a, fld_eq _ _ _ f_k, fld_eq _ _ _ f_b, fld_eq _ _ _ f_n]
  exact form_ok (rfl) hw

theorem Sys2Proof.Laws.RoundTrip.clz (d : BitVec 4) (a : BitVec 4) : Statement (.clz d a) := by
  intro hw _
  obtain ⟨x0, hv⟩ : ∃ x0, place 0x80000020 [(d.toNat, 21), (a.toNat, 17)] = x0 := ⟨_, rfl⟩
  obtain ⟨f_d, f_a, g0, g1, lb, ub⟩ := shape2 d.isLt a.isLt (show 64 < _ by decide) (show 32 < _ by decide) hv
  refine trip32 x0 hv rfl ⟨Nat.le_trans (by decide) lb, ub⟩ ?_
  have q : bits x0 30 25 = 0 := bits_sub g0 (by decide) (by decide)
  rw [at_decodeAlu q]
  have q0 : bits x0 9 2 = 8 := bits_sub g1 (by decide) (by decide)
  have q1 : bits x0 9 0 = 32 := bits_sub g1 (by decide) (by decide)
  have hd : decodeAlu x0 = form x0 [(16, 10)] (.clz (fld x0 21) (fld x0 17)) := by unfold decodeAlu; rw [q0, q1]; rfl
  rw [hd, fld_eq _ _ _ f_d, fld_eq _ _ _ f_a]
  have z0 : bits x0 16 10 = 0 := bits_sub g1 (by decide) (by decide)
  exact form_ok (by simp only [List.all_cons, List.all_nil, z0]; rfl) hw

theorem Sys2Proof.Laws.RoundTrip.ctz (d : BitVec 4) (a : BitVec 4) : Statement (.ctz d a) := by
  intro hw _
  obtain ⟨x0, hv⟩ : ∃ x0, place 0x80000021 [(d.toNat, 21), (a.toNat, 17)] = x0 := ⟨_, rfl⟩
  obtain ⟨f_d, f_a, g0, g1, lb, ub⟩ := shape2 d.isLt a.isLt (show 64 < _ by decide) (show 33 < _ by decide) hv
  refine trip32 x0 hv rfl ⟨Nat.le_trans (by decide) lb, ub⟩ ?_
  have q : bits x0 30 25 = 0 := bits_sub g0 (by decide) (by decide)
  rw [at_decodeAlu q]
  have q0 : bits x0 9 2 = 8 := bits_sub g1 (by decide) (by decide)
  have q1 : bits x0 9 0 = 33 := bits_sub g1 (by decide) (by decide)
  have hd : decodeAlu x0 = form x0 [(16, 10)] (.ctz (fld x0 21) (fld x0 17)) := by unfold decodeAlu; rw [q0, q1]; rfl
  rw [hd, fld_eq _ _ _ f_d, fld_eq _ _ _ f_a]
  have z0 : bits x0 16 10 = 0 := bits_sub g1 (by decide) (by decide)
  exact form_ok (by simp only [List.all_cons, List.all_nil, z0]; rfl) hw

theorem Sys2Proof.Laws.RoundTrip.popc (d : BitVec 4) (a : BitVec 4) : Statement (.popc d a) := by
  intro hw _
  obtain ⟨x0, hv⟩ : ∃ x0, place 0x80000022 [(d.toNat, 21), (a.toNat, 17)] = x0 := ⟨_, rfl⟩
  obtain ⟨f_d, f_a, g0, g1, lb, ub⟩ := shape2 d.isLt a.isLt (show 64 < _ by decide) (show 34 < _ by decide) hv
  refine trip32 x0 hv rfl ⟨Nat.le_trans (by decide) lb, ub⟩ ?_
  have q : bits x0 30 25 = 0 := bits_sub g0 (by decide) (by decide)
  rw [at_decodeAlu q]
  have q0 : bits x0 9 2 = 8 := bits_sub g1 (by decide) (by decide)
  have q1 : bits x0 9 0 = 34 := bits_sub g1 (by decide) (by decide)
  have hd : decodeAlu x0 = form x0 [(16, 10)] (.popc (fld x0 21) (fld x0 17)) := by unfold decodeAlu; rw [q0, q1]; rfl
  rw [hd, fld_eq _ _ _ f_d, fld_eq _ _ _ f_a]
  have z0 : bits x0 16 10 = 0 := bits_sub g1 (by decide) (by decide)
  exact form_ok (by simp only [List.all_cons, List.all_nil, z0]; rfl) hw

theorem Sys2Proof.Laws.RoundTrip.bswap (d : BitVec 4) (a : BitVec 4) : Statement (.bswap d a) := by
  intro hw _
  obtain ⟨x0, hv⟩ : ∃ x0, place 0x80000023 [(d.toNat, 21), (a.toNat, 17)] = x0 := ⟨_, rfl⟩
  obtain ⟨f_d, f_a, g0, g1, lb, ub⟩ := shape2 d.isLt a.isLt (show 64 < _ by decide) (show 35 < _ by decide) hv
  refine trip32 x0 hv rfl ⟨Nat.le_trans (by decide) lb, ub⟩ ?_
  have q : bits x0 30 25 = 0 := bits_sub g0 (by decide) (by decide)
  rw [at_decodeAlu q]
  have q0 : bits x0 9 2 = 8 := bits_sub g1 (by decide) (by decide)
  have q1 : bits x0 9 0 = 35 := bits_sub g1 (by decide) (by decide)
  have hd : decodeAlu x0 = form x0 [(16, 10)] (.bswap (fld x0 21) (fld x0 17)) := by unfold decodeAlu; rw [q0, q1]; rfl
  rw [hd, fld_eq _ _ _ f_d, fld_eq _ _ _ f_a]
  have z0 : bits x0 16 10 = 0 := bits_sub g1 (by decide) (by decide)
  exact form_ok (by simp only [List.all_cons, List.all_nil, z0]; rfl) hw

theorem Sys2Proof.Laws.RoundTrip.sext (d : BitVec 4) (a : BitVec 4) (n : BitVec 2) : Statement (.sext d a n) := by
  intro hw _
  obtain ⟨x0, hv⟩ : ∃ x0, place 0x80000024 [(d.toNat, 21), (a.toNat, 17), (n.toNat, 0)] = x0 := ⟨_, rfl⟩
  obtain ⟨f_d, f_a, f_n, g0, g1, lb, ub⟩ := shape3 d.isLt a.isLt n.isLt (show 64 < _ by decide) (show 9 < _ by decide) hv
  refine trip32 x0 hv rfl ⟨Nat.le_trans (by decide) lb, ub⟩ ?_
  have q : bits x0 30 25 = 0 := bits_sub g0 (by decide) (by decide)
  rw [at_decodeAlu q]
  have n3 : n.toNat ≠ 3 := by intro h; have : n = 3 := BitVec.eq_of_toNat_eq h; subst this; simp [Instr.wf, Instr.problem, refuse] at hw
  have q0 : bits x0 9 2 = 9 := bits_sub g1 (by decide) (by decide)
  have q9 : (bits x0 1 0 == 3) = false := by simp only [bits, beq_eq_false_iff_ne]; omega
  have hd : decodeAlu x0 = form x0 [(16, 10)] (.sext (fld x0 21) (fld x0 17) (fld x0 0)) := by unfold decodeAlu; rw [q0, q9]; rfl
  rw [hd, fld_eq _ _ _ f_d, fld_eq _ _ _ f_a, fld_eq _ _ _ f_n]
  have z0 : bits x0 16 10 = 0 := bits_sub g1 (by decide) (by decide)
  exact form_ok (by simp only [List.all_cons, List.all_nil, z0]; rfl) hw

theorem Sys2Proof.Laws.RoundTrip.zext (d : BitVec 4) (a : BitVec 4) (n : BitVec 2) : Statement (.zext d a n) := by
  intro hw _
  obtain ⟨x0, hv⟩ : ∃ x0, place 0x80000028 [(d.toNat, 21), (a.toNat, 17), (n.toNat, 0)] = x0 := ⟨_, rfl⟩
  obtain ⟨f_d, f_a, f_n, g0, g1, lb, ub⟩ := shape3 d.isLt a.isLt n.isLt (show 64 < _ by decide) (show 10 < _ by decide) hv
  refine trip32 x0 hv rfl ⟨Nat.le_trans (by decide) lb, ub⟩ ?_
  have q : bits x0 30 25 = 0 := bits_sub g0 (by decide) (by decide)
  rw [at_decodeAlu q]
  have n3 : n.toNat ≠ 3 := by intro h; have : n = 3 := BitVec.eq_of_toNat_eq h; subst this; simp [Instr.wf, Instr.problem, refuse] at hw
  have q0 : bits x0 9 2 = 10 := bits_sub g1 (by decide) (by decide)
  have q9 : (bits x0 1 0 == 3) = false := by simp only [bits, beq_eq_false_iff_ne]; omega
  have hd : decodeAlu x0 = form x0 [(16, 10)] (.zext (fld x0 21) (fld x0 17) (fld x0 0)) := by unfold decodeAlu; rw [q0, q9]; rfl
  rw [hd, fld_eq _ _ _ f_d, fld_eq _ _ _ f_a, fld_eq _ _ _ f_n]
  have z0 : bits x0 16 10 = 0 := bits_sub g1 (by decide) (by decide)
  exact form_ok (by simp only [List.all_cons, List.all_nil, z0]; rfl) hw

theorem Sys2Proof.Laws.RoundTrip.fadd (d : BitVec 4) (a : BitVec 4) (k : BitVec 1) (b : BitVec 6) (t : BitVec 1) (rm : BitVec 3) (sat : BitVec 1) : Statement (.fadd d a k b t rm sat) := by
  intro hw _
  obtain ⟨x0, hv⟩ : ∃ x0, place 0x82000000 [(d.toNat, 21), (a.toNat, 17), (k.toNat, 16), (b.toNat, 10), (t.toNat, 4), (rm.toNat, 1), (sat.toNat, 0)] = x0 := ⟨_, rfl⟩
  obtain ⟨f_d, f_a, f_k, f_b, f_t, f_rm, f_sat, g0, g1, lb, ub⟩ := shape4 d.isLt a.isLt k.isLt b.isLt t.isLt rm.isLt sat.isLt (show 65 < _ by decide) (show 0 < _ by decide) hv
  refine trip32 x0 hv rfl ⟨Nat.le_trans (by decide) lb, ub⟩ ?_
  have q : bits x0 30 25 = 1 := bits_sub g0 (by decide) (by decide)
  rw [at_decodeFlt q]
  have q0 : bits x0 9 5 = 0 := g1
  have hd : decodeFlt x0 = form x0 [] (.fadd (fld x0 21) (fld x0 17) (fld x0 16) (fld x0 10) (fld x0 4) (fld x0 1) (fld x0 0)) := by unfold decodeFlt; rw [q0]; rfl
  rw [hd, fld_eq _ _ _ f_d, fld_eq _ _ _ f_a, fld_eq _ _ _ f_k, fld_eq _ _ _ f_b, fld_eq _ _ _ f_t, fld_eq _ _ _ f_rm, fld_eq _ _ _ f_sat]
  exact form_ok (rfl) hw

theorem Sys2Proof.Laws.RoundTrip.fsub (d : BitVec 4) (a : BitVec 4) (k : BitVec 1) (b : BitVec 6) (t : BitVec 1) (rm : BitVec 3) (sat : BitVec 1) : Statement (.fsub d a k b t rm sat) := by
  intro hw _
  obtain ⟨x0, hv⟩ : ∃ x0, place 0x82000020 [(d.toNat, 21), (a.toNat, 17), (k.toNat, 16), (b.toNat, 10), (t.toNat, 4), (rm.toNat, 1), (sat.toNat, 0)] = x0 := ⟨_, rfl⟩
  obtain ⟨f_d, f_a, f_k, f_b, f_t, f_rm, f_sat, g0, g1, lb, ub⟩ := shape4 d.isLt a.isLt k.isLt b.isLt t.isLt rm.isLt sat.isLt (show 65 < _ by decide) (show 1 < _ by decide) hv
  refine trip32 x0 hv rfl ⟨Nat.le_trans (by decide) lb, ub⟩ ?_
  have q : bits x0 30 25 = 1 := bits_sub g0 (by decide) (by decide)
  rw [at_decodeFlt q]
  have q0 : bits x0 9 5 = 1 := g1
  have hd : decodeFlt x0 = form x0 [] (.fsub (fld x0 21) (fld x0 17) (fld x0 16) (fld x0 10) (fld x0 4) (fld x0 1) (fld x0 0)) := by unfold decodeFlt; rw [q0]; rfl
  rw [hd, fld_eq _ _ _ f_d, fld_eq _ _ _ f_a, fld_eq _ _ _ f_k, fld_eq _ _ _ f_b, fld_eq _ _ _ f_t, fld_eq _ _ _ f_rm, fld_eq _ _ _ f_sat]
  exact form_ok (rfl) hw

theorem Sys2Proof.Laws.RoundTrip.fmul (d : BitVec 4) (a : BitVec 4) (k : BitVec 1) (b : BitVec 6) (t : BitVec 1) (rm : BitVec 3) (sat : BitVec 1) : Statement (.fmul d a k b t rm sat) := by
  intro hw _
  obtain ⟨x0, hv⟩ : ∃ x0, place 0x82000040 [(d.toNat, 21), (a.toNat, 17), (k.toNat, 16), (b.toNat, 10), (t.toNat, 4), (rm.toNat, 1), (sat.toNat, 0)] = x0 := ⟨_, rfl⟩
  obtain ⟨f_d, f_a, f_k, f_b, f_t, f_rm, f_sat, g0, g1, lb, ub⟩ := shape4 d.isLt a.isLt k.isLt b.isLt t.isLt rm.isLt sat.isLt (show 65 < _ by decide) (show 2 < _ by decide) hv
  refine trip32 x0 hv rfl ⟨Nat.le_trans (by decide) lb, ub⟩ ?_
  have q : bits x0 30 25 = 1 := bits_sub g0 (by decide) (by decide)
  rw [at_decodeFlt q]
  have q0 : bits x0 9 5 = 2 := g1
  have hd : decodeFlt x0 = form x0 [] (.fmul (fld x0 21) (fld x0 17) (fld x0 16) (fld x0 10) (fld x0 4) (fld x0 1) (fld x0 0)) := by unfold decodeFlt; rw [q0]; rfl
  rw [hd, fld_eq _ _ _ f_d, fld_eq _ _ _ f_a, fld_eq _ _ _ f_k, fld_eq _ _ _ f_b, fld_eq _ _ _ f_t, fld_eq _ _ _ f_rm, fld_eq _ _ _ f_sat]
  exact form_ok (rfl) hw

theorem Sys2Proof.Laws.RoundTrip.ffma (d : BitVec 4) (a : BitVec 4) (k : BitVec 1) (b : BitVec 6) (t : BitVec 1) (rm : BitVec 3) (sat : BitVec 1) : Statement (.ffma d a k b t rm sat) := by
  intro hw _
  obtain ⟨x0, hv⟩ : ∃ x0, place 0x82000060 [(d.toNat, 21), (a.toNat, 17), (k.toNat, 16), (b.toNat, 10), (t.toNat, 4), (rm.toNat, 1), (sat.toNat, 0)] = x0 := ⟨_, rfl⟩
  obtain ⟨f_d, f_a, f_k, f_b, f_t, f_rm, f_sat, g0, g1, lb, ub⟩ := shape4 d.isLt a.isLt k.isLt b.isLt t.isLt rm.isLt sat.isLt (show 65 < _ by decide) (show 3 < _ by decide) hv
  refine trip32 x0 hv rfl ⟨Nat.le_trans (by decide) lb, ub⟩ ?_
  have q : bits x0 30 25 = 1 := bits_sub g0 (by decide) (by decide)
  rw [at_decodeFlt q]
  have q0 : bits x0 9 5 = 3 := g1
  have hd : decodeFlt x0 = form x0 [] (.ffma (fld x0 21) (fld x0 17) (fld x0 16) (fld x0 10) (fld x0 4) (fld x0 1) (fld x0 0)) := by unfold decodeFlt; rw [q0]; rfl
  rw [hd, fld_eq _ _ _ f_d, fld_eq _ _ _ f_a, fld_eq _ _ _ f_k, fld_eq _ _ _ f_b, fld_eq _ _ _ f_t, fld_eq _ _ _ f_rm, fld_eq _ _ _ f_sat]
  exact form_ok (rfl) hw

theorem Sys2Proof.Laws.RoundTrip.fdiv (d : BitVec 4) (a : BitVec 4) (k : BitVec 1) (b : BitVec 6) (t : BitVec 1) (rm : BitVec 3) (sat : BitVec 1) : Statement (.fdiv d a k b t rm sat) := by
  intro hw _
  obtain ⟨x0, hv⟩ : ∃ x0, place 0x82000080 [(d.toNat, 21), (a.toNat, 17), (k.toNat, 16), (b.toNat, 10), (t.toNat, 4), (rm.toNat, 1), (sat.toNat, 0)] = x0 := ⟨_, rfl⟩
  obtain ⟨f_d, f_a, f_k, f_b, f_t, f_rm, f_sat, g0, g1, lb, ub⟩ := shape4 d.isLt a.isLt k.isLt b.isLt t.isLt rm.isLt sat.isLt (show 65 < _ by decide) (show 4 < _ by decide) hv
  refine trip32 x0 hv rfl ⟨Nat.le_trans (by decide) lb, ub⟩ ?_
  have q : bits x0 30 25 = 1 := bits_sub g0 (by decide) (by decide)
  rw [at_decodeFlt q]
  have q0 : bits x0 9 5 = 4 := g1
  have hd : decodeFlt x0 = form x0 [] (.fdiv (fld x0 21) (fld x0 17) (fld x0 16) (fld x0 10) (fld x0 4) (fld x0 1) (fld x0 0)) := by unfold decodeFlt; rw [q0]; rfl
  rw [hd, fld_eq _ _ _ f_d, fld_eq _ _ _ f_a, fld_eq _ _ _ f_k, fld_eq _ _ _ f_b, fld_eq _ _ _ f_t, fld_eq _ _ _ f_rm, fld_eq _ _ _ f_sat]
  exact form_ok (rfl) hw

theorem Sys2Proof.Laws.RoundTrip.fsqrt (d : BitVec 4) (a : BitVec 4) (t : BitVec 1) (rm : BitVec 3) (sat : BitVec 1) : Statement (.fsqrt d a t rm sat) := by
  intro hw _
  obtain ⟨x0, hv⟩ : ∃ x0, place 0x820000a0 [(d.toNat, 21), (a.toNat, 17), (t.toNat, 4), (rm.toNat, 1), (sat.toNat, 0)] = x0 := ⟨_, rfl⟩
  obtain ⟨f_d, f_a, f_t, f_rm, f_sat, g0, g1, lb, ub⟩ := shape5 d.isLt a.isLt t.isLt rm.isLt sat.isLt (show 65 < _ by decide) (show 5 < _ by decide) hv
  refine trip32 x0 hv rfl ⟨Nat.le_trans (by decide) lb, ub⟩ ?_
  have q : bits x0 30 25 = 1 := bits_sub g0 (by decide) (by decide)
  rw [at_decodeFlt q]
  have q0 : bits x0 9 5 = 5 := bits_sub g1 (by decide) (by decide)
  have hd : decodeFlt x0 = form x0 [(16, 10)] (.fsqrt (fld x0 21) (fld x0 17) (fld x0 4) (fld x0 1) (fld x0 0)) := by unfold decodeFlt; rw [q0]; rfl
  rw [hd, fld_eq _ _ _ f_d, fld_eq _ _ _ f_a, fld_eq _ _ _ f_t, fld_eq _ _ _ f_rm, fld_eq _ _ _ f_sat]
  have z0 : bits x0 16 10 = 0 := bits_sub g1 (by decide) (by decide)
  exact form_ok (by simp only [List.all_cons, List.all_nil, z0]; rfl) hw

theorem Sys2Proof.Laws.RoundTrip.fmin (d : BitVec 4) (a : BitVec 4) (k : BitVec 1) (b : BitVec 6) (t : BitVec 1) : Statement (.fmin d a k b t) := by
  intro hw _
  obtain ⟨x0, hv⟩ : ∃ x0, place 0x820000c0 [(d.toNat, 21), (a.toNat, 17), (k.toNat, 16), (b.toNat, 10), (t.toNat, 4)] = x0 := ⟨_, rfl⟩
  obtain ⟨f_d, f_a, f_k, f_b, f_t, g0, g1, g2, lb, ub⟩ := shape6 d.isLt a.isLt k.isLt b.isLt t.isLt (show 65 < _ by decide) (show 6 < _ by decide) (show 0 < _ by decide) hv
  refine trip32 x0 hv rfl ⟨Nat.le_trans (by decide) lb, ub⟩ ?_
  have q : bits x0 30 25 = 1 := bits_sub g0 (by decide) (by decide)
  rw [at_decodeFlt q]
  have q0 : bits x0 9 5 = 6 := g1
  have hd : decodeFlt x0 = form x0 [(3, 0)] (.fmin (fld x0 21) (fld x0 17) (fld x0 16) (fld x0 10) (fld x0 4)) := by unfold decodeFlt; rw [q0]; rfl
  rw [hd, fld_eq _ _ _ f_d, fld_eq _ _ _ f_a, fld_eq _ _ _ f_k, fld_eq _ _ _ f_b, fld_eq _ _ _ f_t]
  have z0 : bits x0 3 0 = 0 := g2
  exact form_ok (by simp only [List.all_cons, List.all_nil, z0]; rfl) hw

theorem Sys2Proof.Laws.RoundTrip.fmax (d : BitVec 4) (a : BitVec 4) (k : BitVec 1) (b : BitVec 6) (t : BitVec 1) : Statement (.fmax d a k b t) := by
  intro hw _
  obtain ⟨x0, hv⟩ : ∃ x0, place 0x820000e0 [(d.toNat, 21), (a.toNat, 17), (k.toNat, 16), (b.toNat, 10), (t.toNat, 4)] = x0 := ⟨_, rfl⟩
  obtain ⟨f_d, f_a, f_k, f_b, f_t, g0, g1, g2, lb, ub⟩ := shape6 d.isLt a.isLt k.isLt b.isLt t.isLt (show 65 < _ by decide) (show 7 < _ by decide) (show 0 < _ by decide) hv
  refine trip32 x0 hv rfl ⟨Nat.le_trans (by decide) lb, ub⟩ ?_
  have q : bits x0 30 25 = 1 := bits_sub g0 (by decide) (by decide)
  rw [at_decodeFlt q]
  have q0 : bits x0 9 5 = 7 := g1
  have hd : decodeFlt x0 = form x0 [(3, 0)] (.fmax (fld x0 21) (fld x0 17) (fld x0 16) (fld x0 10) (fld x0 4)) := by unfold decodeFlt; rw [q0]; rfl
  rw [hd, fld_eq _ _ _ f_d, fld_eq _ _ _ f_a, fld_eq _ _ _ f_k, fld_eq _ _ _ f_b, fld_eq _ _ _ f_t]
  have z0 : bits x0 3 0 = 0 := g2
  exact form_ok (by simp only [List.all_cons, List.all_nil, z0]; rfl) hw

theorem Sys2Proof.Laws.RoundTrip.fcmp (d : BitVec 4) (a : BitVec 4) (k : BitVec 1) (b : BitVec 6) (t : BitVec 1) (cc : BitVec 2) : Statement (.fcmp d a k b t cc) := by
  intro hw _
  obtain ⟨x0, hv⟩ : ∃ x0, place 0x82000100 [(d.toNat, 21), (a.toNat, 17), (k.toNat, 16), (b.toNat, 10), (t.toNat, 4), (cc.toNat, 1)] = x0 := ⟨_, rfl⟩
  obtain ⟨f_d, f_a, f_k, f_b, f_t, f_cc, g0, g1, g2, g3, lb, ub⟩ := shape7 d.isLt a.isLt k.isLt b.isLt t.isLt cc.isLt (show 65 < _ by decide) (show 8 < _ by decide) (show 0 < _ by decide) (show 0 < _ by decide) hv
  refine trip32 x0 hv rfl ⟨Nat.le_trans (by decide) lb, ub⟩ ?_
  have q : bits x0 30 25 = 1 := bits_sub g0 (by decide) (by decide)
  rw [at_decodeFlt q]
  have q0 : bits x0 9 5 = 8 := g1
  have hd : decodeFlt x0 = form x0 [(3, 3), (0, 0)] (.fcmp (fld x0 21) (fld x0 17) (fld x0 16) (fld x0 10) (fld x0 4) (fld x0 1)) := by unfold decodeFlt; rw [q0]; rfl
  rw [hd, fld_eq _ _ _ f_d, fld_eq _ _ _ f_a, fld_eq _ _ _ f_k, fld_eq _ _ _ f_b, fld_eq _ _ _ f_t, fld_eq _ _ _ f_cc]
  have z0 : bits x0 3 3 = 0 := g2
  have z1 : bits x0 0 0 = 0 := g3
  exact form_ok (by simp only [List.all_cons, List.all_nil, z0, z1]; rfl) hw

theorem Sys2Proof.Laws.RoundTrip.fcvt (d : BitVec 4) (a : BitVec 4) (tk : BitVec 3) (sk : BitVec 3) (rm : BitVec 3) (sat : BitVec 1) : Statement (.fcvt d a tk sk rm sat) := by
  intro hw _
  obtain ⟨x0, hv⟩ : ∃ x0, place 0x82000120 [(d.toNat, 21), (a.toNat, 17), (tk.toNat, 13), (sk.toNat, 10), (rm.toNat, 1), (sat.toNat, 0)] = x0 := ⟨_, rfl⟩
  obtain ⟨f_d, f_a, f_tk, f_sk, f_rm, f_sat, g0, g1, g2, lb, ub⟩ := shape8 d.isLt a.isLt tk.isLt sk.isLt rm.isLt sat.isLt (show 65 < _ by decide) (show 0 < _ by decide) (show 18 < _ by decide) hv
  refine trip32 x0 hv rfl ⟨Nat.le_trans (by decide) lb, ub⟩ ?_
  have q : bits x0 30 25 = 1 := bits_sub g0 (by decide) (by decide)
  rw [at_decodeFlt q]
  have q0 : bits x0 9 5 = 9 := bits_sub g2 (by decide) (by decide)
  have hd : decodeFlt x0 = form x0 [(16, 16), (4, 4)] (.fcvt (fld x0 21) (fld x0 17) (fld x0 13) (fld x0 10) (fld x0 1) (fld x0 0)) := by unfold decodeFlt; rw [q0]; rfl
  rw [hd, fld_eq _ _ _ f_d, fld_eq _ _ _ f_a, fld_eq _ _ _ f_tk, fld_eq _ _ _ f_sk, fld_eq _ _ _ f_rm, fld_eq _ _ _ f_sat]
  have z0 : bits x0 16 16 = 0 := g1
  have z1 : bits x0 4 4 = 0 := bits_sub g2 (by decide) (by decide)
  exact form_ok (by simp only [List.all_cons, List.all_nil, z0, z1]; rfl) hw

theorem Sys2Proof.Laws.RoundTrip.fclass (d : BitVec 4) (a : BitVec 4) (t : BitVec 1) : Statement (.fclass d a t) := by
  intro hw _
  obtain ⟨x0, hv⟩ : ∃ x0, place 0x82000140 [(d.toNat, 21), (a.toNat, 17), (t.toNat, 4)] = x0 := ⟨_, rfl⟩
  obtain ⟨f_d, f_a, f_t, g0, g1, g2, lb, ub⟩ := shape9 d.isLt a.isLt t.isLt (show 65 < _ by decide) (show 10 < _ by decide) (show 0 < _ by decide) hv
  refine trip32 x0 hv rfl ⟨Nat.le_trans (by decide) lb, ub⟩ ?_
  have q : bits x0 30 25 = 1 := bits_sub g0 (by decide) (by decide)
  rw [at_decodeFlt q]
  have q0 : bits x0 9 5 = 10 := bits_sub g1 (by decide) (by decide)
  have hd : decodeFlt x0 = form x0 [(16, 10), (3, 0)] (.fclass (fld x0 21) (fld x0 17) (fld x0 4)) := by unfold decodeFlt; rw [q0]; rfl
  rw [hd, fld_eq _ _ _ f_d, fld_eq _ _ _ f_a, fld_eq _ _ _ f_t]
  have z0 : bits x0 16 10 = 0 := bits_sub g1 (by decide) (by decide)
  have z1 : bits x0 3 0 = 0 := g2
  exact form_ok (by simp only [List.all_cons, List.all_nil, z0, z1]; rfl) hw

theorem Sys2Proof.Laws.RoundTrip.fsgnj (d : BitVec 4) (a : BitVec 4) (k : BitVec 1) (b : BitVec 6) (t : BitVec 1) : Statement (.fsgnj d a k b t) := by
  intro hw _
  obtain ⟨x0, hv⟩ : ∃ x0, place 0x82000160 [(d.toNat, 21), (a.toNat, 17), (k.toNat, 16), (b.toNat, 10), (t.toNat, 4)] = x0 := ⟨_, rfl⟩
  obtain ⟨f_d, f_a, f_k, f_b, f_t, g0, g1, g2, lb, ub⟩ := shape6 d.isLt a.isLt k.isLt b.isLt t.isLt (show 65 < _ by decide) (show 11 < _ by decide) (show 0 < _ by decide) hv
  refine trip32 x0 hv rfl ⟨Nat.le_trans (by decide) lb, ub⟩ ?_
  have q : bits x0 30 25 = 1 := bits_sub g0 (by decide) (by decide)
  rw [at_decodeFlt q]
  have q0 : bits x0 9 5 = 11 := g1
  have hd : decodeFlt x0 = form x0 [(3, 0)] (.fsgnj (fld x0 21) (fld x0 17) (fld x0 16) (fld x0 10) (fld x0 4)) := by unfold decodeFlt; rw [q0]; rfl
  rw [hd, fld_eq _ _ _ f_d, fld_eq _ _ _ f_a, fld_eq _ _ _ f_k, fld_eq _ _ _ f_b, fld_eq _ _ _ f_t]
  have z0 : bits x0 3 0 = 0 := g2
  exact form_ok (by simp only [List.all_cons, List.all_nil, z0]; rfl) hw

theorem Sys2Proof.Laws.RoundTrip.fsgnjn (d : BitVec 4) (a : BitVec 4) (k : BitVec 1) (b : BitVec 6) (t : BitVec 1) : Statement (.fsgnjn d a k b t) := by
  intro hw _
  obtain ⟨x0, hv⟩ : ∃ x0, place 0x82000180 [(d.toNat, 21), (a.toNat, 17), (k.toNat, 16), (b.toNat, 10), (t.toNat, 4)] = x0 := ⟨_, rfl⟩
  obtain ⟨f_d, f_a, f_k, f_b, f_t, g0, g1, g2, lb, ub⟩ := shape6 d.isLt a.isLt k.isLt b.isLt t.isLt (show 65 < _ by decide) (show 12 < _ by decide) (show 0 < _ by decide) hv
  refine trip32 x0 hv rfl ⟨Nat.le_trans (by decide) lb, ub⟩ ?_
  have q : bits x0 30 25 = 1 := bits_sub g0 (by decide) (by decide)
  rw [at_decodeFlt q]
  have q0 : bits x0 9 5 = 12 := g1
  have hd : decodeFlt x0 = form x0 [(3, 0)] (.fsgnjn (fld x0 21) (fld x0 17) (fld x0 16) (fld x0 10) (fld x0 4)) := by unfold decodeFlt; rw [q0]; rfl
  rw [hd, fld_eq _ _ _ f_d, fld_eq _ _ _ f_a, fld_eq _ _ _ f_k, fld_eq _ _ _ f_b, fld_eq _ _ _ f_t]
  have z0 : bits x0 3 0 = 0 := g2
  exact form_ok (by simp only [List.all_cons, List.all_nil, z0]; rfl) hw

theorem Sys2Proof.Laws.RoundTrip.fsgnjx (d : BitVec 4) (a : BitVec 4) (k : BitVec 1) (b : BitVec 6) (t : BitVec 1) : Statement (.fsgnjx d a k b t) := by
  intro hw _
  obtain ⟨x0, hv⟩ : ∃ x0, place 0x820001a0 [(d.toNat, 21), (a.toNat, 17), (k.toNat, 16), (b.toNat, 10), (t.toNat, 4)] = x0 := ⟨_, rfl⟩
  obtain ⟨f_d, f_a, f_k, f_b, f_t, g0, g1, g2, lb, ub⟩ := shape6 d.isLt a.isLt k.isLt b.isLt t.isLt (show 65 < _ by decide) (show 13 < _ by decide) (show 0 < _ by decide) hv
  refine trip32 x0 hv rfl ⟨Nat.le_trans (by decide) lb, ub⟩ ?_
  have q : bits x0 30 25 = 1 := bits_sub g0 (by decide) (by decide)
  rw [at_decodeFlt q]
  have q0 : bits x0 9 5 = 13 := g1
  have hd : decodeFlt x0 = form x0 [(3, 0)] (.fsgnjx (fld x0 21) (fld x0 17) (fld x0 16) (fld x0 10) (fld x0 4)) := by unfold decodeFlt; rw [q0]; rfl
  rw [hd, fld_eq _ _ _ f_d, fld_eq _ _ _ f_a, fld_eq _ _ _ f_k, fld_eq _ _ _ f_b, fld_eq _ _ _ f_t]
  have z0 : bits x0 3 0 = 0 := g2
  exact form_ok (by simp only [List.all_cons, List.all_nil, z0]; rfl) hw

theorem Sys2Proof.Laws.RoundTrip.addi (d : BitVec 4) (a : BitVec 4) (i : BitVec 17) : Statement (.addi d a i) := by
  intro hw _
  obtain ⟨x0, hv⟩ : ∃ x0, place 0x84000000 [(d.toNat, 21), (a.toNat, 17), (i.toNat, 0)] = x0 := ⟨_, rfl⟩
  obtain ⟨f_d, f_a, f_i, g0, lb, ub⟩ := shape10 d.isLt a.isLt i.isLt (show 66 < _ by decide) hv
  refine trip32 x0 hv rfl ⟨Nat.le_trans (by decide) lb, ub⟩ ?_
  have q0 : bits x0 30 25 = 2 := bits_sub g0 (by decide) (by decide)
  have hd : decode32 x0 = form x0 [] (.addi (fld x0 21) (fld x0 17) (fld x0 0)) := by unfold decode32; rw [q0]; rfl
  rw [hd, fld_eq _ _ _ f_d, fld_eq _ _ _ f_a, fld_eq _ _ _ f_i]
  exact form_ok (rfl) hw

theorem Sys2Proof.Laws.RoundTrip.andi (d : BitVec 4) (a : BitVec 4) (i : BitVec 17) : Statement (.andi d a i) := by
  intro hw _
  obtain ⟨x0, hv⟩ : ∃ x0, place 0x86000000 [(d.toNat, 21), (a.toNat, 17), (i.toNat, 0)] = x0 := ⟨_, rfl⟩
  obtain ⟨f_d, f_a, f_i, g0, lb, ub⟩ := shape10 d.isLt a.isLt i.isLt (show 67 < _ by decide) hv
  refine trip32 x0 hv rfl ⟨Nat.le_trans (by decide) lb, ub⟩ ?_
  have q0 : bits x0 30 25 = 3 := bits_sub g0 (by decide) (by decide)
  have hd : decode32 x0 = form x0 [] (.andi (fld x0 21) (fld x0 17) (fld x0 0)) := by unfold decode32; rw [q0]; rfl
  rw [hd, fld_eq _ _ _ f_d, fld_eq _ _ _ f_a, fld_eq _ _ _ f_i]
  exact form_ok (rfl) hw

theorem Sys2Proof.Laws.RoundTrip.ori (d : BitVec 4) (a : BitVec 4) (i : BitVec 17) : Statement (.ori d a i) := by
  intro hw _
  obtain ⟨x0, hv⟩ : ∃ x0, place 0x88000000 [(d.toNat, 21), (a.toNat, 17), (i.toNat, 0)] = x0 := ⟨_, rfl⟩
  obtain ⟨f_d, f_a, f_i, g0, lb, ub⟩ := shape10 d.isLt a.isLt i.isLt (show 68 < _ by decide) hv
  refine trip32 x0 hv rfl ⟨Nat.le_trans (by decide) lb, ub⟩ ?_
  have q0 : bits x0 30 25 = 4 := bits_sub g0 (by decide) (by decide)
  have hd : decode32 x0 = form x0 [] (.ori (fld x0 21) (fld x0 17) (fld x0 0)) := by unfold decode32; rw [q0]; rfl
  rw [hd, fld_eq _ _ _ f_d, fld_eq _ _ _ f_a, fld_eq _ _ _ f_i]
  exact form_ok (rfl) hw

theorem Sys2Proof.Laws.RoundTrip.xori (d : BitVec 4) (a : BitVec 4) (i : BitVec 17) : Statement (.xori d a i) := by
  intro hw _
  obtain ⟨x0, hv⟩ : ∃ x0, place 0x8a000000 [(d.toNat, 21), (a.toNat, 17), (i.toNat, 0)] = x0 := ⟨_, rfl⟩
  obtain ⟨f_d, f_a, f_i, g0, lb, ub⟩ := shape10 d.isLt a.isLt i.isLt (show 69 < _ by decide) hv
  refine trip32 x0 hv rfl ⟨Nat.le_trans (by decide) lb, ub⟩ ?_
  have q0 : bits x0 30 25 = 5 := bits_sub g0 (by decide) (by decide)
  have hd : decode32 x0 = form x0 [] (.xori (fld x0 21) (fld x0 17) (fld x0 0)) := by unfold decode32; rw [q0]; rfl
  rw [hd, fld_eq _ _ _ f_d, fld_eq _ _ _ f_a, fld_eq _ _ _ f_i]
  exact form_ok (rfl) hw

theorem Sys2Proof.Laws.RoundTrip.shli (d : BitVec 4) (a : BitVec 4) (n : BitVec 6) : Statement (.shli d a n) := by
  intro hw _
  obtain ⟨x0, hv⟩ : ∃ x0, place 0x8c000000 [(d.toNat, 21), (a.toNat, 17), (n.toNat, 0)] = x0 := ⟨_, rfl⟩
  obtain ⟨f_d, f_a, f_n, g0, g1, lb, ub⟩ := shape11 d.isLt a.isLt n.isLt (show 70 < _ by decide) (show 0 < _ by decide) hv
  refine trip32 x0 hv rfl ⟨Nat.le_trans (by decide) lb, ub⟩ ?_
  have q : bits x0 30 25 = 6 := bits_sub g0 (by decide) (by decide)
  rw [at_decodeShi q]
  have q0 : bits x0 7 6 = 0 := bits_sub g1 (by decide) (by decide)
  have hd : decodeShi x0 = form x0 [(16, 8)] (.shli (fld x0 21) (fld x0 17) (fld x0 0)) := by unfold decodeShi; rw [q0]; rfl
  rw [hd, fld_eq _ _ _ f_d, fld_eq _ _ _ f_a, fld_eq _ _ _ f_n]
  have z0 : bits x0 16 8 = 0 := bits_sub g1 (by decide) (by decide)
  exact form_ok (by simp only [List.all_cons, List.all_nil, z0]; rfl) hw

theorem Sys2Proof.Laws.RoundTrip.shri (d : BitVec 4) (a : BitVec 4) (n : BitVec 6) : Statement (.shri d a n) := by
  intro hw _
  obtain ⟨x0, hv⟩ : ∃ x0, place 0x8c000040 [(d.toNat, 21), (a.toNat, 17), (n.toNat, 0)] = x0 := ⟨_, rfl⟩
  obtain ⟨f_d, f_a, f_n, g0, g1, lb, ub⟩ := shape11 d.isLt a.isLt n.isLt (show 70 < _ by decide) (show 1 < _ by decide) hv
  refine trip32 x0 hv rfl ⟨Nat.le_trans (by decide) lb, ub⟩ ?_
  have q : bits x0 30 25 = 6 := bits_sub g0 (by decide) (by decide)
  rw [at_decodeShi q]
  have q0 : bits x0 7 6 = 1 := bits_sub g1 (by decide) (by decide)
  have hd : decodeShi x0 = form x0 [(16, 8)] (.shri (fld x0 21) (fld x0 17) (fld x0 0)) := by unfold decodeShi; rw [q0]; rfl
  rw [hd, fld_eq _ _ _ f_d, fld_eq _ _ _ f_a, fld_eq _ _ _ f_n]
  have z0 : bits x0 16 8 = 0 := bits_sub g1 (by decide) (by decide)
  exact form_ok (by simp only [List.all_cons, List.all_nil, z0]; rfl) hw

theorem Sys2Proof.Laws.RoundTrip.shai (d : BitVec 4) (a : BitVec 4) (n : BitVec 6) : Statement (.shai d a n) := by
  intro hw _
  obtain ⟨x0, hv⟩ : ∃ x0, place 0x8c000080 [(d.toNat, 21), (a.toNat, 17), (n.toNat, 0)] = x0 := ⟨_, rfl⟩
  obtain ⟨f_d, f_a, f_n, g0, g1, lb, ub⟩ := shape11 d.isLt a.isLt n.isLt (show 70 < _ by decide) (show 2 < _ by decide) hv
  refine trip32 x0 hv rfl ⟨Nat.le_trans (by decide) lb, ub⟩ ?_
  have q : bits x0 30 25 = 6 := bits_sub g0 (by decide) (by decide)
  rw [at_decodeShi q]
  have q0 : bits x0 7 6 = 2 := bits_sub g1 (by decide) (by decide)
  have hd : decodeShi x0 = form x0 [(16, 8)] (.shai (fld x0 21) (fld x0 17) (fld x0 0)) := by unfold decodeShi; rw [q0]; rfl
  rw [hd, fld_eq _ _ _ f_d, fld_eq _ _ _ f_a, fld_eq _ _ _ f_n]
  have z0 : bits x0 16 8 = 0 := bits_sub g1 (by decide) (by decide)
  exact form_ok (by simp only [List.all_cons, List.all_nil, z0]; rfl) hw

theorem Sys2Proof.Laws.RoundTrip.roti (d : BitVec 4) (a : BitVec 4) (n : BitVec 6) : Statement (.roti d a n) := by
  intro hw _
  obtain ⟨x0, hv⟩ : ∃ x0, place 0x8c0000c0 [(d.toNat, 21), (a.toNat, 17), (n.toNat, 0)] = x0 := ⟨_, rfl⟩
  obtain ⟨f_d, f_a, f_n, g0, g1, lb, ub⟩ := shape11 d.isLt a.isLt n.isLt (show 70 < _ by decide) (show 3 < _ by decide) hv
  refine trip32 x0 hv rfl ⟨Nat.le_trans (by decide) lb, ub⟩ ?_
  have q : bits x0 30 25 = 6 := bits_sub g0 (by decide) (by decide)
  rw [at_decodeShi q]
  have q0 : bits x0 7 6 = 3 := bits_sub g1 (by decide) (by decide)
  have hd : decodeShi x0 = form x0 [(16, 8)] (.roti (fld x0 21) (fld x0 17) (fld x0 0)) := by unfold decodeShi; rw [q0]; rfl
  rw [hd, fld_eq _ _ _ f_d, fld_eq _ _ _ f_a, fld_eq _ _ _ f_n]
  have z0 : bits x0 16 8 = 0 := bits_sub g1 (by decide) (by decide)
  exact form_ok (by simp only [List.all_cons, List.all_nil, z0]; rfl) hw

theorem Sys2Proof.Laws.RoundTrip.bfx (d : BitVec 4) (a : BitVec 4) (wd : BitVec 6) (pos : BitVec 6) : Statement (.bfx d a wd pos) := by
  intro hw _
  obtain ⟨x0, hv⟩ : ∃ x0, place 0x8e000000 [(d.toNat, 21), (a.toNat, 17), (wd.toNat, 6), (pos.toNat, 0)] = x0 := ⟨_, rfl⟩
  obtain ⟨f_d, f_a, f_wd, f_pos, g0, g1, lb, ub⟩ := shape12 d.isLt a.isLt wd.isLt pos.isLt (show 71 < _ by decide) (show 0 < _ by decide) hv
  refine trip32 x0 hv rfl ⟨Nat.le_trans (by decide) lb, ub⟩ ?_
  have q : bits x0 30 25 = 7 := bits_sub g0 (by decide) (by decide)
  rw [at_decodeBitf q]
  have q0 : bits x0 16 16 = 0 := bits_sub g1 (by decide) (by decide)
  have hd : decodeBitf x0 = form x0 [(15, 12)] (.bfx (fld x0 21) (fld x0 17) (fld x0 6) (fld x0 0)) := by unfold decodeBitf; rw [q0]; rfl
  rw [hd, fld_eq _ _ _ f_d, fld_eq _ _ _ f_a, fld_eq _ _ _ f_wd, fld_eq _ _ _ f_pos]
  have z0 : bits x0 15 12 = 0 := bits_sub g1 (by decide) (by decide)
  exact form_ok (by simp only [List.all_cons, List.all_nil, z0]; rfl) hw

theorem Sys2Proof.Laws.RoundTrip.bfi (d : BitVec 4) (a : BitVec 4) (wd : BitVec 6) (pos : BitVec 6) : Statement (.bfi d a wd pos) := by
  intro hw _
  obtain ⟨x0, hv⟩ : ∃ x0, place 0x8e010000 [(d.toNat, 21), (a.toNat, 17), (wd.toNat, 6), (pos.toNat, 0)] = x0 := ⟨_, rfl⟩
  obtain ⟨f_d, f_a, f_wd, f_pos, g0, g1, lb, ub⟩ := shape12 d.isLt a.isLt wd.isLt pos.isLt (show 71 < _ by decide) (show 16 < _ by decide) hv
  refine trip32 x0 hv rfl ⟨Nat.le_trans (by decide) lb, ub⟩ ?_
  have q : bits x0 30 25 = 7 := bits_sub g0 (by decide) (by decide)
  rw [at_decodeBitf q]
  have q0 : bits x0 16 16 = 1 := bits_sub g1 (by decide) (by decide)
  have hd : decodeBitf x0 = form x0 [(15, 12)] (.bfi (fld x0 21) (fld x0 17) (fld x0 6) (fld x0 0)) := by unfold decodeBitf; rw [q0]; rfl
  rw [hd, fld_eq _ _ _ f_d, fld_eq _ _ _ f_a, fld_eq _ _ _ f_wd, fld_eq _ _ _ f_pos]
  have z0 : bits x0 15 12 = 0 := bits_sub g1 (by decide) (by decide)
  exact form_ok (by simp only [List.all_cons, List.all_nil, z0]; rfl) hw

theorem Sys2Proof.Laws.RoundTrip.li (d : BitVec 4) (i : BitVec 21) : Statement (.li d i) := by
  intro hw _
  obtain ⟨x0, hv⟩ : ∃ x0, place 0x90000000 [(d.toNat, 21), (i.toNat, 0)] = x0 := ⟨_, rfl⟩
  obtain ⟨f_d, f_i, g0, lb, ub⟩ := shape13 d.isLt i.isLt (show 72 < _ by decide) hv
  refine trip32 x0 hv rfl ⟨Nat.le_trans (by decide) lb, ub⟩ ?_
  have q0 : bits x0 30 25 = 8 := bits_sub g0 (by decide) (by decide)
  have hd : decode32 x0 = form x0 [] (.li (fld x0 21) (fld x0 0)) := by unfold decode32; rw [q0]; rfl
  rw [hd, fld_eq _ _ _ f_d, fld_eq _ _ _ f_i]
  exact form_ok (rfl) hw

theorem Sys2Proof.Laws.RoundTrip.lih (d : BitVec 4) (i : BitVec 21) : Statement (.lih d i) := by
  intro hw _
  obtain ⟨x0, hv⟩ : ∃ x0, place 0x92000000 [(d.toNat, 21), (i.toNat, 0)] = x0 := ⟨_, rfl⟩
  obtain ⟨f_d, f_i, g0, lb, ub⟩ := shape13 d.isLt i.isLt (show 73 < _ by decide) hv
  refine trip32 x0 hv rfl ⟨Nat.le_trans (by decide) lb, ub⟩ ?_
  have q0 : bits x0 30 25 = 9 := bits_sub g0 (by decide) (by decide)
  have hd : decode32 x0 = form x0 [] (.lih (fld x0 21) (fld x0 0)) := by unfold decode32; rw [q0]; rfl
  rw [hd, fld_eq _ _ _ f_d, fld_eq _ _ _ f_i]
  exact form_ok (rfl) hw

theorem Sys2Proof.Laws.RoundTrip.lix (d : BitVec 4) (e : BitVec 2) (i : BitVec 19) : Statement (.lix d e i) := by
  intro hw _
  obtain ⟨x0, hv⟩ : ∃ x0, place 0x94000000 [(d.toNat, 21), (e.toNat, 19), (i.toNat, 0)] = x0 := ⟨_, rfl⟩
  obtain ⟨f_d, f_e, f_i, g0, lb, ub⟩ := shape14 d.isLt e.isLt i.isLt (show 74 < _ by decide) hv
  refine trip32 x0 hv rfl ⟨Nat.le_trans (by decide) lb, ub⟩ ?_
  have q0 : bits x0 30 25 = 10 := bits_sub g0 (by decide) (by decide)
  have hd : decode32 x0 = form x0 [] (.lix (fld x0 21) (fld x0 19) (fld x0 0)) := by unfold decode32; rw [q0]; rfl
  rw [hd, fld_eq _ _ _ f_d, fld_eq _ _ _ f_e, fld_eq _ _ _ f_i]
  exact form_ok (rfl) hw

theorem Sys2Proof.Laws.RoundTrip.csrr (d : BitVec 4) (c : BitVec 12) : Statement (.csrr d c) := by
  intro hw _
  obtain ⟨x0, hv⟩ : ∃ x0, place 0x96000000 [(d.toNat, 21), (c.toNat, 0)] = x0 := ⟨_, rfl⟩
  obtain ⟨f_d, f_c, g0, g1, lb, ub⟩ := shape15 d.isLt c.isLt (show 75 < _ by decide) (show 0 < _ by decide) hv
  refine trip32 x0 hv rfl ⟨Nat.le_trans (by decide) lb, ub⟩ ?_
  have q : bits x0 30 25 = 11 := bits_sub g0 (by decide) (by decide)
  rw [at_decodeCsr q]
  have q0 : bits x0 16 15 = 0 := bits_sub g1 (by decide) (by decide)
  have hd : decodeCsr x0 = form x0 [(20, 17), (14, 12)] (.csrr (fld x0 21) (fld x0 0)) := by unfold decodeCsr; rw [q0]; rfl
  rw [hd, fld_eq _ _ _ f_d, fld_eq _ _ _ f_c]
  have z0 : bits x0 20 17 = 0 := bits_sub g1 (by decide) (by decide)
  have z1 : bits x0 14 12 = 0 := bits_sub g1 (by decide) (by decide)
  exact form_ok (by simp only [List.all_cons, List.all_nil, z0, z1]; rfl) hw

theorem Sys2Proof.Laws.RoundTrip.csrw (d : BitVec 4) (a : BitVec 4) (c : BitVec 12) : Statement (.csrw d a c) := by
  intro hw _
  obtain ⟨x0, hv⟩ : ∃ x0, place 0x96008000 [(d.toNat, 21), (a.toNat, 17), (c.toNat, 0)] = x0 := ⟨_, rfl⟩
  obtain ⟨f_d, f_a, f_c, g0, g1, lb, ub⟩ := shape16 d.isLt a.isLt c.isLt (show 75 < _ by decide) (show 8 < _ by decide) hv
  refine trip32 x0 hv rfl ⟨Nat.le_trans (by decide) lb, ub⟩ ?_
  have q : bits x0 30 25 = 11 := bits_sub g0 (by decide) (by decide)
  rw [at_decodeCsr q]
  have q0 : bits x0 16 15 = 1 := bits_sub g1 (by decide) (by decide)
  have hd : decodeCsr x0 = form x0 [(14, 12)] (.csrw (fld x0 21) (fld x0 17) (fld x0 0)) := by unfold decodeCsr; rw [q0]; rfl
  rw [hd, fld_eq _ _ _ f_d, fld_eq _ _ _ f_a, fld_eq _ _ _ f_c]
  have z0 : bits x0 14 12 = 0 := bits_sub g1 (by decide) (by decide)
  exact form_ok (by simp only [List.all_cons, List.all_nil, z0]; rfl) hw

theorem Sys2Proof.Laws.RoundTrip.csrs (d : BitVec 4) (a : BitVec 4) (c : BitVec 12) : Statement (.csrs d a c) := by
  intro hw _
  obtain ⟨x0, hv⟩ : ∃ x0, place 0x96010000 [(d.toNat, 21), (a.toNat, 17), (c.toNat, 0)] = x0 := ⟨_, rfl⟩
  obtain ⟨f_d, f_a, f_c, g0, g1, lb, ub⟩ := shape16 d.isLt a.isLt c.isLt (show 75 < _ by decide) (show 16 < _ by decide) hv
  refine trip32 x0 hv rfl ⟨Nat.le_trans (by decide) lb, ub⟩ ?_
  have q : bits x0 30 25 = 11 := bits_sub g0 (by decide) (by decide)
  rw [at_decodeCsr q]
  have q0 : bits x0 16 15 = 2 := bits_sub g1 (by decide) (by decide)
  have hd : decodeCsr x0 = form x0 [(14, 12)] (.csrs (fld x0 21) (fld x0 17) (fld x0 0)) := by unfold decodeCsr; rw [q0]; rfl
  rw [hd, fld_eq _ _ _ f_d, fld_eq _ _ _ f_a, fld_eq _ _ _ f_c]
  have z0 : bits x0 14 12 = 0 := bits_sub g1 (by decide) (by decide)
  exact form_ok (by simp only [List.all_cons, List.all_nil, z0]; rfl) hw

theorem Sys2Proof.Laws.RoundTrip.csrc (d : BitVec 4) (a : BitVec 4) (c : BitVec 12) : Statement (.csrc d a c) := by
  intro hw _
  obtain ⟨x0, hv⟩ : ∃ x0, place 0x96018000 [(d.toNat, 21), (a.toNat, 17), (c.toNat, 0)] = x0 := ⟨_, rfl⟩
  obtain ⟨f_d, f_a, f_c, g0, g1, lb, ub⟩ := shape16 d.isLt a.isLt c.isLt (show 75 < _ by decide) (show 24 < _ by decide) hv
  refine trip32 x0 hv rfl ⟨Nat.le_trans (by decide) lb, ub⟩ ?_
  have q : bits x0 30 25 = 11 := bits_sub g0 (by decide) (by decide)
  rw [at_decodeCsr q]
  have q0 : bits x0 16 15 = 3 := bits_sub g1 (by decide) (by decide)
  have hd : decodeCsr x0 = form x0 [(14, 12)] (.csrc (fld x0 21) (fld x0 17) (fld x0 0)) := by unfold decodeCsr; rw [q0]; rfl
  rw [hd, fld_eq _ _ _ f_d, fld_eq _ _ _ f_a, fld_eq _ _ _ f_c]
  have z0 : bits x0 14 12 = 0 := bits_sub g1 (by decide) (by decide)
  exact form_ok (by simp only [List.all_cons, List.all_nil, z0]; rfl) hw

theorem Sys2Proof.Laws.RoundTrip.beq (a : BitVec 4) (b : BitVec 4) (n : BitVec 2) (disp : BitVec 15) : Statement (.beq a b n disp) := by
  intro hw _
  obtain ⟨x0, hv⟩ : ∃ x0, place 0x98000000 [(a.toNat, 21), (b.toNat, 17), (n.toNat, 15), (disp.toNat, 0)] = x0 := ⟨_, rfl⟩
  obtain ⟨f_a, f_b, f_n, f_disp, g0, lb, ub⟩ := shape17 a.isLt b.isLt n.isLt disp.isLt (show 76 < _ by decide) hv
  refine trip32 x0 hv rfl ⟨Nat.le_trans (by decide) lb, ub⟩ ?_
  have q0 : bits x0 30 25 = 12 := bits_sub g0 (by decide) (by decide)
  have hd : decode32 x0 = form x0 [] (.beq (fld x0 21) (fld x0 17) (fld x0 15) (fld x0 0)) := by unfold decode32; rw [q0]; rfl
  rw [hd, fld_eq _ _ _ f_a, fld_eq _ _ _ f_b, fld_eq _ _ _ f_n, fld_eq _ _ _ f_disp]
  exact form_ok (rfl) hw

theorem Sys2Proof.Laws.RoundTrip.bne (a : BitVec 4) (b : BitVec 4) (n : BitVec 2) (disp : BitVec 15) : Statement (.bne a b n disp) := by
  intro hw _
  obtain ⟨x0, hv⟩ : ∃ x0, place 0x9a000000 [(a.toNat, 21), (b.toNat, 17), (n.toNat, 15), (disp.toNat, 0)] = x0 := ⟨_, rfl⟩
  obtain ⟨f_a, f_b, f_n, f_disp, g0, lb, ub⟩ := shape17 a.isLt b.isLt n.isLt disp.isLt (show 77 < _ by decide) hv
  refine trip32 x0 hv rfl ⟨Nat.le_trans (by decide) lb, ub⟩ ?_
  have q0 : bits x0 30 25 = 13 := bits_sub g0 (by decide) (by decide)
  have hd : decode32 x0 = form x0 [] (.bne (fld x0 21) (fld x0 17) (fld x0 15) (fld x0 0)) := by unfold decode32; rw [q0]; rfl
  rw [hd, fld_eq _ _ _ f_a, fld_eq _ _ _ f_b, fld_eq _ _ _ f_n, fld_eq _ _ _ f_disp]
  exact form_ok (rfl) hw

theorem Sys2Proof.Laws.RoundTrip.blt (a : BitVec 4) (b : BitVec 4) (n : BitVec 2) (disp : BitVec 15) : Statement (.blt a b n disp) := by
  intro hw _
  obtain ⟨x0, hv⟩ : ∃ x0, place 0x9c000000 [(a.toNat, 21), (b.toNat, 17), (n.toNat, 15), (disp.toNat, 0)] = x0 := ⟨_, rfl⟩
  obtain ⟨f_a, f_b, f_n, f_disp, g0, lb, ub⟩ := shape17 a.isLt b.isLt n.isLt disp.isLt (show 78 < _ by decide) hv
  refine trip32 x0 hv rfl ⟨Nat.le_trans (by decide) lb, ub⟩ ?_
  have q0 : bits x0 30 25 = 14 := bits_sub g0 (by decide) (by decide)
  have hd : decode32 x0 = form x0 [] (.blt (fld x0 21) (fld x0 17) (fld x0 15) (fld x0 0)) := by unfold decode32; rw [q0]; rfl
  rw [hd, fld_eq _ _ _ f_a, fld_eq _ _ _ f_b, fld_eq _ _ _ f_n, fld_eq _ _ _ f_disp]
  exact form_ok (rfl) hw

theorem Sys2Proof.Laws.RoundTrip.bge (a : BitVec 4) (b : BitVec 4) (n : BitVec 2) (disp : BitVec 15) : Statement (.bge a b n disp) := by
  intro hw _
  obtain ⟨x0, hv⟩ : ∃ x0, place 0x9e000000 [(a.toNat, 21), (b.toNat, 17), (n.toNat, 15), (disp.toNat, 0)] = x0 := ⟨_, rfl⟩
  obtain ⟨f_a, f_b, f_n, f_disp, g0, lb, ub⟩ := shape17 a.isLt b.isLt n.isLt disp.isLt (show 79 < _ by decide) hv
  refine trip32 x0 hv rfl ⟨Nat.le_trans (by decide) lb, ub⟩ ?_
  have q0 : bits x0 30 25 = 15 := bits_sub g0 (by decide) (by decide)
  have hd : decode32 x0 = form x0 [] (.bge (fld x0 21) (fld x0 17) (fld x0 15) (fld x0 0)) := by unfold decode32; rw [q0]; rfl
  rw [hd, fld_eq _ _ _ f_a, fld_eq _ _ _ f_b, fld_eq _ _ _ f_n, fld_eq _ _ _ f_disp]
  exact form_ok (rfl) hw

theorem Sys2Proof.Laws.RoundTrip.bltu (a : BitVec 4) (b : BitVec 4) (n : BitVec 2) (disp : BitVec 15) : Statement (.bltu a b n disp) := by
  intro hw _
  obtain ⟨x0, hv⟩ : ∃ x0, place 0xa0000000 [(a.toNat, 21), (b.toNat, 17), (n.toNat, 15), (disp.toNat, 0)] = x0 := ⟨_, rfl⟩
  obtain ⟨f_a, f_b, f_n, f_disp, g0, lb, ub⟩ := shape17 a.isLt b.isLt n.isLt disp.isLt (show 80 < _ by decide) hv
  refine trip32 x0 hv rfl ⟨Nat.le_trans (by decide) lb, ub⟩ ?_
  have q0 : bits x0 30 25 = 16 := bits_sub g0 (by decide) (by decide)
  have hd : decode32 x0 = form x0 [] (.bltu (fld x0 21) (fld x0 17) (fld x0 15) (fld x0 0)) := by unfold decode32; rw [q0]; rfl
  rw [hd, fld_eq _ _ _ f_a, fld_eq _ _ _ f_b, fld_eq _ _ _ f_n, fld_eq _ _ _ f_disp]
  exact form_ok (rfl) hw

theorem Sys2Proof.Laws.RoundTrip.bgeu (a : BitVec 4) (b : BitVec 4) (n : BitVec 2) (disp : BitVec 15) : Statement (.bgeu a b n disp) := by
  intro hw _
  obtain ⟨x0, hv⟩ : ∃ x0, place 0xa2000000 [(a.toNat, 21), (b.toNat, 17), (n.toNat, 15), (disp.toNat, 0)] = x0 := ⟨_, rfl⟩
  obtain ⟨f_a, f_b, f_n, f_disp, g0, lb, ub⟩ := shape17 a.isLt b.isLt n.isLt disp.isLt (show 81 < _ by decide) hv
  refine trip32 x0 hv rfl ⟨Nat.le_trans (by decide) lb, ub⟩ ?_
  have q0 : bits x0 30 25 = 17 := bits_sub g0 (by decide) (by decide)
  have hd : decode32 x0 = form x0 [] (.bgeu (fld x0 21) (fld x0 17) (fld x0 15) (fld x0 0)) := by unfold decode32; rw [q0]; rfl
  rw [hd, fld_eq _ _ _ f_a, fld_eq _ _ _ f_b, fld_eq _ _ _ f_n, fld_eq _ _ _ f_disp]
  exact form_ok (rfl) hw

theorem Sys2Proof.Laws.RoundTrip.jal (d : BitVec 4) (n : BitVec 1) (disp : BitVec 20) : Statement (.jal d n disp) := by
  intro hw _
  obtain ⟨x0, hv⟩ : ∃ x0, place 0xa4000000 [(d.toNat, 21), (n.toNat, 20), (disp.toNat, 0)] = x0 := ⟨_, rfl⟩
  obtain ⟨f_d, f_n, f_disp, g0, lb, ub⟩ := shape18 d.isLt n.isLt disp.isLt (show 82 < _ by decide) hv
  refine trip32 x0 hv rfl ⟨Nat.le_trans (by decide) lb, ub⟩ ?_
  have q0 : bits x0 30 25 = 18 := bits_sub g0 (by decide) (by decide)
  have hd : decode32 x0 = form x0 [] (.jal (fld x0 21) (fld x0 20) (fld x0 0)) := by unfold decode32; rw [q0]; rfl
  rw [hd, fld_eq _ _ _ f_d, fld_eq _ _ _ f_n, fld_eq _ _ _ f_disp]
  exact form_ok (rfl) hw

theorem Sys2Proof.Laws.RoundTrip.jalr (d : BitVec 4) (a : BitVec 4) (n : BitVec 1) : Statement (.jalr d a n) := by
  intro hw _
  obtain ⟨x0, hv⟩ : ∃ x0, place 0xa6000000 [(d.toNat, 21), (a.toNat, 17), (n.toNat, 0)] = x0 := ⟨_, rfl⟩
  obtain ⟨f_d, f_a, f_n, g0, g1, lb, ub⟩ := shape19 d.isLt a.isLt n.isLt (show 83 < _ by decide) (show 0 < _ by decide) hv
  refine trip32 x0 hv rfl ⟨Nat.le_trans (by decide) lb, ub⟩ ?_
  have q0 : bits x0 30 25 = 19 := bits_sub g0 (by decide) (by decide)
  have hd : decode32 x0 = form x0 [(16, 1)] (.jalr (fld x0 21) (fld x0 17) (fld x0 0)) := by unfold decode32; rw [q0]; rfl
  rw [hd, fld_eq _ _ _ f_d, fld_eq _ _ _ f_a, fld_eq _ _ _ f_n]
  have z0 : bits x0 16 1 = 0 := g1
  exact form_ok (by simp only [List.all_cons, List.all_nil, z0]; rfl) hw

theorem Sys2Proof.Laws.RoundTrip.nop : Statement (.nop) := by
  intro hw _
  obtain ⟨x0, hv⟩ : ∃ x0, place 0xa8000000 [] = x0 := ⟨_, rfl⟩
  obtain ⟨g0, lb, ub⟩ := shape20  (show 2818572288 < _ by decide) hv
  refine trip32 x0 hv rfl ⟨Nat.le_trans (by decide) lb, ub⟩ ?_
  have q : bits x0 30 25 = 20 := bits_sub g0 (by decide) (by decide)
  rw [at_decodeSys q]
  have q0 : bits x0 9 0 = 0 := bits_sub g0 (by decide) (by decide)
  have hd : decodeSys x0 = form x0 [(24, 10)] (.nop) := by unfold decodeSys; rw [q0]; rfl
  rw [hd]
  have z0 : bits x0 24 10 = 0 := bits_sub g0 (by decide) (by decide)
  exact form_ok (by simp only [List.all_cons, List.all_nil, z0]; rfl) hw

theorem Sys2Proof.Laws.RoundTrip.trap (a : BitVec 4) : Statement (.trap a) := by
  intro hw _
  obtain ⟨x0, hv⟩ : ∃ x0, place 0xa8000001 [(a.toNat, 17)] = x0 := ⟨_, rfl⟩
  obtain ⟨f_a, g0, g1, lb, ub⟩ := shape21 a.isLt (show 1344 < _ by decide) (show 1 < _ by decide) hv
  refine trip32 x0 hv rfl ⟨Nat.le_trans (by decide) lb, ub⟩ ?_
  have q : bits x0 30 25 = 20 := bits_sub g0 (by decide) (by decide)
  rw [at_decodeSys q]
  have q0 : bits x0 9 0 = 1 := bits_sub g1 (by decide) (by decide)
  have hd : decodeSys x0 = form x0 [(24, 21), (16, 10)] (.trap (fld x0 17)) := by unfold decodeSys; rw [q0]; rfl
  rw [hd, fld_eq _ _ _ f_a]
  have z0 : bits x0 24 21 = 0 := bits_sub g0 (by decide) (by decide)
  have z1 : bits x0 16 10 = 0 := bits_sub g1 (by decide) (by decide)
  exact form_ok (by simp only [List.all_cons, List.all_nil, z0, z1]; rfl) hw

theorem Sys2Proof.Laws.RoundTrip.brk : Statement (.brk) := by
  intro hw _
  obtain ⟨x0, hv⟩ : ∃ x0, place 0xa8000002 [] = x0 := ⟨_, rfl⟩
  obtain ⟨g0, lb, ub⟩ := shape20  (show 2818572290 < _ by decide) hv
  refine trip32 x0 hv rfl ⟨Nat.le_trans (by decide) lb, ub⟩ ?_
  have q : bits x0 30 25 = 20 := bits_sub g0 (by decide) (by decide)
  rw [at_decodeSys q]
  have q0 : bits x0 9 0 = 2 := bits_sub g0 (by decide) (by decide)
  have hd : decodeSys x0 = form x0 [(24, 10)] (.brk) := by unfold decodeSys; rw [q0]; rfl
  rw [hd]
  have z0 : bits x0 24 10 = 0 := bits_sub g0 (by decide) (by decide)
  exact form_ok (by simp only [List.all_cons, List.all_nil, z0]; rfl) hw

theorem Sys2Proof.Laws.RoundTrip.eret : Statement (.eret) := by
  intro hw _
  obtain ⟨x0, hv⟩ : ∃ x0, place 0xa8000003 [] = x0 := ⟨_, rfl⟩
  obtain ⟨g0, lb, ub⟩ := shape20  (show 2818572291 < _ by decide) hv
  refine trip32 x0 hv rfl ⟨Nat.le_trans (by decide) lb, ub⟩ ?_
  have q : bits x0 30 25 = 20 := bits_sub g0 (by decide) (by decide)
  rw [at_decodeSys q]
  have q0 : bits x0 9 0 = 3 := bits_sub g0 (by decide) (by decide)
  have hd : decodeSys x0 = form x0 [(24, 10)] (.eret) := by unfold decodeSys; rw [q0]; rfl
  rw [hd]
  have z0 : bits x0 24 10 = 0 := bits_sub g0 (by decide) (by decide)
  exact form_ok (by simp only [List.all_cons, List.all_nil, z0]; rfl) hw

theorem Sys2Proof.Laws.RoundTrip.sleep (a : BitVec 4) : Statement (.sleep a) := by
  intro hw _
  obtain ⟨x0, hv⟩ : ∃ x0, place 0xa8000004 [(a.toNat, 17)] = x0 := ⟨_, rfl⟩
  obtain ⟨f_a, g0, g1, lb, ub⟩ := shape21 a.isLt (show 1344 < _ by decide) (show 4 < _ by decide) hv
  refine trip32 x0 hv rfl ⟨Nat.le_trans (by decide) lb, ub⟩ ?_
  have q : bits x0 30 25 = 20 := bits_sub g0 (by decide) (by decide)
  rw [at_decodeSys q]
  have q0 : bits x0 9 0 = 4 := bits_sub g1 (by decide) (by decide)
  have hd : decodeSys x0 = form x0 [(24, 21), (16, 10)] (.sleep (fld x0 17)) := by unfold decodeSys; rw [q0]; rfl
  rw [hd, fld_eq _ _ _ f_a]
  have z0 : bits x0 24 21 = 0 := bits_sub g0 (by decide) (by decide)
  have z1 : bits x0 16 10 = 0 := bits_sub g1 (by decide) (by decide)
  exact form_ok (by simp only [List.all_cons, List.all_nil, z0, z1]; rfl) hw

theorem Sys2Proof.Laws.RoundTrip.fenceI : Statement (.fenceI) := by
  intro hw _
  obtain ⟨x0, hv⟩ : ∃ x0, place 0xa8000005 [] = x0 := ⟨_, rfl⟩
  obtain ⟨g0, lb, ub⟩ := shape20  (show 2818572293 < _ by decide) hv
  refine trip32 x0 hv rfl ⟨Nat.le_trans (by decide) lb, ub⟩ ?_
  have q : bits x0 30 25 = 20 := bits_sub g0 (by decide) (by decide)
  rw [at_decodeSys q]
  have q0 : bits x0 9 0 = 5 := bits_sub g0 (by decide) (by decide)
  have hd : decodeSys x0 = form x0 [(24, 10)] (.fenceI) := by unfold decodeSys; rw [q0]; rfl
  rw [hd]
  have z0 : bits x0 24 10 = 0 := bits_sub g0 (by decide) (by decide)
  exact form_ok (by simp only [List.all_cons, List.all_nil, z0]; rfl) hw

theorem Sys2Proof.Laws.RoundTrip.qcfg (a : BitVec 4) : Statement (.qcfg a) := by
  intro hw _
  obtain ⟨x0, hv⟩ : ∃ x0, place 0xa8000006 [(a.toNat, 17)] = x0 := ⟨_, rfl⟩
  obtain ⟨f_a, g0, g1, lb, ub⟩ := shape21 a.isLt (show 1344 < _ by decide) (show 6 < _ by decide) hv
  refine trip32 x0 hv rfl ⟨Nat.le_trans (by decide) lb, ub⟩ ?_
  have q : bits x0 30 25 = 20 := bits_sub g0 (by decide) (by decide)
  rw [at_decodeSys q]
  have q0 : bits x0 9 0 = 6 := bits_sub g1 (by decide) (by decide)
  have hd : decodeSys x0 = form x0 [(24, 21), (16, 10)] (.qcfg (fld x0 17)) := by unfold decodeSys; rw [q0]; rfl
  rw [hd, fld_eq _ _ _ f_a]
  have z0 : bits x0 24 21 = 0 := bits_sub g0 (by decide) (by decide)
  have z1 : bits x0 16 10 = 0 := bits_sub g1 (by decide) (by decide)
  exact form_ok (by simp only [List.all_cons, List.all_nil, z0, z1]; rfl) hw

theorem Sys2Proof.Laws.RoundTrip.cxsave (a : BitVec 4) : Statement (.cxsave a) := by
  intro hw _
  obtain ⟨x0, hv⟩ : ∃ x0, place 0xa8000007 [(a.toNat, 17)] = x0 := ⟨_, rfl⟩
  obtain ⟨f_a, g0, g1, lb, ub⟩ := shape21 a.isLt (show 1344 < _ by decide) (show 7 < _ by decide) hv
  refine trip32 x0 hv rfl ⟨Nat.le_trans (by decide) lb, ub⟩ ?_
  have q : bits x0 30 25 = 20 := bits_sub g0 (by decide) (by decide)
  rw [at_decodeSys q]
  have q0 : bits x0 9 0 = 7 := bits_sub g1 (by decide) (by decide)
  have hd : decodeSys x0 = form x0 [(24, 21), (16, 10)] (.cxsave (fld x0 17)) := by unfold decodeSys; rw [q0]; rfl
  rw [hd, fld_eq _ _ _ f_a]
  have z0 : bits x0 24 21 = 0 := bits_sub g0 (by decide) (by decide)
  have z1 : bits x0 16 10 = 0 := bits_sub g1 (by decide) (by decide)
  exact form_ok (by simp only [List.all_cons, List.all_nil, z0, z1]; rfl) hw

theorem Sys2Proof.Laws.RoundTrip.cxload (a : BitVec 4) : Statement (.cxload a) := by
  intro hw _
  obtain ⟨x0, hv⟩ : ∃ x0, place 0xa8000008 [(a.toNat, 17)] = x0 := ⟨_, rfl⟩
  obtain ⟨f_a, g0, g1, lb, ub⟩ := shape21 a.isLt (show 1344 < _ by decide) (show 8 < _ by decide) hv
  refine trip32 x0 hv rfl ⟨Nat.le_trans (by decide) lb, ub⟩ ?_
  have q : bits x0 30 25 = 20 := bits_sub g0 (by decide) (by decide)
  rw [at_decodeSys q]
  have q0 : bits x0 9 0 = 8 := bits_sub g1 (by decide) (by decide)
  have hd : decodeSys x0 = form x0 [(24, 21), (16, 10)] (.cxload (fld x0 17)) := by unfold decodeSys; rw [q0]; rfl
  rw [hd, fld_eq _ _ _ f_a]
  have z0 : bits x0 24 21 = 0 := bits_sub g0 (by decide) (by decide)
  have z1 : bits x0 16 10 = 0 := bits_sub g1 (by decide) (by decide)
  exact form_ok (by simp only [List.all_cons, List.all_nil, z0, z1]; rfl) hw

theorem Sys2Proof.Laws.RoundTrip.ldb (d : BitVec 4) (a : BitVec 4) (ord : BitVec 2) (scope : BitVec 3) (pol : BitVec 2) (off : BitVec 10) : Statement (.ldb d a ord scope pol off) := by
  intro hw _
  obtain ⟨x0, hv⟩ : ∃ x0, place 0xaa000000 [(d.toNat, 21), (a.toNat, 17), (ord.toNat, 15), (scope.toNat, 12), (pol.toNat, 10), (off.toNat, 0)] = x0 := ⟨_, rfl⟩
  obtain ⟨f_d, f_a, f_ord, f_scope, f_pol, f_off, g0, lb, ub⟩ := shape22 d.isLt a.isLt ord.isLt scope.isLt pol.isLt off.isLt (show 85 < _ by decide) hv
  refine trip32 x0 hv rfl ⟨Nat.le_trans (by decide) lb, ub⟩ ?_
  have q0 : bits x0 30 25 = 21 := bits_sub g0 (by decide) (by decide)
  have hd : decode32 x0 = form x0 [] (.ldb (fld x0 21) (fld x0 17) (fld x0 15) (fld x0 12) (fld x0 10) (fld x0 0)) := by unfold decode32; rw [q0]; rfl
  rw [hd, fld_eq _ _ _ f_d, fld_eq _ _ _ f_a, fld_eq _ _ _ f_ord, fld_eq _ _ _ f_scope, fld_eq _ _ _ f_pol, fld_eq _ _ _ f_off]
  exact form_ok (rfl) hw

theorem Sys2Proof.Laws.RoundTrip.ldbu (d : BitVec 4) (a : BitVec 4) (ord : BitVec 2) (scope : BitVec 3) (pol : BitVec 2) (off : BitVec 10) : Statement (.ldbu d a ord scope pol off) := by
  intro hw _
  obtain ⟨x0, hv⟩ : ∃ x0, place 0xac000000 [(d.toNat, 21), (a.toNat, 17), (ord.toNat, 15), (scope.toNat, 12), (pol.toNat, 10), (off.toNat, 0)] = x0 := ⟨_, rfl⟩
  obtain ⟨f_d, f_a, f_ord, f_scope, f_pol, f_off, g0, lb, ub⟩ := shape22 d.isLt a.isLt ord.isLt scope.isLt pol.isLt off.isLt (show 86 < _ by decide) hv
  refine trip32 x0 hv rfl ⟨Nat.le_trans (by decide) lb, ub⟩ ?_
  have q0 : bits x0 30 25 = 22 := bits_sub g0 (by decide) (by decide)
  have hd : decode32 x0 = form x0 [] (.ldbu (fld x0 21) (fld x0 17) (fld x0 15) (fld x0 12) (fld x0 10) (fld x0 0)) := by unfold decode32; rw [q0]; rfl
  rw [hd, fld_eq _ _ _ f_d, fld_eq _ _ _ f_a, fld_eq _ _ _ f_ord, fld_eq _ _ _ f_scope, fld_eq _ _ _ f_pol, fld_eq _ _ _ f_off]
  exact form_ok (rfl) hw

theorem Sys2Proof.Laws.RoundTrip.ldh (d : BitVec 4) (a : BitVec 4) (ord : BitVec 2) (scope : BitVec 3) (pol : BitVec 2) (off : BitVec 10) : Statement (.ldh d a ord scope pol off) := by
  intro hw _
  obtain ⟨x0, hv⟩ : ∃ x0, place 0xae000000 [(d.toNat, 21), (a.toNat, 17), (ord.toNat, 15), (scope.toNat, 12), (pol.toNat, 10), (off.toNat, 0)] = x0 := ⟨_, rfl⟩
  obtain ⟨f_d, f_a, f_ord, f_scope, f_pol, f_off, g0, lb, ub⟩ := shape22 d.isLt a.isLt ord.isLt scope.isLt pol.isLt off.isLt (show 87 < _ by decide) hv
  refine trip32 x0 hv rfl ⟨Nat.le_trans (by decide) lb, ub⟩ ?_
  have q0 : bits x0 30 25 = 23 := bits_sub g0 (by decide) (by decide)
  have hd : decode32 x0 = form x0 [] (.ldh (fld x0 21) (fld x0 17) (fld x0 15) (fld x0 12) (fld x0 10) (fld x0 0)) := by unfold decode32; rw [q0]; rfl
  rw [hd, fld_eq _ _ _ f_d, fld_eq _ _ _ f_a, fld_eq _ _ _ f_ord, fld_eq _ _ _ f_scope, fld_eq _ _ _ f_pol, fld_eq _ _ _ f_off]
  exact form_ok (rfl) hw

theorem Sys2Proof.Laws.RoundTrip.ldhu (d : BitVec 4) (a : BitVec 4) (ord : BitVec 2) (scope : BitVec 3) (pol : BitVec 2) (off : BitVec 10) : Statement (.ldhu d a ord scope pol off) := by
  intro hw _
  obtain ⟨x0, hv⟩ : ∃ x0, place 0xb0000000 [(d.toNat, 21), (a.toNat, 17), (ord.toNat, 15), (scope.toNat, 12), (pol.toNat, 10), (off.toNat, 0)] = x0 := ⟨_, rfl⟩
  obtain ⟨f_d, f_a, f_ord, f_scope, f_pol, f_off, g0, lb, ub⟩ := shape22 d.isLt a.isLt ord.isLt scope.isLt pol.isLt off.isLt (show 88 < _ by decide) hv
  refine trip32 x0 hv rfl ⟨Nat.le_trans (by decide) lb, ub⟩ ?_
  have q0 : bits x0 30 25 = 24 := bits_sub g0 (by decide) (by decide)
  have hd : decode32 x0 = form x0 [] (.ldhu (fld x0 21) (fld x0 17) (fld x0 15) (fld x0 12) (fld x0 10) (fld x0 0)) := by unfold decode32; rw [q0]; rfl
  rw [hd, fld_eq _ _ _ f_d, fld_eq _ _ _ f_a, fld_eq _ _ _ f_ord, fld_eq _ _ _ f_scope, fld_eq _ _ _ f_pol, fld_eq _ _ _ f_off]
  exact form_ok (rfl) hw

theorem Sys2Proof.Laws.RoundTrip.ldw (d : BitVec 4) (a : BitVec 4) (ord : BitVec 2) (scope : BitVec 3) (pol : BitVec 2) (off : BitVec 10) : Statement (.ldw d a ord scope pol off) := by
  intro hw _
  obtain ⟨x0, hv⟩ : ∃ x0, place 0xb2000000 [(d.toNat, 21), (a.toNat, 17), (ord.toNat, 15), (scope.toNat, 12), (pol.toNat, 10), (off.toNat, 0)] = x0 := ⟨_, rfl⟩
  obtain ⟨f_d, f_a, f_ord, f_scope, f_pol, f_off, g0, lb, ub⟩ := shape22 d.isLt a.isLt ord.isLt scope.isLt pol.isLt off.isLt (show 89 < _ by decide) hv
  refine trip32 x0 hv rfl ⟨Nat.le_trans (by decide) lb, ub⟩ ?_
  have q0 : bits x0 30 25 = 25 := bits_sub g0 (by decide) (by decide)
  have hd : decode32 x0 = form x0 [] (.ldw (fld x0 21) (fld x0 17) (fld x0 15) (fld x0 12) (fld x0 10) (fld x0 0)) := by unfold decode32; rw [q0]; rfl
  rw [hd, fld_eq _ _ _ f_d, fld_eq _ _ _ f_a, fld_eq _ _ _ f_ord, fld_eq _ _ _ f_scope, fld_eq _ _ _ f_pol, fld_eq _ _ _ f_off]
  exact form_ok (rfl) hw

theorem Sys2Proof.Laws.RoundTrip.ldwu (d : BitVec 4) (a : BitVec 4) (ord : BitVec 2) (scope : BitVec 3) (pol : BitVec 2) (off : BitVec 10) : Statement (.ldwu d a ord scope pol off) := by
  intro hw _
  obtain ⟨x0, hv⟩ : ∃ x0, place 0xb4000000 [(d.toNat, 21), (a.toNat, 17), (ord.toNat, 15), (scope.toNat, 12), (pol.toNat, 10), (off.toNat, 0)] = x0 := ⟨_, rfl⟩
  obtain ⟨f_d, f_a, f_ord, f_scope, f_pol, f_off, g0, lb, ub⟩ := shape22 d.isLt a.isLt ord.isLt scope.isLt pol.isLt off.isLt (show 90 < _ by decide) hv
  refine trip32 x0 hv rfl ⟨Nat.le_trans (by decide) lb, ub⟩ ?_
  have q0 : bits x0 30 25 = 26 := bits_sub g0 (by decide) (by decide)
  have hd : decode32 x0 = form x0 [] (.ldwu (fld x0 21) (fld x0 17) (fld x0 15) (fld x0 12) (fld x0 10) (fld x0 0)) := by unfold decode32; rw [q0]; rfl
  rw [hd, fld_eq _ _ _ f_d, fld_eq _ _ _ f_a, fld_eq _ _ _ f_ord, fld_eq _ _ _ f_scope, fld_eq _ _ _ f_pol, fld_eq _ _ _ f_off]
  exact form_ok (rfl) hw

theorem Sys2Proof.Laws.RoundTrip.ldd (d : BitVec 4) (a : BitVec 4) (ord : BitVec 2) (scope : BitVec 3) (pol : BitVec 2) (off : BitVec 10) : Statement (.ldd d a ord scope pol off) := by
  intro hw _
  obtain ⟨x0, hv⟩ : ∃ x0, place 0xb6000000 [(d.toNat, 21), (a.toNat, 17), (ord.toNat, 15), (scope.toNat, 12), (pol.toNat, 10), (off.toNat, 0)] = x0 := ⟨_, rfl⟩
  obtain ⟨f_d, f_a, f_ord, f_scope, f_pol, f_off, g0, lb, ub⟩ := shape22 d.isLt a.isLt ord.isLt scope.isLt pol.isLt off.isLt (show 91 < _ by decide) hv
  refine trip32 x0 hv rfl ⟨Nat.le_trans (by decide) lb, ub⟩ ?_
  have q0 : bits x0 30 25 = 27 := bits_sub g0 (by decide) (by decide)
  have hd : decode32 x0 = form x0 [] (.ldd (fld x0 21) (fld x0 17) (fld x0 15) (fld x0 12) (fld x0 10) (fld x0 0)) := by unfold decode32; rw [q0]; rfl
  rw [hd, fld_eq _ _ _ f_d, fld_eq _ _ _ f_a, fld_eq _ _ _ f_ord, fld_eq _ _ _ f_scope, fld_eq _ _ _ f_pol, fld_eq _ _ _ f_off]
  exact form_ok (rfl) hw

theorem Sys2Proof.Laws.RoundTrip.ldq (d : BitVec 4) (a : BitVec 4) (ord : BitVec 2) (scope : BitVec 3) (pol : BitVec 2) (off : BitVec 10) : Statement (.ldq d a ord scope pol off) := by
  intro hw _
  obtain ⟨x0, hv⟩ : ∃ x0, place 0xb8000000 [(d.toNat, 21), (a.toNat, 17), (ord.toNat, 15), (scope.toNat, 12), (pol.toNat, 10), (off.toNat, 0)] = x0 := ⟨_, rfl⟩
  obtain ⟨f_d, f_a, f_ord, f_scope, f_pol, f_off, g0, lb, ub⟩ := shape22 d.isLt a.isLt ord.isLt scope.isLt pol.isLt off.isLt (show 92 < _ by decide) hv
  refine trip32 x0 hv rfl ⟨Nat.le_trans (by decide) lb, ub⟩ ?_
  have q0 : bits x0 30 25 = 28 := bits_sub g0 (by decide) (by decide)
  have hd : decode32 x0 = form x0 [] (.ldq (fld x0 21) (fld x0 17) (fld x0 15) (fld x0 12) (fld x0 10) (fld x0 0)) := by unfold decode32; rw [q0]; rfl
  rw [hd, fld_eq _ _ _ f_d, fld_eq _ _ _ f_a, fld_eq _ _ _ f_ord, fld_eq _ _ _ f_scope, fld_eq _ _ _ f_pol, fld_eq _ _ _ f_off]
  exact form_ok (rfl) hw

theorem Sys2Proof.Laws.RoundTrip.stb (d : BitVec 4) (a : BitVec 4) (ord : BitVec 2) (scope : BitVec 3) (pol : BitVec 2) (off : BitVec 10) : Statement (.stb d a ord scope pol off) := by
  intro hw _
  obtain ⟨x0, hv⟩ : ∃ x0, place 0xba000000 [(d.toNat, 21), (a.toNat, 17), (ord.toNat, 15), (scope.toNat, 12), (pol.toNat, 10), (off.toNat, 0)] = x0 := ⟨_, rfl⟩
  obtain ⟨f_d, f_a, f_ord, f_scope, f_pol, f_off, g0, lb, ub⟩ := shape22 d.isLt a.isLt ord.isLt scope.isLt pol.isLt off.isLt (show 93 < _ by decide) hv
  refine trip32 x0 hv rfl ⟨Nat.le_trans (by decide) lb, ub⟩ ?_
  have q0 : bits x0 30 25 = 29 := bits_sub g0 (by decide) (by decide)
  have hd : decode32 x0 = form x0 [] (.stb (fld x0 21) (fld x0 17) (fld x0 15) (fld x0 12) (fld x0 10) (fld x0 0)) := by unfold decode32; rw [q0]; rfl
  rw [hd, fld_eq _ _ _ f_d, fld_eq _ _ _ f_a, fld_eq _ _ _ f_ord, fld_eq _ _ _ f_scope, fld_eq _ _ _ f_pol, fld_eq _ _ _ f_off]
  exact form_ok (rfl) hw

theorem Sys2Proof.Laws.RoundTrip.sth (d : BitVec 4) (a : BitVec 4) (ord : BitVec 2) (scope : BitVec 3) (pol : BitVec 2) (off : BitVec 10) : Statement (.sth d a ord scope pol off) := by
  intro hw _
  obtain ⟨x0, hv⟩ : ∃ x0, place 0xbc000000 [(d.toNat, 21), (a.toNat, 17), (ord.toNat, 15), (scope.toNat, 12), (pol.toNat, 10), (off.toNat, 0)] = x0 := ⟨_, rfl⟩
  obtain ⟨f_d, f_a, f_ord, f_scope, f_pol, f_off, g0, lb, ub⟩ := shape22 d.isLt a.isLt ord.isLt scope.isLt pol.isLt off.isLt (show 94 < _ by decide) hv
  refine trip32 x0 hv rfl ⟨Nat.le_trans (by decide) lb, ub⟩ ?_
  have q0 : bits x0 30 25 = 30 := bits_sub g0 (by decide) (by decide)
  have hd : decode32 x0 = form x0 [] (.sth (fld x0 21) (fld x0 17) (fld x0 15) (fld x0 12) (fld x0 10) (fld x0 0)) := by unfold decode32; rw [q0]; rfl
  rw [hd, fld_eq _ _ _ f_d, fld_eq _ _ _ f_a, fld_eq _ _ _ f_ord, fld_eq _ _ _ f_scope, fld_eq _ _ _ f_pol, fld_eq _ _ _ f_off]
  exact form_ok (rfl) hw

theorem Sys2Proof.Laws.RoundTrip.stw (d : BitVec 4) (a : BitVec 4) (ord : BitVec 2) (scope : BitVec 3) (pol : BitVec 2) (off : BitVec 10) : Statement (.stw d a ord scope pol off) := by
  intro hw _
  obtain ⟨x0, hv⟩ : ∃ x0, place 0xbe000000 [(d.toNat, 21), (a.toNat, 17), (ord.toNat, 15), (scope.toNat, 12), (pol.toNat, 10), (off.toNat, 0)] = x0 := ⟨_, rfl⟩
  obtain ⟨f_d, f_a, f_ord, f_scope, f_pol, f_off, g0, lb, ub⟩ := shape22 d.isLt a.isLt ord.isLt scope.isLt pol.isLt off.isLt (show 95 < _ by decide) hv
  refine trip32 x0 hv rfl ⟨Nat.le_trans (by decide) lb, ub⟩ ?_
  have q0 : bits x0 30 25 = 31 := bits_sub g0 (by decide) (by decide)
  have hd : decode32 x0 = form x0 [] (.stw (fld x0 21) (fld x0 17) (fld x0 15) (fld x0 12) (fld x0 10) (fld x0 0)) := by unfold decode32; rw [q0]; rfl
  rw [hd, fld_eq _ _ _ f_d, fld_eq _ _ _ f_a, fld_eq _ _ _ f_ord, fld_eq _ _ _ f_scope, fld_eq _ _ _ f_pol, fld_eq _ _ _ f_off]
  exact form_ok (rfl) hw

theorem Sys2Proof.Laws.RoundTrip.std (d : BitVec 4) (a : BitVec 4) (ord : BitVec 2) (scope : BitVec 3) (pol : BitVec 2) (off : BitVec 10) : Statement (.std d a ord scope pol off) := by
  intro hw _
  obtain ⟨x0, hv⟩ : ∃ x0, place 0xc0000000 [(d.toNat, 21), (a.toNat, 17), (ord.toNat, 15), (scope.toNat, 12), (pol.toNat, 10), (off.toNat, 0)] = x0 := ⟨_, rfl⟩
  obtain ⟨f_d, f_a, f_ord, f_scope, f_pol, f_off, g0, lb, ub⟩ := shape22 d.isLt a.isLt ord.isLt scope.isLt pol.isLt off.isLt (show 96 < _ by decide) hv
  refine trip32 x0 hv rfl ⟨Nat.le_trans (by decide) lb, ub⟩ ?_
  have q0 : bits x0 30 25 = 32 := bits_sub g0 (by decide) (by decide)
  have hd : decode32 x0 = form x0 [] (.std (fld x0 21) (fld x0 17) (fld x0 15) (fld x0 12) (fld x0 10) (fld x0 0)) := by unfold decode32; rw [q0]; rfl
  rw [hd, fld_eq _ _ _ f_d, fld_eq _ _ _ f_a, fld_eq _ _ _ f_ord, fld_eq _ _ _ f_scope, fld_eq _ _ _ f_pol, fld_eq _ _ _ f_off]
  exact form_ok (rfl) hw

theorem Sys2Proof.Laws.RoundTrip.stq (d : BitVec 4) (a : BitVec 4) (ord : BitVec 2) (scope : BitVec 3) (pol : BitVec 2) (off : BitVec 10) : Statement (.stq d a ord scope pol off) := by
  intro hw _
  obtain ⟨x0, hv⟩ : ∃ x0, place 0xc2000000 [(d.toNat, 21), (a.toNat, 17), (ord.toNat, 15), (scope.toNat, 12), (pol.toNat, 10), (off.toNat, 0)] = x0 := ⟨_, rfl⟩
  obtain ⟨f_d, f_a, f_ord, f_scope, f_pol, f_off, g0, lb, ub⟩ := shape22 d.isLt a.isLt ord.isLt scope.isLt pol.isLt off.isLt (show 97 < _ by decide) hv
  refine trip32 x0 hv rfl ⟨Nat.le_trans (by decide) lb, ub⟩ ?_
  have q0 : bits x0 30 25 = 33 := bits_sub g0 (by decide) (by decide)
  have hd : decode32 x0 = form x0 [] (.stq (fld x0 21) (fld x0 17) (fld x0 15) (fld x0 12) (fld x0 10) (fld x0 0)) := by unfold decode32; rw [q0]; rfl
  rw [hd, fld_eq _ _ _ f_d, fld_eq _ _ _ f_a, fld_eq _ _ _ f_ord, fld_eq _ _ _ f_scope, fld_eq _ _ _ f_pol, fld_eq _ _ _ f_off]
  exact form_ok (rfl) hw

theorem Sys2Proof.Laws.RoundTrip.ldx (d : BitVec 4) (a : BitVec 4) (b : BitVec 4) : Statement (.ldx d a b) := by
  intro hw _
  obtain ⟨x0, hv⟩ : ∃ x0, place 0xc4000000 [(d.toNat, 21), (a.toNat, 17), (b.toNat, 10)] = x0 := ⟨_, rfl⟩
  obtain ⟨f_d, f_a, f_b, g0, g1, g2, lb, ub⟩ := shape23 d.isLt a.isLt b.isLt (show 98 < _ by decide) (show 0 < _ by decide) (show 0 < _ by decide) hv
  refine trip32 x0 hv rfl ⟨Nat.le_trans (by decide) lb, ub⟩ ?_
  have q : bits x0 30 25 = 34 := bits_sub g0 (by decide) (by decide)
  rw [at_decodeMidx q]
  have q0 : bits x0 9 0 = 0 := g2
  have hd : decodeMidx x0 = form x0 [(16, 14)] (.ldx (fld x0 21) (fld x0 17) (fld x0 10)) := by unfold decodeMidx; rw [q0]; rfl
  rw [hd, fld_eq _ _ _ f_d, fld_eq _ _ _ f_a, fld_eq _ _ _ f_b]
  have z0 : bits x0 16 14 = 0 := g1
  exact form_ok (by simp only [List.all_cons, List.all_nil, z0]; rfl) hw

theorem Sys2Proof.Laws.RoundTrip.stx (d : BitVec 4) (a : BitVec 4) (b : BitVec 4) : Statement (.stx d a b) := by
  intro hw _
  obtain ⟨x0, hv⟩ : ∃ x0, place 0xc4000001 [(d.toNat, 21), (a.toNat, 17), (b.toNat, 10)] = x0 := ⟨_, rfl⟩
  obtain ⟨f_d, f_a, f_b, g0, g1, g2, lb, ub⟩ := shape23 d.isLt a.isLt b.isLt (show 98 < _ by decide) (show 0 < _ by decide) (show 1 < _ by decide) hv
  refine trip32 x0 hv rfl ⟨Nat.le_trans (by decide) lb, ub⟩ ?_
  have q : bits x0 30 25 = 34 := bits_sub g0 (by decide) (by decide)
  rw [at_decodeMidx q]
  have q0 : bits x0 9 0 = 1 := g2
  have hd : decodeMidx x0 = form x0 [(16, 14)] (.stx (fld x0 21) (fld x0 17) (fld x0 10)) := by unfold decodeMidx; rw [q0]; rfl
  rw [hd, fld_eq _ _ _ f_d, fld_eq _ _ _ f_a, fld_eq _ _ _ f_b]
  have z0 : bits x0 16 14 = 0 := g1
  exact form_ok (by simp only [List.all_cons, List.all_nil, z0]; rfl) hw

theorem Sys2Proof.Laws.RoundTrip.amoadd (d : BitVec 4) (a : BitVec 4) (k : BitVec 1) (b : BitVec 6) (ord : BitVec 2) (scope : BitVec 3) (w : BitVec 1) : Statement (.amoadd d a k b ord scope w) := by
  intro hw _
  obtain ⟨x0, hv⟩ : ∃ x0, place 0xc6000000 [(d.toNat, 21), (a.toNat, 17), (k.toNat, 16), (b.toNat, 10), (ord.toNat, 8), (scope.toNat, 5), (w.toNat, 4)] = x0 := ⟨_, rfl⟩
  obtain ⟨f_d, f_a, f_k, f_b, f_ord, f_scope, f_w, g0, g1, lb, ub⟩ := shape24 d.isLt a.isLt k.isLt b.isLt ord.isLt scope.isLt w.isLt (show 99 < _ by decide) (show 0 < _ by decide) hv
  refine trip32 x0 hv rfl ⟨Nat.le_trans (by decide) lb, ub⟩ ?_
  have q : bits x0 30 25 = 35 := bits_sub g0 (by decide) (by decide)
  rw [at_decodeAmo q]
  have q0 : bits x0 3 0 = 0 := g1
  have hd : decodeAmo x0 = form x0 [] (.amoadd (fld x0 21) (fld x0 17) (fld x0 16) (fld x0 10) (fld x0 8) (fld x0 5) (fld x0 4)) := by unfold decodeAmo; rw [q0]; rfl
  rw [hd, fld_eq _ _ _ f_d, fld_eq _ _ _ f_a, fld_eq _ _ _ f_k, fld_eq _ _ _ f_b, fld_eq _ _ _ f_ord, fld_eq _ _ _ f_scope, fld_eq _ _ _ f_w]
  exact form_ok (rfl) hw

theorem Sys2Proof.Laws.RoundTrip.amoand (d : BitVec 4) (a : BitVec 4) (k : BitVec 1) (b : BitVec 6) (ord : BitVec 2) (scope : BitVec 3) (w : BitVec 1) : Statement (.amoand d a k b ord scope w) := by
  intro hw _
  obtain ⟨x0, hv⟩ : ∃ x0, place 0xc6000001 [(d.toNat, 21), (a.toNat, 17), (k.toNat, 16), (b.toNat, 10), (ord.toNat, 8), (scope.toNat, 5), (w.toNat, 4)] = x0 := ⟨_, rfl⟩
  obtain ⟨f_d, f_a, f_k, f_b, f_ord, f_scope, f_w, g0, g1, lb, ub⟩ := shape24 d.isLt a.isLt k.isLt b.isLt ord.isLt scope.isLt w.isLt (show 99 < _ by decide) (show 1 < _ by decide) hv
  refine trip32 x0 hv rfl ⟨Nat.le_trans (by decide) lb, ub⟩ ?_
  have q : bits x0 30 25 = 35 := bits_sub g0 (by decide) (by decide)
  rw [at_decodeAmo q]
  have q0 : bits x0 3 0 = 1 := g1
  have hd : decodeAmo x0 = form x0 [] (.amoand (fld x0 21) (fld x0 17) (fld x0 16) (fld x0 10) (fld x0 8) (fld x0 5) (fld x0 4)) := by unfold decodeAmo; rw [q0]; rfl
  rw [hd, fld_eq _ _ _ f_d, fld_eq _ _ _ f_a, fld_eq _ _ _ f_k, fld_eq _ _ _ f_b, fld_eq _ _ _ f_ord, fld_eq _ _ _ f_scope, fld_eq _ _ _ f_w]
  exact form_ok (rfl) hw

theorem Sys2Proof.Laws.RoundTrip.amoor (d : BitVec 4) (a : BitVec 4) (k : BitVec 1) (b : BitVec 6) (ord : BitVec 2) (scope : BitVec 3) (w : BitVec 1) : Statement (.amoor d a k b ord scope w) := by
  intro hw _
  obtain ⟨x0, hv⟩ : ∃ x0, place 0xc6000002 [(d.toNat, 21), (a.toNat, 17), (k.toNat, 16), (b.toNat, 10), (ord.toNat, 8), (scope.toNat, 5), (w.toNat, 4)] = x0 := ⟨_, rfl⟩
  obtain ⟨f_d, f_a, f_k, f_b, f_ord, f_scope, f_w, g0, g1, lb, ub⟩ := shape24 d.isLt a.isLt k.isLt b.isLt ord.isLt scope.isLt w.isLt (show 99 < _ by decide) (show 2 < _ by decide) hv
  refine trip32 x0 hv rfl ⟨Nat.le_trans (by decide) lb, ub⟩ ?_
  have q : bits x0 30 25 = 35 := bits_sub g0 (by decide) (by decide)
  rw [at_decodeAmo q]
  have q0 : bits x0 3 0 = 2 := g1
  have hd : decodeAmo x0 = form x0 [] (.amoor (fld x0 21) (fld x0 17) (fld x0 16) (fld x0 10) (fld x0 8) (fld x0 5) (fld x0 4)) := by unfold decodeAmo; rw [q0]; rfl
  rw [hd, fld_eq _ _ _ f_d, fld_eq _ _ _ f_a, fld_eq _ _ _ f_k, fld_eq _ _ _ f_b, fld_eq _ _ _ f_ord, fld_eq _ _ _ f_scope, fld_eq _ _ _ f_w]
  exact form_ok (rfl) hw

theorem Sys2Proof.Laws.RoundTrip.amoxor (d : BitVec 4) (a : BitVec 4) (k : BitVec 1) (b : BitVec 6) (ord : BitVec 2) (scope : BitVec 3) (w : BitVec 1) : Statement (.amoxor d a k b ord scope w) := by
  intro hw _
  obtain ⟨x0, hv⟩ : ∃ x0, place 0xc6000003 [(d.toNat, 21), (a.toNat, 17), (k.toNat, 16), (b.toNat, 10), (ord.toNat, 8), (scope.toNat, 5), (w.toNat, 4)] = x0 := ⟨_, rfl⟩
  obtain ⟨f_d, f_a, f_k, f_b, f_ord, f_scope, f_w, g0, g1, lb, ub⟩ := shape24 d.isLt a.isLt k.isLt b.isLt ord.isLt scope.isLt w.isLt (show 99 < _ by decide) (show 3 < _ by decide) hv
  refine trip32 x0 hv rfl ⟨Nat.le_trans (by decide) lb, ub⟩ ?_
  have q : bits x0 30 25 = 35 := bits_sub g0 (by decide) (by decide)
  rw [at_decodeAmo q]
  have q0 : bits x0 3 0 = 3 := g1
  have hd : decodeAmo x0 = form x0 [] (.amoxor (fld x0 21) (fld x0 17) (fld x0 16) (fld x0 10) (fld x0 8) (fld x0 5) (fld x0 4)) := by unfold decodeAmo; rw [q0]; rfl
  rw [hd, fld_eq _ _ _ f_d, fld_eq _ _ _ f_a, fld_eq _ _ _ f_k, fld_eq _ _ _ f_b, fld_eq _ _ _ f_ord, fld_eq _ _ _ f_scope, fld_eq _ _ _ f_w]
  exact form_ok (rfl) hw

theorem Sys2Proof.Laws.RoundTrip.amomin (d : BitVec 4) (a : BitVec 4) (k : BitVec 1) (b : BitVec 6) (ord : BitVec 2) (scope : BitVec 3) (w : BitVec 1) : Statement (.amomin d a k b ord scope w) := by
  intro hw _
  obtain ⟨x0, hv⟩ : ∃ x0, place 0xc6000004 [(d.toNat, 21), (a.toNat, 17), (k.toNat, 16), (b.toNat, 10), (ord.toNat, 8), (scope.toNat, 5), (w.toNat, 4)] = x0 := ⟨_, rfl⟩
  obtain ⟨f_d, f_a, f_k, f_b, f_ord, f_scope, f_w, g0, g1, lb, ub⟩ := shape24 d.isLt a.isLt k.isLt b.isLt ord.isLt scope.isLt w.isLt (show 99 < _ by decide) (show 4 < _ by decide) hv
  refine trip32 x0 hv rfl ⟨Nat.le_trans (by decide) lb, ub⟩ ?_
  have q : bits x0 30 25 = 35 := bits_sub g0 (by decide) (by decide)
  rw [at_decodeAmo q]
  have q0 : bits x0 3 0 = 4 := g1
  have hd : decodeAmo x0 = form x0 [] (.amomin (fld x0 21) (fld x0 17) (fld x0 16) (fld x0 10) (fld x0 8) (fld x0 5) (fld x0 4)) := by unfold decodeAmo; rw [q0]; rfl
  rw [hd, fld_eq _ _ _ f_d, fld_eq _ _ _ f_a, fld_eq _ _ _ f_k, fld_eq _ _ _ f_b, fld_eq _ _ _ f_ord, fld_eq _ _ _ f_scope, fld_eq _ _ _ f_w]
  exact form_ok (rfl) hw

theorem Sys2Proof.Laws.RoundTrip.amomax (d : BitVec 4) (a : BitVec 4) (k : BitVec 1) (b : BitVec 6) (ord : BitVec 2) (scope : BitVec 3) (w : BitVec 1) : Statement (.amomax d a k b ord scope w) := by
  intro hw _
  obtain ⟨x0, hv⟩ : ∃ x0, place 0xc6000005 [(d.toNat, 21), (a.toNat, 17), (k.toNat, 16), (b.toNat, 10), (ord.toNat, 8), (scope.toNat, 5), (w.toNat, 4)] = x0 := ⟨_, rfl⟩
  obtain ⟨f_d, f_a, f_k, f_b, f_ord, f_scope, f_w, g0, g1, lb, ub⟩ := shape24 d.isLt a.isLt k.isLt b.isLt ord.isLt scope.isLt w.isLt (show 99 < _ by decide) (show 5 < _ by decide) hv
  refine trip32 x0 hv rfl ⟨Nat.le_trans (by decide) lb, ub⟩ ?_
  have q : bits x0 30 25 = 35 := bits_sub g0 (by decide) (by decide)
  rw [at_decodeAmo q]
  have q0 : bits x0 3 0 = 5 := g1
  have hd : decodeAmo x0 = form x0 [] (.amomax (fld x0 21) (fld x0 17) (fld x0 16) (fld x0 10) (fld x0 8) (fld x0 5) (fld x0 4)) := by unfold decodeAmo; rw [q0]; rfl
  rw [hd, fld_eq _ _ _ f_d, fld_eq _ _ _ f_a, fld_eq _ _ _ f_k, fld_eq _ _ _ f_b, fld_eq _ _ _ f_ord, fld_eq _ _ _ f_scope, fld_eq _ _ _ f_w]
  exact form_ok (rfl) hw

theorem Sys2Proof.Laws.RoundTrip.amominu (d : BitVec 4) (a : BitVec 4) (k : BitVec 1) (b : BitVec 6) (ord : BitVec 2) (scope : BitVec 3) (w : BitVec 1) : Statement (.amominu d a k b ord scope w) := by
  intro hw _
  obtain ⟨x0, hv⟩ : ∃ x0, place 0xc6000006 [(d.toNat, 21), (a.toNat, 17), (k.toNat, 16), (b.toNat, 10), (ord.toNat, 8), (scope.toNat, 5), (w.toNat, 4)] = x0 := ⟨_, rfl⟩
  obtain ⟨f_d, f_a, f_k, f_b, f_ord, f_scope, f_w, g0, g1, lb, ub⟩ := shape24 d.isLt a.isLt k.isLt b.isLt ord.isLt scope.isLt w.isLt (show 99 < _ by decide) (show 6 < _ by decide) hv
  refine trip32 x0 hv rfl ⟨Nat.le_trans (by decide) lb, ub⟩ ?_
  have q : bits x0 30 25 = 35 := bits_sub g0 (by decide) (by decide)
  rw [at_decodeAmo q]
  have q0 : bits x0 3 0 = 6 := g1
  have hd : decodeAmo x0 = form x0 [] (.amominu (fld x0 21) (fld x0 17) (fld x0 16) (fld x0 10) (fld x0 8) (fld x0 5) (fld x0 4)) := by unfold decodeAmo; rw [q0]; rfl
  rw [hd, fld_eq _ _ _ f_d, fld_eq _ _ _ f_a, fld_eq _ _ _ f_k, fld_eq _ _ _ f_b, fld_eq _ _ _ f_ord, fld_eq _ _ _ f_scope, fld_eq _ _ _ f_w]
  exact form_ok (rfl) hw

theorem Sys2Proof.Laws.RoundTrip.amomaxu (d : BitVec 4) (a : BitVec 4) (k : BitVec 1) (b : BitVec 6) (ord : BitVec 2) (scope : BitVec 3) (w : BitVec 1) : Statement (.amomaxu d a k b ord scope w) := by
  intro hw _
  obtain ⟨x0, hv⟩ : ∃ x0, place 0xc6000007 [(d.toNat, 21), (a.toNat, 17), (k.toNat, 16), (b.toNat, 10), (ord.toNat, 8), (scope.toNat, 5), (w.toNat, 4)] = x0 := ⟨_, rfl⟩
  obtain ⟨f_d, f_a, f_k, f_b, f_ord, f_scope, f_w, g0, g1, lb, ub⟩ := shape24 d.isLt a.isLt k.isLt b.isLt ord.isLt scope.isLt w.isLt (show 99 < _ by decide) (show 7 < _ by decide) hv
  refine trip32 x0 hv rfl ⟨Nat.le_trans (by decide) lb, ub⟩ ?_
  have q : bits x0 30 25 = 35 := bits_sub g0 (by decide) (by decide)
  rw [at_decodeAmo q]
  have q0 : bits x0 3 0 = 7 := g1
  have hd : decodeAmo x0 = form x0 [] (.amomaxu (fld x0 21) (fld x0 17) (fld x0 16) (fld x0 10) (fld x0 8) (fld x0 5) (fld x0 4)) := by unfold decodeAmo; rw [q0]; rfl
  rw [hd, fld_eq _ _ _ f_d, fld_eq _ _ _ f_a, fld_eq _ _ _ f_k, fld_eq _ _ _ f_b, fld_eq _ _ _ f_ord, fld_eq _ _ _ f_scope, fld_eq _ _ _ f_w]
  exact form_ok (rfl) hw

theorem Sys2Proof.Laws.RoundTrip.amoswap (d : BitVec 4) (a : BitVec 4) (k : BitVec 1) (b : BitVec 6) (ord : BitVec 2) (scope : BitVec 3) (w : BitVec 1) : Statement (.amoswap d a k b ord scope w) := by
  intro hw _
  obtain ⟨x0, hv⟩ : ∃ x0, place 0xc6000008 [(d.toNat, 21), (a.toNat, 17), (k.toNat, 16), (b.toNat, 10), (ord.toNat, 8), (scope.toNat, 5), (w.toNat, 4)] = x0 := ⟨_, rfl⟩
  obtain ⟨f_d, f_a, f_k, f_b, f_ord, f_scope, f_w, g0, g1, lb, ub⟩ := shape24 d.isLt a.isLt k.isLt b.isLt ord.isLt scope.isLt w.isLt (show 99 < _ by decide) (show 8 < _ by decide) hv
  refine trip32 x0 hv rfl ⟨Nat.le_trans (by decide) lb, ub⟩ ?_
  have q : bits x0 30 25 = 35 := bits_sub g0 (by decide) (by decide)
  rw [at_decodeAmo q]
  have q0 : bits x0 3 0 = 8 := g1
  have hd : decodeAmo x0 = form x0 [] (.amoswap (fld x0 21) (fld x0 17) (fld x0 16) (fld x0 10) (fld x0 8) (fld x0 5) (fld x0 4)) := by unfold decodeAmo; rw [q0]; rfl
  rw [hd, fld_eq _ _ _ f_d, fld_eq _ _ _ f_a, fld_eq _ _ _ f_k, fld_eq _ _ _ f_b, fld_eq _ _ _ f_ord, fld_eq _ _ _ f_scope, fld_eq _ _ _ f_w]
  exact form_ok (rfl) hw

theorem Sys2Proof.Laws.RoundTrip.cas (d : BitVec 4) (a : BitVec 4) (k : BitVec 1) (b : BitVec 6) (ord : BitVec 2) (scope : BitVec 3) (w : BitVec 1) : Statement (.cas d a k b ord scope w) := by
  intro hw _
  obtain ⟨x0, hv⟩ : ∃ x0, place 0xc6000009 [(d.toNat, 21), (a.toNat, 17), (k.toNat, 16), (b.toNat, 10), (ord.toNat, 8), (scope.toNat, 5), (w.toNat, 4)] = x0 := ⟨_, rfl⟩
  obtain ⟨f_d, f_a, f_k, f_b, f_ord, f_scope, f_w, g0, g1, lb, ub⟩ := shape24 d.isLt a.isLt k.isLt b.isLt ord.isLt scope.isLt w.isLt (show 99 < _ by decide) (show 9 < _ by decide) hv
  refine trip32 x0 hv rfl ⟨Nat.le_trans (by decide) lb, ub⟩ ?_
  have q : bits x0 30 25 = 35 := bits_sub g0 (by decide) (by decide)
  rw [at_decodeAmo q]
  have q0 : bits x0 3 0 = 9 := g1
  have hd : decodeAmo x0 = form x0 [] (.cas (fld x0 21) (fld x0 17) (fld x0 16) (fld x0 10) (fld x0 8) (fld x0 5) (fld x0 4)) := by unfold decodeAmo; rw [q0]; rfl
  rw [hd, fld_eq _ _ _ f_d, fld_eq _ _ _ f_a, fld_eq _ _ _ f_k, fld_eq _ _ _ f_b, fld_eq _ _ _ f_ord, fld_eq _ _ _ f_scope, fld_eq _ _ _ f_w]
  exact form_ok (rfl) hw

theorem Sys2Proof.Laws.RoundTrip.redadd (a : BitVec 4) (k : BitVec 1) (b : BitVec 6) (ord : BitVec 2) (scope : BitVec 3) (w : BitVec 1) : Statement (.redadd a k b ord scope w) := by
  intro hw _
  obtain ⟨x0, hv⟩ : ∃ x0, place 0xc600000a [(a.toNat, 17), (k.toNat, 16), (b.toNat, 10), (ord.toNat, 8), (scope.toNat, 5), (w.toNat, 4)] = x0 := ⟨_, rfl⟩
  obtain ⟨f_a, f_k, f_b, f_ord, f_scope, f_w, g0, g1, lb, ub⟩ := shape25 a.isLt k.isLt b.isLt ord.isLt scope.isLt w.isLt (show 1584 < _ by decide) (show 10 < _ by decide) hv
  refine trip32 x0 hv rfl ⟨Nat.le_trans (by decide) lb, ub⟩ ?_
  have q : bits x0 30 25 = 35 := bits_sub g0 (by decide) (by decide)
  rw [at_decodeAmo q]
  have q0 : bits x0 3 0 = 10 := g1
  have hd : decodeAmo x0 = form x0 [(24, 21)] (.redadd (fld x0 17) (fld x0 16) (fld x0 10) (fld x0 8) (fld x0 5) (fld x0 4)) := by unfold decodeAmo; rw [q0]; rfl
  rw [hd, fld_eq _ _ _ f_a, fld_eq _ _ _ f_k, fld_eq _ _ _ f_b, fld_eq _ _ _ f_ord, fld_eq _ _ _ f_scope, fld_eq _ _ _ f_w]
  have z0 : bits x0 24 21 = 0 := bits_sub g0 (by decide) (by decide)
  exact form_ok (by simp only [List.all_cons, List.all_nil, z0]; rfl) hw

theorem Sys2Proof.Laws.RoundTrip.redmin (a : BitVec 4) (k : BitVec 1) (b : BitVec 6) (ord : BitVec 2) (scope : BitVec 3) (w : BitVec 1) : Statement (.redmin a k b ord scope w) := by
  intro hw _
  obtain ⟨x0, hv⟩ : ∃ x0, place 0xc600000b [(a.toNat, 17), (k.toNat, 16), (b.toNat, 10), (ord.toNat, 8), (scope.toNat, 5), (w.toNat, 4)] = x0 := ⟨_, rfl⟩
  obtain ⟨f_a, f_k, f_b, f_ord, f_scope, f_w, g0, g1, lb, ub⟩ := shape25 a.isLt k.isLt b.isLt ord.isLt scope.isLt w.isLt (show 1584 < _ by decide) (show 11 < _ by decide) hv
  refine trip32 x0 hv rfl ⟨Nat.le_trans (by decide) lb, ub⟩ ?_
  have q : bits x0 30 25 = 35 := bits_sub g0 (by decide) (by decide)
  rw [at_decodeAmo q]
  have q0 : bits x0 3 0 = 11 := g1
  have hd : decodeAmo x0 = form x0 [(24, 21)] (.redmin (fld x0 17) (fld x0 16) (fld x0 10) (fld x0 8) (fld x0 5) (fld x0 4)) := by unfold decodeAmo; rw [q0]; rfl
  rw [hd, fld_eq _ _ _ f_a, fld_eq _ _ _ f_k, fld_eq _ _ _ f_b, fld_eq _ _ _ f_ord, fld_eq _ _ _ f_scope, fld_eq _ _ _ f_w]
  have z0 : bits x0 24 21 = 0 := bits_sub g0 (by decide) (by decide)
  exact form_ok (by simp only [List.all_cons, List.all_nil, z0]; rfl) hw

theorem Sys2Proof.Laws.RoundTrip.redmax (a : BitVec 4) (k : BitVec 1) (b : BitVec 6) (ord : BitVec 2) (scope : BitVec 3) (w : BitVec 1) : Statement (.redmax a k b ord scope w) := by
  intro hw _
  obtain ⟨x0, hv⟩ : ∃ x0, place 0xc600000c [(a.toNat, 17), (k.toNat, 16), (b.toNat, 10), (ord.toNat, 8), (scope.toNat, 5), (w.toNat, 4)] = x0 := ⟨_, rfl⟩
  obtain ⟨f_a, f_k, f_b, f_ord, f_scope, f_w, g0, g1, lb, ub⟩ := shape25 a.isLt k.isLt b.isLt ord.isLt scope.isLt w.isLt (show 1584 < _ by decide) (show 12 < _ by decide) hv
  refine trip32 x0 hv rfl ⟨Nat.le_trans (by decide) lb, ub⟩ ?_
  have q : bits x0 30 25 = 35 := bits_sub g0 (by decide) (by decide)
  rw [at_decodeAmo q]
  have q0 : bits x0 3 0 = 12 := g1
  have hd : decodeAmo x0 = form x0 [(24, 21)] (.redmax (fld x0 17) (fld x0 16) (fld x0 10) (fld x0 8) (fld x0 5) (fld x0 4)) := by unfold decodeAmo; rw [q0]; rfl
  rw [hd, fld_eq _ _ _ f_a, fld_eq _ _ _ f_k, fld_eq _ _ _ f_b, fld_eq _ _ _ f_ord, fld_eq _ _ _ f_scope, fld_eq _ _ _ f_w]
  have z0 : bits x0 24 21 = 0 := bits_sub g0 (by decide) (by decide)
  exact form_ok (by simp only [List.all_cons, List.all_nil, z0]; rfl) hw

theorem Sys2Proof.Laws.RoundTrip.redfadd (a : BitVec 4) (b : BitVec 4) (ord : BitVec 2) (scope : BitVec 3) (w : BitVec 1) : Statement (.redfadd a b ord scope w) := by
  intro hw _
  obtain ⟨x0, hv⟩ : ∃ x0, place 0xc600000d [(a.toNat, 17), (b.toNat, 10), (ord.toNat, 8), (scope.toNat, 5), (w.toNat, 4)] = x0 := ⟨_, rfl⟩
  obtain ⟨f_a, f_b, f_ord, f_scope, f_w, g0, g1, g2, lb, ub⟩ := shape26 a.isLt b.isLt ord.isLt scope.isLt w.isLt (show 1584 < _ by decide) (show 0 < _ by decide) (show 13 < _ by decide) hv
  refine trip32 x0 hv rfl ⟨Nat.le_trans (by decide) lb, ub⟩ ?_
  have q : bits x0 30 25 = 35 := bits_sub g0 (by decide) (by decide)
  rw [at_decodeAmo q]
  have q0 : bits x0 3 0 = 13 := g2
  have hd : decodeAmo x0 = form x0 [(24, 21), (16, 14)] (.redfadd (fld x0 17) (fld x0 10) (fld x0 8) (fld x0 5) (fld x0 4)) := by unfold decodeAmo; rw [q0]; rfl
  rw [hd, fld_eq _ _ _ f_a, fld_eq _ _ _ f_b, fld_eq _ _ _ f_ord, fld_eq _ _ _ f_scope, fld_eq _ _ _ f_w]
  have z0 : bits x0 24 21 = 0 := bits_sub g0 (by decide) (by decide)
  have z1 : bits x0 16 14 = 0 := g1
  exact form_ok (by simp only [List.all_cons, List.all_nil, z0, z1]; rfl) hw

theorem Sys2Proof.Laws.RoundTrip.take (d : BitVec 4) (a : BitVec 4) (ord : BitVec 2) (scope : BitVec 3) : Statement (.take d a ord scope) := by
  intro hw _
  obtain ⟨x0, hv⟩ : ∃ x0, place 0xc8000000 [(d.toNat, 21), (a.toNat, 17), (ord.toNat, 8), (scope.toNat, 5)] = x0 := ⟨_, rfl⟩
  obtain ⟨f_d, f_a, f_ord, f_scope, g0, g1, g2, lb, ub⟩ := shape27 d.isLt a.isLt ord.isLt scope.isLt (show 100 < _ by decide) (show 0 < _ by decide) (show 0 < _ by decide) hv
  refine trip32 x0 hv rfl ⟨Nat.le_trans (by decide) lb, ub⟩ ?_
  have q : bits x0 30 25 = 36 := bits_sub g0 (by decide) (by decide)
  rw [at_decodeFe q]
  have q0 : bits x0 1 0 = 0 := bits_sub g2 (by decide) (by decide)
  have hd : decodeFe x0 = form x0 [(16, 10), (4, 2)] (.take (fld x0 21) (fld x0 17) (fld x0 8) (fld x0 5)) := by unfold decodeFe; rw [q0]; rfl
  rw [hd, fld_eq _ _ _ f_d, fld_eq _ _ _ f_a, fld_eq _ _ _ f_ord, fld_eq _ _ _ f_scope]
  have z0 : bits x0 16 10 = 0 := g1
  have z1 : bits x0 4 2 = 0 := bits_sub g2 (by decide) (by decide)
  exact form_ok (by simp only [List.all_cons, List.all_nil, z0, z1]; rfl) hw

theorem Sys2Proof.Laws.RoundTrip.put (a : BitVec 4) (b : BitVec 4) (ord : BitVec 2) (scope : BitVec 3) : Statement (.put a b ord scope) := by
  intro hw _
  obtain ⟨x0, hv⟩ : ∃ x0, place 0xc8000001 [(a.toNat, 17), (b.toNat, 10), (ord.toNat, 8), (scope.toNat, 5)] = x0 := ⟨_, rfl⟩
  obtain ⟨f_a, f_b, f_ord, f_scope, g0, g1, g2, lb, ub⟩ := shape28 a.isLt b.isLt ord.isLt scope.isLt (show 1600 < _ by decide) (show 0 < _ by decide) (show 1 < _ by decide) hv
  refine trip32 x0 hv rfl ⟨Nat.le_trans (by decide) lb, ub⟩ ?_
  have q : bits x0 30 25 = 36 := bits_sub g0 (by decide) (by decide)
  rw [at_decodeFe q]
  have q0 : bits x0 1 0 = 1 := bits_sub g2 (by decide) (by decide)
  have hd : decodeFe x0 = form x0 [(24, 21), (16, 14), (4, 2)] (.put (fld x0 17) (fld x0 10) (fld x0 8) (fld x0 5)) := by unfold decodeFe; rw [q0]; rfl
  rw [hd, fld_eq _ _ _ f_a, fld_eq _ _ _ f_b, fld_eq _ _ _ f_ord, fld_eq _ _ _ f_scope]
  have z0 : bits x0 24 21 = 0 := bits_sub g0 (by decide) (by decide)
  have z1 : bits x0 16 14 = 0 := g1
  have z2 : bits x0 4 2 = 0 := bits_sub g2 (by decide) (by decide)
  exact form_ok (by simp only [List.all_cons, List.all_nil, z0, z1, z2]; rfl) hw

theorem Sys2Proof.Laws.RoundTrip.peek (d : BitVec 4) (a : BitVec 4) (ord : BitVec 2) (scope : BitVec 3) : Statement (.peek d a ord scope) := by
  intro hw _
  obtain ⟨x0, hv⟩ : ∃ x0, place 0xc8000002 [(d.toNat, 21), (a.toNat, 17), (ord.toNat, 8), (scope.toNat, 5)] = x0 := ⟨_, rfl⟩
  obtain ⟨f_d, f_a, f_ord, f_scope, g0, g1, g2, lb, ub⟩ := shape27 d.isLt a.isLt ord.isLt scope.isLt (show 100 < _ by decide) (show 0 < _ by decide) (show 2 < _ by decide) hv
  refine trip32 x0 hv rfl ⟨Nat.le_trans (by decide) lb, ub⟩ ?_
  have q : bits x0 30 25 = 36 := bits_sub g0 (by decide) (by decide)
  rw [at_decodeFe q]
  have q0 : bits x0 1 0 = 2 := bits_sub g2 (by decide) (by decide)
  have hd : decodeFe x0 = form x0 [(16, 10), (4, 2)] (.peek (fld x0 21) (fld x0 17) (fld x0 8) (fld x0 5)) := by unfold decodeFe; rw [q0]; rfl
  rw [hd, fld_eq _ _ _ f_d, fld_eq _ _ _ f_a, fld_eq _ _ _ f_ord, fld_eq _ _ _ f_scope]
  have z0 : bits x0 16 10 = 0 := g1
  have z1 : bits x0 4 2 = 0 := bits_sub g2 (by decide) (by decide)
  exact form_ok (by simp only [List.all_cons, List.all_nil, z0, z1]; rfl) hw

theorem Sys2Proof.Laws.RoundTrip.feinit (a : BitVec 4) (b : BitVec 4) (scope : BitVec 3) (full : BitVec 1) : Statement (.feinit a b scope full) := by
  intro hw _
  obtain ⟨x0, hv⟩ : ∃ x0, place 0xc8000003 [(a.toNat, 17), (b.toNat, 10), (scope.toNat, 5), (full.toNat, 2)] = x0 := ⟨_, rfl⟩
  obtain ⟨f_a, f_b, f_scope, f_full, g0, g1, g2, g3, g4, lb, ub⟩ := shape29 a.isLt b.isLt scope.isLt full.isLt (show 1600 < _ by decide) (show 0 < _ by decide) (show 0 < _ by decide) (show 0 < _ by decide) (show 3 < _ by decide) hv
  refine trip32 x0 hv rfl ⟨Nat.le_trans (by decide) lb, ub⟩ ?_
  have q : bits x0 30 25 = 36 := bits_sub g0 (by decide) (by decide)
  rw [at_decodeFe q]
  have q0 : bits x0 1 0 = 3 := g4
  have hd : decodeFe x0 = formIf x0 [(24, 21), (16, 14), (4, 3)] (bits x0 9 8 == 0) (.feinit (fld x0 17) (fld x0 10) (fld x0 5) (fld x0 2)) := by unfold decodeFe; rw [q0]; rfl
  rw [hd, fld_eq _ _ _ f_a, fld_eq _ _ _ f_b, fld_eq _ _ _ f_scope, fld_eq _ _ _ f_full]
  have z0 : bits x0 24 21 = 0 := bits_sub g0 (by decide) (by decide)
  have z1 : bits x0 16 14 = 0 := g1
  have z2 : bits x0 4 3 = 0 := g3
  have q8 : bits x0 9 8 = 0 := g2
  exact formIf_ok (by simp only [List.all_cons, List.all_nil, z0, z1, z2]; rfl) (by rw [q8]; rfl) hw

theorem Sys2Proof.Laws.RoundTrip.fence (scope : BitVec 3) : Statement (.fence scope) := by
  intro hw _
  obtain ⟨x0, hv⟩ : ∃ x0, place 0xca000000 [(scope.toNat, 2)] = x0 := ⟨_, rfl⟩
  obtain ⟨f_scope, g0, g1, lb, ub⟩ := shape30 scope.isLt (show 105906176 < _ by decide) (show 0 < _ by decide) hv
  refine trip32 x0 hv rfl ⟨Nat.le_trans (by decide) lb, ub⟩ ?_
  have q : bits x0 30 25 = 37 := bits_sub g0 (by decide) (by decide)
  rw [at_decodeMctl q]
  have q0 : bits x0 9 5 = 0 := bits_sub g0 (by decide) (by decide)
  have hd : decodeMctl x0 = form x0 [(24, 10), (1, 0)] (.fence (fld x0 2)) := by unfold decodeMctl; rw [q0]; rfl
  rw [hd, fld_eq _ _ _ f_scope]
  have z0 : bits x0 24 10 = 0 := bits_sub g0 (by decide) (by decide)
  have z1 : bits x0 1 0 = 0 := g1
  exact form_ok (by simp only [List.all_cons, List.all_nil, z0, z1]; rfl) hw

theorem Sys2Proof.Laws.RoundTrip.pref (a : BitVec 4) (b : BitVec 4) : Statement (.pref a b) := by
  intro hw _
  obtain ⟨x0, hv⟩ : ∃ x0, place 0xca000020 [(a.toNat, 17), (b.toNat, 10)] = x0 := ⟨_, rfl⟩
  obtain ⟨f_a, f_b, g0, g1, g2, lb, ub⟩ := shape31 a.isLt b.isLt (show 1616 < _ by decide) (show 0 < _ by decide) (show 32 < _ by decide) hv
  refine trip32 x0 hv rfl ⟨Nat.le_trans (by decide) lb, ub⟩ ?_
  have q : bits x0 30 25 = 37 := bits_sub g0 (by decide) (by decide)
  rw [at_decodeMctl q]
  have q0 : bits x0 9 5 = 1 := bits_sub g2 (by decide) (by decide)
  have hd : decodeMctl x0 = form x0 [(24, 21), (16, 14), (4, 0)] (.pref (fld x0 17) (fld x0 10)) := by unfold decodeMctl; rw [q0]; rfl
  rw [hd, fld_eq _ _ _ f_a, fld_eq _ _ _ f_b]
  have z0 : bits x0 24 21 = 0 := bits_sub g0 (by decide) (by decide)
  have z1 : bits x0 16 14 = 0 := g1
  have z2 : bits x0 4 0 = 0 := bits_sub g2 (by decide) (by decide)
  exact form_ok (by simp only [List.all_cons, List.all_nil, z0, z1, z2]; rfl) hw

theorem Sys2Proof.Laws.RoundTrip.rflush (a : BitVec 4) (b : BitVec 4) : Statement (.rflush a b) := by
  intro hw _
  obtain ⟨x0, hv⟩ : ∃ x0, place 0xca000040 [(a.toNat, 17), (b.toNat, 10)] = x0 := ⟨_, rfl⟩
  obtain ⟨f_a, f_b, g0, g1, g2, lb, ub⟩ := shape31 a.isLt b.isLt (show 1616 < _ by decide) (show 0 < _ by decide) (show 64 < _ by decide) hv
  refine trip32 x0 hv rfl ⟨Nat.le_trans (by decide) lb, ub⟩ ?_
  have q : bits x0 30 25 = 37 := bits_sub g0 (by decide) (by decide)
  rw [at_decodeMctl q]
  have q0 : bits x0 9 5 = 2 := bits_sub g2 (by decide) (by decide)
  have hd : decodeMctl x0 = form x0 [(24, 21), (16, 14), (4, 0)] (.rflush (fld x0 17) (fld x0 10)) := by unfold decodeMctl; rw [q0]; rfl
  rw [hd, fld_eq _ _ _ f_a, fld_eq _ _ _ f_b]
  have z0 : bits x0 24 21 = 0 := bits_sub g0 (by decide) (by decide)
  have z1 : bits x0 16 14 = 0 := g1
  have z2 : bits x0 4 0 = 0 := bits_sub g2 (by decide) (by decide)
  exact form_ok (by simp only [List.all_cons, List.all_nil, z0, z1, z2]; rfl) hw

theorem Sys2Proof.Laws.RoundTrip.rinv (a : BitVec 4) (b : BitVec 4) : Statement (.rinv a b) := by
  intro hw _
  obtain ⟨x0, hv⟩ : ∃ x0, place 0xca000060 [(a.toNat, 17), (b.toNat, 10)] = x0 := ⟨_, rfl⟩
  obtain ⟨f_a, f_b, g0, g1, g2, lb, ub⟩ := shape31 a.isLt b.isLt (show 1616 < _ by decide) (show 0 < _ by decide) (show 96 < _ by decide) hv
  refine trip32 x0 hv rfl ⟨Nat.le_trans (by decide) lb, ub⟩ ?_
  have q : bits x0 30 25 = 37 := bits_sub g0 (by decide) (by decide)
  rw [at_decodeMctl q]
  have q0 : bits x0 9 5 = 3 := bits_sub g2 (by decide) (by decide)
  have hd : decodeMctl x0 = form x0 [(24, 21), (16, 14), (4, 0)] (.rinv (fld x0 17) (fld x0 10)) := by unfold decodeMctl; rw [q0]; rfl
  rw [hd, fld_eq _ _ _ f_a, fld_eq _ _ _ f_b]
  have z0 : bits x0 24 21 = 0 := bits_sub g0 (by decide) (by decide)
  have z1 : bits x0 16 14 = 0 := g1
  have z2 : bits x0 4 0 = 0 := bits_sub g2 (by decide) (by decide)
  exact form_ok (by simp only [List.all_cons, List.all_nil, z0, z1, z2]; rfl) hw

theorem Sys2Proof.Laws.RoundTrip.retain (d : BitVec 4) (a : BitVec 4) (b : BitVec 4) : Statement (.retain d a b) := by
  intro hw _
  obtain ⟨x0, hv⟩ : ∃ x0, place 0xca000080 [(d.toNat, 21), (a.toNat, 17), (b.toNat, 10)] = x0 := ⟨_, rfl⟩
  obtain ⟨f_d, f_a, f_b, g0, g1, g2, lb, ub⟩ := shape23 d.isLt a.isLt b.isLt (show 101 < _ by decide) (show 0 < _ by decide) (show 128 < _ by decide) hv
  refine trip32 x0 hv rfl ⟨Nat.le_trans (by decide) lb, ub⟩ ?_
  have q : bits x0 30 25 = 37 := bits_sub g0 (by decide) (by decide)
  rw [at_decodeMctl q]
  have q0 : bits x0 9 5 = 4 := bits_sub g2 (by decide) (by decide)
  have hd : decodeMctl x0 = form x0 [(16, 14), (4, 0)] (.retain (fld x0 21) (fld x0 17) (fld x0 10)) := by unfold decodeMctl; rw [q0]; rfl
  rw [hd, fld_eq _ _ _ f_d, fld_eq _ _ _ f_a, fld_eq _ _ _ f_b]
  have z0 : bits x0 16 14 = 0 := g1
  have z1 : bits x0 4 0 = 0 := bits_sub g2 (by decide) (by decide)
  exact form_ok (by simp only [List.all_cons, List.all_nil, z0, z1]; rfl) hw

theorem Sys2Proof.Laws.RoundTrip.unretain (a : BitVec 4) : Statement (.unretain a) := by
  intro hw _
  obtain ⟨x0, hv⟩ : ∃ x0, place 0xca0000a0 [(a.toNat, 17)] = x0 := ⟨_, rfl⟩
  obtain ⟨f_a, g0, g1, lb, ub⟩ := shape21 a.isLt (show 1616 < _ by decide) (show 160 < _ by decide) hv
  refine trip32 x0 hv rfl ⟨Nat.le_trans (by decide) lb, ub⟩ ?_
  have q : bits x0 30 25 = 37 := bits_sub g0 (by decide) (by decide)
  rw [at_decodeMctl q]
  have q0 : bits x0 9 5 = 5 := bits_sub g1 (by decide) (by decide)
  have hd : decodeMctl x0 = form x0 [(24, 21), (16, 10), (4, 0)] (.unretain (fld x0 17)) := by unfold decodeMctl; rw [q0]; rfl
  rw [hd, fld_eq _ _ _ f_a]
  have z0 : bits x0 24 21 = 0 := bits_sub g0 (by decide) (by decide)
  have z1 : bits x0 16 10 = 0 := bits_sub g1 (by decide) (by decide)
  have z2 : bits x0 4 0 = 0 := bits_sub g1 (by decide) (by decide)
  exact form_ok (by simp only [List.all_cons, List.all_nil, z0, z1, z2]; rfl) hw

theorem Sys2Proof.Laws.RoundTrip.crdecl (d : BitVec 4) (a : BitVec 4) (b : BitVec 4) (elem : BitVec 3) (op : BitVec 2) : Statement (.crdecl d a b elem op) := by
  intro hw _
  obtain ⟨x0, hv⟩ : ∃ x0, place 0xca0000c0 [(d.toNat, 21), (a.toNat, 17), (b.toNat, 10), (elem.toNat, 2), (op.toNat, 0)] = x0 := ⟨_, rfl⟩
  obtain ⟨f_d, f_a, f_b, f_elem, f_op, g0, g1, g2, lb, ub⟩ := shape32 d.isLt a.isLt b.isLt elem.isLt op.isLt (show 101 < _ by decide) (show 0 < _ by decide) (show 6 < _ by decide) hv
  refine trip32 x0 hv rfl ⟨Nat.le_trans (by decide) lb, ub⟩ ?_
  have q : bits x0 30 25 = 37 := bits_sub g0 (by decide) (by decide)
  rw [at_decodeMctl q]
  have q0 : bits x0 9 5 = 6 := g2
  have hd : decodeMctl x0 = form x0 [(16, 14)] (.crdecl (fld x0 21) (fld x0 17) (fld x0 10) (fld x0 2) (fld x0 0)) := by unfold decodeMctl; rw [q0]; rfl
  rw [hd, fld_eq _ _ _ f_d, fld_eq _ _ _ f_a, fld_eq _ _ _ f_b, fld_eq _ _ _ f_elem, fld_eq _ _ _ f_op]
  have z0 : bits x0 16 14 = 0 := g1
  exact form_ok (by simp only [List.all_cons, List.all_nil, z0]; rfl) hw

theorem Sys2Proof.Laws.RoundTrip.crclr (a : BitVec 4) : Statement (.crclr a) := by
  intro hw _
  obtain ⟨x0, hv⟩ : ∃ x0, place 0xca0000e0 [(a.toNat, 17)] = x0 := ⟨_, rfl⟩
  obtain ⟨f_a, g0, g1, lb, ub⟩ := shape21 a.isLt (show 1616 < _ by decide) (show 224 < _ by decide) hv
  refine trip32 x0 hv rfl ⟨Nat.le_trans (by decide) lb, ub⟩ ?_
  have q : bits x0 30 25 = 37 := bits_sub g0 (by decide) (by decide)
  rw [at_decodeMctl q]
  have q0 : bits x0 9 5 = 7 := bits_sub g1 (by decide) (by decide)
  have hd : decodeMctl x0 = form x0 [(24, 21), (16, 10), (4, 0)] (.crclr (fld x0 17)) := by unfold decodeMctl; rw [q0]; rfl
  rw [hd, fld_eq _ _ _ f_a]
  have z0 : bits x0 24 21 = 0 := bits_sub g0 (by decide) (by decide)
  have z1 : bits x0 16 10 = 0 := bits_sub g1 (by decide) (by decide)
  have z2 : bits x0 4 0 = 0 := bits_sub g1 (by decide) (by decide)
  exact form_ok (by simp only [List.all_cons, List.all_nil, z0, z1, z2]; rfl) hw

theorem Sys2Proof.Laws.RoundTrip.waita (d : BitVec 4) (a : BitVec 4) (b : BitVec 4) : Statement (.waita d a b) := by
  intro hw _
  obtain ⟨x0, hv⟩ : ∃ x0, place 0xca000100 [(d.toNat, 21), (a.toNat, 17), (b.toNat, 10)] = x0 := ⟨_, rfl⟩
  obtain ⟨f_d, f_a, f_b, g0, g1, g2, lb, ub⟩ := shape23 d.isLt a.isLt b.isLt (show 101 < _ by decide) (show 0 < _ by decide) (show 256 < _ by decide) hv
  refine trip32 x0 hv rfl ⟨Nat.le_trans (by decide) lb, ub⟩ ?_
  have q : bits x0 30 25 = 37 := bits_sub g0 (by decide) (by decide)
  rw [at_decodeMctl q]
  have q0 : bits x0 9 5 = 8 := bits_sub g2 (by decide) (by decide)
  have hd : decodeMctl x0 = form x0 [(16, 14), (4, 0)] (.waita (fld x0 21) (fld x0 17) (fld x0 10)) := by unfold decodeMctl; rw [q0]; rfl
  rw [hd, fld_eq _ _ _ f_d, fld_eq _ _ _ f_a, fld_eq _ _ _ f_b]
  have z0 : bits x0 16 14 = 0 := g1
  have z1 : bits x0 4 0 = 0 := bits_sub g2 (by decide) (by decide)
  exact form_ok (by simp only [List.all_cons, List.all_nil, z0, z1]; rfl) hw

theorem Sys2Proof.Laws.RoundTrip.tld (g : BitVec 3) (desc : BitVec 8) (a : BitVec 4) (rows : BitVec 3) : Statement (.tld g desc a rows) := by
  intro hw _
  obtain ⟨x0, hv⟩ : ∃ x0, place 0xcc000000 [(g.toNat, 21), (desc.toNat, 13), (a.toNat, 9), (rows.toNat, 6)] = x0 := ⟨_, rfl⟩
  obtain ⟨f_g, f_desc, f_a, f_rows, g0, g1, lb, ub⟩ := shape33 g.isLt desc.isLt a.isLt rows.isLt (show 204 < _ by decide) (show 0 < _ by decide) hv
  refine trip32 x0 hv rfl ⟨Nat.le_trans (by decide) lb, ub⟩ ?_
  have q : bits x0 30 25 = 38 := bits_sub g0 (by decide) (by decide)
  rw [at_decodeTmem q]
  have q0 : bits x0 5 0 = 0 := g1
  have hd : decodeTmem x0 = form x0 [(24, 24)] (.tld (fld x0 21) (fld x0 13) (fld x0 9) (fld x0 6)) := by unfold decodeTmem; rw [q0]; rfl
  rw [hd, fld_eq _ _ _ f_g, fld_eq _ _ _ f_desc, fld_eq _ _ _ f_a, fld_eq _ _ _ f_rows]
  have z0 : bits x0 24 24 = 0 := bits_sub g0 (by decide) (by decide)
  exact form_ok (by simp only [List.all_cons, List.all_nil, z0]; rfl) hw

theorem Sys2Proof.Laws.RoundTrip.tst (g : BitVec 3) (desc : BitVec 8) (a : BitVec 4) (rows : BitVec 3) : Statement (.tst g desc a rows) := by
  intro hw _
  obtain ⟨x0, hv⟩ : ∃ x0, place 0xcc000001 [(g.toNat, 21), (desc.toNat, 13), (a.toNat, 9), (rows.toNat, 6)] = x0 := ⟨_, rfl⟩
  obtain ⟨f_g, f_desc, f_a, f_rows, g0, g1, lb, ub⟩ := shape33 g.isLt desc.isLt a.isLt rows.isLt (show 204 < _ by decide) (show 1 < _ by decide) hv
  refine trip32 x0 hv rfl ⟨Nat.le_trans (by decide) lb, ub⟩ ?_
  have q : bits x0 30 25 = 38 := bits_sub g0 (by decide) (by decide)
  rw [at_decodeTmem q]
  have q0 : bits x0 5 0 = 1 := g1
  have hd : decodeTmem x0 = form x0 [(24, 24)] (.tst (fld x0 21) (fld x0 13) (fld x0 9) (fld x0 6)) := by unfold decodeTmem; rw [q0]; rfl
  rw [hd, fld_eq _ _ _ f_g, fld_eq _ _ _ f_desc, fld_eq _ _ _ f_a, fld_eq _ _ _ f_rows]
  have z0 : bits x0 24 24 = 0 := bits_sub g0 (by decide) (by decide)
  exact form_ok (by simp only [List.all_cons, List.all_nil, z0]; rfl) hw

theorem Sys2Proof.Laws.RoundTrip.tlds (g : BitVec 3) (a : BitVec 4) (rows : BitVec 3) : Statement (.tlds g a rows) := by
  intro hw _
  obtain ⟨x0, hv⟩ : ∃ x0, place 0xcc000002 [(g.toNat, 21), (a.toNat, 9), (rows.toNat, 6)] = x0 := ⟨_, rfl⟩
  obtain ⟨f_g, f_a, f_rows, g0, g1, g2, lb, ub⟩ := shape34 g.isLt a.isLt rows.isLt (show 204 < _ by decide) (show 0 < _ by decide) (show 2 < _ by decide) hv
  refine trip32 x0 hv rfl ⟨Nat.le_trans (by decide) lb, ub⟩ ?_
  have q : bits x0 30 25 = 38 := bits_sub g0 (by decide) (by decide)
  rw [at_decodeTmem q]
  have q0 : bits x0 5 0 = 2 := g2
  have hd : decodeTmem x0 = form x0 [(24, 24), (20, 13)] (.tlds (fld x0 21) (fld x0 9) (fld x0 6)) := by unfold decodeTmem; rw [q0]; rfl
  rw [hd, fld_eq _ _ _ f_g, fld_eq _ _ _ f_a, fld_eq _ _ _ f_rows]
  have z0 : bits x0 24 24 = 0 := bits_sub g0 (by decide) (by decide)
  have z1 : bits x0 20 13 = 0 := g1
  exact form_ok (by simp only [List.all_cons, List.all_nil, z0, z1]; rfl) hw

theorem Sys2Proof.Laws.RoundTrip.tsts (g : BitVec 3) (a : BitVec 4) (rows : BitVec 3) : Statement (.tsts g a rows) := by
  intro hw _
  obtain ⟨x0, hv⟩ : ∃ x0, place 0xcc000003 [(g.toNat, 21), (a.toNat, 9), (rows.toNat, 6)] = x0 := ⟨_, rfl⟩
  obtain ⟨f_g, f_a, f_rows, g0, g1, g2, lb, ub⟩ := shape34 g.isLt a.isLt rows.isLt (show 204 < _ by decide) (show 0 < _ by decide) (show 3 < _ by decide) hv
  refine trip32 x0 hv rfl ⟨Nat.le_trans (by decide) lb, ub⟩ ?_
  have q : bits x0 30 25 = 38 := bits_sub g0 (by decide) (by decide)
  rw [at_decodeTmem q]
  have q0 : bits x0 5 0 = 3 := g2
  have hd : decodeTmem x0 = form x0 [(24, 24), (20, 13)] (.tsts (fld x0 21) (fld x0 9) (fld x0 6)) := by unfold decodeTmem; rw [q0]; rfl
  rw [hd, fld_eq _ _ _ f_g, fld_eq _ _ _ f_a, fld_eq _ _ _ f_rows]
  have z0 : bits x0 24 24 = 0 := bits_sub g0 (by decide) (by decide)
  have z1 : bits x0 20 13 = 0 := g1
  exact form_ok (by simp only [List.all_cons, List.all_nil, z0, z1]; rfl) hw

theorem Sys2Proof.Laws.RoundTrip.tdld (desc : BitVec 8) (a : BitVec 4) : Statement (.tdld desc a) := by
  intro hw _
  obtain ⟨x0, hv⟩ : ∃ x0, place 0xcc000004 [(desc.toNat, 13), (a.toNat, 9)] = x0 := ⟨_, rfl⟩
  obtain ⟨f_desc, f_a, g0, g1, lb, ub⟩ := shape35 desc.isLt a.isLt (show 1632 < _ by decide) (show 4 < _ by decide) hv
  refine trip32 x0 hv rfl ⟨Nat.le_trans (by decide) lb, ub⟩ ?_
  have q : bits x0 30 25 = 38 := bits_sub g0 (by decide) (by decide)
  rw [at_decodeTmem q]
  have q0 : bits x0 5 0 = 4 := bits_sub g1 (by decide) (by decide)
  have hd : decodeTmem x0 = form x0 [(24, 21), (8, 6)] (.tdld (fld x0 13) (fld x0 9)) := by unfold decodeTmem; rw [q0]; rfl
  rw [hd, fld_eq _ _ _ f_desc, fld_eq _ _ _ f_a]
  have z0 : bits x0 24 21 = 0 := bits_sub g0 (by decide) (by decide)
  have z1 : bits x0 8 6 = 0 := bits_sub g1 (by decide) (by decide)
  exact form_ok (by simp only [List.all_cons, List.all_nil, z0, z1]; rfl) hw

theorem Sys2Proof.Laws.RoundTrip.tdst (desc : BitVec 8) (a : BitVec 4) : Statement (.tdst desc a) := by
  intro hw _
  obtain ⟨x0, hv⟩ : ∃ x0, place 0xcc000005 [(desc.toNat, 13), (a.toNat, 9)] = x0 := ⟨_, rfl⟩
  obtain ⟨f_desc, f_a, g0, g1, lb, ub⟩ := shape35 desc.isLt a.isLt (show 1632 < _ by decide) (show 5 < _ by decide) hv
  refine trip32 x0 hv rfl ⟨Nat.le_trans (by decide) lb, ub⟩ ?_
  have q : bits x0 30 25 = 38 := bits_sub g0 (by decide) (by decide)
  rw [at_decodeTmem q]
  have q0 : bits x0 5 0 = 5 := bits_sub g1 (by decide) (by decide)
  have hd : decodeTmem x0 = form x0 [(24, 21), (8, 6)] (.tdst (fld x0 13) (fld x0 9)) := by unfold decodeTmem; rw [q0]; rfl
  rw [hd, fld_eq _ _ _ f_desc, fld_eq _ _ _ f_a]
  have z0 : bits x0 24 21 = 0 := bits_sub g0 (by decide) (by decide)
  have z1 : bits x0 8 6 = 0 := bits_sub g1 (by decide) (by decide)
  exact form_ok (by simp only [List.all_cons, List.all_nil, z0, z1]; rfl) hw

theorem Sys2Proof.Laws.RoundTrip.tfill (g : BitVec 3) (fmt : BitVec 4) (a : BitVec 4) (rows : BitVec 3) : Statement (.tfill g fmt a rows) := by
  intro hw _
  obtain ⟨x0, hv⟩ : ∃ x0, place 0xcc000006 [(g.toNat, 21), (fmt.toNat, 17), (a.toNat, 9), (rows.toNat, 6)] = x0 := ⟨_, rfl⟩
  obtain ⟨f_g, f_fmt, f_a, f_rows, g0, g1, g2, lb, ub⟩ := shape36 g.isLt fmt.isLt a.isLt rows.isLt (show 204 < _ by decide) (show 0 < _ by decide) (show 6 < _ by decide) hv
  refine trip32 x0 hv rfl ⟨Nat.le_trans (by decide) lb, ub⟩ ?_
  have q : bits x0 30 25 = 38 := bits_sub g0 (by decide) (by decide)
  rw [at_decodeTmem q]
  have q0 : bits x0 5 0 = 6 := g2
  have hd : decodeTmem x0 = form x0 [(24, 24), (16, 13)] (.tfill (fld x0 21) (fld x0 17) (fld x0 9) (fld x0 6)) := by unfold decodeTmem; rw [q0]; rfl
  rw [hd, fld_eq _ _ _ f_g, fld_eq _ _ _ f_fmt, fld_eq _ _ _ f_a, fld_eq _ _ _ f_rows]
  have z0 : bits x0 24 24 = 0 := bits_sub g0 (by decide) (by decide)
  have z1 : bits x0 16 13 = 0 := g1
  exact form_ok (by simp only [List.all_cons, List.all_nil, z0, z1]; rfl) hw

theorem Sys2Proof.Laws.RoundTrip.textr (g : BitVec 4) (fmt : BitVec 4) (idx : BitVec 4) (a : BitVec 3) : Statement (.textr g fmt idx a) := by
  intro hw _
  obtain ⟨x0, hv⟩ : ∃ x0, place 0xcc000007 [(g.toNat, 21), (fmt.toNat, 17), (idx.toNat, 13), (a.toNat, 9)] = x0 := ⟨_, rfl⟩
  obtain ⟨f_g, f_fmt, f_idx, f_a, g0, g1, g2, lb, ub⟩ := shape37 g.isLt fmt.isLt idx.isLt a.isLt (show 102 < _ by decide) (show 0 < _ by decide) (show 7 < _ by decide) hv
  refine trip32 x0 hv rfl ⟨Nat.le_trans (by decide) lb, ub⟩ ?_
  have q : bits x0 30 25 = 38 := bits_sub g0 (by decide) (by decide)
  rw [at_decodeTmem q]
  have q0 : bits x0 5 0 = 7 := bits_sub g2 (by decide) (by decide)
  have hd : decodeTmem x0 = form x0 [(12, 12), (8, 6)] (.textr (fld x0 21) (fld x0 17) (fld x0 13) (fld x0 9)) := by unfold decodeTmem; rw [q0]; rfl
  rw [hd, fld_eq _ _ _ f_g, fld_eq _ _ _ f_fmt, fld_eq _ _ _ f_idx, fld_eq _ _ _ f_a]
  have z0 : bits x0 12 12 = 0 := g1
  have z1 : bits x0 8 6 = 0 := bits_sub g2 (by decide) (by decide)
  exact form_ok (by simp only [List.all_cons, List.all_nil, z0, z1]; rfl) hw

theorem Sys2Proof.Laws.RoundTrip.tins (g : BitVec 3) (fmt : BitVec 4) (idx : BitVec 4) (a : BitVec 4) : Statement (.tins g fmt idx a) := by
  intro hw _
  obtain ⟨x0, hv⟩ : ∃ x0, place 0xcc000008 [(g.toNat, 21), (fmt.toNat, 17), (idx.toNat, 13), (a.toNat, 9)] = x0 := ⟨_, rfl⟩
  obtain ⟨f_g, f_fmt, f_idx, f_a, g0, g1, lb, ub⟩ := shape38 g.isLt fmt.isLt idx.isLt a.isLt (show 204 < _ by decide) (show 8 < _ by decide) hv
  refine trip32 x0 hv rfl ⟨Nat.le_trans (by decide) lb, ub⟩ ?_
  have q : bits x0 30 25 = 38 := bits_sub g0 (by decide) (by decide)
  rw [at_decodeTmem q]
  have q0 : bits x0 5 0 = 8 := bits_sub g1 (by decide) (by decide)
  have hd : decodeTmem x0 = form x0 [(24, 24), (8, 6)] (.tins (fld x0 21) (fld x0 17) (fld x0 13) (fld x0 9)) := by unfold decodeTmem; rw [q0]; rfl
  rw [hd, fld_eq _ _ _ f_g, fld_eq _ _ _ f_fmt, fld_eq _ _ _ f_idx, fld_eq _ _ _ f_a]
  have z0 : bits x0 24 24 = 0 := bits_sub g0 (by decide) (by decide)
  have z1 : bits x0 8 6 = 0 := bits_sub g1 (by decide) (by decide)
  exact form_ok (by simp only [List.all_cons, List.all_nil, z0, z1]; rfl) hw

theorem Sys2Proof.Laws.RoundTrip.tmov (d : BitVec 3) (a : BitVec 3) (rows : BitVec 3) : Statement (.tmov d a rows) := by
  intro hw _
  obtain ⟨x0, hv⟩ : ∃ x0, place 0xce000000 [(d.toNat, 22), (a.toNat, 19), (rows.toNat, 12)] = x0 := ⟨_, rfl⟩
  obtain ⟨f_d, f_a, f_rows, g0, g1, g2, lb, ub⟩ := shape39 d.isLt a.isLt rows.isLt (show 103 < _ by decide) (show 0 < _ by decide) (show 0 < _ by decide) hv
  refine trip32 x0 hv rfl ⟨Nat.le_trans (by decide) lb, ub⟩ ?_
  have q : bits x0 30 25 = 39 := bits_sub g0 (by decide) (by decide)
  rw [at_decodeTop q]
  have q0 : bits x0 6 2 = 0 := bits_sub g2 (by decide) (by decide)
  have q1 : bits x0 6 4 = 0 := bits_sub g2 (by decide) (by decide)
  have q2 : bits x0 6 0 = 0 := bits_sub g2 (by decide) (by decide)
  have hd : decodeTop x0 = form x0 [(18, 15), (11, 7)] (.tmov (fld x0 22) (fld x0 19) (fld x0 12)) := by unfold decodeTop; rw [q0, q1, q2]; rfl
  rw [hd, fld_eq _ _ _ f_d, fld_eq _ _ _ f_a, fld_eq _ _ _ f_rows]
  have z0 : bits x0 18 15 = 0 := g1
  have z1 : bits x0 11 7 = 0 := bits_sub g2 (by decide) (by decide)
  exact form_ok (by simp only [List.all_cons, List.all_nil, z0, z1]; rfl) hw

theorem Sys2Proof.Laws.RoundTrip.tzero (d : BitVec 3) (rows : BitVec 3) : Statement (.tzero d rows) := by
  intro hw _
  obtain ⟨x0, hv⟩ : ∃ x0, place 0xce000001 [(d.toNat, 22), (rows.toNat, 12)] = x0 := ⟨_, rfl⟩
  obtain ⟨f_d, f_rows, g0, g1, g2, lb, ub⟩ := shape40 d.isLt rows.isLt (show 103 < _ by decide) (show 0 < _ by decide) (show 1 < _ by decide) hv
  refine trip32 x0 hv rfl ⟨Nat.le_trans (by decide) lb, ub⟩ ?_
  have q : bits x0 30 25 = 39 := bits_sub g0 (by decide) (by decide)
  rw [at_decodeTop q]
  have q0 : bits x0 6 2 = 0 := bits_sub g2 (by decide) (by decide)
  have q1 : bits x0 6 4 = 0 := bits_sub g2 (by decide) (by decide)
  have q2 : bits x0 6 0 = 1 := bits_sub g2 (by decide) (by decide)
  have hd : decodeTop x0 = form x0 [(21, 15), (11, 7)] (.tzero (fld x0 22) (fld x0 12)) := by unfold decodeTop; rw [q0, q1, q2]; rfl
  rw [hd, fld_eq _ _ _ f_d, fld_eq _ _ _ f_rows]
  have z0 : bits x0 21 15 = 0 := g1
  have z1 : bits x0 11 7 = 0 := bits_sub g2 (by decide) (by decide)
  exact form_ok (by simp only [List.all_cons, List.all_nil, z0, z1]; rfl) hw

theorem Sys2Proof.Laws.RoundTrip.tadd (d : BitVec 3) (a : BitVec 3) (h : BitVec 1) (b : BitVec 3) (rows : BitVec 3) (fmt : BitVec 4) (f64 : BitVec 1) : Statement (.tadd d a h b rows fmt f64) := by
  intro hw _
  obtain ⟨x0, hv⟩ : ∃ x0, place 0xce000008 [(d.toNat, 22), (a.toNat, 19), (h.toNat, 18), (b.toNat, 15), (rows.toNat, 12), (fmt.toNat, 8), (f64.toNat, 7)] = x0 := ⟨_, rfl⟩
  obtain ⟨f_d, f_a, f_h, f_b, f_rows, f_fmt, f_f64, g0, g1, lb, ub⟩ := shape41 d.isLt a.isLt h.isLt b.isLt rows.isLt fmt.isLt f64.isLt (show 103 < _ by decide) (show 8 < _ by decide) hv
  refine trip32 x0 hv rfl ⟨Nat.le_trans (by decide) lb, ub⟩ ?_
  have q : bits x0 30 25 = 39 := bits_sub g0 (by decide) (by decide)
  rw [at_decodeTop q]
  have q0 : bits x0 6 2 = 2 := bits_sub g1 (by decide) (by decide)
  have q1 : bits x0 6 4 = 0 := bits_sub g1 (by decide) (by decide)
  have q2 : bits x0 6 0 = 8 := g1
  have hd : decodeTop x0 = form x0 [] (.tadd (fld x0 22) (fld x0 19) (fld x0 18) (fld x0 15) (fld x0 12) (fld x0 8) (fld x0 7)) := by unfold decodeTop; rw [q0, q1, q2]; rfl
  rw [hd, fld_eq _ _ _ f_d, fld_eq _ _ _ f_a, fld_eq _ _ _ f_h, fld_eq _ _ _ f_b, fld_eq _ _ _ f_rows, fld_eq _ _ _ f_fmt, fld_eq _ _ _ f_f64]
  exact form_ok (rfl) hw

theorem Sys2Proof.Laws.RoundTrip.tsub (d : BitVec 3) (a : BitVec 3) (h : BitVec 1) (b : BitVec 3) (rows : BitVec 3) (fmt : BitVec 4) (f64 : BitVec 1) : Statement (.tsub d a h b rows fmt f64) := by
  intro hw _
  obtain ⟨x0, hv⟩ : ∃ x0, place 0xce000009 [(d.toNat, 22), (a.toNat, 19), (h.toNat, 18), (b.toNat, 15), (rows.toNat, 12), (fmt.toNat, 8), (f64.toNat, 7)] = x0 := ⟨_, rfl⟩
  obtain ⟨f_d, f_a, f_h, f_b, f_rows, f_fmt, f_f64, g0, g1, lb, ub⟩ := shape41 d.isLt a.isLt h.isLt b.isLt rows.isLt fmt.isLt f64.isLt (show 103 < _ by decide) (show 9 < _ by decide) hv
  refine trip32 x0 hv rfl ⟨Nat.le_trans (by decide) lb, ub⟩ ?_
  have q : bits x0 30 25 = 39 := bits_sub g0 (by decide) (by decide)
  rw [at_decodeTop q]
  have q0 : bits x0 6 2 = 2 := bits_sub g1 (by decide) (by decide)
  have q1 : bits x0 6 4 = 0 := bits_sub g1 (by decide) (by decide)
  have q2 : bits x0 6 0 = 9 := g1
  have hd : decodeTop x0 = form x0 [] (.tsub (fld x0 22) (fld x0 19) (fld x0 18) (fld x0 15) (fld x0 12) (fld x0 8) (fld x0 7)) := by unfold decodeTop; rw [q0, q1, q2]; rfl
  rw [hd, fld_eq _ _ _ f_d, fld_eq _ _ _ f_a, fld_eq _ _ _ f_h, fld_eq _ _ _ f_b, fld_eq _ _ _ f_rows, fld_eq _ _ _ f_fmt, fld_eq _ _ _ f_f64]
  exact form_ok (rfl) hw

theorem Sys2Proof.Laws.RoundTrip.tmul (d : BitVec 3) (a : BitVec 3) (h : BitVec 1) (b : BitVec 3) (rows : BitVec 3) (fmt : BitVec 4) (f64 : BitVec 1) : Statement (.tmul d a h b rows fmt f64) := by
  intro hw _
  obtain ⟨x0, hv⟩ : ∃ x0, place 0xce00000a [(d.toNat, 22), (a.toNat, 19), (h.toNat, 18), (b.toNat, 15), (rows.toNat, 12), (fmt.toNat, 8), (f64.toNat, 7)] = x0 := ⟨_, rfl⟩
  obtain ⟨f_d, f_a, f_h, f_b, f_rows, f_fmt, f_f64, g0, g1, lb, ub⟩ := shape41 d.isLt a.isLt h.isLt b.isLt rows.isLt fmt.isLt f64.isLt (show 103 < _ by decide) (show 10 < _ by decide) hv
  refine trip32 x0 hv rfl ⟨Nat.le_trans (by decide) lb, ub⟩ ?_
  have q : bits x0 30 25 = 39 := bits_sub g0 (by decide) (by decide)
  rw [at_decodeTop q]
  have q0 : bits x0 6 2 = 2 := bits_sub g1 (by decide) (by decide)
  have q1 : bits x0 6 4 = 0 := bits_sub g1 (by decide) (by decide)
  have q2 : bits x0 6 0 = 10 := g1
  have hd : decodeTop x0 = form x0 [] (.tmul (fld x0 22) (fld x0 19) (fld x0 18) (fld x0 15) (fld x0 12) (fld x0 8) (fld x0 7)) := by unfold decodeTop; rw [q0, q1, q2]; rfl
  rw [hd, fld_eq _ _ _ f_d, fld_eq _ _ _ f_a, fld_eq _ _ _ f_h, fld_eq _ _ _ f_b, fld_eq _ _ _ f_rows, fld_eq _ _ _ f_fmt, fld_eq _ _ _ f_f64]
  exact form_ok (rfl) hw

theorem Sys2Proof.Laws.RoundTrip.tfma (d : BitVec 3) (a : BitVec 3) (h : BitVec 1) (b : BitVec 3) (rows : BitVec 3) (fmt : BitVec 4) (f64 : BitVec 1) : Statement (.tfma d a h b rows fmt f64) := by
  intro hw _
  obtain ⟨x0, hv⟩ : ∃ x0, place 0xce00000b [(d.toNat, 22), (a.toNat, 19), (h.toNat, 18), (b.toNat, 15), (rows.toNat, 12), (fmt.toNat, 8), (f64.toNat, 7)] = x0 := ⟨_, rfl⟩
  obtain ⟨f_d, f_a, f_h, f_b, f_rows, f_fmt, f_f64, g0, g1, lb, ub⟩ := shape41 d.isLt a.isLt h.isLt b.isLt rows.isLt fmt.isLt f64.isLt (show 103 < _ by decide) (show 11 < _ by decide) hv
  refine trip32 x0 hv rfl ⟨Nat.le_trans (by decide) lb, ub⟩ ?_
  have q : bits x0 30 25 = 39 := bits_sub g0 (by decide) (by decide)
  rw [at_decodeTop q]
  have q0 : bits x0 6 2 = 2 := bits_sub g1 (by decide) (by decide)
  have q1 : bits x0 6 4 = 0 := bits_sub g1 (by decide) (by decide)
  have q2 : bits x0 6 0 = 11 := g1
  have hd : decodeTop x0 = form x0 [] (.tfma (fld x0 22) (fld x0 19) (fld x0 18) (fld x0 15) (fld x0 12) (fld x0 8) (fld x0 7)) := by unfold decodeTop; rw [q0, q1, q2]; rfl
  rw [hd, fld_eq _ _ _ f_d, fld_eq _ _ _ f_a, fld_eq _ _ _ f_h, fld_eq _ _ _ f_b, fld_eq _ _ _ f_rows, fld_eq _ _ _ f_fmt, fld_eq _ _ _ f_f64]
  exact form_ok (rfl) hw

theorem Sys2Proof.Laws.RoundTrip.tmin (d : BitVec 3) (a : BitVec 3) (h : BitVec 1) (b : BitVec 3) (rows : BitVec 3) (fmt : BitVec 4) (f64 : BitVec 1) : Statement (.tmin d a h b rows fmt f64) := by
  intro hw _
  obtain ⟨x0, hv⟩ : ∃ x0, place 0xce00000c [(d.toNat, 22), (a.toNat, 19), (h.toNat, 18), (b.toNat, 15), (rows.toNat, 12), (fmt.toNat, 8), (f64.toNat, 7)] = x0 := ⟨_, rfl⟩
  obtain ⟨f_d, f_a, f_h, f_b, f_rows, f_fmt, f_f64, g0, g1, lb, ub⟩ := shape41 d.isLt a.isLt h.isLt b.isLt rows.isLt fmt.isLt f64.isLt (show 103 < _ by decide) (show 12 < _ by decide) hv
  refine trip32 x0 hv rfl ⟨Nat.le_trans (by decide) lb, ub⟩ ?_
  have q : bits x0 30 25 = 39 := bits_sub g0 (by decide) (by decide)
  rw [at_decodeTop q]
  have q0 : bits x0 6 2 = 3 := bits_sub g1 (by decide) (by decide)
  have q1 : bits x0 6 4 = 0 := bits_sub g1 (by decide) (by decide)
  have q2 : bits x0 6 0 = 12 := g1
  have hd : decodeTop x0 = form x0 [] (.tmin (fld x0 22) (fld x0 19) (fld x0 18) (fld x0 15) (fld x0 12) (fld x0 8) (fld x0 7)) := by unfold decodeTop; rw [q0, q1, q2]; rfl
  rw [hd, fld_eq _ _ _ f_d, fld_eq _ _ _ f_a, fld_eq _ _ _ f_h, fld_eq _ _ _ f_b, fld_eq _ _ _ f_rows, fld_eq _ _ _ f_fmt, fld_eq _ _ _ f_f64]
  exact form_ok (rfl) hw

theorem Sys2Proof.Laws.RoundTrip.tmax (d : BitVec 3) (a : BitVec 3) (h : BitVec 1) (b : BitVec 3) (rows : BitVec 3) (fmt : BitVec 4) (f64 : BitVec 1) : Statement (.tmax d a h b rows fmt f64) := by
  intro hw _
  obtain ⟨x0, hv⟩ : ∃ x0, place 0xce00000d [(d.toNat, 22), (a.toNat, 19), (h.toNat, 18), (b.toNat, 15), (rows.toNat, 12), (fmt.toNat, 8), (f64.toNat, 7)] = x0 := ⟨_, rfl⟩
  obtain ⟨f_d, f_a, f_h, f_b, f_rows, f_fmt, f_f64, g0, g1, lb, ub⟩ := shape41 d.isLt a.isLt h.isLt b.isLt rows.isLt fmt.isLt f64.isLt (show 103 < _ by decide) (show 13 < _ by decide) hv
  refine trip32 x0 hv rfl ⟨Nat.le_trans (by decide) lb, ub⟩ ?_
  have q : bits x0 30 25 = 39 := bits_sub g0 (by decide) (by decide)
  rw [at_decodeTop q]
  have q0 : bits x0 6 2 = 3 := bits_sub g1 (by decide) (by decide)
  have q1 : bits x0 6 4 = 0 := bits_sub g1 (by decide) (by decide)
  have q2 : bits x0 6 0 = 13 := g1
  have hd : decodeTop x0 = form x0 [] (.tmax (fld x0 22) (fld x0 19) (fld x0 18) (fld x0 15) (fld x0 12) (fld x0 8) (fld x0 7)) := by unfold decodeTop; rw [q0, q1, q2]; rfl
  rw [hd, fld_eq _ _ _ f_d, fld_eq _ _ _ f_a, fld_eq _ _ _ f_h, fld_eq _ _ _ f_b, fld_eq _ _ _ f_rows, fld_eq _ _ _ f_fmt, fld_eq _ _ _ f_f64]
  exact form_ok (rfl) hw

theorem Sys2Proof.Laws.RoundTrip.tabs (d : BitVec 3) (a : BitVec 3) (rows : BitVec 3) (fmt : BitVec 4) (f64 : BitVec 1) : Statement (.tabs d a rows fmt f64) := by
  intro hw _
  obtain ⟨x0, hv⟩ : ∃ x0, place 0xce00000e [(d.toNat, 22), (a.toNat, 19), (rows.toNat, 12), (fmt.toNat, 8), (f64.toNat, 7)] = x0 := ⟨_, rfl⟩
  obtain ⟨f_d, f_a, f_rows, f_fmt, f_f64, g0, g1, g2, lb, ub⟩ := shape42 d.isLt a.isLt rows.isLt fmt.isLt f64.isLt (show 103 < _ by decide) (show 0 < _ by decide) (show 14 < _ by decide) hv
  refine trip32 x0 hv rfl ⟨Nat.le_trans (by decide) lb, ub⟩ ?_
  have q : bits x0 30 25 = 39 := bits_sub g0 (by decide) (by decide)
  rw [at_decodeTop q]
  have q0 : bits x0 6 2 = 3 := bits_sub g2 (by decide) (by decide)
  have q1 : bits x0 6 4 = 0 := bits_sub g2 (by decide) (by decide)
  have q2 : bits x0 6 0 = 14 := g2
  have hd : decodeTop x0 = form x0 [(18, 15)] (.tabs (fld x0 22) (fld x0 19) (fld x0 12) (fld x0 8) (fld x0 7)) := by unfold decodeTop; rw [q0, q1, q2]; rfl
  rw [hd, fld_eq _ _ _ f_d, fld_eq _ _ _ f_a, fld_eq _ _ _ f_rows, fld_eq _ _ _ f_fmt, fld_eq _ _ _ f_f64]
  have z0 : bits x0 18 15 = 0 := g1
  exact form_ok (by simp only [List.all_cons, List.all_nil, z0]; rfl) hw

theorem Sys2Proof.Laws.RoundTrip.tneg (d : BitVec 3) (a : BitVec 3) (rows : BitVec 3) (fmt : BitVec 4) (f64 : BitVec 1) : Statement (.tneg d a rows fmt f64) := by
  intro hw _
  obtain ⟨x0, hv⟩ : ∃ x0, place 0xce00000f [(d.toNat, 22), (a.toNat, 19), (rows.toNat, 12), (fmt.toNat, 8), (f64.toNat, 7)] = x0 := ⟨_, rfl⟩
  obtain ⟨f_d, f_a, f_rows, f_fmt, f_f64, g0, g1, g2, lb, ub⟩ := shape42 d.isLt a.isLt rows.isLt fmt.isLt f64.isLt (show 103 < _ by decide) (show 0 < _ by decide) (show 15 < _ by decide) hv
  refine trip32 x0 hv rfl ⟨Nat.le_trans (by decide) lb, ub⟩ ?_
  have q : bits x0 30 25 = 39 := bits_sub g0 (by decide) (by decide)
  rw [at_decodeTop q]
  have q0 : bits x0 6 2 = 3 := bits_sub g2 (by decide) (by decide)
  have q1 : bits x0 6 4 = 0 := bits_sub g2 (by decide) (by decide)
  have q2 : bits x0 6 0 = 15 := g2
  have hd : decodeTop x0 = form x0 [(18, 15)] (.tneg (fld x0 22) (fld x0 19) (fld x0 12) (fld x0 8) (fld x0 7)) := by unfold decodeTop; rw [q0, q1, q2]; rfl
  rw [hd, fld_eq _ _ _ f_d, fld_eq _ _ _ f_a, fld_eq _ _ _ f_rows, fld_eq _ _ _ f_fmt, fld_eq _ _ _ f_f64]
  have z0 : bits x0 18 15 = 0 := g1
  exact form_ok (by simp only [List.all_cons, List.all_nil, z0]; rfl) hw

theorem Sys2Proof.Laws.RoundTrip.trcp (d : BitVec 3) (a : BitVec 3) (rows : BitVec 3) (fmt : BitVec 4) (f64 : BitVec 1) : Statement (.trcp d a rows fmt f64) := by
  intro hw _
  obtain ⟨x0, hv⟩ : ∃ x0, place 0xce000010 [(d.toNat, 22), (a.toNat, 19), (rows.toNat, 12), (fmt.toNat, 8), (f64.toNat, 7)] = x0 := ⟨_, rfl⟩
  obtain ⟨f_d, f_a, f_rows, f_fmt, f_f64, g0, g1, g2, lb, ub⟩ := shape42 d.isLt a.isLt rows.isLt fmt.isLt f64.isLt (show 103 < _ by decide) (show 0 < _ by decide) (show 16 < _ by decide) hv
  refine trip32 x0 hv rfl ⟨Nat.le_trans (by decide) lb, ub⟩ ?_
  have q : bits x0 30 25 = 39 := bits_sub g0 (by decide) (by decide)
  rw [at_decodeTop q]
  have q0 : bits x0 6 2 = 4 := bits_sub g2 (by decide) (by decide)
  have q1 : bits x0 6 4 = 1 := bits_sub g2 (by decide) (by decide)
  have q2 : bits x0 6 0 = 16 := g2
  have hd : decodeTop x0 = form x0 [(18, 15)] (.trcp (fld x0 22) (fld x0 19) (fld x0 12) (fld x0 8) (fld x0 7)) := by unfold decodeTop; rw [q0, q1, q2]; rfl
  rw [hd, fld_eq _ _ _ f_d, fld_eq _ _ _ f_a, fld_eq _ _ _ f_rows, fld_eq _ _ _ f_fmt, fld_eq _ _ _ f_f64]
  have z0 : bits x0 18 15 = 0 := g1
  exact form_ok (by simp only [List.all_cons, List.all_nil, z0]; rfl) hw

theorem Sys2Proof.Laws.RoundTrip.trsq (d : BitVec 3) (a : BitVec 3) (rows : BitVec 3) (fmt : BitVec 4) (f64 : BitVec 1) : Statement (.trsq d a rows fmt f64) := by
  intro hw _
  obtain ⟨x0, hv⟩ : ∃ x0, place 0xce000011 [(d.toNat, 22), (a.toNat, 19), (rows.toNat, 12), (fmt.toNat, 8), (f64.toNat, 7)] = x0 := ⟨_, rfl⟩
  obtain ⟨f_d, f_a, f_rows, f_fmt, f_f64, g0, g1, g2, lb, ub⟩ := shape42 d.isLt a.isLt rows.isLt fmt.isLt f64.isLt (show 103 < _ by decide) (show 0 < _ by decide) (show 17 < _ by decide) hv
  refine trip32 x0 hv rfl ⟨Nat.le_trans (by decide) lb, ub⟩ ?_
  have q : bits x0 30 25 = 39 := bits_sub g0 (by decide) (by decide)
  rw [at_decodeTop q]
  have q0 : bits x0 6 2 = 4 := bits_sub g2 (by decide) (by decide)
  have q1 : bits x0 6 4 = 1 := bits_sub g2 (by decide) (by decide)
  have q2 : bits x0 6 0 = 17 := g2
  have hd : decodeTop x0 = form x0 [(18, 15)] (.trsq (fld x0 22) (fld x0 19) (fld x0 12) (fld x0 8) (fld x0 7)) := by unfold decodeTop; rw [q0, q1, q2]; rfl
  rw [hd, fld_eq _ _ _ f_d, fld_eq _ _ _ f_a, fld_eq _ _ _ f_rows, fld_eq _ _ _ f_fmt, fld_eq _ _ _ f_f64]
  have z0 : bits x0 18 15 = 0 := g1
  exact form_ok (by simp only [List.all_cons, List.all_nil, z0]; rfl) hw

theorem Sys2Proof.Laws.RoundTrip.texp2 (d : BitVec 3) (a : BitVec 3) (rows : BitVec 3) (fmt : BitVec 4) (f64 : BitVec 1) : Statement (.texp2 d a rows fmt f64) := by
  intro hw _
  obtain ⟨x0, hv⟩ : ∃ x0, place 0xce000012 [(d.toNat, 22), (a.toNat, 19), (rows.toNat, 12), (fmt.toNat, 8), (f64.toNat, 7)] = x0 := ⟨_, rfl⟩
  obtain ⟨f_d, f_a, f_rows, f_fmt, f_f64, g0, g1, g2, lb, ub⟩ := shape42 d.isLt a.isLt rows.isLt fmt.isLt f64.isLt (show 103 < _ by decide) (show 0 < _ by decide) (show 18 < _ by decide) hv
  refine trip32 x0 hv rfl ⟨Nat.le_trans (by decide) lb, ub⟩ ?_
  have q : bits x0 30 25 = 39 := bits_sub g0 (by decide) (by decide)
  rw [at_decodeTop q]
  have q0 : bits x0 6 2 = 4 := bits_sub g2 (by decide) (by decide)
  have q1 : bits x0 6 4 = 1 := bits_sub g2 (by decide) (by decide)
  have q2 : bits x0 6 0 = 18 := g2
  have hd : decodeTop x0 = form x0 [(18, 15)] (.texp2 (fld x0 22) (fld x0 19) (fld x0 12) (fld x0 8) (fld x0 7)) := by unfold decodeTop; rw [q0, q1, q2]; rfl
  rw [hd, fld_eq _ _ _ f_d, fld_eq _ _ _ f_a, fld_eq _ _ _ f_rows, fld_eq _ _ _ f_fmt, fld_eq _ _ _ f_f64]
  have z0 : bits x0 18 15 = 0 := g1
  exact form_ok (by simp only [List.all_cons, List.all_nil, z0]; rfl) hw

theorem Sys2Proof.Laws.RoundTrip.tlog2 (d : BitVec 3) (a : BitVec 3) (rows : BitVec 3) (fmt : BitVec 4) (f64 : BitVec 1) : Statement (.tlog2 d a rows fmt f64) := by
  intro hw _
  obtain ⟨x0, hv⟩ : ∃ x0, place 0xce000013 [(d.toNat, 22), (a.toNat, 19), (rows.toNat, 12), (fmt.toNat, 8), (f64.toNat, 7)] = x0 := ⟨_, rfl⟩
  obtain ⟨f_d, f_a, f_rows, f_fmt, f_f64, g0, g1, g2, lb, ub⟩ := shape42 d.isLt a.isLt rows.isLt fmt.isLt f64.isLt (show 103 < _ by decide) (show 0 < _ by decide) (show 19 < _ by decide) hv
  refine trip32 x0 hv rfl ⟨Nat.le_trans (by decide) lb, ub⟩ ?_
  have q : bits x0 30 25 = 39 := bits_sub g0 (by decide) (by decide)
  rw [at_decodeTop q]
  have q0 : bits x0 6 2 = 4 := bits_sub g2 (by decide) (by decide)
  have q1 : bits x0 6 4 = 1 := bits_sub g2 (by decide) (by decide)
  have q2 : bits x0 6 0 = 19 := g2
  have hd : decodeTop x0 = form x0 [(18, 15)] (.tlog2 (fld x0 22) (fld x0 19) (fld x0 12) (fld x0 8) (fld x0 7)) := by unfold decodeTop; rw [q0, q1, q2]; rfl
  rw [hd, fld_eq _ _ _ f_d, fld_eq _ _ _ f_a, fld_eq _ _ _ f_rows, fld_eq _ _ _ f_fmt, fld_eq _ _ _ f_f64]
  have z0 : bits x0 18 15 = 0 := g1
  exact form_ok (by simp only [List.all_cons, List.all_nil, z0]; rfl) hw

theorem Sys2Proof.Laws.RoundTrip.ttanh (d : BitVec 3) (a : BitVec 3) (rows : BitVec 3) (fmt : BitVec 4) (f64 : BitVec 1) : Statement (.ttanh d a rows fmt f64) := by
  intro hw _
  obtain ⟨x0, hv⟩ : ∃ x0, place 0xce000014 [(d.toNat, 22), (a.toNat, 19), (rows.toNat, 12), (fmt.toNat, 8), (f64.toNat, 7)] = x0 := ⟨_, rfl⟩
  obtain ⟨f_d, f_a, f_rows, f_fmt, f_f64, g0, g1, g2, lb, ub⟩ := shape42 d.isLt a.isLt rows.isLt fmt.isLt f64.isLt (show 103 < _ by decide) (show 0 < _ by decide) (show 20 < _ by decide) hv
  refine trip32 x0 hv rfl ⟨Nat.le_trans (by decide) lb, ub⟩ ?_
  have q : bits x0 30 25 = 39 := bits_sub g0 (by decide) (by decide)
  rw [at_decodeTop q]
  have q0 : bits x0 6 2 = 5 := bits_sub g2 (by decide) (by decide)
  have q1 : bits x0 6 4 = 1 := bits_sub g2 (by decide) (by decide)
  have q2 : bits x0 6 0 = 20 := g2
  have hd : decodeTop x0 = form x0 [(18, 15)] (.ttanh (fld x0 22) (fld x0 19) (fld x0 12) (fld x0 8) (fld x0 7)) := by unfold decodeTop; rw [q0, q1, q2]; rfl
  rw [hd, fld_eq _ _ _ f_d, fld_eq _ _ _ f_a, fld_eq _ _ _ f_rows, fld_eq _ _ _ f_fmt, fld_eq _ _ _ f_f64]
  have z0 : bits x0 18 15 = 0 := g1
  exact form_ok (by simp only [List.all_cons, List.all_nil, z0]; rfl) hw

theorem Sys2Proof.Laws.RoundTrip.tcmp (d : BitVec 3) (a : BitVec 3) (h : BitVec 1) (b : BitVec 3) (rows : BitVec 3) (fmt : BitVec 4) (f64 : BitVec 1) (cc : BitVec 2) : Statement (.tcmp d a h b rows fmt f64 cc) := by
  intro hw _
  obtain ⟨x0, hv⟩ : ∃ x0, place 0xce000018 [(d.toNat, 22), (a.toNat, 19), (h.toNat, 18), (b.toNat, 15), (rows.toNat, 12), (fmt.toNat, 8), (f64.toNat, 7), (cc.toNat, 0)] = x0 := ⟨_, rfl⟩
  obtain ⟨f_d, f_a, f_h, f_b, f_rows, f_fmt, f_f64, f_cc, g0, g1, lb, ub⟩ := shape43 d.isLt a.isLt h.isLt b.isLt rows.isLt fmt.isLt f64.isLt cc.isLt (show 103 < _ by decide) (show 6 < _ by decide) hv
  refine trip32 x0 hv rfl ⟨Nat.le_trans (by decide) lb, ub⟩ ?_
  have q : bits x0 30 25 = 39 := bits_sub g0 (by decide) (by decide)
  rw [at_decodeTop q]
  have q0 : bits x0 6 2 = 6 := g1
  have hd : decodeTop x0 = form x0 [] (.tcmp (fld x0 22) (fld x0 19) (fld x0 18) (fld x0 15) (fld x0 12) (fld x0 8) (fld x0 7) (fld x0 0)) := by unfold decodeTop; rw [q0]; rfl
  rw [hd, fld_eq _ _ _ f_d, fld_eq _ _ _ f_a, fld_eq _ _ _ f_h, fld_eq _ _ _ f_b, fld_eq _ _ _ f_rows, fld_eq _ _ _ f_fmt, fld_eq _ _ _ f_f64, fld_eq _ _ _ f_cc]
  exact form_ok (rfl) hw

theorem Sys2Proof.Laws.RoundTrip.tsel (d : BitVec 3) (a : BitVec 3) (h : BitVec 1) (b : BitVec 3) (rows : BitVec 3) (fmt : BitVec 4) (f64 : BitVec 1) : Statement (.tsel d a h b rows fmt f64) := by
  intro hw _
  obtain ⟨x0, hv⟩ : ∃ x0, place 0xce00001c [(d.toNat, 22), (a.toNat, 19), (h.toNat, 18), (b.toNat, 15), (rows.toNat, 12), (fmt.toNat, 8), (f64.toNat, 7)] = x0 := ⟨_, rfl⟩
  obtain ⟨f_d, f_a, f_h, f_b, f_rows, f_fmt, f_f64, g0, g1, lb, ub⟩ := shape41 d.isLt a.isLt h.isLt b.isLt rows.isLt fmt.isLt f64.isLt (show 103 < _ by decide) (show 28 < _ by decide) hv
  refine trip32 x0 hv rfl ⟨Nat.le_trans (by decide) lb, ub⟩ ?_
  have q : bits x0 30 25 = 39 := bits_sub g0 (by decide) (by decide)
  rw [at_decodeTop q]
  have q0 : bits x0 6 2 = 7 := bits_sub g1 (by decide) (by decide)
  have q1 : bits x0 6 4 = 1 := bits_sub g1 (by decide) (by decide)
  have q2 : bits x0 6 0 = 28 := g1
  have hd : decodeTop x0 = form x0 [] (.tsel (fld x0 22) (fld x0 19) (fld x0 18) (fld x0 15) (fld x0 12) (fld x0 8) (fld x0 7)) := by unfold decodeTop; rw [q0, q1, q2]; rfl
  rw [hd, fld_eq _ _ _ f_d, fld_eq _ _ _ f_a, fld_eq _ _ _ f_h, fld_eq _ _ _ f_b, fld_eq _ _ _ f_rows, fld_eq _ _ _ f_fmt, fld_eq _ _ _ f_f64]
  exact form_ok (rfl) hw

theorem Sys2Proof.Laws.RoundTrip.tand (d : BitVec 3) (a : BitVec 3) (h : BitVec 1) (b : BitVec 3) (rows : BitVec 3) : Statement (.tand d a h b rows) := by
  intro hw _
  obtain ⟨x0, hv⟩ : ∃ x0, place 0xce000020 [(d.toNat, 22), (a.toNat, 19), (h.toNat, 18), (b.toNat, 15), (rows.toNat, 12)] = x0 := ⟨_, rfl⟩
  obtain ⟨f_d, f_a, f_h, f_b, f_rows, g0, g1, lb, ub⟩ := shape44 d.isLt a.isLt h.isLt b.isLt rows.isLt (show 103 < _ by decide) (show 32 < _ by decide) hv
  refine trip32 x0 hv rfl ⟨Nat.le_trans (by decide) lb, ub⟩ ?_
  have q : bits x0 30 25 = 39 := bits_sub g0 (by decide) (by decide)
  rw [at_decodeTop q]
  have q0 : bits x0 6 2 = 8 := bits_sub g1 (by decide) (by decide)
  have q1 : bits x0 6 4 = 2 := bits_sub g1 (by decide) (by decide)
  have q2 : bits x0 6 0 = 32 := bits_sub g1 (by decide) (by decide)
  have hd : decodeTop x0 = form x0 [(11, 7)] (.tand (fld x0 22) (fld x0 19) (fld x0 18) (fld x0 15) (fld x0 12)) := by unfold decodeTop; rw [q0, q1, q2]; rfl
  rw [hd, fld_eq _ _ _ f_d, fld_eq _ _ _ f_a, fld_eq _ _ _ f_h, fld_eq _ _ _ f_b, fld_eq _ _ _ f_rows]
  have z0 : bits x0 11 7 = 0 := bits_sub g1 (by decide) (by decide)
  exact form_ok (by simp only [List.all_cons, List.all_nil, z0]; rfl) hw

theorem Sys2Proof.Laws.RoundTrip.tor (d : BitVec 3) (a : BitVec 3) (h : BitVec 1) (b : BitVec 3) (rows : BitVec 3) : Statement (.tor d a h b rows) := by
  intro hw _
  obtain ⟨x0, hv⟩ : ∃ x0, place 0xce000021 [(d.toNat, 22), (a.toNat, 19), (h.toNat, 18), (b.toNat, 15), (rows.toNat, 12)] = x0 := ⟨_, rfl⟩
  obtain ⟨f_d, f_a, f_h, f_b, f_rows, g0, g1, lb, ub⟩ := shape44 d.isLt a.isLt h.isLt b.isLt rows.isLt (show 103 < _ by decide) (show 33 < _ by decide) hv
  refine trip32 x0 hv rfl ⟨Nat.le_trans (by decide) lb, ub⟩ ?_
  have q : bits x0 30 25 = 39 := bits_sub g0 (by decide) (by decide)
  rw [at_decodeTop q]
  have q0 : bits x0 6 2 = 8 := bits_sub g1 (by decide) (by decide)
  have q1 : bits x0 6 4 = 2 := bits_sub g1 (by decide) (by decide)
  have q2 : bits x0 6 0 = 33 := bits_sub g1 (by decide) (by decide)
  have hd : decodeTop x0 = form x0 [(11, 7)] (.tor (fld x0 22) (fld x0 19) (fld x0 18) (fld x0 15) (fld x0 12)) := by unfold decodeTop; rw [q0, q1, q2]; rfl
  rw [hd, fld_eq _ _ _ f_d, fld_eq _ _ _ f_a, fld_eq _ _ _ f_h, fld_eq _ _ _ f_b, fld_eq _ _ _ f_rows]
  have z0 : bits x0 11 7 = 0 := bits_sub g1 (by decide) (by decide)
  exact form_ok (by simp only [List.all_cons, List.all_nil, z0]; rfl) hw

theorem Sys2Proof.Laws.RoundTrip.txor (d : BitVec 3) (a : BitVec 3) (h : BitVec 1) (b : BitVec 3) (rows : BitVec 3) : Statement (.txor d a h b rows) := by
  intro hw _
  obtain ⟨x0, hv⟩ : ∃ x0, place 0xce000022 [(d.toNat, 22), (a.toNat, 19), (h.toNat, 18), (b.toNat, 15), (rows.toNat, 12)] = x0 := ⟨_, rfl⟩
  obtain ⟨f_d, f_a, f_h, f_b, f_rows, g0, g1, lb, ub⟩ := shape44 d.isLt a.isLt h.isLt b.isLt rows.isLt (show 103 < _ by decide) (show 34 < _ by decide) hv
  refine trip32 x0 hv rfl ⟨Nat.le_trans (by decide) lb, ub⟩ ?_
  have q : bits x0 30 25 = 39 := bits_sub g0 (by decide) (by decide)
  rw [at_decodeTop q]
  have q0 : bits x0 6 2 = 8 := bits_sub g1 (by decide) (by decide)
  have q1 : bits x0 6 4 = 2 := bits_sub g1 (by decide) (by decide)
  have q2 : bits x0 6 0 = 34 := bits_sub g1 (by decide) (by decide)
  have hd : decodeTop x0 = form x0 [(11, 7)] (.txor (fld x0 22) (fld x0 19) (fld x0 18) (fld x0 15) (fld x0 12)) := by unfold decodeTop; rw [q0, q1, q2]; rfl
  rw [hd, fld_eq _ _ _ f_d, fld_eq _ _ _ f_a, fld_eq _ _ _ f_h, fld_eq _ _ _ f_b, fld_eq _ _ _ f_rows]
  have z0 : bits x0 11 7 = 0 := bits_sub g1 (by decide) (by decide)
  exact form_ok (by simp only [List.all_cons, List.all_nil, z0]; rfl) hw

theorem Sys2Proof.Laws.RoundTrip.tnot (d : BitVec 3) (a : BitVec 3) (rows : BitVec 3) : Statement (.tnot d a rows) := by
  intro hw _
  obtain ⟨x0, hv⟩ : ∃ x0, place 0xce000023 [(d.toNat, 22), (a.toNat, 19), (rows.toNat, 12)] = x0 := ⟨_, rfl⟩
  obtain ⟨f_d, f_a, f_rows, g0, g1, g2, lb, ub⟩ := shape39 d.isLt a.isLt rows.isLt (show 103 < _ by decide) (show 0 < _ by decide) (show 35 < _ by decide) hv
  refine trip32 x0 hv rfl ⟨Nat.le_trans (by decide) lb, ub⟩ ?_
  have q : bits x0 30 25 = 39 := bits_sub g0 (by decide) (by decide)
  rw [at_decodeTop q]
  have q0 : bits x0 6 2 = 8 := bits_sub g2 (by decide) (by decide)
  have q1 : bits x0 6 4 = 2 := bits_sub g2 (by decide) (by decide)
  have q2 : bits x0 6 0 = 35 := bits_sub g2 (by decide) (by decide)
  have hd : decodeTop x0 = form x0 [(18, 15), (11, 7)] (.tnot (fld x0 22) (fld x0 19) (fld x0 12)) := by unfold decodeTop; rw [q0, q1, q2]; rfl
  rw [hd, fld_eq _ _ _ f_d, fld_eq _ _ _ f_a, fld_eq _ _ _ f_rows]
  have z0 : bits x0 18 15 = 0 := g1
  have z1 : bits x0 11 7 = 0 := bits_sub g2 (by decide) (by decide)
  exact form_ok (by simp only [List.all_cons, List.all_nil, z0, z1]; rfl) hw

theorem Sys2Proof.Laws.RoundTrip.tshl (d : BitVec 3) (a : BitVec 3) (h : BitVec 1) (b : BitVec 3) (rows : BitVec 3) (fmt : BitVec 4) : Statement (.tshl d a h b rows fmt) := by
  intro hw _
  obtain ⟨x0, hv⟩ : ∃ x0, place 0xce000024 [(d.toNat, 22), (a.toNat, 19), (h.toNat, 18), (b.toNat, 15), (rows.toNat, 12), (fmt.toNat, 8)] = x0 := ⟨_, rfl⟩
  obtain ⟨f_d, f_a, f_h, f_b, f_rows, f_fmt, g0, g1, lb, ub⟩ := shape45 d.isLt a.isLt h.isLt b.isLt rows.isLt fmt.isLt (show 103 < _ by decide) (show 36 < _ by decide) hv
  refine trip32 x0 hv rfl ⟨Nat.le_trans (by decide) lb, ub⟩ ?_
  have q : bits x0 30 25 = 39 := bits_sub g0 (by decide) (by decide)
  rw [at_decodeTop q]
  have q0 : bits x0 6 2 = 9 := bits_sub g1 (by decide) (by decide)
  have q1 : bits x0 6 4 = 2 := bits_sub g1 (by decide) (by decide)
  have q2 : bits x0 6 0 = 36 := bits_sub g1 (by decide) (by decide)
  have hd : decodeTop x0 = form x0 [(7, 7)] (.tshl (fld x0 22) (fld x0 19) (fld x0 18) (fld x0 15) (fld x0 12) (fld x0 8)) := by unfold decodeTop; rw [q0, q1, q2]; rfl
  rw [hd, fld_eq _ _ _ f_d, fld_eq _ _ _ f_a, fld_eq _ _ _ f_h, fld_eq _ _ _ f_b, fld_eq _ _ _ f_rows, fld_eq _ _ _ f_fmt]
  have z0 : bits x0 7 7 = 0 := bits_sub g1 (by decide) (by decide)
  exact form_ok (by simp only [List.all_cons, List.all_nil, z0]; rfl) hw

theorem Sys2Proof.Laws.RoundTrip.tshr (d : BitVec 3) (a : BitVec 3) (h : BitVec 1) (b : BitVec 3) (rows : BitVec 3) (fmt : BitVec 4) : Statement (.tshr d a h b rows fmt) := by
  intro hw _
  obtain ⟨x0, hv⟩ : ∃ x0, place 0xce000025 [(d.toNat, 22), (a.toNat, 19), (h.toNat, 18), (b.toNat, 15), (rows.toNat, 12), (fmt.toNat, 8)] = x0 := ⟨_, rfl⟩
  obtain ⟨f_d, f_a, f_h, f_b, f_rows, f_fmt, g0, g1, lb, ub⟩ := shape45 d.isLt a.isLt h.isLt b.isLt rows.isLt fmt.isLt (show 103 < _ by decide) (show 37 < _ by decide) hv
  refine trip32 x0 hv rfl ⟨Nat.le_trans (by decide) lb, ub⟩ ?_
  have q : bits x0 30 25 = 39 := bits_sub g0 (by decide) (by decide)
  rw [at_decodeTop q]
  have q0 : bits x0 6 2 = 9 := bits_sub g1 (by decide) (by decide)
  have q1 : bits x0 6 4 = 2 := bits_sub g1 (by decide) (by decide)
  have q2 : bits x0 6 0 = 37 := bits_sub g1 (by decide) (by decide)
  have hd : decodeTop x0 = form x0 [(7, 7)] (.tshr (fld x0 22) (fld x0 19) (fld x0 18) (fld x0 15) (fld x0 12) (fld x0 8)) := by unfold decodeTop; rw [q0, q1, q2]; rfl
  rw [hd, fld_eq _ _ _ f_d, fld_eq _ _ _ f_a, fld_eq _ _ _ f_h, fld_eq _ _ _ f_b, fld_eq _ _ _ f_rows, fld_eq _ _ _ f_fmt]
  have z0 : bits x0 7 7 = 0 := bits_sub g1 (by decide) (by decide)
  exact form_ok (by simp only [List.all_cons, List.all_nil, z0]; rfl) hw

theorem Sys2Proof.Laws.RoundTrip.tcvt (d : BitVec 3) (a : BitVec 3) (src : BitVec 4) (rows : BitVec 3) (fmt : BitVec 4) (f64 : BitVec 1) (sat : BitVec 1) (rm : BitVec 3) : Statement (.tcvt d a src rows fmt f64 sat rm) := by
  intro hw _
  obtain ⟨x0, hv⟩ : ∃ x0, place 0xce000030 [(d.toNat, 22), (a.toNat, 19), (src.toNat, 15), (rows.toNat, 12), (fmt.toNat, 8), (f64.toNat, 7), (sat.toNat, 3), (rm.toNat, 0)] = x0 := ⟨_, rfl⟩
  obtain ⟨f_d, f_a, f_src, f_rows, f_fmt, f_f64, f_sat, f_rm, g0, g1, lb, ub⟩ := shape46 d.isLt a.isLt src.isLt rows.isLt fmt.isLt f64.isLt sat.isLt rm.isLt (show 103 < _ by decide) (show 3 < _ by decide) hv
  refine trip32 x0 hv rfl ⟨Nat.le_trans (by decide) lb, ub⟩ ?_
  have q : bits x0 30 25 = 39 := bits_sub g0 (by decide) (by decide)
  rw [at_decodeTop q]
  have q1 : bits x0 6 4 = 3 := g1
  have hd : decodeTop x0 = form x0 [] (.tcvt (fld x0 22) (fld x0 19) (fld x0 15) (fld x0 12) (fld x0 8) (fld x0 7) (fld x0 3) (fld x0 0)) := by
    unfold decodeTop
    rcases (by unfold bits at *; omega : bits x0 6 2 = 12 ∨ bits x0 6 2 = 13 ∨ bits x0 6 2 = 14 ∨ bits x0 6 2 = 15) with h | h | h | h
    all_goals (rw [h, q1]; rfl)
  rw [hd, fld_eq _ _ _ f_d, fld_eq _ _ _ f_a, fld_eq _ _ _ f_src, fld_eq _ _ _ f_rows, fld_eq _ _ _ f_fmt, fld_eq _ _ _ f_f64, fld_eq _ _ _ f_sat, fld_eq _ _ _ f_rm]
  exact form_ok (rfl) hw

theorem Sys2Proof.Laws.RoundTrip.tqnt (d : BitVec 3) (a : BitVec 3) (src : BitVec 4) (rows : BitVec 3) (fmt : BitVec 4) (sat : BitVec 1) (rm : BitVec 3) : Statement (.tqnt d a src rows fmt sat rm) := by
  intro hw _
  obtain ⟨x0, hv⟩ : ∃ x0, place 0xce000040 [(d.toNat, 22), (a.toNat, 19), (src.toNat, 15), (rows.toNat, 12), (fmt.toNat, 8), (sat.toNat, 3), (rm.toNat, 0)] = x0 := ⟨_, rfl⟩
  obtain ⟨f_d, f_a, f_src, f_rows, f_fmt, f_sat, f_rm, g0, g1, lb, ub⟩ := shape47 d.isLt a.isLt src.isLt rows.isLt fmt.isLt sat.isLt rm.isLt (show 103 < _ by decide) (show 4 < _ by decide) hv
  refine trip32 x0 hv rfl ⟨Nat.le_trans (by decide) lb, ub⟩ ?_
  have q : bits x0 30 25 = 39 := bits_sub g0 (by decide) (by decide)
  rw [at_decodeTop q]
  have q1 : bits x0 6 4 = 4 := bits_sub g1 (by decide) (by decide)
  have hd : decodeTop x0 = form x0 [(7, 7)] (.tqnt (fld x0 22) (fld x0 19) (fld x0 15) (fld x0 12) (fld x0 8) (fld x0 3) (fld x0 0)) := by
    unfold decodeTop
    rcases (by unfold bits at *; omega : bits x0 6 2 = 16 ∨ bits x0 6 2 = 17 ∨ bits x0 6 2 = 18 ∨ bits x0 6 2 = 19) with h | h | h | h
    all_goals (rw [h, q1]; rfl)
  rw [hd, fld_eq _ _ _ f_d, fld_eq _ _ _ f_a, fld_eq _ _ _ f_src, fld_eq _ _ _ f_rows, fld_eq _ _ _ f_fmt, fld_eq _ _ _ f_sat, fld_eq _ _ _ f_rm]
  have z0 : bits x0 7 7 = 0 := bits_sub g1 (by decide) (by decide)
  exact form_ok (by simp only [List.all_cons, List.all_nil, z0]; rfl) hw

theorem Sys2Proof.Laws.RoundTrip.tdq (d : BitVec 3) (a : BitVec 3) (src : BitVec 4) (rows : BitVec 3) (fmt : BitVec 4) (sat : BitVec 1) (rm : BitVec 3) : Statement (.tdq d a src rows fmt sat rm) := by
  intro hw _
  obtain ⟨x0, hv⟩ : ∃ x0, place 0xce000050 [(d.toNat, 22), (a.toNat, 19), (src.toNat, 15), (rows.toNat, 12), (fmt.toNat, 8), (sat.toNat, 3), (rm.toNat, 0)] = x0 := ⟨_, rfl⟩
  obtain ⟨f_d, f_a, f_src, f_rows, f_fmt, f_sat, f_rm, g0, g1, lb, ub⟩ := shape47 d.isLt a.isLt src.isLt rows.isLt fmt.isLt sat.isLt rm.isLt (show 103 < _ by decide) (show 5 < _ by decide) hv
  refine trip32 x0 hv rfl ⟨Nat.le_trans (by decide) lb, ub⟩ ?_
  have q : bits x0 30 25 = 39 := bits_sub g0 (by decide) (by decide)
  rw [at_decodeTop q]
  have q1 : bits x0 6 4 = 5 := bits_sub g1 (by decide) (by decide)
  have hd : decodeTop x0 = form x0 [(7, 7)] (.tdq (fld x0 22) (fld x0 19) (fld x0 15) (fld x0 12) (fld x0 8) (fld x0 3) (fld x0 0)) := by
    unfold decodeTop
    rcases (by unfold bits at *; omega : bits x0 6 2 = 20 ∨ bits x0 6 2 = 21 ∨ bits x0 6 2 = 22 ∨ bits x0 6 2 = 23) with h | h | h | h
    all_goals (rw [h, q1]; rfl)
  rw [hd, fld_eq _ _ _ f_d, fld_eq _ _ _ f_a, fld_eq _ _ _ f_src, fld_eq _ _ _ f_rows, fld_eq _ _ _ f_fmt, fld_eq _ _ _ f_sat, fld_eq _ _ _ f_rm]
  have z0 : bits x0 7 7 = 0 := bits_sub g1 (by decide) (by decide)
  exact form_ok (by simp only [List.all_cons, List.all_nil, z0]; rfl) hw

theorem Sys2Proof.Laws.RoundTrip.tred (d : BitVec 3) (a : BitVec 3) (rows : BitVec 3) (fmt : BitVec 4) (f64 : BitVec 1) (k : BitVec 2) : Statement (.tred d a rows fmt f64 k) := by
  intro hw _
  obtain ⟨x0, hv⟩ : ∃ x0, place 0xce000060 [(d.toNat, 22), (a.toNat, 19), (rows.toNat, 12), (fmt.toNat, 8), (f64.toNat, 7), (k.toNat, 0)] = x0 := ⟨_, rfl⟩
  obtain ⟨f_d, f_a, f_rows, f_fmt, f_f64, f_k, g0, g1, g2, lb, ub⟩ := shape48 d.isLt a.isLt rows.isLt fmt.isLt f64.isLt k.isLt (show 103 < _ by decide) (show 0 < _ by decide) (show 24 < _ by decide) hv
  refine trip32 x0 hv rfl ⟨Nat.le_trans (by decide) lb, ub⟩ ?_
  have q : bits x0 30 25 = 39 := bits_sub g0 (by decide) (by decide)
  rw [at_decodeTop q]
  have q0 : bits x0 6 2 = 24 := g2
  have hd : decodeTop x0 = form x0 [(18, 15)] (.tred (fld x0 22) (fld x0 19) (fld x0 12) (fld x0 8) (fld x0 7) (fld x0 0)) := by unfold decodeTop; rw [q0]; rfl
  rw [hd, fld_eq _ _ _ f_d, fld_eq _ _ _ f_a, fld_eq _ _ _ f_rows, fld_eq _ _ _ f_fmt, fld_eq _ _ _ f_f64, fld_eq _ _ _ f_k]
  have z0 : bits x0 18 15 = 0 := g1
  exact form_ok (by simp only [List.all_cons, List.all_nil, z0]; rfl) hw

theorem Sys2Proof.Laws.RoundTrip.tscan (d : BitVec 3) (a : BitVec 3) (rows : BitVec 3) (fmt : BitVec 4) (f64 : BitVec 1) : Statement (.tscan d a rows fmt f64) := by
  intro hw _
  obtain ⟨x0, hv⟩ : ∃ x0, place 0xce000064 [(d.toNat, 22), (a.toNat, 19), (rows.toNat, 12), (fmt.toNat, 8), (f64.toNat, 7)] = x0 := ⟨_, rfl⟩
  obtain ⟨f_d, f_a, f_rows, f_fmt, f_f64, g0, g1, g2, lb, ub⟩ := shape42 d.isLt a.isLt rows.isLt fmt.isLt f64.isLt (show 103 < _ by decide) (show 0 < _ by decide) (show 100 < _ by decide) hv
  refine trip32 x0 hv rfl ⟨Nat.le_trans (by decide) lb, ub⟩ ?_
  have q : bits x0 30 25 = 39 := bits_sub g0 (by decide) (by decide)
  rw [at_decodeTop q]
  have q0 : bits x0 6 2 = 25 := bits_sub g2 (by decide) (by decide)
  have q1 : bits x0 6 4 = 6 := bits_sub g2 (by decide) (by decide)
  have q2 : bits x0 6 0 = 100 := g2
  have hd : decodeTop x0 = form x0 [(18, 15)] (.tscan (fld x0 22) (fld x0 19) (fld x0 12) (fld x0 8) (fld x0 7)) := by unfold decodeTop; rw [q0, q1, q2]; rfl
  rw [hd, fld_eq _ _ _ f_d, fld_eq _ _ _ f_a, fld_eq _ _ _ f_rows, fld_eq _ _ _ f_fmt, fld_eq _ _ _ f_f64]
  have z0 : bits x0 18 15 = 0 := g1
  exact form_ok (by simp only [List.all_cons, List.all_nil, z0]; rfl) hw

theorem Sys2Proof.Laws.RoundTrip.tbcast (d : BitVec 3) (a : BitVec 3) (b : BitVec 1) (rows : BitVec 3) (fmt : BitVec 4) : Statement (.tbcast d a b rows fmt) := by
  intro hw _
  obtain ⟨x0, hv⟩ : ∃ x0, place 0xce000065 [(d.toNat, 22), (a.toNat, 19), (b.toNat, 15), (rows.toNat, 12), (fmt.toNat, 8)] = x0 := ⟨_, rfl⟩
  obtain ⟨f_d, f_a, f_b, f_rows, f_fmt, g0, g1, g2, lb, ub⟩ := shape49 d.isLt a.isLt b.isLt rows.isLt fmt.isLt (show 103 < _ by decide) (show 0 < _ by decide) (show 101 < _ by decide) hv
  refine trip32 x0 hv rfl ⟨Nat.le_trans (by decide) lb, ub⟩ ?_
  have q : bits x0 30 25 = 39 := bits_sub g0 (by decide) (by decide)
  rw [at_decodeTop q]
  have q0 : bits x0 6 2 = 25 := bits_sub g2 (by decide) (by decide)
  have q1 : bits x0 6 4 = 6 := bits_sub g2 (by decide) (by decide)
  have q2 : bits x0 6 0 = 101 := bits_sub g2 (by decide) (by decide)
  have hd : decodeTop x0 = form x0 [(18, 16), (7, 7)] (.tbcast (fld x0 22) (fld x0 19) (fld x0 15) (fld x0 12) (fld x0 8)) := by unfold decodeTop; rw [q0, q1, q2]; rfl
  rw [hd, fld_eq _ _ _ f_d, fld_eq _ _ _ f_a, fld_eq _ _ _ f_b, fld_eq _ _ _ f_rows, fld_eq _ _ _ f_fmt]
  have z0 : bits x0 18 16 = 0 := g1
  have z1 : bits x0 7 7 = 0 := bits_sub g2 (by decide) (by decide)
  exact form_ok (by simp only [List.all_cons, List.all_nil, z0, z1]; rfl) hw

theorem Sys2Proof.Laws.RoundTrip.ttrn (d : BitVec 3) (a : BitVec 3) (fmt : BitVec 4) : Statement (.ttrn d a fmt) := by
  intro hw _
  obtain ⟨x0, hv⟩ : ∃ x0, place 0xce007066 [(d.toNat, 22), (a.toNat, 19), (fmt.toNat, 8)] = x0 := ⟨_, rfl⟩
  obtain ⟨f_d, f_a, f_fmt, g0, g1, g2, lb, ub⟩ := shape50 d.isLt a.isLt fmt.isLt (show 103 < _ by decide) (show 7 < _ by decide) (show 102 < _ by decide) hv
  refine trip32 x0 hv rfl ⟨Nat.le_trans (by decide) lb, ub⟩ ?_
  have q : bits x0 30 25 = 39 := bits_sub g0 (by decide) (by decide)
  rw [at_decodeTop q]
  have q0 : bits x0 6 2 = 25 := bits_sub g2 (by decide) (by decide)
  have q1 : bits x0 6 4 = 6 := bits_sub g2 (by decide) (by decide)
  have q2 : bits x0 6 0 = 102 := bits_sub g2 (by decide) (by decide)
  have hd : decodeTop x0 = formIf x0 [(18, 15), (7, 7)] (bits x0 14 12 == 7) (.ttrn (fld x0 22) (fld x0 19) (fld x0 8)) := by unfold decodeTop; rw [q0, q1, q2]; rfl
  rw [hd, fld_eq _ _ _ f_d, fld_eq _ _ _ f_a, fld_eq _ _ _ f_fmt]
  have z0 : bits x0 18 15 = 0 := bits_sub g1 (by decide) (by decide)
  have z1 : bits x0 7 7 = 0 := bits_sub g2 (by decide) (by decide)
  have q8 : bits x0 14 12 = 7 := bits_sub g1 (by decide) (by decide)
  exact formIf_ok (by simp only [List.all_cons, List.all_nil, z0, z1]; rfl) (by rw [q8]; rfl) hw

theorem Sys2Proof.Laws.RoundTrip.tperm (d : BitVec 3) (a : BitVec 3) (h : BitVec 1) (b : BitVec 3) (rows : BitVec 3) (fmt : BitVec 4) : Statement (.tperm d a h b rows fmt) := by
  intro hw _
  obtain ⟨x0, hv⟩ : ∃ x0, place 0xce000067 [(d.toNat, 22), (a.toNat, 19), (h.toNat, 18), (b.toNat, 15), (rows.toNat, 12), (fmt.toNat, 8)] = x0 := ⟨_, rfl⟩
  obtain ⟨f_d, f_a, f_h, f_b, f_rows, f_fmt, g0, g1, lb, ub⟩ := shape45 d.isLt a.isLt h.isLt b.isLt rows.isLt fmt.isLt (show 103 < _ by decide) (show 103 < _ by decide) hv
  refine trip32 x0 hv rfl ⟨Nat.le_trans (by decide) lb, ub⟩ ?_
  have q : bits x0 30 25 = 39 := bits_sub g0 (by decide) (by decide)
  rw [at_decodeTop q]
  have q0 : bits x0 6 2 = 25 := bits_sub g1 (by decide) (by decide)
  have q1 : bits x0 6 4 = 6 := bits_sub g1 (by decide) (by decide)
  have q2 : bits x0 6 0 = 103 := bits_sub g1 (by decide) (by decide)
  have hd : decodeTop x0 = form x0 [(7, 7)] (.tperm (fld x0 22) (fld x0 19) (fld x0 18) (fld x0 15) (fld x0 12) (fld x0 8)) := by unfold decodeTop; rw [q0, q1, q2]; rfl
  rw [hd, fld_eq _ _ _ f_d, fld_eq _ _ _ f_a, fld_eq _ _ _ f_h, fld_eq _ _ _ f_b, fld_eq _ _ _ f_rows, fld_eq _ _ _ f_fmt]
  have z0 : bits x0 7 7 = 0 := bits_sub g1 (by decide) (by decide)
  exact form_ok (by simp only [List.all_cons, List.all_nil, z0]; rfl) hw

theorem Sys2Proof.Laws.RoundTrip.tgath (d : BitVec 3) (a : BitVec 3) (h : BitVec 1) (b : BitVec 3) (rows : BitVec 3) (fmt : BitVec 4) : Statement (.tgath d a h b rows fmt) := by
  intro hw _
  obtain ⟨x0, hv⟩ : ∃ x0, place 0xce000068 [(d.toNat, 22), (a.toNat, 19), (h.toNat, 18), (b.toNat, 15), (rows.toNat, 12), (fmt.toNat, 8)] = x0 := ⟨_, rfl⟩
  obtain ⟨f_d, f_a, f_h, f_b, f_rows, f_fmt, g0, g1, lb, ub⟩ := shape45 d.isLt a.isLt h.isLt b.isLt rows.isLt fmt.isLt (show 103 < _ by decide) (show 104 < _ by decide) hv
  refine trip32 x0 hv rfl ⟨Nat.le_trans (by decide) lb, ub⟩ ?_
  have q : bits x0 30 25 = 39 := bits_sub g0 (by decide) (by decide)
  rw [at_decodeTop q]
  have q0 : bits x0 6 2 = 26 := bits_sub g1 (by decide) (by decide)
  have q1 : bits x0 6 4 = 6 := bits_sub g1 (by decide) (by decide)
  have q2 : bits x0 6 0 = 104 := bits_sub g1 (by decide) (by decide)
  have hd : decodeTop x0 = form x0 [(7, 7)] (.tgath (fld x0 22) (fld x0 19) (fld x0 18) (fld x0 15) (fld x0 12) (fld x0 8)) := by unfold decodeTop; rw [q0, q1, q2]; rfl
  rw [hd, fld_eq _ _ _ f_d, fld_eq _ _ _ f_a, fld_eq _ _ _ f_h, fld_eq _ _ _ f_b, fld_eq _ _ _ f_rows, fld_eq _ _ _ f_fmt]
  have z0 : bits x0 7 7 = 0 := bits_sub g1 (by decide) (by decide)
  exact form_ok (by simp only [List.all_cons, List.all_nil, z0]; rfl) hw

theorem Sys2Proof.Laws.RoundTrip.tscat (d : BitVec 3) (a : BitVec 3) (h : BitVec 1) (b : BitVec 3) (rows : BitVec 3) (fmt : BitVec 4) : Statement (.tscat d a h b rows fmt) := by
  intro hw _
  obtain ⟨x0, hv⟩ : ∃ x0, place 0xce000069 [(d.toNat, 22), (a.toNat, 19), (h.toNat, 18), (b.toNat, 15), (rows.toNat, 12), (fmt.toNat, 8)] = x0 := ⟨_, rfl⟩
  obtain ⟨f_d, f_a, f_h, f_b, f_rows, f_fmt, g0, g1, lb, ub⟩ := shape45 d.isLt a.isLt h.isLt b.isLt rows.isLt fmt.isLt (show 103 < _ by decide) (show 105 < _ by decide) hv
  refine trip32 x0 hv rfl ⟨Nat.le_trans (by decide) lb, ub⟩ ?_
  have q : bits x0 30 25 = 39 := bits_sub g0 (by decide) (by decide)
  rw [at_decodeTop q]
  have q0 : bits x0 6 2 = 26 := bits_sub g1 (by decide) (by decide)
  have q1 : bits x0 6 4 = 6 := bits_sub g1 (by decide) (by decide)
  have q2 : bits x0 6 0 = 105 := bits_sub g1 (by decide) (by decide)
  have hd : decodeTop x0 = form x0 [(7, 7)] (.tscat (fld x0 22) (fld x0 19) (fld x0 18) (fld x0 15) (fld x0 12) (fld x0 8)) := by unfold decodeTop; rw [q0, q1, q2]; rfl
  rw [hd, fld_eq _ _ _ f_d, fld_eq _ _ _ f_a, fld_eq _ _ _ f_h, fld_eq _ _ _ f_b, fld_eq _ _ _ f_rows, fld_eq _ _ _ f_fmt]
  have z0 : bits x0 7 7 = 0 := bits_sub g1 (by decide) (by decide)
  exact form_ok (by simp only [List.all_cons, List.all_nil, z0]; rfl) hw

theorem Sys2Proof.Laws.RoundTrip.ttopk (d : BitVec 3) (a : BitVec 3) (k : BitVec 3) (rows : BitVec 3) (fmt : BitVec 4) : Statement (.ttopk d a k rows fmt) := by
  intro hw _
  obtain ⟨x0, hv⟩ : ∃ x0, place 0xce00006a [(d.toNat, 22), (a.toNat, 19), (k.toNat, 15), (rows.toNat, 12), (fmt.toNat, 8)] = x0 := ⟨_, rfl⟩
  obtain ⟨f_d, f_a, f_k, f_rows, f_fmt, g0, g1, g2, lb, ub⟩ := shape51 d.isLt a.isLt k.isLt rows.isLt fmt.isLt (show 103 < _ by decide) (show 0 < _ by decide) (show 106 < _ by decide) hv
  refine trip32 x0 hv rfl ⟨Nat.le_trans (by decide) lb, ub⟩ ?_
  have q : bits x0 30 25 = 39 := bits_sub g0 (by decide) (by decide)
  rw [at_decodeTop q]
  have q0 : bits x0 6 2 = 26 := bits_sub g2 (by decide) (by decide)
  have q1 : bits x0 6 4 = 6 := bits_sub g2 (by decide) (by decide)
  have q2 : bits x0 6 0 = 106 := bits_sub g2 (by decide) (by decide)
  have hd : decodeTop x0 = form x0 [(18, 18), (7, 7)] (.ttopk (fld x0 22) (fld x0 19) (fld x0 15) (fld x0 12) (fld x0 8)) := by unfold decodeTop; rw [q0, q1, q2]; rfl
  rw [hd, fld_eq _ _ _ f_d, fld_eq _ _ _ f_a, fld_eq _ _ _ f_k, fld_eq _ _ _ f_rows, fld_eq _ _ _ f_fmt]
  have z0 : bits x0 18 18 = 0 := g1
  have z1 : bits x0 7 7 = 0 := bits_sub g2 (by decide) (by decide)
  exact form_ok (by simp only [List.all_cons, List.all_nil, z0, z1]; rfl) hw

theorem Sys2Proof.Laws.RoundTrip.tnoise (d : BitVec 3) (a : BitVec 3) (rows : BitVec 3) (fmt : BitVec 4) : Statement (.tnoise d a rows fmt) := by
  intro hw _
  obtain ⟨x0, hv⟩ : ∃ x0, place 0xce00006b [(d.toNat, 22), (a.toNat, 19), (rows.toNat, 12), (fmt.toNat, 8)] = x0 := ⟨_, rfl⟩
  obtain ⟨f_d, f_a, f_rows, f_fmt, g0, g1, g2, lb, ub⟩ := shape52 d.isLt a.isLt rows.isLt fmt.isLt (show 103 < _ by decide) (show 0 < _ by decide) (show 107 < _ by decide) hv
  refine trip32 x0 hv rfl ⟨Nat.le_trans (by decide) lb, ub⟩ ?_
  have q : bits x0 30 25 = 39 := bits_sub g0 (by decide) (by decide)
  rw [at_decodeTop q]
  have q0 : bits x0 6 2 = 26 := bits_sub g2 (by decide) (by decide)
  have q1 : bits x0 6 4 = 6 := bits_sub g2 (by decide) (by decide)
  have q2 : bits x0 6 0 = 107 := bits_sub g2 (by decide) (by decide)
  have hd : decodeTop x0 = form x0 [(18, 15), (7, 7)] (.tnoise (fld x0 22) (fld x0 19) (fld x0 12) (fld x0 8)) := by unfold decodeTop; rw [q0, q1, q2]; rfl
  rw [hd, fld_eq _ _ _ f_d, fld_eq _ _ _ f_a, fld_eq _ _ _ f_rows, fld_eq _ _ _ f_fmt]
  have z0 : bits x0 18 15 = 0 := g1
  have z1 : bits x0 7 7 = 0 := bits_sub g2 (by decide) (by decide)
  exact form_ok (by simp only [List.all_cons, List.all_nil, z0, z1]; rfl) hw

theorem Sys2Proof.Laws.RoundTrip.mma (ad : BitVec 2) (ta : BitVec 3) (ha : BitVec 1) (wm : BitVec 4) (p : BitVec 4) (mode : BitVec 2) (fmta : BitVec 4) : Statement (.mma ad ta ha wm p mode fmta) := by
  intro hw _
  obtain ⟨x0, hv⟩ : ∃ x0, place 0xd0000000 [(ad.toNat, 23), (ta.toNat, 20), (ha.toNat, 19), (wm.toNat, 15), (p.toNat, 11), (mode.toNat, 9), (fmta.toNat, 5)] = x0 := ⟨_, rfl⟩
  obtain ⟨f_ad, f_ta, f_ha, f_wm, f_p, f_mode, f_fmta, g0, g1, lb, ub⟩ := shape53 ad.isLt ta.isLt ha.isLt wm.isLt p.isLt mode.isLt fmta.isLt (show 104 < _ by decide) (show 0 < _ by decide) hv
  refine trip32 x0 hv rfl ⟨Nat.le_trans (by decide) lb, ub⟩ ?_
  have q : bits x0 30 25 = 40 := bits_sub g0 (by decide) (by decide)
  rw [at_decodeMma q]
  have q0 : bits x0 4 0 = 0 := g1
  have hd : decodeMma x0 = form x0 [] (.mma (fld x0 23) (fld x0 20) (fld x0 19) (fld x0 15) (fld x0 11) (fld x0 9) (fld x0 5)) := by unfold decodeMma; rw [q0]; rfl
  rw [hd, fld_eq _ _ _ f_ad, fld_eq _ _ _ f_ta, fld_eq _ _ _ f_ha, fld_eq _ _ _ f_wm, fld_eq _ _ _ f_p, fld_eq _ _ _ f_mode, fld_eq _ _ _ f_fmta]
  exact form_ok (rfl) hw

theorem Sys2Proof.Laws.RoundTrip.mmaz (ad : BitVec 2) (ta : BitVec 3) (ha : BitVec 1) (wm : BitVec 4) (p : BitVec 4) (mode : BitVec 2) (fmta : BitVec 4) : Statement (.mmaz ad ta ha wm p mode fmta) := by
  intro hw _
  obtain ⟨x0, hv⟩ : ∃ x0, place 0xd0000001 [(ad.toNat, 23), (ta.toNat, 20), (ha.toNat, 19), (wm.toNat, 15), (p.toNat, 11), (mode.toNat, 9), (fmta.toNat, 5)] = x0 := ⟨_, rfl⟩
  obtain ⟨f_ad, f_ta, f_ha, f_wm, f_p, f_mode, f_fmta, g0, g1, lb, ub⟩ := shape53 ad.isLt ta.isLt ha.isLt wm.isLt p.isLt mode.isLt fmta.isLt (show 104 < _ by decide) (show 1 < _ by decide) hv
  refine trip32 x0 hv rfl ⟨Nat.le_trans (by decide) lb, ub⟩ ?_
  have q : bits x0 30 25 = 40 := bits_sub g0 (by decide) (by decide)
  rw [at_decodeMma q]
  have q0 : bits x0 4 0 = 1 := g1
  have hd : decodeMma x0 = form x0 [] (.mmaz (fld x0 23) (fld x0 20) (fld x0 19) (fld x0 15) (fld x0 11) (fld x0 9) (fld x0 5)) := by unfold decodeMma; rw [q0]; rfl
  rw [hd, fld_eq _ _ _ f_ad, fld_eq _ _ _ f_ta, fld_eq _ _ _ f_ha, fld_eq _ _ _ f_wm, fld_eq _ _ _ f_p, fld_eq _ _ _ f_mode, fld_eq _ _ _ f_fmta]
  exact form_ok (rfl) hw

theorem Sys2Proof.Laws.RoundTrip.wld (g : BitVec 4) (desc : BitVec 8) (a : BitVec 4) : Statement (.wld g desc a) := by
  intro hw _
  obtain ⟨x0, hv⟩ : ∃ x0, place 0xd2000000 [(g.toNat, 21), (desc.toNat, 13), (a.toNat, 9)] = x0 := ⟨_, rfl⟩
  obtain ⟨f_g, f_desc, f_a, g0, g1, lb, ub⟩ := shape54 g.isLt desc.isLt a.isLt (show 105 < _ by decide) (show 0 < _ by decide) hv
  refine trip32 x0 hv rfl ⟨Nat.le_trans (by decide) lb, ub⟩ ?_
  have q : bits x0 30 25 = 41 := bits_sub g0 (by decide) (by decide)
  rw [at_decodeMx q]
  have q0 : bits x0 8 0 = 0 := g1
  have hd : decodeMx x0 = form x0 [] (.wld (fld x0 21) (fld x0 13) (fld x0 9)) := by unfold decodeMx; rw [q0]; rfl
  rw [hd, fld_eq _ _ _ f_g, fld_eq _ _ _ f_desc, fld_eq _ _ _ f_a]
  exact form_ok (rfl) hw

theorem Sys2Proof.Laws.RoundTrip.wldh (g : BitVec 4) (fmt : BitVec 4) (h : BitVec 3) : Statement (.wldh g fmt h) := by
  intro hw _
  obtain ⟨x0, hv⟩ : ∃ x0, place 0xd2000001 [(g.toNat, 21), (fmt.toNat, 17), (h.toNat, 13)] = x0 := ⟨_, rfl⟩
  obtain ⟨f_g, f_fmt, f_h, g0, g1, g2, lb, ub⟩ := shape55 g.isLt fmt.isLt h.isLt (show 105 < _ by decide) (show 0 < _ by decide) (show 1 < _ by decide) hv
  refine trip32 x0 hv rfl ⟨Nat.le_trans (by decide) lb, ub⟩ ?_
  have q : bits x0 30 25 = 41 := bits_sub g0 (by decide) (by decide)
  rw [at_decodeMx q]
  have q0 : bits x0 8 0 = 1 := bits_sub g2 (by decide) (by decide)
  have hd : decodeMx x0 = form x0 [(16, 16), (12, 9)] (.wldh (fld x0 21) (fld x0 17) (fld x0 13)) := by unfold decodeMx; rw [q0]; rfl
  rw [hd, fld_eq _ _ _ f_g, fld_eq _ _ _ f_fmt, fld_eq _ _ _ f_h]
  have z0 : bits x0 16 16 = 0 := g1
  have z1 : bits x0 12 9 = 0 := bits_sub g2 (by decide) (by decide)
  exact form_ok (by simp only [List.all_cons, List.all_nil, z0, z1]; rfl) hw

theorem Sys2Proof.Laws.RoundTrip.wclr (g : BitVec 4) : Statement (.wclr g) := by
  intro hw _
  obtain ⟨x0, hv⟩ : ∃ x0, place 0xd2000002 [(g.toNat, 21)] = x0 := ⟨_, rfl⟩
  obtain ⟨f_g, g0, g1, lb, ub⟩ := shape56 g.isLt (show 105 < _ by decide) (show 2 < _ by decide) hv
  refine trip32 x0 hv rfl ⟨Nat.le_trans (by decide) lb, ub⟩ ?_
  have q : bits x0 30 25 = 41 := bits_sub g0 (by decide) (by decide)
  rw [at_decodeMx q]
  have q0 : bits x0 8 0 = 2 := bits_sub g1 (by decide) (by decide)
  have hd : decodeMx x0 = form x0 [(20, 9)] (.wclr (fld x0 21)) := by unfold decodeMx; rw [q0]; rfl
  rw [hd, fld_eq _ _ _ f_g]
  have z0 : bits x0 20 9 = 0 := bits_sub g1 (by decide) (by decide)
  exact form_ok (by simp only [List.all_cons, List.all_nil, z0]; rfl) hw

theorem Sys2Proof.Laws.RoundTrip.aprom (g : BitVec 2) : Statement (.aprom g) := by
  intro hw _
  obtain ⟨x0, hv⟩ : ∃ x0, place 0xd2000003 [(g.toNat, 21)] = x0 := ⟨_, rfl⟩
  obtain ⟨f_g, g0, g1, lb, ub⟩ := shape57 g.isLt (show 420 < _ by decide) (show 3 < _ by decide) hv
  refine trip32 x0 hv rfl ⟨Nat.le_trans (by decide) lb, ub⟩ ?_
  have q : bits x0 30 25 = 41 := bits_sub g0 (by decide) (by decide)
  rw [at_decodeMx q]
  have q0 : bits x0 8 0 = 3 := bits_sub g1 (by decide) (by decide)
  have hd : decodeMx x0 = form x0 [(24, 23), (20, 9)] (.aprom (fld x0 21)) := by unfold decodeMx; rw [q0]; rfl
  rw [hd, fld_eq _ _ _ f_g]
  have z0 : bits x0 24 23 = 0 := bits_sub g0 (by decide) (by decide)
  have z1 : bits x0 20 9 = 0 := bits_sub g1 (by decide) (by decide)
  exact form_ok (by simp only [List.all_cons, List.all_nil, z0, z1]; rfl) hw

theorem Sys2Proof.Laws.RoundTrip.aclr (g : BitVec 2) : Statement (.aclr g) := by
  intro hw _
  obtain ⟨x0, hv⟩ : ∃ x0, place 0xd2000004 [(g.toNat, 21)] = x0 := ⟨_, rfl⟩
  obtain ⟨f_g, g0, g1, lb, ub⟩ := shape57 g.isLt (show 420 < _ by decide) (show 4 < _ by decide) hv
  refine trip32 x0 hv rfl ⟨Nat.le_trans (by decide) lb, ub⟩ ?_
  have q : bits x0 30 25 = 41 := bits_sub g0 (by decide) (by decide)
  rw [at_decodeMx q]
  have q0 : bits x0 8 0 = 4 := bits_sub g1 (by decide) (by decide)
  have hd : decodeMx x0 = form x0 [(24, 23), (20, 9)] (.aclr (fld x0 21)) := by unfold decodeMx; rw [q0]; rfl
  rw [hd, fld_eq _ _ _ f_g]
  have z0 : bits x0 24 23 = 0 := bits_sub g0 (by decide) (by decide)
  have z1 : bits x0 20 9 = 0 := bits_sub g1 (by decide) (by decide)
  exact form_ok (by simp only [List.all_cons, List.all_nil, z0, z1]; rfl) hw

theorem Sys2Proof.Laws.RoundTrip.amov (g : BitVec 2) (a : BitVec 2) : Statement (.amov g a) := by
  intro hw _
  obtain ⟨x0, hv⟩ : ∃ x0, place 0xd2000005 [(g.toNat, 21), (a.toNat, 9)] = x0 := ⟨_, rfl⟩
  obtain ⟨f_g, f_a, g0, g1, g2, lb, ub⟩ := shape58 g.isLt a.isLt (show 420 < _ by decide) (show 0 < _ by decide) (show 5 < _ by decide) hv
  refine trip32 x0 hv rfl ⟨Nat.le_trans (by decide) lb, ub⟩ ?_
  have q : bits x0 30 25 = 41 := bits_sub g0 (by decide) (by decide)
  rw [at_decodeMx q]
  have q0 : bits x0 8 0 = 5 := g2
  have hd : decodeMx x0 = form x0 [(24, 23), (20, 11)] (.amov (fld x0 21) (fld x0 9)) := by unfold decodeMx; rw [q0]; rfl
  rw [hd, fld_eq _ _ _ f_g, fld_eq _ _ _ f_a]
  have z0 : bits x0 24 23 = 0 := bits_sub g0 (by decide) (by decide)
  have z1 : bits x0 20 11 = 0 := g1
  exact form_ok (by simp only [List.all_cons, List.all_nil, z0, z1]; rfl) hw

theorem Sys2Proof.Laws.RoundTrip.aadd (g : BitVec 2) (a : BitVec 2) : Statement (.aadd g a) := by
  intro hw _
  obtain ⟨x0, hv⟩ : ∃ x0, place 0xd2000006 [(g.toNat, 21), (a.toNat, 9)] = x0 := ⟨_, rfl⟩
  obtain ⟨f_g, f_a, g0, g1, g2, lb, ub⟩ := shape58 g.isLt a.isLt (show 420 < _ by decide) (show 0 < _ by decide) (show 6 < _ by decide) hv
  refine trip32 x0 hv rfl ⟨Nat.le_trans (by decide) lb, ub⟩ ?_
  have q : bits x0 30 25 = 41 := bits_sub g0 (by decide) (by decide)
  rw [at_decodeMx q]
  have q0 : bits x0 8 0 = 6 := g2
  have hd : decodeMx x0 = form x0 [(24, 23), (20, 11)] (.aadd (fld x0 21) (fld x0 9)) := by unfold decodeMx; rw [q0]; rfl
  rw [hd, fld_eq _ _ _ f_g, fld_eq _ _ _ f_a]
  have z0 : bits x0 24 23 = 0 := bits_sub g0 (by decide) (by decide)
  have z1 : bits x0 20 11 = 0 := g1
  exact form_ok (by simp only [List.all_cons, List.all_nil, z0, z1]; rfl) hw

theorem Sys2Proof.Laws.RoundTrip.ald (g : BitVec 2) (a : BitVec 4) : Statement (.ald g a) := by
  intro hw _
  obtain ⟨x0, hv⟩ : ∃ x0, place 0xd2000007 [(g.toNat, 21), (a.toNat, 9)] = x0 := ⟨_, rfl⟩
  obtain ⟨f_g, f_a, g0, g1, g2, lb, ub⟩ := shape59 g.isLt a.isLt (show 420 < _ by decide) (show 0 < _ by decide) (show 7 < _ by decide) hv
  refine trip32 x0 hv rfl ⟨Nat.le_trans (by decide) lb, ub⟩ ?_
  have q : bits x0 30 25 = 41 := bits_sub g0 (by decide) (by decide)
  rw [at_decodeMx q]
  have q0 : bits x0 8 0 = 7 := g2
  have hd : decodeMx x0 = form x0 [(24, 23), (20, 13)] (.ald (fld x0 21) (fld x0 9)) := by unfold decodeMx; rw [q0]; rfl
  rw [hd, fld_eq _ _ _ f_g, fld_eq _ _ _ f_a]
  have z0 : bits x0 24 23 = 0 := bits_sub g0 (by decide) (by decide)
  have z1 : bits x0 20 13 = 0 := g1
  exact form_ok (by simp only [List.all_cons, List.all_nil, z0, z1]; rfl) hw

theorem Sys2Proof.Laws.RoundTrip.ast (g : BitVec 2) (a : BitVec 4) : Statement (.ast g a) := by
  intro hw _
  obtain ⟨x0, hv⟩ : ∃ x0, place 0xd2000008 [(g.toNat, 21), (a.toNat, 9)] = x0 := ⟨_, rfl⟩
  obtain ⟨f_g, f_a, g0, g1, g2, lb, ub⟩ := shape59 g.isLt a.isLt (show 420 < _ by decide) (show 0 < _ by decide) (show 8 < _ by decide) hv
  refine trip32 x0 hv rfl ⟨Nat.le_trans (by decide) lb, ub⟩ ?_
  have q : bits x0 30 25 = 41 := bits_sub g0 (by decide) (by decide)
  rw [at_decodeMx q]
  have q0 : bits x0 8 0 = 8 := g2
  have hd : decodeMx x0 = form x0 [(24, 23), (20, 13)] (.ast (fld x0 21) (fld x0 9)) := by unfold decodeMx; rw [q0]; rfl
  rw [hd, fld_eq _ _ _ f_g, fld_eq _ _ _ f_a]
  have z0 : bits x0 24 23 = 0 := bits_sub g0 (by decide) (by decide)
  have z1 : bits x0 20 13 = 0 := g1
  exact form_ok (by simp only [List.all_cons, List.all_nil, z0, z1]; rfl) hw

theorem Sys2Proof.Laws.RoundTrip.acvt (g : BitVec 4) (fmt : BitVec 4) (sat : BitVec 1) (rm : BitVec 3) (a : BitVec 2) : Statement (.acvt g fmt sat rm a) := by
  intro hw _
  obtain ⟨x0, hv⟩ : ∃ x0, place 0xd2000009 [(g.toNat, 21), (fmt.toNat, 17), (sat.toNat, 16), (rm.toNat, 13), (a.toNat, 9)] = x0 := ⟨_, rfl⟩
  obtain ⟨f_g, f_fmt, f_sat, f_rm, f_a, g0, g1, g2, lb, ub⟩ := shape60 g.isLt fmt.isLt sat.isLt rm.isLt a.isLt (show 105 < _ by decide) (show 0 < _ by decide) (show 9 < _ by decide) hv
  refine trip32 x0 hv rfl ⟨Nat.le_trans (by decide) lb, ub⟩ ?_
  have q : bits x0 30 25 = 41 := bits_sub g0 (by decide) (by decide)
  rw [at_decodeMx q]
  have q0 : bits x0 8 0 = 9 := g2
  have hd : decodeMx x0 = form x0 [(12, 11)] (.acvt (fld x0 21) (fld x0 17) (fld x0 16) (fld x0 13) (fld x0 9)) := by unfold decodeMx; rw [q0]; rfl
  rw [hd, fld_eq _ _ _ f_g, fld_eq _ _ _ f_fmt, fld_eq _ _ _ f_sat, fld_eq _ _ _ f_rm, fld_eq _ _ _ f_a]
  have z0 : bits x0 12 11 = 0 := g1
  exact form_ok (by simp only [List.all_cons, List.all_nil, z0]; rfl) hw

theorem Sys2Proof.Laws.RoundTrip.aepi (g : BitVec 2) (desc : BitVec 8) (a : BitVec 4) : Statement (.aepi g desc a) := by
  intro hw _
  obtain ⟨x0, hv⟩ : ∃ x0, place 0xd200000a [(g.toNat, 21), (desc.toNat, 13), (a.toNat, 9)] = x0 := ⟨_, rfl⟩
  obtain ⟨f_g, f_desc, f_a, g0, g1, lb, ub⟩ := shape61 g.isLt desc.isLt a.isLt (show 420 < _ by decide) (show 10 < _ by decide) hv
  refine trip32 x0 hv rfl ⟨Nat.le_trans (by decide) lb, ub⟩ ?_
  have q : bits x0 30 25 = 41 := bits_sub g0 (by decide) (by decide)
  rw [at_decodeMx q]
  have q0 : bits x0 8 0 = 10 := g1
  have hd : decodeMx x0 = form x0 [(24, 23)] (.aepi (fld x0 21) (fld x0 13) (fld x0 9)) := by unfold decodeMx; rw [q0]; rfl
  rw [hd, fld_eq _ _ _ f_g, fld_eq _ _ _ f_desc, fld_eq _ _ _ f_a]
  have z0 : bits x0 24 23 = 0 := bits_sub g0 (by decide) (by decide)
  exact form_ok (by simp only [List.all_cons, List.all_nil, z0]; rfl) hw

theorem Sys2Proof.Laws.RoundTrip.mstat (g : BitVec 4) (a : BitVec 2) : Statement (.mstat g a) := by
  intro hw _
  obtain ⟨x0, hv⟩ : ∃ x0, place 0xd200000b [(g.toNat, 21), (a.toNat, 9)] = x0 := ⟨_, rfl⟩
  obtain ⟨f_g, f_a, g0, g1, g2, lb, ub⟩ := shape62 g.isLt a.isLt (show 105 < _ by decide) (show 0 < _ by decide) (show 11 < _ by decide) hv
  refine trip32 x0 hv rfl ⟨Nat.le_trans (by decide) lb, ub⟩ ?_
  have q : bits x0 30 25 = 41 := bits_sub g0 (by decide) (by decide)
  rw [at_decodeMx q]
  have q0 : bits x0 8 0 = 11 := g2
  have hd : decodeMx x0 = form x0 [(20, 11)] (.mstat (fld x0 21) (fld x0 9)) := by unfold decodeMx; rw [q0]; rfl
  rw [hd, fld_eq _ _ _ f_g, fld_eq _ _ _ f_a]
  have z0 : bits x0 20 11 = 0 := g1
  exact form_ok (by simp only [List.all_cons, List.all_nil, z0]; rfl) hw

theorem Sys2Proof.Laws.RoundTrip.copy (d : BitVec 4) (a : BitVec 4) (b : BitVec 4) (scope : BitVec 3) (fl : BitVec 5) : Statement (.copy d a b scope fl) := by
  intro hw _
  obtain ⟨x0, hv⟩ : ∃ x0, place 0xd4000000 [(d.toNat, 21), (a.toNat, 17), (b.toNat, 13), (scope.toNat, 10), (fl.toNat, 5)] = x0 := ⟨_, rfl⟩
  obtain ⟨f_d, f_a, f_b, f_scope, f_fl, g0, g1, lb, ub⟩ := shape63 d.isLt a.isLt b.isLt scope.isLt fl.isLt (show 106 < _ by decide) (show 0 < _ by decide) hv
  refine trip32 x0 hv rfl ⟨Nat.le_trans (by decide) lb, ub⟩ ?_
  have q : bits x0 30 25 = 42 := bits_sub g0 (by decide) (by decide)
  rw [at_decodeEng q]
  have q0 : bits x0 4 0 = 0 := g1
  have hd : decodeEng x0 = form x0 [] (.copy (fld x0 21) (fld x0 17) (fld x0 13) (fld x0 10) (fld x0 5)) := by unfold decodeEng; rw [q0]; rfl
  rw [hd, fld_eq _ _ _ f_d, fld_eq _ _ _ f_a, fld_eq _ _ _ f_b, fld_eq _ _ _ f_scope, fld_eq _ _ _ f_fl]
  exact form_ok (rfl) hw

theorem Sys2Proof.Laws.RoundTrip.copys (d : BitVec 4) (a : BitVec 4) (b : BitVec 4) (scope : BitVec 3) (fl : BitVec 5) : Statement (.copys d a b scope fl) := by
  intro hw _
  obtain ⟨x0, hv⟩ : ∃ x0, place 0xd4000001 [(d.toNat, 21), (a.toNat, 17), (b.toNat, 13), (scope.toNat, 10), (fl.toNat, 5)] = x0 := ⟨_, rfl⟩
  obtain ⟨f_d, f_a, f_b, f_scope, f_fl, g0, g1, lb, ub⟩ := shape63 d.isLt a.isLt b.isLt scope.isLt fl.isLt (show 106 < _ by decide) (show 1 < _ by decide) hv
  refine trip32 x0 hv rfl ⟨Nat.le_trans (by decide) lb, ub⟩ ?_
  have q : bits x0 30 25 = 42 := bits_sub g0 (by decide) (by decide)
  rw [at_decodeEng q]
  have q0 : bits x0 4 0 = 1 := g1
  have hd : decodeEng x0 = form x0 [] (.copys (fld x0 21) (fld x0 17) (fld x0 13) (fld x0 10) (fld x0 5)) := by unfold decodeEng; rw [q0]; rfl
  rw [hd, fld_eq _ _ _ f_d, fld_eq _ _ _ f_a, fld_eq _ _ _ f_b, fld_eq _ _ _ f_scope, fld_eq _ _ _ f_fl]
  exact form_ok (rfl) hw

theorem Sys2Proof.Laws.RoundTrip.jwait (d : BitVec 4) (a : BitVec 4) : Statement (.jwait d a) := by
  intro hw _
  obtain ⟨x0, hv⟩ : ∃ x0, place 0xd4000002 [(d.toNat, 21), (a.toNat, 17)] = x0 := ⟨_, rfl⟩
  obtain ⟨f_d, f_a, g0, g1, lb, ub⟩ := shape2 d.isLt a.isLt (show 106 < _ by decide) (show 2 < _ by decide) hv
  refine trip32 x0 hv rfl ⟨Nat.le_trans (by decide) lb, ub⟩ ?_
  have q : bits x0 30 25 = 42 := bits_sub g0 (by decide) (by decide)
  rw [at_decodeEng q]
  have q0 : bits x0 4 0 = 2 := bits_sub g1 (by decide) (by decide)
  have hd : decodeEng x0 = form x0 [(16, 5)] (.jwait (fld x0 21) (fld x0 17)) := by unfold decodeEng; rw [q0]; rfl
  rw [hd, fld_eq _ _ _ f_d, fld_eq _ _ _ f_a]
  have z0 : bits x0 16 5 = 0 := bits_sub g1 (by decide) (by decide)
  exact form_ok (by simp only [List.all_cons, List.all_nil, z0]; rfl) hw

theorem Sys2Proof.Laws.RoundTrip.jpoll (d : BitVec 4) (a : BitVec 4) : Statement (.jpoll d a) := by
  intro hw _
  obtain ⟨x0, hv⟩ : ∃ x0, place 0xd4000003 [(d.toNat, 21), (a.toNat, 17)] = x0 := ⟨_, rfl⟩
  obtain ⟨f_d, f_a, g0, g1, lb, ub⟩ := shape2 d.isLt a.isLt (show 106 < _ by decide) (show 3 < _ by decide) hv
  refine trip32 x0 hv rfl ⟨Nat.le_trans (by decide) lb, ub⟩ ?_
  have q : bits x0 30 25 = 42 := bits_sub g0 (by decide) (by decide)
  rw [at_decodeEng q]
  have q0 : bits x0 4 0 = 3 := bits_sub g1 (by decide) (by decide)
  have hd : decodeEng x0 = form x0 [(16, 5)] (.jpoll (fld x0 21) (fld x0 17)) := by unfold decodeEng; rw [q0]; rfl
  rw [hd, fld_eq _ _ _ f_d, fld_eq _ _ _ f_a]
  have z0 : bits x0 16 5 = 0 := bits_sub g1 (by decide) (by decide)
  exact form_ok (by simp only [List.all_cons, List.all_nil, z0]; rfl) hw

theorem Sys2Proof.Laws.RoundTrip.subscr (d : BitVec 4) (a : BitVec 4) (h : BitVec 3) : Statement (.subscr d a h) := by
  intro hw _
  obtain ⟨x0, hv⟩ : ∃ x0, place 0xd4000004 [(d.toNat, 21), (a.toNat, 17), (h.toNat, 13)] = x0 := ⟨_, rfl⟩
  obtain ⟨f_d, f_a, f_h, g0, g1, g2, lb, ub⟩ := shape55 d.isLt a.isLt h.isLt (show 106 < _ by decide) (show 0 < _ by decide) (show 4 < _ by decide) hv
  refine trip32 x0 hv rfl ⟨Nat.le_trans (by decide) lb, ub⟩ ?_
  have q : bits x0 30 25 = 42 := bits_sub g0 (by decide) (by decide)
  rw [at_decodeEng q]
  have q0 : bits x0 4 0 = 4 := bits_sub g2 (by decide) (by decide)
  have hd : decodeEng x0 = form x0 [(16, 16), (12, 5)] (.subscr (fld x0 21) (fld x0 17) (fld x0 13)) := by unfold decodeEng; rw [q0]; rfl
  rw [hd, fld_eq _ _ _ f_d, fld_eq _ _ _ f_a, fld_eq _ _ _ f_h]
  have z0 : bits x0 16 16 = 0 := g1
  have z1 : bits x0 12 5 = 0 := bits_sub g2 (by decide) (by decide)
  exact form_ok (by simp only [List.all_cons, List.all_nil, z0, z1]; rfl) hw

theorem Sys2Proof.Laws.RoundTrip.unsub (d : BitVec 4) (a : BitVec 4) (h : BitVec 3) : Statement (.unsub d a h) := by
  intro hw _
  obtain ⟨x0, hv⟩ : ∃ x0, place 0xd4000005 [(d.toNat, 21), (a.toNat, 17), (h.toNat, 13)] = x0 := ⟨_, rfl⟩
  obtain ⟨f_d, f_a, f_h, g0, g1, g2, lb, ub⟩ := shape55 d.isLt a.isLt h.isLt (show 106 < _ by decide) (show 0 < _ by decide) (show 5 < _ by decide) hv
  refine trip32 x0 hv rfl ⟨Nat.le_trans (by decide) lb, ub⟩ ?_
  have q : bits x0 30 25 = 42 := bits_sub g0 (by decide) (by decide)
  rw [at_decodeEng q]
  have q0 : bits x0 4 0 = 5 := bits_sub g2 (by decide) (by decide)
  have hd : decodeEng x0 = form x0 [(16, 16), (12, 5)] (.unsub (fld x0 21) (fld x0 17) (fld x0 13)) := by unfold decodeEng; rw [q0]; rfl
  rw [hd, fld_eq _ _ _ f_d, fld_eq _ _ _ f_a, fld_eq _ _ _ f_h]
  have z0 : bits x0 16 16 = 0 := g1
  have z1 : bits x0 12 5 = 0 := bits_sub g2 (by decide) (by decide)
  exact form_ok (by simp only [List.all_cons, List.all_nil, z0, z1]; rfl) hw

theorem Sys2Proof.Laws.RoundTrip.spub (a : BitVec 4) (t : BitVec 3) : Statement (.spub a t) := by
  intro hw _
  obtain ⟨x0, hv⟩ : ∃ x0, place 0xd4000006 [(a.toNat, 17), (t.toNat, 13)] = x0 := ⟨_, rfl⟩
  obtain ⟨f_a, f_t, g0, g1, g2, lb, ub⟩ := shape64 a.isLt t.isLt (show 1696 < _ by decide) (show 0 < _ by decide) (show 6 < _ by decide) hv
  refine trip32 x0 hv rfl ⟨Nat.le_trans (by decide) lb, ub⟩ ?_
  have q : bits x0 30 25 = 42 := bits_sub g0 (by decide) (by decide)
  rw [at_decodeEng q]
  have q0 : bits x0 4 0 = 6 := bits_sub g2 (by decide) (by decide)
  have hd : decodeEng x0 = form x0 [(24, 21), (16, 16), (12, 5)] (.spub (fld x0 17) (fld x0 13)) := by unfold decodeEng; rw [q0]; rfl
  rw [hd, fld_eq _ _ _ f_a, fld_eq _ _ _ f_t]
  have z0 : bits x0 24 21 = 0 := bits_sub g0 (by decide) (by decide)
  have z1 : bits x0 16 16 = 0 := g1
  have z2 : bits x0 12 5 = 0 := bits_sub g2 (by decide) (by decide)
  exact form_ok (by simp only [List.all_cons, List.all_nil, z0, z1, z2]; rfl) hw

theorem Sys2Proof.Laws.RoundTrip.hcfg (a : BitVec 4) (h : BitVec 3) : Statement (.hcfg a h) := by
  intro hw _
  obtain ⟨x0, hv⟩ : ∃ x0, place 0xd4000007 [(a.toNat, 17), (h.toNat, 13)] = x0 := ⟨_, rfl⟩
  obtain ⟨f_a, f_h, g0, g1, g2, lb, ub⟩ := shape64 a.isLt h.isLt (show 1696 < _ by decide) (show 0 < _ by decide) (show 7 < _ by decide) hv
  refine trip32 x0 hv rfl ⟨Nat.le_trans (by decide) lb, ub⟩ ?_
  have q : bits x0 30 25 = 42 := bits_sub g0 (by decide) (by decide)
  rw [at_decodeEng q]
  have q0 : bits x0 4 0 = 7 := bits_sub g2 (by decide) (by decide)
  have hd : decodeEng x0 = form x0 [(24, 21), (16, 16), (12, 5)] (.hcfg (fld x0 17) (fld x0 13)) := by unfold decodeEng; rw [q0]; rfl
  rw [hd, fld_eq _ _ _ f_a, fld_eq _ _ _ f_h]
  have z0 : bits x0 24 21 = 0 := bits_sub g0 (by decide) (by decide)
  have z1 : bits x0 16 16 = 0 := g1
  have z2 : bits x0 12 5 = 0 := bits_sub g2 (by decide) (by decide)
  exact form_ok (by simp only [List.all_cons, List.all_nil, z0, z1, z2]; rfl) hw

theorem Sys2Proof.Laws.RoundTrip.hwait (d : BitVec 4) (a : BitVec 4) (h : BitVec 3) : Statement (.hwait d a h) := by
  intro hw _
  obtain ⟨x0, hv⟩ : ∃ x0, place 0xd4000008 [(d.toNat, 21), (a.toNat, 17), (h.toNat, 13)] = x0 := ⟨_, rfl⟩
  obtain ⟨f_d, f_a, f_h, g0, g1, g2, lb, ub⟩ := shape55 d.isLt a.isLt h.isLt (show 106 < _ by decide) (show 0 < _ by decide) (show 8 < _ by decide) hv
  refine trip32 x0 hv rfl ⟨Nat.le_trans (by decide) lb, ub⟩ ?_
  have q : bits x0 30 25 = 42 := bits_sub g0 (by decide) (by decide)
  rw [at_decodeEng q]
  have q0 : bits x0 4 0 = 8 := bits_sub g2 (by decide) (by decide)
  have hd : decodeEng x0 = form x0 [(16, 16), (12, 5)] (.hwait (fld x0 21) (fld x0 17) (fld x0 13)) := by unfold decodeEng; rw [q0]; rfl
  rw [hd, fld_eq _ _ _ f_d, fld_eq _ _ _ f_a, fld_eq _ _ _ f_h]
  have z0 : bits x0 16 16 = 0 := g1
  have z1 : bits x0 12 5 = 0 := bits_sub g2 (by decide) (by decide)
  exact form_ok (by simp only [List.all_cons, List.all_nil, z0, z1]; rfl) hw

theorem Sys2Proof.Laws.RoundTrip.hadvc (d : BitVec 4) (a : BitVec 4) (h : BitVec 3) : Statement (.hadvc d a h) := by
  intro hw _
  obtain ⟨x0, hv⟩ : ∃ x0, place 0xd4000009 [(d.toNat, 21), (a.toNat, 17), (h.toNat, 13)] = x0 := ⟨_, rfl⟩
  obtain ⟨f_d, f_a, f_h, g0, g1, g2, lb, ub⟩ := shape55 d.isLt a.isLt h.isLt (show 106 < _ by decide) (show 0 < _ by decide) (show 9 < _ by decide) hv
  refine trip32 x0 hv rfl ⟨Nat.le_trans (by decide) lb, ub⟩ ?_
  have q : bits x0 30 25 = 42 := bits_sub g0 (by decide) (by decide)
  rw [at_decodeEng q]
  have q0 : bits x0 4 0 = 9 := bits_sub g2 (by decide) (by decide)
  have hd : decodeEng x0 = form x0 [(16, 16), (12, 5)] (.hadvc (fld x0 21) (fld x0 17) (fld x0 13)) := by unfold decodeEng; rw [q0]; rfl
  rw [hd, fld_eq _ _ _ f_d, fld_eq _ _ _ f_a, fld_eq _ _ _ f_h]
  have z0 : bits x0 16 16 = 0 := g1
  have z1 : bits x0 12 5 = 0 := bits_sub g2 (by decide) (by decide)
  exact form_ok (by simp only [List.all_cons, List.all_nil, z0, z1]; rfl) hw

theorem Sys2Proof.Laws.RoundTrip.hadvp (d : BitVec 4) (a : BitVec 4) (h : BitVec 3) : Statement (.hadvp d a h) := by
  intro hw _
  obtain ⟨x0, hv⟩ : ∃ x0, place 0xd400000a [(d.toNat, 21), (a.toNat, 17), (h.toNat, 13)] = x0 := ⟨_, rfl⟩
  obtain ⟨f_d, f_a, f_h, g0, g1, g2, lb, ub⟩ := shape55 d.isLt a.isLt h.isLt (show 106 < _ by decide) (show 0 < _ by decide) (show 10 < _ by decide) hv
  refine trip32 x0 hv rfl ⟨Nat.le_trans (by decide) lb, ub⟩ ?_
  have q : bits x0 30 25 = 42 := bits_sub g0 (by decide) (by decide)
  rw [at_decodeEng q]
  have q0 : bits x0 4 0 = 10 := bits_sub g2 (by decide) (by decide)
  have hd : decodeEng x0 = form x0 [(16, 16), (12, 5)] (.hadvp (fld x0 21) (fld x0 17) (fld x0 13)) := by unfold decodeEng; rw [q0]; rfl
  rw [hd, fld_eq _ _ _ f_d, fld_eq _ _ _ f_a, fld_eq _ _ _ f_h]
  have z0 : bits x0 16 16 = 0 := g1
  have z1 : bits x0 12 5 = 0 := bits_sub g2 (by decide) (by decide)
  exact form_ok (by simp only [List.all_cons, List.all_nil, z0, z1]; rfl) hw

theorem Sys2Proof.Laws.RoundTrip.binit (d : BitVec 4) (a : BitVec 4) (b : BitVec 4) : Statement (.binit d a b) := by
  intro hw _
  obtain ⟨x0, hv⟩ : ∃ x0, place 0xd6000000 [(d.toNat, 21), (a.toNat, 17), (b.toNat, 13)] = x0 := ⟨_, rfl⟩
  obtain ⟨f_d, f_a, f_b, g0, g1, lb, ub⟩ := shape65 d.isLt a.isLt b.isLt (show 107 < _ by decide) (show 0 < _ by decide) hv
  refine trip32 x0 hv rfl ⟨Nat.le_trans (by decide) lb, ub⟩ ?_
  have q : bits x0 30 25 = 43 := bits_sub g0 (by decide) (by decide)
  rw [at_decodeSync q]
  have q0 : bits x0 4 0 = 0 := bits_sub g1 (by decide) (by decide)
  have hd : decodeSync x0 = form x0 [(12, 5)] (.binit (fld x0 21) (fld x0 17) (fld x0 13)) := by unfold decodeSync; rw [q0]; rfl
  rw [hd, fld_eq _ _ _ f_d, fld_eq _ _ _ f_a, fld_eq _ _ _ f_b]
  have z0 : bits x0 12 5 = 0 := bits_sub g1 (by decide) (by decide)
  exact form_ok (by simp only [List.all_cons, List.all_nil, z0]; rfl) hw

theorem Sys2Proof.Laws.RoundTrip.barv (d : BitVec 4) (a : BitVec 4) (b : BitVec 4) : Statement (.barv d a b) := by
  intro hw _
  obtain ⟨x0, hv⟩ : ∃ x0, place 0xd6000001 [(d.toNat, 21), (a.toNat, 17), (b.toNat, 13)] = x0 := ⟨_, rfl⟩
  obtain ⟨f_d, f_a, f_b, g0, g1, lb, ub⟩ := shape65 d.isLt a.isLt b.isLt (show 107 < _ by decide) (show 1 < _ by decide) hv
  refine trip32 x0 hv rfl ⟨Nat.le_trans (by decide) lb, ub⟩ ?_
  have q : bits x0 30 25 = 43 := bits_sub g0 (by decide) (by decide)
  rw [at_decodeSync q]
  have q0 : bits x0 4 0 = 1 := bits_sub g1 (by decide) (by decide)
  have hd : decodeSync x0 = form x0 [(12, 5)] (.barv (fld x0 21) (fld x0 17) (fld x0 13)) := by unfold decodeSync; rw [q0]; rfl
  rw [hd, fld_eq _ _ _ f_d, fld_eq _ _ _ f_a, fld_eq _ _ _ f_b]
  have z0 : bits x0 12 5 = 0 := bits_sub g1 (by decide) (by decide)
  exact form_ok (by simp only [List.all_cons, List.all_nil, z0]; rfl) hw

theorem Sys2Proof.Laws.RoundTrip.bexp (d : BitVec 4) (a : BitVec 4) (b : BitVec 4) : Statement (.bexp d a b) := by
  intro hw _
  obtain ⟨x0, hv⟩ : ∃ x0, place 0xd6000002 [(d.toNat, 21), (a.toNat, 17), (b.toNat, 13)] = x0 := ⟨_, rfl⟩
  obtain ⟨f_d, f_a, f_b, g0, g1, lb, ub⟩ := shape65 d.isLt a.isLt b.isLt (show 107 < _ by decide) (show 2 < _ by decide) hv
  refine trip32 x0 hv rfl ⟨Nat.le_trans (by decide) lb, ub⟩ ?_
  have q : bits x0 30 25 = 43 := bits_sub g0 (by decide) (by decide)
  rw [at_decodeSync q]
  have q0 : bits x0 4 0 = 2 := bits_sub g1 (by decide) (by decide)
  have hd : decodeSync x0 = form x0 [(12, 5)] (.bexp (fld x0 21) (fld x0 17) (fld x0 13)) := by unfold decodeSync; rw [q0]; rfl
  rw [hd, fld_eq _ _ _ f_d, fld_eq _ _ _ f_a, fld_eq _ _ _ f_b]
  have z0 : bits x0 12 5 = 0 := bits_sub g1 (by decide) (by decide)
  exact form_ok (by simp only [List.all_cons, List.all_nil, z0]; rfl) hw

theorem Sys2Proof.Laws.RoundTrip.bwait (d : BitVec 4) (a : BitVec 4) (b : BitVec 4) : Statement (.bwait d a b) := by
  intro hw _
  obtain ⟨x0, hv⟩ : ∃ x0, place 0xd6000003 [(d.toNat, 21), (a.toNat, 17), (b.toNat, 13)] = x0 := ⟨_, rfl⟩
  obtain ⟨f_d, f_a, f_b, g0, g1, lb, ub⟩ := shape65 d.isLt a.isLt b.isLt (show 107 < _ by decide) (show 3 < _ by decide) hv
  refine trip32 x0 hv rfl ⟨Nat.le_trans (by decide) lb, ub⟩ ?_
  have q : bits x0 30 25 = 43 := bits_sub g0 (by decide) (by decide)
  rw [at_decodeSync q]
  have q0 : bits x0 4 0 = 3 := bits_sub g1 (by decide) (by decide)
  have hd : decodeSync x0 = form x0 [(12, 5)] (.bwait (fld x0 21) (fld x0 17) (fld x0 13)) := by unfold decodeSync; rw [q0]; rfl
  rw [hd, fld_eq _ _ _ f_d, fld_eq _ _ _ f_a, fld_eq _ _ _ f_b]
  have z0 : bits x0 12 5 = 0 := bits_sub g1 (by decide) (by decide)
  exact form_ok (by simp only [List.all_cons, List.all_nil, z0]; rfl) hw

theorem Sys2Proof.Laws.RoundTrip.binv (d : BitVec 4) (a : BitVec 4) : Statement (.binv d a) := by
  intro hw _
  obtain ⟨x0, hv⟩ : ∃ x0, place 0xd6000004 [(d.toNat, 21), (a.toNat, 17)] = x0 := ⟨_, rfl⟩
  obtain ⟨f_d, f_a, g0, g1, lb, ub⟩ := shape2 d.isLt a.isLt (show 107 < _ by decide) (show 4 < _ by decide) hv
  refine trip32 x0 hv rfl ⟨Nat.le_trans (by decide) lb, ub⟩ ?_
  have q : bits x0 30 25 = 43 := bits_sub g0 (by decide) (by decide)
  rw [at_decodeSync q]
  have q0 : bits x0 4 0 = 4 := bits_sub g1 (by decide) (by decide)
  have hd : decodeSync x0 = form x0 [(16, 5)] (.binv (fld x0 21) (fld x0 17)) := by unfold decodeSync; rw [q0]; rfl
  rw [hd, fld_eq _ _ _ f_d, fld_eq _ _ _ f_a]
  have z0 : bits x0 16 5 = 0 := bits_sub g1 (by decide) (by decide)
  exact form_ok (by simp only [List.all_cons, List.all_nil, z0]; rfl) hw

theorem Sys2Proof.Laws.RoundTrip.wbara (d : BitVec 4) (a : BitVec 4) (grp : BitVec 4) : Statement (.wbara d a grp) := by
  intro hw _
  obtain ⟨x0, hv⟩ : ∃ x0, place 0xd6000005 [(d.toNat, 21), (a.toNat, 17), (grp.toNat, 13)] = x0 := ⟨_, rfl⟩
  obtain ⟨f_d, f_a, f_grp, g0, g1, lb, ub⟩ := shape65 d.isLt a.isLt grp.isLt (show 107 < _ by decide) (show 5 < _ by decide) hv
  refine trip32 x0 hv rfl ⟨Nat.le_trans (by decide) lb, ub⟩ ?_
  have q : bits x0 30 25 = 43 := bits_sub g0 (by decide) (by decide)
  rw [at_decodeSync q]
  have q0 : bits x0 4 0 = 5 := bits_sub g1 (by decide) (by decide)
  have hd : decodeSync x0 = form x0 [(12, 5)] (.wbara (fld x0 21) (fld x0 17) (fld x0 13)) := by unfold decodeSync; rw [q0]; rfl
  rw [hd, fld_eq _ _ _ f_d, fld_eq _ _ _ f_a, fld_eq _ _ _ f_grp]
  have z0 : bits x0 12 5 = 0 := bits_sub g1 (by decide) (by decide)
  exact form_ok (by simp only [List.all_cons, List.all_nil, z0]; rfl) hw

theorem Sys2Proof.Laws.RoundTrip.wbarw (d : BitVec 4) (a : BitVec 4) (grp : BitVec 4) : Statement (.wbarw d a grp) := by
  intro hw _
  obtain ⟨x0, hv⟩ : ∃ x0, place 0xd6000006 [(d.toNat, 21), (a.toNat, 17), (grp.toNat, 13)] = x0 := ⟨_, rfl⟩
  obtain ⟨f_d, f_a, f_grp, g0, g1, lb, ub⟩ := shape65 d.isLt a.isLt grp.isLt (show 107 < _ by decide) (show 6 < _ by decide) hv
  refine trip32 x0 hv rfl ⟨Nat.le_trans (by decide) lb, ub⟩ ?_
  have q : bits x0 30 25 = 43 := bits_sub g0 (by decide) (by decide)
  rw [at_decodeSync q]
  have q0 : bits x0 4 0 = 6 := bits_sub g1 (by decide) (by decide)
  have hd : decodeSync x0 = form x0 [(12, 5)] (.wbarw (fld x0 21) (fld x0 17) (fld x0 13)) := by unfold decodeSync; rw [q0]; rfl
  rw [hd, fld_eq _ _ _ f_d, fld_eq _ _ _ f_a, fld_eq _ _ _ f_grp]
  have z0 : bits x0 12 5 = 0 := bits_sub g1 (by decide) (by decide)
  exact form_ok (by simp only [List.all_cons, List.all_nil, z0]; rfl) hw

theorem Sys2Proof.Laws.RoundTrip.wbmask (a : BitVec 4) : Statement (.wbmask a) := by
  intro hw _
  obtain ⟨x0, hv⟩ : ∃ x0, place 0xd6000007 [(a.toNat, 17)] = x0 := ⟨_, rfl⟩
  obtain ⟨f_a, g0, g1, lb, ub⟩ := shape21 a.isLt (show 1712 < _ by decide) (show 7 < _ by decide) hv
  refine trip32 x0 hv rfl ⟨Nat.le_trans (by decide) lb, ub⟩ ?_
  have q : bits x0 30 25 = 43 := bits_sub g0 (by decide) (by decide)
  rw [at_decodeSync q]
  have q0 : bits x0 4 0 = 7 := bits_sub g1 (by decide) (by decide)
  have hd : decodeSync x0 = form x0 [(24, 21), (16, 5)] (.wbmask (fld x0 17)) := by unfold decodeSync; rw [q0]; rfl
  rw [hd, fld_eq _ _ _ f_a]
  have z0 : bits x0 24 21 = 0 := bits_sub g0 (by decide) (by decide)
  have z1 : bits x0 16 5 = 0 := bits_sub g1 (by decide) (by decide)
  exact form_ok (by simp only [List.all_cons, List.all_nil, z0, z1]; rfl) hw

theorem Sys2Proof.Laws.RoundTrip.rnginit (a : BitVec 4) : Statement (.rnginit a) := by
  intro hw _
  obtain ⟨x0, hv⟩ : ∃ x0, place 0xd6000008 [(a.toNat, 17)] = x0 := ⟨_, rfl⟩
  obtain ⟨f_a, g0, g1, lb, ub⟩ := shape21 a.isLt (show 1712 < _ by decide) (show 8 < _ by decide) hv
  refine trip32 x0 hv rfl ⟨Nat.le_trans (by decide) lb, ub⟩ ?_
  have q : bits x0 30 25 = 43 := bits_sub g0 (by decide) (by decide)
  rw [at_decodeSync q]
  have q0 : bits x0 4 0 = 8 := bits_sub g1 (by decide) (by decide)
  have hd : decodeSync x0 = form x0 [(24, 21), (16, 5)] (.rnginit (fld x0 17)) := by unfold decodeSync; rw [q0]; rfl
  rw [hd, fld_eq _ _ _ f_a]
  have z0 : bits x0 24 21 = 0 := bits_sub g0 (by decide) (by decide)
  have z1 : bits x0 16 5 = 0 := bits_sub g1 (by decide) (by decide)
  exact form_ok (by simp only [List.all_cons, List.all_nil, z0, z1]; rfl) hw

theorem Sys2Proof.Laws.RoundTrip.rngget (d : BitVec 4) (a : BitVec 4) : Statement (.rngget d a) := by
  intro hw _
  obtain ⟨x0, hv⟩ : ∃ x0, place 0xd6000009 [(d.toNat, 21), (a.toNat, 17)] = x0 := ⟨_, rfl⟩
  obtain ⟨f_d, f_a, g0, g1, lb, ub⟩ := shape2 d.isLt a.isLt (show 107 < _ by decide) (show 9 < _ by decide) hv
  refine trip32 x0 hv rfl ⟨Nat.le_trans (by decide) lb, ub⟩ ?_
  have q : bits x0 30 25 = 43 := bits_sub g0 (by decide) (by decide)
  rw [at_decodeSync q]
  have q0 : bits x0 4 0 = 9 := bits_sub g1 (by decide) (by decide)
  have hd : decodeSync x0 = form x0 [(16, 5)] (.rngget (fld x0 21) (fld x0 17)) := by unfold decodeSync; rw [q0]; rfl
  rw [hd, fld_eq _ _ _ f_d, fld_eq _ _ _ f_a]
  have z0 : bits x0 16 5 = 0 := bits_sub g1 (by decide) (by decide)
  exact form_ok (by simp only [List.all_cons, List.all_nil, z0]; rfl) hw

theorem Sys2Proof.Laws.RoundTrip.spawn (d : BitVec 4) (a : BitVec 4) (b : BitVec 4) : Statement (.spawn d a b) := by
  intro hw _
  obtain ⟨x0, hv⟩ : ∃ x0, place 0xd600000a [(d.toNat, 21), (a.toNat, 17), (b.toNat, 13)] = x0 := ⟨_, rfl⟩
  obtain ⟨f_d, f_a, f_b, g0, g1, lb, ub⟩ := shape65 d.isLt a.isLt b.isLt (show 107 < _ by decide) (show 10 < _ by decide) hv
  refine trip32 x0 hv rfl ⟨Nat.le_trans (by decide) lb, ub⟩ ?_
  have q : bits x0 30 25 = 43 := bits_sub g0 (by decide) (by decide)
  rw [at_decodeSync q]
  have q0 : bits x0 4 0 = 10 := bits_sub g1 (by decide) (by decide)
  have hd : decodeSync x0 = form x0 [(12, 5)] (.spawn (fld x0 21) (fld x0 17) (fld x0 13)) := by unfold decodeSync; rw [q0]; rfl
  rw [hd, fld_eq _ _ _ f_d, fld_eq _ _ _ f_a, fld_eq _ _ _ f_b]
  have z0 : bits x0 12 5 = 0 := bits_sub g1 (by decide) (by decide)
  exact form_ok (by simp only [List.all_cons, List.all_nil, z0]; rfl) hw

theorem Sys2Proof.Laws.RoundTrip.join (d : BitVec 4) (a : BitVec 4) : Statement (.join d a) := by
  intro hw _
  obtain ⟨x0, hv⟩ : ∃ x0, place 0xd600000b [(d.toNat, 21), (a.toNat, 17)] = x0 := ⟨_, rfl⟩
  obtain ⟨f_d, f_a, g0, g1, lb, ub⟩ := shape2 d.isLt a.isLt (show 107 < _ by decide) (show 11 < _ by decide) hv
  refine trip32 x0 hv rfl ⟨Nat.le_trans (by decide) lb, ub⟩ ?_
  have q : bits x0 30 25 = 43 := bits_sub g0 (by decide) (by decide)
  rw [at_decodeSync q]
  have q0 : bits x0 4 0 = 11 := bits_sub g1 (by decide) (by decide)
  have hd : decodeSync x0 = form x0 [(16, 5)] (.join (fld x0 21) (fld x0 17)) := by unfold decodeSync; rw [q0]; rfl
  rw [hd, fld_eq _ _ _ f_d, fld_eq _ _ _ f_a]
  have z0 : bits x0 16 5 = 0 := bits_sub g1 (by decide) (by decide)
  exact form_ok (by simp only [List.all_cons, List.all_nil, z0]; rfl) hw

theorem Sys2Proof.Laws.RoundTrip.evpost (d : BitVec 4) (a : BitVec 4) (b : BitVec 4) : Statement (.evpost d a b) := by
  intro hw _
  obtain ⟨x0, hv⟩ : ∃ x0, place 0xd600000c [(d.toNat, 21), (a.toNat, 17), (b.toNat, 13)] = x0 := ⟨_, rfl⟩
  obtain ⟨f_d, f_a, f_b, g0, g1, lb, ub⟩ := shape65 d.isLt a.isLt b.isLt (show 107 < _ by decide) (show 12 < _ by decide) hv
  refine trip32 x0 hv rfl ⟨Nat.le_trans (by decide) lb, ub⟩ ?_
  have q : bits x0 30 25 = 43 := bits_sub g0 (by decide) (by decide)
  rw [at_decodeSync q]
  have q0 : bits x0 4 0 = 12 := bits_sub g1 (by decide) (by decide)
  have hd : decodeSync x0 = form x0 [(12, 5)] (.evpost (fld x0 21) (fld x0 17) (fld x0 13)) := by unfold decodeSync; rw [q0]; rfl
  rw [hd, fld_eq _ _ _ f_d, fld_eq _ _ _ f_a, fld_eq _ _ _ f_b]
  have z0 : bits x0 12 5 = 0 := bits_sub g1 (by decide) (by decide)
  exact form_ok (by simp only [List.all_cons, List.all_nil, z0]; rfl) hw

theorem Sys2Proof.Laws.RoundTrip.treeld (d : BitVec 4) (a : BitVec 4) (b : BitVec 4) : Statement (.treeld d a b) := by
  intro hw _
  obtain ⟨x0, hv⟩ : ∃ x0, place 0xd600000d [(d.toNat, 21), (a.toNat, 17), (b.toNat, 13)] = x0 := ⟨_, rfl⟩
  obtain ⟨f_d, f_a, f_b, g0, g1, lb, ub⟩ := shape65 d.isLt a.isLt b.isLt (show 107 < _ by decide) (show 13 < _ by decide) hv
  refine trip32 x0 hv rfl ⟨Nat.le_trans (by decide) lb, ub⟩ ?_
  have q : bits x0 30 25 = 43 := bits_sub g0 (by decide) (by decide)
  rw [at_decodeSync q]
  have q0 : bits x0 4 0 = 13 := bits_sub g1 (by decide) (by decide)
  have hd : decodeSync x0 = form x0 [(12, 5)] (.treeld (fld x0 21) (fld x0 17) (fld x0 13)) := by unfold decodeSync; rw [q0]; rfl
  rw [hd, fld_eq _ _ _ f_d, fld_eq _ _ _ f_a, fld_eq _ _ _ f_b]
  have z0 : bits x0 12 5 = 0 := bits_sub g1 (by decide) (by decide)
  exact form_ok (by simp only [List.all_cons, List.all_nil, z0]; rfl) hw

theorem Sys2Proof.Laws.RoundTrip.cbind (g : BitVec 4) (a : BitVec 4) : Statement (.cbind g a) := by
  intro hw _
  obtain ⟨x0, hv⟩ : ∃ x0, place 0xd8000000 [(g.toNat, 21), (a.toNat, 9)] = x0 := ⟨_, rfl⟩
  obtain ⟨f_g, f_a, g0, g1, g2, lb, ub⟩ := shape66 g.isLt a.isLt (show 108 < _ by decide) (show 0 < _ by decide) (show 0 < _ by decide) hv
  refine trip32 x0 hv rfl ⟨Nat.le_trans (by decide) lb, ub⟩ ?_
  have q : bits x0 30 25 = 44 := bits_sub g0 (by decide) (by decide)
  rw [at_decodeSheet q]
  have q0 : bits x0 4 0 = 0 := bits_sub g2 (by decide) (by decide)
  have hd : decodeSheet x0 = form x0 [(20, 13), (8, 5)] (.cbind (fld x0 21) (fld x0 9)) := by unfold decodeSheet; rw [q0]; rfl
  rw [hd, fld_eq _ _ _ f_g, fld_eq _ _ _ f_a]
  have z0 : bits x0 20 13 = 0 := g1
  have z1 : bits x0 8 5 = 0 := bits_sub g2 (by decide) (by decide)
  exact form_ok (by simp only [List.all_cons, List.all_nil, z0, z1]; rfl) hw

theorem Sys2Proof.Laws.RoundTrip.cedit (g : BitVec 4) (a : BitVec 4) : Statement (.cedit g a) := by
  intro hw _
  obtain ⟨x0, hv⟩ : ∃ x0, place 0xd8000001 [(g.toNat, 21), (a.toNat, 9)] = x0 := ⟨_, rfl⟩
  obtain ⟨f_g, f_a, g0, g1, g2, lb, ub⟩ := shape66 g.isLt a.isLt (show 108 < _ by decide) (show 0 < _ by decide) (show 1 < _ by decide) hv
  refine trip32 x0 hv rfl ⟨Nat.le_trans (by decide) lb, ub⟩ ?_
  have q : bits x0 30 25 = 44 := bits_sub g0 (by decide) (by decide)
  rw [at_decodeSheet q]
  have q0 : bits x0 4 0 = 1 := bits_sub g2 (by decide) (by decide)
  have hd : decodeSheet x0 = form x0 [(20, 13), (8, 5)] (.cedit (fld x0 21) (fld x0 9)) := by unfold decodeSheet; rw [q0]; rfl
  rw [hd, fld_eq _ _ _ f_g, fld_eq _ _ _ f_a]
  have z0 : bits x0 20 13 = 0 := g1
  have z1 : bits x0 8 5 = 0 := bits_sub g2 (by decide) (by decide)
  exact form_ok (by simp only [List.all_cons, List.all_nil, z0, z1]; rfl) hw

theorem Sys2Proof.Laws.RoundTrip.cunbind (g : BitVec 4) (a : BitVec 4) : Statement (.cunbind g a) := by
  intro hw _
  obtain ⟨x0, hv⟩ : ∃ x0, place 0xd8000002 [(g.toNat, 21), (a.toNat, 9)] = x0 := ⟨_, rfl⟩
  obtain ⟨f_g, f_a, g0, g1, g2, lb, ub⟩ := shape66 g.isLt a.isLt (show 108 < _ by decide) (show 0 < _ by decide) (show 2 < _ by decide) hv
  refine trip32 x0 hv rfl ⟨Nat.le_trans (by decide) lb, ub⟩ ?_
  have q : bits x0 30 25 = 44 := bits_sub g0 (by decide) (by decide)
  rw [at_decodeSheet q]
  have q0 : bits x0 4 0 = 2 := bits_sub g2 (by decide) (by decide)
  have hd : decodeSheet x0 = form x0 [(20, 13), (8, 5)] (.cunbind (fld x0 21) (fld x0 9)) := by unfold decodeSheet; rw [q0]; rfl
  rw [hd, fld_eq _ _ _ f_g, fld_eq _ _ _ f_a]
  have z0 : bits x0 20 13 = 0 := g1
  have z1 : bits x0 8 5 = 0 := bits_sub g2 (by decide) (by decide)
  exact form_ok (by simp only [List.all_cons, List.all_nil, z0, z1]; rfl) hw

theorem Sys2Proof.Laws.RoundTrip.cwopen (g : BitVec 4) (desc : BitVec 8) (a : BitVec 4) : Statement (.cwopen g desc a) := by
  intro hw _
  obtain ⟨x0, hv⟩ : ∃ x0, place 0xd8000003 [(g.toNat, 21), (desc.toNat, 13), (a.toNat, 9)] = x0 := ⟨_, rfl⟩
  obtain ⟨f_g, f_desc, f_a, g0, g1, lb, ub⟩ := shape54 g.isLt desc.isLt a.isLt (show 108 < _ by decide) (show 3 < _ by decide) hv
  refine trip32 x0 hv rfl ⟨Nat.le_trans (by decide) lb, ub⟩ ?_
  have q : bits x0 30 25 = 44 := bits_sub g0 (by decide) (by decide)
  rw [at_decodeSheet q]
  have q0 : bits x0 4 0 = 3 := bits_sub g1 (by decide) (by decide)
  have hd : decodeSheet x0 = form x0 [(8, 5)] (.cwopen (fld x0 21) (fld x0 13) (fld x0 9)) := by unfold decodeSheet; rw [q0]; rfl
  rw [hd, fld_eq _ _ _ f_g, fld_eq _ _ _ f_desc, fld_eq _ _ _ f_a]
  have z0 : bits x0 8 5 = 0 := bits_sub g1 (by decide) (by decide)
  exact form_ok (by simp only [List.all_cons, List.all_nil, z0]; rfl) hw

theorem Sys2Proof.Laws.RoundTrip.cwpub (g : BitVec 4) (a : BitVec 4) (cancel : BitVec 1) : Statement (.cwpub g a cancel) := by
  intro hw _
  obtain ⟨x0, hv⟩ : ∃ x0, place 0xd8000004 [(g.toNat, 21), (a.toNat, 9), (cancel.toNat, 5)] = x0 := ⟨_, rfl⟩
  obtain ⟨f_g, f_a, f_cancel, g0, g1, g2, g3, lb, ub⟩ := shape67 g.isLt a.isLt cancel.isLt (show 108 < _ by decide) (show 0 < _ by decide) (show 0 < _ by decide) (show 4 < _ by decide) hv
  refine trip32 x0 hv rfl ⟨Nat.le_trans (by decide) lb, ub⟩ ?_
  have q : bits x0 30 25 = 44 := bits_sub g0 (by decide) (by decide)
  rw [at_decodeSheet q]
  have q0 : bits x0 4 0 = 4 := g3
  have hd : decodeSheet x0 = form x0 [(20, 13), (8, 6)] (.cwpub (fld x0 21) (fld x0 9) (fld x0 5)) := by unfold decodeSheet; rw [q0]; rfl
  rw [hd, fld_eq _ _ _ f_g, fld_eq _ _ _ f_a, fld_eq _ _ _ f_cancel]
  have z0 : bits x0 20 13 = 0 := g1
  have z1 : bits x0 8 6 = 0 := g2
  exact form_ok (by simp only [List.all_cons, List.all_nil, z0, z1]; rfl) hw

theorem Sys2Proof.Laws.RoundTrip.cappend (g : BitVec 4) (k : BitVec 6) (a : BitVec 4) : Statement (.cappend g k a) := by
  intro hw _
  obtain ⟨x0, hv⟩ : ∃ x0, place 0xd8000005 [(g.toNat, 21), (k.toNat, 13), (a.toNat, 9)] = x0 := ⟨_, rfl⟩
  obtain ⟨f_g, f_k, f_a, g0, g1, g2, lb, ub⟩ := shape68 g.isLt k.isLt a.isLt (show 108 < _ by decide) (show 0 < _ by decide) (show 5 < _ by decide) hv
  refine trip32 x0 hv rfl ⟨Nat.le_trans (by decide) lb, ub⟩ ?_
  have q : bits x0 30 25 = 44 := bits_sub g0 (by decide) (by decide)
  rw [at_decodeSheet q]
  have q0 : bits x0 4 0 = 5 := bits_sub g2 (by decide) (by decide)
  have hd : decodeSheet x0 = form x0 [(20, 19), (8, 5)] (.cappend (fld x0 21) (fld x0 13) (fld x0 9)) := by unfold decodeSheet; rw [q0]; rfl
  rw [hd, fld_eq _ _ _ f_g, fld_eq _ _ _ f_k, fld_eq _ _ _ f_a]
  have z0 : bits x0 20 19 = 0 := g1
  have z1 : bits x0 8 5 = 0 := bits_sub g2 (by decide) (by decide)
  exact form_ok (by simp only [List.all_cons, List.all_nil, z0, z1]; rfl) hw

theorem Sys2Proof.Laws.RoundTrip.vopen (g : BitVec 4) (a : BitVec 4) : Statement (.vopen g a) := by
  intro hw _
  obtain ⟨x0, hv⟩ : ∃ x0, place 0xd8000006 [(g.toNat, 21), (a.toNat, 9)] = x0 := ⟨_, rfl⟩
  obtain ⟨f_g, f_a, g0, g1, g2, lb, ub⟩ := shape66 g.isLt a.isLt (show 108 < _ by decide) (show 0 < _ by decide) (show 6 < _ by decide) hv
  refine trip32 x0 hv rfl ⟨Nat.le_trans (by decide) lb, ub⟩ ?_
  have q : bits x0 30 25 = 44 := bits_sub g0 (by decide) (by decide)
  rw [at_decodeSheet q]
  have q0 : bits x0 4 0 = 6 := bits_sub g2 (by decide) (by decide)
  have hd : decodeSheet x0 = form x0 [(20, 13), (8, 5)] (.vopen (fld x0 21) (fld x0 9)) := by unfold decodeSheet; rw [q0]; rfl
  rw [hd, fld_eq _ _ _ f_g, fld_eq _ _ _ f_a]
  have z0 : bits x0 20 13 = 0 := g1
  have z1 : bits x0 8 5 = 0 := bits_sub g2 (by decide) (by decide)
  exact form_ok (by simp only [List.all_cons, List.all_nil, z0, z1]; rfl) hw

theorem Sys2Proof.Laws.RoundTrip.vclose (g : BitVec 4) (v : BitVec 4) : Statement (.vclose g v) := by
  intro hw _
  obtain ⟨x0, hv⟩ : ∃ x0, place 0xd8000007 [(g.toNat, 21), (v.toNat, 5)] = x0 := ⟨_, rfl⟩
  obtain ⟨f_g, f_v, g0, g1, g2, lb, ub⟩ := shape69 g.isLt v.isLt (show 108 < _ by decide) (show 0 < _ by decide) (show 7 < _ by decide) hv
  refine trip32 x0 hv rfl ⟨Nat.le_trans (by decide) lb, ub⟩ ?_
  have q : bits x0 30 25 = 44 := bits_sub g0 (by decide) (by decide)
  rw [at_decodeSheet q]
  have q0 : bits x0 4 0 = 7 := g2
  have hd : decodeSheet x0 = form x0 [(20, 9)] (.vclose (fld x0 21) (fld x0 5)) := by unfold decodeSheet; rw [q0]; rfl
  rw [hd, fld_eq _ _ _ f_g, fld_eq _ _ _ f_v]
  have z0 : bits x0 20 9 = 0 := g1
  exact form_ok (by simp only [List.all_cons, List.all_nil, z0]; rfl) hw

theorem Sys2Proof.Laws.RoundTrip.crd (g : BitVec 4) (desc : BitVec 8) (a : BitVec 4) (v : BitVec 4) : Statement (.crd g desc a v) := by
  intro hw _
  obtain ⟨x0, hv⟩ : ∃ x0, place 0xd8000008 [(g.toNat, 21), (desc.toNat, 13), (a.toNat, 9), (v.toNat, 5)] = x0 := ⟨_, rfl⟩
  obtain ⟨f_g, f_desc, f_a, f_v, g0, g1, lb, ub⟩ := shape70 g.isLt desc.isLt a.isLt v.isLt (show 108 < _ by decide) (show 8 < _ by decide) hv
  refine trip32 x0 hv rfl ⟨Nat.le_trans (by decide) lb, ub⟩ ?_
  have q : bits x0 30 25 = 44 := bits_sub g0 (by decide) (by decide)
  rw [at_decodeSheet q]
  have q0 : bits x0 4 0 = 8 := g1
  have hd : decodeSheet x0 = form x0 [] (.crd (fld x0 21) (fld x0 13) (fld x0 9) (fld x0 5)) := by unfold decodeSheet; rw [q0]; rfl
  rw [hd, fld_eq _ _ _ f_g, fld_eq _ _ _ f_desc, fld_eq _ _ _ f_a, fld_eq _ _ _ f_v]
  exact form_ok (rfl) hw

theorem Sys2Proof.Laws.RoundTrip.cfence (g : BitVec 4) (a : BitVec 4) (v : BitVec 4) : Statement (.cfence g a v) := by
  intro hw _
  obtain ⟨x0, hv⟩ : ∃ x0, place 0xd8000009 [(g.toNat, 21), (a.toNat, 9), (v.toNat, 5)] = x0 := ⟨_, rfl⟩
  obtain ⟨f_g, f_a, f_v, g0, g1, g2, lb, ub⟩ := shape71 g.isLt a.isLt v.isLt (show 108 < _ by decide) (show 0 < _ by decide) (show 9 < _ by decide) hv
  refine trip32 x0 hv rfl ⟨Nat.le_trans (by decide) lb, ub⟩ ?_
  have q : bits x0 30 25 = 44 := bits_sub g0 (by decide) (by decide)
  rw [at_decodeSheet q]
  have q0 : bits x0 4 0 = 9 := g2
  have hd : decodeSheet x0 = form x0 [(20, 13)] (.cfence (fld x0 21) (fld x0 9) (fld x0 5)) := by unfold decodeSheet; rw [q0]; rfl
  rw [hd, fld_eq _ _ _ f_g, fld_eq _ _ _ f_a, fld_eq _ _ _ f_v]
  have z0 : bits x0 20 13 = 0 := g1
  exact form_ok (by simp only [List.all_cons, List.all_nil, z0]; rfl) hw

theorem Sys2Proof.Laws.RoundTrip.cstat (g : BitVec 4) (a : BitVec 4) : Statement (.cstat g a) := by
  intro hw _
  obtain ⟨x0, hv⟩ : ∃ x0, place 0xd800000a [(g.toNat, 21), (a.toNat, 9)] = x0 := ⟨_, rfl⟩
  obtain ⟨f_g, f_a, g0, g1, g2, lb, ub⟩ := shape66 g.isLt a.isLt (show 108 < _ by decide) (show 0 < _ by decide) (show 10 < _ by decide) hv
  refine trip32 x0 hv rfl ⟨Nat.le_trans (by decide) lb, ub⟩ ?_
  have q : bits x0 30 25 = 44 := bits_sub g0 (by decide) (by decide)
  rw [at_decodeSheet q]
  have q0 : bits x0 4 0 = 10 := bits_sub g2 (by decide) (by decide)
  have hd : decodeSheet x0 = form x0 [(20, 13), (8, 5)] (.cstat (fld x0 21) (fld x0 9)) := by unfold decodeSheet; rw [q0]; rfl
  rw [hd, fld_eq _ _ _ f_g, fld_eq _ _ _ f_a]
  have z0 : bits x0 20 13 = 0 := g1
  have z1 : bits x0 8 5 = 0 := bits_sub g2 (by decide) (by decide)
  exact form_ok (by simp only [List.all_cons, List.all_nil, z0, z1]; rfl) hw

theorem Sys2Proof.Laws.RoundTrip.crevoke (g : BitVec 4) (a : BitVec 4) : Statement (.crevoke g a) := by
  intro hw _
  obtain ⟨x0, hv⟩ : ∃ x0, place 0xd800000b [(g.toNat, 21), (a.toNat, 9)] = x0 := ⟨_, rfl⟩
  obtain ⟨f_g, f_a, g0, g1, g2, lb, ub⟩ := shape66 g.isLt a.isLt (show 108 < _ by decide) (show 0 < _ by decide) (show 11 < _ by decide) hv
  refine trip32 x0 hv rfl ⟨Nat.le_trans (by decide) lb, ub⟩ ?_
  have q : bits x0 30 25 = 44 := bits_sub g0 (by decide) (by decide)
  rw [at_decodeSheet q]
  have q0 : bits x0 4 0 = 11 := bits_sub g2 (by decide) (by decide)
  have hd : decodeSheet x0 = form x0 [(20, 13), (8, 5)] (.crevoke (fld x0 21) (fld x0 9)) := by unfold decodeSheet; rw [q0]; rfl
  rw [hd, fld_eq _ _ _ f_g, fld_eq _ _ _ f_a]
  have z0 : bits x0 20 13 = 0 := g1
  have z1 : bits x0 8 5 = 0 := bits_sub g2 (by decide) (by decide)
  exact form_ok (by simp only [List.all_cons, List.all_nil, z0, z1]; rfl) hw

theorem Sys2Proof.Laws.RoundTrip.sxopen (d : BitVec 4) (a : BitVec 4) : Statement (.sxopen d a) := by
  intro hw _
  obtain ⟨x0, hv⟩ : ∃ x0, place 0xda000000 [(d.toNat, 21), (a.toNat, 17)] = x0 := ⟨_, rfl⟩
  obtain ⟨f_d, f_a, g0, g1, lb, ub⟩ := shape2 d.isLt a.isLt (show 109 < _ by decide) (show 0 < _ by decide) hv
  refine trip32 x0 hv rfl ⟨Nat.le_trans (by decide) lb, ub⟩ ?_
  have q : bits x0 30 25 = 45 := bits_sub g0 (by decide) (by decide)
  rw [at_decodeSuffix q]
  have q0 : bits x0 4 0 = 0 := bits_sub g1 (by decide) (by decide)
  have hd : decodeSuffix x0 = form x0 [(16, 5)] (.sxopen (fld x0 21) (fld x0 17)) := by unfold decodeSuffix; rw [q0]; rfl
  rw [hd, fld_eq _ _ _ f_d, fld_eq _ _ _ f_a]
  have z0 : bits x0 16 5 = 0 := bits_sub g1 (by decide) (by decide)
  exact form_ok (by simp only [List.all_cons, List.all_nil, z0]; rfl) hw

theorem Sys2Proof.Laws.RoundTrip.sxapp (d : BitVec 4) (a : BitVec 4) (b : BitVec 4) : Statement (.sxapp d a b) := by
  intro hw _
  obtain ⟨x0, hv⟩ : ∃ x0, place 0xda000001 [(d.toNat, 21), (a.toNat, 17), (b.toNat, 13)] = x0 := ⟨_, rfl⟩
  obtain ⟨f_d, f_a, f_b, g0, g1, lb, ub⟩ := shape65 d.isLt a.isLt b.isLt (show 109 < _ by decide) (show 1 < _ by decide) hv
  refine trip32 x0 hv rfl ⟨Nat.le_trans (by decide) lb, ub⟩ ?_
  have q : bits x0 30 25 = 45 := bits_sub g0 (by decide) (by decide)
  rw [at_decodeSuffix q]
  have q0 : bits x0 4 0 = 1 := bits_sub g1 (by decide) (by decide)
  have hd : decodeSuffix x0 = form x0 [(12, 5)] (.sxapp (fld x0 21) (fld x0 17) (fld x0 13)) := by unfold decodeSuffix; rw [q0]; rfl
  rw [hd, fld_eq _ _ _ f_d, fld_eq _ _ _ f_a, fld_eq _ _ _ f_b]
  have z0 : bits x0 12 5 = 0 := bits_sub g1 (by decide) (by decide)
  exact form_ok (by simp only [List.all_cons, List.all_nil, z0]; rfl) hw

theorem Sys2Proof.Laws.RoundTrip.sxqry (d : BitVec 4) (a : BitVec 4) (b : BitVec 4) : Statement (.sxqry d a b) := by
  intro hw _
  obtain ⟨x0, hv⟩ : ∃ x0, place 0xda000002 [(d.toNat, 21), (a.toNat, 17), (b.toNat, 13)] = x0 := ⟨_, rfl⟩
  obtain ⟨f_d, f_a, f_b, g0, g1, lb, ub⟩ := shape65 d.isLt a.isLt b.isLt (show 109 < _ by decide) (show 2 < _ by decide) hv
  refine trip32 x0 hv rfl ⟨Nat.le_trans (by decide) lb, ub⟩ ?_
  have q : bits x0 30 25 = 45 := bits_sub g0 (by decide) (by decide)
  rw [at_decodeSuffix q]
  have q0 : bits x0 4 0 = 2 := bits_sub g1 (by decide) (by decide)
  have hd : decodeSuffix x0 = form x0 [(12, 5)] (.sxqry (fld x0 21) (fld x0 17) (fld x0 13)) := by unfold decodeSuffix; rw [q0]; rfl
  rw [hd, fld_eq _ _ _ f_d, fld_eq _ _ _ f_a, fld_eq _ _ _ f_b]
  have z0 : bits x0 12 5 = 0 := bits_sub g1 (by decide) (by decide)
  exact form_ok (by simp only [List.all_cons, List.all_nil, z0]; rfl) hw

theorem Sys2Proof.Laws.RoundTrip.sxsave (d : BitVec 4) (a : BitVec 4) (b : BitVec 4) : Statement (.sxsave d a b) := by
  intro hw _
  obtain ⟨x0, hv⟩ : ∃ x0, place 0xda000003 [(d.toNat, 21), (a.toNat, 17), (b.toNat, 13)] = x0 := ⟨_, rfl⟩
  obtain ⟨f_d, f_a, f_b, g0, g1, lb, ub⟩ := shape65 d.isLt a.isLt b.isLt (show 109 < _ by decide) (show 3 < _ by decide) hv
  refine trip32 x0 hv rfl ⟨Nat.le_trans (by decide) lb, ub⟩ ?_
  have q : bits x0 30 25 = 45 := bits_sub g0 (by decide) (by decide)
  rw [at_decodeSuffix q]
  have q0 : bits x0 4 0 = 3 := bits_sub g1 (by decide) (by decide)
  have hd : decodeSuffix x0 = form x0 [(12, 5)] (.sxsave (fld x0 21) (fld x0 17) (fld x0 13)) := by unfold decodeSuffix; rw [q0]; rfl
  rw [hd, fld_eq _ _ _ f_d, fld_eq _ _ _ f_a, fld_eq _ _ _ f_b]
  have z0 : bits x0 12 5 = 0 := bits_sub g1 (by decide) (by decide)
  exact form_ok (by simp only [List.all_cons, List.all_nil, z0]; rfl) hw

theorem Sys2Proof.Laws.RoundTrip.sxload (d : BitVec 4) (b : BitVec 4) : Statement (.sxload d b) := by
  intro hw _
  obtain ⟨x0, hv⟩ : ∃ x0, place 0xda000004 [(d.toNat, 21), (b.toNat, 13)] = x0 := ⟨_, rfl⟩
  obtain ⟨f_d, f_b, g0, g1, g2, lb, ub⟩ := shape72 d.isLt b.isLt (show 109 < _ by decide) (show 0 < _ by decide) (show 4 < _ by decide) hv
  refine trip32 x0 hv rfl ⟨Nat.le_trans (by decide) lb, ub⟩ ?_
  have q : bits x0 30 25 = 45 := bits_sub g0 (by decide) (by decide)
  rw [at_decodeSuffix q]
  have q0 : bits x0 4 0 = 4 := bits_sub g2 (by decide) (by decide)
  have hd : decodeSuffix x0 = form x0 [(20, 17), (12, 5)] (.sxload (fld x0 21) (fld x0 13)) := by unfold decodeSuffix; rw [q0]; rfl
  rw [hd, fld_eq _ _ _ f_d, fld_eq _ _ _ f_b]
  have z0 : bits x0 20 17 = 0 := g1
  have z1 : bits x0 12 5 = 0 := bits_sub g2 (by decide) (by decide)
  exact form_ok (by simp only [List.all_cons, List.all_nil, z0, z1]; rfl) hw

theorem Sys2Proof.Laws.RoundTrip.sxfree (d : BitVec 4) (a : BitVec 4) : Statement (.sxfree d a) := by
  intro hw _
  obtain ⟨x0, hv⟩ : ∃ x0, place 0xda000005 [(d.toNat, 21), (a.toNat, 17)] = x0 := ⟨_, rfl⟩
  obtain ⟨f_d, f_a, g0, g1, lb, ub⟩ := shape2 d.isLt a.isLt (show 109 < _ by decide) (show 5 < _ by decide) hv
  refine trip32 x0 hv rfl ⟨Nat.le_trans (by decide) lb, ub⟩ ?_
  have q : bits x0 30 25 = 45 := bits_sub g0 (by decide) (by decide)
  rw [at_decodeSuffix q]
  have q0 : bits x0 4 0 = 5 := bits_sub g1 (by decide) (by decide)
  have hd : decodeSuffix x0 = form x0 [(16, 5)] (.sxfree (fld x0 21) (fld x0 17)) := by unfold decodeSuffix; rw [q0]; rfl
  rw [hd, fld_eq _ _ _ f_d, fld_eq _ _ _ f_a]
  have z0 : bits x0 16 5 = 0 := bits_sub g1 (by decide) (by decide)
  exact form_ok (by simp only [List.all_cons, List.all_nil, z0]; rfl) hw

theorem Sys2Proof.Laws.RoundTrip.sxstat (d : BitVec 4) (a : BitVec 4) : Statement (.sxstat d a) := by
  intro hw _
  obtain ⟨x0, hv⟩ : ∃ x0, place 0xda000006 [(d.toNat, 21), (a.toNat, 17)] = x0 := ⟨_, rfl⟩
  obtain ⟨f_d, f_a, g0, g1, lb, ub⟩ := shape2 d.isLt a.isLt (show 109 < _ by decide) (show 6 < _ by decide) hv
  refine trip32 x0 hv rfl ⟨Nat.le_trans (by decide) lb, ub⟩ ?_
  have q : bits x0 30 25 = 45 := bits_sub g0 (by decide) (by decide)
  rw [at_decodeSuffix q]
  have q0 : bits x0 4 0 = 6 := bits_sub g1 (by decide) (by decide)
  have hd : decodeSuffix x0 = form x0 [(16, 5)] (.sxstat (fld x0 21) (fld x0 17)) := by unfold decodeSuffix; rw [q0]; rfl
  rw [hd, fld_eq _ _ _ f_d, fld_eq _ _ _ f_a]
  have z0 : bits x0 16 5 = 0 := bits_sub g1 (by decide) (by decide)
  exact form_ok (by simp only [List.all_cons, List.all_nil, z0]; rfl) hw

theorem Sys2Proof.Laws.RoundTrip.rbegin (a : BitVec 4) (b : BitVec 4) (wbuf : BitVec 1) : Statement (.rbegin a b wbuf) := by
  intro hw _
  obtain ⟨x0, hv⟩ : ∃ x0, place 0xdc000000 [(a.toNat, 17), (b.toNat, 13), (wbuf.toNat, 5)] = x0 := ⟨_, rfl⟩
  obtain ⟨f_a, f_b, f_wbuf, g0, g1, g2, lb, ub⟩ := shape73 a.isLt b.isLt wbuf.isLt (show 1760 < _ by decide) (show 0 < _ by decide) (show 0 < _ by decide) hv
  refine trip32 x0 hv rfl ⟨Nat.le_trans (by decide) lb, ub⟩ ?_
  have q : bits x0 30 25 = 46 := bits_sub g0 (by decide) (by decide)
  rw [at_decodeRgn q]
  have q0 : bits x0 4 0 = 0 := g2
  have hd : decodeRgn x0 = form x0 [(24, 21), (12, 6)] (.rbegin (fld x0 17) (fld x0 13) (fld x0 5)) := by unfold decodeRgn; rw [q0]; rfl
  rw [hd, fld_eq _ _ _ f_a, fld_eq _ _ _ f_b, fld_eq _ _ _ f_wbuf]
  have z0 : bits x0 24 21 = 0 := bits_sub g0 (by decide) (by decide)
  have z1 : bits x0 12 6 = 0 := g1
  exact form_ok (by simp only [List.all_cons, List.all_nil, z0, z1]; rfl) hw

theorem Sys2Proof.Laws.RoundTrip.rend : Statement (.rend) := by
  intro hw _
  obtain ⟨x0, hv⟩ : ∃ x0, place 0xdc000001 [] = x0 := ⟨_, rfl⟩
  obtain ⟨g0, lb, ub⟩ := shape20  (show 3690987521 < _ by decide) hv
  refine trip32 x0 hv rfl ⟨Nat.le_trans (by decide) lb, ub⟩ ?_
  have q : bits x0 30 25 = 46 := bits_sub g0 (by decide) (by decide)
  rw [at_decodeRgn q]
  have q0 : bits x0 4 0 = 1 := bits_sub g0 (by decide) (by decide)
  have hd : decodeRgn x0 = form x0 [(24, 5)] (.rend) := by unfold decodeRgn; rw [q0]; rfl
  rw [hd]
  have z0 : bits x0 24 5 = 0 := bits_sub g0 (by decide) (by decide)
  exact form_ok (by simp only [List.all_cons, List.all_nil, z0]; rfl) hw

theorem Sys2Proof.Laws.RoundTrip.rabort : Statement (.rabort) := by
  intro hw _
  obtain ⟨x0, hv⟩ : ∃ x0, place 0xdc000002 [] = x0 := ⟨_, rfl⟩
  obtain ⟨g0, lb, ub⟩ := shape20  (show 3690987522 < _ by decide) hv
  refine trip32 x0 hv rfl ⟨Nat.le_trans (by decide) lb, ub⟩ ?_
  have q : bits x0 30 25 = 46 := bits_sub g0 (by decide) (by decide)
  rw [at_decodeRgn q]
  have q0 : bits x0 4 0 = 2 := bits_sub g0 (by decide) (by decide)
  have hd : decodeRgn x0 = form x0 [(24, 5)] (.rabort) := by unfold decodeRgn; rw [q0]; rfl
  rw [hd]
  have z0 : bits x0 24 5 = 0 := bits_sub g0 (by decide) (by decide)
  exact form_ok (by simp only [List.all_cons, List.all_nil, z0]; rfl) hw

theorem Sys2Proof.Laws.RoundTrip.clkreq (d : BitVec 4) (a : BitVec 4) : Statement (.clkreq d a) := by
  intro hw _
  obtain ⟨x0, hv⟩ : ∃ x0, place 0xdc000003 [(d.toNat, 21), (a.toNat, 17)] = x0 := ⟨_, rfl⟩
  obtain ⟨f_d, f_a, g0, g1, lb, ub⟩ := shape2 d.isLt a.isLt (show 110 < _ by decide) (show 3 < _ by decide) hv
  refine trip32 x0 hv rfl ⟨Nat.le_trans (by decide) lb, ub⟩ ?_
  have q : bits x0 30 25 = 46 := bits_sub g0 (by decide) (by decide)
  rw [at_decodeRgn q]
  have q0 : bits x0 4 0 = 3 := bits_sub g1 (by decide) (by decide)
  have hd : decodeRgn x0 = form x0 [(16, 5)] (.clkreq (fld x0 21) (fld x0 17)) := by unfold decodeRgn; rw [q0]; rfl
  rw [hd, fld_eq _ _ _ f_d, fld_eq _ _ _ f_a]
  have z0 : bits x0 16 5 = 0 := bits_sub g1 (by decide) (by decide)
  exact form_ok (by simp only [List.all_cons, List.all_nil, z0]; rfl) hw

theorem Sys2Proof.Laws.RoundTrip.exti (e : BitVec 2) (i : BitVec 24) : Statement (.exti e i) := by
  intro hw _
  obtain ⟨x0, hv⟩ : ∃ x0, place 0xf0000000 [(e.toNat, 24), (i.toNat, 0)] = x0 := ⟨_, rfl⟩
  obtain ⟨f_e, f_i, g0, lb, ub⟩ := shape74 e.isLt i.isLt (show 60 < _ by decide) hv
  refine trip32 x0 hv rfl ⟨Nat.le_trans (by decide) lb, ub⟩ ?_
  have hd : decode32 x0 = form x0 [] (.exti (fld x0 24) (fld x0 0)) := by
    unfold decode32
    rcases (by unfold bits at *; omega : bits x0 30 25 = 56 ∨ bits x0 30 25 = 57) with h | h
    all_goals (rw [h]; rfl)
  rw [hd, fld_eq _ _ _ f_e, fld_eq _ _ _ f_i]
  exact form_ok (rfl) hw

theorem Sys2Proof.Laws.RoundTrip.exts (e : BitVec 2) (i : BitVec 24) : Statement (.exts e i) := by
  intro hw _
  obtain ⟨x0, hv⟩ : ∃ x0, place 0xf4000000 [(e.toNat, 24), (i.toNat, 0)] = x0 := ⟨_, rfl⟩
  obtain ⟨f_e, f_i, g0, lb, ub⟩ := shape74 e.isLt i.isLt (show 61 < _ by decide) hv
  refine trip32 x0 hv rfl ⟨Nat.le_trans (by decide) lb, ub⟩ ?_
  have hd : decode32 x0 = form x0 [] (.exts (fld x0 24) (fld x0 0)) := by
    unfold decode32
    rcases (by unfold bits at *; omega : bits x0 30 25 = 58 ∨ bits x0 30 25 = 59) with h | h
    all_goals (rw [h]; rfl)
  rw [hd, fld_eq _ _ _ f_e, fld_eq _ _ _ f_i]
  exact form_ok (rfl) hw

theorem Sys2Proof.Laws.RoundTrip.nop16 : Statement (.nop16) := by
  intro hw _
  obtain ⟨x0, hv⟩ : ∃ x0, place 0x400 [] = x0 := ⟨_, rfl⟩
  obtain ⟨g0, lb, ub⟩ := shape75  (show 1024 < _ by decide) hv
  refine trip16 x0 hv rfl ub ?_
  have q0 : bits x0 14 10 = 1 := bits_sub g0 (by decide) (by decide)
  have hd : decode16 x0 = form x0 [(9, 0)] (.nop16) := by unfold decode16; rw [q0]; rfl
  rw [hd]
  have z0 : bits x0 9 0 = 0 := bits_sub g0 (by decide) (by decide)
  exact form_ok (by simp only [List.all_cons, List.all_nil, z0]; rfl) hw

theorem Sys2Proof.Laws.RoundTrip.add16 (d : BitVec 4) (a : BitVec 4) : Statement (.add16 d a) := by
  intro hw _
  obtain ⟨x0, hv⟩ : ∃ x0, place 0x800 [(d.toNat, 6), (a.toNat, 2)] = x0 := ⟨_, rfl⟩
  obtain ⟨f_d, f_a, g0, g1, lb, ub⟩ := shape76 d.isLt a.isLt (show 2 < _ by decide) (show 0 < _ by decide) hv
  refine trip16 x0 hv rfl ub ?_
  have q0 : bits x0 14 10 = 2 := g0
  have q1 : bits x0 1 0 = 0 := g1
  have hd : decode16 x0 = form x0 [] (.add16 (fld x0 6) (fld x0 2)) := by unfold decode16; rw [q0, q1]; rfl
  rw [hd, fld_eq _ _ _ f_d, fld_eq _ _ _ f_a]
  exact form_ok (rfl) hw

theorem Sys2Proof.Laws.RoundTrip.sub16 (d : BitVec 4) (a : BitVec 4) : Statement (.sub16 d a) := by
  intro hw _
  obtain ⟨x0, hv⟩ : ∃ x0, place 0x801 [(d.toNat, 6), (a.toNat, 2)] = x0 := ⟨_, rfl⟩
  obtain ⟨f_d, f_a, g0, g1, lb, ub⟩ := shape76 d.isLt a.isLt (show 2 < _ by decide) (show 1 < _ by decide) hv
  refine trip16 x0 hv rfl ub ?_
  have q0 : bits x0 14 10 = 2 := g0
  have q1 : bits x0 1 0 = 1 := g1
  have hd : decode16 x0 = form x0 [] (.sub16 (fld x0 6) (fld x0 2)) := by unfold decode16; rw [q0, q1]; rfl
  rw [hd, fld_eq _ _ _ f_d, fld_eq _ _ _ f_a]
  exact form_ok (rfl) hw

theorem Sys2Proof.Laws.RoundTrip.and16 (d : BitVec 4) (a : BitVec 4) : Statement (.and16 d a) := by
  intro hw _
  obtain ⟨x0, hv⟩ : ∃ x0, place 0x802 [(d.toNat, 6), (a.toNat, 2)] = x0 := ⟨_, rfl⟩
  obtain ⟨f_d, f_a, g0, g1, lb, ub⟩ := shape76 d.isLt a.isLt (show 2 < _ by decide) (show 2 < _ by decide) hv
  refine trip16 x0 hv rfl ub ?_
  have q0 : bits x0 14 10 = 2 := g0
  have q1 : bits x0 1 0 = 2 := g1
  have hd : decode16 x0 = form x0 [] (.and16 (fld x0 6) (fld x0 2)) := by unfold decode16; rw [q0, q1]; rfl
  rw [hd, fld_eq _ _ _ f_d, fld_eq _ _ _ f_a]
  exact form_ok (rfl) hw

theorem Sys2Proof.Laws.RoundTrip.or16 (d : BitVec 4) (a : BitVec 4) : Statement (.or16 d a) := by
  intro hw _
  obtain ⟨x0, hv⟩ : ∃ x0, place 0x803 [(d.toNat, 6), (a.toNat, 2)] = x0 := ⟨_, rfl⟩
  obtain ⟨f_d, f_a, g0, g1, lb, ub⟩ := shape76 d.isLt a.isLt (show 2 < _ by decide) (show 3 < _ by decide) hv
  refine trip16 x0 hv rfl ub ?_
  have q0 : bits x0 14 10 = 2 := g0
  have q1 : bits x0 1 0 = 3 := g1
  have hd : decode16 x0 = form x0 [] (.or16 (fld x0 6) (fld x0 2)) := by unfold decode16; rw [q0, q1]; rfl
  rw [hd, fld_eq _ _ _ f_d, fld_eq _ _ _ f_a]
  exact form_ok (rfl) hw

theorem Sys2Proof.Laws.RoundTrip.xor16 (d : BitVec 4) (a : BitVec 4) : Statement (.xor16 d a) := by
  intro hw _
  obtain ⟨x0, hv⟩ : ∃ x0, place 0xc00 [(d.toNat, 6), (a.toNat, 2)] = x0 := ⟨_, rfl⟩
  obtain ⟨f_d, f_a, g0, g1, lb, ub⟩ := shape76 d.isLt a.isLt (show 3 < _ by decide) (show 0 < _ by decide) hv
  refine trip16 x0 hv rfl ub ?_
  have q0 : bits x0 14 10 = 3 := g0
  have q1 : bits x0 1 0 = 0 := g1
  have hd : decode16 x0 = form x0 [] (.xor16 (fld x0 6) (fld x0 2)) := by unfold decode16; rw [q0, q1]; rfl
  rw [hd, fld_eq _ _ _ f_d, fld_eq _ _ _ f_a]
  exact form_ok (rfl) hw

theorem Sys2Proof.Laws.RoundTrip.shl16 (d : BitVec 4) (a : BitVec 4) : Statement (.shl16 d a) := by
  intro hw _
  obtain ⟨x0, hv⟩ : ∃ x0, place 0xc01 [(d.toNat, 6), (a.toNat, 2)] = x0 := ⟨_, rfl⟩
  obtain ⟨f_d, f_a, g0, g1, lb, ub⟩ := shape76 d.isLt a.isLt (show 3 < _ by decide) (show 1 < _ by decide) hv
  refine trip16 x0 hv rfl ub ?_
  have q0 : bits x0 14 10 = 3 := g0
  have q1 : bits x0 1 0 = 1 := g1
  have hd : decode16 x0 = form x0 [] (.shl16 (fld x0 6) (fld x0 2)) := by unfold decode16; rw [q0, q1]; rfl
  rw [hd, fld_eq _ _ _ f_d, fld_eq _ _ _ f_a]
  exact form_ok (rfl) hw

theorem Sys2Proof.Laws.RoundTrip.shr16 (d : BitVec 4) (a : BitVec 4) : Statement (.shr16 d a) := by
  intro hw _
  obtain ⟨x0, hv⟩ : ∃ x0, place 0xc02 [(d.toNat, 6), (a.toNat, 2)] = x0 := ⟨_, rfl⟩
  obtain ⟨f_d, f_a, g0, g1, lb, ub⟩ := shape76 d.isLt a.isLt (show 3 < _ by decide) (show 2 < _ by decide) hv
  refine trip16 x0 hv rfl ub ?_
  have q0 : bits x0 14 10 = 3 := g0
  have q1 : bits x0 1 0 = 2 := g1
  have hd : decode16 x0 = form x0 [] (.shr16 (fld x0 6) (fld x0 2)) := by unfold decode16; rw [q0, q1]; rfl
  rw [hd, fld_eq _ _ _ f_d, fld_eq _ _ _ f_a]
  exact form_ok (rfl) hw

theorem Sys2Proof.Laws.RoundTrip.sha16 (d : BitVec 4) (a : BitVec 4) : Statement (.sha16 d a) := by
  intro hw _
  obtain ⟨x0, hv⟩ : ∃ x0, place 0xc03 [(d.toNat, 6), (a.toNat, 2)] = x0 := ⟨_, rfl⟩
  obtain ⟨f_d, f_a, g0, g1, lb, ub⟩ := shape76 d.isLt a.isLt (show 3 < _ by decide) (show 3 < _ by decide) hv
  refine trip16 x0 hv rfl ub ?_
  have q0 : bits x0 14 10 = 3 := g0
  have q1 : bits x0 1 0 = 3 := g1
  have hd : decode16 x0 = form x0 [] (.sha16 (fld x0 6) (fld x0 2)) := by unfold decode16; rw [q0, q1]; rfl
  rw [hd, fld_eq _ _ _ f_d, fld_eq _ _ _ f_a]
  exact form_ok (rfl) hw

theorem Sys2Proof.Laws.RoundTrip.addi16 (d : BitVec 4) (i : BitVec 6) : Statement (.addi16 d i) := by
  intro hw _
  obtain ⟨x0, hv⟩ : ∃ x0, place 0x1000 [(d.toNat, 6), (i.toNat, 0)] = x0 := ⟨_, rfl⟩
  obtain ⟨f_d, f_i, g0, lb, ub⟩ := shape77 d.isLt i.isLt (show 4 < _ by decide) hv
  refine trip16 x0 hv rfl ub ?_
  have q0 : bits x0 14 10 = 4 := g0
  have hd : decode16 x0 = form x0 [] (.addi16 (fld x0 6) (fld x0 0)) := by unfold decode16; rw [q0]; rfl
  rw [hd, fld_eq _ _ _ f_d, fld_eq _ _ _ f_i]
  exact form_ok (rfl) hw

theorem Sys2Proof.Laws.RoundTrip.li16 (d : BitVec 4) (i : BitVec 6) : Statement (.li16 d i) := by
  intro hw _
  obtain ⟨x0, hv⟩ : ∃ x0, place 0x1400 [(d.toNat, 6), (i.toNat, 0)] = x0 := ⟨_, rfl⟩
  obtain ⟨f_d, f_i, g0, lb, ub⟩ := shape77 d.isLt i.isLt (show 5 < _ by decide) hv
  refine trip16 x0 hv rfl ub ?_
  have q0 : bits x0 14 10 = 5 := g0
  have hd : decode16 x0 = form x0 [] (.li16 (fld x0 6) (fld x0 0)) := by unfold decode16; rw [q0]; rfl
  rw [hd, fld_eq _ _ _ f_d, fld_eq _ _ _ f_i]
  exact form_ok (rfl) hw

theorem Sys2Proof.Laws.RoundTrip.shli16 (d : BitVec 4) (n : BitVec 6) : Statement (.shli16 d n) := by
  intro hw _
  obtain ⟨x0, hv⟩ : ∃ x0, place 0x1800 [(d.toNat, 6), (n.toNat, 0)] = x0 := ⟨_, rfl⟩
  obtain ⟨f_d, f_n, g0, lb, ub⟩ := shape77 d.isLt n.isLt (show 6 < _ by decide) hv
  refine trip16 x0 hv rfl ub ?_
  have q0 : bits x0 14 10 = 6 := g0
  have hd : decode16 x0 = form x0 [] (.shli16 (fld x0 6) (fld x0 0)) := by unfold decode16; rw [q0]; rfl
  rw [hd, fld_eq _ _ _ f_d, fld_eq _ _ _ f_n]
  exact form_ok (rfl) hw

theorem Sys2Proof.Laws.RoundTrip.shri16 (d : BitVec 4) (n : BitVec 6) : Statement (.shri16 d n) := by
  intro hw _
  obtain ⟨x0, hv⟩ : ∃ x0, place 0x1c00 [(d.toNat, 6), (n.toNat, 0)] = x0 := ⟨_, rfl⟩
  obtain ⟨f_d, f_n, g0, lb, ub⟩ := shape77 d.isLt n.isLt (show 7 < _ by decide) hv
  refine trip16 x0 hv rfl ub ?_
  have q0 : bits x0 14 10 = 7 := g0
  have hd : decode16 x0 = form x0 [] (.shri16 (fld x0 6) (fld x0 0)) := by unfold decode16; rw [q0]; rfl
  rw [hd, fld_eq _ _ _ f_d, fld_eq _ _ _ f_n]
  exact form_ok (rfl) hw

theorem Sys2Proof.Laws.RoundTrip.shai16 (d : BitVec 4) (n : BitVec 6) : Statement (.shai16 d n) := by
  intro hw _
  obtain ⟨x0, hv⟩ : ∃ x0, place 0x2000 [(d.toNat, 6), (n.toNat, 0)] = x0 := ⟨_, rfl⟩
  obtain ⟨f_d, f_n, g0, lb, ub⟩ := shape77 d.isLt n.isLt (show 8 < _ by decide) hv
  refine trip16 x0 hv rfl ub ?_
  have q0 : bits x0 14 10 = 8 := g0
  have hd : decode16 x0 = form x0 [] (.shai16 (fld x0 6) (fld x0 0)) := by unfold decode16; rw [q0]; rfl
  rw [hd, fld_eq _ _ _ f_d, fld_eq _ _ _ f_n]
  exact form_ok (rfl) hw

theorem Sys2Proof.Laws.RoundTrip.ldw16 (d : BitVec 4) (a : BitVec 4) (x : BitVec 2) : Statement (.ldw16 d a x) := by
  intro hw _
  obtain ⟨x0, hv⟩ : ∃ x0, place 0x2400 [(d.toNat, 6), (a.toNat, 2), (x.toNat, 0)] = x0 := ⟨_, rfl⟩
  obtain ⟨f_d, f_a, f_x, g0, lb, ub⟩ := shape78 d.isLt a.isLt x.isLt (show 9 < _ by decide) hv
  refine trip16 x0 hv rfl ub ?_
  have q0 : bits x0 14 10 = 9 := g0
  have hd : decode16 x0 = form x0 [] (.ldw16 (fld x0 6) (fld x0 2) (fld x0 0)) := by unfold decode16; rw [q0]; rfl
  rw [hd, fld_eq _ _ _ f_d, fld_eq _ _ _ f_a, fld_eq _ _ _ f_x]
  exact form_ok (rfl) hw

theorem Sys2Proof.Laws.RoundTrip.stw16 (d : BitVec 4) (a : BitVec 4) (x : BitVec 2) : Statement (.stw16 d a x) := by
  intro hw _
  obtain ⟨x0, hv⟩ : ∃ x0, place 0x2800 [(d.toNat, 6), (a.toNat, 2), (x.toNat, 0)] = x0 := ⟨_, rfl⟩
  obtain ⟨f_d, f_a, f_x, g0, lb, ub⟩ := shape78 d.isLt a.isLt x.isLt (show 10 < _ by decide) hv
  refine trip16 x0 hv rfl ub ?_
  have q0 : bits x0 14 10 = 10 := g0
  have hd : decode16 x0 = form x0 [] (.stw16 (fld x0 6) (fld x0 2) (fld x0 0)) := by unfold decode16; rw [q0]; rfl
  rw [hd, fld_eq _ _ _ f_d, fld_eq _ _ _ f_a, fld_eq _ _ _ f_x]
  exact form_ok (rfl) hw

theorem Sys2Proof.Laws.RoundTrip.ldd16 (d : BitVec 4) (a : BitVec 4) (x : BitVec 2) : Statement (.ldd16 d a x) := by
  intro hw _
  obtain ⟨x0, hv⟩ : ∃ x0, place 0x2c00 [(d.toNat, 6), (a.toNat, 2), (x.toNat, 0)] = x0 := ⟨_, rfl⟩
  obtain ⟨f_d, f_a, f_x, g0, lb, ub⟩ := shape78 d.isLt a.isLt x.isLt (show 11 < _ by decide) hv
  refine trip16 x0 hv rfl ub ?_
  have q0 : bits x0 14 10 = 11 := g0
  have hd : decode16 x0 = form x0 [] (.ldd16 (fld x0 6) (fld x0 2) (fld x0 0)) := by unfold decode16; rw [q0]; rfl
  rw [hd, fld_eq _ _ _ f_d, fld_eq _ _ _ f_a, fld_eq _ _ _ f_x]
  exact form_ok (rfl) hw

theorem Sys2Proof.Laws.RoundTrip.std16 (d : BitVec 4) (a : BitVec 4) (x : BitVec 2) : Statement (.std16 d a x) := by
  intro hw _
  obtain ⟨x0, hv⟩ : ∃ x0, place 0x3000 [(d.toNat, 6), (a.toNat, 2), (x.toNat, 0)] = x0 := ⟨_, rfl⟩
  obtain ⟨f_d, f_a, f_x, g0, lb, ub⟩ := shape78 d.isLt a.isLt x.isLt (show 12 < _ by decide) hv
  refine trip16 x0 hv rfl ub ?_
  have q0 : bits x0 14 10 = 12 := g0
  have hd : decode16 x0 = form x0 [] (.std16 (fld x0 6) (fld x0 2) (fld x0 0)) := by unfold decode16; rw [q0]; rfl
  rw [hd, fld_eq _ _ _ f_d, fld_eq _ _ _ f_a, fld_eq _ _ _ f_x]
  exact form_ok (rfl) hw

theorem Sys2Proof.Laws.RoundTrip.beqz (hi : BitVec 4) (a : BitVec 4) (lo : BitVec 2) : Statement (.beqz hi a lo) := by
  intro hw _
  obtain ⟨x0, hv⟩ : ∃ x0, place 0x3400 [(hi.toNat, 6), (a.toNat, 2), (lo.toNat, 0)] = x0 := ⟨_, rfl⟩
  obtain ⟨f_hi, f_a, f_lo, g0, lb, ub⟩ := shape78 hi.isLt a.isLt lo.isLt (show 13 < _ by decide) hv
  refine trip16 x0 hv rfl ub ?_
  have q0 : bits x0 14 10 = 13 := g0
  have hd : decode16 x0 = form x0 [] (.beqz (fld x0 6) (fld x0 2) (fld x0 0)) := by unfold decode16; rw [q0]; rfl
  rw [hd, fld_eq _ _ _ f_hi, fld_eq _ _ _ f_a, fld_eq _ _ _ f_lo]
  exact form_ok (rfl) hw

theorem Sys2Proof.Laws.RoundTrip.bnez (hi : BitVec 4) (a : BitVec 4) (lo : BitVec 2) : Statement (.bnez hi a lo) := by
  intro hw _
  obtain ⟨x0, hv⟩ : ∃ x0, place 0x3800 [(hi.toNat, 6), (a.toNat, 2), (lo.toNat, 0)] = x0 := ⟨_, rfl⟩
  obtain ⟨f_hi, f_a, f_lo, g0, lb, ub⟩ := shape78 hi.isLt a.isLt lo.isLt (show 14 < _ by decide) hv
  refine trip16 x0 hv rfl ub ?_
  have q0 : bits x0 14 10 = 14 := g0
  have hd : decode16 x0 = form x0 [] (.bnez (fld x0 6) (fld x0 2) (fld x0 0)) := by unfold decode16; rw [q0]; rfl
  rw [hd, fld_eq _ _ _ f_hi, fld_eq _ _ _ f_a, fld_eq _ _ _ f_lo]
  exact form_ok (rfl) hw

theorem Sys2Proof.Laws.RoundTrip.jalr16 (d : BitVec 4) (a : BitVec 4) (n : BitVec 1) : Statement (.jalr16 d a n) := by
  intro hw _
  obtain ⟨x0, hv⟩ : ∃ x0, place 0x3c00 [(d.toNat, 6), (a.toNat, 2), (n.toNat, 0)] = x0 := ⟨_, rfl⟩
  obtain ⟨f_d, f_a, f_n, g0, g1, lb, ub⟩ := shape79 d.isLt a.isLt n.isLt (show 15 < _ by decide) (show 0 < _ by decide) hv
  refine trip16 x0 hv rfl ub ?_
  have q0 : bits x0 14 10 = 15 := g0
  have hd : decode16 x0 = formIf x0 [] (bits x0 1 1 == 0) (.jalr16 (fld x0 6) (fld x0 2) (fld x0 0)) := by unfold decode16; rw [q0]; rfl
  rw [hd, fld_eq _ _ _ f_d, fld_eq _ _ _ f_a, fld_eq _ _ _ f_n]
  have q8 : bits x0 1 1 = 0 := g1
  exact formIf_ok (rfl) (by rw [q8]; rfl) hw

theorem Sys2Proof.Laws.RoundTrip.takeInterrupt (_core : Nat) : Statement (.takeInterrupt _core) := fun _ h => absurd rfl h

theorem Sys2Proof.Laws.RoundTrip.deferredTrap (_core : Nat) : Statement (.deferredTrap _core) := fun _ h => absurd rfl h

theorem Sys2Proof.Laws.RoundTrip.timerExpire (_core : Nat) : Statement (.timerExpire _core) := fun _ h => absurd rfl h

theorem Sys2Proof.Laws.RoundTrip.waitaTimeout (_core : Nat) : Statement (.waitaTimeout _core) := fun _ h => absurd rfl h

theorem Sys2Proof.Laws.RoundTrip.commitQueuePerform (_core : Nat) : Statement (.commitQueuePerform _core) := fun _ h => absurd rfl h

theorem Sys2Proof.Laws.RoundTrip.regionMoveCommitted (_core : Nat) : Statement (.regionMoveCommitted _core) := fun _ h => absurd rfl h

theorem Sys2Proof.Laws.RoundTrip.homeArrive (_fwd : Bool) (_key : Nat) : Statement (.homeArrive _fwd _key) := fun _ h => absurd rfl h

theorem Sys2Proof.Laws.RoundTrip.homePerformWrite (_line : Nat) : Statement (.homePerformWrite _line) := fun _ h => absurd rfl h

theorem Sys2Proof.Laws.RoundTrip.homeLoad (_core : Nat) (_idx : Nat) : Statement (.homeLoad _core _idx) := fun _ h => absurd rfl h

theorem Sys2Proof.Laws.RoundTrip.leaseExpire (_herd : Nat) (_line : Nat) : Statement (.leaseExpire _herd _line) := fun _ h => absurd rfl h

theorem Sys2Proof.Laws.RoundTrip.remoteAccessArrive (_msg : Nat) : Statement (.remoteAccessArrive _msg) := fun _ h => absurd rfl h

theorem Sys2Proof.Laws.RoundTrip.bankTake (_msg : Nat) : Statement (.bankTake _msg) := fun _ h => absurd rfl h

theorem Sys2Proof.Laws.RoundTrip.bankPeek (_msg : Nat) : Statement (.bankPeek _msg) := fun _ h => absurd rfl h

theorem Sys2Proof.Laws.RoundTrip.bankPut (_msg : Nat) : Statement (.bankPut _msg) := fun _ h => absurd rfl h

theorem Sys2Proof.Laws.RoundTrip.bankInit (_msg : Nat) : Statement (.bankInit _msg) := fun _ h => absurd rfl h

theorem Sys2Proof.Laws.RoundTrip.bankBinit (_msg : Nat) : Statement (.bankBinit _msg) := fun _ h => absurd rfl h

theorem Sys2Proof.Laws.RoundTrip.bankBarv (_msg : Nat) : Statement (.bankBarv _msg) := fun _ h => absurd rfl h

theorem Sys2Proof.Laws.RoundTrip.bankBexp (_msg : Nat) : Statement (.bankBexp _msg) := fun _ h => absurd rfl h

theorem Sys2Proof.Laws.RoundTrip.bankBwait (_msg : Nat) : Statement (.bankBwait _msg) := fun _ h => absurd rfl h

theorem Sys2Proof.Laws.RoundTrip.bankBinv (_msg : Nat) : Statement (.bankBinv _msg) := fun _ h => absurd rfl h

theorem Sys2Proof.Laws.RoundTrip.barCompletion (_msg : Nat) : Statement (.barCompletion _msg) := fun _ h => absurd rfl h

theorem Sys2Proof.Laws.RoundTrip.writebackRequest (_herd : Nat) (_line : Nat) : Statement (.writebackRequest _herd _line) := fun _ h => absurd rfl h

theorem Sys2Proof.Laws.RoundTrip.writebackGrant (_herd : Nat) (_line : Nat) : Statement (.writebackGrant _herd _line) := fun _ h => absurd rfl h

theorem Sys2Proof.Laws.RoundTrip.writebackCancel (_herd : Nat) (_line : Nat) : Statement (.writebackCancel _herd _line) := fun _ h => absurd rfl h

theorem Sys2Proof.Laws.RoundTrip.writebackData (_herd : Nat) (_line : Nat) : Statement (.writebackData _herd _line) := fun _ h => absurd rfl h

theorem Sys2Proof.Laws.RoundTrip.recall (_herd : Nat) (_line : Nat) : Statement (.recall _herd _line) := fun _ h => absurd rfl h

theorem Sys2Proof.Laws.RoundTrip.partialSpill (_line : Nat) : Statement (.partialSpill _line) := fun _ h => absurd rfl h

theorem Sys2Proof.Laws.RoundTrip.copyJobDispatch (_core : Nat) (_slot : Nat) : Statement (.copyJobDispatch _core _slot) := fun _ h => absurd rfl h

theorem Sys2Proof.Laws.RoundTrip.copyJobComplete (_core : Nat) (_slot : Nat) : Statement (.copyJobComplete _core _slot) := fun _ h => absurd rfl h

theorem Sys2Proof.Laws.RoundTrip.streamAccept (_core : Nat) : Statement (.streamAccept _core) := fun _ h => absurd rfl h

theorem Sys2Proof.Laws.RoundTrip.streamDeliver (_stream : Nat) : Statement (.streamDeliver _stream) := fun _ h => absurd rfl h

theorem Sys2Proof.Laws.RoundTrip.matrixJobStart (_herd : Nat) : Statement (.matrixJobStart _herd) := fun _ h => absurd rfl h

theorem Sys2Proof.Laws.RoundTrip.matrixJobComplete (_herd : Nat) (_port : Nat) : Statement (.matrixJobComplete _herd _port) := fun _ h => absurd rfl h

theorem Sys2Proof.Laws.RoundTrip.weightJobStart (_core : Nat) : Statement (.weightJobStart _core) := fun _ h => absurd rfl h

theorem Sys2Proof.Laws.RoundTrip.weightJobComplete (_core : Nat) : Statement (.weightJobComplete _core) := fun _ h => absurd rfl h

theorem Sys2Proof.Laws.RoundTrip.tileUnitDispatch (_quad : Nat) : Statement (.tileUnitDispatch _quad) := fun _ h => absurd rfl h

theorem Sys2Proof.Laws.RoundTrip.walkerCommandDone (_core : Nat) (_idx : Nat) : Statement (.walkerCommandDone _core _idx) := fun _ h => absurd rfl h

theorem Sys2Proof.Laws.RoundTrip.sheetPublish (_pub : Nat) : Statement (.sheetPublish _pub) := fun _ h => absurd rfl h

theorem Sys2Proof.Laws.RoundTrip.staleMark (_sheet : Nat) : Statement (.staleMark _sheet) := fun _ h => absurd rfl h

theorem Sys2Proof.Laws.RoundTrip.cellDispatch (_sheet : Nat) (_cell : Nat) : Statement (.cellDispatch _sheet _cell) := fun _ h => absurd rfl h

theorem Sys2Proof.Laws.RoundTrip.taskComplete (_team : Nat) : Statement (.taskComplete _team) := fun _ h => absurd rfl h

theorem Sys2Proof.Laws.RoundTrip.cellMarkFresh (_sheet : Nat) (_cell : Nat) : Statement (.cellMarkFresh _sheet _cell) := fun _ h => absurd rfl h

theorem Sys2Proof.Laws.RoundTrip.appendPrefixCopy (_sheet : Nat) (_cell : Nat) : Statement (.appendPrefixCopy _sheet _cell) := fun _ h => absurd rfl h

theorem Sys2Proof.Laws.RoundTrip.ringTickInterrupt (_ring : Nat) : Statement (.ringTickInterrupt _ring) := fun _ h => absurd rfl h

theorem Sys2Proof.Laws.RoundTrip.teamPlace (_task : Nat) (_die : Nat) (_x : Nat) (_y : Nat) (_w : Nat) (_h : Nat) : Statement (.teamPlace _task _die _x _y _w _h) := fun _ h => absurd rfl h

theorem Sys2Proof.Laws.RoundTrip.teamStart (_team : Nat) : Statement (.teamStart _team) := fun _ h => absurd rfl h

theorem Sys2Proof.Laws.RoundTrip.herdStart (_team : Nat) (_herd : Nat) : Statement (.herdStart _team _herd) := fun _ h => absurd rfl h

theorem Sys2Proof.Laws.RoundTrip.taskAge (_task : Nat) : Statement (.taskAge _task) := fun _ h => absurd rfl h

theorem Sys2Proof.Laws.RoundTrip.spatialPreempt (_task : Nat) (_die : Nat) (_x : Nat) (_y : Nat) (_w : Nat) (_h : Nat) : Statement (.spatialPreempt _task _die _x _y _w _h) := fun _ h => absurd rfl h

theorem Sys2Proof.Laws.RoundTrip.herdsReturn (_team : Nat) : Statement (.herdsReturn _team) := fun _ h => absurd rfl h

theorem Sys2Proof.Laws.RoundTrip.sliceExpire (_team : Nat) : Statement (.sliceExpire _team) := fun _ h => absurd rfl h

theorem Sys2Proof.Laws.RoundTrip.teamResume (_team : Nat) : Statement (.teamResume _team) := fun _ h => absurd rfl h

theorem Sys2Proof.Laws.RoundTrip.teamFinish (_team : Nat) : Statement (.teamFinish _team) := fun _ h => absurd rfl h

theorem Sys2Proof.Laws.RoundTrip.rangeRequest (_core : Nat) : Statement (.rangeRequest _core) := fun _ h => absurd rfl h

theorem Sys2Proof.Laws.RoundTrip.kidComplete (_team : Nat) : Statement (.kidComplete _team) := fun _ h => absurd rfl h

theorem Sys2Proof.Laws.RoundTrip.wbarArrive (_core : Nat) : Statement (.wbarArrive _core) := fun _ h => absurd rfl h

theorem Sys2Proof.Laws.RoundTrip.arbiterEvaluate : Statement (.arbiterEvaluate) := fun _ h => absurd rfl h

theorem Sys2Proof.Laws.RoundTrip.grantRaiseHerd (_herd : Nat) : Statement (.grantRaiseHerd _herd) := fun _ h => absurd rfl h

theorem Sys2Proof.Laws.RoundTrip.suffixRebuildDone (_slot : Nat) : Statement (.suffixRebuildDone _slot) := fun _ h => absurd rfl h

theorem Sys2Proof.Laws.RoundTrip.uncorrectableError (_place : Nat) (_key : Nat) (_addr : Nat) : Statement (.uncorrectableError _place _key _addr) := fun _ h => absurd rfl h

theorem Sys2Proof.Laws.RoundTrip.macroScrub (_core : Nat) (_mac : Nat) : Statement (.macroScrub _core _mac) := fun _ h => absurd rfl h

theorem Sys2Proof.Laws.RoundTrip.patrolScrub (_place : Nat) (_key : Nat) (_addr : Nat) : Statement (.patrolScrub _place _key _addr) := fun _ h => absurd rfl h

theorem Sys2Proof.Laws.RoundTrip.containmentStart (_die : Nat) (_x : Nat) (_y : Nat) : Statement (.containmentStart _die _x _y) := fun _ h => absurd rfl h

theorem Sys2Proof.Laws.RoundTrip.containmentFenceLift (_die : Nat) : Statement (.containmentFenceLift _die) := fun _ h => absurd rfl h

theorem Sys2Proof.Laws.RoundTrip.routerFailure (_die : Nat) (_x : Nat) (_y : Nat) : Statement (.routerFailure _die _x _y) := fun _ h => absurd rfl h

theorem Sys2Proof.Laws.RoundTrip.transactionCrcFail (_line : Nat) : Statement (.transactionCrcFail _line) := fun _ h => absurd rfl h

theorem Sys2Proof.Laws.RoundTrip.readResponseCrcFail (_core : Nat) (_idx : Nat) : Statement (.readResponseCrcFail _core _idx) := fun _ h => absurd rfl h

theorem Sys2Proof.Laws.RoundTrip.linkFlitError (_die : Nat) (_link : Nat) (_lane : Bool) : Statement (.linkFlitError _die _link _lane) := fun _ h => absurd rfl h

theorem Sys2Proof.Laws.RoundTrip.remoteTimeout (_core : Nat) (_idx : Nat) : Statement (.remoteTimeout _core _idx) := fun _ h => absurd rfl h

theorem Sys2Proof.Laws.RoundTrip.hostMemAccess (_write : Bool) (_addr : Nat) (_size : Nat) (_value : Nat) : Statement (.hostMemAccess _write _addr _size _value) := fun _ h => absurd rfl h

theorem Sys2Proof.Laws.RoundTrip.spdmRequest (_code : Nat) (_param : Nat) : Statement (.spdmRequest _code _param) := fun _ h => absurd rfl h

theorem Sys2Proof.Laws.RoundTrip.powerOn : Statement (.powerOn) := fun _ h => absurd rfl h

theorem Sys2Proof.Laws.RoundTrip.thermalPoll (_temp : Nat) (_power : Nat) : Statement (.thermalPoll _temp _power) := fun _ h => absurd rfl h

theorem Sys2Proof.Laws.RoundTrip.thermalShutdown (_temp : Nat) : Statement (.thermalShutdown _temp) := fun _ h => absurd rfl h

theorem Sys2Proof.Laws.RoundTrip.sheetnew (_ch : Nat) : Statement (.sheetnew _ch) := fun _ h => absurd rfl h

theorem Sys2Proof.Laws.RoundTrip.sheetdel (_ch : Nat) : Statement (.sheetdel _ch) := fun _ h => absurd rfl h

theorem Sys2Proof.Laws.RoundTrip.launch (_ch : Nat) : Statement (.launch _ch) := fun _ h => absurd rfl h

theorem Sys2Proof.Laws.RoundTrip.teamend (_ch : Nat) : Statement (.teamend _ch) := fun _ h => absurd rfl h

theorem Sys2Proof.Laws.RoundTrip.teamstatRead (_ch : Nat) : Statement (.teamstatRead _ch) := fun _ h => absurd rfl h

theorem Sys2Proof.Laws.RoundTrip.teamstatWrite (_ch : Nat) : Statement (.teamstatWrite _ch) := fun _ h => absurd rfl h

theorem Sys2Proof.Laws.RoundTrip.shoot (_ch : Nat) : Statement (.shoot _ch) := fun _ h => absurd rfl h

theorem Sys2Proof.Laws.RoundTrip.faultend (_ch : Nat) : Statement (.faultend _ch) := fun _ h => absurd rfl h

theorem Sys2Proof.Laws.RoundTrip.qplace (_ch : Nat) : Statement (.qplace _ch) := fun _ h => absurd rfl h

theorem Sys2Proof.Laws.RoundTrip.dieregRead (_ch : Nat) : Statement (.dieregRead _ch) := fun _ h => absurd rfl h

theorem Sys2Proof.Laws.RoundTrip.dieregWrite (_ch : Nat) : Statement (.dieregWrite _ch) := fun _ h => absurd rfl h

theorem Sys2Proof.Laws.RoundTrip.qslice (_ch : Nat) : Statement (.qslice _ch) := fun _ h => absurd rfl h

theorem Sys2Proof.Laws.RoundTrip.suffixIndexPlace (_ch : Nat) : Statement (.suffixIndexPlace _ch) := fun _ h => absurd rfl h

theorem Sys2Proof.Laws.RoundTrip.suffixMailboxPlace (_ch : Nat) : Statement (.suffixMailboxPlace _ch) := fun _ h => absurd rfl h

theorem Sys2Proof.Laws.RoundTrip.suffixRingAssign (_ch : Nat) : Statement (.suffixRingAssign _ch) := fun _ h => absurd rfl h

theorem Sys2Proof.Laws.RoundTrip.power (_ch : Nat) : Statement (.power _ch) := fun _ h => absurd rfl h

theorem Sys2Proof.Laws.RoundTrip.doorbell (_ch : Nat) : Statement (.doorbell _ch) := fun _ h => absurd rfl h

theorem Sys2Proof.Laws.RoundTrip.wbgroup (_ch : Nat) : Statement (.wbgroup _ch) := fun _ h => absurd rfl h

theorem Sys2Proof.Laws.RoundTrip.boot (_ch : Nat) : Statement (.boot _ch) := fun _ h => absurd rfl h

theorem Sys2Proof.Laws.RoundTrip.debugStop (_ch : Nat) : Statement (.debugStop _ch) := fun _ h => absurd rfl h

theorem Sys2Proof.Laws.RoundTrip.debugResume (_ch : Nat) : Statement (.debugResume _ch) := fun _ h => absurd rfl h

theorem Sys2Proof.Laws.RoundTrip.debugStep (_ch : Nat) : Statement (.debugStep _ch) := fun _ h => absurd rfl h

theorem Sys2Proof.Laws.RoundTrip.svRetain (_ch : Nat) : Statement (.svRetain _ch) := fun _ h => absurd rfl h

theorem Sys2Proof.Laws.RoundTrip.svUnretain (_ch : Nat) : Statement (.svUnretain _ch) := fun _ h => absurd rfl h

theorem Sys2Proof.Laws.RoundTrip.peerset (_ch : Nat) : Statement (.peerset _ch) := fun _ h => absurd rfl h

theorem Sys2Proof.Laws.RoundTrip.channelSheetCommand (_ch : Nat) : Statement (.channelSheetCommand _ch) := fun _ h => absurd rfl h

theorem Sys2Proof.Laws.RoundTrip.channelSuffixCommand (_ch : Nat) : Statement (.channelSuffixCommand _ch) := fun _ h => absurd rfl h

theorem Sys2Proof.Laws.RoundTrip.commandDone (_ch : Nat) : Statement (.commandDone _ch) := fun _ h => absurd rfl h

theorem Sys2Proof.Laws.RoundTrip.ringConfigWrite (_off : Nat) (_value : Nat) : Statement (.ringConfigWrite _off _value) := fun _ h => absurd rfl h

theorem Sys2Proof.Laws.RoundTrip.queueConsumerWrite (_off : Nat) (_value : Nat) : Statement (.queueConsumerWrite _off _value) := fun _ h => absurd rfl h

theorem Sys2Proof.Laws.RoundTrip.registerWrite (_off : Nat) (_value : Nat) : Statement (.registerWrite _off _value) := fun _ h => absurd rfl h

theorem Sys2Proof.Laws.RoundTrip.illegalInstruction (_core : Nat) (_sub : Nat) (_long : Bool) (_insn : Nat) : Statement (.illegalInstruction _core _sub _long _insn) := fun _ h => absurd rfl h

theorem Sys2Proof.Laws.RoundTrip.instructionFetchFault (_core : Nat) (_cause : Nat) (_addr : Nat) : Statement (.instructionFetchFault _core _cause _addr) := fun _ h => absurd rfl h

theorem Sys2Proof.Laws.RoundTrip.targetAcknowledgement (_core : Nat) (_idx : Nat) (_answer : Nat) (_value : Nat) : Statement (.targetAcknowledgement _core _idx _answer _value) := fun _ h => absurd rfl h

theorem Sys2Proof.Laws.RoundTrip.networkBootFrame (_frame : Nat) : Statement (.networkBootFrame _frame) := fun _ h => absurd rfl h
end

