-- ==== Sys2Proof/Laws/Short.lean ====
section
/-!
SUPPORT. What the issue runs for a halfword is the meaning of the instruction that `decode16` reads from it, and when the issue opens no
region.
-/

namespace Sys2Proof.Machine

theorem form_all (w : Nat) (i : Instr) (h : i.problem = none) : form w [] i = .ok i := by simp [form, h]

theorem form_nop16 (w : Nat) : form w [(9, 0)] .nop16 = if bits w 9 0 == 0 then .ok .nop16 else .bad .reserved false := by
  simp only [form, List.all, Bool.and_true]; rfl

theorem form_jalr16 (w : Nat) (b : Bool) (i : Instr) (h : i.problem = none) (h' : i.supervisorOnly = false) :
    formIf w [] b i = if b then .ok i else .bad .badValue false := by simp [formIf, form_all w i h, h']

/-- A halfword that is an instruction runs its meaning; any other does what `bad` does (R163, R175, R187). -/
theorem run16_eq (h : Nat) (bad : Reject → Bool → Out) (s : State) :
    run16 h bad s = match decode16 h with | .ok i => exec i s | .bad r sup => bad r sup := by
  unfold run16 decode16
  rw [form_nop16, form_jalr16 h _ (.jalr16 (fld h 6) (fld h 2) (fld h 0)) rfl rfl]
  generalize bits h 14 10 = n
  generalize bits h 1 0 = m
  generalize (bits h 9 0 == 0) = z
  generalize (bits h 1 1 == 0) = o
  split
  case h_2 => cases z <;> rfl
  case h_3 => rcases m with _ | _ | _ | m <;> rfl
  case h_4 => rcases m with _ | _ | _ | m <;> rfl
  case h_16 => cases o <;> rfl
  case h_17 => simp_all
  all_goals rfl

/-- Nothing opens at an issue where no region is pending, or the pending one is not to begin yet (R335). -/
theorem openPending_same (s : State) (k : Nat) (h : (coreAt s k).opensPending = false) : openPending s k = s := by
  unfold openPending
  split <;> simp [h]

theorem openPending_none (s : State) (k : Nat) (h : (coreAt s k).pendingRegion = none) : openPending s k = s := by
  simp [openPending, h]

end Sys2Proof.Machine
end

