-- ==== Sys2Proof/Laws/Tile.lean ====
section
/-!
SUPPORT. The laws of the tile unit's shared operation (R253 to R255).
-/

namespace Sys2Proof.Machine

theorem forM_ok {α : Type} (l : List α) (f : α → Act Unit) (s : State) (h : ∀ x ∈ l, f x s = .ok ((), s)) : l.forM f s = .ok ((), s) := by
  induction l with
  | nil => rfl
  | cons x l ih =>
    show (f x >>= fun _ => l.forM f) s = _
    rw [bind_ok _ _ _ _ _ (h x (by simp))]
    exact ih (fun y hy => h y (by simp [hy]))

/-- Clean rows can be read (R405). -/
theorem cleanRows_ok (t n : Nat) (s : State) (h : ∀ r, r < n → s.core.poison.contains (0, 64 + 8 * t + r) = false) :
    cleanRows t n s = .ok ((), s) := by
  refine forM_ok _ _ _ ?_
  intro r hr
  rw [noPoison_run, h r (List.mem_range.mp hr)]
  rfl

/-- Tiles that no job and no load holds are free (R279). -/
theorem tilesFree_ok (ts : List Nat) (s : State) (h : ts.all (fun t => !s.core.tileLocked t && !s.core.tilePending t) = true) :
    tilesFree ts s = .ok ((), s) := by
  unfold tilesFree
  rw [bind_ok _ _ _ _ _ (getC_run _)]
  simp only [waitUntil_run, h, if_true]

/-- The marks that an instruction leaves in the open region, where it is legal (R334). -/
def marked (c : Core) (reads writes : List Nat) : Core :=
  { c with region := c.region.map (fun r => writes.foldl Region.writeTile (reads.foldl Region.readTile r)) }

theorem useTiles_ok (reads writes : List Nat) (s : State)
    (h : ∀ r, s.core.region = some r → writes.all (fun t => !r.rbwTile.getLsbD t) = true) :
    useTiles reads writes s = .ok ((), if s.core.region.isNone then s else s.withCore (marked s.core reads writes)) := by
  unfold useTiles
  rw [bind_ok _ _ _ _ _ (getC_run _)]
  cases hr : s.core.region with
  | none => simp
  | some r =>
    have h' := h r hr
    have hf : writes.find? (fun t => r.rbwTile.getLsbD t) = none := by
      rw [List.find?_eq_none]
      intro x hx
      have := List.all_eq_true.mp h' x hx
      simpa using this
    simp only [hf]
    simp [bind, StateT.bind, Except.bind, marked, hr]

/-- Operand TB as a tile with its rows, where it is one. -/
def tbTile (tb : Option (BitVec 1 × BitVec 3)) (rows : Nat) : List (Nat × Nat) := match tb with | some (0, t) => [(t.toNat, rows)] | _ => []

/-- The rows of operand TB as the tile unit reads them: a tile's, or those of the handle's head slot. -/
def tbRows (c : Core) (tb : Option (BitVec 1 × BitVec 3)) (slot : List Row) : Rows :=
  match tb with | some (0, t) => fun r => c.row t.toNat r | _ => listRows slot

/-- The tile unit's operation, where its tiles are free and clean and its handle has a slot: its whole effect. -/
theorem tileUnit_ok (reads : List (Nat × Nat)) (tb : Option (BitVec 1 × BitVec 3)) (writes : List Nat) (rows : Nat) (full : Bool)
    (body : (Nat → Rows) → Rows → Writes × BitVec 5) (s : State) (slot : List Row)
    (hh : (match tb with | some (0, _) => pure [] | some (_, t) => handleRows t.toNat rows | none => pure [] : Act (List Row)) s = .ok (slot, s))
    (hf : ((reads ++ tbTile tb rows).map (fun p => p.1) ++ writes).all (fun t => !s.core.tileLocked t && !s.core.tilePending t) = true)
    (hb : s.core.tileBusy = false) (hr : ∀ r, s.core.region = some r → writes.all (fun t => !r.rbwTile.getLsbD t) = true)
    (hp : ∀ p ∈ reads ++ tbTile tb rows, ∀ r, r < p.2 → s.core.poison.contains (0, 64 + 8 * p.1 + r) = false) :
    let w := body (fun t r => s.core.row t r) (tbRows s.core tb slot)
    ∃ c : Core, runInstr (tileUnit reads tb writes rows full body) s
        = .next (s.withCore ((({ c.setRows w.1 with tileBusy := true } : Core).orFlags w.2).advance 4))
      ∧ c = { s.core with region := c.region } := by
  intro w
  let rs := (reads ++ tbTile tb rows).map (fun p => p.1) ++ (if full then [] else writes)
  let s2 := if s.core.region.isNone then s else s.withCore (marked s.core rs writes)
  have hs : s2.core = { s.core with region := s2.core.region } := by
    simp only [s2]; split
    · rfl
    · simp [marked]
  have hrow : ∀ t r, s2.core.row t r = s.core.row t r := by intro t r; rw [hs]; rfl
  refine ⟨s2.core, runInstr_ok _ _ _ ?_, hs⟩
  have fin : ∀ (rowsX : List Row), rowsX = slot →
      (do
        waitUntil !(← getC).tileBusy
        useTiles rs writes
        (reads ++ tbTile tb rows).forM (fun p => cleanRows p.1 p.2)
        let c ← getC
        let (ws, fl) := body (fun t r => c.row t r) (tbRows c tb rowsX)
        modC (fun c => { c.setRows ws with tileBusy := true })
        setFlags fl
        retire 4 : Act Unit) s
      = .ok ((), s.withCore ((({ s2.core.setRows w.1 with tileBusy := true } : Core).orFlags w.2).advance 4)) := by
    intro rowsX hx
    subst hx
    rw [bind_ok _ _ _ _ _ (getC_run _), bind_ok _ _ s s ⟨⟩ (by simp [hb]),
      bind_ok _ _ s s2 ⟨⟩ (useTiles_ok _ _ _ hr), bind_ok _ _ s2 s2 ⟨⟩ (forM_ok _ _ _ (fun p hp' => cleanRows_ok _ _ _ (fun r hr' => by
        rw [hs]; exact hp p hp' r hr'))), bind_ok _ _ _ _ _ (getC_run _)]
    have hw : body (fun t r => s2.core.row t r) (tbRows s2.core tb rowsX) = w := by
      simp only [w, tbRows, hrow]
    simp only [hw, bind, StateT.bind, Except.bind, modC_run, setFlags_run, retire_run, core_withCore, withCore_withCore]
    have : ∀ c, s2.withCore c = s.withCore c := by intro c; simp only [s2]; split <;> simp
    rw [this]
  unfold tileUnit
  rcases tb with _ | ⟨h, t⟩
  · refine (bind_ok _ _ _ _ _ (tilesFree_ok _ _ hf)).trans ?_
    have h1 : slot = [] := by simpa using hh.symm
    exact fin [] h1.symm
  · by_cases h0 : h = 0
    · subst h0
      refine (bind_ok _ _ _ _ _ (tilesFree_ok _ _ hf)).trans ?_
      have h1 : slot = [] := by simpa using hh.symm
      exact fin [] h1.symm
    · have h1 : h = 1 := by
        have := h.isLt
        apply BitVec.eq_of_toNat_eq
        have h2 : h.toNat ≠ 0 := fun e => h0 (BitVec.eq_of_toNat_eq (by simpa using e))
        simp; omega
      subst h1
      refine (bind_ok _ _ _ _ _ (tilesFree_ok _ _ hf)).trans ?_
      have hh' : handleRows t.toNat rows s = .ok (slot, s) := hh
      refine (bind_ok (handleRows t.toNat rows) _ s s slot hh').trans ?_
      exact fin slot rfl

end Sys2Proof.Machine
end

