-- ==== Sys2Proof/Tests/Slice0.lean ====
section
/-!
SUPPORT. The model's own tests: an ill-formed term for each check of WellFormed, a word of every instruction against the encoding tables
of chapter 10, small results worked out by hand from the rules, and for each statement with hypotheses a concrete state and operands that
meet all of them together (a clause that has its own hypotheses has its own witness).
-/

set_option Elab.async false

namespace Sys2Proof.Tests

open Sys2Proof Sys2Proof.Machine Sys2Proof.Spec

/-! ### Small states -/

/-- A running core in supervisor mode, in the boot team of die 0, which claims its three buffers. -/
def core0 : Core := { Core.reset with run := .running, team := some 0, claim := 7 }
/-- That core with some registers written. -/
def regs (l : List (Nat × Word)) : Core := l.foldl (fun c p => c.put p.1 p.2) core0
/-- The part with that core alone. -/
def on (c : Core) : State := { State.reset with cores := [(0, c)] }
/-- The core in user mode. -/
def inUser (c : Core) : Core := { c with status := setBit c.status 17 false }
/-- A region of that core without a window. -/
def region0 : Region :=
  { entry := 0, implicit := false, window := { buf := 0, base := 0, len := 0 }, regs := Vector.replicate 16 0, ext := Vector.replicate 4 0, qcfg := 0
    queues := Vector.replicate 4 [], handles := Vector.replicate 8 Handle.reset, seq := 0, rbwTile := 0, wrTile := 0, rbwAcc := 0
    wrAcc := 0, rbwMac := 0, marks := [], produced := Vector.replicate 8 0, consumed := Vector.replicate 8 0, poison := [] }
/-- A region whose window is the first 256 bytes of the A buffer. -/
def region1 : Region := { region0 with window := { buf := 0, base := 0, len := 256 } }

/-- An operation answers, and its answer and state are as said. -/
def given {α : Type} (r : Except Stop (α × State)) (p : α → State → Bool) : Bool :=
  match r with
  | .ok x => p x.1 x.2
  | .error _ => false
/-- A step or an instruction answers a next state that is as said. -/
def answers (o : Host.Outcome State Fault Refusal) (p : State → Bool) : Bool :=
  match o with
  | .next t => p t
  | _ => false

/-! ### WellFormed: an ill-formed term for each check -/

theorem test_wf_const : (Instr.add 1 2 0 16).problem = some .reserved ∧ (Instr.add 1 2 1 59).problem = some .badValue
    ∧ (Instr.add 1 2 1 58).problem = none := by decide +kernel
theorem test_wf_float : (Instr.fadd 1 2 0 16 0 0 0).problem = some .reserved ∧ (Instr.fadd 1 2 0 3 0 5 0).problem = some .badValue
    ∧ (Instr.fadd 1 2 1 63 0 4 0).problem = none := by decide +kernel
theorem test_wf_extend : (Instr.sext 1 2 3).problem = some .badValue ∧ (Instr.zext 1 2 3).problem = some .badValue := by decide +kernel
theorem test_wf_fcvt : (Instr.fcvt 1 2 1 1 0 0).problem = some .badValue ∧ (Instr.fcvt 1 2 2 3 0 0).problem = some .badValue
    ∧ (Instr.fcvt 1 2 6 0 0 0).problem = some .badValue ∧ (Instr.fcvt 1 2 0 1 5 0).problem = some .badValue := by decide +kernel
theorem test_wf_bitfield : (Instr.bfx 1 2 63 1).problem = some .badValue ∧ (Instr.bfi 1 2 63 0).problem = none := by decide +kernel
theorem test_wf_csr : (Instr.csrr 1 0x005).problem = some .badValue ∧ (Instr.csrw 1 2 0x10A).problem = some .badValue
    ∧ (Instr.csrr 1 0x109).problem = none := by decide +kernel
theorem test_wf_memory : (Instr.ldd 1 2 2 0 0 0).problem = some .badValue ∧ (Instr.std 1 2 1 0 0 0).problem = some .badValue
    ∧ (Instr.ldd 1 2 1 5 0 0).problem = some .badValue ∧ (Instr.ldq 3 2 0 0 0 0).problem = some .badPair
    ∧ (Instr.stq 3 2 0 0 0 0).problem = some .badPair := by decide +kernel
theorem test_wf_atomics : (Instr.amoadd 1 2 0 3 0 5 0).problem = some .badValue ∧ (Instr.redadd 2 0 3 1 0 0).problem = some .badValue
    ∧ (Instr.take 1 2 2 0).problem = some .badValue ∧ (Instr.put 1 2 1 0).problem = some .badValue
    ∧ (Instr.feinit 1 2 2 0).problem = some .reserved ∧ (Instr.fence 5).problem = some .badValue := by decide +kernel
theorem test_wf_range : (Instr.crdecl 1 2 3 5 0).problem = some .badValue ∧ (Instr.crdecl 1 2 3 0 3).problem = some .badValue := by decide +kernel
theorem test_wf_tile : (Instr.tadd 0 1 0 2 7 8 0).problem = some .badValue ∧ (Instr.tadd 0 1 0 2 7 0xE 1).problem = some .badValue
    ∧ (Instr.tshl 0 1 0 2 7 0xF).problem = some .badValue ∧ (Instr.tabs 0 1 7 1 0).problem = some .badValue
    ∧ (Instr.tbcast 0 1 0 7 2).problem = some .badValue ∧ (Instr.tgath 0 1 0 2 7 0).problem = some .badValue
    ∧ (Instr.trcp 0 1 7 0 0).problem = some .badValue ∧ (Instr.tnoise 0 1 7 0).problem = some .badValue
    ∧ (Instr.ttopk 0 1 0 7 8).problem = some .badValue := by decide +kernel
theorem test_wf_convert : (Instr.tcvt 0 1 0xD 7 0xD 0 0 0).problem = some .badValue ∧ (Instr.tcvt 1 2 0xD 7 0xF 0 0 0).problem = some .badGroup
    ∧ (Instr.tcvt 0 1 0xF 7 0xD 0 0 0).problem = some .badGroup ∧ (Instr.tcvt 0 2 0xF 7 0xD 0 0 5).problem = some .badValue
    ∧ (Instr.tqnt 0 1 0xD 7 7 1 1).problem = some .badValue ∧ (Instr.tqnt 0 1 8 7 6 0 0).problem = some .badValue
    ∧ (Instr.tdq 0 1 0xD 7 0xE 0 0).problem = some .badValue := by decide +kernel
theorem test_wf_matrix : (Instr.mma 0 0 0 12 0 0 0).problem = some .badValue ∧ (Instr.mmaz 0 0 0 0 0 3 0).problem = some .badValue
    ∧ (Instr.mma 0 1 0 0 0 0 7).problem = some .badGroup ∧ (Instr.wld 12 0 0).problem = some .badValue
    ∧ (Instr.wldh 12 0 0).problem = some .badValue ∧ (Instr.wclr 12).problem = some .badValue := by decide +kernel
theorem test_wf_acvt : (Instr.acvt 8 0xD 0 0 0).problem = some .badValue ∧ (Instr.acvt 1 0xF 0 0 0).problem = some .badGroup
    ∧ (Instr.acvt 0 7 0 0 0).problem = some .badValue ∧ (Instr.acvt 0 0xD 0 5 0).problem = some .badValue := by decide +kernel
theorem test_wf_engines : (Instr.copy 1 3 2 0 0).problem = some .badPair ∧ (Instr.copy 1 2 3 0 3).problem = some .badValue
    ∧ (Instr.copys 1 2 3 5 0).problem = some .badValue ∧ (Instr.hcfg 1 0).problem = some .badPair
    ∧ (Instr.rngget 1 2).problem = some .badPair ∧ (Instr.crd 1 0 2 0).problem = some .badPair ∧ (Instr.cstat 1 2).problem = some .badPair
    ∧ (Instr.crevoke 2 1).problem = some .badPair ∧ (Instr.sxstat 1 2).problem = some .badPair := by decide +kernel

/-! ### Decoding: a word of every instruction, its fields placed by hand in the encoding tables of chapter 10 -/

/-- R176, R196: ADD, SUB, MUL, MULH, MULHU, DIV, DIVU, REM, REMU, AND, OR, XOR, SHL, SHR, SHA, ROT. -/
theorem test_decode_alu_1 :
    decodeTableWord 32 0x81593000 = some (.add 10 12 1 12)
    ∧ decodeTableWord 32 0x80B17C01 = some (.sub 5 8 1 31)
    ∧ decodeTableWord 32 0x813D8002 = some (.mul 9 14 1 32)
    ∧ decodeTableWord 32 0x804F9C03 = some (.mulh 2 7 1 39)
    ∧ decodeTableWord 32 0x8085BC04 = some (.mulhu 4 2 1 47)
    ∧ decodeTableWord 32 0x81651405 = some (.div 11 2 1 5)
    ∧ decodeTableWord 32 0x804A3406 = some (.divu 2 5 0 13)
    ∧ decodeTableWord 32 0x804A0C07 = some (.rem 2 5 0 3)
    ∧ decodeTableWord 32 0x81235008 = some (.remu 9 1 1 20)
    ∧ decodeTableWord 32 0x806A3C09 = some (.and 3 5 0 15)
    ∧ decodeTableWord 32 0x813B5C0A = some (.or 9 13 1 23)
    ∧ decodeTableWord 32 0x8147400B = some (.xor 10 3 1 16)
    ∧ decodeTableWord 32 0x80BBB00C = some (.shl 5 13 1 44)
    ∧ decodeTableWord 32 0x8075280D = some (.shr 3 10 1 10)
    ∧ decodeTableWord 32 0x816D800E = some (.sha 11 6 1 32)
    ∧ decodeTableWord 32 0x819E180F = some (.rot 12 15 0 6) := by decide +kernel

/-- R176, R196: MIN, MAX, MINU, MAXU, SLT, SLTU, SEQ, CMOV, ADDW, SUBW, MADD, ADDX, CLZ, CTZ, POPC, BSWAP. -/
theorem test_decode_alu_2 :
    decodeTableWord 32 0x804A0C10 = some (.min 2 5 0 3)
    ∧ decodeTableWord 32 0x80BC3011 = some (.max 5 14 0 12)
    ∧ decodeTableWord 32 0x81235012 = some (.minu 9 1 1 20)
    ∧ decodeTableWord 32 0x80850413 = some (.maxu 4 2 1 1)
    ∧ decodeTableWord 32 0x80CBC814 = some (.slt 6 5 1 50)
    ∧ decodeTableWord 32 0x8055C015 = some (.sltu 2 10 1 48)
    ∧ decodeTableWord 32 0x805BA416 = some (.seq 2 13 1 41)
    ∧ decodeTableWord 32 0x80699C17 = some (.cmov 3 4 1 39)
    ∧ decodeTableWord 32 0x80297C18 = some (.addw 1 4 1 31)
    ∧ decodeTableWord 32 0x814D8419 = some (.subw 10 6 1 33)
    ∧ decodeTableWord 32 0x819FE01A = some (.madd 12 15 1 56)
    ∧ decodeTableWord 32 0x81B5B01E = some (.addx 13 10 1 44 2)
    ∧ decodeTableWord 32 0x81460020 = some (.clz 10 3)
    ∧ decodeTableWord 32 0x80340021 = some (.ctz 1 10)
    ∧ decodeTableWord 32 0x80FC0022 = some (.popc 7 14)
    ∧ decodeTableWord 32 0x809C0023 = some (.bswap 4 14) := by decide +kernel

/-- R176, R196: SEXT, ZEXT. -/
theorem test_decode_alu_3 :
    decodeTableWord 32 0x81380025 = some (.sext 9 12 1)
    ∧ decodeTableWord 32 0x8022002A = some (.zext 1 1 2) := by decide +kernel

/-- R177, R199 to R201: FADD, FSUB, FMUL, FFMA, FDIV, FSQRT, FMIN, FMAX, FCMP, FCVT, FCLASS, FSGNJ, FSGNJN, FSGNJX. -/
theorem test_decode_flt :
    decodeTableWord 32 0x82317013 = some (.fadd 1 8 1 28 1 1 1)
    ∧ decodeTableWord 32 0x83D15C39 = some (.fsub 14 8 1 23 1 4 1)
    ∧ decodeTableWord 32 0x82BC2C53 = some (.fmul 5 14 0 11 1 1 1)
    ∧ decodeTableWord 32 0x82833075 = some (.ffma 4 1 1 12 1 2 1)
    ∧ decodeTableWord 32 0x829B9895 = some (.fdiv 4 13 1 38 1 2 1)
    ∧ decodeTableWord 32 0x827800B3 = some (.fsqrt 3 12 1 1 1)
    ∧ decodeTableWord 32 0x831A2CD0 = some (.fmin 8 13 0 11 1)
    ∧ decodeTableWord 32 0x83EB44F0 = some (.fmax 15 5 1 17 1)
    ∧ decodeTableWord 32 0x835FDD14 = some (.fcmp 10 15 1 55 1 2)
    ∧ decodeTableWord 32 0x82642D23 = some (.fcvt 3 2 1 3 1 1)
    ∧ decodeTableWord 32 0x839A0150 = some (.fclass 12 13 1)
    ∧ decodeTableWord 32 0x8307F570 = some (.fsgnj 8 3 1 61 1)
    ∧ decodeTableWord 32 0x83EF5D90 = some (.fsgnjn 15 7 1 23 1)
    ∧ decodeTableWord 32 0x83DBE1B0 = some (.fsgnjx 14 13 1 56 1) := by decide +kernel

/-- R178, R172, R197, R198: ADDI, ANDI, ORI, XORI, SHLI, SHRI, SHAI, ROTI, BFX, BFI, LI, LIH, LIX, EXTI, EXTS. -/
theorem test_decode_imm :
    decodeTableWord 32 0x84D003C4 = some (.addi 6 8 964)
    ∧ decodeTableWord 32 0x871D5B26 = some (.andi 8 14 88870)
    ∧ decodeTableWord 32 0x89A5B87F = some (.ori 13 2 112767)
    ∧ decodeTableWord 32 0x8B1BC252 = some (.xori 8 13 115282)
    ∧ decodeTableWord 32 0x8D4C000D = some (.shli 10 6 13)
    ∧ decodeTableWord 32 0x8D2A006C = some (.shri 9 5 44)
    ∧ decodeTableWord 32 0x8C64008E = some (.shai 3 2 14)
    ∧ decodeTableWord 32 0x8C9400EE = some (.roti 4 10 46)
    ∧ decodeTableWord 32 0x8E4E0651 = some (.bfx 2 7 25 17)
    ∧ decodeTableWord 32 0x8F1D0651 = some (.bfi 8 14 25 17)
    ∧ decodeTableWord 32 0x90C3D362 = some (.li 6 250722)
    ∧ decodeTableWord 32 0x9393EA0A = some (.lih 12 1305098)
    ∧ decodeTableWord 32 0x953AB0EC = some (.lix 9 3 176364)
    ∧ decodeTableWord 32 0xF18576A5 = some (.exti 1 8746661)
    ∧ decodeTableWord 32 0xF7F1BF74 = some (.exts 3 15843188) := by decide +kernel

/-- R178, R179, R193, R211: CSRR, CSRW, CSRS, CSRC, NOP, TRAP, BRK, ERET, SLEEP, FENCE_I, QCFG, CXSAVE, CXLOAD. -/
theorem test_decode_csr :
    decodeTableWord 32 0x96A00001 = some (.csrr 5 1)
    ∧ decodeTableWord 32 0x96AC8002 = some (.csrw 5 6 2)
    ∧ decodeTableWord 32 0x967B0020 = some (.csrs 3 13 32)
    ∧ decodeTableWord 32 0x96DD8106 = some (.csrc 6 14 262)
    ∧ decodeTableWord 32 0xA8000000 = some .nop
    ∧ decodeTableWord 32 0xA8080001 = some (.trap 4)
    ∧ decodeTableWord 32 0xA8000002 = some .brk
    ∧ decodeTableWord 32 0xA8000003 = some .eret
    ∧ decodeTableWord 32 0xA81E0004 = some (.sleep 15)
    ∧ decodeTableWord 32 0xA8000005 = some .fenceI
    ∧ decodeTableWord 32 0xA80C0006 = some (.qcfg 6)
    ∧ decodeTableWord 32 0xA8040007 = some (.cxsave 2)
    ∧ decodeTableWord 32 0xA8180008 = some (.cxload 12) := by decide +kernel

/-- R167, R202: BEQ, BNE, BLT, BGE, BLTU, BGEU, JAL, JALR. -/
theorem test_decode_branch :
    decodeTableWord 32 0x99DB3877 = some (.beq 14 13 2 14455)
    ∧ decodeTableWord 32 0x9B3DAC75 = some (.bne 9 14 3 11381)
    ∧ decodeTableWord 32 0x9D47A5E1 = some (.blt 10 3 3 9697)
    ∧ decodeTableWord 32 0x9E27744E = some (.bge 1 3 2 29774)
    ∧ decodeTableWord 32 0xA0976472 = some (.bltu 4 11 2 25714)
    ∧ decodeTableWord 32 0xA3CCECD6 = some (.bgeu 14 6 1 27862)
    ∧ decodeTableWord 32 0xA57311B6 = some (.jal 11 1 201142)
    ∧ decodeTableWord 32 0xA7A60001 = some (.jalr 13 3 1) := by decide +kernel

/-- R163, R179, R222: LDB, LDBU, LDH, LDHU, LDW, LDWU, LDD, LDQ, STB, STH, STW, STD, STQ, LDX, STX. -/
theorem test_decode_load_store :
    decodeTableWord 32 0xABEC99C9 = some (.ldb 15 6 1 1 2 457)
    ∧ decodeTableWord 32 0xACFEAFB9 = some (.ldbu 7 15 1 2 3 953)
    ∧ decodeTableWord 32 0xAFB299D4 = some (.ldh 13 9 1 1 2 468)
    ∧ decodeTableWord 32 0xB03EA581 = some (.ldhu 1 15 1 2 1 385)
    ∧ decodeTableWord 32 0xB2BECE95 = some (.ldw 5 15 1 4 3 661)
    ∧ decodeTableWord 32 0xB4449D0B = some (.ldwu 2 2 1 1 3 267)
    ∧ decodeTableWord 32 0xB790AEAC = some (.ldd 12 8 1 2 3 684)
    ∧ decodeTableWord 32 0xB844ABDD = some (.ldq 2 2 1 2 2 989)
    ∧ decodeTableWord 32 0xBB6526C5 = some (.stb 11 2 2 2 1 709)
    ∧ decodeTableWord 32 0xBDEF3F99 = some (.sth 15 7 2 3 3 921)
    ∧ decodeTableWord 32 0xBED54915 = some (.stw 6 10 2 4 2 277)
    ∧ decodeTableWord 32 0xC0CB3F90 = some (.std 6 5 2 3 3 912)
    ∧ decodeTableWord 32 0xC3573AF0 = some (.stq 10 11 2 3 2 752)
    ∧ decodeTableWord 32 0xC4701800 = some (.ldx 3 8 6)
    ∧ decodeTableWord 32 0xC4741401 = some (.stx 3 10 5) := by decide +kernel

/-- R180, R226, R227: AMOADD, AMOAND, AMOOR, AMOXOR, AMOMIN, AMOMAX, AMOMINU, AMOMAXU, AMOSWAP, CAS, REDADD, REDMIN, REDMAX, REDFADD. -/
theorem test_decode_amo :
    decodeTableWord 32 0xC6482E30 = some (.amoadd 2 4 0 11 2 1 1)
    ∧ decodeTableWord 32 0xC65D7F71 = some (.amoand 2 14 1 31 3 3 1)
    ∧ decodeTableWord 32 0xC7880732 = some (.amoor 12 4 0 1 3 1 1)
    ∧ decodeTableWord 32 0xC7762D73 = some (.amoxor 11 11 0 11 1 3 1)
    ∧ decodeTableWord 32 0xC7739E34 = some (.amomin 11 9 1 39 2 1 1)
    ∧ decodeTableWord 32 0xC6EB6B75 = some (.amomax 7 5 1 26 3 3 1)
    ∧ decodeTableWord 32 0xC77B1E56 = some (.amominu 11 13 1 7 2 2 1)
    ∧ decodeTableWord 32 0xC76D9B77 = some (.amomaxu 11 6 1 38 3 3 1)
    ∧ decodeTableWord 32 0xC76D9B78 = some (.amoswap 11 6 1 38 3 3 1)
    ∧ decodeTableWord 32 0xC6F02639 = some (.cas 7 8 0 9 2 1 1)
    ∧ decodeTableWord 32 0xC60F765A = some (.redadd 7 1 29 2 2 1)
    ∧ decodeTableWord 32 0xC6080A5B = some (.redmin 4 0 2 2 2 1)
    ∧ decodeTableWord 32 0xC6179E3C = some (.redmax 11 1 39 2 1 1)
    ∧ decodeTableWord 32 0xC60E263D = some (.redfadd 7 9 2 1 1) := by decide +kernel

/-- R180, R231, R234 to R238: TAKE, PUT, PEEK, FEINIT, FENCE, PREF, RFLUSH, RINV, RETAIN, UNRETAIN, CRDECL, CRCLR, WAITA. -/
theorem test_decode_fe_mctl :
    decodeTableWord 32 0xC8640160 = some (.take 3 2 1 3)
    ∧ decodeTableWord 32 0xC8082E21 = some (.put 4 11 2 1)
    ∧ decodeTableWord 32 0xC8640162 = some (.peek 3 2 1 3)
    ∧ decodeTableWord 32 0xC80E3C07 = some (.feinit 7 15 0 1)
    ∧ decodeTableWord 32 0xCA00000C = some (.fence 3)
    ∧ decodeTableWord 32 0xCA063420 = some (.pref 3 13)
    ∧ decodeTableWord 32 0xCA1E1440 = some (.rflush 15 5)
    ∧ decodeTableWord 32 0xCA0A1C60 = some (.rinv 5 7)
    ∧ decodeTableWord 32 0xCBB01C80 = some (.retain 13 8 7)
    ∧ decodeTableWord 32 0xCA1E00A0 = some (.unretain 15)
    ∧ decodeTableWord 32 0xCA8204CA = some (.crdecl 4 1 1 2 2)
    ∧ decodeTableWord 32 0xCA1200E0 = some (.crclr 9)
    ∧ decodeTableWord 32 0xCB340D00 = some (.waita 9 10 3) := by decide +kernel

/-- R181, R246, R252: TLD, TST, TLDS, TSTS, TDLD, TDST, TFILL, TEXTR, TINS. -/
theorem test_decode_tmem :
    decodeTableWord 32 0xCC284640 = some (.tld 1 66 3 1)
    ∧ decodeTableWord 32 0xCCF58581 = some (.tst 7 172 2 6)
    ∧ decodeTableWord 32 0xCC4016C2 = some (.tlds 2 11 3)
    ∧ decodeTableWord 32 0xCC600FC3 = some (.tsts 3 7 7)
    ∧ decodeTableWord 32 0xCC16C604 = some (.tdld 182 3)
    ∧ decodeTableWord 32 0xCC094E05 = some (.tdst 74 7)
    ∧ decodeTableWord 32 0xCCAA02C6 = some (.tfill 5 5 1 3)
    ∧ decodeTableWord 32 0xCCDDC407 = some (.textr 6 14 14 2)
    ∧ decodeTableWord 32 0xCC559E08 = some (.tins 2 10 12 15) := by decide +kernel

/-- R182, R256 to R265: TMOV, TZERO, TADD, TSUB, TMUL, TFMA, TMIN, TMAX, TABS, TNEG, TRCP, TRSQ, TEXP2, TLOG2, TTANH, TCMP. -/
theorem test_decode_top_1 :
    decodeTableWord 32 0xCFE81000 = some (.tmov 7 5 1)
    ∧ decodeTableWord 32 0xCEC06001 = some (.tzero 3 6)
    ∧ decodeTableWord 32 0xCEDFCF88 = some (.tadd 3 3 1 7 4 15 1)
    ∧ decodeTableWord 32 0xCFADCF89 = some (.tsub 6 5 1 3 4 15 1)
    ∧ decodeTableWord 32 0xCFF73F8A = some (.tmul 7 6 1 6 3 15 1)
    ∧ decodeTableWord 32 0xCE9ACD0B = some (.tfma 2 3 0 5 4 13 0)
    ∧ decodeTableWord 32 0xCF26DF8C = some (.tmin 4 4 1 5 5 15 1)
    ∧ decodeTableWord 32 0xCEAFBF8D = some (.tmax 2 5 1 7 3 15 1)
    ∧ decodeTableWord 32 0xCF786F8E = some (.tabs 5 7 6 15 1)
    ∧ decodeTableWord 32 0xCFA07F8F = some (.tneg 6 4 7 15 1)
    ∧ decodeTableWord 32 0xCE683F90 = some (.trcp 1 5 3 15 1)
    ∧ decodeTableWord 32 0xCE986E11 = some (.trsq 2 3 6 14 0)
    ∧ decodeTableWord 32 0xCFA01F92 = some (.texp2 6 4 1 15 1)
    ∧ decodeTableWord 32 0xCF381F93 = some (.tlog2 4 7 1 15 1)
    ∧ decodeTableWord 32 0xCEB04F94 = some (.ttanh 2 6 4 15 1)
    ∧ decodeTableWord 32 0xCFCD6F9B = some (.tcmp 7 1 1 2 6 15 1 3) := by decide +kernel

/-- R182, R256 to R265: TSEL, TAND, TOR, TXOR, TNOT, TSHL, TSHR, TCVT, TQNT, TDQ, TRED, TSCAN, TBCAST, TTRN, TPERM, TGATH. -/
theorem test_decode_top_2 :
    decodeTableWord 32 0xCF26DF9C = some (.tsel 4 4 1 5 5 15 1)
    ∧ decodeTableWord 32 0xCE8F5020 = some (.tand 2 1 1 6 5)
    ∧ decodeTableWord 32 0xCFBCB021 = some (.tor 6 7 1 1 3)
    ∧ decodeTableWord 32 0xCF3FE022 = some (.txor 4 7 1 7 6)
    ∧ decodeTableWord 32 0xCE682023 = some (.tnot 1 5 2)
    ∧ decodeTableWord 32 0xCEE7F524 = some (.tshl 3 4 1 7 7 5)
    ∧ decodeTableWord 32 0xCF5E9125 = some (.tshr 5 3 1 5 1 1)
    ∧ decodeTableWord 32 0xCEAEEE31 = some (.tcvt 2 5 13 6 14 0 0 1)
    ∧ decodeTableWord 32 0xCE8F164B = some (.tqnt 2 1 14 1 6 1 3)
    ∧ decodeTableWord 32 0xCF55EE5B = some (.tdq 5 2 11 6 14 1 3)
    ∧ decodeTableWord 32 0xCF183FE1 = some (.tred 4 3 3 15 1 1)
    ∧ decodeTableWord 32 0xCED81FE4 = some (.tscan 3 3 1 15 1)
    ∧ decodeTableWord 32 0xCF189865 = some (.tbcast 4 3 1 1 8)
    ∧ decodeTableWord 32 0xCE687B66 = some (.ttrn 1 5 11)
    ∧ decodeTableWord 32 0xCEF4C167 = some (.tperm 3 6 1 1 4 1)
    ∧ decodeTableWord 32 0xCFED5E68 = some (.tgath 7 5 1 2 5 14) := by decide +kernel

/-- R182, R256 to R265: TSCAT, TTOPK, TNOISE. -/
theorem test_decode_top_3 :
    decodeTableWord 32 0xCE4FDD69 = some (.tscat 1 1 1 7 5 13)
    ∧ decodeTableWord 32 0xCFB9FD6A = some (.ttopk 6 7 3 7 13)
    ∧ decodeTableWord 32 0xCE784F6B = some (.tnoise 1 7 4 15) := by decide +kernel

/-- R181, R183, R270, R273, R276: MMA, MMAZ, WLD, WLDH, WCLR, APROM, ACLR, AMOV, AADD, ALD, AST, ACVT, AEPI, MSTAT. -/
theorem test_decode_mx :
    decodeTableWord 32 0xD17BD5A0 = some (.mma 2 7 1 7 10 2 13)
    ∧ decodeTableWord 32 0xD0AD5281 = some (.mmaz 1 2 1 10 10 1 4)
    ∧ decodeTableWord 32 0xD2F76E00 = some (.wld 7 187 7)
    ∧ decodeTableWord 32 0xD2E6A001 = some (.wldh 7 3 5)
    ∧ decodeTableWord 32 0xD2400002 = some (.wclr 2)
    ∧ decodeTableWord 32 0xD2200003 = some (.aprom 1)
    ∧ decodeTableWord 32 0xD2400004 = some (.aclr 2)
    ∧ decodeTableWord 32 0xD2600605 = some (.amov 3 3)
    ∧ decodeTableWord 32 0xD2200406 = some (.aadd 1 2)
    ∧ decodeTableWord 32 0xD2400807 = some (.ald 2 4)
    ∧ decodeTableWord 32 0xD2201008 = some (.ast 1 8)
    ∧ decodeTableWord 32 0xD2CD2409 = some (.acvt 6 6 1 1 2)
    ∧ decodeTableWord 32 0xD25C360A = some (.aepi 2 225 11)
    ∧ decodeTableWord 32 0xD240020B = some (.mstat 2 1) := by decide +kernel

/-- R184, R285 to R294: COPY, COPYS, JWAIT, JPOLL, SUBSCR, UNSUB, SPUB, HCFG, HWAIT, HADVC, HADVP. -/
theorem test_decode_eng :
    decodeTableWord 32 0xD485D020 = some (.copy 4 2 14 4 1)
    ∧ decodeTableWord 32 0xD45433C1 = some (.copys 2 10 1 4 30)
    ∧ decodeTableWord 32 0xD4860002 = some (.jwait 4 3)
    ∧ decodeTableWord 32 0xD58E0003 = some (.jpoll 12 7)
    ∧ decodeTableWord 32 0xD5384004 = some (.subscr 9 12 2)
    ∧ decodeTableWord 32 0xD54A6005 = some (.unsub 10 5 3)
    ∧ decodeTableWord 32 0xD402A006 = some (.spub 1 5)
    ∧ decodeTableWord 32 0xD404E007 = some (.hcfg 2 7)
    ∧ decodeTableWord 32 0xD49C4008 = some (.hwait 4 14 2)
    ∧ decodeTableWord 32 0xD5C42009 = some (.hadvc 14 2 1)
    ∧ decodeTableWord 32 0xD524800A = some (.hadvp 9 2 4) := by decide +kernel

/-- R184, R297 to R307: BINIT, BARV, BEXP, BWAIT, BINV, WBARA, WBARW, WBMASK, RNGINIT, RNGGET, SPAWN, JOIN, EVPOST, TREELD. -/
theorem test_decode_sync :
    decodeTableWord 32 0xD7346000 = some (.binit 9 10 3)
    ∧ decodeTableWord 32 0xD6266001 = some (.barv 1 3 3)
    ∧ decodeTableWord 32 0xD6E72002 = some (.bexp 7 3 9)
    ∧ decodeTableWord 32 0xD78A2003 = some (.bwait 12 5 1)
    ∧ decodeTableWord 32 0xD6E60004 = some (.binv 7 3)
    ∧ decodeTableWord 32 0xD6432005 = some (.wbara 2 1 9)
    ∧ decodeTableWord 32 0xD71E6006 = some (.wbarw 8 15 3)
    ∧ decodeTableWord 32 0xD60E0007 = some (.wbmask 7)
    ∧ decodeTableWord 32 0xD6040008 = some (.rnginit 2)
    ∧ decodeTableWord 32 0xD7060009 = some (.rngget 8 3)
    ∧ decodeTableWord 32 0xD65A200A = some (.spawn 2 13 1)
    ∧ decodeTableWord 32 0xD74C000B = some (.join 10 6)
    ∧ decodeTableWord 32 0xD76CE00C = some (.evpost 11 6 7)
    ∧ decodeTableWord 32 0xD6E3200D = some (.treeld 7 1 9) := by decide +kernel

/-- R184, R310: CBIND, CEDIT, CUNBIND, CWOPEN, CWPUB, CAPPEND, VOPEN, VCLOSE, CRD, CFENCE, CSTAT, CREVOKE. -/
theorem test_decode_sheet :
    decodeTableWord 32 0xD9401A00 = some (.cbind 10 13)
    ∧ decodeTableWord 32 0xD9C00801 = some (.cedit 14 4)
    ∧ decodeTableWord 32 0xD9801E02 = some (.cunbind 12 15)
    ∧ decodeTableWord 32 0xD84FB803 = some (.cwopen 2 125 12)
    ∧ decodeTableWord 32 0xD9800E24 = some (.cwpub 12 7 1)
    ∧ decodeTableWord 32 0xD9C1A605 = some (.cappend 14 13 3)
    ∧ decodeTableWord 32 0xD8C01606 = some (.vopen 6 11)
    ∧ decodeTableWord 32 0xD8400107 = some (.vclose 2 8)
    ∧ decodeTableWord 32 0xD9010368 = some (.crd 8 8 1 11)
    ∧ decodeTableWord 32 0xD8E01469 = some (.cfence 7 10 3)
    ∧ decodeTableWord 32 0xD880060A = some (.cstat 4 3)
    ∧ decodeTableWord 32 0xD8A0180B = some (.crevoke 5 12) := by decide +kernel

/-- R184, R325, R332: SXOPEN, SXAPP, SXQRY, SXSAVE, SXLOAD, SXFREE, SXSTAT, RBEGIN, REND, RABORT, CLKREQ. -/
theorem test_decode_suffix_rgn :
    decodeTableWord 32 0xDB5E0000 = some (.sxopen 10 15)
    ∧ decodeTableWord 32 0xDB0C8001 = some (.sxapp 8 6 4)
    ∧ decodeTableWord 32 0xDAFF4002 = some (.sxqry 7 15 10)
    ∧ decodeTableWord 32 0xDB950003 = some (.sxsave 12 10 8)
    ∧ decodeTableWord 32 0xDBA18004 = some (.sxload 13 12)
    ∧ decodeTableWord 32 0xDB760005 = some (.sxfree 11 11)
    ∧ decodeTableWord 32 0xDADE0006 = some (.sxstat 6 15)
    ∧ decodeTableWord 32 0xDC170020 = some (.rbegin 11 8 1)
    ∧ decodeTableWord 32 0xDC000001 = some .rend
    ∧ decodeTableWord 32 0xDC000002 = some .rabort
    ∧ decodeTableWord 32 0xDCA80003 = some (.clkreq 5 4) := by decide +kernel

/-- R175: NOP_16, ADD_16, SUB_16, AND_16, OR_16, XOR_16, SHL_16, SHR_16, SHA_16, ADDI_16, LI_16, SHLI_16, SHRI_16, SHAI_16, LDW_16, STW_16. -/
theorem test_decode_short_1 :
    decodeTableWord 16 0x0400 = some .nop16
    ∧ decodeTableWord 16 0x0AEC = some (.add16 11 11)
    ∧ decodeTableWord 16 0x0A39 = some (.sub16 8 14)
    ∧ decodeTableWord 16 0x099A = some (.and16 6 6)
    ∧ decodeTableWord 16 0x092F = some (.or16 4 11)
    ∧ decodeTableWord 16 0x0DFC = some (.xor16 7 15)
    ∧ decodeTableWord 16 0x0F0D = some (.shl16 12 3)
    ∧ decodeTableWord 16 0x0C86 = some (.shr16 2 1)
    ∧ decodeTableWord 16 0x0F5B = some (.sha16 13 6)
    ∧ decodeTableWord 16 0x1301 = some (.addi16 12 1)
    ∧ decodeTableWord 16 0x1595 = some (.li16 6 21)
    ∧ decodeTableWord 16 0x1A6D = some (.shli16 9 45)
    ∧ decodeTableWord 16 0x1DC1 = some (.shri16 7 1)
    ∧ decodeTableWord 16 0x20F3 = some (.shai16 3 51)
    ∧ decodeTableWord 16 0x270E = some (.ldw16 12 3 2)
    ∧ decodeTableWord 16 0x2B12 = some (.stw16 12 4 2) := by decide +kernel

/-- R175: LDD_16, STD_16, BEQZ, BNEZ, JALR_16. -/
theorem test_decode_short_2 :
    decodeTableWord 16 0x2FA6 = some (.ldd16 14 9 2)
    ∧ decodeTableWord 16 0x31D6 = some (.std16 7 5 2)
    ∧ decodeTableWord 16 0x35F9 = some (.beqz 7 14 1)
    ∧ decodeTableWord 16 0x39CF = some (.bnez 7 3 3)
    ∧ decodeTableWord 16 0x3DFD = some (.jalr16 7 15 1) := by decide +kernel

/-! ### Integer, floating and control instructions -/

/-- Every pair of registers, and the last register with a constant at the end of the table, are read and written at once. -/
theorem witness_AluOfTwoOperands :
    (∀ d a : Fin 16, core0.readsOk (a.val :: regsB 0 15) = true ∧ (core0.afterReads (a.val :: regsB 0 15)).writable d.val = true)
    ∧ core0.readsOk (15 :: regsB 1 58) = true ∧ core0.readsOk [15, 0] = true ∧ (core0.afterReads [15, 0]).writable 15 = true := by
  decide +kernel
/-- A queue as operand A and as destination. -/
theorem witness_AluOfTwoOperands_queue :
    let c := { core0 with qcfg := 1, queues := vset core0.queues 0 [5] }
    c.readsOk [12, 3] = true ∧ (c.afterReads [12, 3]).writable 12 = true ∧ c.valueOf 12 = 5 := by decide +kernel
theorem test_alu_results :
    let s := on (regs [(5, 7), (6, -2)])
    answers (exec (.sub 4 5 0 6) s) (fun t => t.core.valueOf 4 == 9 && t.core.pc == 4 && t.core.instret == 1) = true
    ∧ answers (exec (.mulh 4 5 0 6) s) (fun t => t.core.valueOf 4 == -1) = true
    ∧ answers (exec (.mulhu 4 5 0 6) s) (fun t => t.core.valueOf 4 == 6) = true
    ∧ answers (exec (.div 4 6 0 5) s) (fun t => t.core.valueOf 4 == 0) = true
    ∧ answers (exec (.rem 4 6 0 5) s) (fun t => t.core.valueOf 4 == -2) = true
    ∧ answers (exec (.sltu 4 5 0 6) s) (fun t => t.core.valueOf 4 == 1) = true
    ∧ answers (exec (.slt 4 5 0 6) s) (fun t => t.core.valueOf 4 == 0) = true
    ∧ answers (exec (.sha 4 6 0 5) s) (fun t => t.core.valueOf 4 == -1) = true
    ∧ answers (exec (.add 0 5 0 6) s) (fun t => t.core.valueOf 0 == 0 && t.core.pc == 4) = true := by decide +kernel

theorem witness_AluOfThreeOperands :
    let c := regs [(1, 3), (2, 5)]
    c.readsOk [1, 2, 3] = true ∧ (c.afterReads [1, 2, 3]).writable 3 = true ∧ c.valueB 0 2 ≠ 0 ∧ c.valueB 0 0 = 0 ∧ c.readsOk [1, 0, 3] = true := by
  decide +kernel
theorem test_three_operands :
    let s := on (regs [(1, 3), (2, 5), (3, 0xF0)])
    answers (exec (.madd 3 1 0 2) s) (fun t => t.core.valueOf 3 == 0xFF) = true
    ∧ answers (exec (.cmov 3 1 0 0) s) (fun t => t.core.valueOf 3 == 0xF0) = true
    ∧ answers (exec (.cmov 12 1 0 0) (on { core0 with qcfg := 1, queues := vset core0.queues 0 [5] })) (fun t => vget t.core.queues [1] 0 == []) = true
    ∧ answers (exec (.bfi 3 1 1 4) s) (fun t => t.core.valueOf 3 == 0xF0) = true
    ∧ answers (exec (.bfi 3 2 1 4) s) (fun t => t.core.valueOf 3 == 0xD0) = true := by decide +kernel

theorem witness_AluOfOneOperand : (∀ d a : Fin 16, core0.readable a.val = true ∧ (core0.popped a.val).writable d.val = true)
    ∧ core0.readsOk [1, 3] = true ∧ (core0.afterReads [1, 3]).writable 3 = true
    ∧ (63 : BitVec 6).toNat + (0 : BitVec 6).toNat < 64 ∧ (0 : BitVec 6).toNat + (63 : BitVec 6).toNat < 64 := by decide +kernel
theorem test_one_operand :
    let s := on (regs [(5, 0x00FF00000000FF80)])
    answers (exec (.clz 4 5) s) (fun t => t.core.valueOf 4 == 8) = true
    ∧ answers (exec (.ctz 4 5) s) (fun t => t.core.valueOf 4 == 7) = true
    ∧ answers (exec (.popc 4 5) s) (fun t => t.core.valueOf 4 == 17) = true
    ∧ answers (exec (.bswap 4 5) s) (fun t => t.core.valueOf 4 == 0x80FF00000000FF00) = true
    ∧ answers (exec (.sext 4 5 0) s) (fun t => t.core.valueOf 4 == -128) = true
    ∧ answers (exec (.bfx 4 5 7 8) s) (fun t => t.core.valueOf 4 == 0xFF) = true
    ∧ answers (exec (.clz 4 0) s) (fun t => t.core.valueOf 4 == 64) = true := by decide +kernel

theorem witness_ConstantsAndNop : (∀ d : Fin 16, core0.writable d.val = true) ∧ (∀ e : Fin 4, core0.poison.contains (0, 16 + e.val) = false) := by
  decide +kernel
theorem test_constants :
    answers (exec (.li 4 0x100000) (on core0)) (fun t => t.core.valueOf 4 == BitVec.ofInt 64 (-1048576)) = true
    ∧ answers (exec (.lih 4 1) (on core0)) (fun t => t.core.valueOf 4 == 131072) = true
    ∧ answers (exec (.exts 1 0x456789) (on { core0 with ext := vset core0.ext 1 1 })) (fun t => vget t.core.ext 0 1 == 0x1456789) = true
    ∧ answers (exec (.lix 4 1 0x7FFFF) (on { core0 with ext := vset core0.ext 1 1 })) (fun t => t.core.valueOf 4 == 0) = true := by
  decide +kernel

theorem witness_DivisionCorners :
    let c := regs [(1, BitVec.intMin 64), (2, BitVec.allOnes 64)]
    c.readsOk [1, 2] = true ∧ (c.afterReads [1, 2]).writable 15 = true ∧ c.valueOf 1 = BitVec.intMin 64
      ∧ (c.popped 1).valueOf 2 = BitVec.allOnes 64 ∧ (c.popped 1).valueOf 0 = 0 := by decide +kernel

theorem witness_FloatRounded : modeClean core0 4 = true ∧ modeClean { core0 with poison := [(0, 4096)] } 7 = true ∧
    core0.readsOk (1 :: regsB 1 63 ++ [2]) = true ∧ (core0.afterReads (1 :: regsB 1 63 ++ [2])).writable 2 = true
      ∧ core0.readsOk (1 :: regsB 0 15 ++ [2]) = true ∧ (core0.popped 1).writable 15 = true := by decide +kernel
theorem test_float_results :
    let s := on (regs [(1, 0x3F800000), (2, 0x40400000), (3, 0x7F800000)])
    answers (exec (.fadd 4 1 0 2 0 0 0) s) (fun t => t.core.valueOf 4 == 0x40800000 && t.core.status == core0.status) = true
    ∧ answers (exec (.fdiv 4 1 0 2 0 0 0) s) (fun t => t.core.valueOf 4 == 0x3EAAAAAB && t.core.status != core0.status) = true
    ∧ answers (exec (.fdiv 4 1 0 0 0 0 0) s) (fun t => t.core.valueOf 4 == 0x7F800000) = true
    ∧ answers (exec (.fsqrt 4 2 0 0 0) s) (fun t => t.core.valueOf 4 == 0x3FDDB3D7) = true
    ∧ answers (exec (.ffma 3 1 0 2 0 0 0) (on (regs [(1, 0x3F800000), (2, 0x40400000), (3, 0x3F800000)])))
        (fun t => t.core.valueOf 3 == 0x40800000) = true := by decide +kernel

theorem witness_FloatBits : core0.readsOk (1 :: regsB 0 2) = true ∧ (core0.afterReads (1 :: regsB 0 2)).writable 3 = true
    ∧ core0.readsOk (1 :: regsB 1 63) = true := by decide +kernel
theorem witness_FloatConverts : modeClean core0 4 = true ∧ core0.readable 15 = true ∧ (core0.popped 15).writable 15 = true := by decide +kernel

theorem witness_Branches : core0.readsOk [14, 15] = true ∧ core0.readable 0 = true := by decide +kernel
/-- BNE.ANT of the worked encodings at 0x100, taken: its target 0xF0 is behind the queue, and its slots are annulled. -/
theorem test_branch_taken :
    answers (exec (.bne 4 9 1 0x7FF8) (on { regs [(4, 1)] with pc := 0x100 }))
      (fun t => t.core.tq == [{ target := 0xF0, count := 2 }] && t.core.an == 2 && t.core.pc == 0x104) = true
    ∧ answers (exec (.bne 4 9 1 0x7FF8) (on { core0 with pc := 0x100 })) (fun t => t.core.tq == [] && t.core.an == 0) = true := by
  decide +kernel

theorem witness_Jumps :
    let s := on { core0 with pc := 0x100 }
    let r := on { regs [(2, 0x200)] with pc := 0x100 }
    (given (linkAddr s 4 s) (fun l t => l == 0x108 && t.core.writable 1) = true)
    ∧ (given (linkAddr r 2 (r.popped 2)) (fun l t => l == 0x106 && t.core.writable 1) = true)
    ∧ core0.readable 2 = true ∧ (regs [(2, 0x200)]).valueOf 2 = 0x200 ∧ ((regs [(2, 0x201)]).valueOf 2).toNat % 2 = 1 := by decide +kernel
theorem test_jump_odd :
    answers (exec (.jalr 1 2 0) (on { regs [(2, 0x201)] with tvec := 0x4000 }))
      (fun t => t.core.tcause == 0 && t.core.tval == 0x201 && t.core.pc == 0x4000 && t.core.valueOf 1 == 0) = true := by decide +kernel

theorem witness_ControlRegisters :
    csrAllowed core0 0x000 = true ∧ csrAllowed core0 0x109 = true ∧ csrAllowed (inUser core0) 0x004 = true
    ∧ core0.writable 4 = true ∧ (on core0).core.twin = none ∧ csrAllowed (on core0).terminated.core 0x003 = true
    ∧ (on core0).terminated.core.readable 5 = true ∧ (putCsr ((on core0).terminated.popped 5) 0 0x003 1 0).core.writable 4 = true := by
  decide +kernel
theorem test_csr :
    let s := on (regs [(5, 0xF)])
    answers (exec (.csrw 4 5 0x108) s) (fun t => t.core.tscratch == 0xF && t.core.valueOf 4 == 0) = true
    ∧ answers (exec (.csrs 4 5 0x001) (on { regs [(5, 5)] with evstat := 7 })) (fun t => t.core.evstat == 2 && t.core.valueOf 4 == 7) = true := by
  decide +kernel

theorem witness_SystemInstructions :
    let s := on (regs [(1, 1)])
    (s.core.twin = none ∧ s.terminated.core.readable 1 = true ∧ s.terminated.core.tvecBad = false
      ∧ s.terminated.core.poison.contains (0, 4096 + 0x001) = false ∧ s.terminated.core.tq = [] ∧ qcfgOk 0 = true
      ∧ (∀ r : Fin 16, s.terminated.core.pendingReg r.val = false))
    ∧ (on { regs [(1, 1)] with evstat := 1 }).terminated.core.evstat &&& 1 &&& 7 ≠ 0 := by decide +kernel
theorem test_trap :
    answers (exec (.trap 1) (on { inUser (regs [(1, 9)]) with pc := 0x100, tvec := 0x4000 }))
      (fun t => t.core.tcause == 8 && t.core.tval == 9 && t.core.tepc == 0x104 && t.core.supervisor && t.core.pc == 0x4000) = true
    ∧ answers (exec .brk (on { core0 with pc := 0x100, tvec := 0x4000 }))
      (fun t => t.core.tcause == 3 && t.core.tval == 0x100 && t.core.tepc == 0x100) = true := by decide +kernel

/-- A consistent and an inconsistent TBQ, a user core, and a core with a pending transfer. -/
theorem witness_ReturnFromTrap :
    core0.supervisor = true ∧ (∀ n ∈ [0x000, 0x101, 0x104, 0x105, 0x106], core0.poison.contains (0, 4096 + n) = false)
    ∧ (core0.tq.isEmpty && core0.an == 0 && core0.region.isNone) = true ∧ tbqConsistent core0.tbq = true
    ∧ tbqConsistent (1 + 4 * 2) = true ∧ tbqConsistent 3 = false ∧ (inUser core0).supervisor = false
    ∧ (!(({ core0 with an := 1 } : Core).tq.isEmpty && ({ core0 with an := 1 } : Core).an == 0 && core0.region.isNone)) = true := by
  decide +kernel
theorem test_eret :
    answers (exec .eret (on { core0 with tepc := 0x300, tbq := 1 + 4 * 2 + 64, tbt0 := 0x500, tvec := 0x4000 }))
      (fun t => t.core.pc == 0x300 && t.core.tq == [{ target := 0x500, count := 2 }] && t.core.an == 1 && !t.core.supervisor) = true
    ∧ answers (exec .eret (on { core0 with an := 1, tbq := 3, tvec := 0x4000 })) (fun t => t.core.tval.toNat / 2 ^ 40 % 256 == 2) = true
    ∧ answers (exec .eret (on { core0 with an := 1, tvec := 0x4000 })) (fun t => t.core.tval.toNat / 2 ^ 40 % 256 == 7) = true := by
  decide +kernel

theorem witness_TrapEntry : core0.region = none ∧ core0.tvecBad = false ∧ (0x4003 : Word).toNat / 4 ≠ 0 ∧ (4 : Word).toNat / 4 ≠ 0 := by decide +kernel

/-! ### Loads, stores, atomics and the memory-control instructions -/

/-- A pointer to an offset of another core's A buffer (R216). -/
def farPtr (k off : Nat) : Word := BitVec.ofNat 64 (2 ^ 62 + dieOf k * 2 ^ 54 + xOf k * 2 ^ 48 + yOf k * 2 ^ 41 + 2 ^ 17 + off)
/-- That core and its neighbour in the herd, which is in the same team. -/
def on2 (c : Core) : State := { State.reset with cores := [(0, c), (1, core0)] }
/-- An access's load may go on (as `loadOpen` says it). -/
def mayGo (s : State) (dst : LoadDst) (pl : Place) (size : Nat) (ea : Word) : Bool :=
  !s.core.acquirePending && given (dst.free s) (fun _ t => t == s) && given (windowRead pl size ea s) (fun _ t => t == s)
/-- Every form of a load with the registers 4 (and 5), 1 and 0 meets a condition. -/
noncomputable def eachLoad (s : State) (ok : Access × LoadDst → Place × Policy → State → Bool) : Bool :=
  (loadForms s.core 4 1 0 0 0 0 0 0).all (fun p => s.core.readsOk p.1.regs
    && given (checkAccess .load p.1.ea p.1.size p.1.pol (s.afterReads p.1.regs)) (fun pl t => mayGo t p.2 pl.1 p.1.size p.1.ea && ok p pl t))
/-- Every form of a store does. -/
noncomputable def eachStore (s : State) (ok : Access × Nat → Place × Policy → State → Bool) : Bool :=
  (storeForms s.core 4 1 0 0 0 0 0 0).all (fun p => s.core.readsOk p.1.regs
    && given (checkAccess .store p.1.ea p.1.size p.1.pol (s.afterReads p.1.regs)) (fun pl t => ok p pl t))

/-- Every form of a load, from the first block of the A buffer and from the last of the C buffer. -/
theorem witness_LoadsFromOwnBuffers :
    eachLoad (on (regs [(1, ownPtr 1 0)])) (fun p pl t => pl.1.space == .bufA && pl.1.key == t.cur && poisonAt t pl.1 p.1.size == none) = true
    ∧ eachLoad (on (regs [(1, ownPtr 2 0x7FF0)]))
      (fun p pl t => pl.1.space == .bufC && pl.1.key == t.cur && poisonAt t pl.1 p.1.size == none) = true := by decide +kernel
theorem test_loads :
    let s := on { regs [(1, ownPtr 1 8)] with bufA := [(8, 0x80), (9, 0xFF), (16, 0x7F)] }
    answers (exec (.ldb 4 1 0 0 0 0) s) (fun t => t.core.valueOf 4 == BitVec.ofInt 64 (-128)) = true
    ∧ answers (exec (.ldbu 4 1 0 0 0 0) s) (fun t => t.core.valueOf 4 == 0x80) = true
    ∧ answers (exec (.ldd 4 1 0 0 0 1) s) (fun t => t.core.valueOf 4 == 0x7F) = true
    ∧ answers (exec (.ldd 4 1 0 0 0 0x3FF) s) (fun t => t.core.valueOf 4 == 0) = true
    ∧ answers (exec (.ldw 4 1 0 0 0 0) (on (regs [(1, 0x1002)]))) (fun t => t.core.tcause == 4 && t.core.tval == 0x1002) = true := by
  decide +kernel

theorem witness_LoadsJoinTheLoadPath :
    eachLoad (on (regs [(1, 0x1000)])) (fun p pl t => pl.1.space == .mem && (forwarded t.core pl.1 p.1.size).length != p.1.size
      && herdHit t (herdOf t.cur) (lineOf pl.1.addr) pl.2 == none && !swmCopy t (herdOf t.cur) (lineOf pl.1.addr)) = true
    ∧ eachLoad (on2 (regs [(1, farPtr 1 0xFFF0)])) (fun _ pl t => pl.1.space == .bufA && pl.1.key != t.cur) = true
    ∧ (regs [(1, 0x1000)]).reply = none ∧ (regs [(1, 0x1000)]).remoteLoad = false := by decide +kernel
/-- A load of another core's bank that has the n bytes of 5, and waits. -/
def farLoad (n : Nat) : LoadEntry :=
  { dst := .pair 0, place := { space := .bufA, key := 1, addr := 0xFFF0 }, size := n, ea := farPtr 1 0xFFF0, pol := .direct, acquire := false
    scope := 0, stamp := 0, fwd := leBytes 5 n, remote := true, crc := 0 }
/-- The answers of a load of another core's bank: all its bytes, and a trap. -/
theorem witness_LoadsJoinTheLoadPath_answer :
    let s := on2 { regs [(1, farPtr 1 0xFFF0)] with loads := [farLoad 8], wait := some .reply }
    s.core.reply = none ∧ s.core.awayLoads = [farLoad 8] ∧ (farLoad 8).fwd.length = (farLoad 8).size
    ∧ (on { core0 with reply := some (.trap 32 0x1000) }).core.reply = some (.trap 32 0x1000)
    ∧ (loadForms s.core 4 1 0 0 0 0 0 0).all (fun p => s.core.readsOk p.1.regs
        && (let t1 := (s.afterReads p.1.regs).withCore (s.afterReads p.1.regs).core.dropAway
            given (p.2.free t1) (fun _ t => t == t1))) = true := by decide +kernel
theorem test_remote_load :
    answers (exec (.ldd 4 1 0 0 0 0) (on2 { regs [(1, farPtr 1 0xFFF0)] with loads := [farLoad 8], wait := some .reply }))
      (fun t => t.core.valueOf 4 == 5 && t.core.pc == 4 && t.core.wait == none && t.core.loads == []) = true
    ∧ answers (exec (.ldd 4 1 0 0 0 0) (on2 { regs [(1, farPtr 1 0xFFF0)] with reply := some (.trap 32 7), wait := some .reply, tvec := 0x4000 }))
      (fun t => t.core.tcause == 32 && t.core.tval == 7 && t.core.tepc == 0) = true := by decide +kernel

/-- A leased copy in the herd cache that has not expired. -/
theorem witness_LoadsHitTheHerdCache :
    eachLoad { on (regs [(1, 0x1000)]) with herds := [(0, { Herd.reset with lines := [(0x40, { data := 7, expiry := some 64, marks := 0, first := false })] })] }
      (fun p pl t => pl.1.space == .mem && pl.2 != .swm && t.core.loads == [] && (forwarded t.core pl.1 p.1.size).length != p.1.size
        && !homeOnly t pl p.1.acquire p.1.scope && (herdHit t (herdOf t.cur) (lineOf pl.1.addr) pl.2).isSome && t.poison == []) = true := by
  decide +kernel

/-- Outside regions with an empty queue and with one place left; in a region without and with an entry in the buffer. -/
theorem witness_StoresEnterTheQueue :
    let e : Entry := { act := .put 0, place := { space := .mem, key := 0, addr := 0 }, ea := 0, pol := .direct, ord := 0, scope := 0
                       stamp := 0, committed := true, sent := false, checked := false, user := false }
    eachStore (on (regs [(1, 0x1000)])) (fun _ _ t => queueOpen t.core) = true
    ∧ eachStore (on { regs [(1, 0x1000)] with cq := List.replicate 15 e }) (fun _ _ t => queueOpen t.core) = true
    ∧ eachStore (on { regs [(1, 0x1000)] with region := some region1, rbuf := [e] }) (fun p pl t =>
        !inWindow region1 t.cur pl.1
          && bufferOpen t.core (entryOf t (.store (leBytes p.2 p.1.size)) pl p.1.ea p.1.ord p.1.scope)) = true := by decide +kernel
theorem test_store_queue :
    answers (exec (.std 2 1 0 0 0 0) (on (regs [(1, 0x1000), (2, 0x0102)])))
      (fun t => t.core.cq.map (fun e => (e.place.addr, e.act)) == [(0x1000, .store (leBytes 0x0102 8))] && t.mem == [] && t.core.pc == 4) = true := by
  decide +kernel

/-- A store to the first and to the last doubleword of the window. -/
theorem witness_StoresIntoTheWindow :
    let c := fun (off : Nat) => { regs [(1, ownPtr 1 off)] with region := some region1 }
    ∀ off ∈ [0, 240], eachStore (on (c off)) (fun p pl t => t.core.region == some region1 && inWindow region1 t.cur pl.1
      && !t.core.acquirePending && t.core.cq == [] && t.core.rbuf == [] && t.core.twin == none && !actTagged t pl.1 (.store (leBytes p.2 p.1.size))
      && SMap.sorted t.core.bufA && SMap.sorted t.core.bufC) = true := by decide +kernel

/-- An entry that fills a queue or a buffer. -/
def filler : Entry :=
  { act := .put 0, place := { space := .mem, key := 0, addr := 0 }, ea := 0, pol := .direct, ord := 0, scope := 0, stamp := 0
    committed := true, sent := false, checked := false, user := false }
/-- The next access of kind k by register 1 is checked, and holds a condition. -/
def checked (k : Kind) (size : Nat) (s : State) (rs : List Nat) (ok : Place × Policy → State → Bool) : Bool :=
  s.core.readsOk rs && given (checkAccess k (s.core.valueOf 1) size 0 (s.afterReads rs)) ok

/-- Memory and the last doubleword of the A buffer, in 8 and in 4 bytes, outside regions and in one whose buffer holds another entry. -/
theorem witness_AtomicsWithoutResult : ∀ p ∈ amoTable,
    checked .atomic 8 (on (regs [(1, 0x1000)])) (amoRegs p.2 0 1 0 2) (fun _ t => queueOpen t.core) = true
    ∧ checked .atomic 8 (on (regs [(1, ownPtr 1 0xFFF8)])) (amoRegs p.2 0 1 0 2) (fun _ t => queueOpen t.core) = true
    ∧ checked .atomic 4 (on { regs [(1, 0x1000)] with region := some region0, rbuf := [filler] }) (amoRegs p.2 0 1 0 2) (fun pl t =>
        bufferOpen t.core (entryOf t (.amo p.2 true 0 0 false) pl 0x1000 0 0)) = true := by decide +kernel
theorem witness_AtomicsWithResult : ∀ p ∈ amoTable,
    let s := on (regs [(1, 0x1000)])
    let r := on { regs [(1, 0x1000)] with reply := some (.value 5 0), wait := some .reply }
    s.core.twin = none ∧ s.terminated.core.reply = none ∧ s.terminated.core.wait = none
    ∧ checked .atomic 8 s.terminated (amoRegs p.2 4 1 1 58) (fun _ t =>
        t.core.writable 4 && t.core.rbuf == [] && decide (t.core.cq.length < 16)) = true
    ∧ r.terminated.core.readsOk (amoRegs p.2 4 1 1 58) = true ∧ r.terminated.core.reply = some (.value 5 0)
    ∧ (r.terminated.core.afterReads (amoRegs p.2 4 1 1 58)).writable 4 = true := by decide +kernel
theorem test_amo_reply :
    answers (exec (.amoadd 4 1 0 2 0 0 0) (on { regs [(1, 0x1000), (2, 3)] with reply := some (.value 5 0), wait := some .reply }))
      (fun t => t.core.valueOf 4 == 5 && t.core.pc == 4 && t.core.wait == none) = true := by decide +kernel

/-- Outside every range, outside regions and in one; and a reduction that the range of its address refuses. -/
theorem witness_Reductions :
    let s := on (regs [(1, 0x1000)])
    let r := on { regs [(1, 0x1000)] with region := some region0, rbuf := [filler] }
    let f := { s with ranges := [(0, { base := 0x1000, len := 64, fmt := 3, op := 0, team := 0, closed := false })] }
    checked .atomic 8 s (1 :: regsB 0 2) (fun pl t => pl.1.space == .mem && (rangeOf t pl.1.addr).isNone && queueOpen t.core) = true
    ∧ checked .atomic 4 r (1 :: regsB 0 2) (fun pl t => (rangeOf t pl.1.addr).isNone
        && bufferOpen t.core (entryOf t (.red .add true 0 0) pl 0x1000 0 0)) = true
    ∧ checked .atomic 8 f (1 :: regsB 0 2) (fun pl t => pl.1.space == .mem && (match rangeOf t pl.1.addr with
        | some (_, x) => !x.closed && !rangeAccepts x .add false | none => false)) = true
    ∧ s.core.poison.contains (0, 4096 + 0x003) = false ∧ (15 : BitVec 6).toNat < 16 := by decide +kernel

/-- TAKE and PEEK of the core's own A buffer and of another's, at the start and with the answer; PUT and FEINIT outside and inside regions. -/
theorem witness_FullEmptyOperations :
    let s := on2 (regs [(1, ownPtr 1 0xFFF8)])
    let f := on2 (regs [(1, farPtr 1 0)])
    let w := on2 { regs [(1, farPtr 1 0)] with reply := some (.value 5 0), wait := some .bank }
    let r := on2 { regs [(1, ownPtr 1 0xFFF8)] with region := some region0, rbuf := [filler] }
    s.core.twin = none ∧ s.terminated.core.reply = none ∧ s.terminated.core.wait = none
    ∧ checked .take 8 s.terminated [1] (fun _ t => t.core.writable 4 && !t.core.acquirePending) = true
    ∧ checked .take 8 f.terminated [1] (fun _ t => t.core.writable 4 && !t.core.acquirePending) = true
    ∧ w.terminated.core.readable 1 = true ∧ w.terminated.core.reply = some (.value 5 0) ∧ (w.terminated.core.popped 1).writable 4 = true
    ∧ checked .put 8 s [1, 2] (fun pl t => queueOpen t.core && !(pl.1.key == t.cur && syncTagged t.core pl.1.addr)) = true
    ∧ checked .put 8 r [1, 2] (fun pl t => bufferOpen t.core (entryOf t (.put 0) pl 0 0 0)
        && bufferOpen t.core (entryOf t (.feinit 0 true) pl 0 0 0)) = true := by decide +kernel

/-- Each scope's fence; a range of memory, a pointer of the A buffer, and RINV at its start, as it waits and with its answer. -/
theorem witness_FencesAndWalker :
    let c := regs [(1, 0x1000), (2, 64)]
    (∀ n : Fin 5, fenced (on c) 0 n.val = true) ∧ c.readsOk [1, 2] = true ∧ walkPolicy 0x1000 = some .leased
    ∧ walkRoom (c.afterReads [1, 2]) = true ∧ walkPolicy (ownPtr 1 0) = none ∧ queueOpen (c.afterReads [1, 2]) = true
    ∧ (on { c with reply := some (.value 0 0) }).terminated.core.reply = some (.value 0 0)
    ∧ ((on c).terminated.core.reply = none ∧ (on c).terminated.core.wait = none ∧ (on c).terminated.core.acquirePending = false
      ∧ (on c).terminated.core.drained = true
      ∧ walkRoom (on c).terminated.core = true)
    ∧ (on { c with wait := some .reply }).terminated.core.wait = some .reply := by decide +kernel
theorem test_rinv :
    answers (exec (.rinv 1 2) (on (regs [(1, 0x1000), (2, 64)])))
      (fun t => t.core.walks == [walkOf 2 0x1000 64 .leased] && t.core.wait == some .reply && t.core.pc == 0) = true := by decide +kernel

theorem witness_RangesRetentionAndWaits :
    let c := regs [(1, 0x10000), (2, 0x10000), (3, 1), (5, ownPtr 1 8), (6, 1)]
    let s := on c
    let t := s.terminated
    let r : CommRange := { base := 0x1000, len := 64, fmt := 0, op := 0, team := 0, closed := false }
    s.core.twin = none ∧ t.core.supervisor = true ∧ t.core.readsOk [1, 2, 3] = true
    ∧ (retainOp (t.afterReads [1, 2, 3]) 0x10000 0x10000 1).2.core.writable 3 = true ∧ t.core.readable 1 = true
    ∧ (walkPolicy (t.core.valueOf 5)).isNone = true ∧ (t.core.afterReads [5, 2]).writable 3 = true
    ∧ SMap.get? ({ s with ranges := [(0, r)] } : State).terminated.ranges (0x10000 % 64) = some r ∧ r.team = t.core.team.getD 0
    ∧ (t.core.popped 1).drained = true
    ∧ given (waitaPlace (ownPtr 1 8) (t.afterReads [5, 6, 3])) (fun p x => x == t.afterReads [5, 6, 3]
        && poisonAt t p 8 == none && BitVec.ofNat 64 (placeNat t p 8) != (1 : Word)) = true
    ∧ (t.core.afterReads [5, 6, 3]).writable 3 = true ∧ t.core.acquirePending = false ∧ t.core.cq = [] ∧ t.core.rbuf = [] := by
  decide +kernel
theorem test_waita :
    answers (exec (.waita 3 5 6) (on { regs [(5, ownPtr 1 8), (6, 1)] with bufA := [(8, 9)] }))
      (fun t => t.core.valueOf 3 == 9 && t.core.pc == 4) = true
    ∧ answers (exec (.waita 3 5 6) (on { regs [(5, ownPtr 1 8), (6, 1)] with bufA := [(8, 1)], wait := some (.waita 0 0 false .bufA 8 1 (some 7)) }))
      (fun t => t.core.valueOf 3 == 7 && t.core.pc == 4) = true := by decide +kernel

/-- A range that ends at the end of its page. -/
theorem witness_RangeDeclared :
    let s := on (regs [(1, 0x1FFC0), (2, 64)])
    let t := s.terminated
    s.core.twin = none ∧ t.core.readsOk [1, 2] = true ∧ (t.core.afterReads [1, 2]).writable 3 = true
    ∧ (walkPolicy (t.core.valueOf 1)).isSome = true ∧ 0x1FFC0 % 64 = 0 ∧ onePage (t.afterReads [1, 2]) t.cur 0x1FFC0 64 = true
    ∧ xlate (t.afterReads [1, 2]) t.cur 0x1FFC0 .store (!t.core.supervisor) = (.ok 0x1FFC0 0x38, t.afterReads [1, 2])
    ∧ (t.afterReads [1, 2]).ranges = [] ∧ freeRange (t.afterReads [1, 2]) = some 0 := by decide +kernel
theorem test_crdecl :
    answers (exec (.crdecl 3 1 2 0 0) (on (regs [(1, 0x1FFC0), (2, 64)])))
      (fun t => t.core.valueOf 3 == 0 && t.ranges.map (fun p => (p.1, p.2.base, p.2.len)) == [(0, 0x1FFC0, 64)]) = true
    ∧ answers (exec (.crdecl 3 1 2 0 0) (on (regs [(1, 0x1FFC0), (2, 96)]))) (fun t => t.ranges == [] && t.core.valueOf 3 == -3) = true := by
  decide +kernel

/-! ### Tile instructions -/

/-- A descriptor of FP32 rows of two elements from 0x1000, 128 bytes apart, eight of them (R246). -/
def desc0 : Desc :=
  BitVec.ofNat 512 (0x1000 + 0xF * 2 ^ 128 + 2 ^ 134 + 2 * 2 ^ 192 + 8 * 2 ^ 224 + 4 * 2 ^ 320 + 128 * 2 ^ 352)
/-- A running team, whose descriptor 2 is that one. -/
def team0 : Team :=
  { newTeam (.boot 0) { entry := 0, args := 0, slices := 0, quota := 0, rgnlim := 4, chunk := 0, prio := 0, twin := false
                        claim := 7, hmax := 1, hmin := 1, clock := 0, tds := [] } 0 0 0 0 0 0 with st := .running, td := [(2, desc0)] }
/-- The part with that core and a record of its team. -/
def onTeam (c : Core) : State := { on c with teams := [(0, team0)] }
/-- A core whose handle 3 holds one filled slot of eight rows at the start of the A buffer. -/
def slotCore : Core :=
  { core0 with handles := vset core0.handles 3 { Handle.reset with size := 1024, count := 1, filled := 1 }, bufA := [(0, 7)] }

/-- A tile operand and a slot as TB, all eight rows, outside regions and in one. -/
theorem witness_TileRowByRow :
    tilesReady core0 [1, 0, 2] [0] = true ∧ tilesReady { core0 with region := some region0 } [7, 7, 7] [7] = true
    ∧ rowsClean core0 1 8 = true ∧ rowsClean core0 2 8 = true ∧ rowsClean core0 0 8 = true ∧ core0.poison.contains (0, 4096) = false
    ∧ given (handleRows 3 8 (on slotCore)) (fun l t => l == [7, 0, 0, 0, 0, 0, 0, 0] && t == on slotCore) = true
    ∧ tilesReady slotCore [1, 0] [0] = true := by decide +kernel
theorem test_tadd :
    let r := fun (x : Nat) => vset (vget core0.tiles (Vector.replicate 8 0) 0) 0 (BitVec.ofNat 1024 x)
    answers (exec (.tadd 3 1 0 2 0 0 0) (on { core0 with tiles := vset (vset core0.tiles 1 (r 0x017F)) 2 (r 0x0201) }))
      (fun t => t.core.row 3 0 == 0x037F && t.core.tileBusy) = true
    ∧ answers (exec (.tadd 3 1 0 2 0 0xF 0) (on { core0 with tiles := vset (vset core0.tiles 1 (r 0x3F800000)) 2 (r 0x40400000) }))
      (fun t => t.core.row 3 0 == 0x40800000) = true := by decide +kernel

theorem witness_TileRearranged :
    tilesReady core0 [0] [0] = true ∧ tilesReady core0 [1, 0] [0] = true ∧ rowsClean core0 1 8 = true
    ∧ tilesReady core0 [1, 0, 2] [0] = true ∧ rowsClean core0 2 8 = true
    ∧ given (handleRows 3 8 (on slotCore)) (fun _ t => t == on slotCore) = true := by decide +kernel
/-- A widening of a tile to two and a narrowing of two tiles to one. -/
theorem witness_TileGroups :
    modeClean core0 4 = true ∧ modeClean { core0 with poison := [(0, 4096)] } 0 = true ∧ elemWidth 0xD / elemWidth 0xF = 0 ∧ elemWidth 0xF / elemWidth 0xD = 2
    ∧ tilesReady core0 [7, 2, 3] [2, 3] = true ∧ tilesReady core0 [6, 7, 1] [1] = true ∧ rowsClean core0 7 8 = true ∧ rowsClean core0 6 8 = true
    ∧ tilesReady core0 [1, 0, 2] [0] = true ∧ rowsClean core0 0 8 = true
    ∧ given (handleRows 3 8 (on slotCore)) (fun _ t => t == on slotCore) = true := by decide +kernel
theorem witness_TileElements :
    core0.region = none ∧ core0.readable 5 = true ∧ core0.readable 6 = true ∧ core0.readsOk [5, 6] = true
    ∧ (!core0.tileLocked 7 && !core0.tilePending 7) = true ∧ (core0.popped 6).writable 15 = true ∧ rowsClean core0 7 8 = true := by decide +kernel
theorem test_tile_elements :
    answers (exec (.tfill 1 0xF 5 1) (on (regs [(5, 0x12345678)])))
      (fun t => rowElem 0xF (t.core.row 1 1) 31 == 0x12345678 && t.core.row 1 2 == 0) = true
    ∧ answers (exec (.tins 1 0 6 5) (on (regs [(5, 0x1FF), (6, 129)]))) (fun t => t.core.row 1 1 == 0xFF00) = true
    ∧ answers (exec (.textr 4 0 6 1) (on { regs [(6, 1)] with
        tiles := vset core0.tiles 1 (vset (vget core0.tiles (Vector.replicate 8 0) 1) 0 0x8000) }))
      (fun t => t.core.valueOf 4 == BitVec.ofInt 64 (-128)) = true := by decide +kernel

/-- Two rows of the descriptor from its first and from its last, and rows that lie beyond it. -/
theorem witness_TileMemory :
    let ready := fun (c : Core) => c.readable 1 && !c.tileLocked 3 && !c.tilePending 3 && c.region.isNone && c.wait.isNone
    let s := fun (x : Word) => onTeam (regs [(1, x)])
    let blank := fun (z : State) => z.withCore ((List.range 2).foldl (fun c r => c.setRow 3 r 0) z.core)
    let ld := fun (x : Word) => given (checkPieces .load (tilePieces (teamTd (s x) 0 2) x.toNat 2) (s x)) (fun ps t =>
      ps.all (fun q => !q.2.1.away 0) && given (loadPieces (s x) 3 ps [] (blank t)) (fun _ _ => true))
    let st := fun (x : Word) => given (checkPieces .store (tilePieces (teamTd (s x) 0 2) x.toNat 2) (s x)) (fun ps t =>
      t.core.tiles == (s x).core.tiles && t.core.poison == [] && given (storeMany (blocksOf (ps.map (fun q =>
        { row := q.1.1, addr := q.1.2.addr, size := q.1.2.size, pl := q.2
          value := rowGet ((s x).core.row 3 q.1.1) q.1.2.off q.1.2.size % 2 ^ q.1.2.keep }))) t)
        (fun _ u => t.core.region == none && u.core.cq.length == ps.length / 2))
    ready (regs [(1, 0)]) = true ∧ (teamTd (s 0) 0 2).rdonly = false ∧ rowsClean core0 3 2 = true
    ∧ ld 0 = true ∧ ld 7 = true ∧ ld 8 = true ∧ st 0 = true ∧ st 7 = true ∧ st 8 = true := by decide +kernel
/-- Rows of the core's own buffers, loaded from the C buffer and stored to the last of the A buffer. -/
theorem witness_TileMemory_own :
    let c := regs [(1, ownPtr 2 0x7F00)]
    let s := on c
    let z := on (regs [(1, ownPtr 1 0xFF00)])
    c.loads = [] ∧ c.acquirePending = false ∧ c.poison = []
    ∧ given (localRows false (ownPtr 2 0x7F00) 2 s) (fun rs t => t == s && rs.length == 2) = true
    ∧ given (localRows true (ownPtr 1 0xFF00) 2 z) (fun rs t => t == z && rs.all (fun r => !tagged z r.2 128)
        && given (storeMany (rs.zipIdx.flatMap (fun r =>
            [{ pl := (r.1.2, .direct), ea := r.1.1, bytes := leBytes (z.core.row 3 r.2).toNat 64, pair := true },
             { pl := ({ r.1.2 with addr := r.1.2.addr + 64 }, .direct), ea := r.1.1 + 64, bytes := leBytes 0 64, pair := false }])) z)
          (fun _ u => u.core.cq.length == 4 && u.core.cq.map (fun e => e.pair) == [true, false, true, false])) = true := by decide +kernel
/-- Stores that have all entered the queue, and one that has not: AST's first. -/
theorem witness_stores_entered :
    ({ core0 with wait := some .stores } : Core).wait = some .stores ∧ ({ core0 with wait := some .stores } : Core).issuing = []
    ∧ answers (exec (.ast 3 1) (on { regs [(1, ownPtr 2 0x77C0)] with cq := [] })) (fun t => t.core.wait == some .stores && t.core.cq.length == 16
        && t.core.issuing.length == 17 && t.core.pc == 0) = true
    ∧ answers (exec (.ast 3 1) (on { core0 with wait := some .stores })) (fun t => t.core.wait == none && t.core.pc == 4) = true := by decide +kernel

theorem witness_DescriptorMemory :
    let s := onTeam (regs [(1, ownPtr 1 0x40)])
    let c := { regs [(1, ownPtr 1 0x40)] with bufA := (leBytes desc0.toNat 64).foldl (fun m b => SMap.put m 0 (b.1 + 0x40) b.2) [] }
    s.core.twin = none ∧ s.terminated.core.readable 1 = true ∧ (ownPtr 1 0x40).toNat % 64 = 0 ∧ s.terminated.core.shcell.getLsbD 63 = false
    ∧ given (checkAccess .load (ownPtr 1 0x40) 64 0 (onTeam c)) (fun pl t => given (gather (onTeam c) [(ownPtr 1 0x40, 64, pl)] t) (fun vs _ =>
        vs == [desc0.toNat] && (Desc.clearRo desc0).valid)) = true
    ∧ given (checkAccess .store (ownPtr 1 0x40) 64 0 s) (fun _ t => queueOpen t.core) = true := by decide +kernel

/-! ### Matrix instructions -/

/-- A core whose macro 0 is loaded with FP8 E4M3 weights and whose handle 3 holds a slot. -/
def macroCore : Core := { slotCore with macs := vset core0.macs 0 { MacroState.reset with loaded := true, fmt := 0xA } }

/-- A tile and a handle as A, in exact mode, in decision mode and in relaxed mode. -/
theorem witness_MatrixJobsIssue :
    let c := { macroCore with ext := vset core0.ext 3 4 }
    c.region = none ∧ matrixReady c false 0 7 0 0 0 0xA = true ∧ matrixReady c true 3 3 1 0 0 0xA = true
    ∧ matrixReady c true 3 7 0 0 2 0xA = true := by decide +kernel
/-- An EMPTY macro, formats that do not pair, a decision operand that is infinite, a plane beyond A's, an accumulator of another kind, and a W buffer
that is not claimed. -/
theorem witness_MatrixOperandErrors :
    claims core0 .bufW = true ∧ (core0.nextMacro 11).1 = false ∧ (macroCore.nextMacro 0).1 = true ∧ pairs 0 (macroCore.nextMacro 0).2 = false
    ∧ claims { core0 with claim := 3 } .bufW = false
    ∧ (claims macroCore .bufW = true ∧ pairs 0xA (macroCore.nextMacro 0).2 = true ∧ macroCore.poison = [])
    ∧ badDecision 0x7F800000 = true ∧ badDecision (vget macroCore.ext 0 2) = false ∧ planes 0xA ≤ (31 : Word).toNat % 32 ∧ 0 % 32 < planes 0xA
    ∧ (let c := { macroCore with accs := vset macroCore.accs 2 { Acc.reset with kind := .int32 } }
       c.nextKind 2 ≠ .none ∧ c.nextKind 2 ≠ pairKind 0xA) := by decide +kernel
theorem test_matrix_errors :
    answers (exec (.mma 0 0 0 11 0 0 0xA) (on { core0 with tvec := 0x4000 })) (fun t => t.core.tcause == 30 && t.core.tval == 0xB02) = true
    ∧ answers (exec (.mma 0 0 0 0 0 0 0) (on { macroCore with tvec := 0x4000 })) (fun t => t.core.tcause == 30 && t.core.tval == 0x001) = true
    ∧ answers (exec (.mma 2 0 0 0 0 0 0xA) (on { macroCore with tvec := 0x4000, accs := vset macroCore.accs 2 { Acc.reset with kind := .int32 } }))
      (fun t => t.core.tcause == 30 && t.core.tval == 0x203) = true := by
  decide +kernel

theorem witness_WeightJobsIssue :
    let s := onTeam (regs [(1, 0)])
    let plan := (List.range 64).map (fun col => (col, columnReads (teamTd s 0 2) 0 col))
    s.core.region = none ∧ claims s.core .bufW = true ∧ s.core.acquirePending = false ∧ weightSlot 0 ≤ 8192
    ∧ (let h := vget ({ core0 with handles := vset core0.handles 3 { Handle.reset with size := 8192, count := 1 } } : Core).handles Handle.reset 3
       decide (weightSlot 0xA ≤ h.size) = true ∧ h.count ≠ 0)
    ∧ s.core.readable 1 = true ∧ (teamTd s 0 2).code ≠ 16
    ∧ given (checkReads (plan.flatMap (fun p => p.2.map (fun r => r.2))) (s.popped 1)) (fun els t =>
        given (gather s els t) (fun vs u => vs.length == els.length && !vs.isEmpty && !u.core.acquirePending)) = true := by decide +kernel

/-- Accumulators of one kind and of none, that no job holds. -/
theorem witness_Accumulators :
    let c := { core0 with accs := vset (vset core0.accs 0 { Acc.reset with kind := .int32, elems := [(5, 7)] }) 3 { Acc.reset with kind := .int32 } }
    c.region = none ∧ accsOpen c [0, 3] = true ∧ accClean c 0 = true ∧ accClean c 3 = true ∧ c.writable 15 = true
    ∧ (c.acc 0).promote.kind = (c.acc 3).promote.kind ∧ (c.acc 3).promote.kind ≠ .none := by decide +kernel
theorem test_aadd :
    let c := { core0 with accs := vset (vset core0.accs 0 { Acc.reset with kind := .int32, elems := [(5, 7)] }) 3
                                    { Acc.reset with kind := .int32, elems := [(5, 0x7FFFFFFF)] } }
    answers (exec (.aadd 0 3) (on c)) (fun t => (t.core.acc 0).elem 5 == 0x7FFFFFFF && (t.core.acc 0).is && (t.core.acc 0).elem 6 == 0) = true := by
  decide +kernel

/-- The last place of the C buffer that holds an image. -/
theorem witness_AccumulatorImages :
    let x := ownPtr 2 0x77C0
    let s := on { regs [(1, x)] with bufC := [(0x77C0, 3), (0x7FC0, 1)] }
    s.core.region = none ∧ s.core.readable 1 = true ∧ accsOpen s.core [3] = true ∧ accClean s.core 3 = true
    ∧ given (imagePlace false x s) (fun p t => t == s && given (gather s ((List.range 33).map (fun i =>
        (x + BitVec.ofNat 64 (64 * i), 64, ({ p with addr := p.addr + 64 * i }, Policy.direct)))) t)
        (fun vs u => u.core.region == none && vs.getD 32 0 == 1 && vs.getD 0 0 == 3)) = true
    ∧ s.core.wait = none ∧ s.core.rbuf = [] ∧ given (imagePlace true x s) (fun _ t => t == s) = true := by decide +kernel
/-- In a region the entries of the image are held at once. -/
theorem witness_AccumulatorImages_region :
    let x := ownPtr 2 0x77C0
    let s := on { regs [(1, x)] with region := some { region0 with rbwAcc := 8 } }
    s.core.readable 1 = true ∧ accsOpen s.core [3] = true ∧ accClean s.core 3 = true ∧ s.core.wait = none
    ∧ given (imagePlace true x s) (fun p t => t == s && given (storeMany ((List.range 33).map (fun i =>
        { pl := ({ p with addr := p.addr + 64 * i }, .direct), ea := x + BitVec.ofNat 64 (64 * i), bytes := [(0, 0)], pair := false })) s)
        (fun _ u => u.core.held == 33)) = true := by decide +kernel
theorem test_ald :
    answers (exec (.ald 3 1) (on { regs [(1, ownPtr 2 0x77C0)] with bufC := [(0x77C0, 3), (0x7FC0, 2)] }))
      (fun t => (t.core.acc 3).kind == .int32 && (t.core.acc 3).elem 0 == 3 && (t.core.acc 3).elem 1 == 0) = true := by decide +kernel

/-- A descriptor without a scale; a target of one tile and of two. -/
theorem witness_AccumulatorConversions :
    let s := onTeam (regs [(1, 0)])
    let d := teamTd s 0 2
    s.core.region = none ∧ accsOpen s.core [0] = true ∧ accClean s.core 0 = true ∧ modeClean s.core 4 = true
    ∧ ([7].all (fun t => decide (t < 8) && !s.core.tileLocked t && !s.core.tilePending t)) = true
    ∧ ([6, 7].all (fun t => decide (t < 8) && !s.core.tileLocked t && !s.core.tilePending t)) = true
    ∧ s.core.readable 1 = true ∧ 8 ≤ elemWidth d.code ∧ d.code ≠ 16 ∧ d.scale = 0 ∧ 0 < 2 ^ 49 ∧ d.rdonly = false
    ∧ s.core.wait = none
    ∧ given (checkStores 4 ((epilogue d (s.core.acc 0).promote 0 0 0).map (fun x => (x.1, x.2.1, x.2.2.1))) s) (fun st t =>
        st.length == 16 && t.core.region == none && t.core.poison == s.core.poison
        && given (storeMany (blocksOf st) t) (fun _ u => u.core.cq.length == 8)) = true := by decide +kernel
theorem test_acvt :
    let c := { core0 with accs := vset core0.accs 0 { Acc.reset with kind := .fp32, elems := [(1, 0x3F800000), (64, 0x40000000)] } }
    answers (exec (.acvt 2 0xD 0 0 0) (on c)) (fun t => rowElem 0xD (t.core.row 2 0) 1 == 0x3C00 && rowElem 0xD (t.core.row 2 1) 0 == 0x4000) = true := by
  decide +kernel

/-! ### Engines, synchronisation and events -/

/-- COPY of 2^32 - 1 bytes of memory from one place to another and to the core's A buffer, COPYS to the last stream, and lengths and streams
one beyond. -/
theorem witness_CopyJobs :
    let c := regs [(2, 0x1000), (3, 0x2000), (4, 0xFFFFFFFF), (5, 4095)]
    let s := on c
    (pairRegs 2 = [2, 3] ∧ s.core.twin = none ∧ s.core.region = none ∧ s.core.readsOk [2, 3, 4] = true ∧ s.core.readsOk [5, 3] = true
      ∧ c.poison.contains (0, 16) = false ∧ c.poison.contains (0, 17) = false)
    ∧ c.valueOf 4 = 0xFFFFFFFF ∧ (0xFFFFFFFF : Word).toNat < 2 ^ 32 ∧ c.valueOf 5 = 4095 ∧ (4095 : Word).toNat < 2 ^ 12
    ∧ given (copyChecks false 0x1000 0x2000 0x1000 s) (fun _ t => t == s) = true
    ∧ given (copyChecks false (ownPtr 1 0xF000) 0x2000 0x1000 s) (fun _ t => t == s) = true
    ∧ given (copyChecks true 0 (ownPtr 1 0) 1024 s) (fun _ t => t == s) = true
    ∧ given (completionCheck 0 0 s) (fun _ t => t == s) = true ∧ given (completionCheck 1 0x1008 s) (fun _ t => t == s) = true
    ∧ given (completionCheck 2 (ownPtr 1 16) s) (fun _ t => t == s) = true
    ∧ c.writable 15 = true ∧ c.acquirePending = false ∧ c.freeSlot = some 0 ∧ (2 ^ 32 : Nat) ≤ (0x100000000 : Word).toNat
    ∧ (2 ^ 12 : Nat) ≤ (4096 : Word).toNat := by decide +kernel
theorem test_copy_jobs :
    answers (exec (.copy 6 2 4 0 0) (on (regs [(2, 0x1000), (3, 0x2000), (4, 64)])))
      (fun t => t.core.valueOf 6 == 0x10 && t.core.jobs.map (fun p => (p.1, p.2.seq, p.2.len)) == [(0, 1, 64)] && t.mem == []) = true
    ∧ answers (exec (.jpoll 6 2) (on (regs [(2, 0x10)]))) (fun t => t.core.valueOf 6 == 6) = true
    ∧ answers (exec (.jwait 6 2) (on (regs [(2, 0x10)]))) (fun t => t.core.valueOf 6 == 6 && t.core.pc == 4) = true := by decide +kernel

/-- The largest count and the largest slot, both at the end of the A buffer; a subscribed handle. -/
theorem witness_Handles :
    let c := regs [(2, ownPtr 1 0x8000), (3, 128 + 65536 * 256), (4, 32768 + 65536)]
    let s := on c
    let t := s.terminated
    s.core.twin = none ∧ pairRegs 2 = [2, 3] ∧ t.core.readsOk [2, 3] = true ∧ vget c.handles Handle.reset 7 = Handle.reset
    ∧ decodePtr (t.afterReads [2, 3]) t.cur (ownPtr 1 0x8000) = some (.buf t.cur .bufA 0x8000) ∧ (ownPtr 1 0x8000).toNat % 128 = 0
    ∧ claims t.core .bufA = true ∧ (128 + 65536 * 256) < 2 ^ 25 ∧ 128 % 128 = 0 ∧ 0x8000 + 128 * 256 ≤ 65536 ∧ 0x8000 + 32768 * 1 ≤ 65536
    ∧ (vget (vset c.handles 7 { Handle.reset with stream := some 5 }) Handle.reset 7).stream ≠ none := by decide +kernel
/-- HWAIT beyond the count, of 0, of filled and of free slots; advances within and beyond them. -/
theorem witness_Handles_slots :
    let h : Handle := { Handle.reset with base := 0, size := 128, count := 4, filled := 3 }
    let c := { core0 with handles := vset core0.handles 7 h }
    c.readable 1 = true ∧ (c.popped 1).writable 15 = true ∧ h.count < (5 : Word).toInt.natAbs ∧ h.count < (-5 : Word).toInt.natAbs
    ∧ (4 : Word).toInt.natAbs ≤ h.count ∧ h.filled < (4 : Word).toInt.natAbs ∧ (-2 : Word).toInt.natAbs ≤ h.count ∧ (-2 : Word).toInt < 0
    ∧ h.count - h.filled < (-2 : Word).toInt.natAbs ∧ (3 : Word).toInt.natAbs ≤ h.filled ∧ (-1 : Word).toInt.natAbs ≤ h.count - h.filled ∧ (-1 : Word).toInt < 0 ∧ 0 < (3 : Word).toInt
    ∧ c.region = none ∧ (3 : Word).toNat ≤ h.filled ∧ c.handleBusy 7 = false ∧ (1 : Word).toNat ≤ h.count - h.filled
    ∧ h.filled < (4 : Word).toNat ∧ h.count - h.filled < (2 : Word).toNat := by decide +kernel
theorem test_handles :
    let c := { regs [(1, 2)] with handles := vset core0.handles 7 { Handle.reset with size := 128, count := 4, filled := 3, head := 3 } }
    answers (exec (.hadvc 4 1 7) (on c)) (fun t => t.core.valueOf 4 == 1 && (vget t.core.handles Handle.reset 7).head == 1) = true
    ∧ answers (exec (.hwait 4 1 7) (on c)) (fun t => t.core.valueOf 4 == ownPtr 1 384) = true
    ∧ answers (exec (.hadvp 4 1 7) (on { c with tvec := 0x4000 })) (fun t => t.core.tcause == 34 && t.core.tval == 7) = true := by decide +kernel

/-- The last stream and one beyond; a handle that can subscribe and one that has; SPUB at its start and with its answer. -/
theorem witness_Streams :
    let h : Handle := { Handle.reset with size := 1024, count := 1 }
    let c := { core0 with handles := vset core0.handles 7 h }
    let s := on c
    let t := s.terminated
    (s.core.twin = none ∧ t.core.readable 1 = true ∧ (t.core.popped 1).writable 4 = true ∧ distributorFree (t.core.popped 1) = true ∧ (4095 : Word).toNat < 4096 ∧ 4096 ≤ (4096 : Word).toNat
      ∧ h.count ≠ 0 ∧ 1024 ≤ h.size ∧ h.stream = none ∧ (streamAt t 4095).subs.length < 256 ∧ (streamAt t 4095).tree = [])
    ∧ ({ h with stream := some 4095 } : Handle).stream = some 4095 ∧ h.stream ≠ some 4095
    ∧ ({ s.core with reply := some (Reply.value 0 0) } : Core).reply.isSome = true ∧ begins s.core = true
    ∧ s.core.tileLocked 7 = false ∧ s.core.tilePending 7 = false ∧ rowsClean s.core 7 8 = true ∧ s.core.acquirePending = false
    ∧ s.core.region = none := by decide +kernel
/-- A tree of two cores in the A buffer; the removal of a tree, with and without subscribers. -/
theorem witness_Streams_tree :
    let c := { regs [(1, ownPtr 1 0), (2, 9)] with bufA := [(0, 2), (8, 0xFF), (9, 0xFF), (18, 8)] }
    let s := on c
    let t := s.terminated
    let sub := { s with streams := [(9, { Stream.reset with subs := [(0, 0)] })] }
    t.core.readsOk [1, 2] = true ∧ (t.core.afterReads [1, 2]).writable 4 = true ∧ (9 : Word).toNat < 4096
    ∧ (streamAt t 9).subs = [] ∧ (streamAt t 9).queue = [] ∧ (streamAt sub.terminated 9).subs ≠ []
    ∧ t.core.reply = none ∧ (ownPtr 1 0) ≠ 0
    ∧ given (tablePlace (ownPtr 1 0) (t.afterReads [1, 2])) (fun head s1 => !head.2.2.1.away 0 && given (gather t [head] s1) (fun hs s2 => hs == [2]
        && given ((List.range 2).mapM (fun i => tablePlace (ownPtr 1 0 + BitVec.ofNat 64 (8 + 8 * i))) s2) (fun els s3 =>
          given (gather t els s3) (fun ws s4 =>
            (treeStatus t 9 2 ws).1 == 0 && (treeStatus t 9 2 ws).2.length == 2 && s4.core.writable 4)))) = true := by decide +kernel

/-- The core's own last barrier place and another core's; D = s0 outside and in a region; a result at the start and with the answer. -/
theorem witness_BarrierObjects :
    let s := on2 (regs [(1, ownPtr 1 0xFFF0), (2, farPtr 1 0)])
    let r := on2 { regs [(1, ownPtr 1 0xFFF0)] with region := some region0, rbuf := [filler] }
    let w := on2 { regs [(1, farPtr 1 0)] with reply := some (.value 5 0), wait := some .reply }
    s.core.twin = none ∧ s.core.readsOk [1, 2] = true ∧ begins s.terminated.core = true
    ∧ given (barrierPlace .put (ownPtr 1 0xFFF0) (s.afterReads [1, 2])) (fun _ t => queueOpen t.core && t.core.writable 4 && t.core.rbuf == []
        && decide (t.core.cq.length < 16)) = true
    ∧ given (barrierPlace .put (farPtr 1 0) (s.afterReads [2, 1])) (fun _ t => queueOpen t.core) = true
    ∧ given (barrierPlace .put (ownPtr 1 0xFFF0) (r.afterReads [1, 2])) (fun pl t =>
        bufferOpen t.core (entryOf t (.barrier 0 0 false) pl 0 2 3)) = true
    ∧ w.terminated.core.reply = some (.value 5 0) ∧ (w.terminated.core.afterReads [1, 2]).writable 4 = true
    ∧ given (barrierPlace .take (farPtr 1 0) (s.terminated.afterReads [2, 1])) (fun _ t => t.core.writable 4 && !t.core.acquirePending) = true := by
  decide +kernel

/-- A group of the core's team, with the core as a member and without, and operands at the ends of their ranges. -/
theorem witness_WiredBarriers :
    let g : WGroup := { team := 3, counter := 9, members := [(196608, false)] }
    let s := { on { regs [(1, 31), (2, 32), (3, 9), (4, 15)] with team := some 3 } with
               dies := vset State.reset.dies 0 { Die.reset with groups := vset Die.reset.groups 15 g } }
    let t := s.terminated
    s.core.twin = none ∧ t.core.readable 1 = true ∧ (31 : Word).toNat < 32 ∧ (31 : Word).getLsbD 4 = true ∧ (15 : Word).getLsbD 4 = false
    ∧ arrivalPending (t.popped 1) t.cur = false ∧ (groupAt t 0 15).team ≠ 0 ∧ t.core.team = some (groupAt t 0 15).team
    ∧ 32 ≤ (32 : Word).toNat ∧ (groupAt t 0 0).team = 0 ∧ ((groupAt t 0 15).members.any (fun m => m.1 == 65536 * 3 + t.cur)) = true
    ∧ ((groupAt t 0 14).members.any (fun m => m.1 == 65536 * 3 + t.cur)) = false ∧ (t.popped 1).core.writable 5 = true
    ∧ t.core.poison.contains (0, 4096 + 0x001) = false ∧ (groupAt t 0 15).counter ≠ (31 : Word).setWidth 32 ∧ ({ t.core with evstat := 1 } : Core).evstat ≠ 0 := by decide +kernel
theorem test_wbara :
    let g : WGroup := { team := 3, counter := 9, members := [(196608, false)] }
    answers (exec (.wbara 5 0 15) { on { core0 with team := some 3 } with
        dies := vset State.reset.dies 0 { Die.reset with groups := vset Die.reset.groups 15 g } })
      (fun t => t.core.valueOf 5 == 9 && t.core.arrival.isSome) = true := by decide +kernel

/-- RNGINIT at the end of its range, RNGGET at the start and with the answer, SPAWN of a block and of a bad pointer, JOIN without kids,
EVPOST to a ring and to a core, and CLKREQ granted and refused. -/
theorem witness_RangesKidsAndEvents :
    let s := onTeam (regs [(1, 0x7FFFFFFFF), (2, 1), (3, 0x1000), (4, 0x3F)])
    let t := s.terminated
    let w := onTeam { regs [(1, 1)] with reply := some (.value 5 1), wait := some .reply }
    (s.core.twin = none ∧ t.core.readable 1 = true ∧ (0x7FFFFFFFF : Word).toNat < 2 ^ 35
      ∧ w.terminated.core.reply = some (.value 5 1) ∧ pairWritable (w.terminated.popped 1).core 14 = true
      ∧ begins t.core = true ∧ (1 : Word).toNat < 2 ∧ (t.popped 2).core.writable 14 = true ∧ (t.popped 2).core.writable 15 = true)
    ∧ (s.core.region = none ∧ t.core.readsOk [3, 2] = true ∧ (t.core.afterReads [3, 2]).writable 4 = true ∧ space0 0x1000 64 = true
      ∧ given (checkAccess .load 0x1000 64 0 (t.afterReads [3, 2])) (fun _ x => fenced x x.cur 3 && x.core.region == none
          && given (engineReads (launchReads (coreRead x x.cur false) 0x1000) x) (fun _ z => (spawnOp z z.cur false 0x1000 1).2.core.writable 4)) = true
      ∧ space0 (ownPtr 1 0).toNat 64 = false ∧ fenced (t.afterReads [3, 2]) t.cur 3 = true)
    ∧ joinStatus (t.popped 0) t.cur 0 = some 0
    ∧ evpostOk t (BitVec.ofNat 64 (2 ^ 63)) 0 = true ∧ evpostOk t 0x3F 5 = true ∧ evpostOk t 0x40 5 = false
    ∧ (t.core.afterReads [4, 2]).poison.contains (0, 4096 + 0x019) = false
    ∧ (evpostOp (t.afterReads [4, 2]) t.cur 0x3F 1).core.writable 4 = true ∧ (evpostOp (t.afterReads [4, 2]) t.cur 0x3F 1).cur = t.cur
    ∧ (match teamAt (t.popped 4) 0 with | some tm => !clockRequestOk tm 0x4000000 && clockRequestOk tm 0x1884 | none => false) = true := by decide +kernel

/-- The five commands that a region holds. -/
theorem witness_CommandsHeldInRegions :
    let s := on { regs [(1, 0x1000), (2, 0x2000), (3, 0x10005)] with region := some region0, rbuf := [filler] }
    s.core.region ≠ none ∧ s.core.readsOk [1, 2] = true
    ∧ given (checkAccess .load 0x1000 64 0 (s.afterReads [1, 2])) (fun _ z => bufferOpen z.core (commandOf z.core (.spawn 0 1 2) (.spawn 0 0) 2 3)) = true
    ∧ evpostOk (s.afterReads [1, 2]) 5 0x2000 = true ∧ (s.core.afterReads [1, 2]).poison.contains (0, 4096 + 0x019) = false ∧ bufferOpen s.core (commandOf s.core (.evpost 0 1 2) (.evpost 5 0) 2 3) = true
    ∧ bufferOpen s.core (commandOf s.core (.cwpub 0 1 1) (.cwpub 0 true) 2 3) = true ∧ bufferOpen s.core (commandOf s.core (.cappend 0 63 1) (.cappend 0 64) 2 3) = true
    ∧ sxappBad 0x10005 = false
    ∧ given (tokenPlaces .load 0x2000 (0x10005 / 2 ^ 16 % 2 ^ 7) (s.afterReads [3, 2])) (fun ps z => ps.length == 1
        && bufferOpen z.core (commandOf z.core (.sxapp 0 3 2) (.sxapp 0 0) 2 3)) = true := by decide +kernel

/-! ### The sheet, the suffix engine, regions and contexts -/

/-- The bytes of doublewords from an address. -/
def memOf (a : Nat) (ws : List Nat) : List Host.Cell :=
  ((ws.zipIdx).flatMap (fun w => (List.range 8).map (fun i => (a + 8 * w.2 + i, BitVec.ofNat 8 (w.1 / 256 ^ i))))).filter (fun b => b.2 != 0)
/-- A plain cell of one slot with a fresh version of generation 0. -/
def cell0 : Cell :=
  { desc := desc0, rank := 0, cls := .plain, depth2 := false, watch := none, formulas := [], cap := 0, esize := 0, slots := [0x100000]
    slotLen := 1024
    versions := [{ gen := 0, st := .fresh, slot := 0, plen := 0, tail := false, commit := 0, src := 0, copy := 0, alone := false, ended := true
                   arrival := 0, contained := 0, team := none, pins := [], table := (0, 0) }] }
/-- Sheet 5 with that cell at index 7, and a view of generation 0 that the core has as handle 2. -/
def sheet0 : Sheet :=
  { asid := 0, errRing := 0, base := 0x100000, size := 0x100000, alloc := [(0x100000, 1024)], gen := 0, cells := [(7, cell0)], sessions := []
    views := [{ owner := 65536, handle := 2, sheet := 5, gen := 0, revoked := false, maps := [] }], marking := [], waiting := []
    deleting := false }
/-- The part with that sheet, that core and doublewords at 0x1000. -/
def onSheet (c : Core) (ws : List Nat) : State := { on c with sheets := [(5, sheet0)], mem := memOf 0x1000 ws }

/-- A bind block in memory; a packed cell; a generation within its range and beyond it; and a user core. -/
theorem witness_SheetBinding :
    let s := onSheet (regs [(1, 0x1000), (2, 5 * 2 ^ 20 + 7), (4, 5 * 2 ^ 20), (5, 9), (6, 2 ^ 48), (7, 2 ^ 28)]) [5 * 2 ^ 20 + 7]
    let t := s.terminated
    s.core.twin = none ∧ t.core.readable 1 = true ∧ (t.popped 1).core.writable 8 = true
    ∧ given (readBlock t 0x1000 16 (t.popped 1)) (fun ws s1 => ws.length == 16 && ws.headD 0 == 5 * 2 ^ 20 + 7 && sheetFree s1
        && fenced s1 s1.cur 3 && (let rd := coreRead s1 s1.cur false
          let w := fun (i : Nat) => ws.getD i 0
          engineMarks s1 10 (bindBlock w).sheet == []
            && given (engineReads (bindReads s1 rd w false) s1) (fun _ s2 =>
              (bindOp s2 (coreRead s2 s2.cur false) (coreRead s2 s2.cur false) w false false).2.2.core.writable 8)
            && given (engineReads (bindReads s1 rd w true) s1) (fun _ s2 =>
              (editOp s2 (coreRead s2 s2.cur false) (coreRead s2 s2.cur false) w false false).2.2.core.writable 8))) = true
    ∧ engineMarks (t.popped 2) 10 5 = [] ∧ engineMarks (t.afterReads [4, 5]) 10 5 = []
    ∧ sheetFree (t.popped 2) = true ∧ (5 * 2 ^ 20 + 7) / 2 ^ 28 % 2 ^ 35 = 0 ∧ (2 ^ 28) / 2 ^ 28 % 2 ^ 35 ≠ 0
    ∧ (unbindOp (t.popped 2) 5 7).2.core.writable 8 = true ∧ pairRegs 4 = [4, 5] ∧ t.core.readsOk [4, 5] = true ∧ t.core.supervisor = true
    ∧ (t.afterReads [4, 5]).core.writable 8 = true ∧ (9 : Word).toNat < 2 ^ 48 ∧ 2 ^ 48 ≤ ((2 : Word) ^ 48).toNat
    ∧ (revokeOp (t.afterReads [4, 5]) 5 9).2.2.core.writable 8 = true ∧ (inUser t.core).supervisor = false := by decide +kernel
theorem test_cunbind :
    answers (exec (.cunbind 8 2) (onSheet (regs [(2, 5 * 2 ^ 20 + 6)]) [])) (fun t => t.core.valueOf 8 == sheetWord shNOCELL 0 0) = true := by
  decide +kernel

/-- Blocks of one cell, good and bad; a session that opens and one that may not; the commands of a session and of a view. -/
theorem witness_SheetSessions :
    let c := regs [(1, 0x1000), (2, 5 * 2 ^ 20 + 7), (3, 5 * 2 ^ 20), (4, 2 ^ 28)]
    let s := onSheet c [2 ^ 32 + 5 * 2 ^ 20, 7]
    let b := onSheet c [0]
    let t := s.terminated
    let p := t.popped 1
    (s.core.twin = none ∧ t.core.readable 1 = true ∧ p.core.writable 14 = true ∧ t.core.shcell.getLsbD 63 = false ∧ sheetFree p = true
      ∧ begins t.core = true ∧ fenced p p.cur 3 = true ∧ s.core.region = none ∧ pairWritable p.core 14 = true ∧ p.core.writable 15 = true)
    ∧ engineMarks p 10 5 = [] ∧ engineMarks p 10 6 = [] ∧ t.core.carried = none
    ∧ (match viewAt t (ownerOf t 0) 2 with | some w => engineMarks t 10 w.sheet == [] | none => false) = true
    ∧ given (carriedCells t 0x1000 64 p) (fun x s1 => x.2 == [7] && sheetFree s1 && !blockBad x.1 64 x.2
        && (match openOp { s1 with sheets := [(5, { sheet0 with views := [] })] } (ownerOf s1 s1.cur) 5 x.2 with
            | .ok ds s2 => ds.length == 1 && s2.core.writable 14
            | _ => false)
        && (match openOp s1 (ownerOf s1 s1.cur) 6 x.2 with | .code e => e == shNOSHEET | _ => false)) = true
    ∧ given (carriedCells (on { c with wait := some .poll, carried := some [5 * 2 ^ 20 + 2 ^ 32, 7] }) 0x1000 16 p) (fun x s1 =>
        x == (5 * 2 ^ 20 + 2 ^ 32, [7]) && s1 == p) = true
    ∧ given (carriedCells b.terminated 0x1000 64 (b.terminated.popped 1)) (fun x s1 => x.2 == [] && sheetFree s1 && blockBad x.1 64 x.2) = true
    ∧ ({ c with reply := some (Reply.value 5 0) } : Core).reply = some (.value 5 0)
    ∧ (5 * 2 ^ 20 + 7) / 2 ^ 28 % 2 ^ 35 = 0 ∧ (2 ^ 28) / 2 ^ 28 % 2 ^ 35 ≠ 0
    ∧ (appendOp p (ownerOf p 0) 5 7 64).2.core.writable 14 = true ∧ (vopenOp p (ownerOf p 0) 5).2.2.2.core.writable 14 = true
    ∧ (vcloseOp t (ownerOf t 0) 2).2.core.writable 14 = true
    ∧ given (readHeaders (crdReads p (ownerOf p 0) 2 5 7) p) (fun _ z => match crdOp z (ownerOf z 0) 2 5 7 255 with
        | .ok a _ s2 => a == 0x100000 && pairWritable s2.core 14 | _ => false) = true
    ∧ given (readHeaders (crdReads p (ownerOf p 0) 3 5 7) p) (fun _ z => pairWritable z.core 14 && (match crdOp z (ownerOf z 0) 3 5 7 255 with
        | .code e => e == shBADVIEW | _ => false)) = true
    ∧ given (carriedCells t 0x1000 16 p) (fun x s1 => !blockBad x.1 16 x.2 && sheetFree s1 && s1.core.writable 14
        && (fenceCode s1 (ownerOf s1 s1.cur) 2 5 x.2).isSome) = true := by decide +kernel
theorem test_crd :
    answers (exec (.crd 14 255 2 2) (onSheet (regs [(2, 5 * 2 ^ 20 + 7)]) []))
      (fun t => t.core.valueOf 14 == 0 && t.core.valueOf 15 == 0x100000) = true := by decide +kernel

/-- Slot 9 with two tokens. -/
def slot9 : SxSlot := { par := BitVec.ofNat 64 (12 * 2 ^ 14 + 1 + 2 ^ 7), n := 2, loE := 0, lo := 0, toks := [7, 8], stamp := 0, rebuild := false }
/-- The part with that slot, that core and doublewords at 0x1000. -/
def onSuffix (c : Core) (ws : List Nat) : State := { on c with suffix := { Suffix.reset with slots := [(9, slot9)], index := some (2 ^ 30, 1) }, mem := memOf 0x1000 ws }

/-- The slot's number and numbers beyond the range; tokens of memory and of the A buffer; an area that is good and one that is not. -/
theorem witness_SuffixSlots :
    let s := onSuffix (regs [(1, 9), (2, 0x1000), (3, 9 + 2 * 2 ^ 16), (4, 9 + 2 ^ 32 * 4096), (5, ownPtr 1 0)]) [7 + 2 ^ 32 * 8]
    let t := s.terminated
    let q := t.afterReads [3, 2]
    let turn := fun (z : State) (i : Nat) => !slotBusy t t.cur i (arrivalNow t) && engineMarks z 11 i == []
    (s.core.twin = none ∧ t.core.readable 1 = true ∧ (t.popped 1).core.writable 14 = true ∧ (9 : Word).toNat < 2 ^ 14
      ∧ 2 ^ 14 ≤ (16384 : Word).toNat ∧ suffixFree (t.popped 1) = true ∧ turn (t.popped 1) 9 = true ∧ engineMarks (t.popped 1) 11 16384 = []
      ∧ statBusy t t.cur 9 (arrivalNow t) = false ∧ (sxSlot t 9).isSome = true ∧ (sxSlot t 8).isSome = false
      ∧ given (physReads (match mailAddr t 9 with | some m => [(m, 8)] | none => []) (t.popped 1)) (fun _ z => pairWritable z.core 14) = true
      ∧ (sxFree (t.popped 1) 0 9 (arrivalNow t)).2.core.writable 14 = true
      ∧ (sxOpen (t.popped 1) 0 slot9.par).2.core.writable 14 = true ∧ pairWritable (t.popped 1).core 14 = true)
    ∧ (s.core.region = none ∧ t.core.readsOk [3, 2] = true ∧ q.core.writable 14 = true ∧ sxappBad 0 = true ∧ sxappBad (9 + 2 * 2 ^ 16) = false
      ∧ given (appendPlaces t 0x1000 2 q) (fun ps s1 => suffixFree s1 && fenced s1 s1.cur 3 && given (engineLines t ps s1) (fun _ u => u == s1)
          && turn s1 9 && given (engineWords ps s1) (fun ts s2 => ts == [7, 8] && (sxAppend s2 9 (arrivalNow t) ts).2.core.writable 14)) = true
      ∧ given (tokenPlaces .load (ownPtr 1 0) 2 q) (fun ps s1 => ps.length == 2 && given (engineLines t ps s1) (fun _ u => u == s1)) = true)
    ∧ (({ t.core with reply := some (Reply.value 5 0) } : Core).reply = some (.value 5 0) ∧ engineWritten t t.cur = true
      ∧ draftsOf 0 (({ t.core with carried := some [] } : Core).carried.getD []) = []
      ∧ draftsOf 0 (({ t.core with carried := some [0, 0x2000, 5] } : Core).carried.getD []) ≠ []
      ∧ refusedDraft t 0x2000 0x100 (draftsOf 0 [0, 0x2000, 5]) = none)
    ∧ (t.core.reply = none ∧ suffixFree (t.afterReads [1, 2]) = true ∧ turn (t.afterReads [1, 2]) 9 = true ∧ turn (t.afterReads [1, 2]) 8 = true
      ∧ sxSlot t 8 = none ∧ sxSlot t 9 = some slot9 ∧ mailReady t 9 = true
      ∧ given (tokenPlaces .store 0x1000 (parDmax slot9.par) (t.afterReads [1, 2])) (fun ps s1 => given (engineLines t ps s1) (fun _ u => u == s1)
          && given (physReads (mailReads t 9 slot9.n (parDmax slot9.par)) s1) (fun _ _ => true)) = true)
    ∧ ((9 + 2 ^ 32 * 4096) / 2 ^ 14 % 2 ^ 18 = 0 ∧ (2 ^ 14) / 2 ^ 14 % 2 ^ 18 ≠ 0 ∧ decide (slot9.size ≤ 4096) = true
      ∧ decide ((9 + 2 ^ 32 * 71) / 2 ^ 32 < slot9.size) = true ∧ savedSlot t t.cur 9 (arrivalNow t) = some slot9
      ∧ savedSlot t t.cur 8 (arrivalNow t) = none
      ∧ given (areaPlaces .store 0x1000 slot9.size (t.afterReads [4, 2])) (fun qs s1 => given (engineLines t (qs.map (fun z => z.1)) s1) (fun _ u => u == s1)) = true)
    ∧ given (areaPlaces .load 0x1000 64 (t.popped 2)) (fun qs s1 =>
        let z1 := physCombine s1 (qs.map (fun z => (z.1.addr, z.2)))
        areaBad (fun i => match qs with | z :: _ => homeNat z1 (z.1.addr + 8 * i) 8 | [] => 0)
        && given (engineLines t (qs.map (fun z => z.1)) s1) (fun _ u => u == s1) && qs.all (fun z => poisonAt z1 z.1 z.2 == none)
        && suffixFree s1 && fenced s1 s1.cur 3 && z1.core.writable 14) = true := by decide +kernel
/-- A draft that is to go to an arena page which its core may not write. -/
theorem witness_SuffixSlots_refused :
    let s := { on { core0 with team := some 9 } with teams := [(9, team0)], herds := [(0, { Herd.reset with tlb := [(0, 0, 0, 0x98)] })] }
    refusedDraft s 0x2000 0x100 (draftsOf 0 [0, 0x2000, 5]) = some 0x2000 := by decide +kernel
/-- An area of two tokens at 0x1000. -/
theorem witness_SuffixSlots_load :
    let s := onSuffix (regs [(2, 0x1000)]) [slot9.par.toNat, 2, 0, 0, 0, 0, 0, 0, 7 + 2 ^ 32 * 8]
    let t := s.terminated
    given (areaPlaces .load 0x1000 64 (t.popped 2)) (fun qs s1 =>
      let z := physCombine s1 (qs.map (fun z => (z.1.addr, z.2)))
      let w := fun (i : Nat) => match qs with | x :: _ => homeNat z (x.1.addr + 8 * i) 8 | [] => 0
      !areaBad w && given (areaPlaces .load 0x1000 (64 + 4 * (w 1 - w 2)) z) (fun rows s2 =>
        let z2 := physCombine s2 (rows.map (fun x => (x.1.addr, x.2)))
        given (engineLines t (rows.map (fun x => x.1)) s2) (fun _ u => u == s2) && rows.all (fun x => poisonAt z2 x.1 x.2 == none)
          && areaTokens z2 rows (w 1 - w 2) == [7, 8]
          && (sxLoad z2 z2.cur w (areaTokens z2 rows (w 1 - w 2))).2.core.writable 14)) = true := by
  decide +kernel
theorem test_sxqry :
    answers (exec (.sxqry 14 1 2) (onSuffix (regs [(1, 8), (2, 0x1000)]) [])) (fun t => t.core.reply == some (.value sxBADSLOT 0) && t.core.pc == 0) = true
    ∧ answers (exec (.sxqry 14 1 2) (onSuffix { regs [(1, 9), (2, 0x1000)] with reply := some (.value 5 0), wait := some .reply } []))
      (fun t => t.core.valueOf 14 == 5 && t.core.pc == 4) = true := by decide +kernel
theorem test_sxapp :
    answers (exec (.sxapp 14 3 2) (onSuffix (regs [(2, 0x1000), (3, 9 + 2 * 2 ^ 16)]) [7 + 2 ^ 32 * 8]))
      (fun t => (SMap.get? t.suffix.slots 9).map (fun x => (x.n, x.toks)) == some (4, [7, 8, 7, 8])) = true := by decide +kernel

/-- No window, the last window of each buffer, a window that is not accepted, and a region at and below its limit. -/
theorem witness_Regions :
    let c := (regs [(1, 0xFFC0), (2, 64), (3, 0x7FC0), (4, 0x8000)]).commit
    (core0.twin = none ∧ c.tq = [] ∧ c.an = 0 ∧ c.delay = 0 ∧ c.loads = [] ∧ c.readsOk [1, 2] = true)
    ∧ (0xFFC0 % 64 = 0 ∧ 64 % 64 = 0 ∧ 0xFFC0 + 64 ≤ 65536) ∧ (0x7FC0 + 64 ≤ 32768) ∧ ¬ (0x8000 + 64 ≤ 32768)
    ∧ (c.valueOf 0).toNat = 0 ∧ ({ c with an := 1 } : Core).an ≠ 0 ∧ ({ c with delay := 1 } : Core).delay ≠ 0
    ∧ ({ core0 with region := some region0 } : Core).region = some region0 ∧ core0.rgncnt ≠ core0.rgnlim
    ∧ ({ core0 with rgncnt := 4 } : Core).rgncnt = core0.rgnlim ∧ core0.region = none := by decide +kernel
/-- RBEGIN in a delay slot of a branch that was not taken. -/
theorem test_rbegin_slot :
    answers (exec (.rbegin 1 2 0) (on { regs [(1, 0xFFC0), (2, 64)] with tvec := 0x4000, delay := 1 }))
      (fun t => t.core.tcause == 2 && t.core.tval.toNat / 2 ^ 40 % 256 == 7 && t.core.region == none) = true
    ∧ answers (exec (.bne 4 9 0 0x7FF8) (on core0)) (fun t => t.core.delay == 2 && t.core.tq == []) = true := by decide +kernel
theorem test_regions :
    answers (exec (.rbegin 1 2 0) (on (regs [(1, 0xFFC0), (2, 64)])))
      (fun t => (t.core.region.map (fun r => (r.window.base, r.window.len))) == some (0xFFC0, 64) && t.core.pc == 4) = true
    ∧ answers (exec .rabort (on { regs [(5, 1)] with region := some { region0 with entry := 0x80 }, pc := 0x90 }))
      (fun t => t.core.pc == 0x80 && t.core.valueOf 5 == 0 && t.core.rgncnt == 1 && t.core.instret == 1) = true
    ∧ answers (exec .rabort (on { core0 with tvec := 0x4000 })) (fun t => t.core.tcause == 2 && t.core.tval.toNat / 2 ^ 40 % 256 == 7) = true := by
  decide +kernel

/-- R336, R404: a discard gives a register back with its mark. -/
theorem test_discard_marks :
    answers (exec .rabort (on { regs [(5, 1)] with region := some { region0 with poison := [(0, 5)] }, poison := [(0, 6), (7, 1)] }))
      (fun t => t.core.poison == [(0, 5), (7, 1)]) = true := by decide +kernel

/-- The first section saved; no section; and a user core. -/
theorem witness_Contexts :
    let s := on (regs [(1, 0x2001), (2, 0x2000)])
    let p := s.popped 1
    s.core.supervisor = true ∧ s.core.readable 1 = true ∧ 0x2001 / 128 % 32 = 0 ∧ (s.core.region.isNone && s.core.tq.isEmpty && s.core.an == 0) = true
    ∧ 0x2000 % 128 = 0 ∧ 0x2001 % 128 = 1 ∧ s.core.wait = none ∧ s.core.settled = true ∧ fenced p p.cur 4 = true
    ∧ given (ctxPlaces .store 0x2000 1 p) (fun ps s1 => ctxPoison s.core 1 == none && s1.core.region == none && s1.core.rbuf == []
        && ps.length == 64) = true
    ∧ (inUser s.core).supervisor = false := by decide +kernel
/-- The first section loaded from memory that holds a context: its version 1 and an RGNLIM of 4, all else 0. -/
theorem witness_Contexts_load :
    let s := { on (regs [(1, 0x2001)]) with mem := [(0x2000, 1), (0x2220, 4)] }
    let p := s.popped 1
    s.core.loads = [] ∧ p.core.drained = true
    ∧ given (ctxPlaces .load 0x2000 1 p) (fun ps s1 => given (gather s (ps.map (fun q => (q.2.1, 64, (q.2.2, Policy.direct)))) s1) (fun vs _ =>
        ((ctxBlocks 1).flatMap (fun b => (List.range 8).map (fun i => b + 8 * i))).all (fun off =>
          !ctxBad p.core 1 (ctxValues (ps.zipWith (fun q v => (q.1, v)) vs)) off))) = true := by decide +kernel

/-! ### Events, commands and steps -/

theorem test_cxsave :
    answers (exec (.cxsave 1) (on (regs [(1, 0x2001)]))) (fun t => t.core.cq.length == 16 && t.core.issuing.length == 48
      && t.core.wait == some .stores && t.core.pc == 0 && t.core.cq.map (fun e => e.place.addr) == (List.range 16).map (fun i => 0x2000 + 64 * i)) = true
    := by decide +kernel

/-- A core at a step and one that is not; an interrupt and a deferred trap that are due; a timer, and a wait that is over. -/
theorem witness_EventsEnterTraps :
    let ie := { core0 with status := setBit (setBit core0.status 20 true) 23 true, evstat := 1 }
    let d := on { inUser core0 with deferredTrap := some (32, 0x1000) }
    let w := { on { core0 with wait := some (.waita 0 5 false .bufA 8 1 none) } with dies := vset State.reset.dies 0 { Die.reset with clock := 5 } }
    (atStep (on core0) 0 = true ∧ atStep (on { core0 with run := .idle }) 0 = false)
    ∧ (stepping d 0 = true ∧ (coreAt d 0).run = .running ∧ (coreAt d 0).deferredTrap = some (32, 0x1000) ∧ deferredReady d 0 = true
      ∧ (coreAt d 0).wait ≠ some .bank ∧ (coreAt d 0).wait ≠ some .poll ∧ (coreAt d 0).faultSleep = none ∧ (coreAt d 0).refusedBy = []
      ∧ (coreAt d 0).tvecBad = false ∧ (0x4000 : Word).toNat / 4 ≠ 0)
    ∧ (stepping (on ie) 0 = true ∧ (coreAt (on ie) 0).wait = none ∧ (coreAt (on ie) 0).faultSleep = none ∧ deferredReady (on ie) 0 = false
      ∧ pendingInterrupt (on ie) 0 = some 9 ∧ pendingInterrupt (on core0) 0 = none)
    ∧ (coreAt (on { core0 with timecmp := 0 }) 0).timecmp.toNat ≤ (dieAt (on core0) 0).clock
    ∧ ((coreAt w 0).wait = some (.waita 0 5 false .bufA 8 1 none) ∧ 5 ≤ (dieAt w 0).clock - 0) := by decide +kernel
theorem test_interrupt :
    answers (exec (.takeInterrupt 0) (on { core0 with status := setBit (setBit core0.status 20 true) 23 true, evstat := 1, pc := 0x100, tvec := 0x4000 }))
      (fun t => t.core.tcause == BitVec.ofNat 64 (2 ^ 63 + 9) && t.core.tepc == 0x100 && t.core.pc == 0x4000 && !t.core.ie) = true := by decide +kernel

/-- A store at the head of a queue that goes to the last doubleword of the core's A buffer. -/
theorem witness_StoresPerform_buffer :
    let e : Entry := { act := .store (leBytes 0x0102 8), place := { space := .bufA, key := 0, addr := 0xFFF8 }, ea := ownPtr 1 0xFFF8, pol := .direct
                       ord := 0, scope := 0, stamp := 0, committed := true, sent := false, checked := false, user := false }
    let s := on { core0 with cq := [e] }
    (coreAt s 0).twin = none ∧ (coreAt s 0).cq = e :: [] ∧ e.place.key = 0 ∧ e.pair = false ∧ headReady s 0 e = true
    ∧ actTagged s e.place e.act = false
    ∧ SMap.sorted (coreAt s 0).bufA = true ∧ SMap.sorted (coreAt s 0).bufC = true
    ∧ answers (exec (.commitQueuePerform 0) s) (fun t => (coreAt t 0).bufA == [(0xFFF8, 2), (0xFFF9, 1)] && (coreAt t 0).cq == []) = true := by
  decide +kernel
/-- A store and an atomic that wait at the home of memory's first line, two ticks after every lease. -/
theorem witness_StoresPerform_home :
    let e := fun (a : Action) => ({ act := a, place := { space := .mem, key := 0, addr := 8 }, ea := 8, pol := .direct
                                    ord := 0, scope := 0, stamp := 0, committed := true, sent := true, checked := false, user := false } : Entry)
    let s := fun (a : Action) => { on { core0 with cq := [e a], wait := some .reply } with
      dies := vset State.reset.dies 0 { Die.reset with clock := 2 }, mem := [(8, 5)]
      homes := [(0, { Home.reset with waiting := [{ src := .core 0, place := { space := .mem, key := 0, addr := 8 }, act := a, poisoned := false, whole := false }] })] }
    let st := Action.store (leBytes 0x0102 8)
    let am := Action.amo .add false 3 0 true
    (homeAt (s st) 0).waiting.length = 1 ∧ (homeAt (s st) 0).crc ≤ 3 ∧ (e st).cell = false ∧ homeOpen (s st) 0 = true ∧ (coreAt (s st) 0).cq = [e st] ∧ Memory.wf (s st).mem = true
    ∧ (s st).ranges = [] ∧ (s st).poison = [] ∧ (e st).pol ≠ .swm ∧ (e st).pol ≠ .herd ∧ homeOpen (s am) 0 = true ∧ (coreAt (s am) 0).cq = [e am]
    ∧ answers (exec (.homePerformWrite 0) (s st)) (fun t => t.mem == [(8, 2), (9, 1)] && (coreAt t 0).cq == []) = true
    ∧ answers (exec (.homePerformWrite 0) (s am)) (fun t => t.mem == [(8, 8)] && (coreAt t 0).reply == some (.value 5 0)) = true := by
  decide +kernel

/-- A channel with a command of the window: one that answers, one that is refused, one that waits; a finished one; the last channel. -/
theorem witness_ChannelCommands :
    let c : Channel := { Channel.reset with cls := 2, fn := 8, arga := 0x2001 }
    let s := { State.reset with channels := [(32, c)] }
    (channelAt s 32).seen = c ∧ (channelAt s 32).finished = false ∧ (channelAt s 32).cls = 2 ∧ (channelAt s 32).argd.getLsbD 0 = false
    ∧ (channelAt s 32).arga.toNat / 256 % 256 = 0x20 ∧ 32 < 33 ∧ ({ c with finished := true } : Channel).finished = true
    ∧ SMap.get? s.sheets 5 = none ∧ (0x10000 : Word).toNat % 65536 = 0 ∧ (0x1000000000 : Word).toNat ≤ 2 ^ 36
    ∧ (0x10000 : Word).toNat + (0x1000000000 : Word).toNat ≤ 2 ^ 52 ∧ teamAt s 8193 = none ∧ (1 : Word).toNat < 2 ^ 32
    ∧ coreOfLoc s (BitVec.allOnes 64 : Word).toNat = none := by decide +kernel
theorem test_commands :
    answers (exec (.dieregRead 32) { State.reset with channels := [(32, { Channel.reset with cls := 2, fn := 8, arga := 0x2001 })] })
      (fun t => (channelAt t 32).res0 == 64 && (channelAt t 32).finished) = true
    ∧ answers (exec (.sheetnew 0) { State.reset with channels := [(0, { Channel.reset with cls := 2, arga := 5, argb := 0x10000, argd := 0x10000 })] })
      (fun t => (channelAt t 0).res0 == 0 && (SMap.get? t.sheets 5).map (fun x => x.base) == some 0x10000) = true := by decide +kernel

/-- R412: a twin's counters do not begin where its primary's do. -/
theorem test_twin_counters (tn id which p : Nat) :
    counterStart tn id which (some (p, false)) ≠ counterStart tn id which (some (p, true)) := by
  intro h
  have h1 := congrArg BitVec.toNat h
  have h2 := Nat.mod_lt (Config.twinStart tn id which) (show 0 < 2 ^ 64 - 1 by decide)
  have h3 : (0 : Word).toNat = 0 := rfl
  simp only [counterStart, word, BitVec.toNat_ofNat, h3] at h1
  omega

/-- R422: channel 0's GO is write-only, and its DESC, CLASS and FN read as written. -/
theorem test_register_read :
    let s := { State.reset with channels := [(0, { Channel.reset with cls := 2, fn := 8, desc := 255, busy := true })] }
    registerRead s 0x028 = 0 ∧ registerRead s 0x000 = 0xFF2008 ∧ registerRead s 0x030 = 1 := by decide +kernel

theorem witness_DecodeInvertsEncode :
    (Instr.add 4 5 0 15).wf = true ∧ (Instr.add 4 5 0 15).size ≠ 0 ∧ (Instr.acvt 6 0xF 0 4 3).wf = true
    ∧ decodeBytes (encodeBytes (.add 4 5 0 15)) = .ok (.add 4 5 0 15) ∧ decodeBytes (encodeBytes (.acvt 6 0xF 0 4 3)) = .ok (.acvt 6 0xF 0 4 3)
    ∧ (∃ i, decodeBytes [0x24, 0x09] = .ok i) := by
  refine ⟨by decide +kernel, by decide +kernel, by decide +kernel, by decide +kernel, by decide +kernel, .add16 4 9, by decide +kernel⟩

/-- A pinned core whose image begins with ADDI s4, s5, -3 and then with NOP in 16 bits, with an empty agenda and with a turn of the agenda. -/
def pinned : State :=
  on { core0 with cacheMode := false, image := [(0, 0x8B), (1, 0x84), (2, 0xFD), (3, 0xFF), (5, 0x04)] }
theorem witness_StepRunsDecoded :
    let x := { pinned with agenda := round pinned }
    let y := on { core0 with cacheMode := false, image := pinned.core.image, pc := 4 }
    pinned.agenda = [] ∧ canIssue pinned pinned.cur = true
    ∧ (x.core.run = .running ∧ contained x x.cur = false ∧ consuming x x.cur = false ∧ deferredReady x x.cur = false
      ∧ interruptReady x x.cur = false ∧ x.core.pc ≠ BitVec.ofNat 64 (2 ^ 64 - 2) ∧ x.core.pc.toNat % 2 = 0 ∧ x.core.pendingRegion = none)
    ∧ (fetchHalf x 0 0).1 = .half 0x848B ∧ (fetchHalf x 0 2).1 = .half 0xFFFD ∧ 0x8000 ≤ 0x848B
    ∧ decode32 (0x848B * 65536 + 0xFFFD) = .ok (.addi 4 5 0x1FFFD)
    ∧ (fetchHalf y 0 4).1 = .half 0x0400 ∧ 0x0400 < 0x8000 ∧ decode16 0x0400 = .ok .nop16
    ∧ x.core.cacheMode = false ∧ x.core.pins = [(0, 16384)] ∧ x.core.pc.toNat + 4 ≤ 0 + 16384 ∧ x.core.poison = [] ∧ x.core.an = 0
    ∧ decodeBytes ((List.range 4).map (fun j => SMap.getD x.core.image 0 (x.core.pc.toNat + j))) = .ok (.addi 4 5 0x1FFFD)
    ∧ answers (step pinned) (fun t => t.core.valueOf 4 == -3 && t.core.pc == 4) = true := by decide +kernel
/-- A pending region that opens at the next fetch. -/
theorem witness_StepRunsDecoded_pending :
    let x := { on { core0 with cacheMode := false, pendingRegion := some { buf := 0, base := 0, len := 64 } } with agenda := [.issue 0] }
    x.core.pendingRegion.isSome = true ∧ x.core.region = none ∧ x.core.tq = [] ∧ x.core.an = 0 ∧ x.core.terminating = false ∧ x.core.loads = []
    ∧ (openPending x x.cur).core.region.isSome = true := by decide +kernel
theorem test_with_fetch_word :
    answers (step (State.reset.withFetchWord 32 0x848BFFFD)) (fun t => t.core.valueOf 4 == -3 && t.core.pc == 4100) = true := by decide +kernel

/-- The canonical form holds at reset, and after a step that writes memory. -/
theorem witness_MemoryStaysCanonical : Memory.wf State.reset.mem = true ∧ Memory.wf [(8, 5), (9, 1)] = true ∧ Memory.wf [(8, 0)] = false
    ∧ answers (step State.reset) (fun t => Memory.wf t.mem) = true := by decide +kernel

end Sys2Proof.Tests
end

section
/-!
PROOFS. Loads (R113, R120, R221 to R223): what every form of a load runs after its operands are read, and what the load path, a leased copy
and another core's bank give it.
-/

namespace Sys2Proof.Machine

open Sys2Proof.Spec

/-! ### What a load runs -/

/-- What a load of the form `f` that began in s0 runs once its operands are read. -/
def loadSteps (s0 : State) (f : Access) (dst : LoadDst) : Act Unit := do
  loadAt s0 dst f.ea f.size f.pol f.acquire f.scope
  retire f.length

/-- An M-format load reads its pointer and goes on as its form says (R223). -/
theorem load_run (i : Instr) (dst : LoadDst) (a : BitVec 4) (ord : BitVec 2) (scope : BitVec 3) (pol : BitVec 2) (off : BitVec 10)
    (size : Nat) (s : State) (h : s.core.readsOk [a.toNat] = true) :
    load dst a ord scope pol off size s
      = loadSteps s (mForm i [a.toNat] (s.core.valueOf a.toNat) size ord scope pol off) dst (s.afterReads [a.toNat]) := by
  simp only [Core.readsOk, Bool.and_true] at h
  unfold load
  rw [bind_ok _ _ _ _ _ (get_run s), readReg_bind _ _ _ h]
  rfl

/-- A 16-bit load reads its pointer and goes on as its form says (R175). -/
theorem load16_run (i : Instr) (d a : BitVec 4) (x : BitVec 2) (size : Nat) (signed : Bool) (s : State)
    (h : s.core.readsOk [a.toNat] = true) :
    load16 d a x size signed s = loadSteps s
      { instr := i, regs := [a.toNat], ea := s.core.valueOf a.toNat + BitVec.ofNat 64 (x.toNat * size), size := size, pol := 0
        acquire := false, ord := 0, scope := 0, length := 2 } (.reg d.toNat size signed) (s.afterReads [a.toNat]) := by
  simp only [Core.readsOk, Bool.and_true] at h
  unfold load16
  rw [bind_ok _ _ _ _ _ (get_run s), readReg_bind _ _ _ h]
  rfl

/-- Every load runs, after its operands, what its form says (R222 to R224). -/
theorem exec_loadForm (d a b : BitVec 4) (ord : BitVec 2) (scope : BitVec 3) (pol : BitVec 2) (off : BitVec 10) (x : BitVec 2) (s : State) :
    ∀ p ∈ loadForms s.core d a b ord scope pol off x, s.core.readsOk p.1.regs = true →
      ∃ act, exec p.1.instr s = runInstr act s ∧ act s = loadSteps s p.1 p.2 (s.afterReads p.1.regs) := by
  have m := fun i dst size => load_run i dst a ord scope pol off size s
  have short := fun i size signed => load16_run i d a x size signed s
  simp only [loadForms, List.forall_mem_cons]
  refine ⟨fun h => ⟨_, rfl, m _ _ _ h⟩, fun h => ⟨_, rfl, m _ _ _ h⟩, fun h => ⟨_, rfl, m _ _ _ h⟩, fun h => ⟨_, rfl, m _ _ _ h⟩,
    fun h => ⟨_, rfl, m _ _ _ h⟩, fun h => ⟨_, rfl, m _ _ _ h⟩, fun h => ⟨_, rfl, m _ _ _ h⟩, fun h => ⟨_, rfl, m _ _ _ h⟩,
    fun h => ⟨_, rfl, ?_⟩, fun h => ⟨_, rfl, short _ _ _ h⟩, fun h => ⟨_, rfl, short _ _ _ h⟩, List.forall_mem_nil _⟩
  simp only [Core.readsOk, Bool.and_true, Bool.and_eq_true] at h
  rw [bind_ok _ _ _ _ _ (get_run s), readReg_bind _ _ _ h.1, readReg_bind _ _ _ (by simpa using h.2), core_popped]
  rfl

section

variable {f : Access} {dst : LoadDst} {s0 s s1 t : State} {pl : Place × Policy} {l : HLine} {m : LoadEntry} {e : Stop}

/-- A load whose access succeeds completes. -/
theorem loadSteps_ok (h : loadAt s0 dst f.ea f.size f.pol f.acquire f.scope s = .ok ((), t)) :
    loadSteps s0 f dst s = .ok ((), t.withCore (t.core.advance f.length)) := by
  unfold loadSteps
  rw [bind_ok _ _ _ _ _ h, retire_run]

/-- A load whose access stops, stops. -/
theorem loadSteps_error (h : loadAt s0 dst f.ea f.size f.pol f.acquire f.scope s = .error e) : loadSteps s0 f dst s = .error e :=
  bind_error _ _ _ _ h

/-! ### The access of a load -/

theorem takeValue_run (v : Nat) : takeValue dst v s = .ok ((), s.withCore (dst.write s.core v)) := rfl

/-- A load that has sent nothing and stays on its core goes on from its checks (R223). -/
theorem loadAt_here (hr : s0.core.reply = none) (hl : s0.core.remoteLoad = false) (hc : checkAccess .load f.ea f.size f.pol s = .ok (pl, s1))
    (ha : pl.1.away s0.cur = false) :
    loadAt s0 dst f.ea f.size f.pol f.acquire f.scope s = loadFrom dst pl f.ea f.size f.acquire f.scope s1 := by
  unfold loadAt
  simp only [hr, hl, Option.isSome_none, Bool.or_self, Bool.false_eq_true, if_false]
  rw [bind_ok _ _ _ _ _ hc]
  simp [ha]

/-- Memory is no other core's. -/
theorem away_mem {p : Place} (k : Nat) (h : p.space = .mem) : p.away k = false := by simp [Place.away, Place.extern, h]

/-- No copy under SWM leaves a herd that holds none. -/
theorem dropSwm_same {h line : Nat} (hs : swmCopy s h line = false) : dropSwm s h line = s := by
  unfold swmCopy at hs
  unfold dropSwm
  split
  · rfl
  · next l hl => simp only [hl, Option.isNone_eq_false_iff] at hs; simp [hs]

/-- A load of memory that misses joins the load path (R113, R120). -/
theorem loadFrom_miss (ho : loadOpen s dst pl.1 f.size f.ea) (hm : pl.1.space = .mem) (hf : (forwarded s.core pl.1 f.size).length ≠ f.size)
    (hh : herdHit s (herdOf s.cur) (lineOf pl.1.addr) pl.2 = none) (hs : swmCopy s (herdOf s.cur) (lineOf pl.1.addr) = false) :
    loadFrom dst pl f.ea f.size f.acquire f.scope s
      = deferLoad dst pl f.ea f.size f.acquire f.scope (forwarded s.core pl.1 f.size) s := by
  obtain ⟨hacq, hfree, hwin⟩ := ho
  unfold loadFrom
  rw [bind_ok _ _ _ _ _ (afterAcquire_ok _ hacq), bind_ok _ _ _ _ _ hfree, bind_ok _ _ _ _ _ hwin, bind_ok _ _ _ _ _ (get_run _)]
  simp only [hm, hf, if_false, hh]
  split
  · rfl
  split
  · rfl
  split
  · rw [bind_ok _ _ _ _ _ (modify_run _ _), dropSwm_same hs]
  · rfl

/-- A load of memory that hits a leased copy takes its bytes from it, the forwarded ones first (R113, R114). -/
theorem loadFrom_hit (ho : loadOpen s dst pl.1 f.size f.ea) (hm : pl.1.space = .mem) (hsw : pl.2 ≠ .swm) (hl : s.core.loads = [])
    (hf : (forwarded s.core pl.1 f.size).length ≠ f.size) (hho : homeOnly s pl f.acquire f.scope = false)
    (hh : herdHit s (herdOf s.cur) (lineOf pl.1.addr) pl.2 = some l) (hp : s.poison = []) :
    loadFrom dst pl f.ea f.size f.acquire f.scope s = takeValue dst (leNat (fun i =>
      (SMap.get? (forwarded s.core pl.1 f.size) i).getD (l.byte (pl.1.addr % 64 + i))) f.size) s := by
  obtain ⟨hacq, hfree, hwin⟩ := ho
  unfold loadFrom
  rw [bind_ok _ _ _ _ _ (afterAcquire_ok _ hacq), bind_ok _ _ _ _ _ hfree, bind_ok _ _ _ _ _ hwin, bind_ok _ _ _ _ _ (get_run _)]
  simp [hm, hl, hf, hho, hh, hp, hsw]

/-- A load of another core's bank is sent, and its instruction waits (R112, R221; log 28). -/
theorem loadAt_away (hr : s0.core.reply = none) (hl : s0.core.remoteLoad = false) (hc : checkAccess .load f.ea f.size f.pol s = .ok (pl, s1))
    (ha : pl.1.away s0.cur = true) (ho : loadOpen s1 dst pl.1 f.size f.ea) :
    loadAt s0 dst f.ea f.size f.pol f.acquire f.scope s = .error (.block (sendAway s0 [(f.ea, f.size, pl)] f.scope)) := by
  obtain ⟨hacq, hfree, -⟩ := ho
  unfold loadAt
  simp only [hr, hl, Option.isSome_none, Bool.or_self, Bool.false_eq_true, if_false]
  rw [bind_ok _ _ _ _ _ hc]
  simp only [ha, if_true]
  rw [bind_ok _ _ _ _ _ hfree, bind_ok _ _ _ _ _ (afterAcquire_ok _ hacq), throw_run]

/-- A load that has all the bytes that it has sent for gives them to its destination (R221). -/
theorem loadAt_answered (hr : s0.core.reply = none) (hl : s0.core.awayLoads = [m]) (hf : m.fwd.length = m.size)
    (hd : dst.free (s.withCore s.core.dropAway) = .ok ((), s.withCore s.core.dropAway)) :
    loadAt s0 dst f.ea f.size f.pol f.acquire f.scope s
      = takeValue dst (leNat (fun i => SMap.getD m.fwd 0 i) m.size) (s.withCore s.core.dropAway) := by
  have hsent : s0.core.remoteLoad = true := by
    obtain ⟨hmem, hrem⟩ := List.mem_filter.mp (show m ∈ s0.core.awayLoads by simp [hl])
    exact List.any_eq_true.mpr ⟨m, hmem, hrem⟩
  have ha : awayAnswers s0 s = .ok ([leNat (fun i => SMap.getD m.fwd 0 i) m.size], s.withCore s.core.dropAway) := by
    unfold awayAnswers
    simp only [hr, hl, List.all_cons, List.all_nil, hf, beq_self_eq_true, Bool.and_true]
    rfl
  unfold loadAt
  simp only [hsent, Bool.or_true, if_true]
  rw [bind_ok _ _ _ _ _ ha, bind_ok _ _ _ _ _ hd]
  rfl

/-- A load whose answer is a trap raises it (R221). -/
theorem loadAt_refused {cause : Nat} {val : Word} (hr : s0.core.reply = some (.trap cause val)) :
    loadAt s0 dst f.ea f.size f.pol f.acquire f.scope s = .error (.trap cause val) := by
  unfold loadAt
  simp only [hr, Option.isSome_some, Bool.true_or, if_true]
  exact bind_error _ _ _ _ (by unfold awayAnswers; simp [hr])

end

/-! ### A load of another core's bank -/

/-- A load of another core's bank leaves, unless it takes all its bytes by forwarding (R109, R112). -/
theorem sendOne_bank (s : State) (ea : Word) (size : Nat) (pl : Place × Policy) (scope : Nat) (he : pl.1.extern = false) :
    sendOne s (ea, size, pl) scope
      = { (s.withCore { s.core with
            loads := s.core.loads ++ [
              { dst := .pair 0, place := pl.1, size := size, ea := ea, pol := .direct, acquire := false, scope := scope
                stamp := s.core.stamp, fwd := forwarded s.core pl.1 size, remote := true, crc := 0 }]
            stamp := s.core.stamp + 1 }) with
          net := s.net ++ if (forwarded s.core pl.1 size).length = size then []
            else [{ src := s.cur, dst := pl.1.key, off := pl.1.addr, ea := ea, kind := .load s.core.stamp }] } := by
  unfold sendOne awayEntry
  by_cases hn : (forwarded s.core pl.1 size).length = size
  · simp only [he, hn, Bool.false_eq_true, if_false, if_true, Bool.false_or, decide_true, List.append_nil]
    rfl
  · simp only [he, hn, Bool.false_eq_true, if_false, Bool.false_or, decide_false]
    rfl

/-- A change of the running core, where it and the messages on their way are replaced. -/
theorem modCoreAt_withCore_net (s : State) (c : Core) (n : List Msg) (f : Core → Core) :
    modCoreAt { s.withCore c with net := n } s.cur f = { s.withCore (f c) with net := n } := by
  simp [modCoreAt, setCoreAt, coreAt, State.withCore, SMap.set_set]

/-- Where a core waits with one load of another core's bank on its way (R109, R112). -/
theorem sendAway_bank (s : State) (ea : Word) (size : Nat) (pl : Place × Policy) (scope : Nat) (he : pl.1.extern = false) :
    modCoreAt (sendAway s [(ea, size, pl)] scope) s.cur (fun c => { c with stalled := true })
      = { (s.withCore { s.core with
            stamp := s.core.stamp + 1, wait := some .reply, stalled := true, loads := s.core.loads ++ [
              { dst := .pair 0, place := pl.1, size := size, ea := ea, pol := .direct, acquire := false, scope := scope
                stamp := s.core.stamp, fwd := forwarded s.core pl.1 size, remote := true, crc := 0 }] }) with
          net := s.net ++ if (forwarded s.core pl.1 size).length = size then []
            else [{ src := s.cur, dst := pl.1.key, off := pl.1.addr, ea := ea, kind := .load s.core.stamp }] } := by
  unfold sendAway
  rw [List.foldl_cons, List.foldl_nil, sendOne_bank s ea size pl scope he]
  exact (congrArg (fun z => modCoreAt z s.cur _) (modCoreAt_withCore_net ..)).trans (modCoreAt_withCore_net ..)

/-! ### The obligations -/

/-- Settles O16: a load that misses is deferred, one of another core's bank is sent, and an answer is given or raised. -/
theorem loadsJoinTheLoadPath : Obligations.LoadsJoinTheLoadPath := by
  intro d a b ord scope pol off x s s1 pl l val cause p hp c fwd entry t hreads
  obtain ⟨act, hexec, hact⟩ := exec_loadForm d a b ord scope pol off x s p hp hreads
  rw [hexec]
  refine ⟨fun hr hl hc ho => ⟨fun hm hf hh hs => ?_, fun hs hk => ?_⟩, fun hr hl hf => ?_, fun hr => ?_⟩
  · have h1 := (loadAt_here hr hl hc (away_mem s.cur hm)).trans ((loadFrom_miss ho hm hf hh hs).trans (deferLoad_ok ..))
    rw [runInstr_ok _ _ _ (hact.trans (loadSteps_ok h1)), core_withCore, withCore_withCore]
  · have he : pl.1.extern = false := by rcases hs with h | h <;> simp [Place.extern, h]
    have ha : pl.1.away s.cur = true := by rcases hs with h | h <;> simp [Place.away, h, hk]
    have h1 := hact.trans (loadSteps_error (loadAt_away hr hl hc ha ho))
    simp only [runInstr, h1]
    rw [sendAway_bank _ _ _ _ _ he]
  · intro t1 hd
    have h1 := (loadAt_answered (f := p.1) (s := t) hr hl hf hd).trans (takeValue_run _)
    rw [runInstr_ok _ _ _ (hact.trans (loadSteps_ok h1))]
    simp only [core_withCore, withCore_withCore, t1]
  · exact runInstr_trap _ _ _ _ (hact.trans (loadSteps_error (loadAt_refused hr)))

/-- Settles O17: an open load that hits a leased copy takes its value at once. -/
theorem loadsHitTheHerdCache : Obligations.LoadsHitTheHerdCache := by
  intro d a b ord scope pol off x s s1 pl l p hp c fwd line hr hl hreads hc ho hm hsw hloads hf hho hh hpois
  obtain ⟨act, hexec, hact⟩ := exec_loadForm d a b ord scope pol off x s p hp hreads
  have h1 := (loadAt_here hr hl hc (away_mem s.cur hm)).trans ((loadFrom_hit ho hm hsw hloads hf hho hh hpois).trans (takeValue_run _))
  rw [hexec, runInstr_ok _ _ _ (hact.trans (loadSteps_ok h1)), core_withCore, withCore_withCore]

end Sys2Proof.Machine
end

section
/-!
PROOFS. Held commands (R122): in a region a command of D = s0 reads its operands, is checked, and becomes the last entry of the region buffer.
-/

namespace Sys2Proof.Machine

open Sys2Proof.Spec

/-- A region buffer that is open to an entry takes it as its last one (R122). -/
theorem appendHeld_open (e : Entry) (s : State) (h : bufferOpen s.core e = true) :
    appendHeld e s = .ok ((), s.withCore { s.core with rbuf := s.core.rbuf ++ [e] }) := by
  refine appendHeld_ok e s fun y hy => ?_
  simp only [bufferOpen, hy, Bool.and_eq_true, Bool.not_eq_true', decide_eq_true_eq] at h
  exact h.2

/-- A region buffer is open in a region only. -/
theorem region_of_bufferOpen {c : Core} {e : Entry} (h : bufferOpen c e = true) : c.region.isSome = true := by
  simp only [bufferOpen, Bool.and_eq_true] at h
  exact h.1

/-- A command for which the region buffer is open is held, and its instruction completes (R122). -/
theorem holdCommand_retire (i : Instr) (a : Action) (s : State) (h : bufferOpen s.core (commandOf s.core i a 2 3) = true) :
    (do holdCommand i a; retire 4 : Act Unit) s = .ok ((), s.withCore ((held s.core (commandOf s.core i a 2 3)).advance 4)) := by
  have hh : holdCommand i a s = .ok ((), s.withCore (held s.core (commandOf s.core i a 2 3))) := by
    unfold holdCommand
    rw [bind_ok _ _ _ _ _ (getC_run s)]
    refine (bind_ok (appendHeld (commandOf s.core i a 2 3)) _ _ _ _ (appendHeld_open _ s h)).trans ?_
    rw [modC_run, core_withCore, withCore_withCore]
    rfl
  rw [bind_ok _ _ _ _ _ hh, retire_run, core_withCore, withCore_withCore]

/-- A command that is held after its operands are read completes in the state after the reads. -/
theorem runInstr_hold (act : Act Unit) (i : Instr) (a : Action) (s z : State) (h : act s = (do holdCommand i a; retire 4 : Act Unit) z)
    (ho : bufferOpen z.core (commandOf z.core i a 2 3) = true) :
    runInstr act s = .next (z.withCore ((held z.core (commandOf z.core i a 2 3)).advance 4)) :=
  runInstr_ok _ _ _ (h.trans (holdCommand_retire i a z ho))

/-- Register s0 can always be written. -/
theorem canWrite_zero (s : State) : canWrite (0 : BitVec 4).toNat s = .ok ((), s) := canWrite_ok s 0 rfl

/-- The reads of two operand registers, in order. -/
theorem readTwo_bind (a b : Nat) (f : Word → Word → Act Unit) (s : State) (h : s.core.readsOk [a, b] = true) :
    (do let x ← readReg a; let y ← readReg b; f x y : Act Unit) s
      = f (s.core.valueOf a) ((s.core.popped a).valueOf b) (s.afterReads [a, b]) := by
  simp only [Core.readsOk, Bool.and_true, Bool.and_eq_true] at h
  rw [readReg_bind _ _ _ h.1, readReg_bind _ _ _ (by simpa using h.2), core_popped]
  rfl

/-- What an instruction does in a region, where it asks for one. -/
theorem inRegion_bind (f g : Act Unit) (s : State) (h : s.core.region.isSome = true) :
    (do if (← getC).region.isSome then f else g : Act Unit) s = f s := by
  rw [bind_ok _ _ _ _ _ (getC_run s), if_pos h]

/-- SPAWN in a region is held, its block checked as a load (R303). -/
theorem exec_spawn_held (a b : BitVec 4) (s s1 : State) (pl : Place × Policy) (hr : s.core.region.isSome = true)
    (hreads : s.core.readsOk [a.toNat, b.toNat] = true)
    (hc : if space0 (s.core.valueOf a.toNat).toNat 64 = true
      then checkAccess .load (s.core.valueOf a.toNat) 64 0 (s.afterReads [a.toNat, b.toNat]) = .ok (pl, s1)
      else s1 = s.afterReads [a.toNat, b.toNat]) :
    let act := Action.spawn (s.core.valueOf a.toNat) ((s.core.popped a.toNat).valueOf b.toNat)
    bufferOpen s1.core (commandOf s1.core (.spawn 0 a b) act 2 3) = true →
      exec (.spawn 0 a b) s = .next (s1.withCore ((held s1.core (commandOf s1.core (.spawn 0 a b) act 2 3)).advance 4)) := by
  intro act ho
  rw [exec_spawn, execSpawn, if_pos ⟨rfl, hr⟩]
  refine runInstr_hold _ _ _ s s1 ?_ ho
  unfold spawnAct
  rw [readTwo_bind _ _ _ _ hreads, bind_ok _ _ _ _ _ (canWrite_zero _)]
  split
  next h0 =>
    rw [if_pos h0] at hc
    rw [bind_ok _ _ _ _ _ hc]
    exact inRegion_bind _ _ _ (region_of_bufferOpen ho)
  next h0 =>
    rw [if_neg h0] at hc
    subst hc
    exact inRegion_bind _ _ _ (region_of_bufferOpen ho)

/-- EVPOST of an operand that it accepts is held in a region (R305); where its record takes the core's cell, SHCELL is read (R405). -/
theorem exec_evpost_held {a b : BitVec 4} {x y : Word} {s z : State} (hr : s.core.region.isSome = true)
    (hreads : s.core.readsOk [a.toNat, b.toNat] = true) (hx : s.core.valueOf a.toNat = x)
    (hy : (s.core.popped a.toNat).valueOf b.toNat = y) (hz : s.afterReads [a.toNat, b.toNat] = z) (hok : evpostOk z x y = true)
    (hp : x.getLsbD 63 = false → (s.core.afterReads [a.toNat, b.toNat]).poison.contains (0, 4096 + 0x019) = false)
    (ho : bufferOpen z.core (commandOf z.core (.evpost 0 a b) (.evpost x y) 2 3) = true) :
    exec (.evpost 0 a b) s = .next (z.withCore ((held z.core (commandOf z.core (.evpost 0 a b) (.evpost x y) 2 3)).advance 4)) := by
  rw [exec_evpost, execEvpost, if_pos ⟨rfl, hr⟩]
  refine runInstr_hold _ _ _ s z ?_ ho
  have hregion := region_of_bufferOpen ho
  unfold evpostAct
  rw [readTwo_bind _ _ _ _ hreads, hx, hy, hz, bind_ok _ _ _ _ _ (get_run _)]
  cases h63 : x.getLsbD 63 with
  | true => simp only [hok, hregion, Bool.not_true, Bool.and_false, Bool.false_eq_true, if_false, if_true]
  | false =>
    have hclean : noPoison 0 (4096 + 0x019) z = .ok ((), z) := by
      rw [noPoison_run, ← hz, core_afterReads, hp h63]
      rfl
    simp only [hok, Bool.not_true, Bool.not_false, Bool.and_true, if_true, Bool.false_eq_true, if_false]
    rw [bind_ok _ _ _ _ _ hclean, if_pos hregion]

/-- CWPUB in a region is held (R316). -/
theorem exec_cwpub_held (a : BitVec 4) (cancel : BitVec 1) (s : State) (hr : s.core.region.isSome = true)
    (ha : s.core.readable a.toNat = true) :
    let z := s.popped a.toNat
    let act := Action.cwpub (s.core.valueOf a.toNat) (cancel == 1)
    bufferOpen z.core (commandOf z.core (.cwpub 0 a cancel) act 2 3) = true →
      exec (.cwpub 0 a cancel) s = .next (z.withCore ((held z.core (commandOf z.core (.cwpub 0 a cancel) act 2 3)).advance 4)) := by
  intro z act ho
  rw [exec_cwpub, execCwpub, if_pos ⟨rfl, hr⟩]
  exact runInstr_hold _ _ _ s z (readReg_bind _ _ _ ha) ho

/-- CAPPEND in a region is held (R317). -/
theorem exec_cappend_held (a : BitVec 4) (k : BitVec 6) (s : State) (hr : s.core.region.isSome = true)
    (ha : s.core.readable a.toNat = true) :
    let z := s.popped a.toNat
    let act := Action.cappend (s.core.valueOf a.toNat) (k.toNat + 1)
    bufferOpen z.core (commandOf z.core (.cappend 0 k a) act 2 3) = true →
      exec (.cappend 0 k a) s = .next (z.withCore ((held z.core (commandOf z.core (.cappend 0 k a) act 2 3)).advance 4)) := by
  intro z act ho
  rw [exec_cappend, execCappend, if_pos ⟨rfl, hr⟩]
  exact runInstr_hold _ _ _ s z (readReg_bind _ _ _ ha) ho

/-- SXAPP in a region is held, its tokens checked as loads (R327). -/
theorem exec_sxapp_held (a b : BitVec 4) (s s1 : State) (ps : List Place) (hr : s.core.region.isSome = true)
    (hreads : s.core.readsOk [a.toNat, b.toNat] = true) :
    let x := s.core.valueOf a.toNat
    let y := (s.core.popped a.toNat).valueOf b.toNat
    sxappBad x = false → tokenPlaces .load y (bits x.toNat 22 16) (s.afterReads [a.toNat, b.toNat]) = .ok (ps, s1) →
    bufferOpen s1.core (commandOf s1.core (.sxapp 0 a b) (.sxapp x y) 2 3) = true →
      exec (.sxapp 0 a b) s = .next (s1.withCore ((held s1.core (commandOf s1.core (.sxapp 0 a b) (.sxapp x y) 2 3)).advance 4)) := by
  intro x y hx ht ho
  rw [exec_sxapp, execSxapp, if_pos ⟨rfl, hr⟩]
  refine runInstr_hold _ _ _ s s1 ?_ ho
  rw [readTwo_bind _ _ _ _ hreads, if_pos (by simp only [x] at hx; rw [hx]; rfl), bind_ok _ _ _ _ _ ht]

/-- Settles O45: each command reads its operands, is checked, and is held. -/
theorem commandsHeldInRegions : Obligations.CommandsHeldInRegions := by
  intro a b k cancel s s1 pl c x y rs holds hregion
  have hr : s.core.region.isSome = true := Option.isSome_iff_ne_none.mpr hregion
  exact ⟨fun hreads hc => exec_spawn_held a b s s1 pl hr hreads hc,
    fun hreads hok hp => exec_evpost_held hr hreads rfl rfl rfl hok hp,
    fun ha => ⟨exec_cwpub_held a cancel s hr ha, exec_cappend_held a k s hr ha⟩,
    fun ps hreads hx ht => exec_sxapp_held a b s s1 ps hr hreads hx ht⟩

end Sys2Proof.Machine
end

section
/-!
PROOFS. What a store does to the bytes of its place (R117, R332): the bytes of a number in a sparse map, and in a buffer of a core or in memory.
-/

namespace Sys2Proof.Machine

/-! ### The bytes of a number in a sparse map -/

theorem SMap.sorted_put {α : Type} [DecidableEq α] (m : SMap α) (d : α) (k : Nat) (x : α) (h : SMap.sorted m = true) :
    SMap.sorted (SMap.put m d k x) = true := by
  simp only [SMap.put]
  split
  · exact SMap.sorted_erase m k h
  · exact SMap.sorted_set m k x h

/-- A sparse map of bytes with listed bytes written from an address on. -/
def SMap.putBytes (m : SMap Byte) (a : Nat) (bs : SMap Byte) : SMap Byte := bs.foldl (fun m b => SMap.put m 0 (a + b.1) b.2) m

theorem leBytes_succ (v n : Nat) : leBytes v (n + 1) = leBytes v n ++ [(n, BitVec.ofNat 8 (v / 256 ^ n))] := by
  simp [leBytes, List.range_succ]

theorem leBytes_ne_nil (v n : Nat) (h : 0 < n) : leBytes v n ≠ [] := by
  simp [leBytes, Nat.ne_of_gt h]

/-- A store of n bytes touches n bytes. -/
theorem size_leBytes (v n : Nat) : (Action.store (leBytes v n)).size = n := by
  induction n with
  | zero => rfl
  | succ n ih =>
    simp only [Action.size] at ih
    simp [Action.size, leBytes_succ, ih]

theorem putBytes_leBytes_succ (m : SMap Byte) (a v n : Nat) :
    SMap.putBytes m a (leBytes v (n + 1)) = SMap.put (SMap.putBytes m a (leBytes v n)) 0 (a + n) (BitVec.ofNat 8 (v / 256 ^ n)) := by
  simp [SMap.putBytes, leBytes_succ]

theorem sorted_putBytes (m : SMap Byte) (a v n : Nat) (h : SMap.sorted m = true) :
    SMap.sorted (SMap.putBytes m a (leBytes v n)) = true := by
  induction n with
  | zero => exact h
  | succ n ih => rw [putBytes_leBytes_succ]; exact SMap.sorted_put _ _ _ _ ih

/-- A read after the bytes of a number are written gives them at their addresses, and what stood there at every other. -/
theorem getD_putBytes (m : SMap Byte) (a v n i : Nat) (h : SMap.sorted m = true) :
    SMap.getD (SMap.putBytes m a (leBytes v n)) 0 i
      = if a ≤ i ∧ i < a + n then BitVec.ofNat 8 (v / 256 ^ (i - a)) else SMap.getD m 0 i := by
  induction n with
  | zero => rw [if_neg (by omega)]; rfl
  | succ n ih =>
    rw [putBytes_leBytes_succ]
    by_cases hi : i = a + n
    · subst hi
      rw [SMap.getD_put_same _ _ _ _ (sorted_putBytes m a v n h), if_pos (by omega), Nat.add_sub_cancel_left]
    · rw [SMap.getD_put_other _ _ _ _ _ hi, ih]
      exact if_congr (by omega) rfl rfl

/-! ### The buffers of a core -/

/-- A core with one of its buffers replaced differs in its buffers alone. -/
theorem Core.setBuf_eq (c : Core) (b : Space) (m : SMap Byte) : ∃ x y z, c.setBuf b m = { c with bufW := x, bufA := y, bufC := z } := by
  cases b <;> exact ⟨_, _, _, rfl⟩

/-- What a buffer of a core holds rests on its three buffers alone. -/
theorem Core.buf_congr {c d : Core} (hw : c.bufW = d.bufW) (ha : c.bufA = d.bufA) (hc : c.bufC = d.bufC) (b : Space) : c.buf b = d.buf b := by
  cases b <;> simp [Core.buf, hw, ha, hc]

/-- The space is a buffer that loads and stores reach. -/
def Space.isBank (b : Space) : Prop := b = .bufA ∨ b = .bufC

theorem Core.buf_setBuf_same (c : Core) (b : Space) (m : SMap Byte) (h : b.isBank) : (c.setBuf b m).buf b = m := by
  rcases h with rfl | rfl <;> rfl

theorem Core.buf_setBuf_other (c : Core) (b b' : Space) (m : SMap Byte) (h : b' ≠ b) : (c.setBuf b m).buf b' = c.buf b' := by
  cases b <;> cases b' <;> simp [Core.buf, Core.setBuf] at h ⊢

theorem Core.setBuf_setBuf (c : Core) (b : Space) (m n : SMap Byte) : (c.setBuf b m).setBuf b n = c.setBuf b n := by
  cases b <;> rfl

theorem Space.isBank.buffer {b : Space} (h : b.isBank) : b ∈ [Space.bufW, Space.bufA, Space.bufC] := by
  rcases h with rfl | rfl <;> decide

theorem Space.isBank.ne_mem {b : Space} (h : b.isBank) : (b == .mem) = false := by
  rcases h with rfl | rfl <;> rfl

theorem Space.isBank.sorted {b : Space} (h : b.isBank) (c : Core) (ha : SMap.sorted c.bufA = true) (hc : SMap.sorted c.bufC = true) :
    SMap.sorted (c.buf b) = true := by
  rcases h with rfl | rfl
  · exact ha
  · exact hc

/-- The core with listed bytes of one of its buffers written from an offset on. -/
def Core.putBuf (c : Core) (b : Space) (a : Nat) (bs : SMap Byte) : Core := c.setBuf b (SMap.putBytes (c.buf b) a bs)

theorem Core.putBuf_eq (c : Core) (b : Space) (a : Nat) (bs : SMap Byte) :
    ∃ x y z, c.putBuf b a bs = { c with bufW := x, bufA := y, bufC := z } := c.setBuf_eq b _

theorem Core.buf_putBuf_same (c : Core) (b : Space) (a : Nat) (bs : SMap Byte) (h : b.isBank) :
    (c.putBuf b a bs).buf b = SMap.putBytes (c.buf b) a bs := c.buf_setBuf_same b _ h

theorem Core.buf_putBuf_other (c : Core) (b b' : Space) (a : Nat) (bs : SMap Byte) (h : b' ≠ b) :
    (c.putBuf b a bs).buf b' = c.buf b' := c.buf_setBuf_other b b' _ h

/-- A byte of a core's buffer, by its offset. -/
theorem placeByte_buffer (s : State) (b : Space) (k i : Nat) (h : b ∈ [Space.bufW, Space.bufA, Space.bufC]) :
    placeByte s { space := b, key := k, addr := 0 } i = SMap.getD ((coreAt s k).buf b) 0 i := by
  simp only [List.mem_cons, List.not_mem_nil, or_false] at h
  rcases h with rfl | rfl | rfl <;> simp [placeByte]

/-! ### A store into a buffer of a core (R117) -/

/-- t is s with core k replaced by c, up to the marks of poison that a write cleans and the wait of WAITA that it ends. -/
def Replaces (k : Nat) (s t : State) (c : Core) : Prop :=
  t.mem = s.mem ∧ t.cur = s.cur ∧ (∀ j, j ≠ k → coreAt t j = coreAt s j)
    ∧ ∃ po w st, coreAt t k = { c with poison := po, wait := w, stalled := st }

theorem Replaces.refl (k : Nat) (s : State) : Replaces k s s (coreAt s k) := ⟨rfl, rfl, fun _ _ => rfl, _, _, _, rfl⟩

theorem Replaces.trans {k : Nat} {s t u : State} {c : Core} (h : Replaces k s t c) (h' : Replaces k t u (coreAt t k)) :
    Replaces k s u c := by
  obtain ⟨hm, hc, ho, po, w, st, hk⟩ := h
  obtain ⟨hm', hc', ho', po', w', st', hk'⟩ := h'
  exact ⟨hm'.trans hm, hc'.trans hc, fun j hj => (ho' j hj).trans (ho j hj), po', w', st', by rw [hk', hk]⟩

theorem replaces_modCoreAt (k : Nat) (s : State) (f : Core → Core) : Replaces k s (modCoreAt s k f) (f (coreAt s k)) :=
  ⟨rfl, rfl, fun _ hj => coreAt_modCoreAt_other _ _ _ _ hj, _, _, _, coreAt_modCoreAt_same _ _ _⟩

/-- What replaces a core by one that differs in its marks and its wait alone. -/
theorem Replaces.of_marks {k : Nat} {s t : State} {c : Core} (h : Replaces k s t c)
    (hc : ∃ po w st, c = { coreAt s k with poison := po, wait := w, stalled := st }) : Replaces k s t (coreAt s k) := by
  obtain ⟨hm, hcur, ho, po, w, st, hk⟩ := h
  obtain ⟨_, _, _, rfl⟩ := hc
  exact ⟨hm, hcur, ho, po, w, st, hk⟩

theorem cleanPlace_replaces (s : State) (p : Place) (n : Nat) (hb : p.space.isBank) :
    Replaces p.key s (cleanPlace s p n) (coreAt s p.key) := by
  rcases hb with hs | hs <;> simp only [cleanPlace, hs] <;> exact (replaces_modCoreAt _ _ _).of_marks ⟨_, _, _, rfl⟩

theorem cleanBytes_replaces (s : State) (p : Place) (bs : SMap Byte) (hb : p.space.isBank) :
    Replaces p.key s (cleanBytes s p bs) (coreAt s p.key) := by
  unfold cleanBytes
  generalize byteRuns bs = l
  induction l generalizing s with
  | nil => exact Replaces.refl _ s
  | cons r l ih => exact (cleanPlace_replaces s { p with addr := p.addr + r.1 } r.2 hb).trans (ih _)

theorem noteWrite_replaces (s : State) (k : Nat) : Replaces k s (noteWrite s k) (coreAt s k) := by
  unfold noteWrite
  split
  · dsimp only
    split
    · exact Replaces.refl k s
    · exact (replaces_modCoreAt _ _ _).of_marks ⟨_, _, _, rfl⟩
  · exact Replaces.refl k s

/-- A write to a core that is no twin's primary wakes that core alone (R235). -/
theorem noteBank_replaces (s : State) (p : Place) (ht : (coreAt s p.key).twin = none) :
    Replaces p.key s (noteBank s p) (coreAt s p.key) := by
  unfold noteBank
  split
  · have h := noteWrite_replaces s p.key
    obtain ⟨-, -, -, po, w, st, hk⟩ := h
    simp only [hk, ht]
    exact noteWrite_replaces s p.key
  · exact Replaces.refl _ s

/-- A core that is no twin's primary has its buffers to itself (R414). -/
theorem mirrorTwin_none (s : State) (src : Nat) (p : Place) (once clean : Bool) (offs : List Nat) (ht : (coreAt s p.key).twin = none) :
    mirrorTwin s src p once clean offs = s := by
  unfold mirrorTwin
  rw [ht]

theorem modCoreAt_modCoreAt (s : State) (k : Nat) (f g : Core → Core) : modCoreAt (modCoreAt s k f) k g = modCoreAt s k (fun c => g (f c)) := by
  simp [modCoreAt]

theorem setPlaceByte_bank (s : State) (p : Place) (i : Nat) (x : Byte) (hb : p.space.isBank) :
    setPlaceByte s p i x = modCoreAt s p.key (fun c => c.putBuf p.space p.addr [(i, x)]) := by
  rcases hb with hs | hs <;> simp only [setPlaceByte, hs] <;> rfl

/-- Listed bytes written into a buffer of a core replace that buffer. -/
theorem setPlaceBytes_bank (s : State) (p : Place) (bs : SMap Byte) (hb : p.space.isBank) (hn : bs ≠ []) :
    setPlaceBytes s p bs = modCoreAt s p.key (fun c => c.putBuf p.space p.addr bs) := by
  induction bs generalizing s with
  | nil => exact absurd rfl hn
  | cons b bs ih =>
    have hstep : setPlaceBytes s p (b :: bs) = setPlaceBytes (setPlaceByte s p b.1 b.2) p bs := rfl
    rw [hstep, setPlaceByte_bank s p b.1 b.2 hb]
    cases bs with
    | nil => rfl
    | cons b' bs =>
      rw [ih _ (List.cons_ne_nil _ _), modCoreAt_modCoreAt]
      congr 1
      funext c
      simp only [Core.putBuf, Core.buf_setBuf_same _ _ _ hb, Core.setBuf_setBuf]
      rfl

/-- A store into a buffer of a core that is no twin's primary, where no word that it writes is sync-tagged, performs, and replaces its
bytes of that buffer. -/
theorem performAt_bank (s : State) (src : Nat) (p : Place) (bs : SMap Byte) (hb : p.space.isBank) (hn : bs ≠ [])
    (ht : (coreAt s p.key).twin = none) (htag : actTagged s p (.store bs) = false) :
    ∃ t, performAt s src p (.store bs) = (t, .ok 0) ∧ Replaces p.key s t ((coreAt s p.key).putBuf p.space p.addr bs) := by
  have hset : Replaces p.key s (setPlaceBytes s p bs) ((coreAt s p.key).putBuf p.space p.addr bs) := by
    rw [setPlaceBytes_bank s p bs hb hn]
    exact replaces_modCoreAt _ _ _
  have hclean := hset.trans (cleanBytes_replaces (setPlaceBytes s p bs) p bs hb)
  have ht' : (coreAt (cleanBytes (setPlaceBytes s p bs) p bs) p.key).twin = none := by
    obtain ⟨-, -, -, po, w, st, hk⟩ := hclean
    obtain ⟨x, y, z, hc⟩ := (coreAt s p.key).putBuf_eq p.space p.addr bs
    rw [hk, hc]
    exact ht
  refine ⟨_, ?_, hclean.trans (noteBank_replaces _ p ht')⟩
  unfold performAt
  simp only [htag, hb.ne_mem, Bool.false_eq_true, if_false]
  rw [mirrorTwin_none _ _ _ _ _ _ ht']

/-- The bytes of a buffer after a number is written into it. -/
theorem placeByte_putBytes {k : Nat} {s t : State} {b : Space} {a v n : Nat} (hb : b ∈ [Space.bufW, Space.bufA, Space.bufC])
    (hsort : SMap.sorted ((coreAt s k).buf b) = true)
    (hk : (coreAt t k).buf b = SMap.putBytes ((coreAt s k).buf b) a (leBytes v n)) (i : Nat) :
    placeByte t { space := b, key := k, addr := 0 } i
      = if a ≤ i ∧ i < a + n then BitVec.ofNat 8 (v / 256 ^ (i - a)) else placeByte s { space := b, key := k, addr := 0 } i := by
  rw [placeByte_buffer _ _ _ _ hb, placeByte_buffer _ _ _ _ hb, hk]
  exact getD_putBytes _ _ _ _ _ hsort

end Sys2Proof.Machine
end

section
/-!
PROOFS. Stores (R223, R224): what every form of a store runs after its operands are read, and the store of a region into its window (R122,
R332).
-/

namespace Sys2Proof.Machine

open Sys2Proof.Spec

/-! ### What a store runs -/

/-- What a store of the form `f` of the number v runs once its operands are read. -/
def storeSteps (f : Access) (v : Nat) : Act Unit := do
  let pl ← checkAccess .store f.ea f.size f.pol
  storeTo pl f.ea f.ord f.scope (leBytes v f.size)
  retire f.length

/-- An M-format store reads its pointer and its value and goes on as its form says (R223). -/
theorem store_run (i : Instr) (d a : BitVec 4) (ord : BitVec 2) (scope : BitVec 3) (pol : BitVec 2) (off : BitVec 10) (size : Nat)
    (s : State) (h : s.core.readsOk [a.toNat, d.toNat] = true) :
    store d a ord scope pol off size s
      = storeSteps (mForm i [a.toNat, d.toNat] (s.core.valueOf a.toNat) size ord scope pol off)
          ((s.core.popped a.toNat).valueOf d.toNat).toNat (s.afterReads [a.toNat, d.toNat]) := by
  simp only [Core.readsOk, Bool.and_true, Bool.and_eq_true] at h
  unfold store
  rw [readReg_bind _ _ _ h.1, readReg_bind _ _ _ (by simpa using h.2), core_popped]
  rfl

/-- A 16-bit store reads its pointer and its value and goes on as its form says (R175). -/
theorem store16_run (i : Instr) (d a : BitVec 4) (x : BitVec 2) (size : Nat) (s : State) (h : s.core.readsOk [a.toNat, d.toNat] = true) :
    store16 d a x size s = storeSteps
      { instr := i, regs := [a.toNat, d.toNat], ea := s.core.valueOf a.toNat + BitVec.ofNat 64 (x.toNat * size), size := size, pol := 0
        acquire := false, ord := 0, scope := 0, length := 2 }
      ((s.core.popped a.toNat).valueOf d.toNat).toNat (s.afterReads [a.toNat, d.toNat]) := by
  simp only [Core.readsOk, Bool.and_true, Bool.and_eq_true] at h
  unfold store16
  rw [readReg_bind _ _ _ h.1, readReg_bind _ _ _ (by simpa using h.2), core_popped]
  rfl

/-- The reads of a pair, low register first (R170). -/
theorem readPair_ok (d : BitVec 4) (s : State) (h : s.core.readsOk (if d = 0 then [] else [d.toNat, d.toNat + 1]) = true) :
    readPair d.toNat s = .ok (if d = 0 then (0, 0) else (s.core.valueOf d.toNat, (s.core.popped d.toNat).valueOf (d.toNat + 1)),
      s.afterReads (if d = 0 then [] else [d.toNat, d.toNat + 1])) := by
  unfold readPair
  by_cases hd : d = 0
  · subst hd; rfl
  · have hn : d.toNat ≠ 0 := fun h0 => hd (BitVec.eq_of_toNat_eq h0)
    simp only [hd, if_false, Core.readsOk, Bool.and_true, Bool.and_eq_true] at h
    simp only [hd, hn, if_false]
    rw [readReg_bind _ _ _ h.1, readReg_bind _ _ _ (by simpa using h.2), core_popped]
    rfl

/-- STQ stores its pair, low register first; the zero pair stores zeros (R170, R223). -/
theorem exec_stq_run (d a : BitVec 4) (ord : BitVec 2) (scope : BitVec 3) (pol : BitVec 2) (off : BitVec 10) (s : State)
    (h : s.core.readsOk (a.toNat :: if d = 0 then [] else [d.toNat, d.toNat + 1]) = true) :
    ∃ act, exec (.stq d a ord scope pol off) s = runInstr act s ∧ act s
      = storeSteps (mForm (.stq d a ord scope pol off) (a.toNat :: if d = 0 then [] else [d.toNat, d.toNat + 1]) (s.core.valueOf a.toNat) 16
            ord scope pol off)
          (if d = 0 then 0 else ((s.core.popped a.toNat).valueOf d.toNat).toNat
            + 2 ^ 64 * (((s.core.popped a.toNat).popped d.toNat).valueOf (d.toNat + 1)).toNat)
          (s.afterReads (a.toNat :: if d = 0 then [] else [d.toNat, d.toNat + 1])) := by
  refine ⟨_, rfl, ?_⟩
  simp only [Core.readsOk, Bool.and_eq_true] at h
  rw [readReg_bind _ _ _ h.1, bind_ok _ _ _ _ _ (readPair_ok d _ (by simpa using h.2)), core_popped]
  by_cases hd : d = 0
  · subst hd; rfl
  · simp only [hd, if_false]; rfl

/-- Every store runs, after its operands, what its form says (R222 to R224). -/
theorem exec_storeForm (d a b : BitVec 4) (ord : BitVec 2) (scope : BitVec 3) (pol : BitVec 2) (off : BitVec 10) (x : BitVec 2) (s : State) :
    ∀ p ∈ storeForms s.core d a b ord scope pol off x, s.core.readsOk p.1.regs = true →
      ∃ act, exec p.1.instr s = runInstr act s ∧ act s = storeSteps p.1 p.2 (s.afterReads p.1.regs) := by
  have m := fun i size => store_run i d a ord scope pol off size s
  have short := fun i size => store16_run i d a x size s
  simp only [storeForms, List.forall_mem_cons]
  refine ⟨fun h => ⟨_, rfl, m _ _ h⟩, fun h => ⟨_, rfl, m _ _ h⟩, fun h => ⟨_, rfl, m _ _ h⟩, fun h => ⟨_, rfl, m _ _ h⟩,
    exec_stq_run d a ord scope pol off s, fun h => ⟨_, rfl, ?_⟩, fun h => ⟨_, rfl, short _ _ h⟩, fun h => ⟨_, rfl, short _ _ h⟩,
    List.forall_mem_nil _⟩
  simp only [Core.readsOk, Bool.and_true, Bool.and_eq_true] at h
  rw [readReg_bind _ _ _ h.1, readReg_bind _ _ _ (by simpa using h.2.1), readReg_bind _ _ _ (by simpa using h.2.2)]
  simp only [core_popped]
  rfl

/-! ### The window of a region -/

/-- The state after the running core has given a stamp of its program order. -/
def State.stamped (s : State) : State := s.withCore { s.core with stamp := s.core.stamp + 1 }

@[simp] theorem core_stamped (s : State) : s.stamped.core = { s.core with stamp := s.core.stamp + 1 } := core_withCore _ _

/-- The running core with n bytes of its region's window marked (R334). -/
def State.marking (s : State) (off n : Nat) : State := s.withCore { s.core with region := s.core.region.map (fun r => r.mark off n) }

section

variable {pl : Place × Policy} {bs : SMap Byte} {s : State} {r : Region}

/-- A store into the window of its core's region, with no earlier access in its way, performs at once and marks its bytes (R122, R332). -/
theorem storeTo_window (ea : Word) (ord scope : Nat) (hr : s.core.region = some r) (hw : inWindow r s.cur pl.1 = true)
    (ha : s.core.acquirePending = false) (hq : s.core.cq = []) (hb : s.core.rbuf = []) :
    storeTo pl ea ord scope bs false s = .ok ((),
      (performAt s.stamped s.cur pl.1 (.store bs)).1.marking pl.1.addr (Action.store bs).size) := by
  have hacq : afterAcquire s.stamped = .ok ((), s.stamped) := afterAcquire_ok _ (by rw [core_stamped]; exact ha)
  have hent : mkEntry (.store bs) pl ea ord scope s = .ok (entryOf s (.store bs) pl ea ord scope, s.stamped) := mkEntry_ok ..
  unfold storeTo
  rw [bind_ok _ _ _ _ _ (get_run s), bind_ok _ _ _ _ _ hent]
  simp only [hr, hw, if_true]
  rw [bind_ok _ _ _ _ _ hacq]
  simp only [hq, hb]
  rfl

/-- Every store writes at least one byte. -/
theorem storeForm_size (c : Core) (d a b : BitVec 4) (ord : BitVec 2) (scope : BitVec 3) (pol : BitVec 2) (off : BitVec 10) (x : BitVec 2) :
    ∀ p ∈ storeForms c d a b ord scope pol off x, 0 < p.1.size := by
  simp [storeForms, mForm]

/-- A place of the window is one of its core's own A or C buffer (R332). -/
theorem inWindow_place {r : Region} {k : Nat} {p : Place} (h : inWindow r k p = true) : p.space.isBank ∧ p.key = k := by
  simp only [inWindow, Bool.and_eq_true, beq_iff_eq] at h
  obtain ⟨⟨⟨hs, hk⟩, -⟩, -⟩ := h
  refine ⟨?_, hk⟩
  rw [hs, Window.space]
  split
  · exact .inl rfl
  · exact .inr rfl

/-- Which words of a buffer are sync-tagged does not rest on the core's stamp. -/
theorem actTagged_stamped (s : State) (p : Place) (bs : SMap Byte) (h : p.key = s.cur) :
    actTagged s.stamped p (.store bs) = actTagged s p (.store bs) := by
  have hc : coreAt s.stamped p.key = { coreAt s p.key with stamp := (coreAt s p.key).stamp + 1 } := by
    rw [h]; exact core_stamped s
  unfold actTagged
  rw [hc]
  rfl

theorem Core.putBuf_stamp (c : Core) (n : Nat) (b : Space) (a : Nat) (bs : SMap Byte) :
    ({ c with stamp := n } : Core).putBuf b a bs = { c.putBuf b a bs with stamp := n } := by
  cases b <;> rfl

theorem Core.region_putBuf (c : Core) (b : Space) (a : Nat) (bs : SMap Byte) : (c.putBuf b a bs).region = c.region := by
  cases b <;> rfl

/-- A store into the window: its buffer's bytes are replaced and marked, and nothing else of the machine changes but the core's stamp, its marks
of poison and its wait. -/
theorem storeTo_window_core (ea : Word) (ord scope : Nat) (hn : bs ≠ []) (hr : s.core.region = some r) (hw : inWindow r s.cur pl.1 = true) (ha : s.core.acquirePending = false) (hq : s.core.cq = [])
    (hb : s.core.rbuf = []) (ht : s.core.twin = none) (htag : actTagged s pl.1 (.store bs) = false) :
    ∃ t, storeTo pl ea ord scope bs false s = .ok ((), t) ∧ t.mem = s.mem ∧ t.cur = s.cur
      ∧ ∃ po w st n, t.core = { s.core.putBuf pl.1.space pl.1.addr bs with
          stamp := n, region := some (r.mark pl.1.addr (Action.store bs).size), poison := po, wait := w, stalled := st } := by
  obtain ⟨hbank, hk⟩ := inWindow_place hw
  have hcore : coreAt s.stamped pl.1.key = s.stamped.core := by rw [hk]; rfl
  obtain ⟨t, hperf, hmem, hcur, -, po, w, st, hcoreT⟩ := performAt_bank s.stamped s.cur pl.1 bs hbank hn (by rw [hcore, core_stamped]; exact ht)
    (by rw [actTagged_stamped _ _ _ hk]; exact htag)
  refine ⟨_, storeTo_window ea ord scope hr hw ha hq hb, ?_⟩
  rw [hperf]
  refine ⟨hmem, hcur, po, w, st, s.core.stamp + 1, ?_⟩
  have htc : t.core = coreAt t pl.1.key := by rw [hk, State.core, hcur]; rfl
  rw [State.marking, core_withCore, htc, hcoreT, hcore, core_stamped, Core.putBuf_stamp]
  simp only [Core.region_putBuf, hr, Option.map_some]

end

/-- A store whose access succeeds completes. -/
theorem storeSteps_ok (f : Access) (v : Nat) (s s1 t : State) (pl : Place × Policy) (hc : checkAccess .store f.ea f.size f.pol s = .ok (pl, s1))
    (h : storeTo pl f.ea f.ord f.scope (leBytes v f.size) false s1 = .ok ((), t)) :
    storeSteps f v s = .ok ((), t.withCore (t.core.advance f.length)) := by
  unfold storeSteps
  rw [bind_ok _ _ _ _ _ hc, bind_ok _ _ _ _ _ h, retire_run]

/-- Settles O19: the store performs at once, in one buffer of its core, and completes. -/
theorem storesIntoTheWindow : Obligations.StoresIntoTheWindow := by
  intro d a b ord scope pol off x s s1 pl r p hp hreads hc hr hw ha hq hb ht htag hsa hsc
  have hsize := storeForm_size s.core d a b ord scope pol off x p hp
  obtain ⟨act, hexec, hact⟩ := exec_storeForm d a b ord scope pol off x s p hp hreads
  obtain ⟨t, hstore, hmem, hcur, po, w, st, n, hcore⟩ := storeTo_window_core p.1.ea p.1.ord p.1.scope
    (leBytes_ne_nil _ _ hsize) hr hw ha hq hb ht htag
  obtain ⟨hbank, -⟩ := inWindow_place hw
  obtain ⟨y, z, u, hput⟩ := s1.core.putBuf_eq pl.1.space pl.1.addr (leBytes p.2 p.1.size)
  have hdone : (t.withCore (t.core.advance p.1.length)).core = t.core.advance p.1.length := core_withCore _ _
  have hbuf : ∀ sp, (coreAt (t.withCore (t.core.advance p.1.length)) s1.cur).buf sp
      = (s1.core.putBuf pl.1.space pl.1.addr (leBytes p.2 p.1.size)).buf sp := by
    intro sp
    rw [← hcur, ← cur_withCore t (t.core.advance p.1.length)]
    show (t.withCore (t.core.advance p.1.length)).core.buf sp = _
    rw [hdone, hcore]
    exact Core.buf_congr rfl rfl rfl sp
  refine ⟨_, hexec.trans (runInstr_ok _ _ _ (hact.trans (storeSteps_ok _ _ _ _ _ _ hc hstore))), ⟨hcur, ?_⟩, hmem,
    placeByte_putBytes hbank.buffer (hbank.sorted _ hsa hsc) ((hbuf _).trans (Core.buf_putBuf_same _ _ _ _ hbank)), fun sp hsp hne i => ?_, ?_⟩
  · rw [hdone, hcore, hput]
    exact ⟨rfl, rfl, rfl, rfl, rfl, rfl, rfl, rfl⟩
  · rw [placeByte_buffer _ _ _ _ hsp, placeByte_buffer _ _ _ _ hsp, hbuf, Core.buf_putBuf_other _ _ _ _ _ hne]
    rfl
  · rw [hdone, hcore, size_leBytes]
    rfl

end Sys2Proof.Machine
end

section
/-!
PROOFS. The performing of stores and atomics (R116, R117, R119, R226): at the head of a commit queue into the core's own buffer, and at a home
into memory.
-/

namespace Sys2Proof.Machine

open Sys2Proof.Spec

/-! ### The head of a commit queue in its own buffer (R119) -/

section

variable {s : State} {k : Nat} {e : Entry} {rest : List Entry} {bs : SMap Byte}

/-- The head entry of a core that is no twin takes its next step without a comparison (R414). -/
theorem performHead_single (ht : (coreAt s k).twin = none) : performHead s k = stepHead s k := by
  simp [performHead, headCompared, ht]

/-- A store of the head entry into the core's own buffer performs there (R119). -/
theorem stepHead_here (hq : (coreAt s k).cq = e :: rest) (ha : e.act = .store bs) (hb : e.place.space.isBank) (hk : e.place.key = k)
    (hr : headReady s k e = true) : stepHead s k = some (performHere s k e) := by
  have hm : byMessage k e = false := by simp [byMessage, ha, hk]
  unfold stepHead
  rw [hq]
  simp only [hr, hm, ha, Bool.not_true, Bool.false_eq_true, if_false]
  rcases hb with hs | hs <;> simp only [hs]

/-- An entry that is no half of a pair performs alone. -/
theorem performHere_single (hp : e.pair = false) :
    performHere s k e = finishEntry (performAt s k e.place e.act).1 k e (performAt s k e.place e.act).2 := by
  unfold performHere
  rw [hp]

/-- A store that has performed leaves its queue, and gives its core no answer. -/
theorem finishEntry_store (old : Word) (ha : e.act = .store bs) : finishEntry s k e (.ok old) = popEntry s k := by
  simp [finishEntry, ha, Action.waits]

/-- An atomic with a result that has performed leaves its queue, and its old value answers its core (R226). -/
theorem finishEntry_amo {op : AmoOp} {w32 : Bool} {b x : Word} (old : Word) (ha : e.act = .amo op w32 b x true) :
    finishEntry s k e (.ok old) = replyTo (popEntry s k) k (.value old 0) := by
  simp [finishEntry, ha, Action.waits]

/-- A store at the head of its core's commit queue performs in the core's own buffer and leaves the queue. -/
theorem commitQueuePerform_store (ht : (coreAt s k).twin = none) (hq : (coreAt s k).cq = e :: rest) (ha : e.act = .store bs) (hn : bs ≠ [])
    (hb : e.place.space.isBank) (hk : e.place.key = k) (hp : e.pair = false) (hr : headReady s k e = true) (htag : actTagged s e.place e.act = false) :
    ∃ t, exec (.commitQueuePerform k) s = .next (popEntry t k)
      ∧ Replaces k s t ((coreAt s k).putBuf e.place.space e.place.addr bs) := by
  subst hk
  obtain ⟨t, hperf, hrep⟩ := performAt_bank s e.place.key e.place bs hb hn ht (ha ▸ htag)
  refine ⟨t, ?_, hrep⟩
  rw [exec_commitQueuePerform, execCommitQueuePerform, performHead_single ht, stepHead_here hq ha hb rfl hr, performHere_single hp, ha, hperf,
    finishEntry_store _ ha]
  rfl

end

/-! ### A home (R116) -/

/-- The state with other contents of memory. -/
def State.withMem (s : State) (m : List Host.Cell) : State := { s with mem := m }

/-- Listed bytes written at a place of memory replace memory's. -/
theorem setPlaceBytes_memory (s : State) (p : Place) (bs : SMap Byte) (hm : p.space = .mem) :
    setPlaceBytes s p bs = s.withMem (SMap.putBytes s.mem p.addr bs) := by
  induction bs generalizing s with
  | nil => rfl
  | cons b bs ih =>
    have hstep : setPlaceBytes s p (b :: bs) = setPlaceBytes (setPlaceByte s p b.1 b.2) p bs := rfl
    rw [hstep, ih]
    simp only [setPlaceByte, hm]
    rfl

/-- Memory's bytes after a number is written into it. -/
theorem memByte_putBytes {s t : State} {a v n : Nat} (hw : Memory.wf s.mem = true) (ht : t.mem = SMap.putBytes s.mem a (leBytes v n)) (i : Nat) :
    memByte t i = if a ≤ i ∧ i < a + n then BitVec.ofNat 8 (v / 256 ^ (i - a)) else memByte s i := by
  unfold memByte
  rw [ht]
  exact getD_putBytes _ _ _ _ _ (Memory.sorted_of_wf _ hw)

/-- Where nothing is poisoned a write cleans nothing. -/
theorem cleanBytes_clean (s : State) (p : Place) (bs : SMap Byte) (hm : p.space = .mem) (hp : s.poison = []) : cleanBytes s p bs = s := by
  unfold cleanBytes
  induction byteRuns bs with
  | nil => rfl
  | cons r l ih =>
    rw [List.foldl_cons]
    have : cleanPlace s { p with addr := p.addr + r.1 } r.2 = s := by simp [cleanPlace, hm, hp]
    rw [this, ih]

/-- No twin's buffer mirrors a place of memory (R414). -/
theorem mirrorTwin_memory (s : State) (src : Nat) (p : Place) (once clean : Bool) (offs : List Nat) (hm : p.space = .mem) :
    mirrorTwin s src p once clean offs = s := by
  unfold mirrorTwin
  split
  · rw [if_pos (.inl hm)]
  · rfl

/-- A write of memory reaches no bank. -/
theorem noteBank_memory (s : State) (p : Place) (hm : p.space = .mem) : noteBank s p = s := by simp [noteBank, hm]

/-- No word of memory is sync-tagged (R230). -/
theorem actTagged_memory (s : State) (p : Place) (a : Action) (hm : p.space = .mem) : actTagged s p a = false := by
  cases a <;> simp [actTagged, tagged, hm]

theorem combineBytes_noRange (s : State) (a n : Nat) (hr : s.ranges = []) : combineBytes s a n = s := by simp [combineBytes, hr]

/-- A store performs in memory that holds no commutative range and no poison: its bytes are written (R117). -/
theorem performAt_store_memory (s : State) (src : Nat) (p : Place) (bs : SMap Byte) (hm : p.space = .mem) (hr : s.ranges = [])
    (hp : s.poison = []) : performAt s src p (.store bs) = (s.withMem (SMap.putBytes s.mem p.addr bs), .ok 0) := by
  unfold performAt
  simp only [actTagged_memory _ _ _ hm, hm, combineBytes_noRange _ _ _ hr, Bool.false_eq_true, if_false, ite_self]
  have hp' : (s.withMem (SMap.putBytes s.mem p.addr bs)).poison = [] := hp
  rw [setPlaceBytes_memory _ _ _ hm, cleanBytes_clean _ _ _ hm hp', mirrorTwin_memory _ _ _ _ _ _ hm, noteBank_memory _ _ hm]

/-- A 64-bit atomic with a result performs in such memory: its new value is written, and its old one is its answer (R226). -/
theorem performAt_amo_memory (s : State) (src : Nat) (p : Place) (op : AmoOp) (b x : Word) (hm : p.space = .mem) (hr : s.ranges = [])
    (hp : s.poison = []) :
    performAt s src p (.amo op false b x true)
      = (s.withMem (SMap.putBytes s.mem p.addr (leBytes (amoValue op 64 (memNat s p.addr 8) b.toNat x.toNat) 8)),
          .ok (word (memNat s p.addr 8))) := by
  have hpois : poisonAt s p 8 = none := by simp [poisonAt, hm, hp]
  have hnat : placeNat s p 8 = memNat s p.addr 8 := congrArg (leNat · 8) (funext fun i => by simp [placeByte, hm])
  unfold performAt
  simp only [actTagged_memory _ _ _ hm, combineBytes_noRange _ _ _ hr, Action.size, hpois, hnat, Bool.false_eq_true, if_false, ite_self]
  rw [setPlaceBytes_memory _ _ _ hm, mirrorTwin_memory _ _ _ _ _ _ hm, noteBank_memory _ _ hm]

/-- The home of a line after its first waiting write is taken from it. -/
def homeTaken (s : State) (line : Nat) (rest : List WaitingWrite) : State := modHomeAt s line (fun y => { y with waiting := rest, crc := 0 })

theorem waiting_homeTaken (s : State) (line : Nat) (rest : List WaitingWrite) : (homeAt (homeTaken s line rest) line).waiting = rest :=
  congrArg Home.waiting (homeAt_modHomeAt_same s line _)

/-- The first write that waits at an open home performs, where it is that of its core's head entry, has no right to lose, and is no store
that keeps a copy of the herd (R113, R116). -/
theorem homePerformWrite_core {s : State} {line k : Nat} {w : WaitingWrite} {rest : List WaitingWrite} {e : Entry} {more : List Entry}
    (hw : (homeAt s line).waiting = w :: rest) (hc : (homeAt s line).crc ≤ 3) (ho : homeOpen s line = true) (hcell : e.cell = false)
    (hsrc : w.src = .core k) (hq : (coreAt s k).cq = e :: more)
    (hkeep : ∀ bs, e.act = .store bs → e.pol ≠ .swm ∧ e.pol ≠ .herd) :
    exec (.homePerformWrite line) s = .next (finishEntry (performAt (homeTaken s line rest) k w.place w.act).1 k e
      (performAt (homeTaken s line rest) k w.place w.act).2) := by
  have hcr : cellRefused (homeTaken s line rest) k e = false := by simp [cellRefused, hcell]
  unfold homeTaken at hcr ⊢
  rw [exec_homePerformWrite, execHomePerformWrite, happen]
  unfold performHome
  simp only [hw, hsrc, ho, coreAt_modHomeAt, hq, hcr, Nat.not_lt.mpr hc, Bool.not_true, Bool.false_eq_true, if_false]
  cases ha : e.act
  case store bs => simp [hkeep bs ha]
  all_goals rfl

theorem cq_popEntry (s : State) (k : Nat) : (coreAt (popEntry s k) k).cq = (coreAt s k).cq.drop 1 :=
  congrArg Core.cq (coreAt_modCoreAt_same s k _)

/-- Settles O53: a buffer's store replaces its bytes of the core's buffer, and a home's write performs on memory alone. -/
theorem storesPerform : Obligations.StoresPerform := by
  refine ⟨?_, ?_⟩
  · intro k n v s e rest c buffer ht hq ha hn hsp hk hp hr htag hsa hsc
    have hb : e.place.space.isBank := hsp
    obtain ⟨t, hexec, hmem, -, hother, po, w, st, hcore⟩ := commitQueuePerform_store ht hq ha (leBytes_ne_nil v n hn) hb hk hp hr htag
    obtain ⟨x, y, z, hput⟩ := c.putBuf_eq e.place.space e.place.addr (leBytes v n)
    have hpop : coreAt (popEntry t k) k = { coreAt t k with cq := (coreAt t k).cq.drop 1, stalled := false } := coreAt_modCoreAt_same _ _ _
    have hbuf : (coreAt (popEntry t k) k).buf e.place.space = SMap.putBytes (c.buf e.place.space) e.place.addr (leBytes v n) := by
      rw [← Core.buf_putBuf_same _ _ _ _ hb, hpop, hcore]
      exact Core.buf_congr rfl rfl rfl _
    refine ⟨popEntry t k, hexec, ?_, ?_, hmem, fun j hj => ?_, placeByte_putBytes hb.buffer (hb.sorted c hsa hsc) hbuf⟩
    · rw [cq_popEntry, hcore, hput]
      exact congrArg (List.drop 1) hq
    · rw [hpop, hcore, hput]
    · exact (coreAt_modCoreAt_other _ _ _ _ hj).trans (hother j hj)
  · intro k line n s w rest e more hw hc ho hcell hsrc hm hq hact hwf hr hp
    have hhome := homePerformWrite_core hw hc ho hcell hsrc hq
    have hpop : ∀ m, (coreAt (popEntry ((homeTaken s line rest).withMem m) k) k).cq = more := fun m =>
      (cq_popEntry _ _).trans (congrArg (List.drop 1) hq)
    refine ⟨fun v ha hn hsw hh => ?_, fun op b x ha => ?_⟩
    · rw [ha, performAt_store_memory (homeTaken s line rest) k w.place _ hm hr hp] at hhome
      have hexec := hhome fun _ _ => ⟨hsw, hh⟩
      rw [finishEntry_store _ (hact.trans ha)] at hexec
      exact ⟨_, hexec, hpop _, waiting_homeTaken s line rest, memByte_putBytes hwf rfl⟩
    · rw [ha, performAt_amo_memory (homeTaken s line rest) k w.place op b x hm hr hp] at hhome
      have hexec := hhome fun bs hbs => by rw [hact, ha] at hbs; cases hbs
      rw [finishEntry_amo _ (hact.trans ha)] at hexec
      refine ⟨_, hexec, ?_, congrArg Core.reply (coreAt_modCoreAt_same _ k _), memByte_putBytes hwf rfl⟩
      exact (congrArg Core.cq (coreAt_modCoreAt_same _ k _)).trans (hpop _)

end Sys2Proof.Machine
end

section
/-!
PROOFS. The events of the agents (R106): each answers the state to which its agent moves, or the state itself where the agent is not due.
-/

namespace Sys2Proof.Machine

open Sys2Proof.Spec

/-- An event that is due only under a condition answers as an event of an agent that may not be due. -/
theorem next_ite (c : Prop) [Decidable c] (s t : State) :
    (.next (if c then t else s) : Out) = .next ((if c then some t else none).getD s) := by
  split <;> rfl

/-- A message arrives by the event of its row, and by no other. -/
theorem arriveRow_eq (s : State) (n : Nat) (row : MsgRow) : arriveRow s n row = .next ((rowEvent s n row).getD s) := by
  unfold arriveRow rowEvent
  cases s.net[n]? with
  | none => rfl
  | some m => by_cases h : msgRow s m = row <;> simp [h, happen]

/-- The recall of a line reaches a herd that its home lists as a holder. -/
theorem exec_recall_next (h line : Nat) (s : State) :
    exec (.recall h line) s = .next ((if h ∈ (homeAt s line).holders then some (recallHerd s h line) else none).getD s) := by
  rw [exec_recall, ← next_ite]
  simp [execRecall]

/-- A scrub of stored weights poisons a granule of those that are loaded. -/
theorem exec_macroScrub_next (k m : Nat) (s : State) :
    exec (.macroScrub k m) s = .next ((if m % 16 < 12 ∧ 16 ≤ m ∧ m / 16 ≤ 128 ∧ (vget (coreAt s k).macs MacroState.reset (m % 16)).loaded
      then some (poisonCore s k 2 (128 * (m % 16) + (m / 16 - 1))) else none).getD s) := by
  rw [exec_macroScrub, ← next_ite]
  simp [execMacroScrub, and_assoc]

/-- A patrol scrub counts a corrected error of a die's place, or meets an uncorrectable one. -/
theorem exec_patrolScrub_next (n m k : Nat) (s : State) :
    exec (.patrolScrub n m k) s = .next ((if n < 9 then some (countCorrected s n m)
      else if 16 ≤ n then some (scrubError s (n - 16) m k) else none).getD s) := by
  rw [exec_patrolScrub, execPatrolScrub]
  split
  · rfl
  · exact next_ite _ _ _

/-- A router fails where its die has one. -/
theorem exec_routerFailure_next (d x y : Nat) (s : State) :
    exec (.routerFailure d x y) s = .next ((if d < 8 ∧ x < 64 ∧ y < 80 then some (failRouter s (coreKey d x y)) else none).getD s) := by
  rw [exec_routerFailure, ← next_ite]
  simp [execRouterFailure, and_assoc]

theorem memoryEvents_move (n m : Nat) (b : Bool) (s : State) : ∀ p ∈ memoryEvents n m b s, exec p.1 s = .next (p.2.getD s) := by
  have row := arriveRow_eq s n
  simp only [memoryEvents, List.forall_mem_cons]
  exact ⟨rfl, rfl, rfl, rfl, rfl, rfl, row _, row _, row _, row _, row _, row _, row _, row _, row _, row _, row _, rfl, rfl, rfl, rfl,
    exec_recall_next n m s, rfl, rfl, rfl, rfl, rfl, rfl, rfl, rfl, rfl, rfl, rfl, rfl, rfl, List.forall_mem_nil _⟩

theorem schedulerEvents_move (n m : Nat) (r : Rect) (s : State) : ∀ p ∈ schedulerEvents n m r s, exec p.1 s = .next (p.2.getD s) := by
  simp only [schedulerEvents, List.forall_mem_cons]
  exact ⟨rfl, rfl, rfl, rfl, rfl, rfl, next_ite _ _ _, rfl, rfl, rfl, rfl, rfl, rfl, rfl, rfl, rfl, rfl, rfl, rfl, rfl, List.forall_mem_nil _⟩

theorem outsideEvents_move (n m k v : Nat) (b : Bool) (s : State) : ∀ p ∈ outsideEvents n m k v b s, exec p.1 s = .next (p.2.getD s) := by
  simp only [outsideEvents, List.forall_mem_cons]
  exact ⟨rfl, exec_macroScrub_next n m s, exec_patrolScrub_next n m k s, rfl, rfl, exec_routerFailure_next n m k s, rfl, rfl, rfl, rfl, rfl,
    rfl, rfl, rfl, rfl, next_ite _ _ _, rfl, rfl, rfl, rfl, rfl, List.forall_mem_nil _⟩

/-- Settles O51: by the three tables of events, each entry of which is the meaning of its event. -/
theorem eventsMoveTheirAgents : Obligations.EventsMoveTheirAgents := by
  intro n m k v b r s p hp
  rcases List.mem_append.mp hp with h | h
  · rcases List.mem_append.mp h with h | h
    · exact memoryEvents_move n m b s p h
    · exact schedulerEvents_move n m r s p h
  · exact outsideEvents_move n m k v b s p h

end Sys2Proof.Machine
end

section
/-!
PROOFS. The encoding (R160 to R184): the bytes of an instruction decode to it, and the decoder gives well-formed instructions alone.
-/

namespace Sys2Proof.Laws.RoundTrip

/-! ### The bytes of an instruction decode to it -/

/-- The bytes of every instruction decode to it: the round trips of the constructors, in the order of the constructors. -/
theorem decode_encode : ∀ i : Instr, Statement i :=
  @Instr.rec Statement
    add sub mul mulh mulhu div divu rem remu and or xor shl shr sha rot min max minu maxu slt sltu seq cmov addw subw madd addx clz ctz
    popc bswap sext zext fadd fsub fmul ffma fdiv fsqrt fmin fmax fcmp fcvt fclass fsgnj fsgnjn fsgnjx addi andi ori xori shli shri shai
    roti bfx bfi li lih lix csrr csrw csrs csrc beq bne blt bge bltu bgeu jal jalr nop trap brk eret sleep fenceI qcfg cxsave cxload ldb
    ldbu ldh ldhu ldw ldwu ldd ldq stb sth stw std stq ldx stx amoadd amoand amoor amoxor amomin amomax amominu amomaxu amoswap cas redadd
    redmin redmax redfadd take put peek feinit fence pref rflush rinv retain unretain crdecl crclr waita tld tst tlds tsts tdld tdst tfill
    textr tins tmov tzero tadd tsub tmul tfma tmin tmax tabs tneg trcp trsq texp2 tlog2 ttanh tcmp tsel tand tor txor tnot tshl tshr tcvt
    tqnt tdq tred tscan tbcast ttrn tperm tgath tscat ttopk tnoise mma mmaz wld wldh wclr aprom aclr amov aadd ald ast acvt aepi mstat
    copy copys jwait jpoll subscr unsub spub hcfg hwait hadvc hadvp binit barv bexp bwait binv wbara wbarw wbmask rnginit rngget spawn
    join evpost treeld cbind cedit cunbind cwopen cwpub cappend vopen vclose crd cfence cstat crevoke sxopen sxapp sxqry sxsave sxload
    sxfree sxstat rbegin rend rabort clkreq exti exts nop16 add16 sub16 and16 or16 xor16 shl16 shr16 sha16 addi16 li16 shli16 shri16
    shai16 ldw16 stw16 ldd16 std16 beqz bnez jalr16 takeInterrupt deferredTrap timerExpire waitaTimeout commitQueuePerform
    regionMoveCommitted homeArrive homePerformWrite homeLoad leaseExpire remoteAccessArrive bankTake bankPeek bankPut bankInit bankBinit
    bankBarv bankBexp bankBwait bankBinv barCompletion writebackRequest writebackGrant writebackCancel writebackData RoundTrip.recall partialSpill
    copyJobDispatch copyJobComplete streamAccept streamDeliver matrixJobStart matrixJobComplete weightJobStart weightJobComplete
    tileUnitDispatch walkerCommandDone sheetPublish staleMark cellDispatch taskComplete cellMarkFresh appendPrefixCopy ringTickInterrupt
    teamPlace teamStart herdStart taskAge spatialPreempt herdsReturn sliceExpire teamResume teamFinish rangeRequest kidComplete wbarArrive
    arbiterEvaluate grantRaiseHerd suffixRebuildDone uncorrectableError macroScrub patrolScrub containmentStart containmentFenceLift
    routerFailure transactionCrcFail readResponseCrcFail linkFlitError remoteTimeout hostMemAccess spdmRequest powerOn thermalPoll
    thermalShutdown sheetnew sheetdel launch teamend teamstatRead teamstatWrite shoot faultend qplace dieregRead dieregWrite qslice
    suffixIndexPlace suffixMailboxPlace suffixRingAssign power doorbell wbgroup boot debugStop debugResume debugStep svRetain svUnretain
    peerset channelSheetCommand channelSuffixCommand commandDone ringConfigWrite queueConsumerWrite registerWrite illegalInstruction
    instructionFetchFault targetAcknowledgement networkBootFrame

/-! ### What decodes is well-formed -/

/-- What is decoded is no instruction or a well-formed one. -/
def Sound (d : Decoded) : Prop := ∀ i, d = .ok i → i.wf = true

@[simp] theorem sound_bad (r : Reject) (sup : Bool) : Sound (.bad r sup) := nofun

@[simp] theorem sound_form (w : Nat) (zero : List (Nat × Nat)) (i : Instr) : Sound (form w zero i) := by
  intro j h
  unfold form at h
  split at h
  · split at h
    · next hp => cases h; simp [Instr.wf, hp]
    · cases h
  · cases h

@[simp] theorem sound_formIf (w : Nat) (zero : List (Nat × Nat)) (fixed : Bool) (i : Instr) : Sound (formIf w zero fixed i) := by
  unfold formIf
  split
  · next j hj =>
    have hf : Sound (.ok j) := hj ▸ sound_form w zero i
    split
    · exact hf
    · exact sound_bad _ _
  · exact sound_bad _ _
  · split <;> exact sound_bad _ _

/-! ### The tables (R175 to R184): every row is a form, or no instruction -/

@[simp] theorem sound_decodeAlu (w : Nat) : Sound (decodeAlu w) := by fun_cases decodeAlu w <;> simp
@[simp] theorem sound_decodeFlt (w : Nat) : Sound (decodeFlt w) := by fun_cases decodeFlt w <;> simp
@[simp] theorem sound_decodeShi (w : Nat) : Sound (decodeShi w) := by fun_cases decodeShi w <;> simp
@[simp] theorem sound_decodeBitf (w : Nat) : Sound (decodeBitf w) := by fun_cases decodeBitf w <;> simp
@[simp] theorem sound_decodeCsr (w : Nat) : Sound (decodeCsr w) := by fun_cases decodeCsr w <;> simp
@[simp] theorem sound_decodeSys (w : Nat) : Sound (decodeSys w) := by fun_cases decodeSys w <;> simp
@[simp] theorem sound_decodeMidx (w : Nat) : Sound (decodeMidx w) := by fun_cases decodeMidx w <;> simp
@[simp] theorem sound_decodeAmo (w : Nat) : Sound (decodeAmo w) := by fun_cases decodeAmo w <;> simp
@[simp] theorem sound_decodeFe (w : Nat) : Sound (decodeFe w) := by fun_cases decodeFe w <;> simp
@[simp] theorem sound_decodeMctl (w : Nat) : Sound (decodeMctl w) := by fun_cases decodeMctl w <;> simp
@[simp] theorem sound_decodeTmem (w : Nat) : Sound (decodeTmem w) := by fun_cases decodeTmem w <;> simp
@[simp] theorem sound_decodeTop (w : Nat) : Sound (decodeTop w) := by fun_cases decodeTop w <;> simp
@[simp] theorem sound_decodeMma (w : Nat) : Sound (decodeMma w) := by fun_cases decodeMma w <;> simp
@[simp] theorem sound_decodeMx (w : Nat) : Sound (decodeMx w) := by fun_cases decodeMx w <;> simp
@[simp] theorem sound_decodeEng (w : Nat) : Sound (decodeEng w) := by fun_cases decodeEng w <;> simp
@[simp] theorem sound_decodeSync (w : Nat) : Sound (decodeSync w) := by fun_cases decodeSync w <;> simp
@[simp] theorem sound_decodeSheet (w : Nat) : Sound (decodeSheet w) := by fun_cases decodeSheet w <;> simp
@[simp] theorem sound_decodeSuffix (w : Nat) : Sound (decodeSuffix w) := by fun_cases decodeSuffix w <;> simp
@[simp] theorem sound_decodeRgn (w : Nat) : Sound (decodeRgn w) := by fun_cases decodeRgn w <;> simp

/-- A 32-bit word is one of the tables' or a form of its own (R174). -/
theorem sound_decode32 (w : Nat) : Sound (decode32 w) := by fun_cases decode32 w <;> simp

theorem sound_decode16 (w : Nat) : Sound (decode16 w) := by fun_cases decode16 w <;> simp

theorem sound_decodeBytes (bs : List Byte) : Sound (decodeBytes bs) := by
  fun_cases decodeBytes bs
  · exact sound_decode16 _
  · exact sound_decode32 _
  · exact sound_bad _ _
  · exact sound_bad _ _

/-- Settles O56: each constructor's bytes decode to it, and each row of the decoder is a form, which is refused unless it is well-formed. -/
theorem decodeInvertsEncode : Obligations.DecodeInvertsEncode := ⟨decode_encode, sound_decodeBytes⟩

/-- Settles O55: each word is closed, and the decoder evaluates to what the spec gives for it. -/
theorem decodeWords : Obligations.DecodeWords := by
  unfold Obligations.DecodeWords
  decide

end Sys2Proof.Laws.RoundTrip
end

section
/-!
PROOFS. Branches (R167, R202, R204): what the two forms of a branch run after their registers are read.
-/

namespace Sys2Proof.Machine

open Sys2Proof.Spec

@[simp] theorem Core.pc_popped (c : Core) (r : Nat) : (c.popped r).pc = c.pc := by
  unfold Core.popped
  split <;> rfl

/-- N's four values (R167). -/
theorem annuls_eq (n : BitVec 2) (taken : Bool) :
    annuls n taken = match n.toNat with | 0 => false | 1 => taken | 2 => !taken | _ => true := by
  revert n taken
  decide

/-- What the model's branch leaves is the core that the statement describes (R204). -/
theorem branch_eq_branched (c : Core) (size : Nat) (target : Option Word) (annul : Bool) :
    c.branch size target annul = branched c size target annul := by
  cases target <;> rfl

/-- A B-format branch compares its registers, in the order of their reads, and completes (R202, R204). -/
theorem branch_run (a b : BitVec 4) (n : BitVec 2) (disp : BitVec 15) (cond : Word → Word → Bool) (s : State)
    (h : s.core.readsOk [a.toNat, b.toNat] = true) :
    let taken := cond (s.core.valueOf a.toNat) ((s.core.popped a.toNat).valueOf b.toNat)
    runInstr (branch a b n disp cond) s = .next (s.withCore (branched (s.core.afterReads [a.toNat, b.toNat]) 4
      (if taken then some (branchTarget s.core.pc disp) else none) (annuls n taken))) := by
  simp only [Core.readsOk, Bool.and_true, Bool.and_eq_true] at h
  obtain ⟨ha, hb⟩ := h
  apply runInstr_ok
  unfold branch
  rw [readReg_bind _ _ _ ha, readReg_bind _ _ _ (by simpa using hb), bind_ok _ _ _ _ _ (getC_run _), retireBranch_run, branch_eq_branched]
  simp [Core.afterReads]

/-- A 16-bit branch tests its register and completes; both slots execute (R202, R204). -/
theorem branch16_run (hi a : BitVec 4) (lo : BitVec 2) (cond : Word → Bool) (s : State) (h : s.core.readable a.toNat = true) :
    runInstr (branch16 hi a lo cond) s = .next (s.withCore (branched (s.core.popped a.toNat) 2
      (if cond (s.core.valueOf a.toNat) then some (branchTarget s.core.pc (hi ++ lo)) else none) false)) := by
  apply runInstr_ok
  unfold branch16
  rw [readReg_bind _ _ _ h, bind_ok _ _ _ _ _ (getC_run _), retireBranch_run, branch_eq_branched]
  simp

theorem not_ltS (x y : Word) : (!ltS x y) = decide (y.toInt ≤ x.toInt) := by simp [ltS, BitVec.slt, ← decide_not]

theorem not_ltU (x y : Word) : (!ltU x y) = decide (y.toNat ≤ x.toNat) := by simp [ltU, BitVec.ult, ← decide_not]

/-- Each B-format branch is the common form with its condition of the table (R202). -/
theorem exec_branchTable (a b : BitVec 4) (n : BitVec 2) (disp : BitVec 15) (s : State) :
    ∀ p ∈ branchTable, exec (p.1 a b n disp) s = runInstr (branch a b n disp p.2) s := by
  simp only [branchTable, List.forall_mem_cons, ← not_ltS, ← not_ltU]
  refine ⟨rfl, ?_, rfl, rfl, rfl, rfl, List.forall_mem_nil _⟩
  simp only [decide_not]
  rfl

/-- Settles O9: every branch is one of two forms, whose run `branch_run` and `branch16_run` give. -/
theorem branches : Obligations.Branches := by
  refine ⟨?_, ?_⟩
  · intro p hp a b n disp s c rs taken h
    rw [exec_branchTable _ _ _ _ _ p hp, branch_run _ _ _ _ _ _ h, annuls_eq]
    rfl
  · intro hi a lo s c go h
    refine ⟨?_, ?_⟩
    · rw [exec_beqz, execBeqz, branch16_run _ _ _ _ _ h]
      rfl
    · rw [exec_bnez, execBnez, branch16_run _ _ _ _ _ h]
      simp [go, branchTarget, c, bne]

end Sys2Proof.Machine
end

section
/-!
PROOFS. A step (R161, R204, R335): from the turn of the agenda to the fetch, and from the halfwords fetched to the meaning of what they decode to.
-/

namespace Sys2Proof.Machine

open Sys2Proof.Spec

/-! ### From the agenda to the fetch -/

/-- A step that begins an issue is that issue of the current core (R204). -/
theorem step_of_issues {s x : State} (h : issues s x) : step s = issueCore exec decode32 x x.cur := by
  rcases h with ⟨ha, hc, rfl⟩ | ⟨k, rest, ha, rfl⟩
  · simp [step, stepWith, ha, hc]
  · simp only [step, stepWith, ha, runTurn]
    rfl

theorem opensPending_iff (c : Core) : c.opensPending = true ↔ opens c := by
  simp [Core.opensPending, opens, and_assoc]

/-- An issue before which nothing comes is its fetch and what follows (R204, R335). -/
theorem issueCore_of_fetches {x : State} (h : fetches x) (ex : Instr → State → Out) (dec : Nat → Decoded) :
    issueCore ex dec x x.cur = fetchIssue ex dec x x.cur := by
  obtain ⟨hrun, hcont, hcons, hdef, hint, -, -, hopen⟩ := h
  have hloads : (x.core.opensPending && !x.core.loads.isEmpty) = false := by
    by_cases ho : opens x.core
    · simp [hopen ho]
    · simp [Bool.eq_false_iff.mpr (mt (opensPending_iff _).mp ho)]
  unfold State.core at hrun hloads
  simp [issueCore, hrun, hcont, hcons, hdef, hint, hloads]

/-- The pending region opens at the fetched instruction, where one opens (R335). -/
theorem openPending_of_enters {y z : State} (h : enters y z) : openPending y y.cur = z := by
  by_cases ho : opens y.core
  · obtain ⟨w, hw, rfl⟩ := h.1 ho
    have hp := (opensPending_iff _).mpr ho
    unfold State.core at hw hp
    simp only [openPending, hw, hp, if_true]
    rfl
  · rw [h.2 ho]
    exact openPending_same _ _ (Bool.eq_false_iff.mpr (mt (opensPending_iff _).mp ho))

theorem an_openPending (s : State) (k : Nat) : (coreAt (openPending s k) k).an = (coreAt s k).an := by
  unfold openPending
  split
  · split
    · rw [coreAt_setCoreAt_same, Core.openRegion]
    · rfl
  · rfl

/-! ### From the fetch to the meaning -/

section

variable {x y z : State} {i : Instr}

/-- A halfword runs the instruction that it decodes to, where no annulment is left (R163, R204). -/
theorem runHalf_of_enters {h : Nat} (han : y.core.an = 0) (hd : decode16 h = .ok i) (he : enters y z) :
    runHalf (openPending y y.cur) y.cur h = exec i z := by
  have hz : (coreAt (openPending y y.cur) y.cur).an = 0 := (an_openPending y y.cur).trans han
  rw [openPending_of_enters he] at hz ⊢
  simp [runHalf, hz, run16_eq, hd]

/-- A word runs the instruction that it decodes to, where no annulment is left (R162, R204). -/
theorem runWord_of_enters {w : Nat} (han : y.core.an = 0) (hd : decode32 w = .ok i) (he : enters y z) :
    runWord exec decode32 (openPending y y.cur) y.cur w = exec i z := by
  have hz : (coreAt (openPending y y.cur) y.cur).an = 0 := (an_openPending y y.cur).trans han
  rw [openPending_of_enters he] at hz ⊢
  simp [runWord, hz, hd]

section

variable {s : State} (hs : issues s x) (hx : fetches x)
include hs hx

/-- A step that comes to a fetch fetches at an even pc other than the exit address (R202, R372). -/
theorem step_of_fetches : step s = fetchIssue exec decode32 x x.cur ∧ x.core.pc ≠ exitAddr ∧ ¬ x.core.pc.toNat % 2 = 1 := by
  have hstep := (step_of_issues hs).trans (issueCore_of_fetches hx exec decode32)
  obtain ⟨-, -, -, -, -, hexit, heven, -⟩ := hx
  exact ⟨hstep, hexit, by omega⟩

/-- A step that fetches a 16-bit instruction runs it (R161). -/
theorem step_of_half {h : Nat} (hf : fetchHalf x x.cur x.core.pc = (.half h, y)) (hk : y.cur = x.cur) (han : y.core.an = 0)
    (hh : h < 0x8000) (hd : decode16 h = .ok i) (he : enters y z) : step s = exec i z := by
  obtain ⟨hstep, hexit, heven⟩ := step_of_fetches hs hx
  unfold State.core at hf hexit heven
  rw [hstep, ← runHalf_of_enters han hd he, hk]
  simp only [fetchIssue, hexit, heven, hf, hh, if_true, if_false]

/-- A step that fetches a 32-bit instruction runs it (R161). -/
theorem step_of_word {h g : Nat} {y1 : State} (hf : fetchHalf x x.cur x.core.pc = (.half h, y1)) (hh : 0x8000 ≤ h)
    (hg : fetchHalf y1 x.cur (x.core.pc + 2) = (.half g, y)) (hk : y.cur = x.cur) (han : y.core.an = 0)
    (hd : decode32 (h * 65536 + g) = .ok i) (he : enters y z) : step s = exec i z := by
  obtain ⟨hstep, hexit, heven⟩ := step_of_fetches hs hx
  unfold State.core at hf hg hexit heven
  rw [hstep, ← runWord_of_enters han hd he, hk]
  simp only [fetchIssue, hexit, heven, hf, hg, Nat.not_lt.mpr hh, if_false]

end

end

/-! ### The pinned image (R442) -/

/-- The number of two bytes of an image. -/
def imageHalf (image : SMap Byte) (o : Nat) : Nat := (SMap.getD image 0 o).toNat + 256 * (SMap.getD image 0 (o + 1)).toNat

/-- A fetch in a core's one pinned segment gives the halfword of the image, and changes nothing (R214, R442; log 3). -/
theorem fetchHalf_pinned {s : State} {k b l : Nat} {a : Word} (hm : (coreAt s k).cacheMode = false) (hp : (coreAt s k).pins = [(b, l)])
    (hq : (coreAt s k).poison = []) (hb : b ≤ a.toNat) (hl : a.toNat + 2 ≤ b + l) (hs : l ≤ 16384) :
    fetchHalf s k a = (.half (imageHalf (coreAt s k).image (a.toNat - b)), s) := by
  have hsize : ¬ pinnedSize < a.toNat - b + 2 := by unfold pinnedSize; omega
  simp [fetchHalf, hm, hp, pinOffset, hb, hl, hq, hsize, leNat, imageHalf]

/-- Four bytes of an image decode as their first halfword, or as both (R160). -/
theorem decodeBytes_image (image : SMap Byte) (o : Nat) :
    decodeBytes ((List.range 4).map (fun j => SMap.getD image 0 (o + j))) = decodeHalves (imageHalf image o) (imageHalf image (o + 2)) := by
  rfl

/-- Settles O57: the step is its fetch, and the fetch gives the halfwords that decode; a pinned segment gives those of the image. -/
theorem stepRunsDecoded : Obligations.StepRunsDecoded := by
  intro s x i hs hx
  refine ⟨fun h y1 z hf hk han => ⟨step_of_half hs hx hf hk han, fun g y2 hh hg hk2 han2 => step_of_word hs hx hf hh hg hk2 han2⟩, ?_⟩
  intro b l z hm hp hb hl hsize hpois han hd he
  rw [decodeBytes_image] at hd
  obtain ⟨-, hexit, heven⟩ := step_of_fetches hs hx
  have hnext : (x.core.pc + 2).toNat = x.core.pc.toNat + 2 := by
    unfold exitAddr at hexit
    bv_omega
  have hf := fetchHalf_pinned (s := x) (k := x.cur) hm hp hpois hb (by omega) hsize
  have hg := fetchHalf_pinned (s := x) (k := x.cur) (a := x.core.pc + 2) hm hp hpois (by omega) (by omega) hsize
  rw [hnext, Nat.sub_add_comm hb] at hg
  unfold decodeHalves at hd
  split at hd
  · next hh => exact step_of_half hs hx hf rfl han hh hd he
  · next hh => exact step_of_word hs hx hf (Nat.not_lt.mp hh) hg rfl han hd he

end Sys2Proof.Machine
end

section
/-!
PROOFS. Integer instructions (R165, R171, R172, R196 to R198): the values of the model's functions in the form in which the statements give
them, and the four forms of an ALU instruction that the laws of the core run.
-/

namespace Sys2Proof.Machine

open Sys2Proof.Spec

/-! ### The values of two operands (R196) -/

theorem ofInt_tmod (x y : Word) : BitVec.ofInt 64 (x.toInt.tmod y.toInt) = x - BitVec.ofInt 64 (x.toInt.tdiv y.toInt) * y := by
  rw [Int.tmod_def, sub_eq_add_neg, BitVec.ofInt_add, BitVec.ofInt_neg, BitVec.ofInt_mul, BitVec.ofInt_toInt, BitVec.ofInt_toInt,
    BitVec.mul_comm y, BitVec.sub_eq_add_neg]

theorem word_mod (x y : Word) : word (x.toNat % y.toNat) = x - word (x.toNat / y.toNat) * y := by
  have h : word (y.toNat * (x.toNat / y.toNat) + x.toNat % y.toNat) = x := by rw [Nat.div_add_mod, word, BitVec.ofNat_toNat, BitVec.setWidth_eq]
  rw [word, BitVec.ofNat_add, BitVec.ofNat_mul, BitVec.ofNat_toNat, BitVec.setWidth_eq, BitVec.mul_comm, BitVec.add_comm] at h
  exact BitVec.eq_sub_iff_add_eq.mpr h

/-- The remainder is what the quotient leaves of the dividend. -/
theorem remS_eq (x y : Word) : remS x y = if y = 0 then x else x - BitVec.ofInt 64 (x.toInt.tdiv y.toInt) * y := by
  rw [remS, ofInt_tmod]

theorem remU_eq (x y : Word) : remU x y = if y = 0 then x else x - BitVec.ofNat 64 (x.toNat / y.toNat) * y := by
  rw [remU, word_mod]

theorem ltS_iff (x y : Word) : ltS x y = true ↔ x.toInt < y.toInt := by simp [ltS, BitVec.slt]

theorem ltU_iff (x y : Word) : ltU x y = true ↔ x.toNat < y.toNat := by simp [ltU, BitVec.ult]

theorem minS_eq (x y : Word) : minS x y = if x.toInt ≤ y.toInt then x else y := by
  simp only [minS, ltS_iff, ← Int.not_le, ite_not]

theorem minU_eq (x y : Word) : minU x y = if x.toNat ≤ y.toNat then x else y := by
  simp only [minU, ltU_iff, ← Nat.not_le, ite_not]

/-- The maximum of two equal words is either. -/
theorem maxS_eq (x y : Word) : maxS x y = if x.toInt ≤ y.toInt then y else x := by
  simp only [maxS, ltS_iff]
  rcases Int.lt_trichotomy x.toInt y.toInt with h | h | h
  · rw [if_pos h, if_pos h.le]
  · simp [BitVec.eq_of_toInt_eq h]
  · rw [if_neg h.asymm, if_neg h.not_ge]

theorem maxU_eq (x y : Word) : maxU x y = if x.toNat ≤ y.toNat then y else x := by
  simp only [maxU, ltU_iff]
  rcases Nat.lt_trichotomy x.toNat y.toNat with h | h | h
  · rw [if_pos h, if_pos h.le]
  · simp [BitVec.eq_of_toNat_eq h]
  · rw [if_neg h.asymm, if_neg h.not_ge]

/-- A shift left is a multiplication by a power of two. -/
theorem shiftLeft_eq_mul (x : Word) (n : Nat) : x <<< n = word (2 ^ n) * x := by
  apply BitVec.eq_of_toNat_eq
  rw [BitVec.toNat_shiftLeft, BitVec.toNat_mul, BitVec.toNat_ofNat, Nat.mod_mul_mod, Nat.shiftLeft_eq, Nat.mul_comm]

/-- Each ALU instruction of the table is the common form with its function (R196). -/
theorem exec_aluTable (d a : BitVec 4) (k : BitVec 1) (b : BitVec 6) (s : State) :
    ∀ p ∈ aluTable, exec (p.1 d a k b) s = runInstr (alu2 d a k b p.2) s := by
  have form {f g : Word → Word → Word} (h : ∀ x y, f x y = g x y) : runInstr (alu2 d a k b f) s = runInstr (alu2 d a k b g) s := by
    rw [funext₂ h]
  simp only [aluTable, List.forall_mem_cons]
  refine ⟨rfl, rfl, rfl, rfl, rfl, rfl, rfl, form remS_eq, form remU_eq, rfl, rfl, rfl, rfl, rfl, rfl, rfl, form minS_eq, form maxS_eq,
    form minU_eq, form maxU_eq, form ?_, form ?_, form ?_, rfl, rfl, form ?_, form ?_, form ?_, form ?_, List.forall_mem_nil _⟩
  · intro x y; simp only [boolWord, ltS_iff]
  · intro x y; simp only [boolWord, ltU_iff]
  · intro x y; simp only [boolWord, beq_iff_eq]
  · exact fun x y => congrArg (x + ·) (BitVec.shiftLeft_zero y)
  all_goals exact fun x y => congrArg (x + ·) (shiftLeft_eq_mul y _)

/-- Each 16-bit one is the common form of 16 bits (R175). -/
theorem exec_alu16Table (d a : BitVec 4) (s : State) : ∀ p ∈ alu16Table, exec (p.1 d a) s = runInstr (alu16 d a p.2) s := by
  simp only [alu16Table, List.forall_mem_cons]
  exact ⟨rfl, rfl, rfl, rfl, rfl, rfl, rfl, rfl, List.forall_mem_nil _⟩

/-- Settles O1: every entry of the tables is one of two forms, which the laws of the core run. -/
theorem aluOfTwoOperands : Obligations.AluOfTwoOperands := by
  refine ⟨?_, ?_⟩
  · intro p hp d a k b s rs hr hw
    rw [exec_aluTable _ _ _ _ _ p hp, alu2_ok _ _ _ _ _ _ hr hw]
  · intro p hp d a s rs hr hw
    rw [exec_alu16Table _ _ _ p hp, alu16_ok _ _ _ _ hr hw]

/-! ### Counts of bits (R196) -/

theorem clz_eq (x : Word) : clz x = BitVec.ofNat 64 (leadingZeros x) := by
  refine congrArg word ?_
  unfold leadingZeros bitLen
  by_cases h0 : x.toNat = 0
  · have h : (List.range 64).find? (fun i => x.getLsbD (63 - i)) = none := by
      simp [BitVec.getLsbD, h0]
    simp [h0, h]
  · have hl : x.toNat.log2 < 64 := (Nat.log2_lt h0).mpr x.isLt
    have h : (List.range 64).find? (fun i => x.getLsbD (63 - i)) = some (63 - x.toNat.log2) := by
      rw [List.find?_range_eq_some]
      refine ⟨?_, by simp; omega, fun j hj => ?_⟩
      · rw [show 63 - (63 - x.toNat.log2) = x.toNat.log2 by omega]
        exact Nat.testBit_log2 h0
      · rw [Bool.not_eq_true', BitVec.getLsbD]
        exact Nat.testBit_lt_two_pow (Nat.lt_of_lt_of_le Nat.lt_log2_self (Nat.pow_le_pow_right (by omega) (by omega)))
    simp only [h0, h, if_false, Option.getD_some]
    omega

theorem ctzNat_eq (n v : Nat) : ctzNat n v = ((List.range n).find? (fun i => v.testBit i)).getD n := by
  induction n generalizing v with
  | zero => rfl
  | succ n ih =>
    rw [ctzNat, ih, List.range_succ_eq_map, List.find?_cons]
    by_cases h : v % 2 = 1
    · simp [h]
    · simp only [h, if_false, Nat.testBit_zero, decide_false, List.find?_map, Function.comp_def, Nat.testBit_succ]
      cases (List.range n).find? (fun i => (v / 2).testBit i) <;> rfl

theorem popNat_eq (n v : Nat) : popNat n v = ((List.range n).filter (fun i => v.testBit i)).length := by
  induction n generalizing v with
  | zero => rfl
  | succ n ih =>
    rw [popNat, ih, List.range_succ_eq_map, List.filter_cons, List.filter_map, Function.comp_def]
    simp only [Nat.succ_eq_add_one, Nat.testBit_succ, Nat.testBit_zero]
    rcases Nat.mod_two_eq_zero_or_one v with h | h <;> simp [h, Nat.add_comm]

theorem ctz_eq (x : Word) : ctz x = BitVec.ofNat 64 (trailingZeros x) := congrArg word (ctzNat_eq 64 x.toNat)

theorem popc_eq (x : Word) : popc x = BitVec.ofNat 64 (onesOf x) := congrArg word (popNat_eq 64 x.toNat)

theorem toNat_append_eq {m n : Nat} (x : BitVec m) (y : BitVec n) : (x ++ y).toNat = x.toNat * 2 ^ n + y.toNat := by
  rw [BitVec.toNat_append, ← Nat.shiftLeft_add_eq_or_of_lt y.isLt, Nat.shiftLeft_eq]

theorem bswap_eq (x : Word) : bswap x = reversed x := by
  have h : (List.range 8).foldl (fun acc i => acc * 256 + x.toNat / 256 ^ i % 256) 0 = (reversed x).toNat := by
    simp only [reversed, toNat_append_eq, BitVec.extractLsb'_toNat, Nat.shiftRight_eq_div_pow]
    simp [List.range_succ]
  rw [bswap, h, word, BitVec.ofNat_toNat, BitVec.setWidth_eq]

/-! ### Instructions on one register (R196, R197) -/

theorem shamt_ofField (n : BitVec 6) : shamt (n.setWidth 64) = n.toNat := by
  have := n.isLt
  rw [shamt, BitVec.toNat_setWidth]
  omega

/-- Each instruction on one register is the common form with its function. -/
theorem exec_unaryTable (d a : BitVec 4) (v : BitVec 17) (n w u : BitVec 6) (s : State) :
    ∀ p ∈ unaryTable d a v n w u, exec p.1 s = runInstr (alu1 d p.2.2.1 p.2.1 p.2.2.2) s := by
  have form {a : BitVec 4} {size : Nat} {f g : Word → Word} (h : ∀ x, f x = g x) :
      runInstr (alu1 d a size f) s = runInstr (alu1 d a size g) s := by rw [funext h]
  simp only [unaryTable, List.forall_mem_cons, ← shamt_ofField n]
  exact ⟨form clz_eq, form ctz_eq, form popc_eq, form bswap_eq, rfl, rfl, rfl, rfl, rfl, rfl, rfl, rfl, rfl, rfl, rfl, rfl, rfl, rfl,
    form (fun x => by rw [shamt_ofField]; rfl), rfl, rfl, rfl, rfl, List.forall_mem_nil _⟩

/-- The bits of a field that has been replaced (R196). -/
theorem getLsbD_setField (z : Word) (lo k v i : Nat) (h : lo + k ≤ 64) (hk : 0 < k) :
    (setField z (lo + k - 1) lo v).getLsbD i = if lo ≤ i ∧ i < lo + k then v.testBit (i - lo) else z.getLsbD i := by
  have hz := z.isLt
  have hhi : lo + k - 1 + 1 = lo + k := by omega
  have hsum : z.toNat % 2 ^ lo + v % 2 ^ k * 2 ^ lo + z.toNat / 2 ^ (lo + k) * 2 ^ (lo + k)
      = 2 ^ lo * (2 ^ k * (z.toNat / 2 ^ (lo + k)) + v % 2 ^ k) + z.toNat % 2 ^ lo := by
    rw [Nat.pow_add]; ring
  rw [setField, hhi, Nat.add_sub_cancel_left, hsum, BitVec.getLsbD_ofNat, Nat.testBit_two_pow_mul_add _ (Nat.mod_lt _ (Nat.two_pow_pos lo)),
    Nat.testBit_two_pow_mul_add _ (Nat.mod_lt _ (Nat.two_pow_pos k)), BitVec.getLsbD]
  by_cases hlo : i < lo
  · simp [hlo, show ¬ lo ≤ i by omega, Nat.testBit_mod_two_pow, show i < 64 by omega]
  · by_cases hup : i < lo + k
    · simp [hlo, hup, Nat.testBit_mod_two_pow, show i < 64 by omega, show i - lo < k by omega, show lo ≤ i by omega]
    · simp only [hlo, if_false, show ¬ i - lo < k by omega, Nat.testBit_div_two_pow, show i - lo - k + (lo + k) = i by omega, hup, and_false]
      by_cases h64 : i < 64
      · simp [h64]
      · simp [h64, Nat.testBit_lt_two_pow (Nat.lt_of_lt_of_le hz (Nat.pow_le_pow_right (by omega) (by omega : 64 ≤ i)))]

/-- BFI reads sA, then sD, and writes the field of sD anew (R196). -/
theorem bfi_ok (d a : BitVec 4) (w n : BitVec 6) (s : State) (h : s.core.readsOk [a.toNat, d.toNat] = true)
    (hw : (s.core.afterReads [a.toNat, d.toNat]).writable d.toNat = true) :
    exec (.bfi d a w n) s = .next (s.withCore (((s.core.afterReads [a.toNat, d.toNat]).put d.toNat
      (bfi (s.core.valueOf a.toNat) ((s.core.popped a.toNat).valueOf d.toNat) n.toNat (w.toNat + 1))).advance 4)) := by
  simp only [Core.readsOk, Bool.and_eq_true, Bool.and_true] at h
  obtain ⟨ha, hd⟩ := h
  rw [exec_bfi, execBfi]
  apply runInstr_ok
  rw [readReg_bind _ _ _ ha, readReg_bind _ _ _ (by simpa using hd), writeReg_bind _ _ _ _ (by simpa [Core.afterReads] using hw)]
  simp [Core.afterReads]

/-- Settles O3: every entry of the table is the form on one register, and BFI replaces a field. -/
theorem aluOfOneOperand : Obligations.AluOfOneOperand := by
  intro d a v n w u s c
  refine ⟨fun p hp hr hw => ?_, fun hr hw hn => ⟨_, fun i => ?_, bfi_ok d a w n s hr hw⟩⟩
  · rw [exec_unaryTable _ _ _ _ _ _ _ p hp, alu1_ok _ _ _ _ _ hr hw]
  · rw [bfi, getLsbD_setField _ _ _ _ _ (by omega) (by omega)]
    simp only [← Nat.add_assoc, Nat.lt_succ_iff]
    rfl

/-! ### Three operands (R196) -/

theorem readsOk_append (c : Core) (l m : List Nat) : c.readsOk (l ++ m) = (c.readsOk l && (c.afterReads l).readsOk m) := by
  induction l generalizing c with
  | nil => rfl
  | cons r l ih => simp [Core.readsOk, Core.afterReads, ih, Bool.and_assoc]

theorem afterReads_append (c : Core) (l m : List Nat) : c.afterReads (l ++ m) = (c.afterReads l).afterReads m := by
  induction l generalizing c with
  | nil => rfl
  | cons r l ih => simp [Core.afterReads, ih]

theorem state_afterReads_append (s : State) (l m : List Nat) : s.afterReads (l ++ m) = (s.afterReads l).afterReads m := by
  induction l generalizing s with
  | nil => rfl
  | cons r l ih => simp [State.afterReads, ih]

/-- Operands A and B and sD, read in this order (R176). -/
theorem threeOperands_bind {β : Type} (d a : BitVec 4) (k : BitVec 1) (b : BitVec 6) (f : Word → Word → Word → Act β) (s : State)
    (h : s.core.readsOk (a.toNat :: regsB k b ++ [d.toNat]) = true) :
    (do let x ← readReg a.toNat; let y ← operandB k b; let z ← readReg d.toNat; f x y z) s
      = f (s.core.valueOf a.toNat) ((s.core.popped a.toNat).valueB k b) ((s.core.afterReads (a.toNat :: regsB k b)).valueOf d.toNat)
          (s.afterReads (a.toNat :: regsB k b ++ [d.toNat])) := by
  rw [readsOk_append, Bool.and_eq_true] at h
  obtain ⟨hab, hd⟩ := h
  simp only [Core.readsOk, Bool.and_eq_true, Bool.and_true] at hab hd
  obtain ⟨ha, hb⟩ := hab
  rw [readReg_bind _ _ _ ha, bind_ok _ _ _ _ _ (operandB_ok k b _ (by simpa using hb)), readReg_bind _ _ _ (by simpa [Core.afterReads] using hd),
    state_afterReads_append]
  simp [State.afterReads, Core.afterReads]

/-- Settles O2: MADD and CMOV read the same three operands; what they write follows. -/
theorem aluOfThreeOperands : Obligations.AluOfThreeOperands := by
  intro d a k b s c x y rs
  refine ⟨fun h hw => ?_, fun h hy hw => ?_, fun h hy => ?_⟩
  · rw [exec_madd, execMadd]
    apply runInstr_ok
    rw [alu3, threeOperands_bind _ _ _ _ _ _ h, writeReg_bind _ _ _ _ (by rwa [core_afterReads])]
    simp [c, x, y, rs]
  · rw [exec_cmov, execCmov]
    apply runInstr_ok
    rw [threeOperands_bind _ _ _ _ _ _ h, if_pos hy, writeReg_bind _ _ _ _ (by rwa [core_afterReads])]
    simp [c, x, rs]
  · rw [exec_cmov, execCmov]
    apply runInstr_ok
    rw [threeOperands_bind _ _ _ _ _ _ h, if_neg (not_not.mpr hy)]
    simp [c, rs]

/-! ### Constants (R171, R172, R198) -/

theorem vget_eq_getElem! {n : Nat} (v : Vector Word n) (i : Nat) : vget v 0 i = v[i]! := by
  unfold vget
  split
  · rw [getElem!_pos]
  · rw [getElem!_neg _ _ ‹_›]; rfl

theorem vset_eq_set! {α : Type} {n : Nat} (v : Vector α n) (i : Nat) (x : α) : vset v i x = v.set! i x := by
  unfold vset
  rw [Vector.set!_eq_setIfInBounds]
  split
  · next h =>
    ext j hj
    simp [Vector.getElem_setIfInBounds, Vector.getElem_set]
  · next h => rw [Vector.setIfInBounds_eq_of_size_le (Nat.not_lt.mp h)]

/-- The low bits of a word that has been shifted are free for the new ones (R172). -/
theorem shift_or_eq_add (x : Word) (z : BitVec 24) : x <<< 24 ||| z.setWidth 64 = x * 2 ^ 24 + z.setWidth 64 := by
  have h : x <<< 24 &&& z.setWidth 64 = 0 := by
    ext i hi
    by_cases h24 : i < 24
    · simp [h24]
    · simp [h24, BitVec.getLsbD_of_ge _ _ (Nat.not_lt.mp h24)]
  rw [← BitVec.add_eq_or_of_and_eq_zero _ _ h, shiftLeft_eq_mul, BitVec.mul_comm]
  rfl

theorem noPoison_ok (u i : Nat) (s : State) (h : s.core.poison.contains (u, i) = false) : noPoison u i s = .ok ((), s) := by
  rw [noPoison_run, h]
  rfl

/-- Settles O4: a constant is written by the form that reads no register; an extension register is one of the core's fields. -/
theorem constantsAndNop : Obligations.ConstantsAndNop := by
  intro d v e x z u s c put
  refine ⟨aluConst_ok _ _ _ _, fun h => ?_, fun h hp => ?_, aluConst_ok _ _ _ _, ?_, fun hp => ?_, rfl, rfl⟩
  · rw [exec_lih, execLih, aluConst_ok _ _ _ _ h, shiftLeft_eq_mul, BitVec.mul_comm]
    rfl
  · rw [exec_lix, execLix]
    apply runInstr_ok
    rw [bind_ok _ _ _ _ _ (noPoison_ok _ _ _ hp), bind_ok _ _ _ _ _ (getC_run _), writeReg_bind _ _ _ _ h, vget_eq_getElem!, retire_run]
    simp [imm, c, put]
  · rw [exec_exti, execExti]
    apply runInstr_ok
    rw [bind_ok _ _ _ _ _ (modC_run _ _), vset_eq_set!, retire_run]
    simp [imm, c, Core.unpoison]
  · rw [exec_exts, execExts]
    apply runInstr_ok
    rw [bind_ok _ _ _ _ _ (noPoison_ok _ _ _ hp), bind_ok _ _ _ _ _ (modC_run _ _), vset_eq_set!, vget_eq_getElem!, shift_or_eq_add, retire_run]
    simp [c]

/-! ### Division (R196) -/

theorem divS_overflow : divS (BitVec.intMin 64) (BitVec.allOnes 64) = BitVec.intMin 64 := by decide

theorem remS_overflow : remS (BitVec.intMin 64) (BitVec.allOnes 64) = 0 := by decide

/-- Settles O5: each division is an ALU instruction, whose function has the value at its corners. -/
theorem divisionCorners : Obligations.DivisionCorners := by
  intro d a b s c rs x y put hr hw
  have run (f : Word → Word → Word) : runInstr (alu2 d a 0 b f) s = .next (put (f x y)) := alu2_ok d a 0 b f s hr hw
  refine ⟨fun hy => ⟨?_, ?_, ?_, ?_⟩, fun hx hy => ⟨?_, ?_⟩⟩
  · rw [exec_div, execDiv, run, divS, if_pos hy]
  · rw [exec_divu, execDivu, run, divU, if_pos hy]
  · rw [exec_rem, execRem, run, remS, if_pos hy]
  · rw [exec_remu, execRemu, run, remU, if_pos hy]
  · rw [exec_div, execDiv, run, hx, hy, divS_overflow]
  · rw [exec_rem, execRem, run, hx, hy, remS_overflow]

end Sys2Proof.Machine
end

section
/-!
PROOFS. Scalar floating point (R199 to R201): the operands of a floating instruction, the form that rounds and the form on codes.
-/

namespace Sys2Proof.Machine

open Sys2Proof.Spec

/-! ### Operands and the rounding mode (R177, R188) -/

@[simp] theorem Core.rm_popped (c : Core) (r : Nat) : (c.popped r).rm = c.rm := by
  unfold Core.popped
  split <;> rfl

/-- The mode of an RM field; the dynamic one is that of STATUS (R49, R177, R405). -/
theorem modeOf_ok (rm : BitVec 3) (s : State) (h : modeClean s.core rm = true) :
    modeOf rm s = .ok (if rm = 4 then s.core.rm else rm.toNat, s) := by
  have hrm : rm.toNat = 4 ↔ rm = 4 := by rw [← BitVec.toNat_inj]; rfl
  unfold modeOf roundMode
  simp only [hrm]
  by_cases h4 : rm = 4
  · have hp : s.core.poison.contains (0, 4096) = false := by simpa [modeClean, h4] using h
    simp only [h4, if_true]
    rw [bind_ok _ _ _ _ _ (noPoison_ok _ _ _ hp)]
    rfl
  · simp only [h4, if_false]
    rfl

theorem fltA_ok (a : BitVec 4) (t : BitVec 1) (s : State) (h : s.core.readable a.toNat = true) :
    fltA a t s = .ok (fltCode t (s.core.valueOf a.toNat), s.popped a.toNat) := by
  unfold fltA
  rw [readReg_bind _ _ _ h, pure_run]

theorem fltB_ok (k : BitVec 1) (b : BitVec 6) (t : BitVec 1) (s : State) (h : s.core.readsOk (regsB k b) = true) :
    fltB k b t s = .ok (fltOperand s.core k b t, s.afterReads (regsB k b)) := by
  unfold regsB at h ⊢
  unfold fltB fltOperand
  split
  · next hk =>
    simp only [hk, if_true, Core.readsOk, Bool.and_true] at h
    rw [readReg_bind _ _ _ h]
    rfl
  · rfl

/-- Operands A and B of a floating instruction, read in this order. -/
theorem fltOperands_bind {β : Type} (a : BitVec 4) (k : BitVec 1) (b : BitVec 6) (t : BitVec 1) (f : Nat → Nat → Act β) (s : State)
    (h : s.core.readsOk (a.toNat :: regsB k b) = true) :
    (do let x ← fltA a t; let y ← fltB k b t; f x y) s
      = f (fltCode t (s.core.valueOf a.toNat)) (fltOperand (s.core.popped a.toNat) k b t) (s.afterReads (a.toNat :: regsB k b)) := by
  simp only [Core.readsOk, Bool.and_eq_true] at h
  obtain ⟨ha, hb⟩ := h
  rw [bind_ok _ _ _ _ _ (fltA_ok a t s ha), bind_ok _ _ _ _ _ (fltB_ok k b t _ (by rwa [core_popped])), core_popped]
  rfl

/-! ### Rounded results (R199) -/

/-- A rounded result is written, its flags are set, and the instruction completes (R52). -/
theorem fltResult_ok (d : BitVec 4) (t : BitVec 1) (mode : Nat) (sat : BitVec 1) (r : FVal × BitVec 5) (s : State)
    (hw : s.core.writable d.toNat = true) :
    fltResult d t mode sat r s = .ok ((), s.withCore ((rounded s.core d t mode sat r).advance 4)) := by
  unfold fltResult
  dsimp only
  rw [writeReg_bind _ _ _ _ hw, bind_ok _ _ _ _ _ (setFlags_run _ _), retire_run]
  simp [rounded]

/-- The form sD := Round(op(sA, B)) (R199). -/
theorem flt2_ok (d a : BitVec 4) (k : BitVec 1) (b : BitVec 6) (t : BitVec 1) (rm : BitVec 3) (sat : BitVec 1)
    (op : Nat → FVal → FVal → FVal × BitVec 5) (s : State) (hm : modeClean s.core rm = true)
    (h : s.core.readsOk (a.toNat :: regsB k b) = true) (hw : (s.core.afterReads (a.toNat :: regsB k b)).writable d.toNat = true) :
    let mode := if rm = 4 then s.core.rm else rm.toNat
    runInstr (flt2 d a k b t rm sat op) s = .next (s.withCore ((rounded (s.core.afterReads (a.toNat :: regsB k b)) d t mode sat
      (op mode ((fltFmt t).value (fltCode t (s.core.valueOf a.toNat)))
        ((fltFmt t).value (fltOperand (s.core.popped a.toNat) k b t)))).advance 4)) := by
  intro mode
  apply runInstr_ok
  unfold flt2
  rw [bind_ok _ _ _ _ _ (modeOf_ok rm s hm), fltOperands_bind _ _ _ _ _ _ h, fltResult_ok _ _ _ _ _ _ (by rwa [core_afterReads])]
  simp [mode]

/-- Each of the four is the common form with its exact operation (R199). -/
theorem exec_fltTable (d a : BitVec 4) (k : BitVec 1) (b : BitVec 6) (t : BitVec 1) (rm : BitVec 3) (sat : BitVec 1) (s : State) :
    ∀ p ∈ fltTable, exec (p.1 d a k b t rm sat) s = runInstr (flt2 d a k b t rm sat p.2) s := by
  simp only [fltTable, List.forall_mem_cons]
  exact ⟨rfl, rfl, rfl, rfl, List.forall_mem_nil _⟩

/-- Settles O6: the mode is found, the operands are read, and the one rounding ends every form. -/
theorem floatRounded : Obligations.FloatRounded := by
  intro d a k b t rm sat s c rs f mode x y hm
  refine ⟨fun p hp hr hw => ?_, fun hr hw => ?_, fun hr hw => ?_⟩
  · rw [exec_fltTable _ _ _ _ _ _ _ _ p hp, flt2_ok _ _ _ _ _ _ _ _ _ hm hr hw]
  · rw [readsOk_append, Bool.and_eq_true] at hr
    obtain ⟨hab, hd⟩ := hr
    simp only [Core.readsOk, Bool.and_true] at hd
    rw [afterReads_append] at hw
    rw [exec_ffma, execFfma]
    apply runInstr_ok
    rw [bind_ok _ _ _ _ _ (modeOf_ok rm s hm), fltOperands_bind _ _ _ _ _ _ hab, bind_ok _ _ _ _ _ (fltA_ok d t _ (by rwa [core_afterReads])),
      fltResult_ok _ _ _ _ _ _ (by rwa [core_popped, core_afterReads]), afterReads_append]
    simp [Core.afterReads, mode, x, y, f, c, rs]
  · simp only [Core.readsOk, Bool.and_true] at hr
    rw [exec_fsqrt, execFsqrt]
    apply runInstr_ok
    rw [bind_ok _ _ _ _ _ (modeOf_ok rm s hm), bind_ok _ _ _ _ _ (fltA_ok a t s hr), fltResult_ok _ _ _ _ _ _ (by rwa [core_popped])]
    simp [mode, x, f, c]

/-! ### Codes (R199, R200) -/

/-- The form on two codes, which sets no flag (R199, R200). -/
theorem fltBits_ok (d a : BitVec 4) (k : BitVec 1) (b : BitVec 6) (t : BitVec 1) (f : Nat → Nat → Nat) (s : State)
    (h : s.core.readsOk (a.toNat :: regsB k b) = true) (hw : (s.core.afterReads (a.toNat :: regsB k b)).writable d.toNat = true) :
    runInstr (fltBits d a k b t f) s = .next (s.withCore (((s.core.afterReads (a.toNat :: regsB k b)).put d.toNat
      (word (f (fltCode t (s.core.valueOf a.toNat)) (fltOperand (s.core.popped a.toNat) k b t)))).advance 4)) := by
  apply runInstr_ok
  unfold fltBits
  rw [fltOperands_bind _ _ _ _ _ _ h, writeReg_bind _ _ _ _ (by rwa [core_afterReads]), retire_run]
  simp

/-- A sign that is a bit is added to the magnitude (R200). -/
theorem withSign_eq (f : FFmt) (x n : Nat) (h : n < 2) : withSign f x (n == 1) = x % 2 ^ f.signBit + n * 2 ^ f.signBit := by
  unfold withSign FFmt.signed
  obtain rfl | rfl : n = 0 ∨ n = 1 := by omega
  all_goals simp

/-- The complement of a bit. -/
theorem not_bit (n : Nat) : (!(n % 2 == 1)) = (1 - n % 2 == 1) := by
  rcases Nat.mod_two_eq_zero_or_one n with h | h <;> simp [h]

/-- The sum of two bits, without its carry. -/
theorem xor_bit (m n : Nat) : ((m % 2 == 1) != (n % 2 == 1)) = ((m + n) % 2 == 1) := by
  rcases Nat.mod_two_eq_zero_or_one m with h | h <;> rcases Nat.mod_two_eq_zero_or_one n with h' | h' <;> simp [h, h', Nat.add_mod]

/-- Each of the table is the form on codes with its function (R199, R200). -/
theorem exec_fltBitsTable (d a : BitVec 4) (k : BitVec 1) (b : BitVec 6) (t : BitVec 1) (cc : BitVec 2) (s : State) :
    ∀ p ∈ fltBitsTable d a k b t cc, exec p.1 s = runInstr (fltBits d a k b t p.2) s := by
  have form {f g : Nat → Nat → Nat} (h : ∀ x y, f x y = g x y) : runInstr (fltBits d a k b t f) s = runInstr (fltBits d a k b t g) s := by
    rw [funext₂ h]
  simp only [fltBitsTable, List.forall_mem_cons]
  refine ⟨rfl, rfl, rfl, form fun x y => ?_, form fun x y => ?_, form fun x y => ?_, List.forall_mem_nil _⟩
  · exact withSign_eq _ _ _ (Nat.mod_lt _ (by decide))
  · rw [signOf, not_bit]
    exact withSign_eq _ _ _ (by omega)
  · rw [signOf, signOf, xor_bit]
    exact withSign_eq _ _ _ (Nat.mod_lt _ (by decide))

/-- Settles O7: the table's instructions are the form on two codes, and FCLASS has one. -/
theorem floatBits : Obligations.FloatBits := by
  intro d a k b t cc s c rs x
  refine ⟨fun p hp hr hw => ?_, fun hr hw => ?_⟩
  · rw [exec_fltBitsTable _ _ _ _ _ _ _ p hp, fltBits_ok _ _ _ _ _ _ _ hr hw]
  · rw [exec_fclass, execFclass]
    apply runInstr_ok
    rw [bind_ok _ _ _ _ _ (fltA_ok a t s hr), writeReg_bind _ _ _ _ (by rwa [core_popped]), retire_run]
    simp [x, c]

/-! ### Conversions (R201) -/

/-- Settles O8: the mode is found, sA is read, and the converted value and its flags are written. -/
theorem floatConverts : Obligations.FloatConverts := by
  intro d a tk sk rm sat s c r hm hr hw
  rw [exec_fcvt, execFcvt]
  apply runInstr_ok
  rw [bind_ok _ _ _ _ _ (modeOf_ok rm s hm), readReg_bind _ _ _ hr]
  dsimp only
  rw [writeReg_bind _ _ _ _ (by rwa [core_popped]), bind_ok _ _ _ _ _ (setFlags_run _ _), retire_run]
  simp [r, c]

end Sys2Proof.Machine
end

section
/-!
PROOFS. Jumps, control registers and system instructions (R189 to R194, R202 to R204, R210 to R214).
-/

namespace Sys2Proof.Machine

open Sys2Proof.Spec

/-! ### Jumps (R202 to R204) -/

/-- A register jump whose link can be formed and written is taken (R202, R203). -/
theorem jumpReg_ok (d a : BitVec 4) (n : BitVec 1) (size : Nat) (s s1 : State) (l : Word) (hr : s.core.readable a.toNat = true)
    (he : (s.core.valueOf a.toNat).toNat % 2 = 0) (hl : linkAddr s size (s.popped a.toNat) = .ok (l, s1))
    (hw : s1.core.writable d.toNat = true) :
    runInstr (jumpReg d a n size) s
      = .next (s1.withCore (branched (s1.core.put d.toNat l) size (some (s.core.valueOf a.toNat)) (n == 1))) := by
  apply runInstr_ok
  unfold jumpReg
  rw [bind_ok _ _ _ _ _ (get_run s), readReg_bind _ _ _ hr, bind_ok _ _ (s.popped a.toNat) (s.popped a.toNat) ⟨⟩ (by simp [he]),
    bind_ok _ _ _ _ _ hl, writeReg_bind _ _ _ _ hw, retireBranch_run, branch_eq_branched]
  simp

/-- A register jump to an odd target traps before it does anything (R202). -/
theorem jumpReg_odd (d a : BitVec 4) (n : BitVec 1) (size : Nat) (s : State) (hr : s.core.readable a.toNat = true)
    (ho : (s.core.valueOf a.toNat).toNat % 2 = 1) :
    runInstr (jumpReg d a n size) s = .next (raiseTrap s s.cur 0 (s.core.valueOf a.toNat)) := by
  apply runInstr_trap
  unfold jumpReg
  rw [bind_ok _ _ _ _ _ (get_run s), readReg_bind _ _ _ hr]
  exact bind_error _ _ _ _ (by simp [ho])

/-- Settles O10: JAL links and branches; the two forms of JALR are the register jump. -/
theorem jumps : Obligations.Jumps := by
  refine ⟨fun d n disp s s1 l hl hw => ?_, fun d a n s s1 l hr he => ⟨?_, ?_⟩, fun d a n s hr ho => ⟨?_, ?_⟩⟩
  · rw [exec_jal, execJal]
    apply runInstr_ok
    rw [bind_ok _ _ _ _ _ (getC_run s), bind_ok _ _ _ _ _ (get_run s), bind_ok _ _ _ _ _ hl, writeReg_bind _ _ _ _ hw, retireBranch_run,
      branch_eq_branched]
    simp [branchTarget]
  · exact jumpReg_ok d a n 4 s s1 l hr he
  · exact jumpReg_ok d a n 2 s s1 l hr he
  · exact jumpReg_odd d a n 4 s hr ho
  · exact jumpReg_odd d a n 2 s hr ho

/-! ### Control registers (R189 to R193) -/

theorem supervisorOnly_run (i : Instr) (s : State) :
    supervisorOnly i s = if s.core.supervisor then .ok ((), s) else .error (.trap 2 (illegalVal 0x06 (i.size == 4) (encode i))) := by
  unfold supervisorOnly
  rw [bind_ok _ _ _ _ _ (getC_run s)]
  split <;> rfl

/-- A permitted access passes its checks (R187, R193). -/
theorem csrCheck_ok (i : Instr) (n : BitVec 12) (s : State) (h : csrAllowed s.core n = true) : csrCheck i n.toNat s = .ok ((), s) := by
  simp only [csrAllowed, Bool.and_eq_true, Bool.or_eq_true, Bool.not_eq_true'] at h
  obtain ⟨⟨hassigned, hsup⟩, hpois⟩ := h
  have hn : noPoison 0 (4096 + n.toNat) s = .ok ((), s) := noPoison_ok _ _ _ hpois
  unfold csrCheck
  by_cases hsn : csrSupervisor n.toNat = true
  · have hs : supervisorOnly i s = .ok ((), s) := by rw [supervisorOnly_run, if_pos (hsup.resolve_left (by simp [hsn]))]
    rw [if_pos hsn, bind_ok _ _ _ _ _ hs]
    simp only [hassigned, if_true, hn]
  · simp only [hsn, hassigned, Bool.false_eq_true, if_false, if_true, hn]

/-- A control register is written in the state after the read of sA, and its old value goes to sD (R193). -/
theorem csrWrite_ok (i : Instr) (d a : BitVec 4) (n : BitVec 12) (op : Nat) (s : State) (hc : csrAllowed s.core n = true)
    (hr : s.core.readable a.toNat = true) :
    let s2 := putCsr (s.popped a.toNat) s.cur n.toNat op (s.core.valueOf a.toNat)
    s2.core.writable d.toNat = true →
    runInstr (csrWrite i d a n.toNat op) s
      = .next (s2.withCore ((s2.core.put d.toNat (csrValue (s.popped a.toNat) s.cur n.toNat)).advance 4)) := by
  intro s2 hw
  apply runInstr_ok
  unfold csrWrite
  rw [bind_ok _ _ _ _ _ (csrCheck_ok i n s hc), readReg_bind _ _ _ hr, bind_ok _ _ _ _ _ (get_run _), bind_ok _ _ _ _ _ (modify_run _ _),
    cur_popped, writeReg_bind _ _ _ _ hw]
  simp [s2]

/-- Each write of a control register is the common form with its operation, after the region has committed (R193, R335). -/
theorem exec_csrTable (d a : BitVec 4) (n : BitVec 12) (s : State) :
    ∀ p ∈ csrTable, exec (p.1 d a n) s = runTerm (csrWrite (p.1 d a n) d a n.toNat p.2) s := by
  simp only [csrTable, List.forall_mem_cons]
  exact ⟨rfl, rfl, rfl, List.forall_mem_nil _⟩

/-- Settles O11: CSRR checks and copies; each of the table checks, writes and copies in the state after the commit. -/
theorem controlRegisters : Obligations.ControlRegisters := by
  refine ⟨fun d n s hc hw => ?_, fun p hp d a n s ht hc hr hw => ?_⟩
  · rw [exec_csrr, execCsrr]
    apply runInstr_ok
    rw [bind_ok _ _ _ _ _ (csrCheck_ok _ n s hc), bind_ok _ _ _ _ _ (get_run s), writeReg_bind _ _ _ _ hw, retire_run]
    simp
  · have h := csrWrite_ok (p.1 d a n) d a n p.2 s.terminated hc hr
    rw [cur_terminated] at h
    rw [exec_csrTable _ _ _ _ p hp, runTerm_eq _ _ ht]
    exact h hw

/-! ### System instructions (R194, R211 to R214) -/

@[simp] theorem Core.poison_popped (c : Core) (r : Nat) : (c.popped r).poison = c.poison := by
  unfold Core.popped
  split <;> rfl

@[simp] theorem Core.supervisor_popped (c : Core) (r : Nat) : (c.popped r).supervisor = c.supervisor := by
  unfold Core.popped
  split <;> rfl

@[simp] theorem Core.flow_popped (c : Core) (r size : Nat) : (c.popped r).flow size = c.flow size := by
  unfold Core.popped
  split <;> rfl

@[simp] theorem Core.pendingReg_popped (c : Core) (r q : Nat) : (c.popped r).pendingReg q = c.pendingReg q := by
  unfold Core.popped
  split <;> rfl

@[simp] theorem Core.regs_popped (c : Core) (r : Nat) : (c.popped r).regs = c.regs := by
  unfold Core.popped
  split <;> rfl

/-- TRAP completes, and its trap enters with the state that it leaves (R212; log 89). -/
theorem execTrap_ok (a : BitVec 4) (s : State) (ht : s.core.twin = none) (hr : s.terminated.core.readable a.toNat = true)
    (hv : s.terminated.core.tvecBad = false) :
    let c := s.terminated.core
    exec (.trap a) s = .next (takeTrap (s.terminated.withCore ((c.popped a.toNat).advance 4)) s.cur (if c.supervisor then 9 else 8)
      (c.valueOf a.toNat) false (c.flow 4).1) := by
  intro c
  rw [exec_trap, execTrap, runTerm_eq _ _ ht]
  apply runInstr_ok
  rw [readReg_bind _ _ _ hr, bind_ok _ _ _ _ _ (getC_run _), bind_ok _ _ _ _ _ (noPoison_ok 0 (4096 + 0x100) _ (by simpa [Core.tvecBad] using hv)),
    bind_ok _ _ _ _ _ (retire_run _ _), modify_run]
  simp [c, Core.advance]

/-- SLEEP with an event that it waits for, or with an interrupt pending, completes (R213). -/
theorem execSleep_ok (a : BitVec 4) (s : State) (ht : s.core.twin = none) (hr : s.terminated.core.readable a.toNat = true)
    (hp : s.terminated.core.poison.contains (0, 4096 + 0x001) = false)
    (he : s.terminated.core.evstat &&& s.terminated.core.valueOf a.toNat &&& 7 ≠ 0 ∨ (pendingInterrupt s.terminated s.cur).isSome = true) :
    exec (.sleep a) s = .next (s.terminated.withCore ((s.terminated.core.popped a.toNat).advance 4)) := by
  rw [exec_sleep, execSleep, runTerm_eq _ _ ht]
  apply runInstr_ok
  rw [bind_ok _ _ _ _ _ (get_run _), readReg_bind _ _ _ hr, bind_ok _ _ _ _ _ (noPoison_ok 0 (4096 + 0x001) _ (by simpa using hp)),
    cur_terminated, if_pos he, retire_run]
  simp

/-- FENCE.I with no transfer queued empties the instruction cache (R214). -/
theorem execFenceI_ok (s : State) (ht : s.core.twin = none) (hq : s.terminated.core.tq = []) :
    exec .fenceI s = .next (s.terminated.withCore (({ s.terminated.core with ilines := [] } : Core).advance 4)) := by
  rw [exec_fenceI, execFenceI, runTerm_eq _ _ ht]
  apply runInstr_ok
  rw [bind_ok _ _ _ _ _ (getC_run _), if_pos (by simp [hq])]
  dsimp only
  rw [bind_ok _ _ _ _ _ (modC_run _ _), retire_run]
  simp

/-- QCFG with an accepted value, and with no load on its way to s12 to s15, sets the queues up anew (R194). -/
theorem execQcfg_ok (a : BitVec 4) (s : State) (ht : s.core.twin = none) :
    let c := s.terminated.core
    c.readable a.toNat = true → qcfgOk (c.valueOf a.toNat) = true → (∀ r, 12 ≤ r → r < 16 → c.pendingReg r = false) →
    exec (.qcfg a) s = .next (s.terminated.withCore
      ({ (c.popped a.toNat).overwritten [12, 13, 14, 15, 4096 + 0x002] with
         qcfg := c.valueOf a.toNat, queues := Vector.replicate 4 []
         regs := (((c.regs.set 12 0).set 13 0).set 14 0).set 15 0 }.advance 4)) := by
  intro c hr hq hp
  rw [exec_qcfg, execQcfg, runTerm_eq _ _ ht]
  apply runInstr_ok
  rw [readReg_bind _ _ _ hr, if_pos hq]
  have hw : ∀ r, 12 ≤ r → r < 16 → (s.terminated.popped a.toNat).core.pendingReg r = false := by simpa using hp
  simp only [bind, StateT.bind, Except.bind, getC_run, hw 12 (by omega) (by omega), hw 13 (by omega) (by omega), hw 14 (by omega) (by omega),
    hw 15 (by omega) (by omega), waitUntil_run, Bool.not_false, Bool.and_self, if_true, modC_run, retire_run]
  simp [c, vset]

/-- Settles O12: each runs in the state after the commit. -/
theorem systemInstructions : Obligations.SystemInstructions := by
  intro a s s1 c x ht
  refine ⟨execTrap_ok a s ht, ?_, execSleep_ok a s ht, execFenceI_ok s ht, execQcfg_ok a s ht⟩
  rw [exec_brk, execBrk, runTerm_eq _ _ ht, runInstr_trap _ _ 3 c.pc (bind_ok _ _ _ _ _ (getC_run _)), cur_terminated]

/-! ### Return from a trap (R205, R210) -/

theorem forM_noPoison (l : List Nat) (s : State) (h : ∀ n ∈ l, s.core.poison.contains (0, 4096 + n) = false) :
    l.forM (fun n => noPoison 0 (4096 + n)) s = .ok ((), s) := forM_ok _ _ _ (fun n hn => noPoison_ok _ _ _ (h n hn))

/-- ERET in supervisor mode, where what it reads is clean, is its two checks and the return (R187, R210). -/
theorem exec_eret_clean (s : State) (hs : s.core.supervisor = true)
    (hp : ∀ n ∈ [0x000, 0x101, 0x104, 0x105, 0x106], s.core.poison.contains (0, 4096 + n) = false) :
    exec .eret s = if tbqConsistent s.core.tbq = true then
        if (!(s.core.tq.isEmpty && s.core.an == 0 && s.core.region.isNone)) = true then
          .next (raiseTrap s s.cur 2 (illegalVal 0x07 true (encode .eret)))
        else .next (s.withCore s.core.eret)
      else .next (raiseTrap s s.cur 2 (illegalVal 0x02 true (encode .eret))) := by
  rw [exec_eret, execEret]
  unfold runInstr
  rw [bind_ok _ _ s s ⟨⟩ (by rw [supervisorOnly_run, if_pos hs]), bind_ok _ _ _ _ _ (forM_noPoison _ s hp), bind_ok _ _ _ _ _ (getC_run s)]
  by_cases ht : tbqConsistent s.core.tbq = true
  · rw [if_pos ht, if_pos ht]
    dsimp only
    rw [show (s.core.an == 0) = decide (s.core.an = 0) from rfl]
    cases s.core.tq.isEmpty && decide (s.core.an = 0) && s.core.region.isNone <;> rfl
  · rw [if_neg ht, if_neg ht]
    rfl

theorem getLsbD_setBit (w : Word) (i j : Nat) (b : Bool) (hi : i < 64) : (setBit w i b).getLsbD j = if j = i then b else w.getLsbD j := by
  have hone : (1#64 <<< i).getLsbD j = decide (j = i) := by
    rw [← BitVec.twoPow_eq, BitVec.getLsbD_twoPow]
    simp [hi, eq_comm]
  unfold setBit
  cases b
  · have hand : (w.getLsbD j && decide (j < 64)) = w.getLsbD j := by
      rw [Bool.and_eq_left_iff_imp, decide_eq_true_eq]
      exact BitVec.lt_of_getLsbD
    simp only [Bool.false_eq_true, if_false, BitVec.getLsbD_and, BitVec.getLsbD_not, hone, ← Bool.and_assoc, hand]
    by_cases hj : j = i <;> simp [hj]
  · simp only [if_true, BitVec.getLsbD_or, hone]
    by_cases hj : j = i <;> simp [hj]

/-- STATUS after ERET: MODE is PM, IE is PIE, and the other bits stay (R210). -/
theorem getLsbD_statusEret (st : Word) (j : Nat) :
    (statusEret st).getLsbD j = if j = 20 then st.getLsbD 19 else if j = 17 then st.getLsbD 18 else st.getLsbD j := by
  rw [statusEret, getLsbD_setBit _ _ _ _ (by decide), getLsbD_setBit _ _ _ _ (by decide)]

theorem othersKept_withCore (s : State) (c : Core) : othersKept s (s.withCore c) :=
  ⟨rfl, rfl, rfl, fun k hk => coreAt_withCore_other s c k hk⟩

/-- Settles O13: the checks in their order, and then the fields of the core after the return. -/
theorem returnFromTrap : Obligations.ReturnFromTrap := by
  intro s c busy clean
  refine ⟨fun hs hp hb ht => ⟨s.withCore c.eret, ?_, ?_⟩, fun hs => ?_, fun hs hp ht hb => ?_, fun hs hp ht => ?_⟩
  · rw [exec_eret_clean s hs hp, if_pos ht, if_neg (Bool.eq_false_iff.mp hb)]
  · rw [core_withCore]
    refine ⟨rfl, rfl, rfl, rfl, ?_, ?_, fun i h17 h20 => ?_, rfl, rfl, rfl, othersKept_withCore s _⟩
    · exact getLsbD_statusEret c.status 17
    · exact getLsbD_statusEret c.status 20
    · exact (getLsbD_statusEret c.status i).trans (by rw [if_neg h20, if_neg h17])
  · rw [exec_eret, execEret]
    refine runInstr_trap _ _ _ _ (bind_error _ _ _ _ ?_)
    rw [supervisorOnly_run, if_neg (by simpa using hs)]
    rfl
  · rw [exec_eret_clean s hs hp, if_pos ht, if_pos hb]
  · rw [exec_eret_clean s hs hp, if_neg (by simpa using ht)]

end Sys2Proof.Machine
end

section
/-!
PROOFS. Regions (R332): what RBEGIN does in a delay slot, in a state that lists its cores out of order.
-/

namespace Sys2Proof.Machine

/-- The keys of the cores that an outcome's state lists, in their order. -/
def listedCores (o : Out) : List Nat := match o with | .next t => t.cores.map (fun p => p.1) | _ => []

/-- A core at a delay slot, outside regions, whose TVEC is poisoned. -/
def slotCore : Core := { Core.reset with delay := 1, poison := [(0, 4096 + 0x100)] }

/-- A part that lists the running core, number 0, behind core 1. -/
def unsortedPart : State := { State.reset with cores := [(1, Core.reset), (0, slotCore)] }

theorem core_unsortedPart : unsortedPart.core = slotCore := rfl

/-- RBEGIN raises its trap there, the trap entry consumes the poison, and no core is replaced (R204, R405). -/
theorem listedCores_rbegin : listedCores (exec (.rbegin 0 0 0) unsortedPart) = [1, 0] := by decide

/-- The same trap where the running core has been replaced by itself: it is listed a second time, in its place by key. -/
theorem listedCores_raiseTrap_withCore (val : Word) :
    listedCores (.next (raiseTrap (unsortedPart.withCore slotCore.commit) unsortedPart.cur 2 val)) = [0, 1, 0] := rfl

/-- Refutes O49: outside regions RBEGIN commits nothing, and raises its trap in the state itself, while the statement raises it in the state in
which the running core has been replaced by itself.  Where the list of cores is out of order, as in `unsortedPart`, that lists the core twice;
and a trap entry that consumes a poisoned TVEC replaces no core, so that the two outcomes differ. -/
theorem not_regions : ¬ Obligations.Regions := by
  intro h
  obtain ⟨hbegin, -, -⟩ := h 0 0 0 unsortedPart Tests.region0
  obtain ⟨-, hslot, -⟩ := hbegin rfl
  have hsame := congrArg listedCores (hslot (.inr (.inr (by decide))))
  rw [listedCores_rbegin, core_unsortedPart, listedCores_raiseTrap_withCore] at hsame
  exact absurd hsame (by decide)

end Sys2Proof.Machine
end

section
/-!
PROOFS. Reset (R189, R191, R229, R290, R426): nothing is listed at reset, so that every core and every die is the one after reset.
-/

namespace Sys2Proof.Machine

theorem coreAt_reset (k : Nat) : coreAt State.reset k = Core.reset := rfl

theorem dies_reset (d : Fin 8) : State.reset.dies[d] = Die.reset := by simp [State.reset]

theorem handles_reset (h : Fin 8) : Core.reset.handles[h] = Handle.reset := by simp [Core.reset]

/-- Settles O60: the fields of the core and of the die after reset. -/
theorem resetState : Obligations.ResetState := by
  refine ⟨memory_wf_reset, fun k => ?_, fun d => ?_⟩
  · rw [coreAt_reset]
    refine ⟨rfl, rfl, rfl, rfl, rfl, rfl, rfl, rfl, rfl, rfl, rfl, rfl, rfl, rfl, rfl, rfl, rfl, rfl, rfl, rfl, rfl, rfl, rfl, fun h => ?_⟩
    rw [handles_reset]
    rfl
  · rw [dies_reset]
    exact ⟨rfl, rfl, rfl, rfl, rfl, rfl, rfl, rfl⟩

end Sys2Proof.Machine
end

section
/-!
PROOFS. The events that enter traps (R185 to R187, R207 to R209, R235, R348): what a wait that is withdrawn leaves of the core, and the core in its
handler.
-/

namespace Sys2Proof.Machine

open Sys2Proof.Spec

/-! ### The core in its handler (R208) -/

@[simp] theorem Core.tvec_discard (c : Core) : c.discard.tvec = c.tvec := by
  unfold Core.discard
  split <;> rfl

@[simp] theorem Core.deferredTrap_discard (c : Core) : c.discard.deferredTrap = c.deferredTrap := by
  unfold Core.discard
  split <;> rfl

/-- The core stands at its handler with the cause and the value of a trap, and with the deferred trap and the vector of c (R208). -/
def AtHandler (c d : Core) (cause : Word) (val : Word) : Prop :=
  d.tcause = cause ∧ d.tval = val ∧ d.deferredTrap = c.deferredTrap ∧ d.wait = none ∧ d.pc = word (c.tvec.toNat / 4 * 4)

theorem trapEntry_atHandler (c : Core) (cause : Nat) (val : Word) (int : Bool) (resume : Word) :
    AtHandler c (c.trapEntry cause val int resume) (word ((if int then 2 ^ 63 else 0) + cause)) val := ⟨rfl, rfl, rfl, rfl, rfl⟩

/-- A trap that finds a handler, in a region or outside one, leaves the core at it (R208, R345). -/
theorem takeTrap_atHandler (s : State) (k cause : Nat) (val : Word) (int : Bool) (resume : Word) (hp : (coreAt s k).tvecBad = false)
    (hv : (coreAt s k).tvec.toNat / 4 ≠ 0) :
    AtHandler (coreAt s k) (coreAt (takeTrap s k cause val int resume) k) (word ((if int then 2 ^ 63 else 0) + cause)) val := by
  unfold takeTrap
  simp only [hp, Bool.false_eq_true, if_false, hv, coreAt_setCoreAt_same]
  split
  · next r hr =>
    have h := trapEntry_atHandler { (coreAt s k).discard with pendingRegion := none } cause val int r.entry
    unfold AtHandler at h ⊢
    rw [Core.deferredTrap_discard, Core.tvec_discard] at h
    exact h
  · exact trapEntry_atHandler _ _ _ _ _

/-! ### Waits that end (R309, R355) -/

theorem SMap.get?_map {α β : Type} (m : SMap α) (f : α → β) (k : Nat) :
    SMap.get? (m.map (fun p => (p.1, f p.2))) k = (SMap.get? m k).map f := by
  induction m with
  | nil => rfl
  | cons p m ih =>
    obtain ⟨a, x⟩ := p
    simp only [List.map_cons, SMap.get?]
    split
    · rfl
    · exact ih

theorem coreAt_withdraw (s : State) (k j : Nat) : coreAt (withdraw s k) j = (coreAt s j).withdraw k := by
  unfold coreAt withdraw SMap.getD
  rw [SMap.get?_map s.cores (fun c => c.withdraw k) j]
  cases SMap.get? s.cores j <;> rfl

theorem coreAt_leaveSheets (s : State) (k j : Nat) : coreAt (leaveSheets s k) j = coreAt s j := by
  unfold leaveSheets
  split <;> rfl

theorem coreAt_leaveFault (s : State) (k : Nat) : coreAt (leaveFault s k) k = { coreAt s k with faultSleep := none } := by
  unfold leaveFault
  rw [coreAt_modDieAt, coreAt_modCoreAt_same]

/-- The trap vector of a core, with the marks of its registers. -/
def Core.vector (c : Core) : Word × List (Nat × Nat) := (c.tvec, c.poison)

theorem Core.tvecBad_of_vector {c d : Core} (h : c.vector = d.vector) : c.tvecBad = d.tvecBad :=
  congrArg (fun v : Word × List (Nat × Nat) => v.2.contains (0, 4096 + 0x100)) h

theorem Core.tvec_of_vector {c d : Core} (h : c.vector = d.vector) : c.tvec = d.tvec := congrArg Prod.fst h

theorem vector_modCoreAt (s : State) (k : Nat) (f : Core → Core) (h : ∀ c, (f c).vector = c.vector) :
    (coreAt (modCoreAt s k f) k).vector = (coreAt s k).vector := by
  rw [coreAt_modCoreAt_same, h]

/-- What is withdrawn of a core's wait leaves its trap vector. -/
theorem vector_endWait (s : State) (k : Nat) : (coreAt (endWait s k) k).vector = (coreAt s k).vector := by
  have hbank : (coreAt (if (coreAt s k).wait = some .bank then withdraw s k else s) k).vector = (coreAt s k).vector := by
    split
    · rw [coreAt_withdraw]
      rfl
    · rfl
  unfold endWait
  generalize (if (coreAt s k).wait = some .bank then withdraw s k else s) = z at hbank ⊢
  rw [← hbank, ← coreAt_leaveSheets z k k]
  dsimp only
  split
  · rw [coreAt_leaveFault]
    rfl
  · rfl

theorem vector_wakeToTrap (s : State) (k : Nat) : (coreAt (wakeToTrap s k) k).vector = (coreAt s k).vector := by
  rw [← vector_endWait s k, wakeToTrap]
  exact vector_modCoreAt _ k _ (fun _ => rfl)

theorem vector_dropRefused (s : State) (k : Nat) : (coreAt (dropRefused s k) k).vector = (coreAt s k).vector := by
  have hnet (b : Bool) (z : State) (l : List Msg) : coreAt (if b then { z with net := l } else z) k = coreAt z k := by cases b <;> rfl
  unfold dropRefused
  dsimp only
  split
  · rfl
  · rw [hnet]
    exact vector_modCoreAt s k _ (fun _ => rfl)

/-- A core that waits for no bank and for no poll, and sleeps on no fault, has nothing to withdraw. -/
theorem endWait_same (s : State) (k : Nat) (hb : (coreAt s k).wait ≠ some .bank) (hp : (coreAt s k).wait ≠ some .poll)
    (hf : (coreAt s k).faultSleep = none) : endWait s k = s := by
  simp [endWait, leaveSheets, hb, hp, hf]

theorem dropRefused_same (s : State) (k : Nat) (h : (coreAt s k).refusedBy = []) : dropRefused s k = s := by
  simp [dropRefused, h]

/-- A change of a running core that has nothing to withdraw is the same after it wakes to a trap. -/
theorem modCoreAt_wakeToTrap (s : State) (k : Nat) (f : Core → Core) (h : endWait s k = s) (hr : (coreAt s k).run = .running) :
    modCoreAt (wakeToTrap s k) k f = modCoreAt s k f := by
  have hsame : ({ coreAt s k with run := if (coreAt s k).run = .faultSleep then .running else (coreAt s k).run } : Core) = coreAt s k := by
    rw [if_neg (by simp [hr])]
  rw [wakeToTrap, h, modCoreAt_modCoreAt]
  exact congrArg (fun c => setCoreAt s k (f c)) hsame

/-! ### The obligation -/

section

variable {s : State} {k cause n : Nat} {v : Word}

/-- A due deferred trap enters from the state in which what the core waits for is withdrawn (R348). -/
theorem exec_deferredTrap_due (hst : stepping s k = true) (hd : (coreAt s k).deferredTrap = some (cause, v))
    (hready : deferredReady s k = true) :
    exec (.deferredTrap k) s = .next (takeTrap (modCoreAt (dropRefused (wakeToTrap s k) k) k (fun c => { c with deferredTrap := none }))
      k cause v false (coreAt s k).pc) := by
  rw [exec_deferredTrap, execDeferredTrap, if_pos (by rw [hst, hready]; rfl), takeDeferred, hd]

/-- A due deferred trap that finds a handler leaves the core at it, in a region or outside one, whatever it has waited for (R345, R348). -/
theorem deferredTrap_enters (hst : stepping s k = true) (hd : (coreAt s k).deferredTrap = some (cause, v))
    (hready : deferredReady s k = true) (hp : (coreAt s k).tvecBad = false) (hv : (coreAt s k).tvec.toNat / 4 ≠ 0) :
    ∃ t, exec (.deferredTrap k) s = .next t ∧ (coreAt t k).tcause = word cause ∧ (coreAt t k).tval = v ∧ (coreAt t k).deferredTrap = none
      ∧ (coreAt t k).wait = none ∧ (coreAt t k).pc = word ((coreAt s k).tvec.toNat / 4 * 4) := by
  have hexec := exec_deferredTrap_due hst hd hready
  have hvec : (coreAt (modCoreAt (dropRefused (wakeToTrap s k) k) k (fun c => { c with deferredTrap := none })) k).vector
      = (coreAt s k).vector := by
    rw [← vector_wakeToTrap s k, ← vector_dropRefused (wakeToTrap s k) k]
    exact vector_modCoreAt _ k _ (fun _ => rfl)
  have hnone : (coreAt (modCoreAt (dropRefused (wakeToTrap s k) k) k (fun c => { c with deferredTrap := none })) k).deferredTrap = none := by
    rw [coreAt_modCoreAt_same]
  generalize modCoreAt (dropRefused (wakeToTrap s k) k) k (fun c => { c with deferredTrap := none }) = z at hexec hvec hnone
  have htvec := Core.tvec_of_vector hvec
  have hat := takeTrap_atHandler z k cause v false (coreAt s k).pc ((Core.tvecBad_of_vector hvec).trans hp) (by rwa [htvec])
  rw [AtHandler, htvec, hnone, if_neg Bool.false_ne_true, Nat.zero_add] at hat
  exact ⟨_, hexec, hat⟩

/-- A due deferred trap of a running core that has nothing to withdraw enters at once (R348). -/
theorem exec_deferredTrap_running (hst : stepping s k = true) (hd : (coreAt s k).deferredTrap = some (cause, v))
    (hready : deferredReady s k = true) (hr : (coreAt s k).run = .running) (he : endWait s k = s) (hq : (coreAt s k).refusedBy = []) :
    exec (.deferredTrap k) s
      = .next (takeTrap (modCoreAt s k (fun c => { c with deferredTrap := none })) k cause v false (coreAt s k).pc) := by
  have hdrop : dropRefused (wakeToTrap s k) k = wakeToTrap s k := by
    refine dropRefused_same _ k ?_
    rw [wakeToTrap, he, coreAt_modCoreAt_same]
    exact hq
  rw [exec_deferredTrap_due hst hd hready, hdrop, modCoreAt_wakeToTrap s k _ he hr]

/-- A due interrupt of a running core that waits for nothing enters, and one of a doorbell is cleared (R207, R209). -/
theorem exec_takeInterrupt_running (hst : stepping s k = true) (hint : pendingInterrupt s k = some n) (hready : deferredReady s k = false)
    (hr : (coreAt s k).run = .running) (hw : (coreAt s k).wait = none) (hf : (coreAt s k).faultSleep = none) :
    exec (.takeInterrupt k) s
      = .next (takeTrap (modCoreAt s k (fun c => { c with doorbell := c.doorbell && n != 1 })) k n 0 true (coreAt s k).pc) := by
  have hir : interruptReady s k = true := by simp [interruptReady, hint, hw]
  have he : endWait s k = s := endWait_same s k (by simp [hw]) (by simp [hw]) hf
  rw [exec_takeInterrupt, execTakeInterrupt, if_pos (by rw [hst, hir, hready]; rfl), takeInterruptAt, hint]
  dsimp only
  rw [modCoreAt_wakeToTrap s k _ he hr, coreAt_modCoreAt_same]

/-- A WAITA whose time has come times out (R235). -/
theorem exec_waitaTimeout_due {st off : Nat} {o : Bool} {sp : Space} {cmp : Word} {seen : Option Word}
    (hw : (coreAt s k).wait = some (.waita st n o sp off cmp seen)) (hn : n ≠ 0) (ht : n ≤ (dieAt s (dieOf k)).clock - st) :
    exec (.waitaTimeout k) s
      = .next (modCoreAt s k (fun c => { c with wait := some (.waita st n true sp off cmp seen), stalled := false })) := by
  rw [exec_waitaTimeout, execWaitaTimeout]
  simp only [hw, if_pos (And.intro hn ht)]

end

/-- Settles O52: each event by its guard, and the traps by what they find of the core. -/
theorem eventsEnterTraps : Obligations.EventsEnterTraps := by
  intro k sub insn cause addr long s st n off o sp cmp v seen c
  refine ⟨fun h => ⟨?_, fun hc => ?_⟩, fun h => ⟨?_, ?_⟩,
    fun hst hr hd hready => ⟨fun hb hp hf hq => ?_, deferredTrap_enters hst hd hready⟩,
    fun hst hr hw hf hready hint => exec_takeInterrupt_running hst hint hready hr hw hf, fun hint => ?_, fun ht => ?_,
    exec_waitaTimeout_due⟩
  · rw [exec_illegalInstruction, execIllegalInstruction, if_pos h]
  · rw [exec_instructionFetchFault, execInstructionFetchFault, if_pos (by simpa [h, or_assoc] using hc)]
  · rw [exec_illegalInstruction, execIllegalInstruction, if_neg (by simp [h])]
  · rw [exec_instructionFetchFault, execInstructionFetchFault, if_neg (by simp [h])]
  · exact exec_deferredTrap_running hst hd hready hr (endWait_same s k hb hp hf) hq
  · rw [exec_takeInterrupt, execTakeInterrupt, if_neg (by simp [interruptReady, hint])]
  · rw [exec_timerExpire, execTimerExpire, if_pos ht]
    rfl

end Sys2Proof.Machine
end

section
/-!
PROOFS. Every instruction and every step answers a next state (R204, R206, R207): each form in which a meaning runs does, and so does each turn of the
agenda.
-/

namespace Sys2Proof.Machine

/-- The outcome is a next state. -/
def GoesOn (o : Out) : Prop := ∃ t, o = .next t

theorem next_goesOn (t : State) : GoesOn (.next t) := ⟨t, rfl⟩

theorem ite_goesOn (p : Prop) [Decidable p] {o o' : Out} (h : GoesOn o) (h' : GoesOn o') : GoesOn (if p then o else o') := by
  split
  · exact h
  · exact h'

/-! ### The forms in which meanings run -/

theorem runInstr_goesOn (act : Act Unit) (s : State) : GoesOn (runInstr act s) := runInstr_next act s

theorem twinMeet_goesOn (s : State) (p : Nat) (mine : Word × List Word) (differ : State → State) : GoesOn (twinMeet s p mine differ) := by
  unfold twinMeet
  split
  · exact next_goesOn _
  · exact ite_goesOn _ (next_goesOn _) (next_goesOn _)

/-- The commit of a region goes on with what goes on (R336, R413). -/
theorem commitThen_goesOn (s : State) (go : State → Out) (h : ∀ t, GoesOn (go t)) : GoesOn (commitThen s go) := by
  unfold commitThen
  dsimp only
  split
  · exact h _
  · exact h _
  · exact ite_goesOn _ (h _) (twinMeet_goesOn _ _ _ _)

theorem compareAt_goesOn (s : State) (p : Nat) (reads : List Nat) (mine : Word × List Word) : GoesOn (compareAt s p reads mine) :=
  ite_goesOn _ (next_goesOn _) (twinMeet_goesOn _ _ _ _)

theorem runBoth_goesOn (i : Instr) (reads : List Nat) (more : Core → List Word) (act : Act Unit) (s : State) :
    GoesOn (runBoth i reads more act s) := by
  unfold runBoth
  dsimp only
  split
  · exact runInstr_goesOn _ _
  · exact ite_goesOn _ (runInstr_goesOn _ _) (compareAt_goesOn _ _ _ _)

/-- An instruction that a twin pair issues once waits, or runs on the primary, or gives the twin the primary's result (R414). -/
theorem runOnce_goesOn (i : Instr) (reads dst : List Nat) (act : Act Unit) (s : State) : GoesOn (runOnce i reads dst act s) := by
  unfold runOnce
  dsimp only
  split
  · exact runInstr_goesOn _ _
  · refine ite_goesOn _ (ite_goesOn _ ?_ (runInstr_goesOn _ _)) (compareAt_goesOn _ _ _ _)
    split
    · exact next_goesOn _
    · split
      · exact ite_goesOn _ (next_goesOn _) (next_goesOn _)
      · exact runInstr_goesOn _ _

theorem runTerm_goesOn (act : Act Unit) (s : State) : GoesOn (runTerm act s) := by
  unfold runTerm
  split
  · exact runInstr_goesOn _ _
  · exact commitThen_goesOn _ _ (fun _ => runInstr_goesOn _ _)

theorem runTermOnce_goesOn (i : Instr) (reads dst : List Nat) (act : Act Unit) (s : State) : GoesOn (runTermOnce i reads dst act s) := by
  unfold runTermOnce
  split
  · exact runOnce_goesOn _ _ _ _ _
  · exact commitThen_goesOn _ _ (fun _ => runOnce_goesOn _ _ _ _ _)

/-- A command that a region holds, and that a twin pair issues once outside one (R122, R414). -/
theorem heldOrOnce_goesOn (p : Prop) [Decidable p] (held : Act Unit) (i : Instr) (reads dst : List Nat) (act : Act Unit) (s : State) :
    GoesOn (if p then runInstr held s else runTermOnce i reads dst act s) :=
  ite_goesOn _ (runInstr_goesOn _ _) (runTermOnce_goesOn _ _ _ _ _)

theorem amo_goesOn (i : Instr) (op : AmoOp) (d a : BitVec 4) (k : BitVec 1) (b : BitVec 6) (ord : BitVec 2) (scope : BitVec 3) (w : BitVec 1)
    (s : State) : GoesOn (amo i op d a k b ord scope w s) := heldOrOnce_goesOn _ _ _ _ _ _ _

theorem barrierOp_goesOn (i : Instr) (f : Nat) (d : BitVec 4) (regs : List Nat) (reads : Act (Word × Word)) (s : State) :
    GoesOn (barrierOp i f d regs reads s) := heldOrOnce_goesOn _ _ _ _ _ _ _

theorem arriveRow_goesOn (s : State) (n : Nat) (row : MsgRow) : GoesOn (arriveRow s n row) := ⟨_, arriveRow_eq s n row⟩

theorem rabort_goesOn (s : State) : GoesOn (execRabort s) :=
  ite_goesOn _ (runInstr_goesOn _ _) (ite_goesOn _ (next_goesOn _) (next_goesOn _))

theorem waitaTimeout_goesOn (k : Nat) (s : State) : GoesOn (execWaitaTimeout k s) := by
  unfold execWaitaTimeout
  split
  · exact next_goesOn _
  · exact next_goesOn _

/-- Every instruction and every event has a next state: each is one of the forms. -/
theorem exec_goesOn (i : Instr) (s : State) : GoesOn (exec i s) := by
  cases i with
  | add | sub | mul | mulh | mulhu | div | divu | rem | remu | and | or | xor | shl | shr | sha | rot | min | max | minu | maxu | slt | sltu
    | seq | cmov | addw | subw | madd | addx | clz | ctz | popc | bswap | sext | zext | fadd | fsub | fmul | ffma | fdiv | fsqrt | fmin |
    fmax | fcmp | fcvt | fclass | fsgnj | fsgnjn | fsgnjx | addi | andi | ori | xori | shli | shri | shai | roti | bfx | bfi | li | lih |
    lix | csrr | beq | bne | blt | bge | bltu | bgeu | jal | jalr | eret | cxsave | cxload | ldb | ldbu | ldh | ldhu | ldw | ldwu | ldd |
    ldq | stb | sth | stw | std | stq | ldx | stx | redadd | redmin | redmax | redfadd | put | feinit | fence | pref | rflush | tld | tst |
    tlds | tsts | tdst | tfill | textr | tins | tmov | tzero | tadd | tsub | tmul | tfma | tmin | tmax | tabs | tneg | trcp | trsq | texp2 |
    tlog2 | ttanh | tcmp | tsel | tand | tor | txor | tnot | tshl | tshr | tcvt | tqnt | tdq | tred | tscan | tbcast | ttrn | tperm | tgath
    | tscat | ttopk | tnoise | mma | mmaz | wld | wldh | wclr | aprom | aclr | amov | aadd | ald | ast | acvt | aepi | mstat | hwait | hadvc
    | hadvp | exts | add16 | sub16 | and16 | or16 | xor16 | shl16 | shr16 | sha16 | addi16 | li16 | shli16 | shri16 | shai16 | ldw16 | stw16
    | ldd16 | std16 | beqz | bnez | jalr16 => exact runInstr_goesOn _ _
  | csrw | csrs | csrc | trap | brk | sleep | fenceI | qcfg | rinv | retain | unretain | crdecl | crclr | waita | tdld | hcfg | wbara |
    wbarw | wbmask => exact runTerm_goesOn _ _
  | jpoll => exact runOnce_goesOn _ _ _ _ _
  | take | peek | jwait | subscr | unsub | bwait | rnginit | rngget | join | treeld | cbind | cedit | cunbind | cwopen | vopen | vclose |
    crd | cfence | cstat | crevoke | sxopen | sxqry | sxsave | sxload | sxfree | sxstat | clkreq => exact runTermOnce_goesOn _ _ _ _ _
  | copy | copys => exact runBoth_goesOn _ _ _ _ _
  | spub a t =>
    rw [exec_spub, execSpub]
    exact runBoth_goesOn _ _ _ _ _
  | amoadd | amoand | amoor | amoxor | amomin | amomax | amominu | amomaxu | amoswap | cas => exact amo_goesOn _ _ _ _ _ _ _ _ _ _
  | binit | barv | bexp | binv => exact barrierOp_goesOn _ _ _ _ _ _
  | spawn | evpost | cwpub | cappend | sxapp => exact heldOrOnce_goesOn _ _ _ _ _ _ _
  | rbegin | rend => exact commitThen_goesOn _ _ (fun _ => runInstr_goesOn _ _)
  | rabort => exact rabort_goesOn s
  | waitaTimeout => exact waitaTimeout_goesOn _ s
  | nop | exti | nop16 | takeInterrupt | deferredTrap | timerExpire | leaseExpire | writebackRequest | writebackGrant | writebackCancel |
    writebackData | partialSpill | ringTickInterrupt | taskAge | arbiterEvaluate | uncorrectableError | macroScrub | patrolScrub |
    containmentFenceLift | routerFailure | transactionCrcFail | readResponseCrcFail | linkFlitError | hostMemAccess | spdmRequest |
    thermalPoll | thermalShutdown | sheetnew | sheetdel | launch | teamend | teamstatRead | teamstatWrite | shoot | faultend | qplace |
    dieregRead | dieregWrite | qslice | suffixIndexPlace | suffixMailboxPlace | suffixRingAssign | power | doorbell | wbgroup | boot |
    debugStop | debugResume | debugStep | svRetain | svUnretain | peerset | channelSheetCommand | channelSuffixCommand | registerWrite |
    illegalInstruction | instructionFetchFault | networkBootFrame | commitQueuePerform | regionMoveCommitted | homeArrive | homePerformWrite
    | homeLoad | copyJobDispatch | copyJobComplete | streamAccept | streamDeliver | matrixJobStart | matrixJobComplete | weightJobStart |
    weightJobComplete | tileUnitDispatch | walkerCommandDone | sheetPublish | staleMark | cellDispatch | taskComplete | cellMarkFresh |
    appendPrefixCopy | teamPlace | teamStart | herdStart | spatialPreempt | herdsReturn | sliceExpire | teamResume | teamFinish |
    rangeRequest | kidComplete | wbarArrive | grantRaiseHerd | suffixRebuildDone | containmentStart | remoteTimeout | powerOn | commandDone
    | ringConfigWrite | queueConsumerWrite | targetAcknowledgement => exact ⟨_, rfl⟩
  | remoteAccessArrive | bankTake | bankPeek | bankPut | bankInit | bankBinit | bankBarv | bankBexp | bankBwait | bankBinv | barCompletion
    => exact arriveRow_goesOn _ _ _
  -- the one constructor left is `Instr.recall`, whose name is a keyword of Lean
  | _ => exact ⟨_, exec_recall_next _ _ s⟩

/-! ### The issue of a core (R204) -/

section

variable (ex : Instr → State → Out) (dec : Nat → Decoded)

theorem illegalFetched_goesOn (s : State) (k : Nat) (long : Bool) (insn : Nat) (r : Reject) (sup : Bool) :
    GoesOn (illegalFetched s k long insn r sup) := next_goesOn _

theorem runHalf_goesOn (s : State) (k h : Nat) : GoesOn (runHalf s k h) := by
  unfold runHalf
  rw [run16_eq]
  refine ite_goesOn _ (next_goesOn _) ?_
  split
  · exact exec_goesOn _ _
  · exact illegalFetched_goesOn _ _ _ _ _ _

theorem fetchFailed_goesOn (s : State) (k : Nat) (f : Fetched) (a : Word) : GoesOn (fetchFailed s k f a) := by
  cases f <;> exact next_goesOn _

variable {ex} (hex : ∀ i s, GoesOn (ex i s))
include hex

theorem runWord_goesOn (s : State) (k w : Nat) : GoesOn (runWord ex dec s k w) := by
  unfold runWord
  refine ite_goesOn _ (next_goesOn _) ?_
  split
  · exact hex _ _
  · exact illegalFetched_goesOn _ _ _ _ _ _

theorem fetchIssue_goesOn (s : State) (k : Nat) : GoesOn (fetchIssue ex dec s k) := by
  unfold fetchIssue
  refine ite_goesOn _ (commitThen_goesOn _ _ (fun _ => next_goesOn _)) (ite_goesOn _ (next_goesOn _) ?_)
  split
  · refine ite_goesOn _ (runHalf_goesOn _ _ _) ?_
    split
    · exact runWord_goesOn dec hex _ _ _
    · exact fetchFailed_goesOn _ _ _ _
  · exact fetchFailed_goesOn _ _ _ _

theorem issueCore_goesOn (s : State) (k : Nat) : GoesOn (issueCore ex dec s k) :=
  ite_goesOn _ (next_goesOn _) (ite_goesOn _ (next_goesOn _) (ite_goesOn _ (next_goesOn _) (ite_goesOn _ (next_goesOn _)
    (ite_goesOn _ (next_goesOn _) (fetchIssue_goesOn dec hex _ k)))))

theorem singleStep_goesOn (s : State) (k : Nat) : GoesOn (singleStep ex dec s k) := by
  unfold singleStep
  refine ite_goesOn _ ?_ (next_goesOn _)
  obtain ⟨t, ht⟩ := issueCore_goesOn dec hex (modCoreAt s k (fun c => { c with run := .running, stalled := false })) k
  simp only [ht]
  exact next_goesOn _

/-! ### The turns of the agenda (log 7) -/

theorem runTurn_goesOn (t : Turn) (s : State) : GoesOn (runTurn ex dec t s) := by
  cases t with
  | issue k => exact issueCore_goesOn dec hex s k
  | event i =>
    obtain ⟨t, ht⟩ := hex i s
    simp only [runTurn, ht]
    exact next_goesOn _
  | single k => exact singleStep_goesOn dec hex s k
  | engines =>
    simp only [runTurn]
    split
    · exact next_goesOn _
    · exact next_goesOn _
  | tick | cycles | copyByte | evict | dropTlb | walkLine | pin | saveArea | tmax | measure | remoteDebug | repost | pass => exact next_goesOn _

theorem stepWith_goesOn (s : State) : GoesOn (stepWith ex dec s) := by
  unfold stepWith
  split
  · exact runTurn_goesOn dec hex _ _
  · exact ite_goesOn _ (issueCore_goesOn dec hex _ _) (next_goesOn _)

end

/-- Settles O58: every meaning goes on, and with it every turn. -/
theorem everyStepGoesOn : Obligations.EveryStepGoesOn := ⟨exec_goesOn, stepWith_goesOn decode32 exec_goesOn⟩

end Sys2Proof.Machine
end

section
/-!
PROOFS. Instructions that make one entry (R122), and instructions that wait for an answer (R221): what the core has done once it has taken the
entry, once it has begun to wait, and once the answer has come.
-/

namespace Sys2Proof.Machine

open Sys2Proof.Spec

/-! ### What the reads of an instruction leave (R195) -/

/-- Reading a register changes a core's queues only (R195). -/
theorem Core.popped_queues (c : Core) (r : Nat) : ∃ q, c.popped r = { c with queues := q } := by
  unfold Core.popped
  split
  · exact ⟨c.queues, rfl⟩
  · exact ⟨_, rfl⟩

/-- Reading registers changes a core's queues only (R195). -/
theorem Core.afterReads_queues (c : Core) (rs : List Nat) : ∃ q, c.afterReads rs = { c with queues := q } := by
  induction rs generalizing c with
  | nil => exact ⟨c.queues, rfl⟩
  | cons r rs ih =>
    obtain ⟨q, hq⟩ := c.popped_queues r
    obtain ⟨q', hq'⟩ := ih (c.popped r)
    exact ⟨q', by rw [Core.afterReads, hq', hq]⟩

/-- Reading a register changes the machine's cores only. -/
theorem State.popped_cores (s : State) (r : Nat) : ∃ cs, s.popped r = { s with cores := cs } := by
  unfold State.popped
  split
  · exact ⟨s.cores, rfl⟩
  · exact ⟨_, rfl⟩

/-- The reads of three operand registers, in order. -/
theorem readThree_bind (a b d : Nat) (f : Word → Word → Word → Act Unit) (s : State) (h : s.core.readsOk [a, b, d] = true) :
    (do let x ← readReg a; let y ← readReg b; let z ← readReg d; f x y z : Act Unit) s
      = f (s.core.valueOf a) ((s.core.popped a).valueOf b) ((s.core.afterReads [a, b]).valueOf d) (s.afterReads [a, b, d]) := by
  simp only [Core.readsOk, Bool.and_true, Bool.and_eq_true] at h
  obtain ⟨ha, hb, hd⟩ := h
  rw [readReg_bind _ _ _ ha, readReg_bind _ _ _ (by simpa using hb), readReg_bind _ _ _ (by simpa using hd)]
  simp only [core_popped]
  rfl

/-! ### Entries (R122) -/

/-- A core c that may take the entry e, into its commit queue or its region buffer, and is c' once it has. -/
def TakesEntry (c : Core) (e : Entry) (c' : Core) : Prop :=
  (queueOpen c = true ∧ c' = queued c e) ∨ (bufferOpen c e = true ∧ c' = held c e)

/-- The entry of an access notes the core's next stamp, which the core has then given. -/
theorem mkEntry_stamped (a : Action) (pl : Place × Policy) (ea : Word) (ord scope : Nat) (s : State) :
    mkEntry a pl ea ord scope s = .ok (entryOf s a pl ea ord scope, s.stamped) := mkEntry_ok ..

/-- An open commit queue has no region, no committed entries before it, and room. -/
theorem queueOpen_iff {c : Core} : queueOpen c = true ↔ c.region = none ∧ c.rbuf = [] ∧ c.cq.length < 16 := by
  simp [queueOpen, and_assoc]

/-- The commit queue, where it is open, takes an entry that has its stamp. -/
theorem appendQueue_stamped (e : Entry) (s : State) (h : queueOpen s.core = true) :
    appendQueue e s.stamped = .ok ((), s.withCore (queued s.core e)) := by
  obtain ⟨-, hb, hq⟩ := queueOpen_iff.mp h
  rw [appendQueue_ok e s.stamped (by rwa [core_stamped]) (by rwa [core_stamped]), core_stamped, State.stamped, withCore_withCore]
  rfl

/-- The region buffer, where it is open, takes an entry that has its stamp. -/
theorem appendHeld_stamped (e : Entry) (s : State) (h : bufferOpen s.core e = true) :
    appendHeld e s.stamped = .ok ((), s.withCore (held s.core e)) := by
  rw [appendHeld_open e s.stamped (by rwa [core_stamped]), core_stamped, State.stamped, withCore_withCore]
  rfl

/-- An entry that has its stamp joins the one of the two that is open: a region has the buffer, and no region the queue. -/
theorem appendEntry_stamped {e : Entry} {s : State} {c : Core} (h : TakesEntry s.core e c) :
    appendEntry e s.stamped = .ok ((), s.withCore c) := by
  unfold appendEntry
  rw [bind_ok _ _ _ _ _ (getC_run _), core_stamped]
  rcases h with ⟨hq, rfl⟩ | ⟨hb, rfl⟩
  · rw [if_neg (by simp [(queueOpen_iff.mp hq).1]), appendQueue_stamped e s hq]
  · rw [if_pos (region_of_bufferOpen hb), appendHeld_stamped e s hb]

/-- An instruction completes once its core has taken its entry. -/
theorem appendEntry_retire {e : Entry} {s : State} {c : Core} (h : TakesEntry s.core e c) :
    (do appendEntry e; retire 4 : Act Unit) s.stamped = .ok ((), s.withCore (c.advance 4)) := by
  rw [bind_ok _ _ _ _ _ (appendEntry_stamped h), retire_run, core_withCore, withCore_withCore]

/-- An instruction that only makes an entry completes once its core has taken it. -/
theorem makeEntry_run {a : Action} {pl : Place × Policy} {ea : Word} {ord scope : Nat} {s : State} {c : Core}
    (h : TakesEntry s.core (entryOf s a pl ea ord scope) c) :
    (do appendEntry (← mkEntry a pl ea ord scope); retire 4 : Act Unit) s = .ok ((), s.withCore (c.advance 4)) := by
  rw [bind_ok _ _ _ _ _ (mkEntry_stamped ..), appendEntry_retire h]

/-! ### Waiting (R221) -/

/-- A change of the running core replaces it. -/
theorem modCoreAt_cur (s : State) (f : Core → Core) : modCoreAt s s.cur f = s.withCore (f s.core) := rfl

/-- An instruction that has to wait is stalled where it began. -/
theorem runInstr_wait (act : Act Unit) (s : State) (h : act s = .error .wait) :
    runInstr act s = .next (modCoreAt s s.cur (fun c => { c with stalled := true })) := by simp [runInstr, h]

/-- An instruction that has sent and has no answer goes on waiting. -/
theorem runInstr_waiting {α : Type} {w : Wait} {reads : Act α} {send : α → Act (State → State)} {fin : α → Word → Word → Act Unit}
    {s : State} (hr : s.core.reply = none) (hw : s.core.wait = some w) :
    runInstr (withReply w reads send fin) s = .next (s.withCore { s.core with stalled := true }) := by
  refine (runInstr_wait _ s ?_).trans (congrArg _ (modCoreAt_cur s _))
  simp [withReply, bind, StateT.bind, Except.bind, hr, hw]

/-- An instruction that waits in a state that it has reached. -/
theorem runInstr_block (act : Act Unit) (s t : State) (h : act s = .error (.block t)) :
    runInstr act s = .next (modCoreAt t s.cur (fun c => { c with stalled := true })) := by simp [runInstr, h]

/-- An instruction that has sent something waits in the state that sending gives to the one in which it began. -/
theorem runInstr_sent {α : Type} {w : Wait} {reads : Act α} {send : α → Act (State → State)} {fin : α → Word → Word → Act Unit}
    {s s1 s2 : State} {x : α} {f : State → State} (hr : s.core.reply = none) (hw : s.core.wait = none) (hx : reads s = .ok (x, s1))
    (hs : send x s1 = .ok (f, s2)) (hf : (f s).cur = s.cur) :
    runInstr (withReply w reads send fin) s
      = .next (modCoreAt (f s) s.cur (fun c => { c with wait := some w, stalled := true })) := by
  rw [runInstr_block _ _ _ (withReply_send w reads send fin s s1 s2 x f hr (by simp [hw]) hx hs), hf, modCoreAt_modCoreAt]

/-- An instruction whose answer has come writes it to sD and completes. -/
theorem withReply_writes {α : Type} {w : Wait} {reads : Act α} {send : α → Act (State → State)} {s s1 : State} {x : α} {u v : Word} {r : Nat}
    (hr : s.core.reply = some (.value v u)) (hx : reads s = .ok (x, s1)) (hw : s1.core.writable r = true) :
    runInstr (withReply w reads send (fun _ y _ => do writeReg r y; retire 4)) s = .next (s1.withCore ((s1.core.put r v).advance 4)) := by
  apply runInstr_ok
  rw [withReply_value _ _ _ _ _ _ _ hr, bind_ok _ _ _ _ _ hx, writeReg_bind _ _ _ _ hw, retire_run, core_withCore, withCore_withCore]

end Sys2Proof.Machine
end

section
/-!
PROOFS. Loads of the own buffers, stores, atomics, reductions and full/empty operations (R222 to R232): what each does at issue, and what it
does with its answer.
-/

namespace Sys2Proof.Machine

open Sys2Proof.Spec

/-! ### Loads and stores (R222, R223) -/

/-- Settles O15: every form of a load gives its own buffer's bytes, the forwarded ones first, to its destination at once. -/
theorem loadsFromOwnBuffers : Obligations.LoadsFromOwnBuffers := by
  intro d a b ord scope pol off x s s1 pl p hp hr hl hreads hc hsp hk ⟨hacq, hfree, hwin⟩ hpois
  obtain ⟨act, hexec, hact⟩ := exec_loadForm d a b ord scope pol off x s p hp hreads
  have hload := loadAt_own s s1 p.2 p.1.ea p.1.size p.1.pol p.1.acquire p.1.scope _ pl hc hsp hk hr hl hacq hfree hwin hpois
  rw [hexec, runInstr_ok _ _ _ (hact.trans (loadSteps_ok hload)), core_withCore, withCore_withCore]

/-- A store outside regions is the last entry of the commit queue (R223). -/
theorem storeTo_queue (pl : Place × Policy) (ea : Word) (ord scope : Nat) (bs : SMap Byte) (s : State) (h : queueOpen s.core = true) :
    storeTo pl ea ord scope bs false s = .ok ((), s.withCore (queued s.core (entryOf s (.store bs) pl ea ord scope))) := by
  unfold storeTo
  rw [bind_ok _ _ _ _ _ (get_run s), bind_ok _ _ _ _ _ (mkEntry_stamped ..)]
  simp only [(queueOpen_iff.mp h).1]
  exact appendQueue_stamped _ s h

/-- A store of a region outside its window is held as the last entry of the region buffer (R122). -/
theorem storeTo_held (pl : Place × Policy) (ea : Word) (ord scope : Nat) (bs : SMap Byte) (s : State) (r : Region)
    (hr : s.core.region = some r) (hw : inWindow r s.cur pl.1 = false) (h : bufferOpen s.core (entryOf s (.store bs) pl ea ord scope) = true) :
    storeTo pl ea ord scope bs false s = .ok ((), s.withCore (held s.core (entryOf s (.store bs) pl ea ord scope))) := by
  unfold storeTo
  rw [bind_ok _ _ _ _ _ (get_run s), bind_ok _ _ _ _ _ (mkEntry_stamped ..)]
  simp only [hr, hw, Bool.false_eq_true, if_false]
  exact appendHeld_stamped _ s h

/-- Settles O18: every form of a store makes one entry, which the queue or the buffer takes. -/
theorem storesEnterTheQueue : Obligations.StoresEnterTheQueue := by
  intro d a b ord scope pol off x s s1 pl p hp e hreads hc
  obtain ⟨act, hexec, hact⟩ := exec_storeForm d a b ord scope pol off x s p hp hreads
  have done : ∀ c, storeTo pl p.1.ea p.1.ord p.1.scope (leBytes p.2 p.1.size) false s1 = .ok ((), s1.withCore c) →
      exec p.1.instr s = .next (s1.withCore (c.advance p.1.length)) := by
    intro c h
    rw [hexec, runInstr_ok _ _ _ (hact.trans (storeSteps_ok _ _ _ _ _ _ hc h)), core_withCore, withCore_withCore]
  exact ⟨fun hq => done _ (storeTo_queue _ _ _ _ _ _ hq), fun r hr hw hb => done _ (storeTo_held _ _ _ _ _ _ r hr hw hb)⟩

/-! ### Atomics (R225, R226) -/

/-- An atomic reads A, B, and D where it is CAS, in this order (R226). -/
theorem amoReads_ok (op : AmoOp) (d a : BitVec 4) (k : BitVec 1) (b : BitVec 6) (s : State) (h : s.core.readsOk (amoRegs op d a k b) = true) :
    amoReads op d a k b s = .ok ((s.core.valueOf a.toNat, (s.core.popped a.toNat).valueB k b, amoExpected op s.core d a k b),
      s.afterReads (amoRegs op d a k b)) := by
  unfold amoRegs at h ⊢
  unfold amoReads amoExpected
  by_cases hop : op = .cas
  · simp only [hop, if_true] at h ⊢
    rw [threeOperands_bind _ _ _ _ _ _ h]
    rfl
  · simp only [hop, if_false, List.append_nil, Core.readsOk, Bool.and_eq_true] at h ⊢
    rw [readReg_bind _ _ _ h.1, bind_ok _ _ _ _ _ (operandB_ok k b _ (by simpa using h.2)), core_popped]
    rfl

/-- Every atomic is the form of an atomic with its operation. -/
theorem exec_amoTable (d a : BitVec 4) (k : BitVec 1) (b : BitVec 6) (ord : BitVec 2) (scope : BitVec 3) (w : BitVec 1) (s : State) :
    ∀ p ∈ amoTable, ∃ i, exec (p.1 d a k b ord scope w) s = amo i p.2 d a k b ord scope w s := by
  simp only [amoTable, List.forall_mem_cons]
  exact ⟨⟨_, rfl⟩, ⟨_, rfl⟩, ⟨_, rfl⟩, ⟨_, rfl⟩, ⟨_, rfl⟩, ⟨_, rfl⟩, ⟨_, rfl⟩, ⟨_, rfl⟩, ⟨_, rfl⟩, ⟨_, rfl⟩, List.forall_mem_nil _⟩

/-- Settles O20: every atomic of D = s0 reads, is checked, and makes one entry. -/
theorem atomicsWithoutResult : Obligations.AtomicsWithoutResult := by
  intro p hp a k b ord scope w s s1 pl c rs x e hreads hc
  obtain ⟨i, hexec⟩ := exec_amoTable 0 a k b ord scope w s p hp
  have done : ∀ c', TakesEntry s1.core e c' → exec (p.1 0 a k b ord scope w) s = .next (s1.withCore (c'.advance 4)) := by
    intro c' h
    rw [hexec, amo, if_pos (show resultless 0 = true from rfl)]
    apply runInstr_ok
    rw [amoSilent, bind_ok _ _ _ _ _ (amoReads_ok p.2 0 a k b s hreads)]
    exact (bind_ok _ _ _ _ _ hc).trans (makeEntry_run h)
  exact ⟨fun hq => done _ (.inl ⟨hq, rfl⟩), fun hb => done _ (.inr ⟨hb, rfl⟩)⟩

/-- An atomic with a result that can be sent goes to the commit queue, and its instruction waits for the old value (R225). -/
theorem amoResult_sent (op : AmoOp) (d a : BitVec 4) (k : BitVec 1) (b : BitVec 6) (ord : BitVec 2) (scope : BitVec 3) (w : BitVec 1)
    (s s1 : State) (pl : Place × Policy) (hreads : s.core.readsOk (amoRegs op d a k b) = true) (hr : s.core.reply = none)
    (hw : s.core.wait = none)
    (hc : checkAccess .atomic (s.core.valueOf a.toNat) (amoSize w) 0 (s.afterReads (amoRegs op d a k b)) = .ok (pl, s1))
    (hd : s1.core.writable d.toNat = true) (hb : s1.core.rbuf = []) (hq : s1.core.cq.length < 16) :
    let e := entryOf s1 (.amo op (w == 1) ((s.core.popped a.toNat).valueB k b) (amoExpected op s.core d a k b) true) pl
      (s.core.valueOf a.toNat) ord.toNat scope.toNat
    runInstr (amoResult op d a k b ord scope w) s
      = .next (s.withCore { queued s.core e with wait := some .reply, stalled := true }) := by
  intro e
  have hroom : waitUntil (s1.core.rbuf.isEmpty && decide (s1.core.cq.length < 16)) s1 = .ok ((), s1) := by simp [hb, hq]
  rw [amoResult, runInstr_sent (s2 := s1.stamped) (f := fun z => modCoreAt z z.cur (fun c => queued c e)) hr hw (amoReads_ok op d a k b s hreads)
    ?_ rfl]
  · rw [modCoreAt_modCoreAt, modCoreAt_cur]
  · refine (bind_ok _ _ _ _ _ hc).trans ?_
    rw [bind_ok _ _ _ _ _ (canWrite_ok _ _ hd), bind_ok _ _ _ _ _ (getC_run _), bind_ok _ _ _ _ _ hroom,
      bind_ok _ _ _ _ _ (mkEntry_stamped ..)]
    rfl

/-- Settles O21: after the commit an atomic with a result sends its entry, or writes the old value that has come. -/
theorem atomicsWithResult : Obligations.AtomicsWithResult := by
  intro p hp d a k b ord scope w s s1 pl v u t c rs x e hd ht hreads
  obtain ⟨i, hexec⟩ := exec_amoTable d a k b ord scope w s p hp
  rw [hexec, amo, if_neg (by simpa [resultless] using hd), runTermOnce_eq _ _ _ _ _ ht]
  refine ⟨fun hr hw => ?_, amoResult_sent p.2 d a k b ord scope w t s1 pl hreads⟩
  rw [amoResult, withReply_writes hr (amoReads_ok p.2 d a k b t hreads) (by rwa [core_afterReads]), core_afterReads, withCore_afterReads]

/-! ### Reductions (R227, R228) -/

/-- What stops a reduction of an address: an open commutative range whose operation or format is another (R228). -/
def rangeRefuses (s : State) (pl : Place) (op : RedOp) (w : BitVec 1) : Bool :=
  decide (pl.space = .mem) && (match rangeOf s pl.addr with
    | some (_, r) => !r.closed && !rangeAccepts r op (w == 1) | none => false)

/-- A reduction after its reads and the check of its access (R227, R228). -/
theorem reduce_checked (op : RedOp) (a : BitVec 4) (k : BitVec 1) (b : BitVec 6) (ord : BitVec 2) (scope : BitVec 3) (w : BitVec 1) (s s1 : State)
    (pl : Place × Policy) (hreads : s.core.readsOk (a.toNat :: regsB k b) = true)
    (hc : checkAccess .atomic (s.core.valueOf a.toNat) (amoSize w) 0 (s.afterReads (a.toNat :: regsB k b)) = .ok (pl, s1)) :
    reduce op a k b ord scope w s = (do
      trapIf (rangeRefuses s1 pl.1 op w) 7 (s.core.valueOf a.toNat)
      noPoison 0 (4096 + 0x003)
      appendEntry (← mkEntry (.red op (w == 1) ((s.core.popped a.toNat).valueB k b) s1.core.contrib.toNat) pl (s.core.valueOf a.toNat)
        ord.toNat scope.toNat)
      retire 4 : Act Unit) s1 := by
  simp only [Core.readsOk, Bool.and_eq_true] at hreads
  have hab := operandB_ok k b (s.popped a.toNat) (by simpa using hreads.2)
  unfold reduce
  rw [readReg_bind _ _ _ hreads.1, bind_ok _ _ _ _ _ hab, core_popped]
  refine (bind_ok _ _ _ _ _ hc).trans ?_
  rw [bind_ok _ _ _ _ _ (get_run _)]
  unfold rangeRefuses
  by_cases hm : pl.1.space = .mem
  · simp only [hm, beq_self_eq_true, if_true, decide_true, Bool.true_and]
    cases rangeOf s1 pl.1.addr with
    | none => rfl
    | some r => rfl
  · simp only [hm, beq_eq_false_iff_ne.mpr hm, decide_false, Bool.false_and, Bool.false_eq_true, if_false]
    rfl

/-- A reduction that is checked makes its entry where no range refuses it and CONTRIB is clean, and raises cause 7 where one does (R227, R228). -/
theorem reduce_rule {op : RedOp} {a : BitVec 4} {k : BitVec 1} {b : BitVec 6} {ord : BitVec 2} {scope : BitVec 3} {w : BitVec 1} {s s1 : State}
    {pl : Place × Policy} (hreads : s.core.readsOk (a.toNat :: regsB k b) = true)
    (hc : checkAccess .atomic (s.core.valueOf a.toNat) (amoSize w) 0 (s.afterReads (a.toNat :: regsB k b)) = .ok (pl, s1)) :
    let x := s.core.valueOf a.toNat
    let e := entryOf s1 (.red op (w == 1) ((s.core.popped a.toNat).valueB k b) s1.core.contrib.toNat) pl x ord.toNat scope.toNat
    (rangeRefuses s1 pl.1 op w = false → s1.core.poison.contains (0, 4096 + 0x003) = false → ∀ c, TakesEntry s1.core e c →
      runInstr (reduce op a k b ord scope w) s = .next (s1.withCore (c.advance 4)))
    ∧ (rangeRefuses s1 pl.1 op w = true → runInstr (reduce op a k b ord scope w) s = .next (raiseTrap s s.cur 7 x)) := by
  intro x e
  have hrun := reduce_checked op a k b ord scope w s s1 pl hreads hc
  refine ⟨fun hg hclean c h => runInstr_ok _ _ _ (hrun.trans ?_), fun hg => runInstr_trap _ _ _ _ (hrun.trans ?_)⟩
  · rw [hg, bind_ok _ _ _ _ _ (trapIf_run _ _ _ _), bind_ok _ _ _ _ _ (noPoison_ok _ _ _ hclean)]
    exact makeEntry_run h
  · rw [hg, bind_error _ _ _ _ (trapIf_run _ _ _ _)]

/-- Settles O22: the four reductions are one form, with one rule. -/
theorem reductions : Obligations.Reductions := by
  intro a k b ord scope w s s1 pl c x good rule
  have hrule : ∀ (i : Instr) (op : RedOp) (k : BitVec 1) (b : BitVec 6), exec i s = runInstr (reduce op a k b ord scope w) s →
      rule i op (a.toNat :: regsB k b) ((c.popped a.toNat).valueB k b) := by
    intro i op k b hexec hreads hc e clean
    obtain ⟨htakes, htrap⟩ := reduce_rule (op := op) (ord := ord) (scope := scope) hreads hc
    rw [hexec]
    exact ⟨fun hg hclean hq => htakes hg hclean _ (.inl ⟨hq, rfl⟩), fun hg hclean hb => htakes hg hclean _ (.inr ⟨hb, rfl⟩), htrap⟩
  constructor
  · simp only [redTable, List.forall_mem_cons]
    exact ⟨hrule _ _ _ _ rfl, hrule _ _ _ _ rfl, hrule _ _ _ _ rfl, List.forall_mem_nil _⟩
  · intro hb
    have hreg : ((b.setWidth 4).setWidth 6 : BitVec 6) = b := by bv_omega
    exact hrule (.redfadd a (b.setWidth 4) ord scope w) .fadd 0 b (by rw [exec_redfadd, execRedfadd, hreg])

/-! ### Full/empty operations (R231, R232) -/

/-- TAKE and PEEK send their message to the bank and wait for its answer (R231; log 143). -/
theorem takeOrPeek_sent (kind : MsgKind) (d a : BitVec 4) (s s1 : State) (pl : Place × Policy) (ha : s.core.readable a.toNat = true)
    (hr : s.core.reply = none) (hw : s.core.wait = none) (hc : checkAccess .take (s.core.valueOf a.toNat) 8 0 (s.popped a.toNat) = .ok (pl, s1))
    (hd : s1.core.writable d.toNat = true) (hacq : s1.core.acquirePending = false) :
    runInstr (takeOrPeek kind d a) s = .next { s.withCore { s.core with wait := some .bank, stalled := true } with
      net := s.net ++ [{ src := s.cur, dst := pl.1.key, off := pl.1.addr, ea := s.core.valueOf a.toNat, kind := kind }] } := by
  rw [takeOrPeek, runInstr_sent (s2 := s1) (f := fun z => { z with net := z.net ++ [
    { src := z.cur, dst := pl.1.key, off := pl.1.addr, ea := s.core.valueOf a.toNat, kind := kind }] }) hr hw (readReg_ok _ _ ha) ?_ rfl]
  · rfl
  · rw [bind_ok _ _ _ _ _ hc, bind_ok _ _ _ _ _ (canWrite_ok _ _ hd), bind_ok _ _ _ _ _ (afterAcquire_ok _ hacq)]
    rfl

/-- TAKE and PEEK run in the state after the commit, each with its message (R231, R335). -/
theorem exec_takeOrPeek (d a : BitVec 4) (ord : BitVec 2) (scope : BitVec 3) (s : State) (ht : s.core.twin = none) :
    ∀ p ∈ [(Instr.take d a ord scope, MsgKind.take), (Instr.peek d a ord scope, MsgKind.peek)],
      exec p.1 s = runInstr (takeOrPeek p.2 d a) s.terminated := by
  simp only [List.forall_mem_cons]
  exact ⟨runTermOnce_eq _ _ _ _ _ ht, runTermOnce_eq _ _ _ _ _ ht, List.forall_mem_nil _⟩

/-- PUT after its check is one entry (R231). -/
theorem exec_put_takes {a b : BitVec 4} {ord : BitVec 2} {scope : BitVec 3} {s s1 : State} {pl : Place × Policy} {c : Core}
    (hreads : s.core.readsOk [a.toNat, b.toNat] = true)
    (hc : checkAccess .put (s.core.valueOf a.toNat) 8 0 (s.afterReads [a.toNat, b.toNat]) = .ok (pl, s1))
    (h : TakesEntry s1.core (entryOf s1 (.put ((s.core.popped a.toNat).valueOf b.toNat)) pl (s.core.valueOf a.toNat) ord.toNat scope.toNat) c) :
    exec (.put a b ord scope) s = .next (s1.withCore (c.advance 4)) := by
  rw [exec_put, execPut]
  apply runInstr_ok
  rw [readTwo_bind _ _ _ _ hreads, bind_ok _ _ _ _ _ hc, makeEntry_run h]

/-- FEINIT of a word that is not sync-tagged in the core's own buffer is one entry (R230, R232). -/
theorem exec_feinit_takes {a b : BitVec 4} {scope : BitVec 3} {full : BitVec 1} {s s1 : State} {pl : Place × Policy} {c : Core}
    (hreads : s.core.readsOk [a.toNat, b.toNat] = true)
    (hc : checkAccess .put (s.core.valueOf a.toNat) 8 0 (s.afterReads [a.toNat, b.toNat]) = .ok (pl, s1))
    (htag : pl.1.key = s1.cur → syncTagged s1.core pl.1.addr = false)
    (h : TakesEntry s1.core
      (entryOf s1 (.feinit ((s.core.popped a.toNat).valueOf b.toNat) (full == 1)) pl (s.core.valueOf a.toNat) 0 scope.toNat) c) :
    exec (.feinit a b scope full) s = .next (s1.withCore (c.advance 4)) := by
  have hok : (pl.1.key == s1.cur && syncTagged s1.core pl.1.addr) = false := by
    by_cases hk : pl.1.key = s1.cur
    · rw [htag hk, Bool.and_false]
    · rw [beq_eq_false_iff_ne.mpr hk, Bool.false_and]
  rw [exec_feinit, execFeinit]
  apply runInstr_ok
  rw [readTwo_bind _ _ _ _ hreads, bind_ok _ _ _ _ _ hc, bind_ok _ _ _ _ _ (get_run _), hok, bind_ok _ _ _ _ _ (trapIf_run _ _ _ _),
    makeEntry_run h]

/-- Settles O23: TAKE and PEEK are one form that waits for its bank; PUT and FEINIT make one entry. -/
theorem fullEmptyOperations : Obligations.FullEmptyOperations := by
  constructor
  · intro d a ord scope s s1 pl v u p hp t c x ht ha
    rw [exec_takeOrPeek d a ord scope s ht p hp]
    refine ⟨fun hr hw => ?_, takeOrPeek_sent p.2 d a t s1 pl ha⟩
    rw [takeOrPeek, withReply_writes hr (readReg_ok _ _ ha) (by rwa [core_popped]), core_popped, withCore_popped]
  · intro a b ord scope full s s1 pl c x v put init hreads hc
    exact ⟨fun hq => exec_put_takes hreads hc (.inl ⟨hq, rfl⟩), fun hb => exec_put_takes hreads hc (.inr ⟨hb, rfl⟩), fun htag =>
      ⟨fun hq => exec_feinit_takes hreads hc htag (.inl ⟨hq, rfl⟩), fun hb => exec_feinit_takes hreads hc htag (.inr ⟨hb, rfl⟩)⟩⟩

end Sys2Proof.Machine
end

section
/-!
PROOFS. The memory-control instructions (R234 to R242): fences, the cache walker, retention, commutative ranges and WAITA.
-/

namespace Sys2Proof.Machine

open Sys2Proof.Spec

/-! ### Fences and the cache walker (R234, R236, R237) -/

/-- FENCE completes once the earlier accesses have performed (R234). -/
theorem exec_fence_ok (scope : BitVec 3) (s : State) (h : fenced s s.cur scope.toNat = true) :
    exec (.fence scope) s = .next (s.withCore (s.core.advance 4)) := by
  rw [exec_fence, execFence]
  apply runInstr_ok
  rw [bind_ok _ _ _ _ _ (get_run s), h, bind_ok _ _ _ _ _ (waitUntil_run _ _), retire_run]

section

variable {a b : BitVec 4} {s : State} {pol : Policy} (hreads : s.core.readsOk [a.toNat, b.toNat] = true)

include hreads

/-- PREF gives the walker its lines (R236, R237). -/
theorem exec_pref_walks (hp : walkPolicy (s.core.valueOf a.toNat) = some pol) (hr : walkRoom (s.core.afterReads [a.toNat, b.toNat]) = true) :
    let c := s.core.afterReads [a.toNat, b.toNat]
    let w := walkOf 0 ((s.core.valueOf a.toNat).toNat % 2 ^ 52) ((s.core.popped a.toNat).valueOf b.toNat).toNat pol
    exec (.pref a b) s = .next (s.withCore ({ c with walks := c.walks ++ [w] }.advance 4)) := by
  intro c w
  rw [exec_pref, execPref]
  apply runInstr_ok
  rw [readTwo_bind _ _ _ _ hreads, hp]
  dsimp only
  rw [bind_ok _ _ _ _ _ (getC_run _), core_afterReads, hr, bind_ok _ _ _ _ _ (waitUntil_run _ _), bind_ok _ _ _ _ _ (modC_run _ _), retire_run]
  simp [c, w]

/-- PREF and RFLUSH of a pointer of another space only complete (R236, R237). -/
theorem exec_prefRflush_elsewhere (hp : walkPolicy (s.core.valueOf a.toNat) = none) :
    let t := s.withCore ((s.core.afterReads [a.toNat, b.toNat]).advance 4)
    exec (.pref a b) s = .next t ∧ exec (.rflush a b) s = .next t := by
  intro t
  have hdone : retire 4 (s.afterReads [a.toNat, b.toNat]) = .ok ((), t) := by rw [retire_run, core_afterReads, withCore_afterReads]
  rw [exec_pref, execPref, exec_rflush, execRflush]
  refine ⟨runInstr_ok _ _ _ ?_, runInstr_ok _ _ _ ?_⟩
  · rw [readTwo_bind _ _ _ _ hreads, hp]
    exact hdone
  · rw [readTwo_bind _ _ _ _ hreads, hp]
    exact hdone

/-- RFLUSH is one entry (R237). -/
theorem exec_rflush_takes {c : Core} (hp : walkPolicy (s.core.valueOf a.toNat) = some pol) :
    let x := s.core.valueOf a.toNat
    let z := s.afterReads [a.toNat, b.toNat]
    TakesEntry z.core { entryOf z (.rflush (BitVec.ofNat 64 (x.toNat % 2 ^ 52)) ((s.core.popped a.toNat).valueOf b.toNat).toNat)
      ({ space := .mem, key := 0, addr := 0 }, pol) x 0 0 with enc := encode (.rflush a b), cell := false } c →
    exec (.rflush a b) s = .next (s.withCore (c.advance 4)) := by
  intro x z h
  rw [exec_rflush, execRflush]
  apply runInstr_ok
  rw [readTwo_bind _ _ _ _ hreads, hp]
  dsimp only
  rw [bind_ok _ _ _ _ _ (mkEntry_stamped ..), appendEntry_retire h, withCore_afterReads]

end

/-! ### RINV (R237) -/

/-- The lines that RINV gives the walker: none for a pointer of another space (R237). -/
def rinvWalk (x : Word) (n : Nat) : Walk :=
  match walkPolicy x with
  | some pol => walkOf 2 (x.toNat % 2 ^ 52) n pol
  | none => walkOf 2 0 0 .direct

/-- The operands of RINV. -/
def rinvReads (a b : BitVec 4) : Act (Word × Word) := do
  let x ← readReg a.toNat
  let n ← readReg b.toNat
  return (x, n)

/-- RINV reads its pointer and its length. -/
theorem rinvReads_ok (a b : BitVec 4) (s : State) (h : s.core.readsOk [a.toNat, b.toNat] = true) :
    rinvReads a b s = .ok ((s.core.valueOf a.toNat, (s.core.popped a.toNat).valueOf b.toNat), s.afterReads [a.toNat, b.toNat]) := by
  simp only [Core.readsOk, Bool.and_true, Bool.and_eq_true] at h
  unfold rinvReads
  rw [readReg_bind _ _ _ h.1, readReg_bind _ _ _ (by simpa using h.2), core_popped]
  rfl

/-- What RINV sends once the core's entries have drained: its lines, to the walker (R237). -/
def rinvSend (r : Word × Word) : Act (State → State) := do
  afterAcquire
  let c ← getC
  waitUntil (c.drained && walkRoom c)
  let w := rinvWalk r.1 r.2.toNat
  return fun s => modCoreAt s s.cur (fun c => { c with walks := c.walks ++ [w] })

/-- RINV after the commit reads, sends and waits (R237, R335). -/
theorem exec_rinv_term (a b : BitVec 4) (s : State) (ht : s.core.twin = none) :
    exec (.rinv a b) s = runInstr (withReply .reply (rinvReads a b) rinvSend (fun _ _ _ => retire 4)) s.terminated := runTerm_eq _ _ ht

/-- RINV gives its lines to the walker where no acquire is pending, the core's entries have drained and the walker has room (R237). -/
theorem rinvSend_ok {a b : BitVec 4} {s : State} (r : Word × Word)
    (ha : s.core.acquirePending = false) (hd : s.core.drained = true) (hw : walkRoom s.core = true) :
    rinvSend r (s.afterReads [a.toNat, b.toNat]) = .ok (fun z => modCoreAt z z.cur (fun c => { c with walks := c.walks ++ [rinvWalk r.1 r.2.toNat] }),
      s.afterReads [a.toNat, b.toNat]) := by
  obtain ⟨q, hq⟩ := s.core.afterReads_queues [a.toNat, b.toNat]
  have hacq : afterAcquire (s.afterReads [a.toNat, b.toNat]) = .ok ((), s.afterReads [a.toNat, b.toNat]) :=
    afterAcquire_ok _ (by rw [core_afterReads, hq]; exact ha)
  have hroom : (s.afterReads [a.toNat, b.toNat]).core.drained && walkRoom (s.afterReads [a.toNat, b.toNat]).core := by
    rw [core_afterReads, hq, Bool.and_eq_true]
    exact ⟨hd, hw⟩
  unfold rinvSend
  rw [bind_ok _ _ _ _ _ hacq, bind_ok _ _ _ _ _ (getC_run _), hroom, bind_ok _ _ _ _ _ (waitUntil_run _ _)]
  rfl

/-- Settles O24: FENCE, PREF and RFLUSH by their cases, and RINV by what it finds of its wait. -/
theorem fencesAndWalker : Obligations.FencesAndWalker := by
  intro a b scope s pol v u c rs x n c' e
  refine ⟨exec_fence_ok scope s, exec_pref_walks, fun h hp => exec_prefRflush_elsewhere h hp, fun h hp hq =>
    exec_rflush_takes h hp (.inl ⟨by rwa [core_afterReads], by rw [core_afterReads]⟩), ?_⟩
  intro t y m begun ht
  rw [exec_rinv_term a b s ht]
  refine ⟨fun h hr => runInstr_ok _ _ _ ?_, fun hr hw => runInstr_waiting hr hw, fun h hr hw ha hd hroom => ?_⟩
  · rw [withReply_value _ _ _ _ _ _ _ hr, bind_ok _ _ _ _ _ (rinvReads_ok a b _ h), retire_run, core_afterReads, withCore_afterReads]
  · have hwalk : runInstr (withReply .reply (rinvReads a b) rinvSend (fun _ _ _ => retire 4)) t = .next (begun (rinvWalk y m)) := by
      rw [runInstr_sent hr hw (rinvReads_ok a b _ h) (rinvSend_ok _ ha hd hroom) rfl, modCoreAt_modCoreAt, modCoreAt_cur]
    exact ⟨fun hp => by rw [hwalk, rinvWalk, hp], fun hp => by rw [hwalk, rinvWalk, hp]⟩

/-! ### Retention (R240) -/

/-- In supervisor mode a supervisor-only instruction is legal (R185). -/
theorem supervisorOnly_ok (i : Instr) (s : State) (h : s.core.supervisor = true) : supervisorOnly i s = .ok ((), s) := by
  rw [supervisorOnly_run, if_pos h]

/-- RETAIN in supervisor mode gives the answer v of its operation, in the state u that it leaves (R240). -/
theorem exec_retain_ok (d a b : BitVec 4) (s u : State) (v : Word) (ht : s.core.twin = none) :
    let t := s.terminated
    let c := t.core
    c.supervisor = true → c.readsOk [a.toNat, b.toNat, d.toNat] = true →
    retainOp (t.afterReads [a.toNat, b.toNat, d.toNat]) (c.valueOf a.toNat).toNat ((c.popped a.toNat).valueOf b.toNat).toNat
      (((c.afterReads [a.toNat, b.toNat]).valueOf d.toNat).toNat % 16) = (v, u) →
    u.core.writable d.toNat = true → exec (.retain d a b) s = .next (u.withCore ((u.core.put d.toNat v).advance 4)) := by
  intro t c hs h hop hw
  rw [exec_retain, execRetain, runTerm_eq _ _ ht]
  apply runInstr_ok
  rw [bind_ok _ _ _ _ _ (supervisorOnly_ok _ _ hs), readThree_bind _ _ _ _ _ h, bind_ok _ _ _ _ _ (get_run _), hop]
  dsimp only
  rw [bind_ok _ _ _ _ _ (set_run _ u), writeReg_bind _ _ _ _ hw, retire_run, core_withCore, withCore_withCore]

/-- UNRETAIN in supervisor mode (R240). -/
theorem exec_unretain_ok (a : BitVec 4) (s : State) (ht : s.core.twin = none) :
    let t := s.terminated
    let u := unretainOp (t.popped a.toNat) (t.core.valueOf a.toNat).toNat
    t.core.supervisor = true → t.core.readable a.toNat = true → exec (.unretain a) s = .next (u.withCore (u.core.advance 4)) := by
  intro t u hs h
  rw [exec_unretain, execUnretain, runTerm_eq _ _ ht]
  apply runInstr_ok
  rw [bind_ok _ _ _ _ _ (supervisorOnly_ok _ _ hs), readReg_bind _ _ _ h, bind_ok _ _ _ _ _ (modify_run _ _), retire_run]

/-! ### Commutative ranges (R238, R239) -/

/-- CRDECL of a pointer of another space answers -3 (R238; log 118). -/
theorem exec_crdecl_elsewhere (d a b : BitVec 4) (elem : BitVec 3) (op : BitVec 2) (s : State) (ht : s.core.twin = none) :
    let t := s.terminated
    let c := t.core.afterReads [a.toNat, b.toNat]
    t.core.readsOk [a.toNat, b.toNat] = true → c.writable d.toNat = true → (walkPolicy (t.core.valueOf a.toNat)).isNone = true →
    exec (.crdecl d a b elem op) s = .next (t.withCore ((c.put d.toNat (-3)).advance 4)) := by
  intro t c h hw hp
  have hw' : (t.afterReads [a.toNat, b.toNat]).core.writable d.toNat = true := by rwa [core_afterReads]
  have hsome : (walkPolicy (t.core.valueOf a.toNat)).isSome = false := by rwa [← Option.not_isSome, Bool.not_eq_true'] at hp
  rw [exec_crdecl, execCrdecl, runTerm_eq _ _ ht]
  apply runInstr_ok
  rw [readTwo_bind _ _ _ _ h, bind_ok _ _ _ _ _ (canWrite_ok _ _ hw')]
  simp only [hsome, Bool.false_and, Bool.not_false, if_true]
  rw [writeReg_bind _ _ _ _ hw', retire_run, core_withCore, withCore_withCore, core_afterReads, withCore_afterReads]

/-- CRCLR of a range of the core's team, once its entries have drained, ends the range (R239). -/
theorem exec_crclr_ok {a : BitVec 4} {s t : State} {i : Nat} {r : CommRange} (htwin : s.core.twin = none) (ht : s.terminated = t)
    (hi : (t.core.valueOf a.toNat).toNat % 64 = i) (h : t.core.readable a.toNat = true) (hrange : SMap.get? t.ranges i = some r)
    (hteam : r.team = t.core.team.getD 0) (hd : (t.core.popped a.toNat).drained = true) :
    let u := clearRange (t.popped a.toNat) i
    exec (.crclr a) s = .next (u.withCore (u.core.advance 4)) := by
  intro u
  have hrange' : SMap.get? (t.popped a.toNat).ranges i = some r := by
    obtain ⟨cs, hcs⟩ := t.popped_cores a.toNat
    rw [hcs]
    exact hrange
  have hteam' : r.team = (t.popped a.toNat).core.team.getD 0 := by
    obtain ⟨q, hq⟩ := t.core.popped_queues a.toNat
    rw [core_popped, hq]
    exact hteam
  have hwait : waitUntil (t.popped a.toNat).core.drained (t.popped a.toNat) = .ok ((), t.popped a.toNat) := by
    rw [core_popped, hd, waitUntil_run]
    rfl
  rw [exec_crclr, execCrclr, runTerm_eq _ _ htwin, ht]
  apply runInstr_ok
  rw [readReg_bind _ _ _ h, bind_ok _ _ _ _ _ (get_run _)]
  simp only [hi, hrange']
  rw [if_pos hteam', bind_ok _ _ _ _ _ hwait, bind_ok _ _ _ _ _ (modify_run _ _), retire_run]

/-- CRDECL of an acceptable base and length, translated to pa, declares the range under a free number (R238; log 118). -/
theorem exec_crdecl_declares {d a b : BitVec 4} {elem : BitVec 3} {op : BitVec 2} {s t s1 : State} {x n : Word} {pa leaf i : Nat}
    (htwin : s.core.twin = none) (ht : s.terminated = t) (hx : t.core.valueOf a.toNat = x) (hn : (t.core.popped a.toNat).valueOf b.toNat = n)
    (h : t.core.readsOk [a.toNat, b.toNat] = true) (hw : (t.core.afterReads [a.toNat, b.toNat]).writable d.toNat = true)
    (hok : ((walkPolicy x).isSome && x.toNat % 2 ^ 52 % 64 == 0 && n.toNat % 64 == 0 && n != 0) = true)
    (hpage : xlate (t.afterReads [a.toNat, b.toNat]) t.cur (x.toNat % 2 ^ 52) .store (!t.core.supervisor) = (.ok pa leaf, s1))
    (hone : onePage s1 s1.cur (x.toNat % 2 ^ 52) n.toNat = true)
    (hlap : s1.ranges.any (fun p => pa < p.2.base + p.2.len && p.2.base < pa + n.toNat) = false) (hfree : freeRange s1 = some i)
    (hw1 : s1.core.writable d.toNat = true) :
    let r : CommRange := { base := pa, len := n.toNat, fmt := elem.toNat, op := op.toNat, team := s1.core.team.getD 0, closed := false }
    exec (.crdecl d a b elem op) s = .next
      (State.withCore { s1 with ranges := SMap.set s1.ranges i r } ((s1.core.put d.toNat (BitVec.ofNat 64 i)).advance 4)) := by
  intro r
  have hcan : canWrite d.toNat (t.afterReads [a.toNat, b.toNat]) = .ok ((), t.afterReads [a.toNat, b.toNat]) :=
    canWrite_ok _ _ (by rwa [core_afterReads])
  have hsup : (t.core.afterReads [a.toNat, b.toNat]).supervisor = t.core.supervisor := by simp [Core.afterReads]
  have hpage' : xlate (t.afterReads [a.toNat, b.toNat]) (t.afterReads [a.toNat, b.toNat]).cur (x.toNat % 2 ^ 52) .store
      (!(t.afterReads [a.toNat, b.toNat]).core.supervisor) = (.ok pa leaf, s1) := by
    rwa [cur_afterReads, core_afterReads, hsup]
  rw [exec_crdecl, execCrdecl, runTerm_eq _ _ htwin, ht]
  apply runInstr_ok
  rw [readTwo_bind _ _ _ _ h, hx, hn, bind_ok _ _ _ _ _ hcan]
  simp only [hok, Bool.not_true, Bool.false_eq_true, if_false]
  rw [bind_ok _ _ _ _ _ (get_run _)]
  simp only [hpage']
  rw [bind_ok _ _ _ _ _ (set_run _ _)]
  simp only [hone, hlap, hfree, Bool.not_true, Bool.false_eq_true, if_false]
  rw [bind_ok _ _ _ _ _ (modify_run _ _)]
  refine (writeReg_bind _ _ _ { s1 with ranges := SMap.set s1.ranges i r } hw1).trans ?_
  rw [retire_run, core_withCore, withCore_withCore]
  rfl

/-- Settles O26: the base and length are accepted, so CRDECL declares the range. -/
theorem rangeDeclared : Obligations.RangeDeclared := by
  intro d a b elem op s s1 pa leaf i t c x n va ht h hw hp hva hn hn0 hpage hone hlap hfree hw1 _ r
  have hok : ((walkPolicy x).isSome && x.toNat % 2 ^ 52 % 64 == 0 && n.toNat % 64 == 0 && n != 0) = true := by
    rw [hp, show x.toNat % 2 ^ 52 % 64 = 0 from hva, hn, bne_iff_ne.mpr hn0]
    rfl
  exact exec_crdecl_declares ht rfl rfl rfl h hw hok hpage hone hlap hfree hw1

/-! ### WAITA (R235) -/

/-- The value with which a WAITA ends: the word as it stands where the wait has not begun, else the value that a write has left (R235). -/
def waitaFinds (s : State) (p : Place) (v : Word) : Prop :=
  (s.core.wait = none ∧ v = BitVec.ofNat 64 (placeNat s p 8))
    ∨ ∃ st n ex sp o cmp, s.core.wait = some (.waita st n ex sp o cmp (some v))

/-- WAITA ends with a value that differs from sB (R235). -/
theorem exec_waita_ends {d a b : BitVec 4} {s t : State} {p : Place} {v : Word} (htwin : s.core.twin = none) (ht : s.terminated = t)
    (h : t.core.readsOk [a.toNat, b.toNat, d.toNat] = true)
    (hp : waitaPlace (t.core.valueOf a.toNat) (t.afterReads [a.toNat, b.toNat, d.toNat]) = .ok (p, t.afterReads [a.toNat, b.toNat, d.toNat]))
    (hw : (t.core.afterReads [a.toNat, b.toNat, d.toNat]).writable d.toNat = true) (hacq : t.core.acquirePending = false)
    (hq : t.core.cq = []) (hb : t.core.rbuf = []) (hpois : poisonAt t p 8 = none) (hfinds : waitaFinds t p v)
    (hv : v ≠ (t.core.popped a.toNat).valueOf b.toNat) :
    exec (.waita d a b) s = .next (t.withCore (((t.core.afterReads [a.toNat, b.toNat, d.toNat]).put d.toNat v).advance 4)) := by
  have hw' : (t.afterReads [a.toNat, b.toNat, d.toNat]).core.writable d.toNat = true := by rwa [core_afterReads]
  have hacq' : (t.afterReads [a.toNat, b.toNat, d.toNat]).core.acquirePending = false := by
    obtain ⟨q, hqs⟩ := t.core.afterReads_queues [a.toNat, b.toNat, d.toNat]
    rw [core_afterReads, hqs]
    exact hacq
  have hstores : waitUntil ((t.core.cq ++ t.core.rbuf).all (fun e => !overlaps e.place e.act.size p 8))
      (t.afterReads [a.toNat, b.toNat, d.toNat]) = .ok ((), t.afterReads [a.toNat, b.toNat, d.toNat]) := by
    rw [hq, hb]
    rfl
  have hcons : consumes t p 8 [] (t.afterReads [a.toNat, b.toNat, d.toNat]) = .ok ((), t.afterReads [a.toNat, b.toNat, d.toNat]) := by
    unfold consumes
    rw [if_pos (by decide), hpois]
    rfl
  have hends : (do writeReg d.toNat v; retire 4 : Act Unit) (t.afterReads [a.toNat, b.toNat, d.toNat])
      = .ok ((), t.withCore (((t.core.afterReads [a.toNat, b.toNat, d.toNat]).put d.toNat v).advance 4)) := by
    rw [writeReg_bind _ _ _ _ hw', retire_run, core_withCore, withCore_withCore, core_afterReads, withCore_afterReads]
  rw [exec_waita, execWaita, runTerm_eq _ _ htwin, ht]
  apply runInstr_ok
  rw [bind_ok _ _ _ _ _ (get_run _), readThree_bind _ _ _ _ _ h, bind_ok _ _ _ _ _ hp, bind_ok _ _ _ _ _ (canWrite_ok _ _ hw'),
    bind_ok _ _ _ _ _ (afterAcquire_ok _ hacq'), bind_ok _ _ _ _ _ hstores, bind_ok _ _ _ _ _ hcons]
  rcases hfinds with ⟨hwait, rfl⟩ | ⟨st, n, ex, sp, o, cmp, hwait⟩
  · simp only [hwait]
    rw [if_pos (.inl hv)]
    exact hends
  · simp only [hwait]
    rw [if_pos (.inl hv)]
    exact hends

/-- Settles O25: each by its own lemma, in the state after the commit. -/
theorem rangesRetentionAndWaits : Obligations.RangesRetentionAndWaits := by
  intro d a b elem op s t c x y z ht
  refine ⟨?_, exec_unretain_ok a s ht, exec_crdecl_elsewhere d a b elem op s ht, ?_, ?_⟩
  · intro hs h r hw
    exact exec_retain_ok d a b s r.2 r.1 ht hs h rfl hw
  · intro h r hrange hteam hd
    exact exec_crclr_ok ht rfl rfl h hrange hteam hd
  · intro h p hp hw hacq hq hb hpois ends
    have hends : ∀ v, waitaFinds t p v → v ≠ y → ends v := fun v => exec_waita_ends ht rfl h hp hw hacq hq hb hpois
    exact ⟨fun hwait => hends _ (.inl ⟨hwait, rfl⟩), fun st n ex sp o cmp v hwait => hends v (.inr ⟨st, n, ex, sp, o, cmp, hwait⟩)⟩

end Sys2Proof.Machine
end

section
/-!
PROOFS. The rows of tiles (R253): what writes of rows leave in the tiles of a core, and what the tile unit's operation makes of the core in
the words of the statements.
-/

namespace Sys2Proof.Machine

open Sys2Proof.Spec

/-! ### Rows after writes -/

theorem vget_vset {α : Type} {n : Nat} (v : Vector α n) (i j : Nat) (x y : α) (hi : i < n) :
    vget (vset v i x) y j = if j = i then x else vget v y j := by
  unfold vget vset
  by_cases hj : j = i
  · subst hj
    simp [hi]
  · simp [hi, hj, Ne.symm hj]

/-- A row that replaces another in the tiles of a core. -/
theorem row_putTile (c : Core) {t r : Nat} (v : Row) (ps : List (Nat × Nat)) (ht : t < 8) (hr : r < 8) (q u : Nat) :
    ({ c with tiles := vset c.tiles t (vset (vget c.tiles (Vector.replicate 8 0) t) r v), poison := ps } : Core).row q u
      = if q = t ∧ u = r then v else c.row q u := by
  unfold Core.row
  rw [vget_vset _ _ _ _ _ ht]
  by_cases hq : q = t
  · simp [hq, vget_vset _ _ _ _ _ hr]
  · simp [hq]

/-- A row read after a row is written is that row, or as before (R253). -/
theorem row_setRow (c : Core) {t r : Nat} (v : Row) (ht : t < 8) (hr : r < 8) (q u : Nat) :
    (c.setRow t r v).row q u = if q = t ∧ u = r then v else c.row q u := row_putTile c v _ ht hr q u

/-- Writes of rows change a core's tiles and its marks of poison only. -/
theorem setRows_fields (c : Core) (ws : Writes) : ∃ ti po, c.setRows ws = { c with tiles := ti, poison := po } := by
  induction ws generalizing c with
  | nil => exact ⟨c.tiles, c.poison, rfl⟩
  | cons w ws ih =>
    obtain ⟨ti, po, h⟩ := ih (c.setRow w.1 w.2.1 w.2.2)
    exact ⟨ti, po, h⟩

/-- The writes of an instruction make the rows of a core's tiles the given ones: each writes the row given for its place, and where none writes
the row given is the core's. -/
def WritesRows (c : Core) (ws : Writes) (row : Nat → Nat → Row) : Prop :=
  (∀ w ∈ ws, w.1 < 8 ∧ w.2.1 < 8 ∧ w.2.2 = row w.1 w.2.1)
    ∧ ∀ q r, q < 8 → r < 8 → c.row q r = row q r ∨ ∃ w ∈ ws, w.1 = q ∧ w.2.1 = r

/-- Such writes leave the given rows in the tiles. -/
theorem row_setRows {c : Core} {ws : Writes} {row : Nat → Nat → Row} (h : WritesRows c ws row) {q r : Nat} (hq : q < 8) (hr : r < 8) :
    (c.setRows ws).row q r = row q r := by
  obtain ⟨hw, hc⟩ := h
  replace hc := hc q r hq hr
  induction ws generalizing c with
  | nil => exact hc.resolve_right (by simp)
  | cons w ws ih =>
    obtain ⟨ht, hu, hv⟩ := hw w (List.mem_cons_self ..)
    refine ih (c := c.setRow w.1 w.2.1 w.2.2) (fun x hx => hw x (List.mem_cons_of_mem _ hx)) ?_
    rw [row_setRow c w.2.2 ht hu]
    by_cases hit : q = w.1 ∧ r = w.2.1
    · rw [if_pos hit, hv, hit.1, hit.2]
      exact .inl rfl
    · rw [if_neg hit]
      refine hc.imp_right ?_
      rintro ⟨x, hx, hx1, hx2⟩
      rcases List.mem_cons.mp hx with rfl | hx
      · exact absurd ⟨hx1.symm, hx2.symm⟩ hit
      · exact ⟨x, hx, hx1, hx2⟩

/-- One row for each of the first rows of a tile. -/
theorem writesRows_range (c : Core) {d n : Nat} (f : Nat → Row × BitVec 5) (hd : d < 8) (hn : n ≤ 8) :
    WritesRows c ((List.range n).map (fun r => (d, r, (f r).1))) (rowsWritten c d n f) := by
  refine ⟨fun w hw => ?_, fun q r _ _ => ?_⟩
  · obtain ⟨r, hr, rfl⟩ := List.mem_map.mp hw
    have hr : r < n := List.mem_range.mp hr
    exact ⟨hd, Nat.lt_of_lt_of_le hr hn, by simp [rowsWritten, hr]⟩
  · by_cases hit : q = d ∧ r < n
    · exact .inr ⟨(d, r, (f r).1), List.mem_map.mpr ⟨r, List.mem_range.mpr hit.2, rfl⟩, hit.1.symm, rfl⟩
    · exact .inl (by rw [rowsWritten, if_neg hit])

/-! ### The tile unit's operation (R253 to R255) -/

/-- The tiles of an instruction are free, its core's place in the unit's queue is free, and none that it writes has been read in the open region. -/
theorem tilesReady_iff {c : Core} {reads writes : List Nat} : tilesReady c reads writes = true ↔
    (∀ t ∈ reads ++ writes, (!c.tileLocked t && !c.tilePending t) = true) ∧ c.tileBusy = false
      ∧ ∀ r, c.region = some r → writes.all (fun t => !r.rbwTile.getLsbD t) = true := by
  unfold tilesReady
  rw [Bool.and_eq_true, Bool.and_eq_true, List.all_eq_true, Bool.not_eq_true', and_assoc]
  refine and_congr_right fun _ => and_congr_right fun _ => ?_
  cases c.region with
  | none => simp
  | some r => simp

theorem rowsClean_iff {c : Core} {t n : Nat} : rowsClean c t n = true ↔ ∀ r, r < n → c.poison.contains (0, 64 + 8 * t + r) = false := by
  simp [rowsClean]

/-- Fewer rows of a clean tile are clean. -/
theorem rowsClean_mono {c : Core} {t m n : Nat} (h : rowsClean c t n = true) (hm : m ≤ n) : rowsClean c t m = true :=
  rowsClean_iff.mpr fun r hr => rowsClean_iff.mp h r (by omega)

/-- The rows of operand TB in the words of the statements (R254). -/
def operandRows (c : Core) (tb : Option (BitVec 1 × BitVec 3)) (slot : List Row) : Rows :=
  match tb with
  | some p => rowsB c p.1 p.2 slot
  | none => fun _ => 0

/-- The tile that operand TB names is read, with its rows (R254). -/
theorem tbTile_some (h : BitVec 1) (b : BitVec 3) (n : Nat) : tbTile (some (h, b)) n = if h = 0 then [(b.toNat, n)] else [] := by
  by_cases h0 : h = 0
  · subst h0
    rfl
  · obtain rfl : h = 1 := by bv_omega
    rfl

/-- An instruction on the tiles `reads` and on operand TB, whose tile is clean where TB names one. -/
theorem reads_withB {c : Core} {h : BitVec 1} {b : BitVec 3} {n : Nat} {reads : List (Nat × Nat)} {ts : List Nat}
    (hr : ∀ p ∈ reads, p.1 ∈ ts ∧ rowsClean c p.1 p.2 = true) (hb : h = 0 → rowsClean c b.toNat n = true) :
    ∀ p ∈ reads ++ tbTile (some (h, b)) n, p.1 ∈ ts ++ (if h = 0 then [b.toNat] else []) ∧ rowsClean c p.1 p.2 = true := by
  rw [tbTile_some]
  intro p hp
  rcases List.mem_append.mp hp with hp | hp
  · exact ⟨List.mem_append_left _ (hr p hp).1, (hr p hp).2⟩
  · obtain ⟨h0, rfl⟩ : h = 0 ∧ p = (b.toNat, n) := by simpa using hp
    exact ⟨by simp [h0], hb h0⟩

/-- The slot of the handle that operand TB names (R254). -/
theorem slot_some {h : BitVec 1} {b : BitVec 3} {n : Nat} {s : State} {slot : List Row} (hslot : h = 1 → handleRows b.toNat n s = .ok (slot, s)) :
    ∀ p, some (h, b) = some p → p.1 = 1 → handleRows p.2.toNat n s = .ok (slot, s) := by
  rintro _ ⟨⟩
  exact hslot

/-- A tile-unit instruction has completed once its writes are in the tiles, its flags are set and its place in the queue is taken. -/
theorem tileUnit_completes {s : State} {o : Out} {w : Writes × BitVec 5} {ws : Writes} {fl : BitVec 5} {row : Nat → Nat → Row}
    (hrun : ∃ c : Core, o = .next (s.withCore ((({ c.setRows w.1 with tileBusy := true } : Core).orFlags w.2).advance 4))
      ∧ c = { s.core with region := c.region }) (hbody : w = (ws, fl)) (h : WritesRows s.core ws row) :
    ∃ t, o = .next t ∧ TileWritten s t row fl ∧ t.core.tileBusy = true := by
  subst hbody
  obtain ⟨c, rfl, hc⟩ := hrun
  refine ⟨_, rfl, ?_⟩
  have hw : WritesRows c ws row := by
    rw [hc]
    exact h
  have hrow := fun q r (hq : q < 8) (hr : r < 8) => row_setRows hw hq hr
  obtain ⟨ti, po, hf⟩ := setRows_fields c ws
  unfold TileWritten Completes
  rw [core_withCore]
  rw [hf] at hrow ⊢
  rw [hc]
  rw [hc] at hrow
  exact ⟨⟨⟨rfl, rfl, rfl, rfl, rfl, rfl, rfl, rfl, rfl⟩, hrow, rfl, rfl, rfl, rfl, rfl, rfl, rfl, rfl, rfl, rfl, rfl, rfl, rfl,
    rfl, rfl, rfl, rfl, othersKept_withCore _ _⟩, rfl⟩

/-- An instruction of the tile unit whose tiles are ready and whose rows are clean completes with its writes and its flags. -/
theorem tileUnit_writes {s : State} {reads : List (Nat × Nat)} {tb : Option (BitVec 1 × BitVec 3)} {writes rs : List Nat} {n : Nat} {full : Bool}
    {body : (Nat → Rows) → Rows → Writes × BitVec 5} {slot : List Row} {ws : Writes} {fl : BitVec 5} {row : Nat → Nat → Row}
    (hslot : ∀ p, tb = some p → p.1 = 1 → handleRows p.2.toNat n s = .ok (slot, s)) (hready : tilesReady s.core rs writes = true)
    (hreads : ∀ p ∈ reads ++ tbTile tb n, p.1 ∈ rs ∧ rowsClean s.core p.1 p.2 = true)
    (hbody : body (fun t r => s.core.row t r) (operandRows s.core tb slot) = (ws, fl)) (hw : WritesRows s.core ws row) :
    ∃ t, runInstr (tileUnit reads tb writes n full body) s = .next t ∧ TileWritten s t row fl ∧ t.core.tileBusy = true := by
  obtain ⟨hfree, hbusy, hregion⟩ := tilesReady_iff.mp hready
  have hf : ((reads ++ tbTile tb n).map (fun p => p.1) ++ writes).all (fun t => !s.core.tileLocked t && !s.core.tilePending t) = true := by
    rw [List.all_eq_true]
    intro t ht
    refine hfree t (List.mem_append.mpr ((List.mem_append.mp ht).imp_left fun ht => ?_))
    obtain ⟨p, hp, rfl⟩ := List.mem_map.mp ht
    exact (hreads p hp).1
  have hclean := fun p hp => rowsClean_iff.mp (hreads p hp).2
  rcases tb with _ | ⟨x, b⟩
  · exact tileUnit_completes (tileUnit_ok reads none writes n full body s [] rfl hf hbusy hregion hclean) hbody hw
  · by_cases h0 : x = 0
    · subst h0
      exact tileUnit_completes (tileUnit_ok reads (some (0, b)) writes n full body s [] rfl hf hbusy hregion hclean) hbody hw
    · obtain rfl : x = 1 := by bv_omega
      exact tileUnit_completes (tileUnit_ok reads (some (1, b)) writes n full body s slot (hslot _ rfl rfl) hf hbusy hregion hclean) hbody hw

/-- What a row-by-row instruction computes for a row from the rows of its operands as they are (R253). -/
def rowResult (c : Core) (d a : BitVec 3) (tb : Option (BitVec 1 × BitVec 3)) (slot : List Row) (f : Row → Row → Row → Row × BitVec 5)
    (r : Nat) : Row × BitVec 5 := f (c.row a.toNat r) (operandRows c tb slot r) (c.row d.toNat r)

/-- A row-by-row instruction writes the first rows of TD, and sets the flags of their elements (R253). -/
theorem rowwise_writes {s : State} {d a rows : BitVec 3} {tb : Option (BitVec 1 × BitVec 3)} {readsD : Bool}
    (f : Row → Row → Row → Row × BitVec 5) {slot : List Row} {rs : List Nat}
    (hslot : ∀ p, tb = some p → p.1 = 1 → handleRows p.2.toNat (rows.toNat + 1) s = .ok (slot, s))
    (hready : tilesReady s.core rs [d.toNat] = true)
    (hreads : ∀ p ∈ (a.toNat, rows.toNat + 1) :: (if readsD then [(d.toNat, rows.toNat + 1)] else []) ++ tbTile tb (rows.toNat + 1),
      p.1 ∈ rs ∧ rowsClean s.core p.1 p.2 = true) :
    ∃ t, runInstr (rowwise d a tb readsD rows f) s = .next t
      ∧ TileWritten s t (rowsWritten s.core d.toNat (rows.toNat + 1) (rowResult s.core d a tb slot f))
        (rowFlags (rows.toNat + 1) (rowResult s.core d a tb slot f)) ∧ t.core.tileBusy = true := by
  have hw := writesRows_range s.core (rowResult s.core d a tb slot f) d.isLt (show rows.toNat + 1 ≤ 8 by omega)
  unfold rowwise
  exact tileUnit_writes hslot hready hreads (Prod.ext List.map_map List.foldl_map) hw

end Sys2Proof.Machine
end

section
/-!
PROOFS. The tile-unit instructions that write row by row (R256 to R263, R265): each is the common form on its rows.
-/

namespace Sys2Proof.Machine

open Sys2Proof.Spec

/-- A meaning is what its steps are. -/
theorem runInstr_congr {act act' : Act Unit} {s : State} (h : act s = act' s) : runInstr act s = runInstr act' s := by
  unfold runInstr
  rw [h]

section

variable {s : State} (hp : s.core.poison.contains (0, 4096) = false)
include hp

/-- The rounding mode of a STATUS that is not poisoned (R405). -/
theorem statusMode_ok (rounds : Bool) : statusMode rounds s = .ok (s.core.rm, s) := by
  unfold statusMode
  cases rounds with
  | false => rfl
  | true =>
    simp only [if_true]
    rw [bind_ok _ _ _ _ _ (noPoison_ok _ _ _ hp)]
    rfl

/-- Any RM field names a mode where STATUS is not poisoned. -/
theorem modeClean_of_status (rm : BitVec 3) : modeClean s.core rm = true := by
  rw [modeClean, hp]
  simp

variable {d a b rows : BitVec 3} {h : BitVec 1} {code : Nat} {rounds readsD : Bool}

/-- An elementwise instruction on TA and TB is the common form on their elements, in the mode of STATUS (R256). -/
theorem elem2_run (f : Nat → Nat → Nat → Nat → Nat × BitVec 5) :
    runInstr (elem2 d a h b rows code rounds readsD f) s
      = runInstr (rowwise d a (some (h, b)) readsD rows (mapRow code (f s.core.rm))) s :=
  runInstr_congr (bind_ok _ _ _ _ _ (statusMode_ok hp rounds))

/-- An elementwise instruction on TA is the common form on its elements, in the mode of STATUS (R256, R258). -/
theorem elem1_run (f : Nat → Nat → Nat × BitVec 5) :
    runInstr (elem1 d a rows code rounds f) s
      = runInstr (rowwise d a none false rows (fun x _ _ => mapRow code (fun e _ _ => f s.core.rm e) x 0 0)) s :=
  runInstr_congr (bind_ok _ _ _ _ _ (statusMode_ok hp rounds))

/-- Every row-by-row instruction on TA and TB is the common form with what its table gives. -/
theorem exec_rowTableB (fmt : BitVec 4) (f64 : BitVec 1) (cc : BitVec 2) :
    ∀ p ∈ rowTableB s.core.rm d a h b rows fmt f64 cc, exec p.1 s = runInstr (rowwise d a (some (h, b)) p.2.2 rows p.2.1) s := by
  simp only [rowTableB, List.forall_mem_cons]
  exact ⟨elem2_run hp _, elem2_run hp _, elem2_run hp _, elem2_run hp _, elem2_run hp _, elem2_run hp _, elem2_run hp _, elem2_run hp _,
    rfl, rfl, rfl, elem2_run hp _, elem2_run hp _, rfl, List.forall_mem_nil _⟩

/-- Every row-by-row instruction on TA is the common form with what its table gives. -/
theorem exec_rowTable (src fmt : BitVec 4) (f64 sat : BitVec 1) (rm k : BitVec 3) (red : BitVec 2) :
    ∀ p ∈ rowTable s.core d a rows src fmt f64 sat rm k red,
      exec p.1 s = runInstr (rowwise d a none false rows (fun x _ _ => p.2 x)) s := by
  simp only [rowTable, List.forall_mem_cons]
  exact ⟨rfl, rfl, elem1_run hp _, elem1_run hp _, elem1_run hp _, elem1_run hp _, elem1_run hp _, elem1_run hp _, elem1_run hp _,
    runInstr_congr (bind_ok _ _ _ _ _ (modeOf_ok rm s (modeClean_of_status hp rm))),
    runInstr_congr (bind_ok _ _ _ _ _ (modeOf_ok rm s (modeClean_of_status hp rm))),
    runInstr_congr (bind_ok _ _ _ _ _ (statusMode_ok hp _)), runInstr_congr (bind_ok _ _ _ _ _ (statusMode_ok hp _)),
    rfl, List.forall_mem_nil _⟩

end

/-- Settles O27: each instruction of the tables is the common form, which writes its rows and sets their flags. -/
theorem tileRowByRow : Obligations.TileRowByRow := by
  refine ⟨?_, ?_⟩
  · intro d a h b rows fmt f64 cc s slot p hp c n f hslot hstatus hready ha hb hd
    rw [exec_rowTableB hstatus fmt f64 cc p hp]
    refine rowwise_writes p.2.1 (slot_some hslot) hready (reads_withB (ts := [a.toNat, d.toNat]) (fun x hx => ?_) hb)
    rcases List.mem_cons.mp hx with rfl | hx
    · exact ⟨by simp, ha⟩
    · obtain ⟨hreads, rfl⟩ : p.2.2 = true ∧ x = (d.toNat, n) := by simpa using hx
      exact ⟨by simp, hd hreads⟩
  · intro d a rows src fmt f64 sat rm k red s p hp c n f hstatus hready ha
    rw [exec_rowTable hstatus src fmt f64 sat rm k red p hp]
    refine rowwise_writes (slot := []) (fun x _ _ => p.2 x) nofun hready ?_
    intro x hx
    obtain rfl : x = (a.toNat, n) := by simpa [tbTile] using hx
    exact ⟨by simp, ha⟩

end Sys2Proof.Machine
end

section
/-!
PROOFS. The tile-unit instructions that rearrange rows or fill tiles (R53, R259, R260, R265): TZERO, TBCAST, TTRN, TGATH and TNOISE, and those that
write more than a row from a row, TCVT and TSCAT.
-/

namespace Sys2Proof.Machine

open Sys2Proof.Spec

/-! ### Rows that set no flag (R259, R265) -/

/-- A tile-unit instruction whose body gives a row for each of the first n rows of TD, and no flag. -/
theorem tileUnit_rows {s : State} {reads : List (Nat × Nat)} {tb : Option (BitVec 1 × BitVec 3)} {d : BitVec 3} {rs : List Nat} {n : Nat}
    {full : Bool} {body : (Nat → Rows) → Rows → Writes × BitVec 5} {slot : List Row} {f : Nat → Row} (hn : n ≤ 8)
    (hslot : ∀ p, tb = some p → p.1 = 1 → handleRows p.2.toNat n s = .ok (slot, s)) (hready : tilesReady s.core rs [d.toNat] = true)
    (hreads : ∀ p ∈ reads ++ tbTile tb n, p.1 ∈ rs ∧ rowsClean s.core p.1 p.2 = true)
    (hbody : body (fun t r => s.core.row t r) (operandRows s.core tb slot) = ((List.range n).map (fun r => (d.toNat, r, f r)), 0)) :
    ∃ t, runInstr (tileUnit reads tb [d.toNat] n full body) s = .next t
      ∧ TileWritten s t (rowsWritten s.core d.toNat n (fun r => (f r, 0))) 0 ∧ t.core.tileBusy = true :=
  tileUnit_writes hslot hready hreads hbody (writesRows_range s.core (fun r => (f r, 0)) d.isLt hn)

/-- An instruction on one tile, of which it reads at most the rows that are clean. -/
theorem reads_one {c : Core} {a d : BitVec 3} {m n : Nat} (hm : m ≤ 8) (ha : rowsClean c a.toNat 8 = true) :
    ∀ p ∈ [(a.toNat, m)] ++ tbTile none n, p.1 ∈ [a.toNat, d.toNat] ∧ rowsClean c p.1 p.2 = true := by
  intro p hp
  obtain rfl : p = (a.toNat, m) := by simpa [tbTile] using hp
  exact ⟨by simp, rowsClean_mono ha hm⟩

/-- Settles O28: each body gives a row for each row of TD that it writes. -/
theorem tileRearranged : Obligations.TileRearranged := by
  intro d a h b rows m fmt s slot c n code e writes
  have hn : n ≤ 8 := by omega
  refine ⟨fun hready => ?_, fun hready ha => ⟨?_, ?_, ?_⟩, fun hslot hready ha hb => ?_⟩
  · exact tileUnit_rows (reads := []) (tb := none) (slot := []) hn nofun hready (by simp [tbTile]) rfl
  · exact tileUnit_rows (tb := none) (slot := []) hn nofun hready (reads_one (by split <;> omega) ha) rfl
  · exact tileUnit_rows (tb := none) (slot := []) le_rfl nofun hready (reads_one le_rfl ha) rfl
  · exact tileUnit_rows (tb := none) (slot := []) hn nofun hready (reads_one (by omega) ha) rfl
  · exact tileUnit_rows hn (slot_some hslot) hready (reads_withB (ts := [a.toNat, d.toNat]) (by simpa using ha) hb) rfl

/-! ### Groups of tiles (R260) -/

/-- The rows of a group of tiles that are filled in order with a list of elements for each row (R260). -/
theorem writesRows_group (c : Core) (code : Nat) {first count n : Nat} (es : Nat → List Nat) (hd : first + count ≤ 8) (hn : n ≤ 8) :
    WritesRows c ((List.range n).flatMap (fun r => groupRows code first count r (es r)))
      (fun q r => if first ≤ q ∧ q < first + count ∧ r < n
        then rowOf code (((es r).drop ((q - first) * elemCount code)).take (elemCount code)) else c.row q r) := by
  refine ⟨fun w hw => ?_, fun q r _ _ => ?_⟩
  · obtain ⟨r, hr, hw⟩ := List.mem_flatMap.mp hw
    obtain ⟨i, hi, rfl⟩ := List.mem_map.mp hw
    have hr : r < n := List.mem_range.mp hr
    have hi : i < count := List.mem_range.mp hi
    refine ⟨show first + i < 8 by omega, show r < 8 by omega, ?_⟩
    simp [hi, hr]
  · by_cases hit : first ≤ q ∧ q < first + count ∧ r < n
    · have hi : q - first ∈ List.range count := List.mem_range.mpr (by omega)
      refine .inr ⟨_, List.mem_flatMap.mpr ⟨r, List.mem_range.mpr hit.2.2, List.mem_map.mpr ⟨q - first, hi, rfl⟩⟩, ?_, rfl⟩
      exact show first + (q - first) = q by omega
    · exact .inl (if_neg hit).symm

/-! ### Scattered elements (R265) -/

/-- A scatter changes rows of TD and leaves their number. -/
theorem length_scatterRow (code : Nat) (idx src : Row) (td : List Row) : (scatterRow code idx src td).length = td.length := by
  unfold scatterRow
  refine List.foldlRecOn (List.range (elemCount code)) _ (motive := fun (l : List Row) => l.length = td.length) rfl fun (l : List Row) hl j _ => ?_
  dsimp only
  split
  · rw [List.length_set, hl]
  · exact hl

/-- A list of rows written to a tile, from its row 0 on. -/
theorem writesRows_list (c : Core) {d : Nat} (td : List Row) (hd : d < 8) (hl : td.length = 8) :
    WritesRows c (td.zipIdx.map (fun p => (d, p.2, p.1))) (fun q r => if q = d then td.getD r 0 else c.row q r) := by
  refine ⟨fun w hw => ?_, fun q r _ hr => ?_⟩
  · obtain ⟨p, hp, rfl⟩ := List.mem_map.mp hw
    have hget : td[p.2]? = some p.1 := List.mem_zipIdx_iff_getElem?.mp hp
    have hlt : p.2 < td.length := (List.getElem?_eq_some_iff.mp hget).1
    exact ⟨hd, show p.2 < 8 by omega, by simp [hget]⟩
  · by_cases hit : q = d
    · refine .inr ⟨(d, r, td[r]), List.mem_map.mpr ⟨(td[r], r), ?_, rfl⟩, hit.symm, rfl⟩
      exact List.mem_zipIdx_iff_getElem?.mpr (List.getElem?_eq_getElem (by omega))
    · exact .inl (if_neg hit).symm

/-- Settles O29: TCVT fills its group, and TSCAT writes all rows of TD as the scatters of its rows leave them. -/
theorem tileGroups : Obligations.TileGroups := by
  refine ⟨?_, ?_⟩
  · intro d a src rows fmt f64 sat rm s c n sc tc qs qd from_ to_ es hmode _ hd hready hclean
    have hw := writesRows_group c tc (fun r => (es r).map (fun e => e.1)) hd (show n ≤ 8 by omega)
    rw [exec_tcvt, execTcvt, runInstr_congr (bind_ok _ _ _ _ _ (modeOf_ok rm s hmode))]
    refine tileUnit_writes (tb := none) (slot := []) nofun hready ?_ (Prod.ext (List.flatMap_map ..) (List.foldl_map ..)) hw
    intro p hp
    rw [show tbTile none (rows.toNat + 1) = [] from rfl, List.append_nil] at hp
    obtain ⟨i, hi, rfl⟩ := List.mem_map.mp hp
    have ht : a.toNat + i ∈ from_ := List.mem_map.mpr ⟨i, hi, rfl⟩
    exact ⟨List.mem_append_left _ ht, List.all_eq_true.mp hclean _ ht⟩
  · intro d a h b rows fmt s slot c n rowsOut hslot hready ha hd hb
    have hlen : rowsOut.length = 8 := by
      refine List.foldlRecOn (List.range n) _ (motive := fun (l : List Row) => l.length = 8) (by simp) fun (l : List Row) hl r _ => ?_
      rw [length_scatterRow, hl]
    exact tileUnit_writes (slot_some hslot) hready
      (reads_withB (reads := [(a.toNat, n), (d.toNat, 8)]) (ts := [a.toNat, d.toNat]) (by simpa using ⟨ha, hd⟩) hb) rfl
      (writesRows_list c rowsOut d.isLt hlen)

end Sys2Proof.Machine
end

section
/-!
PROOFS. The tile instructions that run in the core's pipeline on elements (R252): TFILL, TEXTR and TINS.
-/

namespace Sys2Proof.Machine

open Sys2Proof.Spec

/-! ### Tiles outside regions (R255, R279) -/

/-- Outside regions a use of tiles leaves no mark (R334). -/
theorem useTiles_noRegion (reads writes : List Nat) (s : State) (h : s.core.region = none) : useTiles reads writes s = .ok ((), s) := by
  rw [useTiles_ok reads writes s (by simp [h]), h]
  rfl

/-- Reading registers leaves a tile free that is free (R279). -/
theorem tilesFree_afterReads {t : Nat} {s : State} (rs : List Nat) (h : (!s.core.tileLocked t && !s.core.tilePending t) = true) :
    tilesFree [t] (s.afterReads rs) = .ok ((), s.afterReads rs) := by
  obtain ⟨q, hq⟩ := s.core.afterReads_queues rs
  refine tilesFree_ok _ _ ?_
  rw [core_afterReads, hq, List.all_cons, List.all_nil, Bool.and_true]
  exact h

/-- Reading registers opens no region. -/
theorem region_afterReads {s : State} (rs : List Nat) (h : s.core.region = none) : (s.afterReads rs).core.region = none := by
  obtain ⟨q, hq⟩ := s.core.afterReads_queues rs
  rw [core_afterReads, hq]
  exact h

/-- Reading registers leaves the tiles. -/
theorem row_afterReads (c : Core) (rs : List Nat) (t r : Nat) : (c.afterReads rs).row t r = c.row t r := by
  obtain ⟨q, hq⟩ := c.afterReads_queues rs
  rw [hq]
  rfl

/-! ### Elements (R252) -/

/-- An instruction whose core c has read registers and replaced rows completes: all but queues, tiles and marks of poison is as before. -/
theorem elements_written {s : State} {c : Core} {row : Nat → Nat → Row}
    (hc : ∃ q ti po, c = { s.core with queues := q, tiles := ti, poison := po }) (hrow : ∀ q r, q < 8 → r < 8 → c.row q r = row q r) :
    let t := s.withCore (c.advance 4)
    Completes s t 4 ∧ othersKept s t ∧ (∀ q r, q < 8 → r < 8 → t.core.row q r = row q r) ∧ t.core.regs = s.core.regs
      ∧ t.core.status = s.core.status := by
  intro t
  have ht : t.core = c.advance 4 := core_withCore _ _
  have hrow' : ∀ q r, q < 8 → r < 8 → t.core.row q r = row q r := by
    rw [ht]
    exact hrow
  obtain ⟨q, ti, po, rfl⟩ := hc
  refine ⟨?_, othersKept_withCore _ _, hrow', ?_, ?_⟩
  · unfold Completes
    rw [ht]
    exact ⟨rfl, rfl, rfl, rfl, rfl, rfl, rfl, rfl, rfl⟩
  · rw [ht]
    rfl
  · rw [ht]
    rfl

/-- One row written over the first n rows of a tile. -/
def Core.fillRows (c : Core) (t n : Nat) (v : Row) : Core := (List.range n).foldl (fun c r => c.setRow t r v) c

theorem fillRows_eq (c : Core) (t n : Nat) (v : Row) : c.fillRows t n v = c.setRows ((List.range n).map (fun r => (t, r, v))) := by
  rw [Core.setRows, List.foldl_map]
  rfl

/-- A tile filled up to row n. -/
theorem row_fillRows (c : Core) {t n : Nat} (v : Row) (ht : t < 8) (hn : n ≤ 8) {q r : Nat} (hq : q < 8) (hr : r < 8) :
    (c.fillRows t n v).row q r = if q = t ∧ r < n then v else c.row q r := by
  rw [fillRows_eq]
  exact row_setRows (writesRows_range c (fun _ => (v, 0)) ht hn) hq hr

/-- TFILL fills the first rows of its tile (R252). -/
theorem exec_tfill_run {g : BitVec 3} {fmt a : BitVec 4} {rows : BitVec 3} {s : State} (hr : s.core.region = none)
    (ha : s.core.readsOk [a.toNat] = true) (hg : (!s.core.tileLocked g.toNat && !s.core.tilePending g.toNat) = true) :
    exec (.tfill g fmt a rows) s = .next (s.withCore (((s.core.afterReads [a.toNat]).fillRows g.toNat (rows.toNat + 1)
      (rowOf fmt.toNat (List.replicate (elemCount fmt.toNat) (scalarElem fmt.toNat (s.core.valueOf a.toNat))))).advance 4)) := by
  have hread : readReg a.toNat s = .ok (s.core.valueOf a.toNat, s.afterReads [a.toNat]) := readReg_ok _ _ (by simpa [Core.readsOk] using ha)
  rw [exec_tfill, execTfill]
  refine runInstr_ok _ _ _ ((bind_ok _ _ _ _ _ hread).trans ?_)
  refine (bind_ok _ _ _ _ _ (tilesFree_afterReads _ hg)).trans ?_
  refine (bind_ok _ _ _ _ _ (useTiles_noRegion _ _ _ (region_afterReads _ hr))).trans ?_
  refine (bind_ok _ _ _ _ _ (modC_run _ _)).trans ?_
  rw [retire_run, core_withCore, withCore_withCore, withCore_afterReads, core_afterReads]
  rfl

/-- TEXTR writes an element of a clean tile to sD, and 0 beyond the tile (R252). -/
theorem exec_textr_run {d fmt idx : BitVec 4} {t : BitVec 3} {s : State} (hr : s.core.region = none) (hi : s.core.readsOk [idx.toNat] = true)
    (ht : (!s.core.tileLocked t.toNat && !s.core.tilePending t.toNat) = true)
    (hw : (s.core.afterReads [idx.toNat]).writable d.toNat = true) (hclean : rowsClean s.core t.toNat 8 = true) :
    let e := elemCount fmt.toNat
    let m := (s.core.valueOf idx.toNat).toNat
    exec (.textr d fmt idx t) s = .next (s.withCore (((s.core.afterReads [idx.toNat]).put d.toNat
      (if m < 8 * e then extractWord fmt.toNat (rowElem fmt.toNat (s.core.row t.toNat (m / e)) (m % e)) else 0)).advance 4)) := by
  dsimp only
  have hread : readReg idx.toNat s = .ok (s.core.valueOf idx.toNat, s.afterReads [idx.toNat]) := readReg_ok _ _ (by simpa [Core.readsOk] using hi)
  have hdone : ∀ v, (do writeReg d.toNat v; retire 4 : Act Unit) (s.afterReads [idx.toNat])
      = .ok ((), s.withCore (((s.core.afterReads [idx.toNat]).put d.toNat v).advance 4)) := by
    intro v
    rw [writeReg_bind _ _ _ _ (by rwa [core_afterReads]), retire_run, core_withCore, withCore_withCore, withCore_afterReads, core_afterReads]
  rw [exec_textr, execTextr]
  refine runInstr_ok _ _ _ ((bind_ok _ _ _ _ _ hread).trans ?_)
  refine (bind_ok _ _ _ _ _ (tilesFree_afterReads _ ht)).trans ?_
  refine (bind_ok _ _ _ _ _ (useTiles_noRegion _ _ _ (region_afterReads _ hr))).trans ?_
  by_cases hm : (s.core.valueOf idx.toNat).toNat < 8 * elemCount fmt.toNat
  · have hrow := Nat.div_lt_of_lt_mul (hm.trans_eq (Nat.mul_comm ..))
    have hpois : noPoison 0 (64 + 8 * t.toNat + (s.core.valueOf idx.toNat).toNat / elemCount fmt.toNat) (s.afterReads [idx.toNat])
        = .ok ((), s.afterReads [idx.toNat]) := by
      obtain ⟨q, hq⟩ := s.core.afterReads_queues [idx.toNat]
      refine noPoison_ok _ _ _ ?_
      rw [core_afterReads, hq]
      exact rowsClean_iff.mp hclean _ hrow
    simp only [hm, if_true]
    refine (bind_ok _ _ _ _ _ hpois).trans ((bind_ok _ _ _ _ _ (getC_run _)).trans ?_)
    rw [core_afterReads, row_afterReads]
    exact hdone _
  · simp only [hm, if_false]
    exact hdone _

/-- TINS replaces an element of its tile; beyond the tile it only completes (R252). -/
theorem exec_tins_run {g : BitVec 3} {fmt idx a : BitVec 4} {s : State} (hr : s.core.region = none)
    (hreads : s.core.readsOk [a.toNat, idx.toNat] = true) (hg : (!s.core.tileLocked g.toNat && !s.core.tilePending g.toNat) = true) :
    let c := s.core.afterReads [a.toNat, idx.toNat]
    let e := elemCount fmt.toNat
    let n := ((s.core.popped a.toNat).valueOf idx.toNat).toNat
    exec (.tins g fmt idx a) s = .next (s.withCore ((if n < 8 * e
      then c.patchRow g.toNat (n / e) (setElem fmt.toNat (c.row g.toNat (n / e)) (n % e) (scalarElem fmt.toNat (s.core.valueOf a.toNat)))
      else c).advance 4)) := by
  dsimp only
  rw [exec_tins, execTins]
  refine runInstr_ok _ _ _ ((readTwo_bind _ _ _ _ hreads).trans ?_)
  refine (bind_ok _ _ _ _ _ (tilesFree_afterReads _ hg)).trans ?_
  refine (bind_ok _ _ _ _ _ (useTiles_noRegion _ _ _ (region_afterReads _ hr))).trans ?_
  by_cases hn : ((s.core.popped a.toNat).valueOf idx.toNat).toNat < 8 * elemCount fmt.toNat
  · simp only [hn, if_true]
    refine (bind_ok _ _ _ _ _ (modC_run _ _)).trans ?_
    rw [retire_run, core_withCore, withCore_withCore, withCore_afterReads, core_afterReads]
  · simp only [hn, if_false]
    rw [retire_run, withCore_afterReads, core_afterReads]

/-- Settles O30: TFILL and TINS replace rows of the core, and TEXTR writes its register. -/
theorem tileElements : Obligations.TileElements := by
  intro g d fmt a idx t' rows s c code e x n m open_ hr
  refine ⟨fun ha hg => ?_, fun hi ht hw hclean => ?_, fun hreads hg => ?_⟩
  · refine ⟨_, exec_tfill_run hr (by simpa [Core.readsOk] using ha) (by simpa [open_] using hg), elements_written ?_ fun q r hq hr => ?_⟩
    · obtain ⟨q, hq⟩ := c.afterReads_queues [a.toNat]
      obtain ⟨ti, po, hf⟩ := setRows_fields (c.afterReads [a.toNat]) _
      exact ⟨q, ti, po, by rw [fillRows_eq, hf, hq]⟩
    · rw [row_fillRows _ _ g.isLt (by omega) hq hr, row_afterReads]
  · exact exec_textr_run hr (by simpa [Core.readsOk] using hi) (by simpa [open_] using ht) hw hclean
  · refine ⟨_, exec_tins_run hr hreads (by simpa [open_] using hg), elements_written ?_ fun q r hq hr => ?_⟩
    · obtain ⟨q, hq⟩ := c.afterReads_queues [a.toNat, idx.toNat]
      split
      · exact ⟨q, _, c.poison, by rw [hq]; rfl⟩
      · exact ⟨q, c.tiles, c.poison, hq⟩
    · split
      next hn =>
        have hrow : n / e < 8 := Nat.div_lt_of_lt_mul (by rwa [Nat.mul_comm])
        refine (row_putTile _ _ _ g.isLt hrow q r).trans ?_
        rw [row_afterReads, row_afterReads]
        by_cases hit : q = g.toNat ∧ r = n / e
        · rw [if_pos hit, if_pos ⟨hit.1, hit.2, hn⟩, hit.1, hit.2]
        · rw [if_neg hit, if_neg fun h => hit ⟨h.1, h.2.1⟩]
      next hn => rw [row_afterReads, if_neg fun h => hn h.2.2]

end Sys2Proof.Machine
end

section
/-!
PROOFS. The checks of accesses (R220) and the cores: a translation combines lines and fills the translation caches (R127, R352), and changes no
core.
-/

namespace Sys2Proof.Machine

/-- Between s and t no core has changed, nor which one runs. -/
def KeepsCores (s t : State) : Prop := t.cores = s.cores ∧ t.cur = s.cur

theorem KeepsCores.refl (s : State) : KeepsCores s s := ⟨rfl, rfl⟩

theorem KeepsCores.trans {s t u : State} (h : KeepsCores s t) (h' : KeepsCores t u) : KeepsCores s u :=
  ⟨h'.1.trans h.1, h'.2.trans h.2⟩

theorem KeepsCores.core {s t : State} (h : KeepsCores s t) : t.core = s.core := by
  unfold State.core coreAt
  rw [h.1, h.2]

theorem keepsCores_foldl {α : Type} (l : List α) {f : State → α → State} (s : State) (hf : ∀ z x, KeepsCores z (f z x)) :
    KeepsCores s (l.foldl f s) := by
  induction l generalizing s with
  | nil => exact .refl s
  | cons x l ih => exact (hf s x).trans (ih (f s x))

theorem KeepsCores.modHomeAt {s t : State} (h : KeepsCores s t) (line : Nat) (f : Home → Home) : KeepsCores s (modHomeAt t line f) := h

theorem KeepsCores.poisonLine {s t : State} (h : KeepsCores s t) (a n unit : Nat) :
    KeepsCores s (poisonPlace t { space := .mem, key := 0, addr := a } n unit) := h

/-! ### The combination of lines at their homes (R127) -/

theorem crcOver_keepsCores (s : State) (line : Nat) : KeepsCores s (crcOver s line) := by
  unfold crcOver
  split <;> exact .refl s

theorem arriveHome_keepsCores (s : State) (line : Nat) {effect : State → State} (he : ∀ z, KeepsCores z (effect z)) :
    KeepsCores s (arriveHome s line effect) := by
  unfold arriveHome
  split
  · exact ((KeepsCores.refl s).poisonLine _ _ _).trans (crcOver_keepsCores _ line)
  · exact (crcOver_keepsCores s line).trans (he _)

theorem recallHerd_keepsCores (s : State) (h line : Nat) : KeepsCores s (recallHerd s h line) := by
  unfold recallHerd
  dsimp only
  split
  · exact ⟨rfl, rfl⟩
  · exact .trans ⟨rfl, rfl⟩ (arriveHome_keepsCores _ line fun z => ⟨rfl, rfl⟩)

theorem setMemNat_keepsCores (s : State) (a n v : Nat) : KeepsCores s (setMemNat s a n v) :=
  keepsCores_foldl _ s fun _ _ => ⟨rfl, rfl⟩

theorem combineLine_keepsCores (s : State) (line : Nat) : KeepsCores s (combineLine s line) := by
  unfold combineLine
  split
  · exact .refl s
  · have hrecall := keepsCores_foldl (homeAt s line).holders s fun z h => recallHerd_keepsCores z h line
    dsimp only
    split
    · exact hrecall
    · refine KeepsCores.modHomeAt ?_ _ _
      split
      · exact (hrecall.trans (keepsCores_foldl _ _ fun z i => setMemNat_keepsCores z _ _ _)).poisonLine _ _ _
      · exact hrecall.trans (keepsCores_foldl _ _ fun z i => setMemNat_keepsCores z _ _ _)

theorem combineBytes_keepsCores (s : State) (a n : Nat) : KeepsCores s (combineBytes s a n) := by
  unfold combineBytes
  split
  · exact .refl s
  · exact keepsCores_foldl _ s fun z i => combineLine_keepsCores z _

/-! ### Translation (R350 to R352) -/

theorem combineWalk_keepsCores (s : State) (va level table : Nat) : KeepsCores s (combineWalk s va level table) := by
  fun_induction combineWalk s va level table
  · exact .refl _
  · exact .refl _
  · exact combineBytes_keepsCores _ _ _
  · exact combineBytes_keepsCores _ _ _
  next ih => exact (combineBytes_keepsCores _ _ _).trans ih

theorem xlateIn_keepsCores (s : State) (herd asid root va : Nat) : KeepsCores s (xlateIn s herd asid root va).2 := by
  unfold xlateIn
  dsimp only
  split
  · exact .refl s
  split
  · exact ⟨rfl, rfl⟩
  split
  · exact .trans (combineWalk_keepsCores s va 3 root) ⟨rfl, rfl⟩
  · exact combineWalk_keepsCores s va 3 root

theorem xlate_keepsCores (s : State) (k va : Nat) (a : XAcc) (user : Bool) : KeepsCores s (xlate s k va a user).2 := by
  unfold xlate
  split
  · exact .refl s
  next t _ =>
    have h := xlateIn_keepsCores s (herdOf k) t.asid t.root va
    split
    next pa l s' hx =>
      rw [hx] at h
      split <;> exact h
    next => exact h

/-! ### Checks (R220) -/

/-- Steps that succeed one after the other. -/
theorem bind_inv {α β : Type} {x : Act α} {f : α → Act β} {s t : State} {b : β} (h : (x >>= f) s = .ok (b, t)) :
    ∃ a u, x s = .ok (a, u) ∧ f a u = .ok (b, t) := by
  cases hx : x s with
  | error e => rw [bind_error x f s e hx] at h; cases h
  | ok r => exact ⟨r.1, r.2, rfl, (bind_ok x f s r.2 r.1 hx).symm.trans h⟩

/-- Where steps that begin in z succeed, the cores are those of s. -/
def EndsWithCores {α : Type} (s : State) (x : Act α) (z : State) : Prop := ∀ a t, x z = .ok (a, t) → KeepsCores s t

section

variable {α β : Type} {s z : State}

theorem endsWithCores_pure (a : α) (h : KeepsCores s z) : EndsWithCores s (pure a) z := by
  rintro _ _ ⟨⟩
  exact h

theorem endsWithCores_trap (c : Nat) (v : Word) : EndsWithCores s (trap c v : Act α) z := by
  rintro _ _ ⟨⟩

theorem endsWithCores_trap_bind (c : Nat) (v : Word) (f : β → Act α) : EndsWithCores s (trap c v >>= f) z := by
  rintro _ _ ⟨⟩

theorem endsWithCores_get (f : State → Act α) (h : EndsWithCores s (f z) z) : EndsWithCores s (get >>= f) z := h

theorem endsWithCores_set_trap (u : State) (c : Nat) (v : Word) : EndsWithCores s (do set u; trap c v : Act α) z := by
  rintro _ _ ⟨⟩

theorem endsWithCores_set (u : State) (a : α) (h : KeepsCores s u) : EndsWithCores s (do set u; return a) z := by
  rintro _ _ ⟨⟩
  exact h

theorem endsWithCores_ite (c : Prop) [Decidable c] {x y : Act α} (hx : EndsWithCores s x z) (hy : EndsWithCores s y z) :
    EndsWithCores s (if c then x else y) z := by
  split
  · exact hx
  · exact hy

end

/-- The steps of the check from the decoding of the pointer on change no core (R220). -/
theorem checkPlace_endsWithCores (k : Kind) (ea : Word) (size pol : Nat) (s : State) : EndsWithCores s (checkPlace k ea size pol) s := by
  have here : ∀ x : Place × Policy, EndsWithCores s (pure x) s := fun x => endsWithCores_pure x (.refl s)
  unfold checkPlace
  refine endsWithCores_get _ ?_
  dsimp only
  rcases decodePtr s s.cur ea with _ | ⟨pol', va⟩ | ⟨c, b, off⟩ | ⟨n, a⟩ | a <;> dsimp only
  · exact endsWithCores_trap _ _
  · refine endsWithCores_ite _ (endsWithCores_trap _ _) ?_
    have hx := xlate_keepsCores s s.cur va k.acc (!(coreAt s s.cur).supervisor)
    rcases hs : xlate s s.cur va k.acc (!(coreAt s s.cur).supervisor) with ⟨_ | _ | _, s'⟩ <;> dsimp only
    next pa leaf =>
      rw [hs] at hx
      have last : ∀ x : Place × Policy, EndsWithCores s (if (bits leaf 7 7 == 1 && k != .load && !arenaStore s s.cur va size) = true
          then do trap 27 ea; set s'; return x else do set s'; return x) s :=
        fun x => endsWithCores_ite _ (endsWithCores_trap_bind _ _ _) (endsWithCores_set s' x hx)
      refine endsWithCores_ite _ ?_ (last _)
      rcases arenaLoad s s.cur va size with _ | _ | _ <;> dsimp only
      · exact endsWithCores_trap_bind _ _ _
      · exact last _
      · exact endsWithCores_trap_bind _ _ _
    next => exact endsWithCores_set_trap _ _ _
    next => exact endsWithCores_trap _ _
  · exact endsWithCores_ite _ (endsWithCores_trap _ _) (endsWithCores_ite _ (endsWithCores_ite _ (endsWithCores_trap _ _) (here _))
      (endsWithCores_ite _ (endsWithCores_trap _ _) (endsWithCores_ite _ (endsWithCores_trap _ _) (here _))))
  · exact endsWithCores_ite _ (here _) (endsWithCores_trap _ _)
  · exact endsWithCores_ite _ (here _) (endsWithCores_trap _ _)

/-- The check of an access changes no core (R220). -/
theorem checkAccess_keepsCores {k : Kind} {ea : Word} {size pol : Nat} {s t : State} {pl : Place × Policy}
    (h : checkAccess k ea size pol s = .ok (pl, t)) : KeepsCores s t := by
  unfold checkAccess at h
  obtain ⟨_, _, halign, h1⟩ := bind_inv h
  obtain ⟨r, s2, hplace, h2⟩ := bind_inv h1
  rw [trapIf_run] at halign
  split at halign
  · cases halign
  cases halign
  rw [bind_ok _ _ _ _ _ (get_run s2)] at h2
  split at h2
  · cases h2
  · cases h2
    exact checkPlace_endsWithCores k ea size pol _ _ _ hplace

/-- The checks of the containers of rows change no core (R250). -/
theorem checkPieces_keepsCores {k : Kind} {xs : List (Nat × Piece)} {s t : State} {ps : List ((Nat × Piece) × (Place × Policy))}
    (h : checkPieces k xs s = .ok (ps, t)) : KeepsCores s t := by
  induction xs generalizing s ps with
  | nil => cases h; exact .refl _
  | cons x xs ih =>
    unfold checkPieces at h
    obtain ⟨pl, s1, haccess, h1⟩ := bind_inv h
    obtain ⟨more, s2, hrest, h2⟩ := bind_inv h1
    cases h2
    exact (checkAccess_keepsCores haccess).trans (ih hrest)

end Sys2Proof.Machine
end

section
/-!
PROOFS. The loads and stores of tile rows and of descriptors (R246, R249 to R251, R339).
-/

namespace Sys2Proof.Machine

open Sys2Proof.Spec

/-! ### Tiles that an access may use (R249 to R251) -/

/-- A core in no region and in no wait, whose pointer can be read and whose tile no job and no load holds. -/
structure TileReady (c : Core) (a t : Nat) : Prop where
  readable : c.readable a = true
  free : (!c.tileLocked t && !c.tilePending t) = true
  region : c.region = none
  wait : c.wait = none

variable {s s1 s2 : State} {g rows : BitVec 3} {desc : BitVec 8} {a : BitVec 4}

theorem readReg_popped (h : TileReady s.core a.toNat g.toNat) : readReg a.toNat s = .ok (s.core.valueOf a.toNat, s.popped a.toNat) :=
  readReg_ok _ _ h.readable

theorem tilesFree_popped (h : TileReady s.core a.toNat g.toNat) : tilesFree [g.toNat] (s.popped a.toNat) = .ok ((), s.popped a.toNat) :=
  tilesFree_afterReads [a.toNat] h.free

theorem region_popped (h : TileReady s.core a.toNat g.toNat) : (s.popped a.toNat).core.region = none :=
  region_afterReads [a.toNat] h.region

/-- An instruction that makes several stores begins where its core is in no wait. -/
theorem runInstr_withStores (act : Act Unit) (h : s.core.wait = none) : runInstr (withStores act) s = runInstr act s :=
  runInstr_congr (withStores_first act s (by rw [h]; nofun))

/-! ### TLD and TST (R249, R250) -/

/-- TLD whose containers stay on its core clears its rows and loads them (R249). -/
theorem exec_tld_run (h : TileReady s.core a.toNat g.toNat) {ps : List ((Nat × Piece) × (Place × Policy))}
    (hc : checkPieces .load (tilePieces (teamTd s s.cur desc.toNat) (s.core.valueOf a.toNat).toNat (rows.toNat + 1)) (s.popped a.toNat)
      = .ok (ps, s1)) (hhere : ps.all (fun q => !q.2.1.away s.cur) = true)
    (hl : loadPieces s g.toNat ps [] (s1.withCore ((List.range (rows.toNat + 1)).foldl (fun c r => c.setRow g.toNat r 0) s1.core)) = .ok ((), s2)) :
    exec (.tld g desc a rows) s = .next (s2.withCore (s2.core.advance 4)) := by
  have hregion : s1.core.region = none := by
    rw [(checkPieces_keepsCores hc).core]
    exact region_popped h
  have hnone : ps.filter (fun p => p.2.1.away s.cur) = [] := by simpa using hhere
  have haway : awayValues s ((ps.filter (fun p => p.2.1.away s.cur)).map (fun p => (word p.1.2.addr, p.1.2.size, p.2))) 0 s1 = .ok ([], s1) := by
    rw [hnone]
    rfl
  rw [exec_tld, execTld]
  refine runInstr_ok _ _ _ ((bind_ok _ _ _ _ _ (get_run s)).trans ((bind_ok _ _ _ _ _ (readReg_popped h)).trans ?_))
  refine (bind_ok _ _ _ _ _ (tilesFree_popped h)).trans ((bind_ok _ _ _ _ _ hc).trans ?_)
  refine (bind_ok _ _ _ _ _ (useTiles_noRegion _ _ _ hregion)).trans ((bind_ok _ _ _ _ _ haway).trans ?_)
  exact (bind_ok _ _ _ _ _ (modC_run _ _)).trans ((bind_ok _ _ _ _ _ hl).trans (retire_run _ _))

/-- TST of clean rows, through an entry that is not RDONLY, stores their containers (R249, R250). -/
theorem exec_tst_run (h : TileReady s.core a.toNat g.toNat) (hw : (teamTd s s.cur desc.toNat).rdonly = false)
    (hclean : rowsClean s.core g.toNat (rows.toNat + 1) = true) {ps : List ((Nat × Piece) × (Place × Policy))}
    (hc : checkPieces .store (tilePieces (teamTd s s.cur desc.toNat) (s.core.valueOf a.toNat).toNat (rows.toNat + 1)) (s.popped a.toNat)
      = .ok (ps, s1)) (htiles : s1.core.tiles = s.core.tiles) (hpois : s1.core.poison = s.core.poison) (hregion : s1.core.region = none)
    (hst : storeMany (blocksOf (ps.map (fun q =>
      { row := q.1.1, addr := q.1.2.addr, size := q.1.2.size, pl := q.2
        value := rowGet (s.core.row g.toNat q.1.1) q.1.2.off q.1.2.size % 2 ^ q.1.2.keep }))) s1 = .ok ((), s2)) :
    exec (.tst g desc a rows) s = .next (s2.withCore (s2.core.advance 4)) := by
  have hrows : cleanRows g.toNat (rows.toNat + 1) s1 = .ok ((), s1) :=
    cleanRows_ok _ _ _ fun r hr => by rw [hpois]; exact rowsClean_iff.mp hclean r hr
  have hrow : ∀ t r, s1.core.row t r = s.core.row t r := fun t r => by rw [Core.row, htiles, Core.row]
  rw [exec_tst, execTst, runInstr_withStores _ h.wait]
  refine runInstr_ok _ _ _ ((bind_ok _ _ _ _ _ (get_run s)).trans ((bind_ok _ _ _ _ _ (readReg_popped h)).trans ?_))
  refine (bind_ok _ _ _ _ _ (tilesFree_popped h)).trans ?_
  simp only [hw, Bool.false_eq_true, if_false]
  refine (bind_ok _ _ _ _ _ hc).trans ((bind_ok _ _ _ _ _ (useTiles_noRegion _ _ _ hregion)).trans ?_)
  refine (bind_ok _ _ _ _ _ hrows).trans ((bind_ok _ _ _ _ _ (getC_run _)).trans ?_)
  simp only [hrow]
  exact (bind_ok _ _ _ _ _ hst).trans (retire_run _ _)

/-! ### TLDS and TSTS (R251) -/

/-- Steps for each of a list that each succeed where they begin and give what P says. -/
theorem mapM_stays {α β : Type} {f : α → Act β} {P : β → Prop} {z t : State}
    (hf : ∀ x y u, f x z = .ok (y, u) → u = z ∧ P y) (l : List α) {ys : List β} (h : l.mapM f z = .ok (ys, t)) :
    t = z ∧ ∀ y ∈ ys, P y := by
  induction l generalizing ys t with
  | nil =>
    cases h
    exact ⟨rfl, by simp⟩
  | cons x l ih =>
    rw [List.mapM_cons] at h
    obtain ⟨y, u, hx, h1⟩ := bind_inv h
    obtain ⟨rest, v, hl, h2⟩ := bind_inv h1
    obtain ⟨rfl, hy⟩ := hf x y u hx
    obtain ⟨rfl, hrest⟩ := ih hl
    cases h2
    exact ⟨rfl, List.forall_mem_cons.mpr ⟨hy, hrest⟩⟩

/-- The rows of TLDS and TSTS lie in the core's own A or C buffer (R251). -/
theorem localRows_own {st : Bool} {x : Word} {n : Nat} {z t : State} {rs : List (Word × Place)} (h : localRows st x n z = .ok (rs, t)) :
    ∀ r ∈ rs, r.2.space.isBank ∧ r.2.key = z.cur := by
  unfold localRows at h
  obtain ⟨_, u, htrap, h1⟩ := bind_inv h
  rw [trapIf_run] at htrap
  split at htrap
  · cases htrap
  cases htrap
  refine (mapM_stays (P := fun r => r.2.space.isBank ∧ r.2.key = z.cur) ?_ _ h1).2
  intro i y u hi
  rw [bind_ok _ _ _ _ _ (get_run z)] at hi
  rcases hptr : decodePtr z z.cur (x + word (128 * i)) with _ | ⟨pol, va⟩ | ⟨k, b, off⟩ | ⟨n, m⟩ | m <;> simp only [hptr] at hi
  case some.buf =>
    split at hi
    next hb =>
      cases hi
      exact ⟨rfl, hb.2.1.imp_right And.left, hb.1⟩
    next => cases hi
  all_goals cases hi

/-- A core that reads a buffer of its own at once: in no region, with no load or acquire before it, and without poison. -/
structure ReadsOwn (z : State) : Prop where
  region : z.core.region = none
  loads : z.core.loads = []
  acquire : z.core.acquirePending = false
  poison : z.core.poison = []

/-- A read of the core's own A or C buffer takes the forwarded bytes before those of the buffer (R109, R112). -/
theorem readPlain_own (s0 : State) {z : State} (hz : ReadsOwn z) {pl : Place × Policy} (ea : Word) (n : Nat) (hb : pl.1.space.isBank)
    (hk : pl.1.key = z.cur) :
    readPlain s0 pl ea n z = .ok (fwdNat z pl.1 (forwarded z.core pl.1 n) n, z) := by
  have hwin : windowRead pl.1 n ea z = .ok ((), z) := by
    unfold windowRead
    rw [bind_ok _ _ _ _ _ (get_run z)]
    simp only [hz.region]
    rfl
  have hpois : poisonAt z pl.1 n = none := by
    have hp : (coreAt z pl.1.key).poison = [] := by
      rw [hk]
      exact hz.poison
    unfold poisonAt
    rcases hb with hb | hb <;> simp [hb, hp]
  have hcons : consumes z pl.1 n (forwarded z.core pl.1 n) z = .ok ((), z) := by
    unfold consumes
    rw [hpois]
    split <;> rfl
  unfold readPlain
  refine (bind_ok _ _ _ _ _ (afterAcquire_ok z hz.acquire)).trans ((bind_ok _ _ _ _ _ hwin).trans ((bind_ok _ _ _ _ _ (get_run z)).trans ?_))
  refine (bind_ok _ _ z z () (by rw [hz.loads]; rfl)).trans ?_
  rcases hb with hb | hb
  · simp only [hb]
    exact bind_ok _ _ _ _ _ hcons
  · simp only [hb]
    exact bind_ok _ _ _ _ _ hcons

/-- A place of the core's own A or C buffer is on the core (R112). -/
theorem away_own {p : Place} {k : Nat} (hb : p.space.isBank) (hk : p.key = k) : p.away k = false := by
  rcases hb with hb | hb <;> simp [Place.away, Place.extern, hb, hk]

/-- The values of reads of the core's own A and C buffers, in order. -/
theorem readEach_own (s0 : State) {z : State} (hz : ReadsOwn z) (hcur : s0.cur = z.cur) (l : List (Word × Nat × (Place × Policy)))
    (hl : ∀ x ∈ l, x.2.2.1.space.isBank ∧ x.2.2.1.key = z.cur) :
    readEach s0 l [] z = .ok (l.map (fun x => fwdNat z x.2.2.1 (forwarded z.core x.2.2.1 x.2.1) x.2.1), z) := by
  induction l with
  | nil => rfl
  | cons x l ih =>
    obtain ⟨⟨hb, hk⟩, hrest⟩ := List.forall_mem_cons.mp hl
    rw [readEach, if_neg (by simp [away_own hb (hk.trans hcur.symm)])]
    exact (bind_ok _ _ _ _ _ (readPlain_own s0 hz x.1 x.2.1 hb hk)).trans (bind_ok _ _ _ _ _ (ih hrest))

/-- Reads of the core's own A and C buffers wait for nothing (R112). -/
theorem gather_own (s0 : State) {z : State} (hz : ReadsOwn z) (hcur : s0.cur = z.cur) (l : List (Word × Nat × (Place × Policy)))
    (hl : ∀ x ∈ l, x.2.2.1.space.isBank ∧ x.2.2.1.key = z.cur) :
    gather s0 l z = .ok (l.map (fun x => fwdNat z x.2.2.1 (forwarded z.core x.2.2.1 x.2.1) x.2.1), z) := by
  have hnone : l.filter (fun x => x.2.2.1.away s0.cur) = [] := by
    rw [List.filter_eq_nil_iff]
    intro x hx
    simp [away_own (hl x hx).1 ((hl x hx).2.trans hcur.symm)]
  unfold gather
  rw [hnone]
  exact readEach_own s0 hz hcur l hl

/-- TLDS gives the rows of its tile what the buffer and the core's own stores to it hold (R251). -/
theorem exec_tlds_run (h : TileReady s.core a.toNat g.toNat) (hloads : s.core.loads = []) (hacq : s.core.acquirePending = false)
    (hpois : s.core.poison = []) {rs : List (Word × Place)}
    (hrs : localRows false (s.core.valueOf a.toNat) (rows.toNat + 1) (s.popped a.toNat) = .ok (rs, s.popped a.toNat)) :
    let p := s.popped a.toNat
    exec (.tlds g a rows) s = .next (s.withCore
      (((rs.zipIdx).foldl (fun c' v => c'.setRow g.toNat v.2
        (BitVec.ofNat 1024 (fwdNat p v.1.2 (forwarded p.core v.1.2 128) 128))) p.core).advance 4)) := by
  intro p
  have hp : ReadsOwn p := by
    obtain ⟨q, hq⟩ := s.core.popped_queues a.toNat
    constructor <;> rw [core_popped, hq]
    exacts [h.region, hloads, hacq, hpois]
  have hgather := gather_own s hp (cur_popped s a.toNat).symm (rs.map (fun r => (r.1, 128, (r.2, .direct)))) fun x hx => by
    obtain ⟨r, hr, rfl⟩ := List.mem_map.mp hx
    exact localRows_own hrs r hr
  rw [List.map_map] at hgather
  rw [exec_tlds, execTlds]
  refine runInstr_ok _ _ _ ((bind_ok _ _ _ _ _ (get_run s)).trans ((bind_ok _ _ _ _ _ (readReg_popped h)).trans ?_))
  refine (bind_ok _ _ _ _ _ (tilesFree_popped h)).trans ((bind_ok _ _ _ _ _ hrs).trans ?_)
  refine (bind_ok _ _ _ _ _ (useTiles_noRegion _ _ _ (region_popped h))).trans ((bind_ok _ _ _ _ _ hgather).trans ?_)
  refine (bind_ok _ _ _ _ _ (modC_run _ _)).trans ?_
  rw [retire_run, core_withCore, withCore_withCore, withCore_popped, List.zipIdx_map, List.foldl_map]
  rfl

/-- TSTS of clean rows stores each as two halves, where no word of any is sync-tagged (R251). -/
theorem exec_tsts_run (h : TileReady s.core a.toNat g.toNat) (hclean : rowsClean s.core g.toNat (rows.toNat + 1) = true)
    {rs : List (Word × Place)}
    (hrs : localRows true (s.core.valueOf a.toNat) (rows.toNat + 1) (s.popped a.toNat) = .ok (rs, s.popped a.toNat))
    (htags : rs.all (fun r => !tagged (s.popped a.toNat) r.2 128) = true)
    (hst : storeMany (rs.zipIdx.flatMap (fun r => rowHalves r.1.2 r.1.1 (s.core.row g.toNat r.2))) (s.popped a.toNat) = .ok ((), s2)) :
    exec (.tsts g a rows) s = .next (s2.withCore (s2.core.advance 4)) := by
  obtain ⟨q, hq⟩ := s.core.popped_queues a.toNat
  have hrows : cleanRows g.toNat (rows.toNat + 1) (s.popped a.toNat) = .ok ((), s.popped a.toNat) :=
    cleanRows_ok _ _ _ fun r hr => by rw [core_popped, hq]; exact rowsClean_iff.mp hclean r hr
  have hrow : ∀ r, (s.popped a.toNat).core.row g.toNat r = s.core.row g.toNat r := fun r => by rw [core_popped, hq]; rfl
  have hnone : rs.find? (fun r => tagged (s.popped a.toNat) r.2 128) = none := by
    rw [List.find?_eq_none]
    intro r hr
    simpa using List.all_eq_true.mp htags r hr
  rw [exec_tsts, execTsts, runInstr_withStores _ h.wait]
  refine runInstr_ok _ _ _ ((bind_ok _ _ _ _ _ (readReg_popped h)).trans ?_)
  refine (bind_ok _ _ _ _ _ (tilesFree_popped h)).trans ((bind_ok _ _ _ _ _ hrs).trans ((bind_ok _ _ _ _ _ (get_run _)).trans ?_))
  simp only [hnone]
  refine (bind_ok _ _ _ _ _ (pure_run _ _)).trans ((bind_ok _ _ _ _ _ (useTiles_noRegion _ _ _ (region_popped h))).trans ?_)
  refine (bind_ok _ _ _ _ _ hrows).trans ((bind_ok _ _ _ _ _ (getC_run _)).trans ?_)
  simp only [hrow]
  exact (bind_ok _ _ _ _ _ hst).trans (retire_run _ _)

/-- Settles O31: each access runs from its checks, and one whose stores have entered the queue completes. -/
theorem tileMemory : Obligations.TileMemory := by
  intro g desc a rows s s1 s2 c n x p d ready blank
  have facts : ready = true → TileReady c a.toNat g.toNat := by
    intro h
    simp only [ready, Bool.and_eq_true, Option.isNone_iff_eq_none] at h
    obtain ⟨⟨⟨⟨ha, hl⟩, hp⟩, hr⟩, hw⟩ := h
    exact ⟨ha, by rw [hl, hp]; rfl, hr, hw⟩
  refine ⟨fun h ps hc hhere hl => ?_, fun h hw hclean ps hc ht hp hst hr => ?_, fun h hloads hacq hpois rs hrs => ?_,
    fun h hclean rs hrs htags hst => ?_, fun hw hi => ⟨?_, ?_⟩⟩
  · exact exec_tld_run (facts h) hc hhere hl
  · exact exec_tst_run (facts h) hw hclean hc ht hp hr hst
  · exact exec_tlds_run (facts h) hloads hacq hpois hrs
  · exact exec_tsts_run (facts h) hclean hrs htags hst
  · exact runInstr_ok _ _ _ ((withStores_done _ _ hw hi).trans (retire_run _ _))
  · exact runInstr_ok _ _ _ ((withStores_done _ _ hw hi).trans (retire_run _ _))

/-! ### TDLD and TDST (R246, R339) -/

/-- An entry written to the table of a team leaves the cores. -/
theorem core_setTd (s : State) (n : Nat) (d : Desc) : (setTd s n d).core = s.core := by
  unfold setTd
  split
  · simp [State.core]
  · rfl

theorem trapIf_ok {b : Bool} (c : Nat) (v : Word) (h : b = false) : trapIf b c v s = .ok ((), s) := by
  rw [trapIf_run, h]
  rfl

/-- An entry of a core that works for no cell is not the sheet engine's (R323). -/
theorem ownedEntry_ok (l : List Nat) (h : s.core.shcell.getLsbD 63 = false) : ownedEntry l s = .ok ((), s) := by
  unfold ownedEntry
  rw [bind_ok _ _ _ _ _ (getC_run _), if_neg (by rw [h]; nofun)]
  rfl

/-- TDLD of a valid descriptor writes it, with its RO fields 0, to the table of the core's team (R246, R339). -/
theorem exec_tdld_run {t : State} {x : Word} {d : Desc} {pl : Place × Policy} {v : Nat} (htwin : s.core.twin = none) (ht : s.terminated = t)
    (hx : t.core.valueOf a.toNat = x) (hd : Desc.clearRo (BitVec.ofNat 512 v) = d) (ha : t.core.readable a.toNat = true)
    (halign : x.toNat % 64 = 0) (hcell : t.core.shcell.getLsbD 63 = false) (hc : checkAccess .load x 64 0 (t.popped a.toNat) = .ok (pl, s1))
    (hg : gather t [(x, 64, pl)] s1 = .ok ([v], s2)) (hv : d.valid = true) :
    exec (.tdld desc a) s = .next ((setTd s2 desc.toNat d).withCore (s2.core.advance 4)) := by
  have hcell' : (t.popped a.toNat).core.shcell.getLsbD 63 = false := by
    obtain ⟨q, hq⟩ := t.core.popped_queues a.toNat
    rw [core_popped, hq]
    exact hcell
  subst hx hd
  rw [exec_tdld, execTdld, runTerm_eq _ _ htwin, ht]
  refine runInstr_ok _ _ _ ((bind_ok _ _ _ _ _ (get_run t)).trans ((readReg_bind _ _ _ ha).trans ?_))
  refine (bind_ok _ _ _ _ _ (trapIf_ok _ _ (by rw [halign]; rfl))).trans ((bind_ok _ _ _ _ _ (ownedEntry_ok _ hcell')).trans ?_)
  refine (bind_ok _ _ _ _ _ hc).trans ((bind_ok _ _ _ _ _ hg).trans ?_)
  refine (bind_ok _ _ _ _ _ (trapIf_ok _ _ (by rw [List.headD_cons, hv]; rfl))).trans ((bind_ok _ _ _ _ _ (modify_run _ _)).trans ?_)
  rw [retire_run, core_setTd]
  rfl

/-- TDST is one entry of the 64 bytes of a descriptor, which the commit queue takes (R339). -/
theorem exec_tdst_run {x : Word} {pl : Place × Policy} (hx : s.core.valueOf a.toNat = x) (ha : s.core.readable a.toNat = true)
    (halign : x.toNat % 64 = 0) (hc : checkAccess .store x 64 0 (s.popped a.toNat) = .ok (pl, s1)) (hq : queueOpen s1.core = true) :
    exec (.tdst desc a) s = .next (s1.withCore
      ((queued s1.core (entryOf s1 (.store (leBytes (teamTd s1 s1.cur desc.toNat).toNat 64)) pl x 0 0)).advance 4)) := by
  subst hx
  rw [exec_tdst, execTdst]
  refine runInstr_ok _ _ _ ((readReg_bind _ _ _ ha).trans ((bind_ok _ _ _ _ _ (trapIf_ok _ _ (by rw [halign]; rfl))).trans ?_))
  refine (bind_ok _ _ _ _ _ hc).trans ((bind_ok _ _ _ _ _ (get_run s1)).trans ?_)
  rw [bind_ok _ _ _ _ _ (storeTo_queue _ _ _ _ _ _ hq), retire_run, core_withCore, withCore_withCore]

/-- Settles O32: TDLD writes the entry that it has read, and TDST makes one store. -/
theorem descriptorMemory : Obligations.DescriptorMemory := by
  intro desc a s s1 s2 pl v
  refine ⟨?_, ?_⟩
  · intro t x d htwin ha halign hcell hc hg hv
    exact exec_tdld_run htwin rfl rfl rfl ha halign hcell hc hg hv
  · intro x e ha halign hc hq
    exact exec_tdst_run rfl ha halign hc hq

end Sys2Proof.Machine
end

section
/-!
PROOFS. MMA and MMAZ (R269, R273 to R275): the checks of their operands one after the other, and the job that they issue where every check
passes.
-/

namespace Sys2Proof.Machine

open Sys2Proof.Spec

/-! ### Checks of matrix operands (R269, R358) -/

/-- A condition that does not hold raises no matrix operand error. -/
theorem operandError_ok {b : Bool} {s : State} (opnd code : Nat) (h : b = false) : operandError b opnd code s = .ok ((), s) :=
  trapIf_ok _ _ h

/-- A condition that holds raises matrix operand error with the operand and the code. -/
theorem operandError_trap {b : Bool} {s : State} (opnd code : Nat) (h : b = true) :
    operandError b opnd code s = .error (.trap 30 (BitVec.ofNat 64 (opnd * 256 + code))) := by
  unfold operandError
  rw [trapIf_run, h]
  rfl

/-- Macros of a W buffer that the team claims pass the claim check (R358). -/
theorem macroClaim_ok {s : State} (m cause : Nat) (h : claims s.core .bufW = true) : macroClaim m cause s = .ok ((), s) :=
  (bind_ok _ _ _ _ _ (getC_run s)).trans (trapIf_ok _ _ (by rw [h]; rfl))

/-- Those of a W buffer that the team does not claim fail it with their address (R358). -/
theorem macroClaim_trap {s : State} (m cause : Nat) (h : claims s.core .bufW = false) :
    macroClaim m cause s = .error (.trap cause (BitVec.ofNat 64 (2 ^ 61 + 8192 * m))) := by
  refine (bind_ok _ _ _ _ _ (getC_run s)).trans ?_
  rw [trapIf_run, h]
  rfl

/-- A check that is made for one value of a field only. -/
theorem beq_and_eq_false {α : Type} [BEq α] [LawfulBEq α] {x y : α} {b : Bool} (h : x = y → b = false) : (x == y && b) = false := by
  by_cases e : x = y
  · rw [h e, Bool.and_false]
  · rw [beq_eq_false_iff_ne.mpr e, Bool.false_and]

/-! ### Matrix state outside regions (R283, R334) -/

section

variable {s : State} (hr : s.core.region = none)
include hr

/-- Outside regions a use of accumulators leaves no mark. -/
theorem useAccs_noRegion (reads writes : List Nat) : useAccs reads writes s = .ok ((), s) := by
  refine (bind_ok _ _ _ _ _ (getC_run s)).trans ?_
  rw [hr]
  rfl

/-- Outside regions a job's read of its weights leaves no mark. -/
theorem readMacro_noRegion (m : Nat) : readMacro m s = .ok ((), s.withCore s.core) := by
  refine (modC_run _ s).trans ?_
  rw [hr, Option.map_none, ← hr]

/-- Outside regions a weight job's write leaves no mark. -/
theorem writeMacro_noRegion (m : Nat) : writeMacro m s = .ok ((), s) := by
  refine (bind_ok _ _ _ _ _ (getC_run s)).trans ?_
  rw [hr]
  rfl

end

/-- An instruction takes its core's next stamp of program order. -/
theorem nextStamp_run (s : State) : nextStamp s = .ok (s.core.stamp, s.withCore { s.core with stamp := s.core.stamp + 1 }) := rfl

/-! ### The steps of MMA and MMAZ (R275) -/

section

variable (zero : Bool) (ad : BitVec 2) (ta : BitVec 3) (ha : BitVec 1) (wm p : BitVec 4) (mode : BitVec 2) (fmta : BitVec 4) (c : Core)

/-- What MMA and MMAZ of a core that began as c run once their operands have passed every check. -/
def matrixEnqueue : Act Unit := do
  afterAcquire
  waitUntil (c.matJobs.length < 4)
  let ts := if ha = 1 then [] else if fmta.toNat = 0x7 then [ta.toNat, ta.toNat + 1] else [ta.toNat]
  waitUntil (ts.all (fun t => !c.tilePending t))
  useTiles ts []
  useAccs (if zero then [] else [ad.toNat]) [ad.toNat]
  readMacro wm.toNat
  let n ← nextStamp
  modC (fun c' => { c' with matJobs := c'.matJobs ++ [{ matrixJob c zero ad ta ha wm p mode fmta with order := n }] })
  retire 4

/-- What they run from the check of the accumulator's kind on. -/
def matrixFromKind : Act Unit := do
  operandError (!zero && c.nextKind ad.toNat != .none && c.nextKind ad.toNat != pairKind fmta.toNat) ad.toNat 0x03
  let hd := vget c.handles Handle.reset ta.toNat
  trapIf (ha == 1 && (hd.size < matrixSlot fmta.toNat || hd.count == 0)) 34 (word ta.toNat)
  matrixEnqueue zero ad ta ha wm p mode fmta c

/-- What they run from the checks of their mode's operands on. -/
def matrixFromMode : Act Unit := do
  operandError (mode == 1 && badDecision (vget c.ext 0 2)) wm.toNat 0x04
  operandError (mode == 2 && planes fmta.toNat ≤ (vget c.ext 0 3).toNat % 32) wm.toNat 0x05
  matrixFromKind zero ad ta ha wm p mode fmta c

/-- MMA and MMAZ check their weights, and that the extension register of their mode is not poisoned, before the operands of their mode. -/
theorem issueMatrix_eq : issueMatrix zero ad ta ha wm p mode fmta = (do
    macroClaim wm.toNat 5
    let c ← getC
    operandError (!(c.nextMacro wm.toNat).1) wm.toNat 0x02
    operandError (!pairs fmta.toNat (c.nextMacro wm.toNat).2) wm.toNat 0x01
    if mode = 1 then noPoison 0 18
    if mode = 2 then noPoison 0 19
    matrixFromMode zero ad ta ha wm p mode fmta c) := rfl

end

/-- Weights that a job of format f can use (R269): claimed, loaded once the earlier weight jobs have run, and of a format that pairs with f. -/
structure MacroFits (c : Core) (m f : Nat) : Prop where
  claimed : claims c .bufW = true
  loaded : (c.nextMacro m).1 = true
  paired : pairs f (c.nextMacro m).2 = true

/-- The extension register of the mode can be read (R405). -/
def ModeClean (c : Core) (mode : BitVec 2) : Prop :=
  (mode = 1 → c.poison.contains (0, 18) = false) ∧ (mode = 2 → c.poison.contains (0, 19) = false)

/-- The operands of the mode are in their ranges (R61, R62). -/
def ModeFits (c : Core) (mode : BitVec 2) (f : Nat) : Prop :=
  (mode = 1 → badDecision (vget c.ext 0 2) = false) ∧ (mode = 2 → (vget c.ext 0 3).toNat % 32 < planes f)

section

variable {zero : Bool} {ad : BitVec 2} {ta : BitVec 3} {ha : BitVec 1} {wm p : BitVec 4} {mode : BitVec 2} {fmta : BitVec 4} {s : State}

/-! ### The checks in their order (R269, R275, R358) -/

theorem issueMatrix_unclaimed (h : claims s.core .bufW = false) :
    issueMatrix zero ad ta ha wm p mode fmta s = .error (.trap 5 (BitVec.ofNat 64 (2 ^ 61 + 8192 * wm.toNat))) := by
  rw [issueMatrix_eq]
  exact bind_error _ _ _ _ (macroClaim_trap _ _ h)

theorem issueMatrix_empty (hc : claims s.core .bufW = true) (h : (s.core.nextMacro wm.toNat).1 = false) :
    issueMatrix zero ad ta ha wm p mode fmta s = .error (.trap 30 (BitVec.ofNat 64 (wm.toNat * 256 + 2))) := by
  rw [issueMatrix_eq]
  refine (bind_ok _ _ _ _ _ (macroClaim_ok _ _ hc)).trans ((bind_ok _ _ _ _ _ (getC_run s)).trans ?_)
  exact bind_error _ _ _ _ (operandError_trap _ _ (by rw [h]; rfl))

theorem issueMatrix_unpaired (hc : claims s.core .bufW = true) (hl : (s.core.nextMacro wm.toNat).1 = true)
    (h : pairs fmta.toNat (s.core.nextMacro wm.toNat).2 = false) :
    issueMatrix zero ad ta ha wm p mode fmta s = .error (.trap 30 (BitVec.ofNat 64 (wm.toNat * 256 + 1))) := by
  rw [issueMatrix_eq]
  refine (bind_ok _ _ _ _ _ (macroClaim_ok _ _ hc)).trans ((bind_ok _ _ _ _ _ (getC_run s)).trans ?_)
  refine (bind_ok _ _ _ _ _ (operandError_ok _ _ (by rw [hl]; rfl))).trans ?_
  exact bind_error _ _ _ _ (operandError_trap _ _ (by rw [h]; rfl))

/-- Weights that fit, and a mode whose register is clean, leave the checks of the mode's operands and what follows them. -/
theorem issueMatrix_fits (h : MacroFits s.core wm.toNat fmta.toNat) (hm : ModeClean s.core mode) :
    issueMatrix zero ad ta ha wm p mode fmta s = matrixFromMode zero ad ta ha wm p mode fmta s.core s := by
  obtain ⟨h1, h2⟩ := hm
  rw [issueMatrix_eq]
  refine (bind_ok _ _ _ _ _ (macroClaim_ok _ _ h.claimed)).trans ((bind_ok _ _ _ _ _ (getC_run s)).trans ?_)
  refine (bind_ok _ _ _ _ _ (operandError_ok _ _ (by rw [h.loaded]; rfl))).trans ?_
  refine (bind_ok _ _ _ _ _ (operandError_ok _ _ (by rw [h.paired]; rfl))).trans ?_
  by_cases m1 : mode = 1
  · subst m1
    exact bind_ok _ _ _ _ _ (noPoison_ok _ _ _ (h1 rfl))
  · by_cases m2 : mode = 2
    · subst m2
      exact bind_ok _ _ _ _ _ (noPoison_ok _ _ _ (h2 rfl))
    · simp only [m1, m2, if_false]

theorem matrixFromMode_badDecision (h : badDecision (vget s.core.ext 0 2) = true) :
    matrixFromMode zero ad ta ha wm p 1 fmta s.core s = .error (.trap 30 (BitVec.ofNat 64 (wm.toNat * 256 + 4))) :=
  bind_error _ _ _ _ (operandError_trap _ _ (by rw [h]; rfl))

theorem matrixFromMode_noPlane (h : planes fmta.toNat ≤ (vget s.core.ext 0 3).toNat % 32) :
    matrixFromMode zero ad ta ha wm p 2 fmta s.core s = .error (.trap 30 (BitVec.ofNat 64 (wm.toNat * 256 + 5))) :=
  (bind_ok _ _ _ _ _ (operandError_ok _ _ rfl)).trans (bind_error _ _ _ _ (operandError_trap _ _ (decide_eq_true h)))

/-- Operands of the mode in their ranges leave the check of the accumulator's kind and what follows it. -/
theorem matrixFromMode_fits (h : ModeFits s.core mode fmta.toNat) :
    matrixFromMode zero ad ta ha wm p mode fmta s.core s = matrixFromKind zero ad ta ha wm p mode fmta s.core s := by
  obtain ⟨h1, h2⟩ := h
  refine (bind_ok _ _ _ _ _ (operandError_ok _ _ (beq_and_eq_false h1))).trans (bind_ok _ _ _ _ _ (operandError_ok _ _ ?_))
  exact beq_and_eq_false fun m2 => decide_eq_false (Nat.not_le.mpr (h2 m2))

theorem matrixFromKind_otherKind (hn : s.core.nextKind ad.toNat ≠ .none) (hk : s.core.nextKind ad.toNat ≠ pairKind fmta.toNat) :
    matrixFromKind false ad ta ha wm p mode fmta s.core s = .error (.trap 30 (BitVec.ofNat 64 (ad.toNat * 256 + 3))) :=
  bind_error _ _ _ _ (operandError_trap _ _ (by simp [hn, hk]))

/-- A job that may issue has weights and operands of its mode that pass every check. -/
theorem checks_of_matrixReady (h : matrixReady s.core zero ad ta ha wm mode fmta = true) :
    MacroFits s.core wm.toNat fmta.toNat ∧ ModeClean s.core mode ∧ ModeFits s.core mode fmta.toNat := by
  simp only [matrixReady, Bool.and_eq_true] at h
  obtain ⟨⟨⟨⟨⟨⟨⟨⟨⟨hc, hl⟩, hp⟩, h1⟩, h2⟩, -⟩, -⟩, -⟩, -⟩, -⟩ := h
  refine ⟨⟨hc, hl, hp⟩, ⟨fun e => ?_, fun e => ?_⟩, fun e => ?_, fun e => ?_⟩ <;> subst e
  · exact (by simpa using h1 : _ ∧ _).2
  · exact (by simpa using h2 : _ ∧ _).2
  · exact (by simpa using h1 : _ ∧ _).1
  · exact (by simpa using h2 : _ ∧ _).1

/-- MMA and MMAZ that may issue join the core's jobs and complete (R275). -/
theorem matrixFromKind_issues (hr : s.core.region = none) (h : matrixReady s.core zero ad ta ha wm mode fmta = true) :
    matrixFromKind zero ad ta ha wm p mode fmta s.core s = .ok ((), s.withCore
      ({ s.core with stamp := s.core.stamp + 1, matJobs := s.core.matJobs ++ [matrixJob s.core zero ad ta ha wm p mode fmta] }.advance 4)) := by
  simp only [matrixReady, Bool.and_eq_true] at h
  obtain ⟨⟨⟨⟨⟨⟨⟨⟨⟨-, -⟩, -⟩, -⟩, -⟩, hkind⟩, hslot⟩, hjobs⟩, hacq⟩, htile⟩ := h
  have htiles : (if ha = 1 then [] else if fmta.toNat = 0x7 then [ta.toNat, ta.toNat + 1] else [ta.toNat]).all
      (fun t => !s.core.tilePending t) = true := by
    split
    · rfl
    next h1 =>
      have ht := ((Bool.or_eq_true _ _).mp htile).resolve_left fun e => h1 (beq_iff_eq.mp e)
      split
      next h7 => simpa [h7] using ht
      next h7 => simpa [h7] using ht
  refine (bind_ok _ _ _ _ _ (operandError_ok _ _ ?_)).trans ((bind_ok _ _ _ _ _ (trapIf_ok _ _ ?_)).trans ?_)
  · rcases (by simpa [or_assoc] using hkind : _ ∨ _ ∨ _) with h | h | h <;> simp [h]
  · exact beq_and_eq_false fun h1 => by simpa [h1] using hslot
  refine (bind_ok _ _ _ _ _ (afterAcquire_ok _ (by simpa using hacq))).trans ?_
  refine (bind_ok _ _ s s () (by rw [waitUntil_run, if_pos hjobs])).trans ?_
  refine (bind_ok _ _ s s () (by rw [waitUntil_run, if_pos htiles])).trans ?_
  refine (bind_ok _ _ _ _ _ (useTiles_noRegion _ _ _ hr)).trans ((bind_ok _ _ _ _ _ (useAccs_noRegion hr _ _)).trans ?_)
  refine (bind_ok _ _ _ _ _ (readMacro_noRegion hr _)).trans ((bind_ok _ _ _ _ _ (nextStamp_run _)).trans ?_)
  refine (bind_ok _ _ _ _ _ (modC_run _ _)).trans ?_
  rw [retire_run]
  simp only [core_withCore, withCore_withCore]
  rfl

end

/-- Settles O33: where the job may issue every check passes, and what follows puts it behind the others. -/
theorem matrixJobsIssue : Obligations.MatrixJobsIssue := by
  intro ad ta ha wm p mode fmta s c issued hr
  have issues : ∀ zero, matrixReady c zero ad ta ha wm mode fmta = true →
      runInstr (issueMatrix zero ad ta ha wm p mode fmta) s = .next (issued zero) := by
    intro zero h
    obtain ⟨hfits, hclean, hmode⟩ := checks_of_matrixReady h
    refine runInstr_ok _ _ _ ((issueMatrix_fits hfits hclean).trans ((matrixFromMode_fits hmode).trans ?_))
    exact matrixFromKind_issues hr h
  exact ⟨issues false, issues true⟩

/-- Settles O34: the first check that fails raises its trap. -/
theorem matrixOperandErrors : Obligations.MatrixOperandErrors := by
  intro ad ta ha wm p mode fmta s c m f fits both
  have raises : ∀ {cause : Nat} {v : Word}, (∀ zero, issueMatrix zero ad ta ha wm p mode fmta s = .error (.trap cause v)) → both cause v :=
    fun h => ⟨runInstr_trap _ _ _ _ (h false), runInstr_trap _ _ _ _ (h true)⟩
  have fitting : fits = true → MacroFits c m f := by
    intro h
    simp only [fits, Bool.and_eq_true] at h
    obtain ⟨⟨hc, hl⟩, hp⟩ := h
    exact ⟨hc, hl, hp⟩
  refine ⟨fun hc => ?_, fun hc hl => ?_, fun hc hl hp => ?_, fun hf hm hp hb => ?_, fun hf hm hp hb => ?_, fun hf h1 h2 hn hk => ?_⟩
  · exact raises fun zero => issueMatrix_unclaimed hc
  · exact raises fun zero => issueMatrix_empty hc hl
  · exact raises fun zero => issueMatrix_unpaired hc hl hp
  · subst hm
    exact raises fun zero => (issueMatrix_fits (fitting hf) ⟨fun _ => hp, fun e => absurd e (by decide)⟩).trans (matrixFromMode_badDecision hb)
  · subst hm
    exact raises fun zero => (issueMatrix_fits (fitting hf) ⟨fun e => absurd e (by decide), fun _ => hp⟩).trans (matrixFromMode_noPlane hb)
  · refine runInstr_trap _ _ _ _ ((issueMatrix_fits (fitting hf) ⟨fun e => (h1 e).2, fun e => (h2 e).2⟩).trans ?_)
    exact (matrixFromMode_fits ⟨fun e => (h1 e).1, fun e => (h2 e).1⟩).trans (matrixFromKind_otherKind hn hk)

end Sys2Proof.Machine
end

section
/-!
PROOFS. WCLR, WLDH and WLD (R270 to R272): each passes its checks and issues one weight job.
-/

namespace Sys2Proof.Machine

open Sys2Proof.Spec

variable {s s1 s2 : State}

/-- A weight job joins its core's others where no earlier acquire is to perform (R121, R270). -/
theorem issueWeight_ok (kind m fmt h : Nat) (cols : List Row) (recs : SMap BlockRec) (hacq : s.core.acquirePending = false) :
    issueWeight kind m fmt h cols recs s = .ok ((), s.withCore (withWeight s.core kind m fmt h cols recs)) := by
  refine (bind_ok _ _ _ _ _ (afterAcquire_ok s hacq)).trans ((bind_ok _ _ _ _ _ (nextStamp_run s)).trans ((modC_run _ _).trans ?_))
  rw [core_withCore, withCore_withCore]
  rfl

/-- An instruction that ends with a weight job completes. -/
theorem issueWeight_retire (kind m fmt h : Nat) (cols : List Row) (recs : SMap BlockRec) (hacq : s.core.acquirePending = false) :
    (do issueWeight kind m fmt h cols recs; retire 4 : Act Unit) s
      = .ok ((), s.withCore ((withWeight s.core kind m fmt h cols recs).advance 4)) := by
  rw [bind_ok _ _ _ _ _ (issueWeight_ok kind m fmt h cols recs hacq), retire_run, core_withCore, withCore_withCore]

/-- The alignment of columns takes one free value (log 21). -/
theorem alignNow_run (fmt scale : Nat) (cols : List Column) (s : State) :
    alignNow fmt scale cols s = .ok (alignColumns fmt scale s.free cols, { s with free := s.free + 1 }) := rfl

/-- Reading a register leaves the claims of the core's team. -/
theorem claims_popped {b : Space} (r : Nat) (h : claims s.core b = true) : claims (s.popped r).core b = true := by
  obtain ⟨q, hq⟩ := s.core.popped_queues r
  rw [core_popped, hq]
  exact h

/-- WCLR issues its job (R270). -/
theorem exec_wclr_run (g : BitVec 4) (hr : s.core.region = none) (hc : claims s.core .bufW = true) (hacq : s.core.acquirePending = false) :
    exec (.wclr g) s = .next (s.withCore ((withWeight s.core 2 g.toNat 0 0 (List.replicate 64 0) []).advance 4)) := by
  rw [exec_wclr, execWclr]
  refine runInstr_ok _ _ _ ((bind_ok _ _ _ _ _ (macroClaim_ok _ _ hc)).trans ?_)
  exact (bind_ok _ _ _ _ _ (writeMacro_noRegion hr _)).trans (issueWeight_retire _ _ _ _ _ _ hacq)

/-- WLDH of a handle with slots that are large enough issues its job (R272). -/
theorem exec_wldh_run {g fmt : BitVec 4} {h : BitVec 3} (hr : s.core.region = none) (hc : claims s.core .bufW = true)
    (hacq : s.core.acquirePending = false) (hsize : weightSlot fmt.toNat ≤ (vget s.core.handles Handle.reset h.toNat).size)
    (hcount : (vget s.core.handles Handle.reset h.toNat).count ≠ 0) :
    exec (.wldh g fmt h) s = .next (s.withCore ((withWeight s.core 1 g.toNat fmt.toNat h.toNat [] []).advance 4)) := by
  rw [exec_wldh, execWldh]
  refine runInstr_ok _ _ _ ((bind_ok _ _ _ _ _ (macroClaim_ok _ _ hc)).trans ((bind_ok _ _ _ _ _ (getC_run s)).trans ?_))
  refine (bind_ok _ _ _ _ _ (trapIf_ok _ _ (by simp [hsize, hcount]))).trans ?_
  exact (bind_ok _ _ _ _ _ (writeMacro_noRegion hr _)).trans (issueWeight_retire _ _ _ _ _ _ hacq)

/-- WLD whose reads pass their checks and give their values aligns the columns and issues its job (R271). -/
theorem exec_wld_run {g a : BitVec 4} {desc : BitVec 8} {els : List (Word × Nat × (Place × Policy))} {vals : List Nat} {x : Nat} {d : Desc}
    (hx : (s.core.valueOf a.toNat).toNat = x) (hd : teamTd s s.cur desc.toNat = d) (hr : s.core.region = none)
    (hc : claims s.core .bufW = true) (ha : s.core.readable a.toNat = true) (hcode : d.code ≠ 16)
    (hchk : checkReads (((List.range 64).map (fun col => (col, columnReads d x col))).flatMap (fun p => p.2.map (fun r => r.2)))
      (s.popped a.toNat) = .ok (els, s1))
    (hg : gather s els s1 = .ok (vals, s2)) (hacq : s2.core.acquirePending = false) :
    let al := alignColumns d.code d.scale s2.free (splitColumns d x ((List.range 64).map (fun col => (col, columnReads d x col))) vals)
    exec (.wld g desc a) s = .next (State.withCore { s2 with free := s2.free + 1 }
      ((withWeight s2.core 0 g.toNat d.code 0 al.1 al.2).advance 4)) := by
  subst hx hd
  rw [exec_wld, execWld]
  refine runInstr_ok _ _ _ ((bind_ok _ _ _ _ _ (get_run s)).trans ((readReg_bind _ _ _ ha).trans ?_))
  refine (bind_ok _ _ _ _ _ (macroClaim_ok _ _ (claims_popped _ hc))).trans ?_
  refine (bind_ok _ _ _ _ _ (operandError_ok _ _ (beq_eq_false_iff_ne.mpr hcode))).trans ?_
  refine (bind_ok _ _ _ _ _ (writeMacro_noRegion (region_afterReads [a.toNat] hr) _)).trans ?_
  refine (bind_ok _ _ _ _ _ hchk).trans ((bind_ok _ _ _ _ _ hg).trans ((bind_ok _ _ _ _ _ (alignNow_run _ _ _ _)).trans ?_))
  exact issueWeight_retire _ _ _ _ _ _ hacq

/-- Settles O35: each of the three passes its checks and ends with its job. -/
theorem weightJobsIssue : Obligations.WeightJobsIssue := by
  intro g fmt h desc a s s1 s2 els vals c hd x d plan al hr hc hacq
  refine ⟨exec_wclr_run g hr hc hacq, fun hsize hcount => ?_, fun ha hcode hchk hg hacq2 => ?_⟩
  · exact exec_wldh_run hr hc hacq hsize hcount
  · exact exec_wld_run rfl rfl hr hc ha hcode hchk hg hacq2

end Sys2Proof.Machine
end

section
/-!
PROOFS. Accumulators (R276, R279, R282): what replacing one leaves of a core, and the instructions that promote, clear, copy and add them and
read their status.
-/

namespace Sys2Proof.Machine

open Sys2Proof.Spec

/-! ### Replacing an accumulator -/

/-- The accumulators of a core after one is replaced. -/
theorem acc_setAcc (c : Core) {a : Nat} (x : Acc) (ha : a < 4) (i : Nat) : (c.setAcc a x).acc i = if i = a then x else c.acc i :=
  vget_vset _ _ _ _ _ ha

/-- The accumulators of a core after one is overwritten. -/
theorem acc_putAcc (c : Core) {a : Nat} (x : Acc) (ha : a < 4) (i : Nat) : (c.putAcc a x).acc i = if i = a then x else c.acc i :=
  vget_vset _ _ _ _ _ ha

/-- The core with an accumulator promoted (R58). -/
def Core.promoteAcc (c : Core) (a : Nat) : Core := c.setAcc a (c.acc a).promote

/-- The accumulators of a core after one is promoted. -/
theorem acc_promoteAcc (c : Core) {a : Nat} (ha : a < 4) (i : Nat) :
    (c.promoteAcc a).acc i = if i = a then (c.acc a).promote else c.acc i := acc_setAcc c _ ha i

/-- Promotion leaves the kind (R58). -/
@[simp] theorem kind_promote (a : Acc) : a.promote.kind = a.kind := by
  unfold Acc.promote
  split
  next h => rw [h]
  next => rfl

/-! ### Waiting for accumulators and reading them (R279, R405) -/

variable {s : State}

/-- An instruction that ends with a change of its core completes. -/
theorem modC_retire (s : State) (c : Core) (f : Core → Core) :
    (do modC f; retire 4 : Act Unit) (s.withCore c) = .ok ((), s.withCore ((f c).advance 4)) := by
  rw [bind_ok _ _ _ _ _ (modC_run _ _), retire_run]
  simp only [core_withCore, withCore_withCore]

/-- Accumulators that no job holds are free at once. -/
theorem accsFree_ok {as : List Nat} (h : accsOpen s.core as = true) : accsFree as s = .ok ((), s) :=
  (bind_ok _ _ _ _ _ (getC_run s)).trans ((waitUntil_run _ s).trans (if_pos h))

/-- Of accumulators that no job holds, no job holds any. -/
theorem accsOpen_subset {c : Core} {as bs : List Nat} (h : accsOpen c bs = true) (hs : ∀ a ∈ as, a ∈ bs) : accsOpen c as = true :=
  List.all_eq_true.mpr fun a ha => List.all_eq_true.mp h a (hs a ha)

/-- An accumulator without poison can be read. -/
theorem cleanAcc_ok {a : Nat} (h : accClean s.core a = true) : cleanAcc a s = .ok ((), s) :=
  forM_ok _ _ _ fun r hr => noPoison_ok _ _ _ (by simpa using List.all_eq_true.mp h r hr)

/-! ### APROM, ACLR, AMOV, AADD (R276) -/

/-- Between c and c' a core's accumulators and its marks of poison have changed, and nothing else. -/
def AccsOnly (c c' : Core) : Prop := ∃ ac po, c' = { c with accs := ac, poison := po }

theorem AccsOnly.refl (c : Core) : AccsOnly c c := ⟨c.accs, c.poison, rfl⟩

theorem AccsOnly.setAcc {c c' : Core} (h : AccsOnly c c') (a : Nat) (x : Acc) : AccsOnly c (c'.setAcc a x) := by
  obtain ⟨ac, po, rfl⟩ := h
  exact ⟨_, po, rfl⟩

theorem AccsOnly.promoteAcc {c c' : Core} (h : AccsOnly c c') (a : Nat) : AccsOnly c (c'.promoteAcc a) := h.setAcc a _

theorem AccsOnly.putAcc {c c' : Core} (h : AccsOnly c c') (a : Nat) (x : Acc) : AccsOnly c (c'.putAcc a x) := by
  obtain ⟨ac, po, rfl⟩ := h
  exact ⟨_, _, rfl⟩

/-- An instruction that has changed its core's accumulators has written accumulators and nothing else. -/
theorem accWritten_withCore {c : Core} {acc : Nat → Acc} (hc : AccsOnly s.core c) (hacc : ∀ i, i < 4 → c.acc i = acc i) :
    AccWritten s (s.withCore (c.advance 4)) acc := by
  obtain ⟨ac, po, rfl⟩ := hc
  unfold AccWritten Completes
  rw [core_withCore]
  exact ⟨⟨rfl, rfl, rfl, rfl, rfl, rfl, rfl, rfl, rfl⟩, hacc, rfl, rfl, rfl, rfl, rfl, rfl, othersKept_withCore _ _⟩

section

variable {g a : BitVec 2} (hr : s.core.region = none) (hopen : accsOpen s.core [g.toNat, a.toNat] = true)
include hr hopen

theorem exec_aprom_run (hg : accClean s.core g.toNat = true) :
    exec (.aprom g) s = .next (s.withCore ((s.core.promoteAcc g.toNat).advance 4)) := by
  rw [exec_aprom, execAprom]
  refine runInstr_ok _ _ _ ((bind_ok _ _ _ _ _ (accsFree_ok (accsOpen_subset hopen (by simp)))).trans ?_)
  refine (bind_ok _ _ _ _ _ (useAccs_noRegion hr _ _)).trans ((bind_ok _ _ _ _ _ (cleanAcc_ok hg)).trans ?_)
  refine (bind_ok _ _ _ _ _ (modC_run _ s)).trans ?_
  rw [retire_run, core_withCore, withCore_withCore]
  rfl

theorem exec_aclr_run : exec (.aclr g) s = .next (s.withCore ((s.core.putAcc g.toNat Acc.reset).advance 4)) := by
  rw [exec_aclr, execAclr]
  refine runInstr_ok _ _ _ ((bind_ok _ _ _ _ _ (accsFree_ok (accsOpen_subset hopen (by simp)))).trans ?_)
  refine (bind_ok _ _ _ _ _ (useAccs_noRegion hr _ _)).trans ((bind_ok _ _ _ _ _ (modC_run _ s)).trans ?_)
  rw [retire_run, core_withCore, withCore_withCore]

end

/-- The core whose accumulator g takes kind and elements from accumulator a. -/
def Core.copyAcc (c : Core) (g a : Nat) : Core :=
  c.putAcc g { c.acc g with kind := (c.acc a).kind, elems := (c.acc a).elems, narrow := [], count := 0 }

/-- AMOV promotes its source, and copies it where its destination is another (R276). -/
theorem exec_amov_run {g a : BitVec 2} (hr : s.core.region = none) (hopen : accsOpen s.core [g.toNat, a.toNat] = true)
    (ha : accClean s.core a.toNat = true) :
    exec (.amov g a) s = .next (s.withCore ((if g = a then s.core.promoteAcc a.toNat
      else (s.core.promoteAcc a.toNat).copyAcc g.toNat a.toNat).advance 4)) := by
  rw [exec_amov, execAmov]
  refine runInstr_ok _ _ _ ((bind_ok _ _ _ _ _ (accsFree_ok hopen)).trans ?_)
  refine (bind_ok _ _ _ _ _ (useAccs_noRegion hr _ _)).trans ((bind_ok _ _ _ _ _ (cleanAcc_ok ha)).trans ?_)
  refine (bind_ok _ _ _ _ _ (modC_run _ s)).trans ?_
  by_cases h : g = a
  · rw [if_neg (not_not_intro h), if_pos h]
    refine (retire_run _ _).trans ?_
    rw [core_withCore, withCore_withCore]
    rfl
  · rw [if_pos h, if_neg h]
    exact modC_retire _ _ _

/-- The core whose accumulator g takes the sum of accumulators g and a: an accumulator of kind NONE adds nothing, and is replaced by what is
added to it. -/
def Core.addAcc (c : Core) (g a : Nat) : Core :=
  match (c.acc g).kind, (c.acc a).kind with
  | _, .none => c
  | .none, _ => c.setAcc g { c.acc g with kind := (c.acc a).kind, elems := (c.acc a).elems }
  | _, _ => c.setAcc g (accSum (c.acc g) (c.acc a))

/-- Accumulators of one kind that is not NONE add up. -/
theorem addAcc_same {c : Core} {g a : Nat} (h : (c.acc g).kind = (c.acc a).kind) (hn : (c.acc a).kind ≠ .none) :
    c.addAcc g a = c.setAcc g (accSum (c.acc g) (c.acc a)) := by
  unfold Core.addAcc
  rw [h]
  split
  next e => exact absurd e hn
  next e _ => exact absurd e hn
  next => rfl

/-- AADD of accumulators of one kind promotes both and adds (R276). -/
theorem exec_aadd_run {g a : BitVec 2} (hr : s.core.region = none) (hopen : accsOpen s.core [g.toNat, a.toNat] = true)
    (hg : accClean s.core g.toNat = true) (ha : accClean s.core a.toNat = true)
    (hk : (s.core.acc g.toNat).kind = (s.core.acc a.toNat).kind) :
    exec (.aadd g a) s = .next (s.withCore ((((s.core.promoteAcc g.toNat).promoteAcc a.toNat).addAcc g.toNat a.toNat).advance 4)) := by
  rw [exec_aadd, execAadd]
  refine runInstr_ok _ _ _ ((bind_ok _ _ _ _ _ (accsFree_ok hopen)).trans ((bind_ok _ _ _ _ _ (getC_run s)).trans ?_))
  refine (bind_ok _ _ _ _ _ (operandError_ok _ _ (by simp [hk]))).trans ((bind_ok _ _ _ _ _ (useAccs_noRegion hr _ _)).trans ?_)
  refine (bind_ok _ _ _ _ _ (cleanAcc_ok hg)).trans ((bind_ok _ _ _ _ _ (cleanAcc_ok ha)).trans ?_)
  refine (bind_ok _ _ _ _ _ (modC_run _ s)).trans ((bind_ok _ _ _ _ _ (modC_run _ _)).trans ?_)
  rw [core_withCore, withCore_withCore]
  exact modC_retire _ _ _

/-! ### MSTAT (R282) -/

/-- MSTAT writes the status of the promoted accumulator and clears its flags (R282). -/
theorem exec_mstat_run {d : BitVec 4} {a : BitVec 2} (hr : s.core.region = none) (hopen : accsOpen s.core [a.toNat] = true)
    (ha : accClean s.core a.toNat = true) (hw : s.core.writable d.toNat = true) :
    let ap := (s.core.acc a.toNat).promote
    exec (.mstat d a) s = .next (s.withCore
      (((s.core.put d.toNat (mstatWord ap)).setAcc a.toNat { ap with nv := false, of := false, is := false, rden := false }).advance 4)) := by
  intro ap
  rw [exec_mstat, execMstat]
  refine runInstr_ok _ _ _ ((bind_ok _ _ _ _ _ (accsFree_ok hopen)).trans ?_)
  refine (bind_ok _ _ _ _ _ (useAccs_noRegion hr _ _)).trans ((bind_ok _ _ _ _ _ (cleanAcc_ok ha)).trans ?_)
  refine (bind_ok _ _ _ _ _ (getC_run s)).trans ((writeReg_bind _ _ _ _ hw).trans ?_)
  exact modC_retire _ _ _

/-- Settles O36: each replaces accumulators of the core, and MSTAT writes its register too. -/
theorem accumulators : Obligations.Accumulators := by
  intro g a d s c gp ap writes hr hopen hg ha
  have hne : g ≠ a → a.toNat ≠ g.toNat := fun h e => h (BitVec.eq_of_toNat_eq e.symm)
  refine ⟨?_, ?_, fun h => ?_, ?_, fun h hk hn => ?_, fun hw => ?_⟩
  · exact ⟨_, exec_aprom_run hr hopen hg, accWritten_withCore ((AccsOnly.refl c).promoteAcc _) fun i _ => acc_promoteAcc _ g.isLt i⟩
  · exact ⟨_, exec_aclr_run hr hopen, accWritten_withCore ((AccsOnly.refl c).putAcc _ _) fun i _ => acc_putAcc _ _ g.isLt i⟩
  · refine ⟨_, exec_amov_run hr hopen ha, ?_⟩
    rw [if_neg h]
    refine accWritten_withCore (((AccsOnly.refl c).promoteAcc _).putAcc _ _) fun i _ => ?_
    rw [Core.copyAcc, acc_putAcc _ _ g.isLt]
    simp only [acc_promoteAcc _ a.isLt, if_true, if_neg (hne h).symm]
    rfl
  · refine ⟨_, exec_amov_run hr (accsOpen_subset hopen (by simp)) ha, ?_⟩
    rw [if_pos rfl]
    exact accWritten_withCore ((AccsOnly.refl c).promoteAcc _) fun i _ => acc_promoteAcc _ a.isLt i
  · refine ⟨_, exec_aadd_run hr hopen hg ha (by simpa only [gp, ap, kind_promote] using hk), ?_⟩
    have hgp : ((c.promoteAcc g.toNat).promoteAcc a.toNat).acc g.toNat = gp := by
      rw [acc_promoteAcc _ a.isLt, if_neg (hne h).symm, acc_promoteAcc _ g.isLt, if_pos rfl]
    have hap : ((c.promoteAcc g.toNat).promoteAcc a.toNat).acc a.toNat = ap := by
      rw [acc_promoteAcc _ a.isLt, if_pos rfl, acc_promoteAcc _ g.isLt, if_neg (hne h)]
    rw [addAcc_same (by rw [hgp, hap]; exact hk) (by rw [hap]; exact hn), hgp, hap]
    refine accWritten_withCore ((((AccsOnly.refl c).promoteAcc _).promoteAcc _).setAcc _ _) fun i _ => ?_
    rw [acc_setAcc _ _ g.isLt, acc_promoteAcc _ a.isLt, acc_promoteAcc _ g.isLt, acc_promoteAcc _ g.isLt, if_neg (hne h)]
    by_cases hi : i = g.toNat
    · rw [if_pos hi, if_pos hi]
    · simp only [if_neg hi]
      rfl
  · exact exec_mstat_run hr (accsOpen_subset hopen (by simp)) ha hw

end Sys2Proof.Machine
end

section
/-!
PROOFS. The entries of an instruction that makes more stores than the commit queue has room for (R106, R250, R277; log 18).
-/

namespace Sys2Proof.Machine

open Sys2Proof.Spec

/-- A store of an instruction that makes several, which performs by itself. -/
def plainBlock (b : (Place × Policy) × Word × SMap Byte) : Block := { pl := b.1, ea := b.2.1, bytes := b.2.2, pair := false }

/-- The entries of such stores from a stamp on, as the running core of s gives them. -/
def plainEntries (s : State) (n : Nat) (bs : List ((Place × Policy) × Word × SMap Byte)) : List Entry :=
  bs.zipIdx.map (fun b => { entryOf s (.store b.1.2.2) b.1.1 b.1.2.1 0 0 with stamp := n + b.2, committed := true })

theorem plainEntries_cons (s : State) (n : Nat) (b : (Place × Policy) × Word × SMap Byte) (bs : List ((Place × Policy) × Word × SMap Byte)) :
    plainEntries s n (b :: bs)
      = { entryOf s (.store b.2.2) b.1 b.2.1 0 0 with stamp := n, committed := true } :: plainEntries s (n + 1) bs := by
  unfold plainEntries
  rw [List.zipIdx_cons, List.map_cons, List.zipIdx_succ, List.map_map]
  refine congrArg₂ _ rfl (List.map_congr_left fun b _ => ?_)
  simp only [Function.comp_apply, Nat.add_assoc, Nat.add_comm 1]

/-- Whether an address lies in an arena rests on the team of the running core and on what no core holds. -/
theorem inArena_withCore {s : State} {c : Core} (ea : Word) (h : c.team = s.core.team) : inArena (s.withCore c) ea = inArena s ea := by
  unfold inArena
  rw [core_withCore, h]
  rfl

/-- A core whose entries are those of another: of its team and mode, and compared alike (R122, R414). -/
structure EntriesAs (c c' : Core) : Prop where
  team : c'.team = c.team
  twinOk : c'.twinOk = c.twinOk
  status : c'.status = c.status

theorem entryOf_withCore {s : State} {c : Core} (h : EntriesAs s.core c) (a : Action) (pl : Place × Policy) (ea : Word) (ord scope : Nat) :
    entryOf (s.withCore c) a pl ea ord scope = { entryOf s a pl ea ord scope with stamp := c.stamp } := by
  unfold entryOf Core.supervisor
  rw [inArena_withCore ea h.team, core_withCore, h.twinOk, h.status]

/-- The entries of an instruction's stores, in order, with rising stamps. -/
theorem mkEntries_plain {s : State} {c : Core} (h : EntriesAs s.core c) (bs : List ((Place × Policy) × Word × SMap Byte)) :
    mkEntries (bs.map plainBlock) (s.withCore c)
      = .ok (plainEntries s c.stamp bs, s.withCore { c with stamp := c.stamp + bs.length }) := by
  induction bs generalizing c with
  | nil => rfl
  | cons b bs ih =>
    have hc : EntriesAs s.core { c with stamp := c.stamp + 1 } := ⟨h.team, h.twinOk, h.status⟩
    rw [List.map_cons, mkEntries, bind_ok _ _ _ _ _ (mkEntry_stamped ..), State.stamped, core_withCore, withCore_withCore,
      bind_ok _ _ _ _ _ (ih hc), plainEntries_cons, entryOf_withCore h, List.length_cons, Nat.add_comm bs.length 1, ← Nat.add_assoc]
    rfl

/-- Of entries that perform by themselves as many enter the queue as it has room for. -/
theorem fitEntries_plain {l : List Entry} (n : Nat) (h : ∀ e ∈ l, e.pair = false) :
    l.take (fitEntries n l) = l.take n ∧ l.drop (fitEntries n l) = l.drop n := by
  induction l generalizing n with
  | nil => simp
  | cons e l ih =>
    obtain ⟨he, hl⟩ := List.forall_mem_cons.mp h
    cases n with
    | zero => exact ⟨rfl, rfl⟩
    | succ n =>
      obtain ⟨ht, hd⟩ := ih n hl
      simp only [fitEntries, he, Bool.false_and, Bool.false_eq_true, if_false, List.take_succ_cons, List.drop_succ_cons, ht, hd,
        true_and]

theorem pair_plainEntries (s : State) (n : Nat) (bs : List ((Place × Policy) × Word × SMap Byte)) :
    ∀ e ∈ plainEntries s n bs, e.pair = false := by
  intro e he
  obtain ⟨b, -, rfl⟩ := List.mem_map.mp he
  rfl

/-- Stores that the commit queue has no room for begin to enter it, and their instruction waits until all have. -/
theorem storeMany_begun {s : State} {c : Core} {bs : List ((Place × Policy) × Word × SMap Byte)} (h : EntriesAs s.core c)
    (hr : c.region = none) (hb : c.rbuf = []) (hlen : 16 < bs.length) :
    storeMany (bs.map plainBlock) (s.withCore c) = .error (.block (s.withCore { storesBegun s c bs with stalled := c.stalled })) := by
  obtain ⟨htake, hdrop⟩ := fitEntries_plain (16 - c.cq.length) (pair_plainEntries s c.stamp bs)
  have hrest : ((plainEntries s c.stamp bs).drop (16 - c.cq.length)).isEmpty = false := by
    rw [List.isEmpty_eq_false_iff, ← List.length_pos_iff]
    simp only [plainEntries, List.length_drop, List.length_map, List.length_zipIdx]
    omega
  unfold storeMany
  refine (bind_ok _ _ _ _ _ (getC_run _)).trans ((bind_ok _ _ _ _ _ (get_run _)).trans ?_)
  simp only [core_withCore, hr]
  refine (bind_ok _ _ (s.withCore c) (s.withCore c) () (by simp [hb])).trans ((bind_ok _ _ _ _ _ (mkEntries_plain h bs)).trans ?_)
  refine (bind_ok _ _ _ _ _ (modC_run _ _)).trans ((bind_ok _ _ _ _ _ (getC_run _)).trans ?_)
  simp only [core_withCore, withCore_withCore, Core.moveIssuing, htake, hdrop, hrest, Bool.not_false, if_true]
  refine (bind_ok _ _ _ _ _ (modC_run _ _)).trans ?_
  rw [core_withCore, withCore_withCore]
  rfl

end Sys2Proof.Machine
end

section
/-!
PROOFS. The spill image of an accumulator (R277): ALD restores one from it, and AST stores it as 33 entries.
-/

namespace Sys2Proof.Machine

open Sys2Proof.Spec

/-! ### Accumulators after a register is read -/

section

variable {s : State} (r : Nat)

theorem acc_popped (c : Core) (i : Nat) : (c.popped r).acc i = c.acc i := by
  obtain ⟨q, hq⟩ := c.popped_queues r
  rw [hq]
  rfl

theorem accsOpen_popped {as : List Nat} (h : accsOpen s.core as = true) : accsOpen (s.popped r).core as = true := by
  obtain ⟨q, hq⟩ := s.core.popped_queues r
  rw [core_popped, hq]
  exact h

theorem accClean_congr {c c' : Core} {a : Nat} (h : accClean c a = true) (hp : c'.poison = c.poison) : accClean c' a = true := by
  unfold accClean
  rw [hp]
  exact h

theorem poison_popped (c : Core) : (c.popped r).poison = c.poison := by
  obtain ⟨q, hq⟩ := c.popped_queues r
  rw [hq]

end

/-! ### ALD (R277) -/

/-- An element of a table of 512 values that leaves out the default. -/
theorem getD_tabulate {α : Type} [DecidableEq α] (d : α) (f : Nat → α) {i : Nat} (hi : i < 512) : SMap.getD (tabulate d f) d i = f i := by
  have key : ∀ l : List Nat, (SMap.get? (l.filterMap (fun i => if f i = d then none else some (i, f i))) i).getD d
      = if i ∈ l then f i else d := by
    intro l
    induction l with
    | nil => rfl
    | cons j l ih =>
      rw [List.filterMap_cons]
      by_cases hij : j = i
      · subst hij
        by_cases hd : f j = d
        · simp [hd, ih]
        · simp [hd, SMap.get?]
      · by_cases hd : f j = d
        · simp [hd, ih, Ne.symm hij]
        · simp [hd, SMap.get?, hij, ih, Ne.symm hij]
  exact (key _).trans (if_pos (List.mem_range.mpr hi))

/-- The kind of a code of R277. -/
def kindOfCode : Nat → AccKind
  | 1 => .fp32
  | 2 => .int32
  | _ => .none

/-- The accumulator whose spill image has the given blocks of 64 bytes (R277). -/
def imageAcc (vs : List Nat) : Acc :=
  { Acc.reset with
    kind := kindOfCode (vs.getD 32 0 % 256)
    elems := tabulate 0 (fun i => BitVec.ofNat 32 (vs.getD (i / 16) 0 / 2 ^ (32 * (i % 16)))) }

/-- The elements that a spill image gives, sixteen to a block (R277). -/
theorem elem_imageAcc (vs : List Nat) {i : Nat} (hi : i < 512) :
    (imageAcc vs).elem i = BitVec.ofNat 32 (vs.getD (i / 16) 0 / 2 ^ (32 * (i % 16))) := by
  simp only [Acc.elem, imageAcc, getD_tabulate _ _ hi]

/-- The reads of a spill image, block by block. -/
def imageReads (p : Place) (x : Word) : List (Word × Nat × (Place × Policy)) :=
  (List.range 33).map (fun i => (x + BitVec.ofNat 64 (64 * i), 64, ({ p with addr := p.addr + 64 * i }, .direct)))

/-- ALD of an image with a valid trailer overwrites its accumulator (R277). -/
theorem exec_ald_run {g : BitVec 2} {a : BitVec 4} {s s1 s2 : State} {p : Place} {vs : List Nat} (ha : s.core.readable a.toNat = true)
    (hopen : accsOpen s.core [g.toNat] = true) (hp : imagePlace false (s.core.valueOf a.toNat) (s.popped a.toNat) = .ok (p, s1))
    (hg : gather s (imageReads p (s.core.valueOf a.toNat)) s1 = .ok (vs, s2)) (hr : s2.core.region = none) (hlast : vs.getD 32 0 ≤ 2) :
    exec (.ald g a) s = .next (s2.withCore ((s2.core.putAcc g.toNat (imageAcc vs)).advance 4)) := by
  have htrailer : (decide (2 < vs.getD 32 0 % 256) || vs.getD 32 0 / 256 % 2 ^ 504 != 0) = false := by
    rw [Nat.mod_eq_of_lt (by omega), Nat.div_eq_of_lt (by omega), Nat.zero_mod]
    simpa using hlast
  rw [exec_ald, execAld]
  refine runInstr_ok _ _ _ ((bind_ok _ _ _ _ _ (get_run s)).trans ((readReg_bind _ _ _ ha).trans ?_))
  refine (bind_ok _ _ _ _ _ (accsFree_ok (accsOpen_popped _ hopen))).trans ((bind_ok _ _ _ _ _ hp).trans ?_)
  refine (bind_ok _ _ _ _ _ hg).trans ((bind_ok _ _ _ _ _ (operandError_ok _ _ htrailer)).trans ?_)
  refine (bind_ok _ _ _ _ _ (useAccs_noRegion hr _ _)).trans ((bind_ok _ _ _ _ _ (modC_run _ _)).trans ?_)
  rw [retire_run, core_withCore, withCore_withCore]
  rfl

/-! ### AST (R277) -/

/-- The mark of an accumulator that a region reads: before any write of it (R334). -/
def Region.readAcc (r : Region) (a : Nat) : Region := if r.wrAcc.getLsbD a then r else { r with rbwAcc := r.rbwAcc ||| (1 <<< a) }

/-- In a region an accumulator that is read leaves its mark (R283, R334). -/
theorem useAccs_read {s : State} {r : Region} (a : Nat) (hr : s.core.region = some r) :
    useAccs [a] [] s = .ok ((), s.withCore { s.core with region := some (r.readAcc a) }) := by
  refine (bind_ok _ _ _ _ _ (getC_run s)).trans ?_
  rw [hr]
  rfl

/-- The stores of a spill image, block by block. -/
def imageStores (p : Place) (x : Word) (acc : Acc) : List ((Place × Policy) × Word × SMap Byte) :=
  (List.range 33).map (fun i => (({ p with addr := p.addr + 64 * i }, .direct), x + BitVec.ofNat 64 (64 * i),
    (List.range 64).map (fun j => (j, imageByte acc (64 * i + j)))))

/-- What AST runs where none of its stores has been made. -/
def astSteps (g : BitVec 2) (a : BitVec 4) : Act Unit := do
  let x ← readReg a.toNat
  accsFree [g.toNat]
  let p ← imagePlace true x
  useAccs [g.toNat] []
  cleanAcc g.toNat
  modC (fun c => c.promoteAcc g.toNat)
  let acc := (← getC).acc g.toNat
  storeMany ((imageStores p x acc).map plainBlock)
  retire 4

/-- AST is these steps in the form of an instruction that makes several stores (R277; log 18). -/
theorem exec_ast_steps (g : BitVec 2) (a : BitVec 4) (s : State) : exec (.ast g a) s = runInstr (withStores (astSteps g a)) s := rfl

/-- AST of an accumulator in the core's C buffer whose use leaves the state u, with the core c1 running, makes the stores of its image. -/
theorem astSteps_run {g : BitVec 2} {a : BitVec 4} {s u : State} {c1 : Core} {p : Place} (ha : s.core.readable a.toNat = true)
    (hopen : accsOpen s.core [g.toNat] = true)
    (hp : imagePlace true (s.core.valueOf a.toNat) (s.popped a.toNat) = .ok (p, s.popped a.toNat))
    (hu : useAccs [g.toNat] [] (s.popped a.toNat) = .ok ((), u)) (hcore : u.core = c1) (hwith : ∀ c, u.withCore c = s.withCore c)
    (hacc : c1.acc g.toNat = s.core.acc g.toNat) (hclean : accClean c1 g.toNat = true) :
    astSteps g a s = (do storeMany ((imageStores p (s.core.valueOf a.toNat) (s.core.acc g.toNat).promote).map plainBlock); retire 4 : Act Unit)
      (s.withCore (c1.setAcc g.toNat (s.core.acc g.toNat).promote)) := by
  subst hcore
  refine (readReg_bind _ _ _ ha).trans ((bind_ok _ _ _ _ _ (accsFree_ok (accsOpen_popped _ hopen))).trans ?_)
  refine (bind_ok _ _ _ _ _ hp).trans ((bind_ok _ _ _ _ _ hu).trans ((bind_ok _ _ _ _ _ (cleanAcc_ok hclean)).trans ?_))
  refine (bind_ok _ _ _ _ _ (modC_run _ u)).trans ((bind_ok _ _ _ _ _ (getC_run _)).trans ?_)
  rw [core_withCore, acc_promoteAcc _ g.isLt, if_pos rfl, hwith, Core.promoteAcc, hacc]

section

variable {g : BitVec 2} {a : BitVec 4} {s s2 : State} {p : Place} (ha : s.core.readable a.toNat = true)
  (hopen : accsOpen s.core [g.toNat] = true) (hw : s.core.wait = none)
  (hp : imagePlace true (s.core.valueOf a.toNat) (s.popped a.toNat) = .ok (p, s.popped a.toNat)) (hclean : accClean s.core g.toNat = true)
include ha hopen hw hp hclean

/-- Outside regions AST begins its stores and waits until all have entered the commit queue (R277; log 18). -/
theorem exec_ast_begun (hr : s.core.region = none) (hb : s.core.rbuf = []) :
    exec (.ast g a) s = .next (s.withCore (storesBegun s ((s.core.popped a.toNat).setAcc g.toNat (s.core.acc g.toNat).promote)
      (imageStores p (s.core.valueOf a.toNat) (s.core.acc g.toNat).promote))) := by
  have hu : useAccs [g.toNat] [] (s.popped a.toNat) = .ok ((), s.popped a.toNat) :=
    useAccs_noRegion (region_afterReads [a.toNat] hr) _ _
  have hsteps := astSteps_run ha hopen hp hu (core_popped _ _) (withCore_popped _ _) (acc_popped _ _ _)
    (accClean_congr hclean (poison_popped _ _))
  obtain ⟨q, hq⟩ := s.core.popped_queues a.toNat
  rw [hq] at hsteps ⊢
  have hbegun := storeMany_begun (s := s) (c := ({ s.core with queues := q } : Core).setAcc g.toNat (s.core.acc g.toNat).promote)
    (bs := imageStores p (s.core.valueOf a.toNat) (s.core.acc g.toNat).promote) ⟨rfl, rfl, rfl⟩ hr hb (by simp [imageStores])
  rw [exec_ast_steps, runInstr_withStores _ hw, runInstr_block _ _ _ (hsteps.trans (bind_error _ _ _ _ hbegun))]
  refine (congrArg _ (modCoreAt_cur _ _)).trans ?_
  rw [core_withCore, withCore_withCore]
  rfl

/-- In a region AST completes once its stores are held (R122, R277). -/
theorem exec_ast_held {r : Region} (hr : s.core.region = some r)
    (hst : storeMany ((imageStores p (s.core.valueOf a.toNat) (s.core.acc g.toNat).promote).map plainBlock)
      (s.withCore { (s.core.popped a.toNat).setAcc g.toNat (s.core.acc g.toNat).promote with region := some (r.readAcc g.toNat) })
      = .ok ((), s2)) :
    exec (.ast g a) s = .next (s2.withCore (s2.core.advance 4)) := by
  obtain ⟨q, hq⟩ := s.core.popped_queues a.toNat
  have hregion : (s.popped a.toNat).core.region = some r := by
    rw [core_popped, hq]
    exact hr
  have hsteps := astSteps_run ha hopen hp (useAccs_read g.toNat hregion) (core_withCore _ _)
    (fun c => by rw [withCore_withCore, withCore_popped]) (by rw [core_popped]; exact acc_popped _ _ _)
    (accClean_congr hclean (by rw [core_popped]; exact poison_popped _ _))
  rw [core_popped] at hsteps
  rw [exec_ast_steps, runInstr_withStores _ hw]
  exact runInstr_ok _ _ _ (hsteps.trans ((bind_ok _ _ _ _ _ hst).trans (retire_run _ _)))

end

/-- Settles O37: ALD overwrites its accumulator, and AST runs to its stores, which wait or are held. -/
theorem accumulatorImages : Obligations.AccumulatorImages := by
  intro g a s s1 s2 p vs c x acc last ha hopen
  refine ⟨fun hr hp hg hr2 hlast => ?_, fun hp hclean hw => ⟨fun hr hb => ?_, fun r hr hst => ?_⟩, fun hw hi => ?_⟩
  · have ht : ∀ d : Core, (s2.withCore (d.advance 4)).core.acc g.toNat = d.acc g.toNat := fun d => by rw [core_withCore]; rfl
    refine ⟨_, exec_ald_run ha hopen hp hg hr2 hlast, ?_, rfl, ?_, fun i hi => ?_⟩
    · unfold Completes
      rw [core_withCore]
      exact ⟨rfl, rfl, rfl, rfl, rfl, rfl, rfl, rfl, rfl⟩
    · rw [ht, acc_putAcc _ _ g.isLt, if_pos rfl]
      refine (congrArg kindOfCode (Nat.mod_eq_of_lt (show last < 256 by omega))).trans ?_
      rfl
    · rw [ht, acc_putAcc _ _ g.isLt, if_pos rfl]
      exact elem_imageAcc vs hi
  · exact exec_ast_begun ha hopen hw hp hclean hr hb
  · exact exec_ast_held ha hopen hw hp hclean hr hst
  · exact runInstr_ok _ _ _ ((withStores_done _ _ hw hi).trans (retire_run _ _))

end Sys2Proof.Machine
end

section
/-!
PROOFS. ACVT and AEPI (R278, R281): the conversions of an accumulator go to tiles or to stores, and their flags to the accumulator.
-/

namespace Sys2Proof.Machine

open Sys2Proof.Spec

/-! ### ACVT (R278) -/

/-- What the writes of rows leave is read in the eight rows of the eight tiles only. -/
theorem WritesRows.congr {c : Core} {ws : Writes} {row row' : Nat → Nat → Row} (h : WritesRows c ws row)
    (he : ∀ q r, q < 8 → r < 8 → row q r = row' q r) : WritesRows c ws row' := by
  refine ⟨fun w hw => ?_, fun q r hq hr => (h.2 q r hq hr).imp_left fun e => e.trans (he q r hq hr)⟩
  obtain ⟨ht, hr, hv⟩ := h.1 w hw
  exact ⟨ht, hr, hv.trans (he _ _ ht hr)⟩

/-- One row for each row of a pair of tiles. -/
theorem writesRows_pair (c : Core) {t : Nat} (f h : Nat → Row) (ht : t + 1 < 8) :
    WritesRows c ((List.range 8).flatMap (fun r => [(t, r, f r), (t + 1, r, h r)]))
      (fun q r => if q = t then f r else if q = t + 1 then h r else c.row q r) := by
  refine ⟨fun w hw => ?_, fun q r _ hr => ?_⟩
  · obtain ⟨r, hr, hw⟩ := List.mem_flatMap.mp hw
    have hr : r < 8 := List.mem_range.mp hr
    rcases (by simpa using hw : w = (t, r, f r) ∨ w = (t + 1, r, h r)) with rfl | rfl
    · exact ⟨by omega, hr, by simp⟩
    · exact ⟨ht, hr, by simp⟩
  · have hmem : r ∈ List.range 8 := List.mem_range.mpr hr
    by_cases h0 : q = t
    · exact .inr ⟨(t, r, f r), List.mem_flatMap.mpr ⟨r, hmem, by simp⟩, h0.symm, rfl⟩
    · by_cases h1 : q = t + 1
      · exact .inr ⟨(t + 1, r, h r), List.mem_flatMap.mpr ⟨r, hmem, by simp⟩, h1.symm, rfl⟩
      · exact .inl ((if_neg h0).trans (if_neg h1)).symm

/-- The conversions of the elements of an accumulator (R278). -/
def accConversions (acc : Acc) (code mode : Nat) (sat : Bool) : List (Nat × Bool × Bool) :=
  (List.range 512).map (fun i => accConvert acc.kind code mode sat (acc.elem i))

/-- A row of n converted elements, from one of a row of the accumulator on. -/
def convertedRow (code : Nat) (rs : List (Nat × Bool × Bool)) (r first n : Nat) : Row :=
  rowOf code (((rs.map (fun x => x.1)).drop (64 * r + first)).take n)

/-- The rows that ACVT writes: of its tile, or of its pair where the elements have 32 bits (R278). -/
def acvtWrites (code t : Nat) (rs : List (Nat × Bool × Bool)) : Writes :=
  (List.range 8).flatMap (fun r =>
    if code = 0xF then [(t, r, convertedRow code rs r 0 32), (t + 1, r, convertedRow code rs r 32 32)] else [(t, r, convertedRow code rs r 0 64)])

/-- The tiles that ACVT writes. -/
def acvtTiles (code t : Nat) : List Nat := if code = 0xF then [t, t + 1] else [t]

/-- The rows of the tiles after ACVT. -/
def acvtRows (c : Core) (code t : Nat) (rs : List (Nat × Bool × Bool)) (q r : Nat) : Row :=
  if code = 0xF ∧ q = t then convertedRow code rs r 0 32 else if code = 0xF ∧ q = t + 1 then convertedRow code rs r 32 32
    else if q = t then convertedRow code rs r 0 64 else c.row q r

theorem writesRows_acvt (c : Core) {code t : Nat} (rs : List (Nat × Bool × Bool)) (ht : ∀ u ∈ acvtTiles code t, u < 8) :
    WritesRows c (acvtWrites code t rs) (acvtRows c code t rs) := by
  unfold acvtTiles at ht
  unfold acvtWrites acvtRows
  by_cases hc : code = 0xF
  · simp only [hc, if_true, true_and] at ht ⊢
    refine (writesRows_pair c _ _ (ht (t + 1) (by simp))).congr fun q r _ _ => ?_
    by_cases hq : q = t
    · simp [hq]
    · simp [hq]
  · simp only [hc, if_false, false_and] at ht ⊢
    rw [← List.map_eq_flatMap]
    refine (writesRows_range c (fun r => (convertedRow code rs r 0 64, 0)) (ht t (by simp)) (le_refl 8)).congr fun q r _ hr => ?_
    simp [rowsWritten, hr]

/-- An instruction that replaces an accumulator and rows of tiles completes, with everything else as it was. -/
theorem accRows_written {s : State} {a : Nat} {x : Acc} {ws : Writes} {row : Nat → Nat → Row} (ha : a < 4) (h : WritesRows s.core ws row) :
    let t := s.withCore (((s.core.setAcc a x).setRows ws).advance 4)
    Completes s t 4 ∧ othersKept s t ∧ t.core.regs = s.core.regs ∧ t.core.acc a = x ∧ ∀ q r, q < 8 → r < 8 → t.core.row q r = row q r := by
  intro t
  have hw : WritesRows (s.core.setAcc a x) ws row := h
  have hrow := fun q r (hq : q < 8) (hr : r < 8) => row_setRows hw hq hr
  obtain ⟨ti, po, hf⟩ := setRows_fields (s.core.setAcc a x) ws
  have ht : t.core = ((s.core.setAcc a x).setRows ws).advance 4 := core_withCore _ _
  unfold Completes
  rw [ht]
  rw [hf] at hrow ⊢
  exact ⟨⟨rfl, rfl, rfl, rfl, rfl, rfl, rfl, rfl, rfl⟩, othersKept_withCore _ _, rfl, (acc_setAcc s.core x ha a).trans (if_pos rfl), hrow⟩

/-- ACVT of a clean accumulator that no job holds, to tiles that nothing holds (R278). -/
theorem exec_acvt_run {g fmt : BitVec 4} {sat : BitVec 1} {rm : BitVec 3} {a : BitVec 2} {s : State} (hr : s.core.region = none)
    (hopen : accsOpen s.core [a.toNat] = true) (hclean : accClean s.core a.toNat = true) (hmode : modeClean s.core rm = true)
    (hfree : ∀ t ∈ acvtTiles fmt.toNat g.toNat, (!s.core.tileLocked t && !s.core.tilePending t) = true) :
    let acc := (s.core.acc a.toNat).promote
    let rs := accConversions acc fmt.toNat (if rm = 4 then s.core.rm else rm.toNat) (sat == 1)
    exec (.acvt g fmt sat rm a) s = .next (s.withCore
      (((s.core.setAcc a.toNat (acc.flagged rs)).setRows (acvtWrites fmt.toNat g.toNat rs)).advance 4)) := by
  intro acc rs
  rw [exec_acvt, execAcvt]
  refine runInstr_ok _ _ _ ((bind_ok _ _ _ _ _ (accsFree_ok hopen)).trans ?_)
  refine (bind_ok _ _ _ _ _ (tilesFree_ok _ _ (List.all_eq_true.mpr hfree))).trans ((bind_ok _ _ _ _ _ (modeOf_ok rm s hmode)).trans ?_)
  refine (bind_ok _ _ _ _ _ (useAccs_noRegion hr _ _)).trans ((bind_ok _ _ _ _ _ (useTiles_noRegion _ _ _ hr)).trans ?_)
  refine (bind_ok _ _ _ _ _ (cleanAcc_ok hclean)).trans ((bind_ok _ _ _ _ _ (getC_run s)).trans ?_)
  refine (bind_ok _ _ _ _ _ (modC_run _ s)).trans ?_
  rw [retire_run, core_withCore, withCore_withCore]
  rfl

/-! ### AEPI (R281) -/

/-- Reading a register leaves the entries of the team's table. -/
theorem teamTd_popped (s : State) (r n : Nat) : teamTd (s.popped r) (s.popped r).cur n = teamTd s s.cur n := by
  have hteam : (s.popped r).core.team = s.core.team := by
    obtain ⟨q, hq⟩ := s.core.popped_queues r
    rw [core_popped, hq]
  obtain ⟨cs, hcs⟩ := s.popped_cores r
  unfold teamTd
  rw [show coreAt (s.popped r) (s.popped r).cur = (s.popped r).core from rfl, hteam, hcs]
  rfl

/-- AEPI whose stores pass their checks adds its flags to the accumulator and makes the stores of the blocks that it touches (R281). -/
theorem exec_aepi_run {a : BitVec 2} {desc : BitVec 8} {e : BitVec 4} {s s1 s2 : State} {st : List StorePiece} {n : Nat} {d : Desc} {acc : Acc}
    {es : List (Nat × Nat × (Nat × Bool × Bool))} (hn : (s.core.valueOf e.toNat).toNat = n) (hd : teamTd s s.cur desc.toNat = d)
    (hacc : (s.core.acc a.toNat).promote = acc) (hes : epilogue d acc (n / 2 ^ 48 % 4) (n / 2 ^ 24 % 2 ^ 24) (n % 2 ^ 24) = es)
    (hopen : accsOpen s.core [a.toNat] = true) (hclean : accClean s.core a.toNat = true) (hw : s.core.wait = none)
    (he : s.core.readable e.toNat = true) (hwidth : 8 ≤ elemWidth d.code) (hcode : d.code ≠ 16) (hscale : d.scale = 0) (hopt : n < 2 ^ 49)
    (hrd : d.rdonly = false)
    (hchk : checkStores (elemWidth d.code / 8) (es.map (fun x => (x.1, x.2.1, x.2.2.1))) (s.popped e.toNat) = .ok (st, s1))
    (hr : s1.core.region = none) (hp : s1.core.poison = s.core.poison)
    (hst : storeMany (blocksOf st) (s1.withCore (s1.core.setAcc a.toNat (acc.flagged (es.map (fun x => x.2.2))))) = .ok ((), s2)) :
    exec (.aepi a desc e) s = .next (s2.withCore (s2.core.advance 4)) := by
  subst hn hd hacc hes
  rw [exec_aepi, execAepi, runInstr_withStores _ hw]
  refine runInstr_ok _ _ _ ((readReg_bind _ _ _ he).trans ((bind_ok _ _ _ _ _ (accsFree_ok (accsOpen_popped _ hopen))).trans ?_))
  refine (bind_ok _ _ _ _ _ (get_run _)).trans ?_
  rw [teamTd_popped, core_popped, acc_popped]
  refine (bind_ok _ _ _ _ _ (operandError_ok _ _ (by simp [hwidth, hcode, hscale]))).trans ?_
  refine (bind_ok _ _ _ _ _ (operandError_ok _ _ ?_)).trans ((bind_ok _ _ _ _ _ hchk).trans ?_)
  · simp only [Bool.or_eq_false_iff, bne_eq_false_iff_eq, decide_eq_false_iff_not]
    omega
  refine (bind_ok _ _ s1 s1 () ?_).trans ((bind_ok _ _ _ _ _ (useAccs_noRegion hr _ _)).trans ?_)
  · cases st.head? with
    | none => rfl
    | some p => exact trapIf_ok _ _ hrd
  refine (bind_ok _ _ _ _ _ (cleanAcc_ok (accClean_congr hclean hp))).trans ((bind_ok _ _ _ _ _ (modC_run _ _)).trans ?_)
  exact (bind_ok _ _ _ _ _ hst).trans (retire_run _ _)

/-- Settles O38: ACVT's rows are in its tiles and its flags in the accumulator; AEPI runs to its stores, and completes once they have entered. -/
theorem accumulatorConversions : Obligations.AccumulatorConversions := by
  intro g fmt sat rm a desc e s s1 s2 st c acc rs ts code n d es hr hopen hclean
  refine ⟨fun hmode hts => ?_, fun hw hi => ?_, fun hw he hwidth hcode hscale hopt hrd hchk hr1 hp hst => ?_⟩
  · have hF : fmt = 0xF ↔ fmt.toNat = 15 := by rw [← BitVec.toNat_inj]; rfl
    have htiles : ts = acvtTiles fmt.toNat g.toNat := by simp only [ts, acvtTiles, hF]
    have hall : ∀ t ∈ acvtTiles fmt.toNat g.toNat, t < 8 ∧ (!c.tileLocked t && !c.tilePending t) = true := by
      intro t ht
      rw [← htiles] at ht
      simpa [and_assoc] using List.all_eq_true.mp hts t ht
    refine ⟨_, exec_acvt_run hr hopen hclean hmode fun t ht => (hall t ht).2, ?_⟩
    obtain ⟨hdone, hothers, hregs, hacc, hrow⟩ := accRows_written a.isLt (writesRows_acvt c rs fun t ht => (hall t ht).1) (s := s)
      (x := acc.flagged rs)
    refine ⟨hdone, hothers, hregs, hacc, fun q r hq hr => (hrow q r hq hr).trans ?_⟩
    simp only [acvtRows, hF]
    rfl
  · exact runInstr_ok _ _ _ ((withStores_done _ _ hw hi).trans (retire_run _ _))
  · exact exec_aepi_run rfl rfl rfl rfl hopen hclean hw he hwidth hcode hscale hopt hrd hchk hr1 hp hst

end Sys2Proof.Machine
end

section
/-!
PROOFS. What the instructions of the engines share (R284 to R309): their operands, their results, and what the reads of their operands leave of
the core and of the machine.
-/

namespace Sys2Proof.Machine

open Sys2Proof.Spec

/-! ### Steps in order -/

/-- A step that succeeds is followed by what comes after it, in the state that it reaches. -/
theorem bind_of {α β : Type} {x : Act α} {f : α → Act β} {s s' : State} {a : α} {r : Except Stop (β × State)} (h : x s = .ok (a, s'))
    (hf : f a s' = r) : (x >>= f) s = r := (bind_ok x f s s' a h).trans hf

/-- A trap whose condition holds is raised, whatever would follow. -/
theorem trapIf_raises {β : Type} {b : Bool} {c : Nat} {v : Word} {f : Unit → Act β} {s : State} (h : b = true) :
    (trapIf b c v >>= f) s = .error (.trap c v) := bind_error _ _ _ _ (by rw [trapIf_run, if_pos h])

/-- A wait for a condition that holds ends at once. -/
theorem waitUntil_ok {b : Bool} {s : State} (h : b = true) : waitUntil b s = .ok ((), s) := by rw [waitUntil_run, if_pos h]

/-- A wait for a condition that does not hold goes on, whatever would follow. -/
theorem waitUntil_waits {β : Type} {b : Bool} {f : Unit → Act β} {s : State} (h : b = false) : (waitUntil b >>= f) s = .error .wait :=
  bind_error _ _ _ _ (by rw [waitUntil_run, if_neg (by simp [h])])

/-- An instruction that has only to give a result writes it to sD and completes. -/
theorem giving_run {u : State} {d : BitVec 4} {v : Word} (h : u.core.writable d.toNat = true) :
    (do writeReg d.toNat v; retire 4 : Act Unit) u = .ok ((), giving u d v) := by
  rw [writeReg_bind _ _ _ _ h, retire_run, core_withCore, withCore_withCore]
  rfl

/-! ### What the reads of operands leave (R195) -/

/-- What does not look at the queues of a core is the same after its reads. -/
theorem Core.of_afterReads {α : Type} (f : Core → α) (hf : ∀ c q, f { c with queues := q } = f c) (c : Core) (rs : List Nat) :
    f (c.afterReads rs) = f c := by
  obtain ⟨q, hq⟩ := c.afterReads_queues rs
  rw [hq, hf]

/-- What does not look at the queues of a core is the same after a read. -/
theorem Core.of_popped {α : Type} (f : Core → α) (hf : ∀ c q, f { c with queues := q } = f c) (c : Core) (r : Nat) : f (c.popped r) = f c :=
  c.of_afterReads f hf [r]

/-- What does not look at the cores is the same after the reads of the running core. -/
theorem State.of_afterReads {α : Type} (f : State → α) (hf : ∀ s cs, f { s with cores := cs } = f s) (s : State) (rs : List Nat) :
    f (s.afterReads rs) = f s := by
  induction rs generalizing s with
  | nil => rfl
  | cons r rs ih =>
    obtain ⟨cs, hcs⟩ := s.popped_cores r
    rw [State.afterReads, ih, hcs, hf]

/-- What does not look at the cores is the same after a read of the running core. -/
theorem State.of_popped {α : Type} (f : State → α) (hf : ∀ s cs, f { s with cores := cs } = f s) (s : State) (r : Nat) : f (s.popped r) = f s :=
  s.of_afterReads f hf [r]

/-- The core's team is as it was before the read of an operand. -/
theorem team_popped (c : Core) (r : Nat) : (c.popped r).team = c.team := c.of_popped (fun c => c.team) (fun _ _ => rfl) r

/-- An earlier acquire is as it was before the reads. -/
theorem acquirePending_afterReads (c : Core) (rs : List Nat) : (c.afterReads rs).acquirePending = c.acquirePending :=
  c.of_afterReads Core.acquirePending (fun _ _ => rfl) rs

/-- A write of a register changes a core's registers, queues and poison only (R164, R195). -/
theorem Core.put_fields (c : Core) (r : Nat) (v : Word) : ∃ rs q po, c.put r v = { c with regs := rs, queues := q, poison := po } := by
  unfold Core.put
  split
  · exact ⟨c.regs, c.queues, c.poison, rfl⟩
  · split
    · exact ⟨_, c.queues, _, rfl⟩
    · exact ⟨c.regs, _, c.poison, rfl⟩

/-- What does not look at registers, queues and poison is the same after a write of a register. -/
theorem Core.of_put {α : Type} (f : Core → α) (hf : ∀ c rs q po, f { c with regs := rs, queues := q, poison := po } = f c)
    (c : Core) (r : Nat) (v : Word) : f (c.put r v) = f c := by
  obtain ⟨rs, q, po, h⟩ := c.put_fields r v
  rw [h, hf]

/-! ### Pairs of operands (R170) -/

/-- The registers of a pair are none for s0. -/
theorem pairRegs_eq (a : BitVec 4) : pairRegs a.toNat = if a = 0 then [] else [a.toNat, a.toNat + 1] := by
  unfold pairRegs
  simp only [← BitVec.toNat_inj]
  rfl

/-- A pair that can be read gives its two registers, low register first (R170). -/
theorem readPair_given {a : BitVec 4} {s : State} (h : s.core.readsOk (pairRegs a.toNat) = true) :
    readPair a.toNat s = .ok ((Spec.firstOf s.core a, Spec.secondOf s.core a), s.afterReads (pairRegs a.toNat)) := by
  rw [pairRegs_eq] at h ⊢
  rw [readPair_ok a s h]
  unfold Spec.firstOf Spec.secondOf
  by_cases ha : a = 0
  · subst ha
    rfl
  · simp only [if_neg ha]

end Sys2Proof.Machine
end

section
/-!
PROOFS. Copy jobs (R285 to R289): what COPY and COPYS check, the job that they leave in its slot, and what JWAIT and JPOLL answer.
-/

namespace Sys2Proof.Machine

open Sys2Proof.Spec

/-- Outside regions the source of a copy job lies in no window (R334). -/
theorem sourceWindow_noRegion {src : Word} {len : Nat} {s : State} (h : s.core.region = none) : sourceWindow src len s = .ok ((), s) := by
  have hw : ∀ p, windowRead p len src s = .ok ((), s) := by
    intro p
    unfold windowRead
    rw [bind_ok _ _ _ _ _ (get_run s), h]
    rfl
  unfold sourceWindow
  rw [bind_ok _ _ _ _ _ (get_run s)]
  cases copyPtr s s.cur src false with
  | none => rfl
  | some p =>
    cases p with
    | buf t b off => exact hw _
    | _ => rfl

/-- A job that is issued takes the lowest free slot, and its instruction gives its identifier and completes (R287; log 62). -/
theorem issueJob_run {w : Instr} {d : BitVec 4} {fl i : Nat} {mk : Core → Job} {u : State} (hr : u.core.region = none)
    (hw : u.core.writable d.toNat = true) (ha : u.core.acquirePending = false) (hi : u.core.freeSlot = some i) :
    let j := mk u.core
    issueJob w d fl mk u
      = .ok ((), giving (u.withCore (withJob u.core i j)) d (BitVec.ofNat 64 (j.seq * 16 + i))) := by
  intro j
  unfold issueJob
  refine bind_of (canWrite_ok _ _ hw) (bind_of (afterAcquire_ok _ ha) (bind_of (getC_run _) ?_))
  simp only [hi, hr, Option.isSome_none, Bool.false_eq_true, if_false]
  refine bind_of (modC_run _ _) (giving_run ?_)
  rw [core_withCore]
  exact hw

/-- The job of a COPY or COPYS, as its flags give it (R285). -/
theorem newJob_eq (c : Core) (stream : Option Nat) (dst src : Word) (len : Nat) (fl : BitVec 5) (scope : BitVec 3) :
    newJob c stream dst src len fl.toNat scope.toNat = copyJobOf c stream dst src len fl scope := by
  unfold newJob copyJobOf
  have h : ∀ k, (fl.toNat / 2 ^ k % 2 == 1) = fl.getLsbD k := by
    intro k
    rw [BitVec.getLsbD, Nat.testBit_eq_decide_div_mod_eq, beq_eq_decide]
  rw [← h 4, ← h 3, ← h 2]
  rfl

/-- What COPY and COPYS do once their operands are read: `lim` is the bound of the length or of the stream number (R285 to R287). -/
def copySteps (w : Instr) (d : BitVec 4) (streamed : Bool) (lim : Nat) (n dst src : Word) (len : Nat) (stream : Option Nat) (scope : BitVec 3)
    (fl : BitVec 5) : Act Unit := do
  noPoison 0 16
  noPoison 0 17
  trapIf (n.toNat / lim != 0) 7 n
  copyChecks streamed dst src len
  completionCheck (fl.toNat % 4) (vget (← getC).ext 0 0)
  sourceWindow src len
  issueJob w d fl.toNat (fun c => newJob c stream dst src len fl.toNat scope.toNat)

section

variable {w : Instr} {d : BitVec 4} {streamed : Bool} {lim len : Nat} {n dst src : Word} {stream : Option Nat} {scope : BitVec 3} {fl : BitVec 5}
  {u : State} (hp : u.core.poison.contains (0, 16) = false) (hp' : u.core.poison.contains (0, 17) = false)

include hp hp'

/-- A job whose checks pass is issued, and its identifier given (R286, R287). -/
theorem copySteps_run {i : Nat} (hn : n.toNat < lim) (hc : copyChecks streamed dst src len u = .ok ((), u))
    (he : completionCheck (fl.toNat % 4) u.core.ext[0] u = .ok ((), u)) (hr : u.core.region = none) (hw : u.core.writable d.toNat = true)
    (ha : u.core.acquirePending = false) (hi : u.core.freeSlot = some i) :
    let j := copyJobOf u.core stream dst src len fl scope
    copySteps w d streamed lim n dst src len stream scope fl u
      = .ok ((), giving (u.withCore (withJob u.core i j)) d (BitVec.ofNat 64 (j.seq * 16 + i))) := by
  intro j
  unfold copySteps
  refine bind_of (noPoison_ok _ _ _ hp) (bind_of (noPoison_ok _ _ _ hp') (bind_of (trapIf_ok _ _ ?_) (bind_of hc (bind_of (getC_run _)
    (bind_of he (bind_of (sourceWindow_noRegion hr) ?_))))))
  · simp [Nat.div_eq_of_lt hn]
  · simp only [newJob_eq]
    exact issueJob_run hr hw ha hi

/-- A length or a stream number beyond its field raises cause 7 (R286). -/
theorem copySteps_beyond (hlim : 0 < lim) (hn : lim ≤ n.toNat) : copySteps w d streamed lim n dst src len stream scope fl u = .error (.trap 7 n) := by
  unfold copySteps
  refine bind_of (noPoison_ok _ _ _ hp) (bind_of (noPoison_ok _ _ _ hp') (trapIf_raises ?_))
  have := Nat.div_pos hn hlim
  simp only [bne_iff_ne]
  omega

end

/-- COPY, once its pair and its length are read (R285). -/
theorem exec_copy_steps {d a b : BitVec 4} {scope : BitVec 3} {fl : BitVec 5} {s : State} (ht : s.core.twin = none)
    (h : s.core.readsOk (pairRegs a.toNat ++ [b.toNat]) = true) :
    let n := (s.core.afterReads (pairRegs a.toNat)).valueOf b.toNat
    ∃ act, exec (.copy d a b scope fl) s = runInstr act s ∧ act s
      = copySteps (.copy d a b scope fl) d false (2 ^ 32) n (Spec.firstOf s.core a) (Spec.secondOf s.core a) n.toNat none scope fl
          (s.afterReads (pairRegs a.toNat ++ [b.toNat])) := by
  intro n
  rw [readsOk_append, Bool.and_eq_true] at h
  refine ⟨_, runBoth_eq _ _ _ _ _ ht, ?_⟩
  refine bind_of (readPair_given h.1) ((readReg_bind _ _ _ ?_).trans ?_)
  · rw [core_afterReads]
    simpa [Core.readsOk] using h.2
  · rw [core_afterReads, state_afterReads_append]
    rfl

/-- COPYS, once its stream and its source are read (R285). -/
theorem exec_copys_steps {d a b : BitVec 4} {scope : BitVec 3} {fl : BitVec 5} {s : State} (ht : s.core.twin = none)
    (h : s.core.readsOk [a.toNat, b.toNat] = true) :
    let n := s.core.valueOf a.toNat
    ∃ act, exec (.copys d a b scope fl) s = runInstr act s ∧ act s
      = copySteps (.copys d a b scope fl) d true (2 ^ 12) n 0 ((s.core.popped a.toNat).valueOf b.toNat) 1024 (some n.toNat) scope fl
          (s.afterReads [a.toNat, b.toNat]) :=
  ⟨_, runBoth_eq _ _ _ _ _ ht, readTwo_bind _ _ _ _ h⟩

/-- JWAIT of a job that has ended, or whose slot has gone on, gives the status (R289). -/
theorem exec_jwait_ended {d a : BitVec 4} {s t : State} (htwin : s.core.twin = none) (ht : s.terminated = t) (ha : t.core.readable a.toNat = true)
    (hw : (t.core.popped a.toNat).writable d.toNat = true) (hr : t.core.jobStatus (t.core.valueOf a.toNat) ≠ 1) :
    exec (.jwait d a) s = .next (giving (t.popped a.toNat) d (BitVec.ofNat 64 (t.core.jobStatus (t.core.valueOf a.toNat)))) := by
  have hw' : (t.popped a.toNat).core.writable d.toNat = true := by rwa [core_popped]
  rw [exec_jwait, execJwait, runTermOnce_eq _ _ _ _ _ htwin, ht]
  refine runInstr_ok _ _ _ ((readReg_bind _ _ _ ha).trans (bind_of (canWrite_ok _ _ hw') (bind_of (getC_run _) ?_)))
  rw [core_popped, t.core.of_popped (fun c => c.jobStatus (t.core.valueOf a.toNat)) (fun _ _ => rfl)]
  exact bind_of (waitUntil_ok (bne_iff_ne.mpr hr)) (giving_run hw')

/-- JPOLL gives the status at once (R289). -/
theorem exec_jpoll_run {d a : BitVec 4} {s : State} (htwin : s.core.twin = none) (ha : s.core.readable a.toNat = true)
    (hw : (s.core.popped a.toNat).writable d.toNat = true) :
    exec (.jpoll d a) s = .next (giving (s.popped a.toNat) d (BitVec.ofNat 64 (s.core.jobStatus (s.core.valueOf a.toNat)))) := by
  rw [exec_jpoll, execJpoll, runOnce_eq _ _ _ _ _ htwin]
  refine runInstr_ok _ _ _ ((readReg_bind _ _ _ ha).trans (bind_of (getC_run _) ?_))
  rw [core_popped, s.core.of_popped (fun c => c.jobStatus (s.core.valueOf a.toNat)) (fun _ _ => rfl)]
  exact giving_run (by rwa [core_popped])

/-- Settles O39: COPY and COPYS are one list of steps after their reads; JWAIT and JPOLL give the status of the slot. -/
theorem copyJobs : Obligations.CopyJobs := by
  refine ⟨?_, ?_⟩
  · intro d a b scope fl s i dst src n rs streamed c x instr job hrs htwin hr hreads hp hp'
    have hregion : x.core.region = none := region_afterReads rs hr
    have hcore : x.core = c := core_afterReads s rs
    rw [← hcore] at hp hp'
    have hsteps : ∃ act, exec instr s = runInstr act s ∧ act s = copySteps instr d streamed (if streamed then 2 ^ 12 else 2 ^ 32) n
        (if streamed then 0 else dst) src (if streamed then 1024 else n.toNat) (if streamed then some n.toNat else none) scope fl x := by
      cases streamed with
      | false =>
        obtain ⟨rfl, rfl, rfl, rfl⟩ := hrs
        exact exec_copy_steps htwin hreads
      | true =>
        obtain ⟨rfl, rfl, rfl⟩ := hrs
        exact exec_copys_steps htwin hreads
    obtain ⟨act, hexec, hact⟩ := hsteps
    have hlim : 0 < (if streamed then 2 ^ 12 else 2 ^ 32) := by split <;> decide
    refine ⟨fun hn hc he hw ha hi => ?_, fun hn => ?_⟩
    · rw [← hcore] at he hw ha hi
      rw [hexec, runInstr_ok _ _ _ (hact.trans (copySteps_run hp hp' hn hc he hregion hw ha hi)), hcore, giving, core_withCore,
        withCore_withCore, withCore_afterReads]
    · rw [hexec, runInstr_trap _ _ _ _ (hact.trans (copySteps_beyond hp hp' hlim hn))]
  · intro d a s r t status htwin
    have hstatus : ∀ c x, status c x = c.jobStatus x := fun _ _ => rfl
    simp only [hstatus]
    refine ⟨fun ha hw hr hne => ?_, fun ha hw hr => ?_⟩
    · subst hr
      exact exec_jwait_ended htwin rfl ha hw hne
    · subst hr
      exact exec_jpoll_run htwin ha hw

end Sys2Proof.Machine
end


section
/-!
PROOFS. Handles (R290 to R292): HCFG, HWAIT with its wait, HADVC and HADVP.
-/

namespace Sys2Proof.Machine

open Sys2Proof.Spec

/-- A handle of a core, by its number. -/
theorem handle_eq (c : Core) (h : BitVec 3) : c.handle h.toNat = c.handles[h.toNat] := by
  simp [Core.handle, vget, h.isLt]

/-- A change of a handle replaces it. -/
theorem modHandle_eq (c : Core) (h : BitVec 3) (f : Handle → Handle) : c.modHandle h.toNat f = withHandle c h (f c.handles[h.toNat]) := by
  simp [Core.modHandle, withHandle, vset, handle_eq, h.isLt]

/-- A handle after the reads of operands. -/
theorem handle_afterReads (c : Core) (rs : List Nat) (h : Nat) : (c.afterReads rs).handle h = c.handle h :=
  c.of_afterReads (fun c => c.handle h) (fun _ _ => rfl) rs

/-- A wait of HWAIT, HADVC or HADVP leaves the core where its instruction began. -/
theorem runInstr_stalled {act : Act Unit} {s : State} (h : act s = .error .wait) :
    runInstr act s = .next (s.withCore { s.core with stalled := true }) := (runInstr_wait act s h).trans (congrArg _ (modCoreAt_cur s _))

/-! ### HCFG (R290) -/

/-- The size and count that HCFG's second operand gives are within their ranges, and the slots from an offset lie in the A buffer (R290). -/
def SlotsFit (q off : Nat) : Prop :=
  q < 2 ^ 25 ∧ q % 65536 % 128 = 0 ∧ 128 ≤ q % 65536 ∧ q % 65536 ≤ 32768 ∧ 1 ≤ q / 65536 % 512 ∧ q / 65536 % 512 ≤ 256
    ∧ off + q % 65536 * (q / 65536 % 512) ≤ 65536

/-- The handle that HCFG configures, with no filled slot (R290). -/
def configured (q off : Nat) : Handle :=
  { base := off, size := q % 65536, count := q / 65536 % 512, head := 0, tail := 0, filled := 0, freedHeld := 0, stream := none }

section

variable {a : BitVec 4} {h : BitVec 3} {s t u : State} (htwin : s.core.twin = none) (ht : s.terminated = t)
  (hreads : t.core.readsOk (pairRegs a.toNat) = true) (hu : t.afterReads (pairRegs a.toNat) = u)

include htwin ht hreads hu

/-- HCFG of an aligned base in the core's own claimed A buffer configures its handle (R290). -/
theorem exec_hcfg_configures {off q : Nat} {p : Word} (hp : Spec.firstOf t.core a = p) (hq : (Spec.secondOf t.core a).toNat = q)
    (hs : u.core.handles[h.toNat].stream = none) (hd : decodePtr u u.cur p = some (.buf u.cur .bufA off)) (hal : p.toNat % 128 = 0)
    (hcl : claims u.core .bufA = true) (hfit : SlotsFit q off) :
    exec (.hcfg a h) s = .next (u.withCore ((withHandle u.core h (configured q off)).advance 4)) := by
  obtain ⟨hq25, hm, h1, h2, h3, h4, h5⟩ := hfit
  have hsize : bits q 15 0 = q % 65536 := by simp [bits]
  have hcount : bits q 24 16 = q / 65536 % 512 := rfl
  rw [exec_hcfg, execHcfg, runTerm_eq _ _ htwin, ht]
  refine runInstr_ok _ _ _ (bind_of (readPair_given hreads) ?_)
  rw [hu, hp]
  refine bind_of (get_run _) (bind_of (trapIf_ok _ _ (by rw [handle_eq, hs]; rfl)) ?_)
  simp only [hd, hq, hsize, hcount]
  refine bind_of (trapIf_ok _ _ (by simp [hal, hcl])) (bind_of (trapIf_ok _ _ ?_) (bind_of (trapIf_ok _ _ ?_) ?_))
  · simp [hm]
    omega
  · exact decide_eq_false (by omega)
  · refine bind_of (modC_run _ _) ?_
    rw [retire_run, core_withCore, withCore_withCore, modHandle_eq]
    rfl

/-- HCFG of a subscribed handle raises cause 34 (R290). -/
theorem exec_hcfg_subscribed (hs : u.core.handles[h.toNat].stream ≠ none) :
    exec (.hcfg a h) s = .next (raiseTrap t t.cur 34 (BitVec.ofNat 64 h.toNat)) := by
  rw [exec_hcfg, execHcfg, runTerm_eq _ _ htwin, ht]
  refine runInstr_trap _ _ _ _ (bind_of (readPair_given hreads) ?_)
  rw [hu]
  exact bind_of (get_run _) (trapIf_raises (by rw [handle_eq]; exact Option.isSome_iff_ne_none.mpr hs))

end

/-! ### HWAIT (R291) -/

section

variable {d a : BitVec 4} {h : BitVec 3} {s : State} {hd : Handle} {n : Int} (ha : s.core.readable a.toNat = true)
  (hw : (s.core.popped a.toNat).writable d.toNat = true) (hh : (s.core.popped a.toNat).handles[h.toNat] = hd)
  (hn : (s.core.valueOf a.toNat).toInt = n)

include ha hw hh hn

/-- HWAIT for more slots than the handle has raises cause 34 (R291). -/
theorem exec_hwait_beyond (hc : hd.count < n.natAbs) : exec (.hwait d a h) s = .next (raiseTrap s s.cur 34 (BitVec.ofNat 64 h.toNat)) := by
  rw [exec_hwait, execHwait]
  refine runInstr_trap _ _ _ _ ((readReg_bind _ _ _ ha).trans ?_)
  rw [bind_ok _ _ _ _ _ (canWrite_ok _ _ (by rwa [core_popped])), bind_ok _ _ _ _ _ (getC_run _), core_popped, handle_eq, hh, hn]
  exact trapIf_raises (decide_eq_true hc)

/-- What HWAIT does for a count that its handle can have: it asks for filled slots, for none, or for free ones (R291). -/
theorem exec_hwait_steps (hc : n.natAbs ≤ hd.count) : ∃ act, exec (.hwait d a h) s = runInstr act s ∧ act s
    = (do
        if n = 0 then writeReg d.toNat (word hd.filled)
        else if 0 < n then
          waitUntil (n.natAbs ≤ hd.filled)
          writeReg d.toNat (hd.slotPtr hd.head)
        else
          waitUntil (n.natAbs ≤ hd.count - hd.filled)
          writeReg d.toNat (hd.slotPtr hd.tail)
        retire 4 : Act Unit) (s.popped a.toNat) := by
  refine ⟨_, rfl, (readReg_bind _ _ _ ha).trans ?_⟩
  rw [bind_ok _ _ _ _ _ (canWrite_ok _ _ (by rwa [core_popped])), bind_ok _ _ _ _ _ (getC_run _), core_popped, handle_eq, hh, hn]
  exact bind_ok _ _ _ _ _ (trapIf_ok _ _ (decide_eq_false (by omega)))

/-- HWAIT for no slot gives the number of the filled ones (R291). -/
theorem exec_hwait_none (h0 : n = 0) : exec (.hwait d a h) s = .next (giving (s.popped a.toNat) d (BitVec.ofNat 64 hd.filled)) := by
  obtain ⟨act, hexec, hact⟩ := exec_hwait_steps ha hw hh hn (by omega)
  rw [hexec]
  refine runInstr_ok _ _ _ (hact.trans ?_)
  rw [if_pos h0]
  exact giving_run (by rwa [core_popped])

/-- HWAIT for filled slots gives the head slot once enough are filled (R291). -/
theorem exec_hwait_filled (h0 : 0 < n) (hc : n.natAbs ≤ hd.count) (hf : n.natAbs ≤ hd.filled) :
    exec (.hwait d a h) s = .next (giving (s.popped a.toNat) d (hd.slotPtr hd.head)) := by
  obtain ⟨act, hexec, hact⟩ := exec_hwait_steps ha hw hh hn hc
  rw [hexec]
  refine runInstr_ok _ _ _ (hact.trans ?_)
  rw [if_neg (by omega), if_pos h0]
  refine bind_of (waitUntil_ok (decide_eq_true hf)) ?_
  exact giving_run (by rwa [core_popped])

/-- HWAIT for free slots gives the tail slot once enough are free (R291). -/
theorem exec_hwait_free (h0 : n < 0) (hc : n.natAbs ≤ hd.count) (hf : n.natAbs ≤ hd.count - hd.filled) :
    exec (.hwait d a h) s = .next (giving (s.popped a.toNat) d (hd.slotPtr hd.tail)) := by
  obtain ⟨act, hexec, hact⟩ := exec_hwait_steps ha hw hh hn hc
  rw [hexec]
  refine runInstr_ok _ _ _ (hact.trans ?_)
  rw [if_neg (by omega), if_neg (by omega)]
  refine bind_of (waitUntil_ok (decide_eq_true hf)) ?_
  exact giving_run (by rwa [core_popped])

/-- HWAIT stalls while too few slots are filled or free (R291, R309). -/
theorem exec_hwait_waits (hc : n.natAbs ≤ hd.count) (hf : 0 < n ∧ hd.filled < n.natAbs ∨ n < 0 ∧ hd.count - hd.filled < n.natAbs) :
    exec (.hwait d a h) s = .next (s.withCore { s.core with stalled := true }) := by
  obtain ⟨act, hexec, hact⟩ := exec_hwait_steps ha hw hh hn hc
  rw [hexec]
  refine runInstr_stalled (hact.trans ?_)
  rw [if_neg (by omega)]
  rcases hf with ⟨h0, hf⟩ | ⟨h0, hf⟩
  · rw [if_pos h0]
    exact waitUntil_waits (decide_eq_false (by omega))
  · rw [if_neg (by omega)]
    exact waitUntil_waits (decide_eq_false (by omega))

end

/-! ### HADVC and HADVP (R292) -/

/-- The handle after an advance of m by its producer or by its consumer, outside regions (R292). -/
def advanced (y : Handle) (producer : Bool) (m : Nat) : Handle := if producer then y.produce m else y.consume m false

/-- An advance outside regions replaces its handle and gives the core's next stamp; no region counts it (R292). -/
theorem movedCore_eq {c : Core} {h : BitVec 3} {producer : Bool} {m : Nat} (hr : c.region = none) :
    ({ (c.modHandle h.toNat (fun hd => if producer then hd.produce m else hd.consume m c.region.isSome)) with
        region := c.region.map (fun r => r.moved producer h.toNat m), stamp := c.stamp + 1 } : Core)
      = { withHandle c h (advanced c.handles[h.toNat] producer m) with stamp := c.stamp + 1 } := by
  rw [modHandle_eq, hr]
  simp only [withHandle, hr]
  cases producer <;> rfl

section

variable {w : Instr} {producer : Bool} {d a : BitVec 4} {h : BitVec 3} {s : State} {c : Core} {hd : Handle} {m : Nat}
  (ha : s.core.readable a.toNat = true) (hw : (s.core.popped a.toNat).writable d.toNat = true) (hc : s.core.popped a.toNat = c)
  (hh : c.handles[h.toNat] = hd) (hm : (s.core.valueOf a.toNat).toNat = m)

include ha hw hc hh hm

/-- An advance beyond what is filled or free raises cause 34 (R292). -/
theorem advance_beyond (hb : (if producer then hd.count - hd.filled else hd.filled) < m) :
    runInstr (advance w producer d a h) s = .next (raiseTrap s s.cur 34 (BitVec.ofNat 64 h.toNat)) := by
  refine runInstr_trap _ _ _ _ ((readReg_bind _ _ _ ha).trans ?_)
  rw [bind_ok _ _ _ _ _ (canWrite_ok _ _ (by rwa [core_popped])), bind_ok _ _ _ _ _ (getC_run _), core_popped, hc, handle_eq, hh, hm]
  refine trapIf_raises ?_
  cases producer with
  | false => exact decide_eq_true hb
  | true => exact decide_eq_true hb

/-- An advance outside regions of what is filled or free moves its handle and gives the number of filled slots (R292). -/
theorem advance_moves (hr : c.region = none) (hb : m ≤ if producer then hd.count - hd.filled else hd.filled)
    (hbusy : producer = true ∨ c.handleBusy h.toNat = false) :
    let y := advanced hd producer m
    runInstr (advance w producer d a h) s
      = .next (giving (s.withCore { withHandle c h y with stamp := c.stamp + 1 }) d (BitVec.ofNat 64 y.filled)) := by
  intro y
  refine runInstr_ok _ _ _ ((readReg_bind _ _ _ ha).trans ?_)
  rw [bind_ok _ _ _ _ _ (canWrite_ok _ _ (by rwa [core_popped])), bind_ok _ _ _ _ _ (getC_run _), core_popped, hc, handle_eq, hh, hm]
  refine bind_of (trapIf_ok _ _ ?_) (bind_of (waitUntil_ok ?_) ?_)
  · cases producer with
    | false => exact decide_eq_false (by simpa using hb)
    | true => exact decide_eq_false (by simpa using hb)
  · rcases hbusy with rfl | hbusy
    · rfl
    · rw [hbusy, Bool.not_false, Bool.or_true]
  · rw [hr]
    simp only [Option.isSome_none, Bool.false_eq_true, if_false]
    refine bind_of (a := ()) (s' := s.withCore { withHandle c h y with stamp := c.stamp + 1 }) ?_ (bind_of (getC_run _) ?_)
    · rw [modC_run, withCore_popped, core_popped, hc, movedCore_eq hr, hh]
    · have hy : (withHandle c h y).handle h.toNat = y := by rw [handle_eq]; simp [withHandle]
      rw [core_withCore]
      refine (congrArg (fun z => (do writeReg d.toNat (word z); retire 4 : Act Unit) _) (congrArg Handle.filled hy)).trans (giving_run ?_)
      rw [core_withCore, ← hc]
      exact hw

end

/-- Settles O40: HCFG by its checks, HWAIT by what it asks for, HADVC and HADVP as the two sides of one advance. -/
theorem handles : Obligations.Handles := by
  constructor
  · intro a h s off t rs c p q size count htwin hreads
    have hcore : (t.afterReads rs).core = c := core_afterReads t rs
    have hcur : (t.afterReads rs).cur = t.cur := cur_afterReads t rs
    refine ⟨fun hs hd hal hcl hq hm h1 h2 h3 h4 h5 => ?_, fun hs => ?_⟩
    · have hrun := exec_hcfg_configures htwin rfl hreads rfl rfl rfl (by rwa [hcore]) (by rwa [hcur]) hal (by rwa [hcore])
        ⟨hq, hm, h1, h2, h3, h4, h5⟩ (h := h)
      rwa [hcore, withCore_afterReads] at hrun
    · rw [exec_hcfg_subscribed htwin rfl hreads rfl (by rwa [hcore]), cur_terminated]
  · intro d a h s c x n m hd used added moved ha hw
    refine ⟨exec_hwait_beyond ha hw rfl rfl, exec_hwait_none ha hw rfl rfl, exec_hwait_filled ha hw rfl rfl, exec_hwait_free ha hw rfl rfl,
      exec_hwait_waits ha hw rfl rfl, fun hr hb hbusy => ?_, fun hr hb => ?_, advance_beyond ha hw rfl rfl rfl (producer := false),
      advance_beyond ha hw rfl rfl rfl (producer := true)⟩
    · exact (advance_moves ha hw rfl rfl rfl hr (producer := false) hb (.inr hbusy)).trans (by rw [giving, core_withCore, withCore_withCore]; rfl)
    · exact (advance_moves ha hw rfl rfl rfl hr (producer := true) hb (.inl rfl)).trans (by rw [giving, core_withCore, withCore_withCore]; rfl)

end Sys2Proof.Machine
end


section
/-!
PROOFS. Streams (R293 to R295): SUBSCR, UNSUB and SPUB.
-/

namespace Sys2Proof.Machine

open Sys2Proof.Spec

/-! ### Subscriptions (R293) -/

/-- The commands of the core reach the distributor in its order (R121, R128). -/
theorem distributorTurn_ok {s : State} (h : distributorFree s.core = true) : distributorTurn s = .ok ((), s) := by
  simp only [distributorFree, Bool.and_eq_true, Bool.not_eq_true'] at h
  exact bind_of (afterAcquire_ok _ h.1) (bind_of (getC_run _) (waitUntil_ok h.2))

/-- The running core, which has no twin, with the stream of a handle replaced. -/
def State.subscribed (s : State) (h : BitVec 3) (n : Option Nat) : State :=
  s.withCore (withHandle s.core h { s.core.handles[h.toNat] with stream := n })

/-- A core whose handle is subscribed can write the same registers. -/
theorem writable_subscribed (s : State) (h : BitVec 3) (n : Option Nat) (r : Nat) : (s.subscribed h n).core.writable r = s.core.writable r := by
  rw [State.subscribed, core_withCore]
  rfl

/-- A change of a stream leaves the running core. -/
theorem core_modStreamAt (s : State) (n : Nat) (f : Stream → Stream) : (modStreamAt s n f).core = s.core := rfl

/-- On a core without a twin one handle is subscribed (R293, R414). -/
theorem setSubscribed_alone {s : State} (h : BitVec 3) (n : Option Nat) (ht : s.core.twin = none) :
    setSubscribed s s.cur h.toNat n = s.subscribed h n := by
  have hs : modCoreAt s s.cur (fun c => c.modHandle h.toNat (fun x => { x with stream := n })) = s.subscribed h n := by
    rw [modCoreAt_cur, modHandle_eq]
    rfl
  have htwin : (coreAt (s.subscribed h n) s.cur).twin = none := by
    show (s.subscribed h n).core.twin = none
    rw [State.subscribed, core_withCore]
    exact ht
  simp only [setSubscribed, hs, htwin]

/-- A handle of the running core may subscribe to a stream: it has room for an item and no stream, and the stream has room for the core (R293). -/
def MaySubscribe (s : State) (h : BitVec 3) (x : Word) : Prop :=
  let hd := s.core.handles[h.toNat]
  let st := streamAt s x.toNat
  x.toNat < 4096 ∧ hd.count ≠ 0 ∧ 1024 ≤ hd.size ∧ hd.stream = none ∧ st.subs.length < 256 ∧ (st.tree = [] ∨ s.cur ∈ st.tree)

/-- SUBSCR answers 0 where the handle may subscribe (R293). -/
theorem subscribeStatus_zero {s : State} {h : BitVec 3} {x : Word} (hm : MaySubscribe s h x) : subscribeStatus s s.cur h.toNat x = 0 := by
  obtain ⟨hx, hc, hsz, hst, hsub, htree⟩ := hm
  have hh : (coreAt s s.cur).handle h.toNat = s.core.handles[h.toNat] := handle_eq s.core h
  simp only [subscribeStatus, hh, hst]
  rw [if_neg (by omega), if_neg (by simp; omega), if_neg]
  rcases htree with h0 | h0
  · simp [h0]
  · simp [h0]

/-- SUBSCR of a stream beyond the last answers -1 (R293). -/
theorem subscribeStatus_noStream {s : State} {h : Nat} {x : Word} (hx : 4096 ≤ x.toNat) : subscribeStatus s s.cur h x = -1 := by
  simp only [subscribeStatus]
  rw [if_pos (by omega)]

/-- A core without a twin has none in the state in which a terminating instruction has read its operand. -/
theorem twin_operand {s t u : State} {r : Nat} (htwin : s.core.twin = none) (ht : s.terminated = t) (hu : t.popped r = u) :
    u.core.twin = none := by
  rw [← hu, core_popped, t.core.of_popped (fun c => c.twin) (fun _ _ => rfl), ← ht, twin_terminated, htwin]

section

variable {d a : BitVec 4} {h : BitVec 3} {s t u : State} {x : Word} (htwin : s.core.twin = none) (ht : s.terminated = t)
  (ha : t.core.readable a.toNat = true) (hx : t.core.valueOf a.toNat = x) (hu : t.popped a.toNat = u)
  (hw : u.core.writable d.toNat = true) (hfree : distributorFree u.core = true)

include htwin ht ha hx hu hw hfree

/-- SUBSCR of a handle that may subscribe adds the subscription and gives 0 (R293). -/
theorem exec_subscr_adds (hm : MaySubscribe u h x) :
    exec (.subscr d a h) s = .next (giving (modStreamAt (u.subscribed h (some x.toNat)) x.toNat
      (fun y => { y with subs := y.subs ++ [(u.cur, 8 * u.core.team.getD 0 + h.toNat)] })) d 0) := by
  have hut := twin_operand htwin ht hu
  rw [exec_subscr, execSubscr, runTermOnce_eq _ _ _ _ _ htwin, ht]
  refine runInstr_ok _ _ _ ((readReg_bind _ _ _ ha).trans ?_)
  rw [hx, hu]
  refine bind_of (distributorTurn_ok hfree) (bind_of (get_run _) ?_)
  simp only [subscribeStatus_zero hm, if_true]
  refine bind_of (modify_run _ _) ?_
  rw [setSubscribed_alone _ _ hut]
  exact giving_run (v := 0) (by rwa [core_modStreamAt, writable_subscribed])

/-- SUBSCR that answers an error changes no subscription (R293). -/
theorem exec_subscr_refuses {r : Int} (hr : subscribeStatus u u.cur h.toNat x = r) (h0 : r ≠ 0) :
    exec (.subscr d a h) s = .next (giving u d (BitVec.ofInt 64 r)) := by
  rw [exec_subscr, execSubscr, runTermOnce_eq _ _ _ _ _ htwin, ht]
  refine runInstr_ok _ _ _ ((readReg_bind _ _ _ ha).trans ?_)
  rw [hx, hu]
  refine bind_of (distributorTurn_ok hfree) (bind_of (get_run _) ?_)
  simp only [hr, h0, if_false]
  exact giving_run hw

/-- UNSUB of the handle's own stream removes the subscription and gives 0 (R293; log 26). -/
theorem exec_unsub_removes (hlim : x.toNat < 4096) (hs : u.core.handles[h.toNat].stream = some x.toNat) :
    exec (.unsub d a h) s = .next (giving (modStreamAt (u.subscribed h none) x.toNat
      (fun y => y.drop (u.cur, 8 * u.core.team.getD 0 + h.toNat))) d 0) := by
  have hut := twin_operand htwin ht hu
  rw [exec_unsub, execUnsub, runTermOnce_eq _ _ _ _ _ htwin, ht]
  refine runInstr_ok _ _ _ ((readReg_bind _ _ _ ha).trans ?_)
  rw [hx, hu]
  refine bind_of (distributorTurn_ok hfree) (bind_of (get_run _) ?_)
  rw [if_pos ⟨by omega, by rwa [handle_eq]⟩]
  refine bind_of (modify_run _ _) ?_
  rw [setSubscribed_alone _ _ hut]
  exact giving_run (v := 0) (by rwa [core_modStreamAt, writable_subscribed])

/-- UNSUB of another stream gives -1 (R293). -/
theorem exec_unsub_refuses (hs : u.core.handles[h.toNat].stream ≠ some x.toNat) :
    exec (.unsub d a h) s = .next (giving u d (-1)) := by
  rw [exec_unsub, execUnsub, runTermOnce_eq _ _ _ _ _ htwin, ht]
  refine runInstr_ok _ _ _ ((readReg_bind _ _ _ ha).trans ?_)
  rw [hx, hu]
  refine bind_of (distributorTurn_ok hfree) (bind_of (get_run _) ?_)
  rw [if_neg (by rw [handle_eq]; exact fun hc => hs hc.2)]
  exact giving_run hw

end

/-! ### SPUB (R294) -/

/-- There are 4096 streams. -/
theorem beyondStreams_eq (y : Word) : (y.toNat / 2 ^ 12 != 0) = decide (4096 ≤ y.toNat) := by
  rw [Bool.eq_iff_iff, bne_iff_ne, decide_eq_true_iff]
  omega

/-- What the running core sends to the distributor with SPUB: the eight rows of its tile (R294). -/
def State.publishing (s : State) (n : Nat) (h : BitVec 3) : State :=
  modCoreAt s s.cur (fun c => { c with
    command := some (.spub n ((List.range 8).map (fun r => s.core.row h.toNat r))), wait := some .reply, stamp := c.stamp + 1 })

section

variable {a : BitVec 4} {h : BitVec 3} {s : State} {y : Word} (htwin : s.core.twin = none) (ha : s.core.readable a.toNat = true)
  (hy : s.core.valueOf a.toNat = y)

include htwin ha hy

/-- SPUB to a stream beyond the last raises cause 7 (R294). -/
theorem exec_spub_noStream (hlim : 4096 ≤ y.toNat) : exec (.spub a h) s = .next (raiseTrap s s.cur 7 y) := by
  rw [exec_spub, execSpub, runBoth_eq _ _ _ _ _ htwin]
  refine runInstr_trap _ _ _ _ (bind_of (get_run _) ((readReg_bind _ _ _ ha).trans ?_))
  rw [hy]
  exact trapIf_raises (by rw [beyondStreams_eq, decide_eq_true hlim])

/-- SPUB whose answer has come completes (R294). -/
theorem exec_spub_answered (hlim : y.toNat < 4096) (hr : s.core.reply.isSome = true) :
    exec (.spub a h) s = .next (s.withCore ((s.core.popped a.toNat).advance 4)) := by
  rw [exec_spub, execSpub, runBoth_eq _ _ _ _ _ htwin]
  refine runInstr_ok _ _ _ (bind_of (get_run _) ((readReg_bind _ _ _ ha).trans ?_))
  rw [hy]
  refine bind_of (trapIf_ok _ _ (by rw [beyondStreams_eq, decide_eq_false (by omega)])) ?_
  rw [if_pos hr, retire_run, core_popped, withCore_popped]

/-- SPUB outside regions that has begun no wait sends the rows of its tile to the distributor, and waits (R294). -/
theorem exec_spub_sends (hlim : y.toNat < 4096) (hb : begins s.core = true) (hl : s.core.tileLocked h.toNat = false)
    (hp : s.core.tilePending h.toNat = false) (hrows : rowsClean s.core h.toNat 8 = true) (hacq : s.core.acquirePending = false)
    (hr : s.core.region = none) :
    exec (.spub a h) s = .next (s.withCore { s.core with
      command := some (.spub y.toNat ((List.range 8).map (fun r => s.core.row h.toNat r))), wait := some .reply
      stamp := s.core.stamp + 1, stalled := true }) := by
  obtain ⟨hwait, hreply⟩ : s.core.wait = none ∧ s.core.reply = none := by simpa [begins] using hb
  have hregion : (s.afterReads [a.toNat]).core.region = none := region_afterReads [a.toNat] hr
  have htw : isTwin s s.cur = false := by
    have hk : (coreAt s s.cur).twin = none := htwin
    rw [isTwin, hk]
  have hrow : ∀ r, (s.afterReads [a.toNat]).core.row h.toNat r = s.core.row h.toNat r := by
    rw [core_afterReads]
    exact row_afterReads s.core [a.toNat] h.toNat
  have hclean : ∀ r, r < 8 → (s.popped a.toNat).core.poison.contains (0, 64 + 8 * h.toNat + r) = false := by
    rw [core_popped, poison_popped]
    exact rowsClean_iff.mp hrows
  have hacq' : (s.popped a.toNat).core.acquirePending = false := by
    rw [core_popped]
    exact (acquirePending_afterReads s.core [a.toNat]).trans hacq
  rw [exec_spub, execSpub, runBoth_eq _ _ _ _ _ htwin]
  refine (runInstr_block _ _ (s.publishing y.toNat h) (bind_of (get_run _) ((readReg_bind _ _ _ ha).trans ?_))).trans ?_
  · rw [hy]
    refine bind_of (trapIf_ok _ _ (by rw [beyondStreams_eq, decide_eq_false (by omega)])) ?_
    rw [if_neg (by simp [hreply]), if_neg (by simp [hwait])]
    refine bind_of (tilesFree_afterReads [a.toNat] (by simp [hl, hp])) (bind_of (useTiles_noRegion _ _ _ hregion)
      (bind_of (cleanRows_ok _ _ _ hclean) (bind_of (afterAcquire_ok _ hacq') (bind_of (getC_run _) ?_))))
    simp only [hregion, htw, hrow, Option.isSome_none, Bool.false_eq_true, if_false]
    rfl
  · rw [State.publishing, modCoreAt_modCoreAt]
    rfl

end

end Sys2Proof.Machine
end


section
/-!
PROOFS. Tree tables (R306, R307): TREELD removes the tree of a stream, or loads one from memory.
-/

namespace Sys2Proof.Machine

open Sys2Proof.Spec

/-- A table whose loads stay in the core is gathered at once: its header, and then the nodes that the header announces (R307). -/
theorem treeTable_here {s0 z s1 s2 s3 s4 : State} {x : Word} {header : Nat} {ws : List Nat} {head : Word × Nat × (Place × Policy)}
    {els : List (Word × Nat × (Place × Policy))} (hr : s0.core.reply = none) (hhead : tablePlace x z = .ok (head, s1))
    (haway : head.2.2.1.away s0.cur = false) (hh : gather s0 [head] s1 = .ok ([header], s2))
    (hels : (List.range (treeNodes header)).mapM (fun i => tablePlace (x + BitVec.ofNat 64 (8 + 8 * i))) s2 = .ok (els, s3))
    (hws : gather s0 els s3 = .ok (ws, s4)) : treeTable s0 x z = .ok ((header, ws), s4) := by
  unfold treeTable
  rw [hr]
  refine bind_of hhead ?_
  rw [if_neg (by simp [haway])]
  exact bind_of hh (bind_of hels (bind_of hws rfl))

section

variable {d a b : BitVec 4} {s t u : State} {x y : Word} (htwin : s.core.twin = none) (ht : s.terminated = t)
  (hreads : t.core.readsOk [a.toNat, b.toNat] = true) (hx : t.core.valueOf a.toNat = x) (hy : (t.core.popped a.toNat).valueOf b.toNat = y)
  (hu : t.afterReads [a.toNat, b.toNat] = u) (hw : u.core.writable d.toNat = true) (hlim : y.toNat < 4096)

include htwin ht hreads hx hy hu hw hlim

/-- TREELD from address 0 removes the tree of a stream that has no subscription and no item (R307). -/
theorem exec_treeld_removes (h0 : x = 0) (hs : (streamAt t y.toNat).subs = []) (hq : (streamAt t y.toNat).queue = []) :
    exec (.treeld d a b) s = .next (giving (modStreamAt u y.toNat (fun w => { w with tree := [], team := none })) d 0) := by
  rw [exec_treeld, execTreeld, runTermOnce_eq _ _ _ _ _ htwin, ht]
  refine runInstr_ok _ _ _ (bind_of (get_run _) ((readTwo_bind _ _ _ _ hreads).trans ?_))
  rw [hx, hy, hu]
  refine bind_of (canWrite_ok _ _ hw) ?_
  rw [if_neg (by omega), if_pos h0, if_neg (by simp [hs, hq])]
  exact bind_of (modify_run _ _) (giving_run hw)

/-- TREELD from address 0 of a stream with a subscription gives -5 (R307). -/
theorem exec_treeld_subscribed (h0 : x = 0) (hs : (streamAt t y.toNat).subs ≠ []) :
    exec (.treeld d a b) s = .next (giving u d (-5)) := by
  rw [exec_treeld, execTreeld, runTermOnce_eq _ _ _ _ _ htwin, ht]
  refine runInstr_ok _ _ _ (bind_of (get_run _) ((readTwo_bind _ _ _ _ hreads).trans ?_))
  rw [hx, hy, hu]
  refine bind_of (canWrite_ok _ _ hw) ?_
  rw [if_neg (by omega), if_pos h0, if_pos (by simp [hs])]
  exact giving_run hw

/-- TREELD of a table that is a tree gives its cores to the stream, with the core's team (R307). -/
theorem exec_treeld_loads {z : State} {header : Nat} {ws cores : List Nat} (h0 : x ≠ 0) (htable : treeTable t x u = .ok ((header, ws), z))
    (hn : treeNodes header ≠ 0) (hstatus : treeStatus t y.toNat header ws = (0, cores)) (hwz : z.core.writable d.toNat = true) :
    exec (.treeld d a b) s = .next (giving (modStreamAt z y.toNat (fun w => { w with tree := cores, team := z.core.team })) d 0) := by
  rw [exec_treeld, execTreeld, runTermOnce_eq _ _ _ _ _ htwin, ht]
  refine runInstr_ok _ _ _ (bind_of (get_run _) ((readTwo_bind _ _ _ _ hreads).trans ?_))
  rw [hx, hy, hu]
  refine bind_of (canWrite_ok _ _ hw) ?_
  rw [if_neg (by omega), if_neg h0]
  refine bind_of htable ?_
  simp only [hn, hstatus, if_false, if_true]
  exact bind_of (modify_run _ _) (giving_run hwz)

end

/-- Settles O41: SUBSCR and UNSUB by what the handle and the stream hold, SPUB by its wait, and TREELD by its address. -/
theorem streams : Obligations.Streams := by
  intro d a b h s s1 s2 s3 s4 t c x p st hd htwin
  have hpc : p.core = c.popped a.toNat := core_popped t a.toNat
  have hcur : p.cur = s.cur := (cur_popped t a.toNat).trans (cur_terminated s)
  have hhd : p.core.handles[h.toNat] = hd := by rw [hpc]; exact c.of_popped (fun c => c.handles[h.toNat]) (fun _ _ => rfl) a.toNat
  have hteam : p.core.team = c.team := by rw [hpc, team_popped]
  have hst : streamAt p x.toNat = st := t.of_popped (fun z => streamAt z x.toNat) (fun _ _ => rfl) a.toNat
  have hsub : ∀ n, p.subscribed h n = p.withCore (withHandle (c.popped a.toNat) h { hd with stream := n }) := by
    intro n
    rw [State.subscribed, hhd, hpc]
  refine ⟨fun ha hw hfree => ?_, fun ha => ⟨exec_spub_answered htwin ha rfl, exec_spub_sends htwin ha rfl, exec_spub_noStream htwin ha rfl⟩, ?_⟩
  · rw [← hpc] at hw hfree
    refine ⟨fun hx hc hsz hs hlen htree => ?_, fun hx => ?_, fun hx hs => ?_, fun hs => ?_⟩
    · rw [exec_subscr_adds htwin rfl ha rfl rfl hw hfree ⟨hx, by rwa [hhd], by rwa [hhd], by rwa [hhd], by rwa [hst], by rwa [hst, hcur]⟩, hsub,
        hcur, hteam]
    · exact exec_subscr_refuses htwin rfl ha rfl rfl hw hfree (subscribeStatus_noStream hx) (by decide)
    · rw [exec_unsub_removes htwin rfl ha rfl rfl hw hfree hx (by rwa [hhd]), hsub, hcur, hteam]
    · exact exec_unsub_refuses htwin rfl ha rfl rfl hw hfree (by rwa [hhd])
  · intro rs y z hreads hw hlim
    have hw' : (t.afterReads rs).core.writable d.toNat = true := by rwa [core_afterReads]
    refine ⟨fun _ => exec_treeld_removes htwin rfl hreads rfl rfl rfl hw' hlim, exec_treeld_subscribed htwin rfl hreads rfl rfl rfl hw' hlim, ?_⟩
    intro header ws cores head els h0 hr hhead haway hh h1 h2 hels hws hstatus hwz
    have hn : treeNodes header = header % 8192 := if_pos h2
    rw [← hn] at hels
    exact exec_treeld_loads htwin rfl hreads rfl rfl rfl hw' hlim h0 (treeTable_here hr hhead haway hh hels hws) (by omega) hstatus hwz

end Sys2Proof.Machine
end


section
/-!
PROOFS. Barrier objects (R297): the operations that are one entry, those that wait for their answer, and BWAIT.
-/

namespace Sys2Proof.Machine

open Sys2Proof.Spec

/-- The operand of a barrier operation: none for BINV, whose function is 4, and sB for the others. -/
def barrierOperand (f : Nat) (a b : BitVec 4) (c : Core) : Word := if f = 4 then 0 else (c.popped a.toNat).valueOf b.toNat

/-- The reads of a barrier operation give its address and its operand. -/
def BarrierReads (f : Nat) (a b : BitVec 4) (rs : List Nat) (reads : Act (Word × Word)) : Prop :=
  ∀ s : State, s.core.readsOk rs = true → reads s = .ok ((s.core.valueOf a.toNat, barrierOperand f a b s.core), s.afterReads rs)

/-- Two operands are read in order. -/
theorem readTwo_ok {a b : BitVec 4} {s : State} (h : s.core.readsOk [a.toNat, b.toNat] = true) :
    readTwo a b s = .ok ((s.core.valueOf a.toNat, (s.core.popped a.toNat).valueOf b.toNat), s.afterReads [a.toNat, b.toNat]) := by
  simp only [Core.readsOk, Bool.and_true, Bool.and_eq_true] at h
  unfold readTwo
  rw [readReg_bind _ _ _ h.1, readReg_bind _ _ _ (by simpa using h.2), core_popped]
  rfl

/-- BINIT, BARV and BEXP read sA and sB. -/
theorem barrierReads_two {f : Nat} (a b : BitVec 4) (hf : f ≠ 4) : BarrierReads f a b [a.toNat, b.toNat] (readTwo a b) := by
  intro s h
  rw [readTwo_ok h, barrierOperand, if_neg hf]

/-- BINV reads sA alone. -/
theorem barrierReads_one (a b : BitVec 4) : BarrierReads 4 a b [a.toNat] (do let x ← readReg a.toNat; return (x, 0)) := by
  intro s h
  simp only [Core.readsOk, Bool.and_true] at h
  rw [readReg_bind _ _ _ h]
  rfl

/-- Each barrier operation is the form of one, with its function and its reads. -/
theorem exec_barrierTable (d a b : BitVec 4) (s : State) :
    ∀ p ∈ [(Instr.binit d a b, 0, [a.toNat, b.toNat]), (.barv d a b, 1, [a.toNat, b.toNat]), (.bexp d a b, 2, [a.toNat, b.toNat]),
        (.binv d a, 4, [a.toNat])],
      ∃ i reads, exec p.1 s = barrierOp i p.2.1 d p.2.2 reads s ∧ BarrierReads p.2.1 a b p.2.2 reads := by
  simp only [List.forall_mem_cons]
  exact ⟨⟨_, _, rfl, barrierReads_two a b (by decide)⟩, ⟨_, _, rfl, barrierReads_two a b (by decide)⟩,
    ⟨_, _, rfl, barrierReads_two a b (by decide)⟩, ⟨_, _, rfl, barrierReads_one a b⟩, List.forall_mem_nil _⟩

section

variable {f : Nat} {d a b : BitVec 4} {rs : List Nat} {reads : Act (Word × Word)} {s s1 : State} {pl : Place × Policy}
  (hreads : BarrierReads f a b rs reads) (hrs : s.core.readsOk rs = true)

include hreads hrs

/-- A barrier operation without a result is one entry of ORD release and scope DEV, and completes (R297). -/
theorem barrierSilent_run {c : Core} (hpl : barrierPlace .put (s.core.valueOf a.toNat) (s.afterReads rs) = .ok (pl, s1))
    (h : TakesEntry s1.core (entryOf s1 (.barrier f (barrierOperand f a b s.core) false) pl (s.core.valueOf a.toNat) 2 3) c) :
    runInstr (barrierSilent f reads) s = .next (s1.withCore (c.advance 4)) :=
  runInstr_ok _ _ _ (bind_of (hreads s hrs) (bind_of hpl (makeEntry_run h)))

/-- A barrier operation whose answer has come writes it to sD and completes (R297). -/
theorem barrierResult_answered {u v : Word} (hr : s.core.reply = some (.value v u)) (hw : (s.afterReads rs).core.writable d.toNat = true) :
    runInstr (barrierResult f d reads) s = .next (giving (s.afterReads rs) d v) := withReply_writes hr (hreads s hrs) hw

/-- A barrier operation with a result that can be sent goes to the commit queue, and its instruction waits for the answer (R297). -/
theorem barrierResult_sent (hbegins : begins s.core = true)
    (hpl : barrierPlace .put (s.core.valueOf a.toNat) (s.afterReads rs) = .ok (pl, s1)) (hd : s1.core.writable d.toNat = true)
    (hb : s1.core.rbuf = []) (hq : s1.core.cq.length < 16) :
    let e := entryOf s1 (.barrier f (barrierOperand f a b s.core) true) pl (s.core.valueOf a.toNat) 2 3
    runInstr (barrierResult f d reads) s = .next (s.withCore { queued s.core e with wait := some .reply, stalled := true }) := by
  intro e
  obtain ⟨hwait, hreply⟩ : s.core.wait = none ∧ s.core.reply = none := by simpa [begins] using hbegins
  rw [barrierResult, runInstr_sent (s2 := s1.stamped) (f := fun z => modCoreAt z z.cur (fun c => queued c e)) hreply hwait (hreads s hrs) ?_ rfl]
  · rw [modCoreAt_modCoreAt, modCoreAt_cur]
  · exact bind_of hpl (bind_of (canWrite_ok _ _ hd) (bind_of (getC_run _) (bind_of (waitUntil_ok (by simp [hb, hq]))
      (bind_of (mkEntry_stamped ..) rfl))))

end

section

variable {d a b : BitVec 4} {s t : State} (htwin : s.core.twin = none) (ht : s.terminated = t)
  (hrs : t.core.readsOk [a.toNat, b.toNat] = true)

include htwin ht hrs

/-- BWAIT whose answer has come writes it to sD and completes (R297). -/
theorem exec_bwait_answered {u v : Word} (hr : t.core.reply = some (.value v u))
    (hw : (t.afterReads [a.toNat, b.toNat]).core.writable d.toNat = true) :
    exec (.bwait d a b) s = .next (giving (t.afterReads [a.toNat, b.toNat]) d v) := by
  rw [exec_bwait, execBwait, runTermOnce_eq _ _ _ _ _ htwin, ht]
  exact withReply_writes hr (readTwo_ok hrs) hw

/-- BWAIT sends its phase to the bank of the object, and waits for its answer (R297). -/
theorem exec_bwait_sent {s1 : State} {pl : Place × Policy} {x : Word} {n : Nat} (hx : t.core.valueOf a.toNat = x)
    (hn : ((t.core.popped a.toNat).valueOf b.toNat).toNat = n) (hbegins : begins t.core = true)
    (hpl : barrierPlace .take x (t.afterReads [a.toNat, b.toNat]) = .ok (pl, s1)) (hd : s1.core.writable d.toNat = true)
    (hacq : s1.core.acquirePending = false) :
    exec (.bwait d a b) s = .next { t.withCore { t.core with wait := some .bank, stalled := true } with
      net := t.net ++ [{ src := t.cur, dst := pl.1.key, off := pl.1.addr, ea := x, kind := .bwait (n % 2 ^ 23) }] } := by
  obtain ⟨hwait, hreply⟩ : t.core.wait = none ∧ t.core.reply = none := by simpa [begins] using hbegins
  have hbits : bits n 22 0 = n % 2 ^ 23 := by simp [bits]
  rw [exec_bwait, execBwait, runTermOnce_eq _ _ _ _ _ htwin, ht]
  rw [runInstr_sent (s2 := s1) (f := fun z => { z with net := z.net ++ [
    { src := z.cur, dst := pl.1.key, off := pl.1.addr, ea := x, kind := .bwait (n % 2 ^ 23) }] }) hreply hwait (readTwo_ok hrs) ?_ rfl]
  · rfl
  · rw [hx]
    refine bind_of hpl (bind_of (canWrite_ok _ _ hd) (bind_of (afterAcquire_ok _ hacq) ?_))
    rw [hn, hbits]
    rfl

end

/-- Settles O42: the four operations are one form, without a result or with one; BWAIT is a message to its bank. -/
theorem barrierObjects : Obligations.BarrierObjects := by
  intro d a b s s1 pl v u
  constructor
  · intro p hp operand c e t f
    obtain ⟨i, reads, hexec, hreads⟩ := exec_barrierTable d a b s p hp
    rw [hexec, barrierOp]
    constructor
    · intro hd hrs hpl
      rw [if_pos hd]
      exact ⟨fun hq => barrierSilent_run hreads hrs hpl (.inl ⟨hq, rfl⟩), fun hb => barrierSilent_run hreads hrs hpl (.inr ⟨hb, rfl⟩)⟩
    · intro hd htwin hrs
      rw [if_neg hd, runTermOnce_eq _ _ _ _ _ htwin]
      exact ⟨fun hr hw => barrierResult_answered hreads hrs hr (by rwa [core_afterReads]), barrierResult_sent hreads hrs⟩
  · intro t x n rs htwin hrs
    exact ⟨fun hr hw => exec_bwait_answered htwin rfl hrs hr (by rwa [core_afterReads]), exec_bwait_sent htwin rfl hrs rfl rfl⟩

end Sys2Proof.Machine
end


section
/-!
PROOFS. Wired barriers (R299 to R301): WBMASK, WBARA and WBARW.
-/

namespace Sys2Proof.Machine

open Sys2Proof.Spec

/-! ### Teams of cores that leave their groups (R299) -/

/-- What each step of a fold keeps, the fold keeps. -/
theorem foldl_keeps {α β γ : Type} (g : β → γ) {f : β → α → β} (hf : ∀ z x, g (f z x) = g z) (l : List α) (s : β) : g (l.foldl f s) = g s := by
  induction l generalizing s with
  | nil => rfl
  | cons x l ih => rw [List.foldl_cons, ih, hf]

/-- A change of one core that leaves its team leaves every core's. -/
theorem team_modCoreAt (s : State) (j k : Nat) {f : Core → Core} (hf : ∀ c, (f c).team = c.team) :
    (coreAt (modCoreAt s j f) k).team = (coreAt s k).team := by
  by_cases h : k = j
  · subst h
    rw [coreAt_modCoreAt_same, hf]
  · rw [coreAt_modCoreAt_other _ _ _ _ h]

/-- A change of a group leaves the cores. -/
theorem coreAt_modGroupAt (s : State) (d g k : Nat) (f : WGroup → WGroup) : coreAt (modGroupAt s d g f) k = coreAt s k :=
  coreAt_modDieAt ..

/-- The end of a phase moves no core to another team (R300). -/
theorem team_settleGroup (s : State) (d g k : Nat) : (coreAt (settleGroup s d g) k).team = (coreAt s k).team := by
  unfold settleGroup
  simp only
  split
  · have hwake : ∀ (z : State) (m : Nat × Bool), (coreAt (modCoreAt z (m.1 % 65536) (fun c => { c with stalled := false })) k).team
        = (coreAt z k).team := fun z m => team_modCoreAt z _ k fun _ => rfl
    rw [foldl_keeps (fun z => (coreAt z k).team) hwake]
    exact foldl_keeps (fun z => (coreAt z k).team) (fun z e => congrArg Core.team (coreAt_modGroupAt z e g k _)) _ _
  · rfl

/-- A core that leaves its groups stays in its team (R299). -/
theorem team_leaveGroups (s : State) (j k : Nat) : (coreAt (leaveGroups s j) k).team = (coreAt s k).team := by
  have hleave : ∀ (z : State) (g : Nat), (coreAt (settleGroup (modGroupAt z (dieOf j) g (fun x =>
      { x with members := x.members.filter (fun m => m.1 != memberKey s j) })) (dieOf j) g) k).team = (coreAt z k).team := by
    intro z g
    rw [team_settleGroup, coreAt_modGroupAt]
  have harrival : (coreAt (modCoreAt s j (fun c => { c with arrival := none })) k).team = (coreAt s k).team :=
    team_modCoreAt s j k fun _ => rfl
  unfold leaveGroups
  rw [← harrival]
  exact foldl_keeps (fun z => (coreAt z k).team) hleave _ _

/-- A core that leaves its groups keeps its name among members (R299, R360). -/
theorem memberKey_leaveGroups (s : State) (k : Nat) : memberKey (leaveGroups s k) k = memberKey s k := by
  rw [memberKey, team_leaveGroups]
  rfl

/-! ### After the read of an operand -/

/-- The groups of a die are as they were before the reads. -/
theorem groupAt_popped (s : State) (r d g : Nat) : groupAt (s.popped r) d g = groupAt s d g :=
  s.of_popped (fun z => groupAt z d g) (fun _ _ => rfl) r

/-- The running core's name among members is as it was before the read. -/
theorem memberKey_popped (s : State) (r : Nat) : memberKey (s.popped r) (s.popped r).cur = 65536 * s.core.team.getD 0 + s.cur := by
  have hteam : (s.popped r).core.team = s.core.team := by rw [core_popped, team_popped]
  show 65536 * (s.popped r).core.team.getD 0 + (s.popped r).cur = _
  rw [hteam, cur_popped]

/-- An illegal instruction is raised, whatever would follow. -/
theorem illegal_raises {α β : Type} {i : Instr} {sub : Nat} {f : α → Act β} {s : State} :
    ((illegal i sub : Act α) >>= f) s = .error (.trap 2 (illegalVal sub (i.size == 4) (encode i))) := rfl

/-- A write of a register gives no stamp. -/
theorem stamp_put (c : Core) (r : Nat) (v : Word) : (c.put r v).stamp = c.stamp := c.of_put Core.stamp (fun _ _ _ _ => rfl) r v

/-! ### WBMASK (R299) -/

/-- WBMASK is refused beyond its fields, and where it joins a group that is not assigned to the core's team (R299). -/
def JoinRefused (u : State) (x : Word) : Prop :=
  32 ≤ x.toNat ∨ (x.getLsbD 4 = true
    ∧ ((groupAt u (dieOf u.cur) (x.toNat % 16)).team = 0 ∨ u.core.team ≠ some (groupAt u (dieOf u.cur) (x.toNat % 16)).team))

/-- The check of WBMASK finds what it refuses (R299). -/
theorem joinRefused_iff (u : State) (x : Word) : (x.toNat / 32 != 0 || (x.getLsbD 4
    && !((groupAt u (dieOf u.cur) (x.toNat % 16)).team != 0
      && u.core.team == some (groupAt u (dieOf u.cur) (x.toNat % 16)).team))) = true ↔ JoinRefused u x := by
  have hlim : x.toNat / 32 ≠ 0 ↔ 32 ≤ x.toNat := by omega
  simp only [JoinRefused, Bool.or_eq_true, Bool.and_eq_true, Bool.not_eq_true', Bool.and_eq_false_iff, bne_iff_ne, bne_eq_false_iff_eq,
    beq_eq_false_iff_ne, hlim]

/-- The state of WBMASK once its core has left every group and joined the one it names (R299). -/
def regrouped (u : State) (x : Word) : State :=
  if x.getLsbD 4 then modGroupAt (leaveGroups u u.cur) (dieOf u.cur) (x.toNat % 16)
    (fun y => { y with members := y.members ++ [(memberKey u u.cur, false)] })
  else leaveGroups u u.cur

section

variable {d a grp : BitVec 4} {s t u : State} {x : Word} (htwin : s.core.twin = none) (ht : s.terminated = t)
  (ha : t.core.readable a.toNat = true) (hx : t.core.valueOf a.toNat = x) (hu : t.popped a.toNat = u)

include htwin ht ha hx hu

/-- WBMASK leaves every group and joins the one it names (R299). -/
theorem exec_wbmask_regroups (hp : arrivalPending u u.cur = false) (hj : ¬ JoinRefused u x) :
    let v := regrouped u x
    exec (.wbmask a) s = .next (v.withCore ({ v.core.overwritten [4096 + 0x004] with wbmask := x }.advance 4)) := by
  intro v
  rw [exec_wbmask, execWbmask, runTerm_eq _ _ htwin, ht]
  refine runInstr_ok _ _ _ ((readReg_bind _ _ _ ha).trans ?_)
  rw [hx, hu]
  refine bind_of (get_run _) ?_
  rw [if_neg (mt (joinRefused_iff u x).mp hj)]
  refine bind_of (waitUntil_ok (by rw [hp]; rfl)) (bind_of (modify_run _ _) ?_)
  simp only [memberKey_leaveGroups]
  refine bind_of (modC_run _ _) ?_
  rw [retire_run, core_withCore, withCore_withCore]
  rfl

/-- WBMASK that is refused is illegal with SUB 0x02 (R187, R299). -/
theorem exec_wbmask_refused (hj : JoinRefused u x) :
    exec (.wbmask a) s = .next (raiseTrap t t.cur 2 (illegalVal 0x02 true (encode (.wbmask a)))) := by
  rw [exec_wbmask, execWbmask, runTerm_eq _ _ htwin, ht]
  refine runInstr_trap _ _ _ _ ((readReg_bind _ _ _ ha).trans ?_)
  rw [hx, hu]
  refine bind_of (get_run _) ?_
  rw [if_pos ((joinRefused_iff u x).mpr hj)]
  rfl

/-! ### WBARA and WBARW (R300) -/

/-- WBARA of a member sends its arrival and gives the phase that it will complete (R300). -/
theorem exec_wbara_arrives (hm : memberOf u u.cur grp.toNat = true) (hp : arrivalPending u u.cur = false)
    (hw : u.core.writable d.toNat = true) :
    exec (.wbara d a grp) s = .next (u.withCore (({ u.core.put d.toNat ((groupAt u (dieOf u.cur) grp.toNat).counter.setWidth 64) with
      arrival := some (grp.toNat, x.getLsbD 0, u.core.stamp), stamp := u.core.stamp + 1 }).advance 4)) := by
  rw [exec_wbara, execWbara, runTerm_eq _ _ htwin, ht]
  refine runInstr_ok _ _ _ ((readReg_bind _ _ _ ha).trans ?_)
  rw [hx, hu]
  refine bind_of (get_run _) ?_
  rw [if_pos hm]
  refine bind_of (waitUntil_ok (by rw [hp]; rfl)) ((writeReg_bind _ _ _ _ hw).trans (bind_of (modC_run _ _) ?_))
  rw [retire_run]
  simp only [core_withCore, withCore_withCore, stamp_put]

/-- WBARA of a core that is no member is illegal with SUB 0x07 (R187, R300). -/
theorem exec_wbara_noMember (hm : memberOf u u.cur grp.toNat = false) :
    exec (.wbara d a grp) s = .next (raiseTrap t t.cur 2 (illegalVal 0x07 true (encode (.wbara d a grp)))) := by
  rw [exec_wbara, execWbara, runTerm_eq _ _ htwin, ht]
  refine runInstr_trap _ _ _ _ ((readReg_bind _ _ _ ha).trans ?_)
  rw [hx, hu]
  refine bind_of (get_run _) ?_
  rw [if_neg (by simp [hm])]
  exact illegal_raises

/-- WBARW of a member gives the counter once it has gone on from its operand, or an event is there (R300). -/
theorem exec_wbarw_ends (hm : memberOf u u.cur grp.toNat = true) (hw : u.core.writable d.toNat = true)
    (hp : u.core.poison.contains (0, 4096 + 0x001) = false)
    (hv : (groupAt u (dieOf u.cur) grp.toNat).counter ≠ x.setWidth 32 ∨ u.core.evstat ≠ 0) :
    exec (.wbarw d a grp) s = .next (giving u d ((groupAt u (dieOf u.cur) grp.toNat).counter.setWidth 64)) := by
  rw [exec_wbarw, execWbarw, runTerm_eq _ _ htwin, ht]
  refine runInstr_ok _ _ _ ((readReg_bind _ _ _ ha).trans ?_)
  rw [hx, hu]
  refine bind_of (canWrite_ok _ _ hw) (bind_of (get_run _) ?_)
  rw [if_pos hm]
  refine bind_of (noPoison_ok _ _ _ hp) (bind_of (waitUntil_ok ?_) (giving_run hw))
  simpa only [Bool.or_eq_true, bne_iff_ne] using hv

/-- WBARW of a core that is no member is illegal with SUB 0x07 (R187, R300). -/
theorem exec_wbarw_noMember (hm : memberOf u u.cur grp.toNat = false) (hw : u.core.writable d.toNat = true) :
    exec (.wbarw d a grp) s = .next (raiseTrap t t.cur 2 (illegalVal 0x07 true (encode (.wbarw d a grp)))) := by
  rw [exec_wbarw, execWbarw, runTerm_eq _ _ htwin, ht]
  refine runInstr_trap _ _ _ _ ((readReg_bind _ _ _ ha).trans ?_)
  rw [hx, hu]
  refine bind_of (canWrite_ok _ _ hw) (bind_of (get_run _) ?_)
  rw [if_neg (by simp [hm])]
  exact illegal_raises

end

/-- Settles O43: WBMASK by what it refuses, WBARA and WBARW by the membership of their core. -/
theorem wiredBarriers : Obligations.WiredBarriers := by
  intro d a grp s t c x p own g me member left named htwin ha
  have hcur : p.cur = t.cur := cur_popped t a.toNat
  have hgroup : ∀ d g, groupAt p d g = groupAt t d g := groupAt_popped t a.toNat
  have hkey : memberKey p p.cur = me := memberKey_popped t a.toNat
  have hteam : p.core.team = c.team := by rw [core_popped, team_popped]
  have hevstat : p.core.evstat = c.evstat := by
    rw [core_popped]
    exact c.of_popped (fun c => c.evstat) (fun _ _ => rfl) a.toNat
  have hmember : memberOf p p.cur grp.toNat = member := by rw [memberOf, hkey, hcur, hgroup]
  have hjoin : JoinRefused p x ↔ 32 ≤ x.toNat ∨ (x.getLsbD 4 = true ∧ (named.team = 0 ∨ c.team ≠ some named.team)) := by
    rw [JoinRefused, hcur, hgroup, hteam]
  have hregrouped : regrouped p x = if x.getLsbD 4 then modGroupAt left (dieOf t.cur) (x.toNat % 16)
      (fun y => { y with members := y.members ++ [(me, false)] }) else left := by
    rw [regrouped, hkey, hcur]
  have htcur : t.cur = s.cur := cur_terminated s
  rw [← hmember]
  refine ⟨fun hlim hp => ?_, fun hr => ?_, fun hm hp hw => ?_, fun hm hw hpois hv => ?_, fun hm => ?_, fun hm hw => ?_⟩
  · have hrun := fun hj => exec_wbmask_regroups htwin rfl ha rfl rfl (by rwa [hcur]) (mt hjoin.mp hj)
    rw [hregrouped] at hrun
    refine ⟨fun h4 => ?_, fun h4 h0 hn => ?_⟩
    · rw [h4] at hrun
      exact hrun (not_or.mpr ⟨by omega, fun h => absurd h.1 (by decide)⟩)
    · rw [h4] at hrun
      exact hrun (not_or.mpr ⟨by omega, fun h => h.2.elim h0 fun hother => hother hn⟩)
  · rw [exec_wbmask_refused htwin rfl ha rfl rfl (hjoin.mpr hr), htcur]
  · rw [exec_wbara_arrives htwin rfl ha rfl rfl hm (by rwa [hcur]) hw, hcur, hgroup, withCore_popped]
  · rw [exec_wbarw_ends htwin rfl ha rfl rfl hm hw hpois (by rwa [hcur, hgroup, hevstat]), hcur, hgroup]
  · rw [exec_wbara_noMember htwin rfl ha rfl rfl hm, htcur]
  · rw [exec_wbarw_noMember htwin rfl ha rfl rfl hm hw, htcur]

end Sys2Proof.Machine
end


section
/-!
PROOFS. The range unit, kids and posted events (R302 to R305), and clock requests (R338).
-/

namespace Sys2Proof.Machine

open Sys2Proof.Spec

/-! ### The range unit (R302) -/

/-- A change of a team and one of a core are independent. -/
theorem modCoreAt_modTeamAt (s : State) (k n : Nat) (f : Team → Team) (g : Core → Core) :
    modCoreAt (modTeamAt s n f) k g = modTeamAt (modCoreAt s k g) n f := by
  have hteam : teamAt (modCoreAt s k g) n = teamAt s n := rfl
  unfold modTeamAt
  rw [hteam]
  cases teamAt s n with
  | none => rfl
  | some m => rfl

/-- The depth of a queue register is as it was before a write of a register (R194). -/
theorem depth_put (c : Core) (r q : Nat) (v : Word) : (c.put r v).depth q = c.depth q :=
  c.of_put (fun c => c.depth q) (fun _ _ _ _ => rfl) r v

/-- The loads of a core are as they were before a write of a register. -/
theorem pendingReg_put (c : Core) (r q : Nat) (v : Word) : (c.put r v).pendingReg q = c.pendingReg q :=
  c.of_put (fun c => c.pendingReg q) (fun _ _ _ _ => rfl) r v

/-- A write of a register leaves the queue of the next one (R195). -/
theorem queue_put_next (c : Core) (r : Nat) (v : Word) :
    vget (c.put r v).queues [] (r + 1 - 12) = vget c.queues [] (r + 1 - 12) := by
  unfold Core.put
  split
  · rfl
  · split
    · rfl
    next hd =>
      have h12 : ¬ r < 12 := fun h => hd (by rw [Core.depth, if_pos h])
      by_cases hlt : r - 12 < 4
      · rw [vget_vset _ _ _ _ _ hlt, if_neg (by omega)]
      · rw [vset, dif_neg hlt]

/-- The second register of a pair can be written after the first where it can be written (R170, R195). -/
theorem writable_put_next (c : Core) (r : Nat) (v : Word) : (c.put r v).writable (r + 1) = c.writable (r + 1) := by
  rw [Core.writable, Core.writable, depth_put, pendingReg_put, queue_put_next]

/-- A pair that can be written takes both values, low register first; the pair of s0 discards them (R170). -/
theorem writePair_retire {w : State} {d : BitVec 4} {u v : Word} (h : pairWritable w.core d = true) :
    (do writePair d.toNat u v; retire 4 : Act Unit) w = .ok ((), givingPair w d u v) := by
  unfold givingPair
  by_cases hd : d = 0
  · subst hd
    rfl
  · have h0 : d.toNat ≠ 0 := fun hn => hd (BitVec.eq_of_toNat_eq hn)
    rw [pairWritable, beq_eq_false_iff_ne.mpr hd, Bool.false_or, Bool.and_eq_true, writable_put_next] at h
    rw [if_neg hd]
    refine bind_of (s' := w.withCore ((w.core.put d.toNat u).put (d.toNat + 1) v)) (a := ()) ?_ ?_
    · rw [writePair, if_neg h0]
      refine (writeReg_bind _ _ _ _ h.1).trans ((writeReg_ok _ _ _ ?_).trans ?_)
      · rw [core_withCore, writable_put_next]
        exact h.2
      · rw [core_withCore, withCore_withCore]
    · rw [retire_run, core_withCore, withCore_withCore]

section

variable {d a : BitVec 4} {s t p : State} {x : Word} (htwin : s.core.twin = none) (ht : s.terminated = t)
  (ha : t.core.readable a.toNat = true) (hx : t.core.valueOf a.toNat = x) (hp : t.popped a.toNat = p)

include htwin ht ha hx hp

/-- RNGINIT sets up the range of the core's team, with no chunk returned (R302). -/
theorem exec_rnginit_run (hlim : x.toNat < 2 ^ 35) :
    let q := modTeamAt p (p.core.team.getD 0) (fun m => { m with range := { m.range with
      next := 0, ns := x.toNat % 2 ^ 32, factor := x.toNat / 2 ^ 32 + 1, returned := [] } })
    exec (.rnginit a) s = .next (q.withCore (q.core.advance 4)) := by
  intro q
  have hns : (if x.toNat / 2 ^ 35 = 0 then bits x.toNat 31 0 else 0) = x.toNat % 2 ^ 32 := by
    rw [if_pos (by omega)]
    simp [bits]
  have hfactor : bits x.toNat 34 32 = x.toNat / 2 ^ 32 := by
    simp only [bits]
    omega
  rw [exec_rnginit, execRnginit, runTermOnce_eq _ _ _ _ _ htwin, ht]
  refine runInstr_ok _ _ _ ((readReg_bind _ _ _ ha).trans ?_)
  rw [hx, hp, hns, hfactor]
  exact bind_of (modify_run _ _) (retire_run _ _)

omit hx in
/-- RNGGET whose answer has come gives its pair (R302). -/
theorem exec_rngget_answered {u v : Word} (hr : t.core.reply = some (.value u v)) (hw : pairWritable p.core d = true) :
    exec (.rngget d a) s = .next (givingPair p d u v) := by
  rw [exec_rngget, execRngget, runTermOnce_eq _ _ _ _ _ htwin, ht]
  refine runInstr_ok _ _ _ ((withReply_value _ _ _ _ _ _ _ hr).trans ((readReg_bind _ _ _ ha).trans ?_))
  rw [hp]
  exact writePair_retire hw

/-- RNGGET asks the range unit for a chunk, and waits for its answer (R302). -/
theorem exec_rngget_asks (hb : begins t.core = true) (hlim : x.toNat < 2) (hd : d ≠ 0) (hw : p.core.writable d.toNat = true)
    (hw' : p.core.writable (d.toNat + 1) = true) :
    exec (.rngget d a) s = .next (modTeamAt (t.withCore { t.core with
        command := some (.rngget (x.getLsbD 0)), wait := some .reply, stalled := true }) (t.core.team.getD 0)
      (fun m => { m with range := { m.range with requests := m.range.requests ++ [t.cur] } })) := by
  obtain ⟨hwait, hreply⟩ : t.core.wait = none ∧ t.core.reply = none := by simpa [begins] using hb
  rw [exec_rngget, execRngget, runTermOnce_eq _ _ _ _ _ htwin, ht]
  refine (runInstr_sent (s2 := p) (x := x) (s1 := p)
    (f := fun z => modTeamAt (modCoreAt z z.cur (fun c => { c with command := some (.rngget (x.getLsbD 0)) })) (z.core.team.getD 0)
      (fun m => { m with range := { m.range with requests := m.range.requests ++ [z.cur] } })) hreply hwait ?_ ?_ ?_).trans ?_
  · rw [readReg_ok _ _ ha, hx, hp]
  · rw [if_pos (by omega)]
    simp only [bne_iff_ne.mpr hd, if_true]
    exact bind_of (canWrite_ok _ _ hw) (bind_of (canWrite_ok _ _ hw') rfl)
  · rw [cur_modTeamAt]
    rfl
  · rw [modCoreAt_modTeamAt, modCoreAt_modCoreAt]
    rfl

end

/-! ### Kids (R303, R304) -/

/-- A command with a result, or outside regions, is not held (R122, R303, R305). -/
theorem notHeld {d : BitVec 4} {c : Core} (h : d ≠ 0 ∨ c.region = none) : ¬ (d = 0 ∧ c.region.isSome = true) := by
  rintro ⟨h0, hr⟩
  rcases h with h | h
  · exact h h0
  · rw [h] at hr
    exact absurd hr (by decide)

/-- SPAWN with a result, or outside regions, runs in the state after the commit (R303). -/
theorem exec_spawn_term {d a b : BitVec 4} {s : State} (htwin : s.core.twin = none) (hd : d ≠ 0 ∨ s.core.region = none) :
    exec (.spawn d a b) s = runInstr (spawnAct d a b) s.terminated := by
  rw [exec_spawn, execSpawn, if_neg (notHeld hd), runTermOnce_eq _ _ _ _ _ htwin]

/-- A command that releases at DEV scope acts at once where the core's earlier accesses have performed there (R121). -/
theorem released_ok {s : State} (h : fenced s s.cur 3 = true) : released s = .ok ((), s) := bind_of (get_run s) (waitUntil_ok h)

/-- SPAWN launches its kid once the block's address is checked, the core's earlier accesses have performed and the block is read (R303). -/
theorem spawnAct_launches {d a b : BitVec 4} {t u s1 s2 : State} {x y : Word} {pl : Place × Policy}
    (hreads : t.core.readsOk [a.toNat, b.toNat] = true) (hx : t.core.valueOf a.toNat = x) (hy : (t.core.popped a.toNat).valueOf b.toNat = y)
    (hu : t.afterReads [a.toNat, b.toNat] = u) (hw : u.core.writable d.toNat = true)
    (hc : if space0 x.toNat 64 = true then checkAccess .load x 64 0 u = .ok (pl, s1) else s1 = u) (hf : fenced s1 s1.cur 3 = true)
    (hr : s1.core.region = none)
    (he : if space0 x.toNat 64 = true
      then engineReads (launchReads (coreRead s1 s1.cur (!s1.core.supervisor)) (x.toNat % 2 ^ 52)) s1 = .ok ((), s2) else s2 = s1)
    (hw2 : (spawnOp s2 s2.cur (!s1.core.supervisor) x y).2.core.writable d.toNat = true) :
    let k := spawnOp s2 s2.cur (!s1.core.supervisor) x y
    spawnAct d a b t = .ok ((), giving k.2 d k.1) := by
  intro k
  have hregion : ¬ s1.core.region.isSome = true := by simp [hr]
  unfold spawnAct
  rw [readTwo_bind _ _ _ _ hreads, hx, hy, hu, bind_ok _ _ _ _ _ (canWrite_ok _ _ hw)]
  cases hsp : space0 x.toNat 64 with
  | true =>
    simp only [hsp, if_true] at hc he ⊢
    refine bind_of hc (bind_of (getC_run _) ?_)
    rw [if_neg hregion]
    exact bind_of (released_ok hf) (bind_of (get_run _) (bind_of he (bind_of (get_run _) (bind_of (set_run _ _) (giving_run hw2)))))
  | false =>
    simp only [hsp, Bool.false_eq_true, if_false] at hc he ⊢
    subst hc he
    refine bind_of (getC_run _) ?_
    rw [if_neg hregion]
    exact bind_of (released_ok hf) (bind_of (get_run _) (bind_of (get_run _) (bind_of (set_run _ _) (giving_run hw2))))

/-- JOIN whose kids have ended gives their status (R304). -/
theorem exec_join_ended {d a : BitVec 4} {s t p : State} {x : Word} {r : Int} (htwin : s.core.twin = none) (ht : s.terminated = t)
    (ha : t.core.readable a.toNat = true) (hx : t.core.valueOf a.toNat = x) (hp : t.popped a.toNat = p) (hw : p.core.writable d.toNat = true)
    (hr : joinStatus p p.cur x = some r) : exec (.join d a) s = .next (giving p d (BitVec.ofInt 64 r)) := by
  rw [exec_join, execJoin, runTermOnce_eq _ _ _ _ _ htwin, ht]
  refine runInstr_ok _ _ _ (bind_of (get_run _) ((readReg_bind _ _ _ ha).trans ?_))
  rw [hx, hp]
  refine bind_of (canWrite_ok _ _ hw) (bind_of (get_run _) ?_)
  rw [hr]
  exact giving_run hw

/-! ### Posted events (R305) -/

section

variable {d a b : BitVec 4} {s t u : State} {x y : Word} (hreads : t.core.readsOk [a.toNat, b.toNat] = true) (hx : t.core.valueOf a.toNat = x)
  (hy : (t.core.popped a.toNat).valueOf b.toNat = y) (hu : t.afterReads [a.toNat, b.toNat] = u) (hw : u.core.writable d.toNat = true)

include hreads hx hy hu hw

/-- EVPOST of operands that it does not accept gives -1 (R305). -/
theorem evpostAct_refuses (hok : evpostOk u x y = false) : evpostAct d a b t = .ok ((), giving u d (-1)) := by
  unfold evpostAct
  rw [readTwo_bind _ _ _ _ hreads, hx, hy, hu, bind_ok _ _ _ _ _ (get_run _)]
  simp only [hok, Bool.false_and, Bool.false_eq_true, if_false, Bool.not_false, if_true]
  exact giving_run hw

/-- EVPOST outside regions posts once the core's earlier accesses have performed; where its record takes the core's cell, SHCELL is read (R305,
R405). -/
theorem evpostAct_posts (hok : evpostOk u x y = true) (hp : x.getLsbD 63 = false → u.core.poison.contains (0, 4096 + 0x019) = false)
    (hr : u.core.region = none) (hf : fenced u u.cur 3 = true) (hq : (evpostOp u u.cur x y).core.writable d.toNat = true) :
    evpostAct d a b t = .ok ((), giving (evpostOp u u.cur x y) d 0) := by
  have hregion : ¬ u.core.region.isSome = true := by simp [hr]
  unfold evpostAct
  rw [readTwo_bind _ _ _ _ hreads, hx, hy, hu, bind_ok _ _ _ _ _ (get_run _)]
  cases h63 : x.getLsbD 63 with
  | true =>
    simp only [hok, hregion, Bool.not_true, Bool.and_false, Bool.false_eq_true, if_false]
    exact bind_of (canWrite_ok _ _ hw) (bind_of (released_ok hf) (bind_of (modify_run _ _) (giving_run hq)))
  | false =>
    simp only [hok, hregion, Bool.not_true, Bool.not_false, Bool.and_true, if_true, Bool.false_eq_true, if_false]
    exact bind_of (noPoison_ok _ _ _ (hp h63)) (bind_of (canWrite_ok _ _ hw) (bind_of (released_ok hf) (bind_of (modify_run _ _) (giving_run hq))))

end

/-- EVPOST with a result, or outside regions, runs in the state after the commit (R305). -/
theorem exec_evpost_term {d a b : BitVec 4} {s : State} (htwin : s.core.twin = none) (hd : d ≠ 0 ∨ s.core.region = none) :
    exec (.evpost d a b) s = runInstr (evpostAct d a b) s.terminated := by
  rw [exec_evpost, execEvpost, if_neg (notHeld hd), runTermOnce_eq _ _ _ _ _ htwin]

/-! ### Clock requests (R338) -/

/-- A core of a team whose clock request is replaced (R338). -/
def Core.clocked (c : Core) (n : Nat) (x : Word) : Core := if c.team = some n then { c.overwritten [4096 + 0x02B] with clkq := x } else c

/-- A core whose CLKQ is replaced can write the same registers. -/
theorem writable_clocked (c : Core) (n : Nat) (x : Word) (r : Nat) : (c.clocked n x).writable r = c.writable r := by
  unfold Core.clocked
  split
  · rfl
  · rfl

/-- A new clock request changes the cores of its team only; one that the machine does not list is as at reset (R338). -/
theorem core_requestClock (s : State) (n : Nat) (x : Word) :
    (requestClock s n x).core = s.core ∨ (requestClock s n x).core = s.core.clocked n x := by
  have hget : SMap.get? (requestClock s n x).cores s.cur = (SMap.get? s.cores s.cur).map (fun c => c.clocked n x) := by
    rw [← SMap.get?_map, ← cores_modTeamAt s n (fun t => { t with clockReq := x })]
    rfl
  have hcur : (requestClock s n x).cur = s.cur := cur_modTeamAt ..
  simp only [State.core, coreAt, hcur, SMap.getD, hget]
  cases SMap.get? s.cores s.cur with
  | none => exact .inl rfl
  | some c => exact .inr rfl

/-- The running core can write the same registers after a new clock request. -/
theorem writable_requestClock (s : State) (n : Nat) (x : Word) (r : Nat) : (requestClock s n x).core.writable r = s.core.writable r := by
  rcases core_requestClock s n x with h | h
  · rw [h]
  · rw [h, writable_clocked]

/-- CLKREQ of a request that the team may make replaces it and gives 0, and otherwise gives -1 (R338). -/
theorem exec_clkreq_run {d a : BitVec 4} {s t p : State} {x : Word} {tm : Team} (htwin : s.core.twin = none) (ht : s.terminated = t)
    (ha : t.core.readable a.toNat = true) (hx : t.core.valueOf a.toNat = x) (hp : t.popped a.toNat = p) (hw : p.core.writable d.toNat = true)
    (htm : teamAt p (p.core.team.getD 0) = some tm) :
    exec (.clkreq d a) s = .next (if clockRequestOk tm x then giving (requestClock p (p.core.team.getD 0) x) d 0 else giving p d (-1)) := by
  rw [exec_clkreq, execClkreq, runTermOnce_eq _ _ _ _ _ htwin, ht]
  refine runInstr_ok _ _ _ ((readReg_bind _ _ _ ha).trans ?_)
  rw [hx, hp]
  refine bind_of (canWrite_ok _ _ hw) (bind_of (get_run _) ?_)
  simp only [htm]
  cases clockRequestOk tm x with
  | true => exact bind_of (modify_run _ _) (giving_run (by rwa [writable_requestClock]))
  | false => exact giving_run hw

/-- Settles O44: each instruction by its own lemma, in the state after the commit. -/
theorem rangesKidsAndEvents : Obligations.RangesKidsAndEvents := by
  intro d a b s s1 s2 pl u v r tm t c x y p rs tn htwin
  have hpc : p.core = c.popped a.toNat := core_popped t a.toNat
  have hteam : p.core.team.getD 0 = tn := by rw [hpc, team_popped]
  have huc : (t.afterReads rs).core = c.afterReads rs := core_afterReads t rs
  have hcur : (t.afterReads rs).cur = t.cur := cur_afterReads t rs
  refine ⟨fun ha hlim => ?_, fun ha => ⟨exec_rngget_answered htwin rfl ha rfl, fun hb hlim hd hw hw' => ?_⟩, ?_, fun ha hw hr => ?_,
    fun hd hreads hw => ?_, fun ha hw htm => ?_⟩
  · rw [exec_rnginit_run htwin rfl ha rfl rfl hlim, hteam]
  · exact exec_rngget_asks htwin rfl ha rfl rfl hb hlim hd hw hw'
  · intro hd hreads hw hc hf hr user he k hk
    rw [exec_spawn_term htwin hd]
    exact runInstr_ok _ _ _ (spawnAct_launches hreads rfl rfl rfl (by rwa [huc]) hc hf hr he hk)
  · exact exec_join_ended htwin rfl ha rfl rfl hw hr
  · rw [← huc] at hw
    rw [exec_evpost_term htwin hd]
    refine ⟨fun hok => runInstr_ok _ _ _ (evpostAct_refuses hreads rfl rfl rfl hw hok), ?_⟩
    intro hok hp hr hf q hq _
    have hq' : q = evpostOp (t.afterReads rs) (t.afterReads rs).cur x y := by rw [hcur]
    rw [hq'] at hq ⊢
    exact runInstr_ok _ _ _ (evpostAct_posts hreads rfl rfl rfl hw hok (by rwa [huc]) (region_afterReads rs hr) (by rwa [hcur]) hq)
  · rw [← hteam] at htm ⊢
    have hrun := exec_clkreq_run htwin rfl ha (rfl : _ = x) rfl hw htm
    exact ⟨fun hok => by rw [hrun, if_pos hok], fun hok => by rw [hrun, if_neg (Bool.eq_false_iff.mp hok)]⟩

end Sys2Proof.Machine
end

section
/-!
PROOFS. What the commands to the sheet and suffix engines and the context instructions share (R310, R325, R340, R405): steps for each element of a
list, steps under a condition, the engine's state that a command reads, and the fields of a packed operand.
-/

namespace Sys2Proof.Machine

open Sys2Proof.Spec

/-! ### Steps over a list -/

/-- Steps for each element of a list give as many values as it has elements. -/
theorem length_of_mapM {α β : Type} {f : α → Act β} (l : List α) {z t : State} {ys : List β} (h : l.mapM f z = .ok (ys, t)) :
    ys.length = l.length := by
  induction l generalizing z ys with
  | nil => cases h; rfl
  | cons x l ih =>
    rw [List.mapM_cons] at h
    obtain ⟨y, u, -, h1⟩ := bind_inv h
    obtain ⟨rest, v, hl, h2⟩ := bind_inv h1
    cases h2
    rw [List.length_cons, List.length_cons, ih hl]

/-- Steps for each element of a list, none of which changes a core, change no core. -/
theorem mapM_keepsCores {α β : Type} {f : α → Act β} (hf : ∀ x y z t, f x z = .ok (y, t) → KeepsCores z t) (l : List α) {z t : State}
    {ys : List β} (h : l.mapM f z = .ok (ys, t)) : KeepsCores z t := by
  induction l generalizing z ys with
  | nil => cases h; exact .refl _
  | cons x l ih =>
    rw [List.mapM_cons] at h
    obtain ⟨y, u, hx, h1⟩ := bind_inv h
    obtain ⟨rest, v, hl, h2⟩ := bind_inv h1
    cases h2
    exact (hf x y z u hx).trans (ih hl)

/-- A condition for a trap that is not raised changes nothing. -/
theorem trapIf_inv {b : Bool} {c : Nat} {v : Word} {s t : State} {r : Unit} (h : trapIf b c v s = .ok (r, t)) : t = s := by
  rw [trapIf_run] at h
  split at h
  · cases h
  · cases h
    rfl

/-! ### Steps under a condition, and results -/

/-- A step that is taken under a condition, and what follows it either way. -/
theorem guarded_run {β : Type} {c : Prop} [Decidable c] {x : Act Unit} {f : Unit → Act β} {s s' : State} {r : Except Stop (β × State)}
    (h : if c then x s = .ok ((), s') else s' = s) (hf : f () s' = r) : (if c then x >>= f else f ()) s = r := by
  by_cases hc : c
  · rw [if_pos hc] at h ⊢
    exact bind_of h hf
  · rw [if_neg hc] at h ⊢
    rwa [← h]

/-- Two steps that are taken under a condition and change nothing, and what follows them either way. -/
theorem guardedTwo_run {β : Type} {c : Prop} [Decidable c] {x y : Act Unit} {f : Unit → Act β} {s : State} {r : Except Stop (β × State)}
    (h : c → x s = .ok ((), s)) (h' : c → y s = .ok ((), s)) (hf : f () s = r) : (if c then x >>= fun _ => y >>= f else f ()) s = r := by
  split
  next hc => exact bind_of (h hc) (bind_of (h' hc) hf)
  next => exact hf

/-- A command that changes the state and then gives a result completes in the state changed. -/
theorem set_giving {z u : State} {d : BitVec 4} {v : Word} (h : u.core.writable d.toNat = true) :
    (do set u; writeReg d.toNat v; retire 4 : Act Unit) z = .ok ((), giving u d v) := bind_of (set_run z u) (giving_run h)

/-! ### The state of an engine (R121, R405) -/

/-- The engine's state that a command reads and that holds no poison is read, and stays as it is (R405). -/
theorem engineState_ok {unit n : Nat} {s : State} (h : engineMarks s unit n = []) : engineState unit n s = .ok ((), s) := by
  have hclean : enginePoison s unit n = none := by
    rw [enginePoison, h]
    rfl
  have hchoice : nextChoice s unit n = s := by
    rw [nextChoice, h]
    rfl
  unfold engineState
  rw [bind_ok _ _ _ _ _ (get_run s), hclean]
  exact (modify_run _ s).trans (by rw [hchoice])

/-- The commands of the core reach the sheet engine in its order (R121, R132). -/
theorem sheetTurn_ok {s : State} (h : sheetFree s = true) : sheetTurn s = .ok ((), s) := by
  simp only [sheetFree, Bool.and_eq_true, Bool.not_eq_true', and_assoc] at h
  obtain ⟨hacq, hpub, hheld⟩ := h
  exact bind_of (get_run s) (bind_of (afterAcquire_ok s hacq) (waitUntil_ok (by rw [hpub]; exact hheld)))

/-- The owner of the running core's sessions and views. -/
theorem myOwner_run (s : State) : myOwner s = .ok (ownerOf s s.cur, s) := rfl

/-- The fields of a packed operand (R310). -/
theorem packed_eq (x : Word) : packed x = (x.toNat / 2 ^ 28 % 2 ^ 35, x.toNat / 2 ^ 20 % 256, x.toNat % 2 ^ 20) := by simp [packed, bits]

end Sys2Proof.Machine
end

section
/-!
PROOFS. Contexts (R340 to R343): what CXSAVE and CXLOAD check, the stores that CXSAVE begins, and the sections that CXLOAD loads.
-/

namespace Sys2Proof.Machine

open Sys2Proof.Spec

/-! ### The operand and the blocks (R340, R341) -/

/-- A core may begin to save or load a context: it is in no region, and no transfer and no annulment is to come (R335, R340). -/
def Core.quiet (c : Core) : Bool := c.region.isNone && c.tq.isEmpty && c.an == 0

/-- A quiet core is in no region, with no transfer and no annulment to come. -/
theorem Core.quiet_iff {c : Core} : c.quiet = true ↔ c.region = none ∧ c.tq = [] ∧ c.an = 0 := by
  simp [Core.quiet, and_assoc]

/-- A core that reads an operand stays as quiet as it was. -/
theorem quiet_popped (c : Core) (r : Nat) : (c.popped r).quiet = c.quiet := c.of_popped Core.quiet (fun _ _ => rfl) r

/-- Outside regions an instruction that no region allows goes on (R335). -/
theorem notInRegion_ok {s : State} (i : Instr) (h : s.core.region = none) : notInRegion i s = .ok ((), s) := by
  unfold notInRegion
  rw [bind_ok _ _ _ _ _ (getC_run s), h]
  rfl

/-- The operand of a quiet supervisor core, whose reserved bits are 0, gives the area's address and the mask (R340). -/
theorem ctxOperand_ok {i : Instr} {a : BitVec 4} {s : State} {x : Nat} (hx : (s.core.valueOf a.toNat).toNat = x)
    (hsup : s.core.supervisor = true) (ha : s.core.readable a.toNat = true) (hres : x / 128 % 32 = 0) (hq : s.core.quiet = true) :
    ctxOperand i a s = .ok ((BitVec.ofNat 64 (x / 4096 * 4096), x % 128), s.popped a.toNat) := by
  have hbits : bits x 11 7 = 0 := hres
  obtain ⟨hr, htq, han⟩ : (s.popped a.toNat).core.region = none ∧ (s.popped a.toNat).core.tq = [] ∧ (s.popped a.toNat).core.an = 0 :=
    Core.quiet_iff.mp (by rw [core_popped, quiet_popped, hq])
  unfold ctxOperand
  refine bind_of (supervisorOnly_ok i s hsup) ((readReg_bind _ _ _ ha).trans ?_)
  rw [hx, if_neg (by simp [hbits])]
  refine bind_of (notInRegion_ok i hr) (bind_of (getC_run _) ?_)
  rw [htq, han]
  rfl

/-- In user mode the operand's check is illegal (R340). -/
theorem ctxOperand_user {β : Type} {i : Instr} {a : BitVec 4} {s : State} {f : Word × Nat → Act β} (hsup : s.core.supervisor = false) :
    (ctxOperand i a >>= f) s = .error (.trap 2 (illegalVal 0x06 (i.size == 4) (encode i))) := by
  refine bind_error _ _ _ _ (bind_error _ _ _ _ ?_)
  rw [supervisorOnly_run, hsup]
  rfl

/-- A section that the mask selects gives all of its blocks. -/
theorem section_le_ctxBlocks {mask i : Nat} (hi : i < ctxSections.length) (hm : mask / 2 ^ i % 2 = 1) :
    ctxSections[i].2 / 64 ≤ (ctxBlocks mask).length := by
  have hmem : (ctxSections[i], i) ∈ ctxSections.zipIdx := by
    rw [List.mk_mem_zipIdx_iff_getElem?, List.getElem?_eq_getElem hi]
  unfold ctxBlocks
  rw [List.length_flatMap]
  refine le_trans ?_ (List.single_le_sum (fun _ _ => Nat.zero_le _) _ (List.mem_map.mpr ⟨_, hmem, rfl⟩))
  simp [hm]

/-- A mask that selects a section selects more blocks than the commit queue holds (R106, R341). -/
theorem ctxBlocks_many {mask : Nat} (h0 : mask ≠ 0) (hlt : mask < 128) : 16 < (ctxBlocks mask).length := by
  have hsmall : ∀ i, (hi : i < ctxSections.length) → 16 < ctxSections[i].2 / 64 := by decide
  obtain ⟨i, hi, hm⟩ : ∃ i, i < ctxSections.length ∧ mask / 2 ^ i % 2 = 1 := by
    by_contra hnone
    push Not at hnone
    have hlen : ctxSections.length = 7 := rfl
    have h0 := hnone 0 (by omega)
    have h1 := hnone 1 (by omega)
    have h2 := hnone 2 (by omega)
    have h3 := hnone 3 (by omega)
    have h4 := hnone 4 (by omega)
    have h5 := hnone 5 (by omega)
    have h6 := hnone 6 (by omega)
    omega
  exact lt_of_lt_of_le (hsmall i hi) (section_le_ctxBlocks hi hm)

/-- The blocks of an area have a place each. -/
theorem length_ctxPlaces {k : Kind} {base : Word} {mask : Nat} {z t : State} {ps : List (Nat × Word × Place)}
    (h : ctxPlaces k base mask z = .ok (ps, t)) : ps.length = (ctxBlocks mask).length := by
  unfold ctxPlaces at h
  obtain ⟨_, _, -, h1⟩ := bind_inv h
  exact length_of_mapM _ h1

/-- The check of an area changes no core (R220). -/
theorem ctxPlaces_keepsCores {k : Kind} {base : Word} {mask : Nat} {z t : State} {ps : List (Nat × Word × Place)}
    (h : ctxPlaces k base mask z = .ok (ps, t)) : KeepsCores z t := by
  unfold ctxPlaces at h
  obtain ⟨_, _, htrap, h1⟩ := bind_inv h
  rw [trapIf_inv htrap] at h1
  refine mapM_keepsCores (fun off y z t hoff => ?_) _ h1
  obtain ⟨pl, u, hpl, h2⟩ := bind_inv hoff
  cases h2
  exact checkPlace_endsWithCores _ _ _ _ _ _ _ hpl

/-! ### CXSAVE -/

/-- Steps that answer alike in two states are followed alike. -/
theorem bind_alike {α β : Type} {x : Act α} {s s' : State} (f : α → Act β) (h : x s = x s') : (x >>= f) s = (x >>= f) s' := by
  cases hx : x s with
  | error e => rw [bind_error _ _ _ _ hx, bind_error _ _ _ _ (h.symm.trans hx)]
  | ok r => rw [bind_ok _ _ _ r.2 r.1 hx, bind_ok _ _ _ r.2 r.1 (h.symm.trans hx)]

/-- The entries of an instruction's stores are the same where the running core is listed anew as it is. -/
theorem mkEntries_listed {s : State} {bs : List ((Place × Policy) × Word × SMap Byte)} (hn : bs ≠ []) :
    mkEntries (bs.map plainBlock) s = mkEntries (bs.map plainBlock) (s.withCore s.core) := by
  obtain ⟨b, bs, rfl⟩ := List.exists_cons_of_ne_nil hn
  have hentry : entryOf (s.withCore s.core) (.store (plainBlock b).bytes) (plainBlock b).pl (plainBlock b).ea 0 0
      = entryOf s (.store (plainBlock b).bytes) (plainBlock b).pl (plainBlock b).ea 0 0 := entryOf_withCore ⟨rfl, rfl, rfl⟩ ..
  have hstamped : (s.withCore s.core).stamped = s.stamped := by rw [State.stamped, core_withCore, withCore_withCore, State.stamped]
  rw [List.map_cons, mkEntries, bind_ok _ _ _ _ _ (mkEntry_stamped ..), bind_ok _ _ _ _ _ (mkEntry_stamped ..), hentry, hstamped]

/-- Several stores outside regions are the same where the running core is listed anew as it is. -/
theorem storeMany_listed {s : State} {bs : List ((Place × Policy) × Word × SMap Byte)} (hr : s.core.region = none) (hb : s.core.rbuf = [])
    (hn : bs ≠ []) : storeMany (bs.map plainBlock) s = storeMany (bs.map plainBlock) (s.withCore s.core) := by
  have hfree : ∀ z, waitUntil ((bs.map plainBlock).isEmpty || s.core.rbuf.isEmpty) z = .ok ((), z) := fun z => waitUntil_ok (by simp [hb])
  unfold storeMany
  rw [bind_ok _ _ _ _ _ (getC_run _), bind_ok _ _ _ _ _ (get_run _), bind_ok _ _ _ _ _ (getC_run _), bind_ok _ _ _ _ _ (get_run _),
    core_withCore, hr]
  exact (bind_of (hfree s) (bind_alike _ (mkEntries_listed hn))).trans (bind_of (hfree _) rfl).symm

/-- The stores of CXSAVE, block by block: the doublewords of core k's context under DIRECT policy (R340, R341). -/
def ctxStores (p : State) (k : Nat) (ps : List (Nat × Word × Place)) : List ((Place × Policy) × Word × SMap Byte) :=
  ps.map (fun q => ((q.2.2, .direct), q.2.1,
    (List.range 64).map (fun j => (j, BitVec.ofNat 8 (ctxWord p k (q.1 + j / 8 * 8) / 2 ^ (8 * (j % 8)))))))

section

variable {a : BitVec 4} {s p : State} {x : Nat} (hx : (s.core.valueOf a.toNat).toNat = x) (hp : s.popped a.toNat = p)
  (hsup : s.core.supervisor = true) (ha : s.core.readable a.toNat = true) (hres : x / 128 % 32 = 0) (hq : s.core.quiet = true)

include hx hsup ha hres hq

/-- CXSAVE with no section selected completes (R340). -/
theorem exec_cxsave_none (h0 : x % 128 = 0) (hw : s.core.wait ≠ some .stores) :
    exec (.cxsave a) s = .next (s.withCore ((s.core.popped a.toNat).advance 4)) := by
  rw [exec_cxsave, execCxsave, runInstr_congr (withStores_first _ s hw)]
  refine runInstr_ok _ _ _ (bind_of (ctxOperand_ok hx hsup ha hres hq) ?_)
  simp only [h0, if_true, retire_run, core_popped, withCore_popped]

/-- CXLOAD with no section selected completes (R340). -/
theorem exec_cxload_none (h0 : x % 128 = 0) : exec (.cxload a) s = .next (s.withCore ((s.core.popped a.toNat).advance 4)) := by
  rw [exec_cxload, execCxload]
  refine runInstr_ok _ _ _ (bind_of (get_run s) (bind_of (ctxOperand_ok hx hsup ha hres hq) ?_))
  simp only [h0, if_true, retire_run, core_popped, withCore_popped]

include hp

/-- CXSAVE begins its stores once the core's work and its earlier accesses are done, and waits until all have entered (R340; log 18). -/
theorem exec_cxsave_begins {s1 : State} {ps : List (Nat × Word × Place)} (h0 : x % 128 ≠ 0) (hw : s.core.wait = none)
    (hset : s.core.settled = true) (hf : fenced p p.cur 4 = true)
    (hps : ctxPlaces .store (BitVec.ofNat 64 (x / 4096 * 4096)) (x % 128) p = .ok (ps, s1)) (hclean : ctxPoison s.core (x % 128) = none)
    (hr : s1.core.region = none) (hb : s1.core.rbuf = []) :
    exec (.cxsave a) s = .next (s1.withCore (storesBegun s1 s1.core (ctxStores p p.cur ps))) := by
  have hlen : 16 < (ctxStores p p.cur ps).length := by
    rw [ctxStores, List.length_map, length_ctxPlaces hps]
    exact ctxBlocks_many h0 (Nat.mod_lt _ (by decide))
  have hcur : s.cur = s1.cur := by rw [(ctxPlaces_keepsCores hps).2, ← hp, cur_popped]
  have hpset : p.core.settled = true := by
    rw [← hp, core_popped, s.core.of_popped Core.settled (fun _ _ => rfl), hset]
  have hpclean : ctxPoison p.core (x % 128) = none := by
    rw [← hp, core_popped, s.core.of_popped (fun c => ctxPoison c (x % 128)) (fun _ _ => rfl), hclean]
  have hstores : ps.map (fun q => ({ pl := (q.2.2, .direct), ea := q.2.1, pair := false, bytes := (List.range 64).map (fun j =>
      (j, BitVec.ofNat 8 (ctxWord p p.cur (q.1 + j / 8 * 8) / 2 ^ (8 * (j % 8))))) } : Block)) = (ctxStores p p.cur ps).map plainBlock := by
    rw [ctxStores, List.map_map]
    rfl
  have hbegun := (storeMany_listed hr hb (List.ne_nil_of_length_pos (by omega))).trans
    (storeMany_begun (s := s1) ⟨rfl, rfl, rfl⟩ hr hb hlen)
  rw [exec_cxsave, execCxsave, runInstr_withStores _ hw]
  refine (runInstr_block _ _ (s1.withCore { storesBegun s1 s1.core (ctxStores p p.cur ps) with stalled := s1.core.stalled })
    (bind_of (ctxOperand_ok hx hsup ha hres hq) ?_)).trans ?_
  · dsimp only
    rw [hp, if_neg h0]
    refine bind_of (get_run p) (bind_of (waitUntil_ok (by rw [hpset, hf]; rfl)) (bind_of hps ?_))
    rw [hpclean]
    exact bind_error _ _ _ _ ((congrArg (fun l => storeMany l s1) hstores).trans hbegun)
  · rw [hcur]
    refine (congrArg _ (modCoreAt_cur (s1.withCore _) _)).trans ?_
    rw [core_withCore, withCore_withCore]
    rfl

/-! ### CXLOAD -/

/-- CXLOAD of an area whose doublewords are valid loads its sections; with section 0 the core's partial lines go home (R125, R340). -/
theorem exec_cxload_loads {s1 s2 : State} {ps : List (Nat × Word × Place)} {vs : List Nat} {mask : Nat} {w : Nat → Nat}
    (hmask : x % 128 = mask) (h0 : mask ≠ 0) (hset : s.core.settled = true) (hl : s.core.loads = []) (hd : p.core.drained = true)
    (hps : ctxPlaces .load (BitVec.ofNat 64 (x / 4096 * 4096)) mask p = .ok (ps, s1))
    (hg : gather s (ps.map (fun q => (q.2.1, 64, (q.2.2, .direct)))) s1 = .ok (vs, s2))
    (hw : ctxValues (ps.zipWith (fun q v => (q.1, v)) vs) = w)
    (hok : ∀ off ∈ (ctxBlocks mask).flatMap (fun b => (List.range 8).map (fun i => b + 8 * i)), ctxBad p.core mask w off = false)
    (hdef : mask.testBit 3 = true → s.core.deferred.all (fun q => q.2.isEmpty) = true) :
    let u := if mask % 2 = 1 then flushPartials s2 s2.cur s.core.contrib.toNat else s2
    exec (.cxload a) s = .next (u.withCore ((u.core.loadContext mask w).advance 4)) := by
  intro u
  have hpset : p.core.settled = true := by
    rw [← hp, core_popped, s.core.of_popped Core.settled (fun _ _ => rfl), hset]
  have hpl : p.core.loads = [] := by rw [← hp, core_popped, s.core.of_popped Core.loads (fun _ _ => rfl), hl]
  have hpcontrib : p.core.contrib = s.core.contrib := by rw [← hp, core_popped, s.core.of_popped Core.contrib (fun _ _ => rfl)]
  have hpdef : p.core.deferred = s.core.deferred := by rw [← hp, core_popped, s.core.of_popped Core.deferred (fun _ _ => rfl)]
  have hvalid : (ctxBlocks mask).findSome? (fun b => ((List.range 8).map (fun i => b + 8 * i)).find? (ctxBad p.core mask w)) = none := by
    simp only [List.findSome?_eq_none_iff, List.find?_eq_none]
    intro b hb off hoff
    rw [hok off (List.mem_flatMap.mpr ⟨b, hb, hoff⟩)]
    decide
  have hempty : s.core.deferred.find? (fun q => mask.testBit 3 && !q.2.isEmpty) = none := by
    rw [List.find?_eq_none]
    intro q hq
    cases hbit : mask.testBit 3 with
    | false => simp
    | true => simpa using List.all_eq_true.mp (hdef hbit) q hq
  rw [exec_cxload, execCxload]
  refine runInstr_ok _ _ _ (bind_of (get_run s) (bind_of (ctxOperand_ok hx hsup ha hres hq) ?_))
  dsimp only
  rw [hp, hmask, if_neg h0]
  refine bind_of (getC_run p) (bind_of (waitUntil_ok (by rw [hpset, hpl, hd]; rfl)) (bind_of hps (bind_of hg ?_)))
  simp only [hw, hvalid, hpdef, hempty, hpcontrib]
  refine bind_of (pure_run _ _) ?_
  have hend : ∀ z : State, (do modC (fun c => c.loadContext mask w); retire 4 : Act Unit) z
      = .ok ((), z.withCore ((z.core.loadContext mask w).advance 4)) := by
    intro z
    rw [bind_ok _ _ _ _ _ (modC_run _ z), retire_run, core_withCore, withCore_withCore]
  by_cases hodd : mask % 2 = 1
  · simp only [u, hodd, if_true]
    exact bind_of (modify_run _ _) (hend _)
  · simp only [u, hodd, if_false]
    exact hend s2

end

/-- Settles O50: each of the two by its operand's check, its mask, and what its area holds. -/
theorem contexts : Obligations.Contexts := by
  intro a s s1 s2 ps vs c x p base mask quiet
  refine ⟨fun hw hi => ?_, fun hsup ha hres hq => ⟨fun h0 => ⟨?_, ?_⟩, fun h0 hw hset hf hps hclean hr hb => ?_,
    ?_⟩, fun hsup => ⟨fun hw => ?_, ?_⟩⟩
  · exact runInstr_ok _ _ _ ((withStores_done _ _ hw hi).trans (retire_run _ _))
  · exact exec_cxsave_none rfl hsup ha hres hq h0
  · exact exec_cxload_none rfl hsup ha hres hq h0
  · exact exec_cxsave_begins rfl rfl hsup ha hres hq h0 hw hset hf hps hclean hr hb
  · intro h0 hset hl hd hps hg w hok hdef
    exact exec_cxload_loads rfl rfl hsup ha hres hq rfl h0 hset hl hd hps hg rfl hok hdef
  · exact runInstr_trap _ _ _ _ ((withStores_first _ s hw).trans (ctxOperand_user hsup))
  · exact runInstr_trap _ _ _ _ (bind_of (get_run s) (ctxOperand_user hsup))

end Sys2Proof.Machine
end

section
/-!
PROOFS. Binding (R310 to R314, R322): CBIND, CEDIT, CUNBIND and CREVOKE.
-/

namespace Sys2Proof.Machine

open Sys2Proof.Spec

/-! ### CBIND and CEDIT (R312, R313) -/

/-- The running core's team is urgent. -/
def urgentNow (s : State) : Bool := match s.core.team.bind (teamAt s) with | some m => m.urgent | none => false

/-- What CBIND and CEDIT do once their operand is given: the block is read, the core's earlier accesses are done, and the engine reads what the block
names (R310). -/
theorem bindInstr_run {edit : Bool} {op : BindOp} {g a : BitVec 4} {t p s1 s2 : State} {x : Word} {ws : List Nat}
    (ha : t.core.readable a.toNat = true) (hx : t.core.valueOf a.toNat = x) (hp : t.popped a.toNat = p) (hw : p.core.writable g.toNat = true)
    (hblock : readBlock t x 16 p = .ok (ws, s1)) (hfree : sheetFree s1 = true) (hf : fenced s1 s1.cur 3 = true) :
    let w := fun i => ws.getD i 0
    let user := !s1.core.supervisor
    let r := op s2 (coreRead s2 s2.cur user) (coreRead s2 s2.cur user) w user (urgentNow s1)
    engineMarks s1 10 (bindBlock w).sheet = [] → engineReads (bindReads s1 (coreRead s1 s1.cur user) w edit) s1 = .ok ((), s2) →
    r.2.2.core.writable g.toNat = true → bindInstr edit op g a t = .ok ((), giving r.2.2 g (sheetWord r.1 r.2.1 0)) := by
  intro w user r hmarks hreads hgives
  refine bind_of (get_run t) ((readReg_bind _ _ _ ha).trans ?_)
  rw [hx, hp]
  refine bind_of (canWrite_ok _ _ hw) (bind_of hblock (bind_of (sheetTurn_ok hfree) (bind_of (released_ok hf) (bind_of (get_run s1) ?_))))
  exact bind_of (engineState_ok hmarks) (bind_of hreads (bind_of (get_run s2) (set_giving hgives)))

/-! ### CUNBIND (R314) -/

/-- What CUNBIND answers: NOCELL where the operand's high bits are not 0, or the code of its unbinding (R314). -/
def unbindAnswer (p : State) (x : Nat) : Nat × State :=
  if x / 2 ^ 28 % 2 ^ 35 ≠ 0 then (shNOCELL, p) else unbindOp p (x / 2 ^ 20 % 256) (x % 2 ^ 20)

theorem unbindAnswer_noCell {p : State} {x : Nat} (h : x / 2 ^ 28 % 2 ^ 35 ≠ 0) : unbindAnswer p x = (shNOCELL, p) := if_pos h

theorem unbindAnswer_unbinds {p : State} {x : Nat} (h : x / 2 ^ 28 % 2 ^ 35 = 0) :
    unbindAnswer p x = unbindOp p (x / 2 ^ 20 % 256) (x % 2 ^ 20) := if_neg (not_not_intro h)

/-- CUNBIND gives its answer (R314). -/
theorem exec_cunbind_run {g a : BitVec 4} {s t p : State} {x : Word} {r : Nat × State} (htwin : s.core.twin = none) (ht : s.terminated = t)
    (ha : t.core.readable a.toNat = true) (hx : t.core.valueOf a.toNat = x) (hp : t.popped a.toNat = p) (hw : p.core.writable g.toNat = true)
    (hfree : sheetFree p = true) (hmarks : engineMarks p 10 (x.toNat / 2 ^ 20 % 256) = [])
    (hr : unbindAnswer p x.toNat = r) (hgives : r.2.core.writable g.toNat = true) :
    exec (.cunbind g a) s = .next (giving r.2 g (sheetWord r.1 0 0)) := by
  subst hr
  rw [exec_cunbind, execCunbind, runTermOnce_eq _ _ _ _ _ htwin, ht]
  refine runInstr_ok _ _ _ ((readReg_bind _ _ _ ha).trans ?_)
  rw [hx, hp, packed_eq]
  refine bind_of (canWrite_ok _ _ hw) (bind_of (sheetTurn_ok hfree) ?_)
  exact bind_of (engineState_ok hmarks) (bind_of (get_run p) (set_giving hgives))

/-! ### CREVOKE (R322) -/

/-- What CREVOKE answers: BADDESC for a generation beyond 48 bits, NOSHEET where the operand's high bits are not 0, or the code of its revocation. -/
def revokeAnswer (q : State) (sheet gen : Nat) : Nat × Nat × State :=
  if gen / 2 ^ 48 ≠ 0 then (shBADDESC, 0, q) else if sheet / 2 ^ 28 % 2 ^ 35 ≠ 0 then (shNOSHEET, 0, q) else revokeOp q (sheet / 2 ^ 20 % 256) gen

theorem revokeAnswer_beyond {q : State} {sheet gen : Nat} (hgen : 2 ^ 48 ≤ gen) : revokeAnswer q sheet gen = (shBADDESC, 0, q) :=
  if_pos (by omega)

theorem revokeAnswer_noSheet {q : State} {sheet gen : Nat} (hgen : gen < 2 ^ 48) (h : sheet / 2 ^ 28 % 2 ^ 35 ≠ 0) :
    revokeAnswer q sheet gen = (shNOSHEET, 0, q) := by rw [revokeAnswer, if_neg (by omega), if_pos h]

theorem revokeAnswer_revokes {q : State} {sheet gen : Nat} (hgen : gen < 2 ^ 48) (h : sheet / 2 ^ 28 % 2 ^ 35 = 0) :
    revokeAnswer q sheet gen = revokeOp q (sheet / 2 ^ 20 % 256) gen := by rw [revokeAnswer, if_neg (by omega), if_neg (not_not_intro h)]

/-- CREVOKE in supervisor mode gives its answer (R322). -/
theorem exec_crevoke_run {g a : BitVec 4} {s t q : State} {sheet gen : Nat} {r : Nat × Nat × State} (htwin : s.core.twin = none)
    (ht : s.terminated = t) (hsup : t.core.supervisor = true) (hreads : t.core.readsOk (pairRegs a.toNat) = true)
    (hq : t.afterReads (pairRegs a.toNat) = q) (hsheet : (Spec.firstOf t.core a).toNat = sheet) (hgen : (Spec.secondOf t.core a).toNat = gen)
    (hw : q.core.writable g.toNat = true) (hfree : sheetFree q = true) (hmarks : engineMarks q 10 (sheet / 2 ^ 20 % 256) = [])
    (hr : revokeAnswer q sheet gen = r) (hgives : r.2.2.core.writable g.toNat = true) :
    exec (.crevoke g a) s = .next (giving r.2.2 g (sheetWord r.1 r.2.1 0)) := by
  subst hr hsheet hgen
  rw [exec_crevoke, execCrevoke, runTermOnce_eq _ _ _ _ _ htwin, ht]
  refine runInstr_ok _ _ _ (bind_of (supervisorOnly_ok _ t hsup) (bind_of (readPair_given hreads) ?_))
  rw [hq]
  refine bind_of (canWrite_ok _ _ hw) (bind_of (sheetTurn_ok hfree) ?_)
  rw [packed_eq]
  exact bind_of (engineState_ok hmarks) (bind_of (get_run q) (set_giving hgives))

/-- CREVOKE in user mode is illegal (R322). -/
theorem exec_crevoke_user {g a : BitVec 4} {s : State} (htwin : s.core.twin = none) (hsup : s.terminated.core.supervisor = false) :
    exec (.crevoke g a) s = .next (raiseTrap s.terminated s.cur 2 (illegalVal 0x06 true (encode (.crevoke g a)))) := by
  rw [exec_crevoke, execCrevoke, runTermOnce_eq _ _ _ _ _ htwin, ← cur_terminated s]
  refine runInstr_trap _ _ _ _ (bind_error _ _ _ _ ?_)
  rw [supervisorOnly_run, hsup]
  rfl

/-- Settles O46: CBIND and CEDIT are one form with two operations; CUNBIND and CREVOKE by the fields of their operands. -/
theorem sheetBinding : Obligations.SheetBinding := by
  intro g a s s1 s2 ws t c x p urgent user w rd bound sound gives htwin
  refine ⟨fun ha hw hblock hfree hf => ⟨fun hs hgives => ?_, fun hs hgives => ?_⟩,
    fun ha hw hfree hmarks => ⟨fun h0 => ?_, fun h0 hgives => ?_⟩, ?_, exec_crevoke_user htwin⟩
  · rw [exec_cbind, execCbind, runTermOnce_eq _ _ _ _ _ htwin]
    exact runInstr_ok _ _ _ (bindInstr_run ha rfl rfl hw hblock hfree hf hs.1 hs.2 hgives)
  · rw [exec_cedit, execCedit, runTermOnce_eq _ _ _ _ _ htwin]
    exact runInstr_ok _ _ _ (bindInstr_run ha rfl rfl hw hblock hfree hf hs.1 hs.2 hgives)
  · intro r hgives
    have hrun := exec_cunbind_run htwin rfl ha rfl rfl hw hfree hmarks (unbindAnswer_unbinds h0)
    exact hrun hgives
  · exact exec_cunbind_run htwin rfl ha rfl rfl hw hfree hmarks (unbindAnswer_noCell h0) hgives
  · intro rs q sheet gen hsup hreads hw hfree hmarks
    refine ⟨fun hgen h0 hgives => ?_, fun hgen hgives => ?_, fun hgen h0 hgives => ?_⟩
    · exact exec_crevoke_run htwin rfl hsup hreads rfl rfl rfl hw hfree hmarks (revokeAnswer_revokes hgen h0) hgives
    · exact exec_crevoke_run htwin rfl hsup hreads rfl rfl rfl hw hfree hmarks (revokeAnswer_beyond hgen) hgives
    · exact exec_crevoke_run htwin rfl hsup hreads rfl rfl rfl hw hfree hmarks (revokeAnswer_noSheet hgen h0) hgives

end Sys2Proof.Machine
end

section
/-!
PROOFS. The sheet's sessions (R315 to R321, R323, R324): CWOPEN, CWPUB, CAPPEND, VOPEN, VCLOSE, CRD, CFENCE and CSTAT.
-/

namespace Sys2Proof.Machine

open Sys2Proof.Spec

/-! ### The high bits of an operand (R310) -/

/-- What the high bits of a packed operand decide: the command's own operation where they are 0, and else a code (R310). -/
def ifPlain {α : Type} (x : Word) (plain other : α) : α := if x.toNat / 2 ^ 28 % 2 ^ 35 == 0 then plain else other

/-- A choice by high bits that are not 0 is that by high bits that are. -/
theorem ifPlain_eq {α : Type} (x : Word) (plain other : α) :
    (if x.toNat / 2 ^ 28 % 2 ^ 35 ≠ 0 then other else plain) = ifPlain x plain other := by
  simp [ifPlain]

/-! ### The answers of CWOPEN, CFENCE and CRD (R315, R319, R320, R323) -/

/-- The entries of the team's table that a command loads are not the engine's: the core works for no formula, or they begin behind the engine's
(R323). -/
theorem ownedEntry_free {l : List Nat} {s : State} (h : s.core.shcell.getLsbD 63 = true → ∀ n ∈ l, 34 ≤ n) :
    ownedEntry l s = .ok ((), s) := by
  cases hf : s.core.shcell.getLsbD 63 with
  | false => exact ownedEntry_ok l hf
  | true =>
    have hnone : l.find? (fun n => decide (n < 34)) = none := by
      rw [List.find?_eq_none]
      intro n hn
      simpa using h hf n hn
    refine bind_of (getC_run s) ?_
    rw [hf, if_pos rfl, hnone]
    rfl

/-- What CWOPEN does at the engine with the contents of its block: a code, the wait, or the descriptors of its cells (R315). -/
def openAnswer (g : BitVec 4) (desc : BitVec 8) (s0 : State) (me n w0 : Nat) (cells : List Nat) : Act Unit := do
  if blockBad w0 64 cells || 256 < desc.toNat + cells.length then writeReg g.toNat (sheetWord shBADDESC 0 0)
  else match openOp (← get) me n cells with
    | .code c => writeReg g.toNat (sheetWord c 0 0)
    | .wait => keepWaiting (noteWaiting s0 me (some (n, cells))) w0 cells
    | .ok ds s' =>
      set (loadTds s' desc.toNat ds)
      writeReg g.toNat (sheetWord shOK 0 0)
  retire 4

section

variable {g : BitVec 4} {desc : BitVec 8} {s0 z : State} {me n w0 : Nat} {cells : List Nat}

/-- CWOPEN of a malformed block, or whose entries go beyond the table, gives BADDESC (R315). -/
theorem openAnswer_bad (hbad : (blockBad w0 64 cells || decide (256 < desc.toNat + cells.length)) = true) (hw : z.core.writable g.toNat = true) :
    openAnswer g desc s0 me n w0 cells z = .ok ((), giving z g (sheetWord shBADDESC 0 0)) := by
  unfold openAnswer
  rw [if_pos hbad]
  exact giving_run hw

/-- CWOPEN gives the code of its session where it has one (R315). -/
theorem openAnswer_code {code : Nat} (hbad : (blockBad w0 64 cells || decide (256 < desc.toNat + cells.length)) = false)
    (hop : openOp z me n cells = .code code) (hw : z.core.writable g.toNat = true) :
    openAnswer g desc s0 me n w0 cells z = .ok ((), giving z g (sheetWord code 0 0)) := by
  unfold openAnswer
  rw [if_neg (by rw [hbad]; decide)]
  refine bind_of (get_run z) ?_
  rw [hop]
  exact giving_run hw

/-- CWOPEN that opens its session loads the descriptors of its cells (R315, R323). -/
theorem openAnswer_opens {ds : List Desc} {s2 : State} (hbad : (blockBad w0 64 cells || decide (256 < desc.toNat + cells.length)) = false)
    (hop : openOp z me n cells = .ok ds s2) (hw : (loadTds s2 desc.toNat ds).core.writable g.toNat = true) :
    openAnswer g desc s0 me n w0 cells z = .ok ((), giving (loadTds s2 desc.toNat ds) g (sheetWord shOK 0 0)) := by
  unfold openAnswer
  rw [if_neg (by rw [hbad]; decide)]
  refine bind_of (get_run z) ?_
  rw [hop]
  exact set_giving hw

end

/-- What CFENCE does at the engine with the contents of its block: BADDESC, its code, or the wait (R320). -/
def fenceAnswer (g v : BitVec 4) (s0 : State) (n w0 : Nat) (cells : List Nat) (s : State) : Act Unit := do
  if blockBad w0 16 cells then writeReg g.toNat (sheetWord shBADDESC 0 0)
  else match fenceCode s (ownerOf s s.cur) v.toNat n cells with
    | some c => writeReg g.toNat (sheetWord c 0 0)
    | none => keepWaiting s0 w0 cells
  retire 4

section

variable {g v : BitVec 4} {t s1 : State} {n w0 : Nat} {cells : List Nat}

/-- CFENCE of a malformed block gives BADDESC (R320). -/
theorem fenceAnswer_bad (hbad : blockBad w0 16 cells = true) (hw : s1.core.writable g.toNat = true) :
    fenceAnswer g v t n w0 cells s1 s1 = .ok ((), giving s1 g (sheetWord shBADDESC 0 0)) := by
  unfold fenceAnswer
  rw [if_pos hbad]
  exact giving_run hw

/-- CFENCE gives the code of its cells once it has one (R320). -/
theorem fenceAnswer_code {code : Nat} (hbad : blockBad w0 16 cells = false)
    (hcode : fenceCode s1 (ownerOf s1 s1.cur) v.toNat n cells = some code) (hw : s1.core.writable g.toNat = true) :
    fenceAnswer g v t n w0 cells s1 s1 = .ok ((), giving s1 g (sheetWord code 0 0)) := by
  unfold fenceAnswer
  rw [if_neg (by rw [hbad]; decide), hcode]
  exact giving_run hw

end

/-- What CRD does at the engine, which has read its tail headers: a code, the wait, or the descriptor and the address of its cell (R319). -/
def readAnswer (g : BitVec 4) (desc : BitVec 8) (v : BitVec 4) (hi n i : Nat) : Act Unit := do
  let s ← get
  if hi ≠ 0 then writePair g.toNat (BitVec.ofNat 64 shNOCELL) 0
  else match crdOp s (ownerOf s s.cur) v.toNat n i desc.toNat with
    | .code c => writePair g.toNat (BitVec.ofNat 64 c) 0
    | .wait => waitHere
    | .ok addr ds s' =>
      set (loadTds s' desc.toNat ds)
      writePair g.toNat (BitVec.ofNat 64 shOK) (BitVec.ofNat 64 addr)
  retire 4

section

variable {g v : BitVec 4} {desc : BitVec 8} {s1 : State} {hi n i : Nat}

/-- CRD of an operand whose high bits are not 0 gives NOCELL (R319). -/
theorem readAnswer_noCell (h : hi ≠ 0) (hw : pairWritable s1.core g = true) :
    readAnswer g desc v hi n i s1 = .ok ((), givingPair s1 g (BitVec.ofNat 64 shNOCELL) 0) := by
  refine bind_of (get_run s1) ?_
  rw [if_pos h]
  exact writePair_retire hw

/-- CRD gives the code of its cell where it has one (R319). -/
theorem readAnswer_code {code : Nat} (hop : crdOp s1 (ownerOf s1 s1.cur) v.toNat n i desc.toNat = .code code) (hw : pairWritable s1.core g = true) :
    readAnswer g desc v 0 n i s1 = .ok ((), givingPair s1 g (BitVec.ofNat 64 code) 0) := by
  refine bind_of (get_run s1) ?_
  rw [if_neg (by decide), hop]
  exact writePair_retire hw

/-- CRD loads the descriptor of its cell and gives the cell's address (R319, R323). -/
theorem readAnswer_loads {addr : Nat} {ds : List Desc} {s2 : State} (hop : crdOp s1 (ownerOf s1 s1.cur) v.toNat n i desc.toNat = .ok addr ds s2)
    (hw : pairWritable (loadTds s2 desc.toNat ds).core g = true) :
    readAnswer g desc v 0 n i s1 = .ok ((), givingPair (loadTds s2 desc.toNat ds) g (BitVec.ofNat 64 shOK) (BitVec.ofNat 64 addr)) := by
  refine bind_of (get_run s1) ?_
  rw [if_neg (by decide), hop]
  exact bind_of (set_run s1 _) (writePair_retire hw)

end

/-! ### CWOPEN (R315, R323, R324) -/

section

variable {g a v : BitVec 4} {desc : BitVec 8} {s t p s1 : State} {x : Word} {w0 : Nat} {cells : List Nat} (htwin : s.core.twin = none)
  (ht : s.terminated = t) (ha : t.core.readable a.toNat = true) (hx : t.core.valueOf a.toNat = x) (hp : t.popped a.toNat = p)

include htwin ht ha hx hp

/-- CWOPEN runs to its answer at the engine, at which the core's session waits no more (R315, R324). -/
theorem exec_cwopen_answer {n me : Nat} {z u : State} (hw : p.core.writable g.toNat = true) (hblock : carriedCells t x 64 p = .ok ((w0, cells), s1))
    (howned : s1.core.shcell.getLsbD 63 = true → cells = [] ∨ 34 ≤ desc.toNat) (hfree : sheetFree s1 = true) (hme : ownerOf s1 s1.cur = me)
    (hn : w0 / 2 ^ 20 % 256 = n) (hmarks : engineMarks s1 10 n = []) (hz : noteWaiting s1 me none = z)
    (hend : openAnswer g desc t me n w0 cells z = .ok ((), u)) : exec (.cwopen g desc a) s = .next u := by
  subst hme hn hz
  rw [exec_cwopen, execCwopen, runTermOnce_eq _ _ _ _ _ htwin, ht]
  refine runInstr_ok _ _ _ (bind_of (get_run t) ((readReg_bind _ _ _ ha).trans ?_))
  rw [hx, hp]
  refine bind_of (canWrite_ok _ _ hw) (bind_of hblock (bind_of (ownedEntry_free fun hf m hm => ?_) ?_))
  · obtain ⟨i, hi, rfl⟩ := List.mem_map.mp hm
    rcases howned hf with rfl | hdesc
    · cases hi
    · omega
  · refine bind_of (sheetTurn_ok hfree) (bind_of (myOwner_run s1) (bind_of (modify_run _ s1) ?_))
    exact bind_of (engineState_ok hmarks) hend

/-! ### CWPUB (R77, R316) -/

omit hx in
/-- CWPUB whose answer has come gives it (R316). -/
theorem exec_cwpub_answered {cancel : BitVec 1} {v w : Word} (hg : g ≠ 0 ∨ s.core.region = none) (hr : t.core.reply = some (.value v w))
    (hw : p.core.writable g.toNat = true) : exec (.cwpub g a cancel) s = .next (giving p g v) := by
  rw [exec_cwpub, execCwpub, if_neg (notHeld hg), runTermOnce_eq _ _ _ _ _ htwin, ht]
  rw [withReply_writes hr (readReg_ok _ _ ha) (by rwa [hp]), hp]
  rfl

/-- CWPUB sends its publish once the core's earlier accesses have performed, and waits for the answer (R131, R316). -/
theorem exec_cwpub_sends {cancel : BitVec 1} (hg : g ≠ 0 ∨ s.core.region = none) (hb : begins t.core = true) (hw : p.core.writable g.toNat = true)
    (hfree : sheetFree p = true) (hmarks : engineMarks p 10 (x.toNat / 2 ^ 20 % 256) = []) (hf : fenced p p.cur 3 = true) :
    exec (.cwpub g a cancel) s = .next { t.withCore { t.core with wait := some .reply, stalled := true } with
      publishes := t.publishes ++ [{ core := t.cur, operand := x, cancel := cancel == 1, reply := true }] } := by
  obtain ⟨hwait, hreply⟩ : t.core.wait = none ∧ t.core.reply = none := by simpa [begins] using hb
  rw [exec_cwpub, execCwpub, if_neg (notHeld hg), runTermOnce_eq _ _ _ _ _ htwin, ht]
  refine (runInstr_sent (s2 := p) (x := x) (s1 := p)
    (f := fun z => { z with publishes := z.publishes ++ [{ core := z.cur, operand := x, cancel := cancel == 1, reply := true }] })
    hreply hwait ?_ ?_ rfl).trans rfl
  · rw [readReg_ok _ _ ha, hx, hp]
  · refine bind_of (canWrite_ok _ _ hw) (bind_of (sheetTurn_ok hfree) (bind_of (released_ok hf) ?_))
    rw [packed_eq]
    exact bind_of (engineState_ok hmarks) rfl

/-! ### CAPPEND, VOPEN and CSTAT (R317, R318, R321) -/

/-- CAPPEND gives the code of its appends, or NOCELL (R317). -/
theorem exec_cappend_run {k : BitVec 6} {r : Nat × State} (hg : g ≠ 0 ∨ s.core.region = none) (hw : p.core.writable g.toNat = true)
    (hfree : sheetFree p = true) (hmarks : engineMarks p 10 (x.toNat / 2 ^ 20 % 256) = [])
    (hr : ifPlain x (appendOp p (ownerOf p p.cur) (x.toNat / 2 ^ 20 % 256) (x.toNat % 2 ^ 20) (k.toNat + 1)) (shNOCELL, p) = r)
    (hgives : r.2.core.writable g.toNat = true) : exec (.cappend g k a) s = .next (giving r.2 g (sheetWord r.1 0 0)) := by
  have hpacked : appendPacked p (ownerOf p p.cur) x (k.toNat + 1) = r := by
    rw [appendPacked, packed_eq, ← hr, ← ifPlain_eq]
  rw [exec_cappend, execCappend, if_neg (notHeld hg), runTermOnce_eq _ _ _ _ _ htwin, ht]
  refine runInstr_ok _ _ _ ((readReg_bind _ _ _ ha).trans ?_)
  rw [hx, hp]
  refine bind_of (canWrite_ok _ _ hw) (bind_of (sheetTurn_ok hfree) (bind_of (myOwner_run p) ?_))
  rw [packed_eq]
  refine bind_of (engineState_ok hmarks) (bind_of (get_run p) ?_)
  rw [hpacked]
  exact set_giving hgives

/-- VOPEN gives the code, the generation and the number of its view, or NOSHEET (R318). -/
theorem exec_vopen_run {r : Nat × Nat × Nat × State} (hw : p.core.writable g.toNat = true) (hfree : sheetFree p = true)
    (hmarks : engineMarks p 10 (x.toNat / 2 ^ 20 % 256) = [])
    (hr : ifPlain x (vopenOp p (ownerOf p p.cur) (x.toNat / 2 ^ 20 % 256)) (shNOSHEET, 0, 0, p) = r) (hgives : r.2.2.2.core.writable g.toNat = true) :
    exec (.vopen g a) s = .next (giving r.2.2.2 g (sheetWord r.1 r.2.1 r.2.2.1)) := by
  rw [← ifPlain_eq] at hr
  rw [exec_vopen, execVopen, runTermOnce_eq _ _ _ _ _ htwin, ht]
  refine runInstr_ok _ _ _ ((readReg_bind _ _ _ ha).trans ?_)
  rw [hx, hp]
  refine bind_of (canWrite_ok _ _ hw) (bind_of (sheetTurn_ok hfree) ?_)
  rw [packed_eq]
  refine bind_of (engineState_ok hmarks) (bind_of (get_run p) ?_)
  rw [hr]
  exact set_giving hgives

/-- CSTAT gives the status of its cell, or NOCELL (R321). -/
theorem exec_cstat_run {r : Word × Word} (hw : pairWritable p.core g = true) (hfree : sheetFree p = true)
    (hmarks : engineMarks p 10 (x.toNat / 2 ^ 20 % 256) = [])
    (hr : ifPlain x (statOp p (x.toNat / 2 ^ 20 % 256) (x.toNat % 2 ^ 20)) (BitVec.ofNat 64 shNOCELL, 0) = r) :
    exec (.cstat g a) s = .next (givingPair p g r.1 r.2) := by
  rw [← ifPlain_eq] at hr
  rw [exec_cstat, execCstat, runTermOnce_eq _ _ _ _ _ htwin, ht]
  refine runInstr_ok _ _ _ ((readReg_bind _ _ _ ha).trans ?_)
  rw [hx, hp]
  refine bind_of (sheetTurn_ok hfree) ?_
  rw [packed_eq]
  refine bind_of (engineState_ok hmarks) (bind_of (get_run p) ?_)
  rw [hr]
  exact writePair_retire hw

/-! ### CFENCE (R320) -/

/-- CFENCE runs to its answer at the engine (R320). -/
theorem exec_cfence_answer {n : Nat} {u : State} (hw : p.core.writable g.toNat = true) (hblock : carriedCells t x 16 p = .ok ((w0, cells), s1))
    (hfree : sheetFree s1 = true) (hn : w0 / 2 ^ 20 % 256 = n) (hmarks : engineMarks s1 10 n = [])
    (hend : fenceAnswer g v t n w0 cells s1 s1 = .ok ((), u)) : exec (.cfence g a v) s = .next u := by
  subst hn
  rw [exec_cfence, execCfence, runTermOnce_eq _ _ _ _ _ htwin, ht]
  refine runInstr_ok _ _ _ (bind_of (get_run t) ((readReg_bind _ _ _ ha).trans ?_))
  rw [hx, hp]
  refine bind_of (canWrite_ok _ _ hw) (bind_of hblock (bind_of (sheetTurn_ok hfree) ?_))
  exact bind_of (engineState_ok hmarks) (bind_of (get_run s1) hend)

/-! ### CRD (R319, R323) -/

/-- CRD runs to its answer at the engine; it reads tail headers where its operand's high bits are 0 (R319, R323). -/
theorem exec_crd_answer {hi n i : Nat} {u : State} (hw : pairWritable p.core g = true) (hw' : g = 0 ∨ p.core.writable (g.toNat + 1) = true)
    (howned : p.core.shcell.getLsbD 63 = true → 34 ≤ desc.toNat) (hfree : sheetFree p = true) (hhi : x.toNat / 2 ^ 28 % 2 ^ 35 = hi)
    (hn : x.toNat / 2 ^ 20 % 256 = n) (hi' : x.toNat % 2 ^ 20 = i) (hmarks : engineMarks p 10 n = [])
    (hread : if hi = 0 then readHeaders (crdReads p (ownerOf p p.cur) v.toNat n i) p = .ok ((), s1) else s1 = p)
    (hend : readAnswer g desc v hi n i s1 = .ok ((), u)) : exec (.crd g desc a v) s = .next u := by
  subst hhi hn hi'
  rw [exec_crd, execCrd, runTermOnce_eq _ _ _ _ _ htwin, ht]
  refine runInstr_ok _ _ _ ((readReg_bind _ _ _ ha).trans ?_)
  rw [hx, hp]
  refine guardedTwo_run (fun hg => canWrite_ok _ _ ?_) (fun hg => canWrite_ok _ _ ?_) ?_
  · exact ((Bool.or_eq_true _ _).mp hw).elim (fun h0 => absurd (beq_iff_eq.mp h0) (bne_iff_ne.mp hg)) fun h => ((Bool.and_eq_true _ _).mp h).1
  · exact hw'.resolve_left (bne_iff_ne.mp hg)
  refine bind_of (ownedEntry_free fun hf m hm => ?_) (bind_of (sheetTurn_ok hfree) ?_)
  · rw [List.mem_singleton.mp hm]
    exact howned hf
  rw [packed_eq]
  exact bind_of (engineState_ok hmarks) (bind_of (get_run p) (guarded_run hread hend))

end

/-! ### VCLOSE (R318) -/

/-- VCLOSE gives the code of its closing; where the view is open the engine reads its sheet (R318, R405). -/
theorem exec_vclose_run {g v : BitVec 4} {s t : State} {r : Nat × State} (htwin : s.core.twin = none) (ht : s.terminated = t)
    (hw : t.core.writable g.toNat = true) (hfree : sheetFree t = true)
    (hmarks : ∀ w, viewAt t (ownerOf t t.cur) v.toNat = some w → engineMarks t 10 w.sheet = [])
    (hr : vcloseOp t (ownerOf t t.cur) v.toNat = r) (hgives : r.2.core.writable g.toNat = true) :
    exec (.vclose g v) s = .next (giving r.2 g (sheetWord r.1 0 0)) := by
  subst hr
  rw [exec_vclose, execVclose, runTermOnce_eq _ _ _ _ _ htwin, ht]
  refine runInstr_ok _ _ _ (bind_of (canWrite_ok _ _ hw) (bind_of (sheetTurn_ok hfree) (bind_of (get_run t) ?_)))
  refine bind_of (a := ()) (s' := t) ?_ (bind_of (get_run t) (set_giving hgives))
  cases hv : viewAt t (ownerOf t t.cur) v.toNat with
  | none => rfl
  | some w => exact engineState_ok (hmarks w hv)

/-- Settles O47: each command runs to its answer at the engine, and each answer is one of its cases. -/
theorem sheetSessions : Obligations.SheetSessions := by
  intro g a v desc k cancel s s1 w0 cells u u' t c x p me sheet plain cell gives sound free htwin ha
  have hfree : free = true → p.core.writable g.toNat = true ∧ sheetFree p = true ∧ engineMarks p 10 sheet = [] := by
    intro h
    simpa only [free, Bool.and_eq_true, List.isEmpty_iff, and_assoc] using h
  have hshcell : p.core.shcell = c.shcell := by
    rw [show p.core = c.popped a.toNat from core_popped t a.toNat, c.of_popped (fun c => c.shcell) (fun _ _ => rfl)]
  refine ⟨?_, fun hg hr hw => ?_, fun hg hb hf hfen => ?_, fun hf => ⟨fun hg => ?_, ?_⟩, ?_, fun hw hw' howned hf hm => ?_, ?_, ?_⟩
  · intro hw hblock howned hf hm z bad
    have hrun := fun {u} => exec_cwopen_answer (u := u) htwin rfl ha rfl rfl hw hblock howned hf rfl rfl hm rfl
    exact ⟨fun hbad hgives => hrun (openAnswer_bad hbad hgives), fun hbad code hop hgives => hrun (openAnswer_code hbad hop hgives),
      fun hbad ds s2 hop hgives => hrun (openAnswer_opens hbad hop hgives)⟩
  · exact exec_cwpub_answered htwin rfl ha rfl hg hr hw
  · obtain ⟨hw, hf, hm⟩ := hfree hf
    exact exec_cwpub_sends htwin rfl ha rfl rfl hg hb hw hf hm hfen
  · obtain ⟨hw, hf, hm⟩ := hfree hf
    exact exec_cappend_run htwin rfl ha rfl rfl hg hw hf hm rfl
  · obtain ⟨hw, hf, hm⟩ := hfree hf
    exact exec_vopen_run htwin rfl ha rfl rfl hw hf hm rfl
  · intro hw hf hm
    exact exec_vclose_run htwin rfl hw hf hm rfl
  · have howned' : p.core.shcell.getLsbD 63 = true → 34 ≤ desc.toNat := by rwa [hshcell]
    have hrun := fun {hi s1 u} hhi => exec_crd_answer (v := v) (hi := hi) (s1 := s1) (u := u) htwin rfl ha rfl rfl hw hw' howned' hf hhi rfl rfl hm
    refine ⟨fun hplain => ?_, fun hplain hread code hop hgives => ?_, fun hplain hread addr ds s2 hop => ?_⟩
    · have h0 : x.toNat / 2 ^ 28 % 2 ^ 35 ≠ 0 := beq_eq_false_iff_ne.mp hplain
      exact hrun rfl (by rw [if_neg h0]) (readAnswer_noCell h0 hw)
    · exact hrun (beq_iff_eq.mp hplain) hread (readAnswer_code hop hgives)
    · intro z hgives
      exact hrun (beq_iff_eq.mp hplain) hread (readAnswer_loads hop hgives)
  · intro hw hblock hf hm
    have hrun := fun {u} => exec_cfence_answer (u := u) (v := v) htwin rfl ha rfl rfl hw hblock hf rfl hm
    exact ⟨fun hbad hgives => hrun (fenceAnswer_bad hbad hgives), fun hbad code hcode hgives => hrun (fenceAnswer_code hbad hcode hgives)⟩
  · intro hw hf hm
    exact exec_cstat_run htwin rfl ha rfl rfl hw hf hm rfl

end Sys2Proof.Machine
end

section
/-!
PROOFS. What the suffix engine reads and writes (R388, R394): the places that it checks and the lines that it combines change no core, and its writes
leave the core that runs.
-/

namespace Sys2Proof.Machine

open Sys2Proof.Spec

/-! ### Reads (R127, R220) -/

/-- The combination of physical ranges changes no core (R127). -/
theorem physCombine_keepsCores (s : State) (l : List (Nat × Nat)) : KeepsCores s (physCombine s l) :=
  keepsCores_foldl _ s fun z x => combineBytes_keepsCores z x.1 x.2

/-- Reads of physical ranges that succeed change no core (R405). -/
theorem physReads_keepsCores {l : List (Nat × Nat)} {s t : State} (h : physReads l s = .ok ((), t)) : KeepsCores s t := by
  unfold physReads at h
  rw [bind_ok _ _ _ _ _ (get_run s)] at h
  cases hp : l.findSome? (fun x => poisonAt (physCombine s l) { space := .mem, key := 0, addr := x.1 } x.2) with
  | none =>
    simp only [hp] at h
    cases h
    exact physCombine_keepsCores s l
  | some m =>
    simp only [hp] at h
    cases h

/-- The check of the places of tokens changes no core (R327, R328). -/
theorem tokenPlaces_keepsCores {k : Kind} {x : Word} {n : Nat} {s t : State} {ps : List Place} (h : tokenPlaces k x n s = .ok (ps, t)) :
    KeepsCores s t := by
  unfold tokenPlaces at h
  rw [bind_ok _ _ _ _ _ (get_run s)] at h
  refine mapM_keepsCores (fun i y z t hi => ?_) _ h
  obtain ⟨_, _, hal, h1⟩ := bind_inv hi
  obtain ⟨_, _, hsp, h2⟩ := bind_inv h1
  obtain ⟨pl, _, hpl, h3⟩ := bind_inv h2
  cases h3
  rw [trapIf_inv hsp, trapIf_inv hal] at hpl
  exact checkAccess_keepsCores hpl

/-- The check of the places of an area changes no core (R329, R393). -/
theorem areaPlaces_keepsCores {k : Kind} {x : Word} {n : Nat} {s t : State} {ps : List (Place × Nat)} (h : areaPlaces k x n s = .ok (ps, t)) :
    KeepsCores s t := by
  unfold areaPlaces at h
  obtain ⟨_, _, hal, h1⟩ := bind_inv h
  obtain ⟨_, _, hsp, h2⟩ := bind_inv h1
  rw [trapIf_inv hsp, trapIf_inv hal] at h2
  refine mapM_keepsCores (fun i y z t hi => ?_) _ h2
  obtain ⟨pl, _, hpl, h3⟩ := bind_inv hi
  cases h3
  exact checkPlace_endsWithCores _ _ _ _ _ _ _ hpl

/-! ### Writes (R116, R388) -/

theorem cur_setPlaceBytes (s : State) (p : Place) (bs : SMap Byte) : (setPlaceBytes s p bs).cur = s.cur :=
  foldl_keeps State.cur (fun z b => by unfold setPlaceByte; split <;> rfl) bs s

theorem cur_cleanPlace (s : State) (p : Place) (n : Nat) : (cleanPlace s p n).cur = s.cur := by
  unfold cleanPlace
  split
  · split <;> rfl
  all_goals rfl

theorem cur_cleanBytes (s : State) (p : Place) (bs : SMap Byte) : (cleanBytes s p bs).cur = s.cur :=
  foldl_keeps State.cur (fun z _ => cur_cleanPlace z _ _) _ s

theorem cur_mirrorTwin (s : State) (src : Nat) (p : Place) (once clean : Bool) (offs : List Nat) :
    (mirrorTwin s src p once clean offs).cur = s.cur := by
  have hset : ∀ (q : Place) (z : State), (offs.foldl (fun s i => setPlaceByte s q i (placeByte s p i)) z).cur = z.cur := fun q z =>
    foldl_keeps State.cur (fun z i => cur_setPlaceBytes z q [(i, _)]) offs z
  unfold mirrorTwin
  split
  · split
    · rfl
    · refine (hset _ _).trans ?_
      split
      · exact cur_cleanBytes _ _ _
      · rfl
  · rfl

theorem cur_noteWrite (s : State) (k : Nat) : (noteWrite s k).cur = s.cur := (noteWrite_replaces s k).2.1

theorem cur_noteBank (s : State) (p : Place) : (noteBank s p).cur = s.cur := by
  unfold noteBank
  split
  · dsimp only
    split
    · exact (cur_noteWrite _ _).trans (cur_noteWrite _ _)
    · exact cur_noteWrite _ _
  · rfl

/-- A store that performs leaves the core that runs. -/
theorem cur_performAt_store (s : State) (src : Nat) (p : Place) (bs : SMap Byte) : (performAt s src p (.store bs)).1.cur = s.cur := by
  unfold performAt
  dsimp only
  split
  · rfl
  · rw [cur_noteBank, cur_mirrorTwin, cur_cleanBytes, cur_setPlaceBytes]
    split
    · exact (combineBytes_keepsCores _ _ _).2
    · rfl

/-- The waiting write of the suffix engine for a core. -/
def suffixWrite (who : Nat) (p : Place) (bs : SMap Byte) : WaitingWrite :=
  { src := .suffix who, place := p, act := .store bs, poisoned := false, whole := false }

/-- A write of the suffix engine that comes to its turn at its home leaves the core that runs, whether it performs or is lost (R34, R116). -/
theorem cur_performHome_suffix {s : State} {line who : Nat} {p : Place} {bs : SMap Byte} (h : (homeAt s line).waiting = [suffixWrite who p bs]) :
    ((performHome s line).getD s).cur = s.cur := by
  have hdrop : (dropWrite s line).cur = s.cur := by
    unfold dropWrite
    rw [h]
    rfl
  unfold performHome
  rw [h]
  dsimp only
  split
  · exact hdrop
  split
  · rfl
  · exact cur_performAt_store _ _ _ _

/-- A write of the engine leaves the core that runs. -/
theorem cur_engineWrite (s : State) (who : Nat) (p : Place) (bs : SMap Byte) : (engineWrite s who p bs).cur = s.cur := by
  unfold engineWrite
  split
  · unfold arriveWrite
    dsimp only
    split
    next he =>
      refine (cur_performHome_suffix (who := who) (p := p) (bs := bs) ?_).trans rfl
      rw [homeAt_modHomeAt_same]
      exact congrArg (· ++ [suffixWrite who p bs]) (List.isEmpty_iff.mp he)
    next => rfl
  · exact cur_performAt_store _ _ _ _

/-- The clearing of a mailbox header is a write of the engine (R394). -/
theorem mailClear_eq (s : State) (who i : Nat) : mailClear s who i = match mailAddr s i with
    | some a => engineWrite s who { space := .mem, key := 0, addr := a } (leBytes 0 8)
    | none => s := rfl

theorem cur_mailClear (s : State) (who i : Nat) : (mailClear s who i).cur = s.cur := by
  rw [mailClear_eq]
  split
  · exact cur_engineWrite _ _ _ _
  · rfl

/-- A query leaves the core that runs (R387, R395). -/
theorem cur_sxQuery (s : State) (who i stamp : Nat) (x : SxSlot) : (sxQuery s who i stamp x).2.2.cur = s.cur := by
  have hclear : (if decide (2 ^ 63 ≤ mailHeader s i) = true then mailClear s who i else s).cur = s.cur := by
    split
    · exact cur_mailClear s who i
    · rfl
  unfold sxQuery
  dsimp only
  split
  · exact hclear
  · exact hclear

/-- The writes of a saved area leave the core that runs (R329). -/
theorem cur_saveArea (s : State) (who : Nat) (x : SxSlot) (ps : List (Place × Nat)) : (saveArea s who x ps).cur = s.cur :=
  foldl_keeps State.cur (fun z _ => cur_engineWrite z who _ _) _ s

end Sys2Proof.Machine
end

section
/-!
PROOFS. The suffix slots (R326 to R331, R387 to R393): SXOPEN, SXFREE, SXSTAT, SXAPP, SXLOAD, and the answers of SXQRY and SXSAVE.
-/

namespace Sys2Proof.Machine

open Sys2Proof.Spec

/-! ### The engine's turn (R331, R393) -/

/-- The commands of the core reach the suffix engine in its order (R121, R331). -/
theorem suffixTurn_ok {s : State} (h : suffixFree s = true) : suffixTurn s = .ok ((), s) := by
  simp only [suffixFree, Bool.and_eq_true, Bool.not_eq_true'] at h
  exact bind_of (afterAcquire_ok s h.1) (bind_of (getC_run s) (waitUntil_ok h.2))

/-- A command whose turn it is does not wait at the engine (R396). -/
theorem engineWait_ok {s0 : State} {i : Nat} {brought : List Nat} {b : Bool} {s : State} (h : b = false) :
    engineWait s0 i brought b s = .ok ((), s) := by
  rw [engineWait, h]
  rfl

/-- Ranges without poison are read (R405). -/
theorem consumesAll_ok {z s : State} {l : List (Place × Nat)} (h : ∀ p ∈ l, poisonAt z p.1 p.2 = none) :
    l.forM (fun p => consumes z p.1 p.2 []) s = .ok ((), s) := by
  refine forM_ok _ _ _ fun p hp => ?_
  unfold consumes
  rw [h p hp]
  split
  · rfl
  · rfl

/-- Two operands are read in order, whatever follows them. -/
theorem readOperands_bind {β : Type} {a b : BitVec 4} {t q : State} {x y : Word} {f : Word → Word → Act β}
    (h : t.core.readsOk [a.toNat, b.toNat] = true) (hx : t.core.valueOf a.toNat = x) (hy : (t.core.popped a.toNat).valueOf b.toNat = y)
    (hq : t.afterReads [a.toNat, b.toNat] = q) : (readReg a.toNat >>= fun x => readReg b.toNat >>= f x) t = f x y q := by
  subst hx hy hq
  simp only [Core.readsOk, Bool.and_true, Bool.and_eq_true] at h
  rw [readReg_bind _ _ _ h.1, readReg_bind _ _ _ (by simpa using h.2), core_popped]
  rfl

/-! ### SXOPEN and SXFREE (R326) -/

section

variable {d a : BitVec 4} {s t p : State} {x : Word} (htwin : s.core.twin = none) (ht : s.terminated = t) (ha : t.core.readable a.toNat = true)
  (hx : t.core.valueOf a.toNat = x) (hp : t.popped a.toNat = p) (hfree : suffixFree p = true)

include htwin ht ha hx hp hfree

/-- SXOPEN gives the engine's result (R326). -/
theorem exec_sxopen_run (hw : p.core.writable d.toNat = true) (hgives : (sxOpen p p.cur x).2.core.writable d.toNat = true) :
    exec (.sxopen d a) s = .next (giving (sxOpen p p.cur x).2 d (sxOpen p p.cur x).1) := by
  rw [exec_sxopen, execSxopen, runTermOnce_eq _ _ _ _ _ htwin, ht]
  refine runInstr_ok _ _ _ ((readReg_bind _ _ _ ha).trans ?_)
  rw [hx, hp]
  exact bind_of (canWrite_ok _ _ hw) (bind_of (suffixTurn_ok hfree) (bind_of (get_run p) (set_giving hgives)))

/-- SXFREE gives BADARG for a number beyond the slots, and else, once it is its turn at the slot, the engine's result (R326, R331). -/
theorem exec_sxfree_run {r : Word × State} (hw : p.core.writable d.toNat = true)
    (hturn : x.toNat < 2 ^ 14 → slotBusy t t.cur x.toNat (arrivalNow t) = false)
    (hmarks : engineMarks p 11 x.toNat = [])
    (hr : (if x.toNat / 2 ^ 14 ≠ 0 then (sxBADARG, p) else sxFree p p.cur x.toNat (arrivalNow t)) = r) (hgives : r.2.core.writable d.toNat = true) :
    exec (.sxfree d a) s = .next (giving r.2 d r.1) := by
  subst hr
  have hwait : (x.toNat / 2 ^ 14 == 0 && slotBusy t t.cur x.toNat (arrivalNow t)) = false :=
    beq_and_eq_false fun h0 => hturn (by omega)
  rw [exec_sxfree, execSxfree, runTermOnce_eq _ _ _ _ _ htwin, ht]
  refine runInstr_ok _ _ _ (bind_of (get_run t) ((readReg_bind _ _ _ ha).trans ?_))
  rw [hx, hp]
  refine bind_of (canWrite_ok _ _ hw) (bind_of (suffixTurn_ok hfree) (bind_of (engineWait_ok hwait) ?_))
  exact bind_of (engineState_ok hmarks) (bind_of (get_run p) (set_giving hgives))

/-! ### SXSTAT (R330) -/

/-- SXSTAT gives BADARG for a number beyond the slots, and else the state of its slot; of an open slot the engine has read the mailbox header
(R330, R405). -/
theorem exec_sxstat_run {s1 : State} {r : Word × Word} (hturn : x.toNat < 2 ^ 14 → statBusy t t.cur x.toNat (arrivalNow t) = false)
    (hmarks : engineMarks p 11 x.toNat = [])
    (hread : if x.toNat / 2 ^ 14 = 0 ∧ (sxSlot t x.toNat).isSome = true
      then physReads (match mailAddr t x.toNat with | some m => [(m, 8)] | none => []) p = .ok ((), s1) else s1 = p)
    (hr : (if x.toNat / 2 ^ 14 ≠ 0 then (sxBADARG, 0) else sxStat s1 x.toNat) = r) (hw : pairWritable s1.core d = true) :
    exec (.sxstat d a) s = .next (givingPair s1 d r.1 r.2) := by
  subst hr
  have hwait : (x.toNat / 2 ^ 14 == 0 && statBusy t t.cur x.toNat (arrivalNow t)) = false :=
    beq_and_eq_false fun h0 => hturn (by omega)
  rw [exec_sxstat, execSxstat, runTermOnce_eq _ _ _ _ _ htwin, ht]
  refine runInstr_ok _ _ _ (bind_of (get_run t) ((readReg_bind _ _ _ ha).trans ?_))
  rw [hx, hp]
  refine bind_of (suffixTurn_ok hfree) (bind_of (engineWait_ok hwait) (bind_of (engineState_ok hmarks) ?_))
  exact guarded_run hread (bind_of (get_run s1) (writePair_retire hw))

end

/-! ### SXAPP (R327, R389) -/

/-- What SXAPP does once its operands are read: BADARG, or the engine's result for the tokens at its places (R327, R389). -/
def appendAnswer (d : BitVec 4) (s0 : State) (x y : Word) : Act Unit := do
  if sxappBad x then writeReg d.toNat sxBADARG
  else
    let ps ← appendPlaces s0 y (bits x.toNat 22 16)
    suffixTurn
    if s0.core.wait != some .reply then released
    engineLines s0 ps
    let i := x.toNat % 2 ^ 14
    engineWait s0 i (ps.flatMap Place.code) (slotBusy s0 s0.cur i (arrivalNow s0))
    engineState 11 i
    let ts ← engineWords ps
    let r := sxAppend (← get) (x.toNat % 2 ^ 14) (arrivalNow s0) ts
    set r.2
    writeReg d.toNat r.1
  retire 4

/-- SXAPP with a result, or outside regions, reads its operands in the state after the commit, and does the rest in the state after the reads. -/
theorem exec_sxapp_answer {d a b : BitVec 4} {s t q u : State} {x y : Word} (htwin : s.core.twin = none) (ht : s.terminated = t)
    (hd : d ≠ 0 ∨ s.core.region = none) (hreads : t.core.readsOk [a.toNat, b.toNat] = true) (hx : t.core.valueOf a.toNat = x)
    (hy : (t.core.popped a.toNat).valueOf b.toNat = y) (hq : t.afterReads [a.toNat, b.toNat] = q) (hw : q.core.writable d.toNat = true)
    (hend : appendAnswer d t x y q = .ok ((), u)) : exec (.sxapp d a b) s = .next u := by
  rw [exec_sxapp, execSxapp, if_neg (notHeld hd), runTermOnce_eq _ _ _ _ _ htwin, ht]
  refine runInstr_ok _ _ _ (bind_of (get_run t) ((readOperands_bind hreads hx hy hq).trans ?_))
  exact bind_of (canWrite_ok _ _ hw) hend

section

variable {d a b : BitVec 4} {s t q : State} {x y : Word} (htwin : s.core.twin = none) (ht : s.terminated = t)
    (hd : d ≠ 0 ∨ s.core.region = none) (hreads : t.core.readsOk [a.toNat, b.toNat] = true) (hx : t.core.valueOf a.toNat = x)
    (hy : (t.core.popped a.toNat).valueOf b.toNat = y) (hq : t.afterReads [a.toNat, b.toNat] = q) (hw : q.core.writable d.toNat = true)

include htwin ht hd hreads hx hy hq hw

/-- SXAPP of a bad operand gives BADARG (R327). -/
theorem exec_sxapp_bad (hbad : sxappBad x = true) : exec (.sxapp d a b) s = .next (giving q d sxBADARG) := by
  refine exec_sxapp_answer htwin ht hd hreads hx hy hq hw ?_
  unfold appendAnswer
  rw [if_pos hbad]
  exact giving_run hw

/-- SXAPP whose turn it is gives the engine's result for the tokens at its places (R389). -/
theorem exec_sxapp_appends {s1 s2 : State} {ps : List Place} {ts : List Nat} {r : Word × State} (hbad : sxappBad x = false)
    (hps : appendPlaces t y (x.toNat / 2 ^ 16 % 2 ^ 7) q = .ok (ps, s1)) (hfree : suffixFree s1 = true)
    (hf : t.core.wait = some .reply ∨ fenced s1 s1.cur 3 = true) (hlines : engineLines t ps s1 = .ok ((), s1))
    (hturn : slotBusy t t.cur (x.toNat % 2 ^ 14) (arrivalNow t) = false) (hmarks : engineMarks s1 11 (x.toNat % 2 ^ 14) = [])
    (hts : engineWords ps s1 = .ok (ts, s2)) (hr : sxAppend s2 (x.toNat % 2 ^ 14) (arrivalNow t) ts = r)
    (hgives : r.2.core.writable d.toNat = true) : exec (.sxapp d a b) s = .next (giving r.2 d r.1) := by
  subst hr
  have hreleased : if (t.core.wait != some .reply) = true then released s1 = .ok ((), s1) else s1 = s1 := by
    split
    next hwait => exact released_ok (hf.resolve_left (bne_iff_ne.mp hwait))
    next => rfl
  refine exec_sxapp_answer htwin ht hd hreads hx hy hq hw ?_
  unfold appendAnswer
  rw [if_neg (by rw [hbad]; decide)]
  refine bind_of hps (bind_of (suffixTurn_ok hfree) (guarded_run hreleased (bind_of hlines (bind_of (engineWait_ok hturn) ?_))))
  exact bind_of (engineState_ok hmarks) (bind_of hts (bind_of (get_run s2) (set_giving hgives)))

end

/-! ### SXLOAD (R329, R393) -/

/-- The header of an area from its first place (R329). -/
def areaHeader (z : State) (qs : List (Place × Nat)) (i : Nat) : Nat := match qs with | p :: _ => homeNat z (p.1.addr + 8 * i) 8 | [] => 0

/-- What SXLOAD does once it has read the header of its area: BADARG, or the engine's result for the area's tokens (R329, R393). -/
def loadAnswer (d : BitVec 4) (s0 : State) (y : Word) (w : Nat → Nat) : Act Unit := do
  if areaBad w then writeReg d.toNat sxBADARG
  else
    let ps ← areaPlaces .load y (64 + 4 * (w 1 - w 2))
    engineLines s0 (ps.map (fun p => p.1))
    modify (fun s => physCombine s (ps.map (fun p => (p.1.addr, p.2))))
    let s ← get
    ps.forM (fun p => consumes s p.1 p.2 [])
    let r := sxLoad s s.cur w (areaTokens s ps (w 1 - w 2))
    set r.2
    writeReg d.toNat r.1
  retire 4

/-- SXLOAD of an area with a malformed header gives BADARG (R393). -/
theorem loadAnswer_bad {d : BitVec 4} {t z : State} {y : Word} {w : Nat → Nat} (hbad : areaBad w = true) (hw : z.core.writable d.toNat = true) :
    loadAnswer d t y w z = .ok ((), giving z d sxBADARG) := by
  unfold loadAnswer
  rw [if_pos hbad]
  exact giving_run hw

/-- SXLOAD gives the engine's result for the tokens of its area (R390, R393). -/
theorem loadAnswer_loads {d : BitVec 4} {t z s2 z2 : State} {y : Word} {w : Nat → Nat} {rows : List (Place × Nat)} {r : Word × State}
    (hbad : areaBad w = false) (hrows : areaPlaces .load y (64 + 4 * (w 1 - w 2)) z = .ok (rows, s2))
    (hlines : engineLines t (rows.map (fun p => p.1)) s2 = .ok ((), s2)) (hz2 : physCombine s2 (rows.map (fun p => (p.1.addr, p.2))) = z2)
    (hclean : ∀ p ∈ rows, poisonAt z2 p.1 p.2 = none) (hr : sxLoad z2 z2.cur w (areaTokens z2 rows (w 1 - w 2)) = r)
    (hgives : r.2.core.writable d.toNat = true) : loadAnswer d t y w z = .ok ((), giving r.2 d r.1) := by
  subst hz2 hr
  unfold loadAnswer
  rw [if_neg (by rw [hbad]; decide)]
  refine bind_of hrows (bind_of hlines (bind_of (modify_run _ s2) (bind_of (get_run _) ?_)))
  exact bind_of (consumesAll_ok hclean) (set_giving hgives)

/-- SXLOAD reads the header of its area once the core's earlier accesses have performed, and then gives its answer (R329). -/
theorem exec_sxload_answer {d b : BitVec 4} {s t q s1 z u : State} {y : Word} {qs : List (Place × Nat)} (htwin : s.core.twin = none)
    (ht : s.terminated = t) (hb : t.core.readable b.toNat = true) (hy : t.core.valueOf b.toNat = y) (hq : t.popped b.toNat = q)
    (hw : q.core.writable d.toNat = true) (hfree : suffixFree q = true) (hf : fenced q q.cur 3 = true)
    (hqs : areaPlaces .load y 64 q = .ok (qs, s1)) (hlines : engineLines t (qs.map (fun p => p.1)) s1 = .ok ((), s1))
    (hz : physCombine s1 (qs.map (fun p => (p.1.addr, p.2))) = z) (hclean : ∀ p ∈ qs, poisonAt z p.1 p.2 = none)
    (hend : loadAnswer d t y (areaHeader z qs) z = .ok ((), u)) : exec (.sxload d b) s = .next u := by
  subst hz
  rw [exec_sxload, execSxload, runTermOnce_eq _ _ _ _ _ htwin, ht]
  refine runInstr_ok _ _ _ (bind_of (get_run t) ((readReg_bind _ _ _ hb).trans ?_))
  rw [hy, hq]
  refine bind_of (canWrite_ok _ _ hw) (bind_of (suffixTurn_ok hfree) (bind_of (released_ok hf) (bind_of hqs (bind_of hlines ?_))))
  exact bind_of (modify_run _ s1) (bind_of (get_run _) (bind_of (consumesAll_ok hclean) hend))

/-! ### Answers that stand at the engine while it writes (R328, R329, R388) -/

section

variable {d : BitVec 4} {reads : Act Word} {run : State → Act (Word × List (Place × Nat) × State)} {t q : State} {v u y : Word}

/-- An answer without drafts to write is given, and its instruction completes, once the engine's writes have performed (R388). -/
theorem engineReply_given (hr : t.core.reply = some (.value v u)) (hreads : reads t = .ok (y, q)) (hwritten : engineWritten t t.cur = true)
    (hds : draftsOf t.cur (t.core.carried.getD []) = []) (hw : q.core.writable d.toNat = true) :
    engineReply d.toNat reads run t = .ok ((), giving q d v) := by
  unfold engineReply
  refine bind_of (get_run t) ?_
  rw [hr]
  refine bind_of hreads (bind_of (waitUntil_ok hwritten) ?_)
  rw [hds]
  exact giving_run hw

/-- A line of drafts that the core may no longer write raises cause 27 (R98; log 138). -/
theorem engineReply_refused {ea : Word} (hr : t.core.reply = some (.value v u)) (hreads : reads t = .ok (y, q))
    (hwritten : engineWritten t t.cur = true) (href : refusedDraft t y v (draftsOf t.cur (t.core.carried.getD [])) = some ea) :
    engineReply d.toNat reads run t = .error (.trap 27 ea) := by
  unfold engineReply
  refine bind_of (get_run t) ?_
  rw [hr]
  refine bind_of hreads (bind_of (waitUntil_ok hwritten) ?_)
  cases hds : draftsOf t.cur (t.core.carried.getD []) with
  | nil =>
    rw [hds] at href
    cases href
  | cons x l =>
    rw [hds] at href
    dsimp only
    rw [href]
    rfl

/-- A line of drafts goes to its home, and the others stay with the command (R388). -/
theorem engineReply_sends {ds : List (Place × Nat)} (hr : t.core.reply = some (.value v u)) (hreads : reads t = .ok (y, q))
    (hwritten : engineWritten t t.cur = true) (hds : draftsOf t.cur (t.core.carried.getD []) = ds) (hne : ds ≠ [])
    (href : refusedDraft t y v ds = none) :
    engineReply d.toNat reads run t = .error (.block (modCoreAt (sendDrafts t t.cur ds).1 t.cur
      (fun c => { c with carried := some (draftCode (sendDrafts t t.cur ds).2) }))) := by
  unfold engineReply
  refine bind_of (get_run t) ?_
  rw [hr]
  refine bind_of hreads (bind_of (waitUntil_ok hwritten) ?_)
  obtain ⟨x, l, rfl⟩ := List.exists_cons_of_ne_nil hne
  rw [hds]
  dsimp only
  rw [href]
  rfl

/-- The core waits with the engine's answer and the drafts that are to be written, its operands unread; the engine and the memory are those of z. -/
def Answered (c : Core) (w : Word) (ds : List (Place × Nat)) (z r : State) : Prop :=
  r.core.reply = some (.value w 0) ∧ r.core.carried = some (draftCode ds) ∧ r.core.wait = some .reply ∧ r.core.regs = c.regs
    ∧ r.core.queues = c.queues ∧ r.suffix = z.suffix ∧ r.homes = z.homes ∧ r.mem = z.mem

/-- A command that the engine answers waits with its answer (R328, R329). -/
theorem engineReply_answers {w : Word} {ds : List (Place × Nat)} {z z' : State} (hr : t.core.reply = none) (hrun : run t t = .ok ((w, ds, z), z'))
    (hcur : z.cur = t.cur) : ∃ r, runInstr (engineReply d.toNat reads run) t = .next r ∧ Answered t.core w ds z r := by
  have hblock : engineReply d.toNat reads run t = .error (.block (replyTo (modCoreAt z t.cur (fun _ =>
      { z.core with regs := t.core.regs, queues := t.core.queues, wait := some .reply, carried := some (draftCode ds) })) t.cur (.value w 0))) := by
    unfold engineReply
    refine bind_of (get_run t) ?_
    rw [hr]
    exact bind_of hrun rfl
  refine ⟨_, runInstr_block _ _ _ hblock, ?_⟩
  rw [replyTo, modCoreAt_modCoreAt, modCoreAt_modCoreAt, ← hcur, modCoreAt_cur]
  unfold Answered
  rw [core_withCore]
  exact ⟨rfl, rfl, rfl, rfl, rfl, rfl, rfl, rfl⟩

end

/-! ### SXQRY (R328, R387, R395) -/

/-- What SXQRY does at the engine once its operands are read (R328, R387, R395). -/
def queryAnswer (s0 : State) (i : Nat) (y : Word) : Act (Word × List (Place × Nat) × State) := do
  if 2 ^ 14 ≤ i then return (sxBADARG, [], ← get)
  else
    engineWait s0 i [] (slotBusy s0 s0.cur i (arrivalNow s0))
    engineState 11 i
    match sxSlot s0 i with
    | none => return (sxBADSLOT, [], ← get)
    | some sl =>
      let ps ← tokenPlaces .store y (parDmax sl.par)
      engineLines s0 ps
      engineWait s0 i [] (!mailReady s0 i)
      physReads (mailReads s0 i sl.n (parDmax sl.par))
      let (v, ds, s') := sxQuery (← get) s0.cur i (arrivalNow s0) sl
      return (v, ps.zip ds, s')

section

variable {t q : State} {i : Nat} {y : Word}

/-- SXQRY of a number beyond the slots answers BADARG (R325). -/
theorem queryAnswer_badArg (hi : 2 ^ 14 ≤ i) : queryAnswer t i y q = .ok ((sxBADARG, [], q), q) := by
  rw [queryAnswer, if_pos hi]
  rfl

section

variable (hi : i < 2 ^ 14) (hturn : slotBusy t t.cur i (arrivalNow t) = false) (hmarks : engineMarks q 11 i = [])

include hi hturn hmarks

/-- SXQRY of a closed slot answers BADSLOT (R325). -/
theorem queryAnswer_badSlot (hs : sxSlot t i = none) : queryAnswer t i y q = .ok ((sxBADSLOT, [], q), q) := by
  rw [queryAnswer, if_neg (by omega)]
  refine bind_of (engineWait_ok hturn) (bind_of (engineState_ok hmarks) ?_)
  rw [hs]
  rfl

/-- SXQRY of an open slot answers with its query, whose drafts go to the places that are checked (R387, R395). -/
theorem queryAnswer_query {s1 s2 : State} {sl : SxSlot} {ps : List Place} (hs : sxSlot t i = some sl)
    (hps : tokenPlaces .store y (parDmax sl.par) q = .ok (ps, s1)) (hlines : engineLines t ps s1 = .ok ((), s1)) (hready : mailReady t i = true)
    (hread : physReads (mailReads t i sl.n (parDmax sl.par)) s1 = .ok ((), s2)) :
    let r := sxQuery s2 t.cur i (arrivalNow t) sl
    queryAnswer t i y q = .ok ((r.1, ps.zip r.2.1, r.2.2), s2) := by
  intro r
  rw [queryAnswer, if_neg (by omega)]
  refine bind_of (engineWait_ok hturn) (bind_of (engineState_ok hmarks) ?_)
  rw [hs]
  refine bind_of hps (bind_of hlines (bind_of (engineWait_ok (by rw [hready]; rfl)) (bind_of hread ?_)))
  exact bind_of (get_run s2) rfl

end

end

/-! ### SXSAVE (R329, R392) -/

/-- What SXSAVE does at the engine once its operands are read: n is its first operand, slot and length, and y the area (R329, R392). -/
def saveAnswer (s0 : State) (n : Nat) (y : Word) : Act (Word × List (Place × Nat) × State) := do
  let i := n % 2 ^ 14
  if bits n 31 14 ≠ 0 then return (sxBADARG, [], ← get)
  else
    engineWait (noteSave s0 s0.cur i (arrivalNow s0)) i [] (slotBusy s0 s0.cur i (arrivalNow s0))
    engineState 11 i
    match savedSlot s0 s0.cur i (arrivalNow s0) with
    | none => return (sxBADSLOT, [], dropSave (← get) s0.cur)
    | some sl =>
      if n / 2 ^ 32 < sl.size then return (sxSHORT, [], dropSave (← get) s0.cur)
      else
        let ps ← areaPlaces .store y sl.size
        engineLines s0 (ps.map (fun p => p.1))
        return (word sl.size, [], saveArea (dropSave (← get) s0.cur) s0.cur sl ps)

section

variable {t q : State} {n : Nat} {y : Word}

/-- SXSAVE of an operand whose bits above the slot are not 0 answers BADARG (R329). -/
theorem saveAnswer_badArg (hn : n / 2 ^ 14 % 2 ^ 18 ≠ 0) : saveAnswer t n y q = .ok ((sxBADARG, [], q), q) := by
  rw [saveAnswer]
  exact (congrFun (if_pos hn) q).trans rfl

section

variable (hn : n / 2 ^ 14 % 2 ^ 18 = 0) (hturn : slotBusy t t.cur (n % 2 ^ 14) (arrivalNow t) = false) (hmarks : engineMarks q 11 (n % 2 ^ 14) = [])

include hn hturn hmarks

/-- SXSAVE of a closed slot answers BADSLOT (R325). -/
theorem saveAnswer_badSlot (hs : savedSlot t t.cur (n % 2 ^ 14) (arrivalNow t) = none) :
    saveAnswer t n y q = .ok ((sxBADSLOT, [], dropSave q t.cur), q) := by
  rw [saveAnswer]
  refine (congrFun (if_neg (not_not_intro hn)) q).trans (bind_of (engineWait_ok hturn) (bind_of (engineState_ok hmarks) ?_))
  rw [hs]
  rfl

variable {sl : SxSlot} (hs : savedSlot t t.cur (n % 2 ^ 14) (arrivalNow t) = some sl)

include hs

/-- SXSAVE into an area that is too short answers SHORT (R329). -/
theorem saveAnswer_short (hlen : n / 2 ^ 32 < sl.size) : saveAnswer t n y q = .ok ((sxSHORT, [], dropSave q t.cur), q) := by
  rw [saveAnswer]
  refine (congrFun (if_neg (not_not_intro hn)) q).trans (bind_of (engineWait_ok hturn) (bind_of (engineState_ok hmarks) ?_))
  rw [hs]
  exact (congrFun (if_pos hlen) q).trans rfl

/-- SXSAVE writes the area of its slot, as of its arrival, and answers its length (R329, R392). -/
theorem saveAnswer_saves {s1 : State} {qs : List (Place × Nat)} (hlen : sl.size ≤ n / 2 ^ 32) (hqs : areaPlaces .store y sl.size q = .ok (qs, s1))
    (hlines : engineLines t (qs.map (fun p => p.1)) s1 = .ok ((), s1)) :
    saveAnswer t n y q = .ok ((BitVec.ofNat 64 sl.size, [], saveArea (dropSave s1 t.cur) t.cur sl qs), s1) := by
  rw [saveAnswer]
  refine (congrFun (if_neg (not_not_intro hn)) q).trans (bind_of (engineWait_ok hturn) (bind_of (engineState_ok hmarks) ?_))
  rw [hs]
  exact (congrFun (if_neg (by omega)) q).trans (bind_of hqs (bind_of hlines rfl))

end

end

/-! ### The two instructions -/

section

variable {d a b : BitVec 4} {s t q : State} {x y : Word} (htwin : s.core.twin = none) (ht : s.terminated = t)
  (hreads : t.core.readsOk [a.toNat, b.toNat] = true) (hx : t.core.valueOf a.toNat = x) (hy : (t.core.popped a.toNat).valueOf b.toNat = y)
  (hq : t.afterReads [a.toNat, b.toNat] = q)

/-- The reads of the operands as an answer is taken: the second is the address of the drafts (R195, R328). -/
def answerReads (a b : BitVec 4) : Act Word := do
  let _ ← readReg a.toNat
  readReg b.toNat

include hreads hy hq in
theorem answerReads_ok : answerReads a b t = .ok (y, q) := by
  subst hy hq
  simp only [Core.readsOk, Bool.and_true, Bool.and_eq_true] at hreads
  unfold answerReads
  rw [readReg_bind _ _ _ hreads.1, readReg_ok _ _ (by simpa using hreads.2), core_popped]
  rfl

/-- SXQRY and SXSAVE are one form, which an answer ends (R328, R329). -/
theorem exec_engineReply (htwin : s.core.twin = none) (ht : s.terminated = t) :
    (∃ run, exec (.sxqry d a b) s = runInstr (engineReply d.toNat (answerReads a b) run) t)
    ∧ ∃ run, exec (.sxsave d a b) s = runInstr (engineReply d.toNat (answerReads a b) run) t := by
  subst ht
  exact ⟨⟨_, runTermOnce_eq _ _ _ _ _ htwin⟩, ⟨_, runTermOnce_eq _ _ _ _ _ htwin⟩⟩

variable (hr : t.core.reply = none) (hw : q.core.writable d.toNat = true) (hfree : suffixFree q = true)

include htwin ht hreads hx hy hq hr hw hfree

/-- SXQRY waits with its answer at the engine (R328). -/
theorem exec_sxqry_answers {w : Word} {ds : List (Place × Nat)} {z z' : State} (hans : queryAnswer t x.toNat y q = .ok ((w, ds, z), z'))
    (hcur : z.cur = t.cur) : ∃ r, exec (.sxqry d a b) s = .next r ∧ Answered t.core w ds z r := by
  rw [exec_sxqry, execSxqry, runTermOnce_eq _ _ _ _ _ htwin, ht]
  refine engineReply_answers (z' := z') hr ((readOperands_bind hreads hx hy hq).trans ?_) hcur
  exact bind_of (canWrite_ok _ _ hw) (bind_of (suffixTurn_ok hfree) hans)

/-- SXSAVE waits with its answer at the engine (R329). -/
theorem exec_sxsave_answers {w : Word} {ds : List (Place × Nat)} {z z' : State} (hans : saveAnswer t x.toNat y q = .ok ((w, ds, z), z'))
    (hcur : z.cur = t.cur) : ∃ r, exec (.sxsave d a b) s = .next r ∧ Answered t.core w ds z r := by
  rw [exec_sxsave, execSxsave, runTermOnce_eq _ _ _ _ _ htwin, ht]
  refine engineReply_answers (z' := z') hr ((readOperands_bind hreads hx hy hq).trans ?_) hcur
  exact bind_of (canWrite_ok _ _ hw) (bind_of (suffixTurn_ok hfree) hans)

end

/-- Settles O48: each instruction by its own lemma; SXQRY and SXSAVE wait with their answer, and the answer is taken in the form that both share. -/
theorem suffixSlots : Obligations.SuffixSlots := by
  intro d a b s s1 s2 ps qs rows ts sl u v t c x y rs p q gives turn answers htwin
  have hqcur : q.cur = t.cur := cur_afterReads t rs
  obtain ⟨⟨query, hquery⟩, save, hsave⟩ := exec_engineReply (d := d) (a := a) (b := b) htwin rfl
  refine ⟨fun ha hw hf => ⟨?_, fun hi hm hgives => ?_, fun hi hturn hgives => ?_⟩,
    fun ha hwp hf hm => ⟨fun hi => ?_, fun hi hturn hread hw => ?_⟩,
    fun hd hreads hw => ⟨fun hbad _ => ?_, ?_⟩, fun hreads hr hwritten => ⟨fun hds => ⟨?_, ?_⟩, fun ea href => ?_, fun hds href => ?_⟩,
    fun hreads hr hw hf => ?_, fun hreads hr hw hf => ?_, ?_⟩
  · exact exec_sxopen_run htwin rfl ha rfl rfl hf hw
  · exact exec_sxfree_run htwin rfl ha rfl rfl hf hw (fun h => absurd h (Nat.not_lt.mpr hi)) hm (if_pos (Nat.div_pos hi (by decide)).ne') hgives
  · exact exec_sxfree_run htwin rfl ha rfl rfl hf hw (fun _ => hturn.1) hturn.2 (if_neg (not_not_intro (Nat.div_eq_of_lt hi))) hgives
  · exact exec_sxstat_run (r := (sxBADARG, 0)) htwin rfl ha rfl rfl hf (fun h => absurd h (Nat.not_lt.mpr hi)) hm
      (by rw [if_neg fun h => (Nat.div_pos hi (by decide)).ne' h.1])
      (if_pos (Nat.div_pos hi (by decide)).ne') hwp
  · have hread' : if x.toNat / 2 ^ 14 = 0 ∧ (sxSlot t x.toNat).isSome = true
        then physReads (match mailAddr t x.toNat with | some m => [(m, 8)] | none => []) p = .ok ((), s1) else s1 = p := by
      by_cases hopen : (sxSlot t x.toNat).isSome = true
      · rw [if_pos hopen] at hread
        rw [if_pos ⟨Nat.div_eq_of_lt hi, hopen⟩]
        exact hread
      · rw [if_neg hopen] at hread
        rw [if_neg fun h => hopen h.2]
        exact hread
    exact exec_sxstat_run (r := sxStat s1 x.toNat) htwin rfl ha rfl rfl hf (fun _ => hturn) hm hread'
      (if_neg (not_not_intro (Nat.div_eq_of_lt hi))) hw
  · exact exec_sxapp_bad htwin rfl hd hreads rfl rfl rfl hw hbad
  · intro hbad hps hf hfen hlines hturn hts hgives
    exact exec_sxapp_appends htwin rfl hd hreads rfl rfl rfl hw hbad hps hf hfen hlines hturn.1 hturn.2 hts rfl hgives
  · exact fun hw => hquery.trans (runInstr_ok _ _ _ (engineReply_given hr (answerReads_ok hreads rfl rfl) hwritten hds hw))
  · exact fun hw => hsave.trans (runInstr_ok _ _ _ (engineReply_given hr (answerReads_ok hreads rfl rfl) hwritten hds hw))
  · rw [hquery, runInstr_trap _ _ _ _ (engineReply_refused hr (answerReads_ok hreads rfl rfl) hwritten href), cur_terminated]
  · intro z
    rw [hquery, runInstr_block _ _ _ (engineReply_sends hr (answerReads_ok hreads rfl rfl) hwritten rfl hds href), modCoreAt_modCoreAt]
  · have hrun := fun {w ds z z'} => exec_sxqry_answers (w := w) (ds := ds) (z := z) (z' := z') htwin rfl hreads rfl rfl rfl hr hw hf
    refine ⟨fun hi => hrun (queryAnswer_badArg hi) hqcur, fun hi hturn hs => hrun (queryAnswer_badSlot hi hturn.1 hturn.2 hs) hqcur, ?_⟩
    intro hi hturn hs hps hlines hready hread
    have hcur : s2.cur = t.cur := (physReads_keepsCores hread).2.trans ((tokenPlaces_keepsCores hps).2.trans hqcur)
    exact hrun (queryAnswer_query hi hturn.1 hturn.2 hs hps hlines hready hread) ((cur_sxQuery _ _ _ _ _).trans hcur)
  · have hrun := fun {w ds z z'} => exec_sxsave_answers (w := w) (ds := ds) (z := z) (z' := z') htwin rfl hreads rfl rfl rfl hr hw hf
    refine ⟨fun hn => hrun (saveAnswer_badArg hn) hqcur, fun hn hturn => ⟨fun hs => ?_, fun hs hlen => ?_, fun hs hlen hqs hlines => ?_⟩⟩
    · exact hrun (saveAnswer_badSlot hn hturn.1 hturn.2 hs) hqcur
    · exact hrun (saveAnswer_short hn hturn.1 hturn.2 hs hlen) hqcur
    · exact hrun (saveAnswer_saves hn hturn.1 hturn.2 hs hlen hqs hlines)
        ((cur_saveArea _ _ _ _).trans ((areaPlaces_keepsCores hqs).2.trans hqcur))
  · intro hb q y hw hf hfen hqs hlines z1 w hclean
    have hrun := fun {u} => exec_sxload_answer (u := u) htwin rfl hb rfl rfl hw hf hfen hqs hlines rfl hclean
    exact ⟨fun hbad hgives => hrun (loadAnswer_bad hbad hgives), fun hbad hrows hlines' hclean' hgives =>
      hrun (loadAnswer_loads hbad hrows hlines' rfl hclean' rfl hgives)⟩

end Sys2Proof.Machine
end

section
/-!
PROOFS. The commands of the window's channels (R422 to R424, R426): which command a channel runs, what comes of it, and the answers of SHEETNEW,
TEAMSTAT, DIEREG, QSLICE and DOORBELL.
-/

namespace Sys2Proof.Machine

open Sys2Proof.Spec

/-! ### GO (R423) -/

/-- What `command` makes of a channel at GO is what the spec says of GO. -/
theorem begun_eq (s : State) (ch : Nat) :
    modChannelAt s ch (fun c => { if c.busy then c else c.begin_ with carried := none }) = begun s ch := by
  refine congrArg (modChannelAt s ch) (funext fun c => ?_)
  by_cases hb : c.busy = true
  · rw [if_pos hb, if_pos hb]
  · rw [if_neg hb, if_neg hb]
    rfl

section

variable {ch : Nat} {mine : Channel → Bool} {run : State → Nat → Channel → Ran} {s : State}

/-- A channel that the window does not have, a finished command and one of other fields change nothing. -/
theorem command_idle (h : 33 ≤ ch ∨ (channelAt s ch).seen.finished = true ∨ mine (channelAt s ch).seen = false) :
    command ch mine run s = s :=
  if_pos (by simpa [or_assoc] using h)

variable (hch : ch < 33) (hf : (channelAt s ch).seen.finished = false) (hm : mine (channelAt s ch).seen = true)
include hch hf hm

/-- A channel whose fields ask for a command runs it after GO. -/
theorem command_runs : command ch mine run s = match run (begun s ch) ch (channelAt s ch).seen with
    | .done a q u => answered u ch a q
    | .bad e => modChannelAt (begun s ch) ch (fun c => { c with err := e, finished := true })
    | .wait u => u := by
  have hgo : ¬ (decide (33 ≤ ch) || (channelAt s ch).seen.finished || !mine (channelAt s ch).seen) = true := by
    simp [hf, hm, hch]
  rw [← begun_eq]
  exact if_neg hgo

/-- A command that answers has its answer in its channel. -/
theorem command_done {a : Word} {q : Option Word} {u : State} (h : run (begun s ch) ch (channelAt s ch).seen = .done a q u) :
    command ch mine run s = answered u ch a q := by
  rw [command_runs hch hf hm, h]

/-- A command that is refused sets ERR and has no other effect. -/
theorem command_bad {e : Nat} (h : run (begun s ch) ch (channelAt s ch).seen = .bad e) :
    command ch mine run s = modChannelAt (begun s ch) ch (fun c => { c with err := e, finished := true }) := by
  rw [command_runs hch hf hm, h]

/-- A command that waits leaves what it has done so far. -/
theorem command_wait {u : State} (h : run (begun s ch) ch (channelAt s ch).seen = .wait u) : command ch mine run s = u := by
  rw [command_runs hch hf hm, h]

end

/-- An event that is GO of a command answers as the command does. -/
theorem exec_command_done {i : Instr} {ch : Nat} {mine : Channel → Bool} {run : State → Nat → Channel → Ran} {s u : State} {a : Word}
    {q : Option Word} (hi : exec i s = .next (command ch mine run s)) (hch : ch < 33) (hf : (channelAt s ch).seen.finished = false)
    (hm : mine (channelAt s ch).seen = true) (h : run (begun s ch) ch (channelAt s ch).seen = .done a q u) :
    exec i s = .next (answered u ch a q) := by
  rw [hi, command_done hch hf hm h]

/-- Every event of the table is GO of its command. -/
theorem exec_commandTable (ch : Nat) (s : State) : ∀ p ∈ commandTable ch, exec p.1 s = .next (command ch p.2.1 p.2.2 s) := by
  simp only [commandTable, List.forall_mem_cons]
  exact ⟨rfl, rfl, rfl, rfl, rfl, rfl, rfl, rfl, rfl, rfl, rfl, rfl, rfl, rfl, rfl, rfl, rfl, rfl, rfl, rfl, rfl, rfl, rfl, rfl, rfl, rfl,
    rfl, List.forall_mem_nil _⟩

/-- The fields of a supervisor function are CLASS 2 and its FN. -/
theorem isFn_iff {c : Channel} {n : Nat} : c.isFn n = true ↔ c.cls = 2 ∧ c.fn = n := by simp [Channel.isFn]

/-! ### Answers of supervisor functions (R424, R426) -/

section

variable {s : State} {ch : Nat} {c : Channel}

/-- SHEETNEW makes an empty sheet of generation 0 with the arena and the ASID of its operands. -/
theorem sheetNew_creates (hfree : SMap.get? s.sheets (c.arga.toNat % 256) = none) (hbase : c.argb.toNat % 65536 = 0)
    (hsize : c.argd.toNat % 65536 = 0) (hne : c.argd ≠ 0) (hmax : c.argd.toNat ≤ 2 ^ 36) (hend : c.argb.toNat + c.argd.toNat ≤ 2 ^ 52) :
    ∃ sh : Sheet, sheetNew s ch c = .done 0 none (setSheetAt (cleanEngine s 10 (c.arga.toNat % 256)) (c.arga.toNat % 256) sh)
      ∧ sh.asid = c.arga.toNat / 256 % 65536 ∧ sh.base = c.argb.toNat ∧ sh.size = c.argd.toNat ∧ sh.gen = 0 ∧ sh.cells = [] := by
  have hpos : c.argd.toNat ≠ 0 := fun h => hne (BitVec.eq_of_toNat_eq h)
  have hsheet : bits c.arga.toNat 7 0 = c.arga.toNat % 256 := by simp [bits]
  have hgood : ¬ (c.argb.toNat % 65536 ≠ 0 ∨ c.argd.toNat % 65536 ≠ 0 ∨ c.argd.toNat = 0 ∨ 2 ^ 36 < c.argd.toNat
      ∨ 2 ^ 52 < c.argb.toNat + c.argd.toNat) := by omega
  dsimp only [sheetNew]
  rw [hsheet, hfree, if_neg (by decide), if_neg hgood]
  exact ⟨_, rfl, rfl, rfl, rfl, rfl, rfl⟩

/-- TEAMSTAT of a team that does not exist answers −1. -/
theorem teamStat_none (h : teamAt s c.arga.toNat = none) : teamStat s ch c = .done (-1) none s := by
  rw [teamStat, h]
  rfl

/-- TEAMSTAT with a write answers −1 and writes nothing where the team does not exist. -/
theorem teamStatSet_none (h : teamAt s c.arga.toNat = none) : teamStatSet s ch c = .done (-1) none s := by
  rw [teamStatSet, h]
  rfl

/-- Register 0x20 of a die is LEASE (R426). -/
theorem dieRead_lease (h : c.arga.toNat / 256 % 256 = 0x20) :
    dieRead s ch c = .done (BitVec.ofNat 64 (dieAt s (c.arga.toNat % 8)).lease) none s := by
  have hdie : bits c.arga.toNat 2 0 = c.arga.toNat % 8 := by simp [bits]
  have hreg : bits c.arga.toNat 15 8 = 0x20 := h
  rw [dieRead, hdie, hreg]
  rfl

/-- QSLICE sets the slice of its level (R359). -/
theorem sliceSet_sets (hne : c.argb ≠ 0) (hlt : c.argb.toNat < 2 ^ 32) :
    sliceSet s ch c = .done 0 none { s with slices := vset s.slices (c.arga.toNat % 4) c.argb.toNat } := by
  have hpos : c.argb.toNat ≠ 0 := fun h => hne (BitVec.eq_of_toNat_eq h)
  have hlevel : bits c.arga.toNat 1 0 = c.arga.toNat % 4 := by simp [bits]
  unfold sliceSet
  rw [if_neg (by omega), hlevel]
  rfl

/-- DOORBELL of a core that does not exist answers −1. -/
theorem ringDoorbell_none (h : coreOfLoc s c.arga.toNat = none) : ringDoorbell s ch c = .done (-1) none s := by
  rw [ringDoorbell, h]
  rfl

end

/-- Settles O54: every event of the table is GO of its command, whose three outcomes have a lemma each; the answers are those of the
supervisor functions in the state after GO, which differs from the one before in its channel alone. -/
theorem channelCommands : Obligations.ChannelCommands := by
  intro ch s c z
  refine ⟨fun p hp => ?_, fun hch hf hcls => ?_⟩
  · rw [exec_commandTable ch s p hp]
    refine ⟨fun hidle => by rw [command_idle hidle], fun hch hf hm => ⟨fun a q u h => ?_, fun e h => ?_, fun u h => ?_⟩⟩
    · rw [command_done hch hf hm h]
    · rw [command_bad hch hf hm h]
    · rw [command_wait hch hf hm h]
  have hmine : ∀ {n : Nat}, c.fn = n → c.isFn n = true := fun hfn => isFn_iff.mpr ⟨hcls, hfn⟩
  refine ⟨fun hfn hfree hbase hsize hne hmax hend => ?_, fun hfn hteam => ?_, fun hfn hread hreg => ?_, fun hfn hne hlt => ?_,
    fun hfn hcore => ?_⟩
  · obtain ⟨sh, hrun, hsh⟩ := sheetNew_creates (s := z) (ch := ch) hfree hbase hsize hne hmax hend
    exact ⟨sh, exec_command_done (exec_sheetnew ch s) hch hf (hmine hfn) hrun, hsh⟩
  · by_cases hw : c.argd.getLsbD 0 = true
    · rw [if_pos hw]
      exact exec_command_done (exec_teamstatWrite ch s) hch hf ((Bool.and_eq_true _ _).mpr ⟨hmine hfn, hw⟩) (teamStatSet_none hteam)
    · have hread : (!c.argd.getLsbD 0) = true := (Bool.not_eq_true' _).mpr (Bool.eq_false_of_not_eq_true hw)
      rw [if_neg hw]
      exact exec_command_done (exec_teamstatRead ch s) hch hf ((Bool.and_eq_true _ _).mpr ⟨hmine hfn, hread⟩) (teamStat_none hteam)
  · exact exec_command_done (exec_dieregRead ch s) hch hf ((Bool.and_eq_true _ _).mpr ⟨hmine hfn, (Bool.not_eq_true' _).mpr hread⟩)
      (dieRead_lease hreg)
  · exact exec_command_done (exec_qslice ch s) hch hf (hmine hfn) (sliceSet_sets hne hlt)
  · exact exec_command_done (exec_doorbell ch s) hch hf (hmine hfn) (ringDoorbell_none hcore)

end Sys2Proof.Machine
end

section
/-!
PROOFS. Memory stays canonical (log 2; R22, R29, R117): what that says of a state, of a result and of core steps, and the rules by which it
passes through the forms in which the model's functions are written.  A function f of the model then has one lemma of its own:
`f_canonical`, that its state is canonical where the state before was, or `f_keeps`, that its core steps keep memory canonical.
-/

namespace Sys2Proof.Machine

section

variable {α β γ : Type}

/-- Memory is in its canonical form. -/
def State.Canonical (s : State) : Prop := Memory.wf s.mem = true

/-- The state is canonical, if there is one. -/
def CanonicalIf (o : Option State) : Prop := ∀ t, o = some t → t.Canonical

/-- A meaning that goes on does so in a canonical state. -/
def Out.Canonical : Out → Prop
  | .next t => t.Canonical
  | _ => True

/-- A command of a channel leaves a canonical state. -/
def Ran.Canonical : Ran → Prop
  | .done _ _ t => t.Canonical
  | .bad _ => True
  | .wait t => t.Canonical

/-- CWOPEN leaves a canonical state. -/
def Opened.Canonical : Opened → Prop
  | .ok _ t => t.Canonical
  | _ => True

/-- CRD leaves a canonical state. -/
def ReadCell.Canonical : ReadCell → Prop
  | .ok _ _ t => t.Canonical
  | _ => True

/-- A move of vacating herds leaves a canonical state. -/
def Quiet.Canonical : Quiet → Prop
  | .moved t => t.Canonical
  | _ => True

/-- The result of core steps: what they leave, or what they block in, is canonical. -/
def Act.Leaves : Except Stop (α × State) → Prop
  | .ok (_, t) => t.Canonical
  | .error (.block t) => t.Canonical
  | .error _ => True

/-- Core steps that leave memory canonical. -/
def Act.Keeps (x : Act α) : Prop := ∀ s : State, s.Canonical → Act.Leaves (x s)

/-- Core steps that leave memory canonical and whose result has a property: it has states in it. -/
structure Act.Ends (Q : α → Prop) (x : Act α) : Prop where
  keeps : x.Keeps
  gives : ∀ {s t : State} {a : α}, s.Canonical → x s = .ok (a, t) → Q a

/-! ### States -/

namespace State.Canonical

variable {s t : State}

theorem of_mem (h : s.Canonical) (e : t.mem = s.mem) : t.Canonical := by rwa [Canonical, e]

/-- A state with other fields than memory replaced. -/
theorem update {cur agenda free cores herds quads dies homes poison ranges streams net teams nextTeam nextKid arrivals sheets publishes
    suffix rings faulted channels slices roots pinRate peers mgmt raised fused serial} (h : s.Canonical) : State.Canonical
      ⟨cur, agenda, free, cores, herds, quads, dies, s.mem, homes, poison, ranges, streams, net, teams, nextTeam, nextKid, arrivals, sheets,
        publishes, suffix, rings, faulted, channels, slices, roots, pinRate, peers, mgmt, raised, fused, serial⟩ := h

theorem ite {c : Prop} [Decidable c] (hs : s.Canonical) (ht : t.Canonical) : (if c then s else t).Canonical := by
  split
  · exact hs
  · exact ht

theorem iteFst {c : Prop} [Decidable c] {p q : State × β} (hp : p.1.Canonical) (hq : q.1.Canonical) :
    (if c then p else q).1.Canonical := by
  split
  · exact hp
  · exact hq

theorem iteSnd {c : Prop} [Decidable c] {p q : α × State} (hp : p.2.Canonical) (hq : q.2.Canonical) :
    (if c then p else q).2.Canonical := by
  split
  · exact hp
  · exact hq

theorem iteSndSnd {c : Prop} [Decidable c] {p q : α × β × State} (hp : p.2.2.Canonical) (hq : q.2.2.Canonical) :
    (if c then p else q).2.2.Canonical := by
  split
  · exact hp
  · exact hq

theorem iteSndSndSnd {c : Prop} [Decidable c] {p q : α × β × γ × State} (hp : p.2.2.2.Canonical) (hq : q.2.2.2.Canonical) :
    (if c then p else q).2.2.2.Canonical := by
  split
  · exact hp
  · exact hq

theorem foldl {f : State → α → State} {l : List α} (h : s.Canonical) (hf : ∀ (z : State) x, z.Canonical → (f z x).Canonical) :
    (l.foldl f s).Canonical := foldl_wf l f s h hf

theorem getD {o : Option State} (ho : CanonicalIf o) (h : s.Canonical) : (o.getD s).Canonical := by
  cases o with
  | none => exact h
  | some t => exact ho t rfl

theorem fstOf {p : State × β} {x : β} (e : p = (t, x)) (h : p.1.Canonical) : t.Canonical := by
  subst e
  exact h

theorem sndOf {p : α × State} {x : α} (e : p = (x, t)) (h : p.2.Canonical) : t.Canonical := by
  subst e
  exact h

theorem ofSome {o : Option State} (e : o = some t) (h : CanonicalIf o) : t.Canonical := h t e

theorem ofNext {o : Out} (e : o = .next t) (h : Out.Canonical o) : t.Canonical := by
  subst e
  exact h

theorem ofDone {o : Ran} {a b} (e : o = .done a b t) (h : o.Canonical) : t.Canonical := by
  subst e
  exact h

theorem ofWait {o : Ran} (e : o = .wait t) (h : o.Canonical) : t.Canonical := by
  subst e
  exact h

theorem ofOpened {o : Opened} {ds} (e : o = .ok ds t) (h : o.Canonical) : t.Canonical := by
  subst e
  exact h

theorem ofReadCell {o : ReadCell} {a ds} (e : o = .ok a ds t) (h : o.Canonical) : t.Canonical := by
  subst e
  exact h

theorem ofQuiet {o : Quiet} (e : o = .moved t) (h : o.Canonical) : t.Canonical := by
  subst e
  exact h

end State.Canonical

namespace CanonicalIf

variable {t : State} {o p : Option State}

theorem none : CanonicalIf none := by
  intro t e
  cases e

theorem some (h : t.Canonical) : CanonicalIf (some t) := by
  intro u e
  cases e
  exact h

theorem ite {c : Prop} [Decidable c] (ho : CanonicalIf o) (hp : CanonicalIf p) : CanonicalIf (if c then o else p) := by
  split
  · exact ho
  · exact hp

theorem orElse (ho : CanonicalIf o) (hp : CanonicalIf p) : CanonicalIf (o <|> p) := by
  cases o with
  | none => exact hp
  | some t => exact ho

theorem bind {x : Option α} {f : α → Option State} (h : ∀ a, CanonicalIf (f a)) : CanonicalIf (x.bind f) := by
  cases x with
  | none => exact .none
  | some a => exact h a

theorem mapOf {f : State → State} (ho : CanonicalIf o) (hf : ∀ z : State, z.Canonical → (f z).Canonical) : CanonicalIf (o.map f) := by
  cases o with
  | none => exact .none
  | some t => exact .some (hf t (ho t rfl))

theorem findSome {l : List α} {f : α → Option State} (h : ∀ a, CanonicalIf (f a)) : CanonicalIf (l.findSome? f) := by
  induction l with
  | nil => exact .none
  | cons a l ih =>
    rw [List.findSome?_cons]
    split
    · exact .some (h a _ ‹_›)
    · exact ih

end CanonicalIf

/-! ### Results -/

section

variable {c : Prop} [Decidable c] {t : State}

theorem Out.Canonical.next (h : t.Canonical) : Out.Canonical (.next t) := h

theorem Ran.Canonical.done {a b} (h : t.Canonical) : Ran.Canonical (.done a b t) := h

theorem Ran.Canonical.wait (h : t.Canonical) : Ran.Canonical (.wait t) := h

theorem Quiet.Canonical.moved (h : t.Canonical) : Quiet.Canonical (.moved t) := h

theorem Out.Canonical.ite {o p : Out} (ho : Out.Canonical o) (hp : Out.Canonical p) : Out.Canonical (if c then o else p) := by
  split
  · exact ho
  · exact hp

theorem Ran.Canonical.ite {o p : Ran} (ho : o.Canonical) (hp : p.Canonical) : (if c then o else p).Canonical := by
  split
  · exact ho
  · exact hp

theorem Opened.Canonical.ite {o p : Opened} (ho : o.Canonical) (hp : p.Canonical) : (if c then o else p).Canonical := by
  split
  · exact ho
  · exact hp

theorem ReadCell.Canonical.ite {o p : ReadCell} (ho : o.Canonical) (hp : p.Canonical) : (if c then o else p).Canonical := by
  split
  · exact ho
  · exact hp

theorem Quiet.Canonical.ite {o p : Quiet} (ho : o.Canonical) (hp : p.Canonical) : (if c then o else p).Canonical := by
  split
  · exact ho
  · exact hp

end

/-! ### Core steps -/

namespace Act.Keeps

theorem pure {a : α} : Act.Keeps (Pure.pure a) := fun _ h => h

theorem bind {x : Act α} {f : α → Act β} (hx : x.Keeps) (hf : ∀ a, (f a).Keeps) : (x >>= f).Keeps := by
  intro s h
  have hl := hx s h
  change Act.Leaves (x s >>= fun p => f p.1 p.2)
  revert hl
  cases x s with
  | ok p => exact fun hp => hf _ _ hp
  | error e => cases e <;> exact id

/-- What follows a `get` may use that the state is canonical. -/
theorem get {f : State → Act β} (hf : ∀ s : State, s.Canonical → (f s).Keeps) : (MonadState.get >>= f).Keeps := fun s h => hf s h s h

theorem modify {f : State → State} (h : ∀ s : State, s.Canonical → (f s).Canonical) : Act.Keeps (modify f) := h

theorem set {t : State} (h : t.Canonical) : Act.Keeps (set t) := fun _ _ => h

theorem modC {f : Core → Core} : Act.Keeps (modC f) := fun _ h => h

theorem getC : Act.Keeps getC := fun _ h => h

theorem trap {c : Nat} {v : Word} : (trap c v : Act α).Keeps := fun _ _ => trivial

theorem waitHere : (waitHere : Act α).Keeps := fun _ _ => trivial

theorem consume {u a : Nat} : (throw (.consume u a) : Act α).Keeps := fun _ _ => trivial

theorem block {t : State} (h : t.Canonical) : (throw (.block t) : Act α).Keeps := fun _ _ => h

/-- What stopped other steps stops these. -/
theorem rethrow {x : Act β} {s : State} {e : Stop} (h : x s = .error e) (hx : Act.Leaves (x s)) : (throw e : Act α).Keeps := by
  rw [h] at hx
  cases e with
  | block t => exact fun _ _ => hx
  | trap | wait | consume => exact fun _ _ => trivial

theorem ite {p : Prop} [Decidable p] {x y : Act α} (hx : x.Keeps) (hy : y.Keeps) : (if p then x else y).Keeps := by
  split
  · exact hx
  · exact hy

/-- A step that a condition adds before what follows. -/
theorem when {p : Prop} [Decidable p] {x : Act Unit} {k : Unit → Act α} (hx : x.Keeps) (hk : ∀ y, (k y).Keeps) :
    (if p then x >>= k else k ()).Keeps := by
  split
  · exact hx.bind hk
  · exact hk ()

/-- A step that a condition leaves out before what follows. -/
theorem whenNot {p : Prop} [Decidable p] {x : Act Unit} {k : Unit → Act α} (hx : x.Keeps) (hk : ∀ y, (k y).Keeps) :
    (if p then k () else x >>= k).Keeps := by
  split
  · exact hk ()
  · exact hx.bind hk

/-- One of two steps before what follows. -/
theorem either {p : Prop} [Decidable p] {x y : Act β} {k : β → Act α} (hx : x.Keeps) (hy : y.Keeps) (hk : ∀ b, (k b).Keeps) :
    (if p then x >>= k else y >>= k).Keeps := by
  split
  · exact hx.bind hk
  · exact hy.bind hk

theorem mapM {l : List α} {f : α → Act β} (h : ∀ a, (f a).Keeps) : (l.mapM f).Keeps := by
  induction l with
  | nil => exact .pure
  | cons a l ih =>
    rw [List.mapM_cons]
    exact (h a).bind fun _ => ih.bind fun _ => .pure

theorem forM {l : List α} {f : α → Act PUnit} (h : ∀ a, (f a).Keeps) : (l.forM f).Keeps := by
  induction l with
  | nil => exact .pure
  | cons a l ih => exact (h a).bind fun _ => ih

end Act.Keeps

namespace Act.Ends

variable {Q : β → Prop}

theorem pure {b : β} (h : Q b) : Act.Ends Q (Pure.pure b) := ⟨.pure, fun _ e => by cases e; exact h⟩

theorem after {x : Act α} {f : α → Act β} (hx : x.Keeps) (hf : ∀ a, (f a).Ends Q) : (x >>= f).Ends Q := by
  refine ⟨hx.bind fun a => (hf a).keeps, fun {s} _ _ hs e => ?_⟩
  obtain ⟨a, u, ex, ef⟩ := bind_inv e
  have hu := hx s hs
  rw [ex] at hu
  exact (hf a).gives hu ef

theorem get {f : State → Act β} (hf : ∀ s : State, s.Canonical → (f s).Ends Q) : (MonadState.get >>= f).Ends Q :=
  ⟨.get fun s hs => (hf s hs).keeps, fun {s} _ _ hs e => (hf s hs).gives hs e⟩

theorem ite {p : Prop} [Decidable p] {x y : Act β} (hx : x.Ends Q) (hy : y.Ends Q) : (if p then x else y).Ends Q := by
  split
  · exact hx
  · exact hy

theorem whenNot {p : Prop} [Decidable p] {x : Act Unit} {k : Unit → Act β} (hx : x.Keeps) (hk : ∀ y, (k y).Ends Q) :
    (if p then k () else x >>= k).Ends Q := by
  split
  · exact hk ()
  · exact .after hx hk

theorem andThen {x : Act β} {f : β → Act α} (hx : x.Ends Q) (hf : ∀ b, Q b → (f b).Keeps) : (x >>= f).Keeps := by
  intro s hs
  have h := hx.keeps s hs
  have hg := @hx.gives s
  change Act.Leaves (x s >>= fun p => f p.1 p.2)
  revert h hg
  cases x s with
  | ok p => exact fun hp hg => hf _ (hg hs rfl) _ hp
  | error e => cases e <;> exact fun h _ => h

end Act.Ends

end

/-! ### What writes memory, and what leaves it (R22, R29, R117) -/

section

variable {s : State}

theorem modCoreAt_canonical {k f} (h : s.Canonical) : (modCoreAt s k f).Canonical := h

theorem modHerdAt_canonical {d f} (h : s.Canonical) : (modHerdAt s d f).Canonical := h

theorem modHomeAt_canonical {l f} (h : s.Canonical) : (modHomeAt s l f).Canonical := h

theorem modDieAt_canonical {d f} (h : s.Canonical) : (modDieAt s d f).Canonical := h

theorem modTeamAt_canonical {n f} (h : s.Canonical) : (modTeamAt s n f).Canonical := h.of_mem (mem_modTeamAt s n f)

theorem setMemByte_canonical {a b} (h : s.Canonical) : (setMemByte s a b).Canonical := setMemByte_wf s a b h

theorem setPlaceBytes_canonical {p bs} (h : s.Canonical) : (setPlaceBytes s p bs).Canonical := setPlaceBytes_wf s p bs h

theorem cleanPlace_canonical {p n} (h : s.Canonical) : (cleanPlace s p n).Canonical := h.of_mem (cleanPlace_mem s p n)

theorem poisonPlace_canonical {p n u} (h : s.Canonical) : (poisonPlace s p n u).Canonical := h.of_mem (poisonPlace_mem s p n u)

theorem noteWrite_canonical {p} (h : s.Canonical) : (noteWrite s p).Canonical := h.of_mem (noteWrite_mem s p)

theorem noteBank_canonical {p} (h : s.Canonical) : (noteBank s p).Canonical := h.of_mem (noteBank_mem s p)

theorem recallHerd_canonical {k l} (h : s.Canonical) : (recallHerd s k l).Canonical := h.of_mem (recallHerd_mem s k l)

theorem combineLine_canonical {l} (h : s.Canonical) : (combineLine s l).Canonical := combineLine_wf s l h

theorem combineBytes_canonical {a n} (h : s.Canonical) : (combineBytes s a n).Canonical := combineBytes_wf s a n h

theorem performAt_canonical {src p a} (h : s.Canonical) : (performAt s src p a).1.Canonical := performAt_wf s src p a h

theorem setRing_canonical {n r} (h : s.Canonical) : (setRing s n r).Canonical := h.of_mem (setRing_mem s n r)

theorem raiseRing_canonical {n} (h : s.Canonical) : (raiseRing s n).Canonical := h.of_mem (raiseRing_mem s n)

theorem ringAdvance_canonical {n} (h : s.Canonical) : (ringAdvance s n).Canonical := h.of_mem (ringAdvance_mem s n)

theorem ringWrite_canonical {n r} (h : s.Canonical) : (ringWrite s n r).Canonical := ringWrite_wf s n r h

theorem ringSend_canonical {n r} (h : s.Canonical) : (ringSend s n r).Canonical := ringSend_wf s n r h

theorem ringPost_canonical {n r} (h : s.Canonical) : (ringPost s n r).Canonical := ringPost_wf s n r h

theorem arriveHome_canonical {l} {f : State → State} (h : s.Canonical) (hf : ∀ z : State, z.Canonical → (f z).Canonical) :
    (arriveHome s l f).Canonical := by
  obtain e | ⟨t, ht, e⟩ := arriveHome_mem s l f
  · exact h.of_mem e
  · rw [e]
    exact hf t (h.of_mem ht)

end

end Sys2Proof.Machine
end

section
/-!
PROOFS. Memory stays canonical (log 2; R22, R29, R117), first part: the state's parts, exceptions, addresses, the caches and the homes, and
what performs there.
-/

namespace Sys2Proof.Machine

/-! ### The form of a meaning -/

theorem waitUntil_keeps {b : Bool} : (waitUntil b).Keeps := .ite .pure .waitHere

theorem trapIf_keeps {b : Bool} {cause : Nat} {val : Word} : (trapIf b cause val).Keeps := .ite .trap .pure

theorem illegal_keeps {α : Type} {i : Instr} {sub : Nat} : (illegal i sub : Act α).Keeps := .trap

/-! ### STATUS -/

theorem supervisorOnly_keeps {i : Instr} : (supervisorOnly i).Keeps := .bind .getC fun _ => .ite .pure illegal_keeps

/-! ### Scalar registers and register queues -/

theorem noPoison_keeps {unit i : Nat} : (noPoison unit i).Keeps := .bind .getC fun _ => .ite .consume .pure

theorem readReg_keeps {r : Nat} : (readReg r).Keeps :=
  .bind .getC fun _ =>
  .ite .pure <|
  .when .waitHere fun _ =>
  noPoison_keeps.bind fun _ =>
  .ite .pure <| by
    split
    · exact .trap
    · exact .bind .modC fun _ => .pure

theorem readPair_keeps {r : Nat} : (readPair r).Keeps :=
  .ite .pure (readReg_keeps.bind fun _ => readReg_keeps.bind fun _ => .pure)

theorem canWrite_keeps {r : Nat} : (canWrite r).Keeps :=
  .bind .getC fun _ => .ite .pure (.when .waitHere fun _ => .ite .trap .pure)

theorem writeReg_keeps {r : Nat} {v : Word} : (writeReg r v).Keeps := canWrite_keeps.bind fun _ => .modC

theorem writePair_keeps {r : Nat} {lo hi : Word} : (writePair r lo hi).Keeps :=
  .ite .pure (writeReg_keeps.bind fun _ => writeReg_keeps)

/-! ### Retirement (R204) -/

theorem retire_keeps {size : Nat} : (retire size).Keeps := .modC

/-! ### Consumption of poison (R221, R405, R407) -/

theorem consumeAt_canonical {s : State} {k unit addr : Nat} (hs : s.Canonical) : (consumeAt s k unit addr).Canonical :=
  .ite hs hs

/-! ### Taking an exception (R208) -/

theorem endThread_canonical {s : State} {k : Nat} (hs : s.Canonical) : (endThread s k).Canonical := hs

theorem failTeam_canonical {s : State} {t : Nat} {summary : Word} (hs : s.Canonical) : (failTeam s t summary).Canonical :=
  modTeamAt_canonical hs

theorem takeTrap_canonical {s : State} {k cause : Nat} {val : Word} {int : Bool} {resume : Word} (hs : s.Canonical) :
    (takeTrap s k cause val int resume).Canonical :=
  .ite (consumeAt_canonical hs) <|
  .ite (endThread_canonical <| by
      split
      · exact failTeam_canonical hs
      · exact hs) hs

theorem discardCounted_canonical {s : State} {k limitCause : Nat} {limitVal : Word} (hs : s.Canonical) :
    (discardCounted s k limitCause limitVal).Canonical := by
  unfold discardCounted
  dsimp only
  split
  · exact hs
  · exact .ite (takeTrap_canonical hs) hs

/-! ### The commit of a region (R336) -/

theorem notInRegion_keeps {i : Instr} : (notInRegion i).Keeps := .bind .getC fun _ => .ite illegal_keeps .pure

/-! ### A translation fault in user mode (R353) -/

theorem sleepOnFault_canonical {s : State} {k cause : Nat} {va : Word} {post : State → State} (hs : s.Canonical)
    (hp : ∀ z : State, z.Canonical → (post z).Canonical) : (sleepOnFault s k cause va post).Canonical :=
  .ite hs (hp _ hs)

/-! ### Constants and immediates -/

theorem operandB_keeps {k : BitVec 1} {b : BitVec 6} : (operandB k b).Keeps := .ite readReg_keeps .pure

/-! ### Translation -/

theorem combineWalk_canonical {s : State} {va level table : Nat} (hs : s.Canonical) : (combineWalk s va level table).Canonical := by
  induction level generalizing s table with
  | zero =>
    unfold combineWalk
    exact .ite hs (.ite hs (.ite (combineBytes_canonical hs) (combineBytes_canonical hs)))
  | succ l ih =>
    unfold combineWalk
    exact .ite hs (.ite hs (.ite (combineBytes_canonical hs) (ih (combineBytes_canonical hs))))

theorem xlateIn_canonical {s : State} {herd asid root va : Nat} (hs : s.Canonical) : (xlateIn s herd asid root va).2.Canonical := by
  unfold xlateIn
  dsimp only
  split
  · exact hs
  · split
    · exact hs
    · split
      · exact modDieAt_canonical (modHerdAt_canonical (combineWalk_canonical hs))
      · exact combineWalk_canonical hs

theorem xlate_canonical {s : State} {k va : Nat} {a : XAcc} {user : Bool} (hs : s.Canonical) : (xlate s k va a user).2.Canonical := by
  unfold xlate
  split
  · exact hs
  next t _ =>
    have hx := xlateIn_canonical (herd := herdOf k) (asid := t.asid) (root := t.root) (va := va) hs
    split
    next e => split <;> exact .sndOf e hx
    · exact hx

/-! ### The check of an access (R220) -/

theorem checkPlace_keeps {k : Kind} {ea : Word} {size polField : Nat} : (checkPlace k ea size polField).Keeps :=
  .get fun _ hs => by
    extract_lets _
    split
    · exact .trap
    · exact .ite .trap (.ite (.ite .trap .pure) (.ite .trap (.ite .trap .pure)))
    · exact .ite .pure .trap
    · exact .ite .pure .trap
    · refine .ite .trap ?_
      split
      next e => exact .bind (.set (.sndOf e (xlate_canonical hs))) fun _ => .trap
      · exact .trap
      next e =>
        extract_lets cell last jp
        have hlast : ∀ y, (last y).Keeps := fun _ => .bind (.set (.sndOf e (xlate_canonical hs))) fun _ => .pure
        have hk : ∀ y, (jp y).Keeps := fun _ => .when .trap hlast
        refine .ite ?_ (hk ())
        split
        · exact .bind .trap hk
        · exact .bind .trap hk
        · exact hk ()

theorem checkAccess_keeps {k : Kind} {ea : Word} {size polField : Nat} : (checkAccess k ea size polField).Keeps :=
  trapIf_keeps.bind fun _ => checkPlace_keeps.bind fun _ => .get (fun _ _ => .ite .trap .pure)

/-! ### The room of a herd cache (R16, R31, R126) -/

theorem dropMark_canonical {s : State} {h line : Nat} (hs : s.Canonical) : (dropMark s h line).Canonical := .ite hs hs

theorem leaveWay_canonical {s : State} {h : Nat} {a : Way} (hs : s.Canonical) : (leaveWay s h a).Canonical := by
  unfold leaveWay
  split
  · exact .ite hs (modHerdAt_canonical (dropMark_canonical hs))
  · exact hs

theorem makeRoom_canonical {s : State} {h line : Nat} (hs : s.Canonical) : (makeRoom s h line).Canonical := by
  unfold makeRoom
  split
  · exact hs
  · exact .update (leaveWay_canonical hs)

theorem reducePartial_canonical {s : State} {h pos contrib : Nat} {r : CommRange} {a operand : Nat} {w32 : Bool} (hs : s.Canonical) :
    (reducePartial s h pos contrib r a operand w32).Canonical :=
  modHomeAt_canonical (modHerdAt_canonical (.ite hs (makeRoom_canonical hs)))

/-! ### Herd caches and leases (R113 to R116) -/

theorem setHLine_canonical {s : State} {h line : Nat} {l : HLine} (hs : s.Canonical) : (setHLine s h line l).Canonical :=
  hs

theorem insertHLine_canonical {s : State} {h line : Nat} {l : HLine} (hs : s.Canonical) : (insertHLine s h line l).Canonical :=
  setHLine_canonical (.ite (dropMark_canonical hs) (makeRoom_canonical (dropMark_canonical hs)))

theorem dropSwm_canonical {s : State} {h line : Nat} (hs : s.Canonical) : (dropSwm s h line).Canonical := by
  unfold dropSwm
  split
  · exact hs
  · exact .ite hs (leaveWay_canonical hs)

theorem homeGrant_canonical {s : State} {h line : Nat} {pol : Policy} (hs : s.Canonical) : (homeGrant s h line pol).Canonical := by
  unfold homeGrant
  dsimp only
  split
  · exact hs
  · exact .ite (.update (insertHLine_canonical hs)) (insertHLine_canonical hs)
  · exact .ite (.ite (.update (insertHLine_canonical hs)) (insertHLine_canonical hs)) hs

/-! ### Errors in the state of the sheet and suffix engines (R402, R405; log 108) -/

theorem nextChoice_canonical {s : State} {unit n : Nat} (hs : s.Canonical) : (nextChoice s unit n).Canonical :=
  .ite hs hs

theorem cleanEngine_canonical {s : State} {unit n : Nat} (hs : s.Canonical) : (cleanEngine s unit n).Canonical := hs

theorem engineState_keeps {unit n : Nat} : (engineState unit n).Keeps :=
  .get fun _ _ => by
    split
    · exact .consume
    · exact .modify (fun _ hz => nextChoice_canonical hz)

/-! ### Rings of records (R102, R354, R410) -/

theorem ringRelease_canonical {fuel : Nat} {s : State} {n : Nat} (hs : s.Canonical) : (ringRelease fuel s n).Canonical := by
  induction fuel generalizing s with
  | zero => exact hs
  | succ fuel ih =>
    unfold ringRelease
    dsimp only
    split
    · exact hs
    · exact .ite hs (ih (ringWrite_canonical (setRing_canonical hs)))

/-! ### Fault records (R353, R354) -/

theorem postFault_canonical {s : State} {k va acc : Nat} {copy : Bool} (hs : s.Canonical) : (postFault s k va acc copy).Canonical := by
  unfold postFault
  split
  · exact hs
  · exact ringPost_canonical hs

theorem raiseTrap_canonical {s : State} {k cause : Nat} {val : Word} (hs : s.Canonical) : (raiseTrap s k cause val).Canonical :=
  .ite (sleepOnFault_canonical hs fun _ hz => postFault_canonical hz) (takeTrap_canonical hs)

/-! ### The form of a meaning -/

theorem runInstr_canonical {act : Act Unit} {s : State} (hs : s.Canonical) (ha : act.Keeps) : Out.Canonical (runInstr act s) := by
  have h := ha s hs
  unfold runInstr
  revert h
  cases act s with
  | ok p => exact id
  | error e =>
    cases e with
    | trap cause val => exact fun _ => raiseTrap_canonical hs
    | wait => exact fun _ => hs
    | block t => exact id
    | consume u a => exact fun _ => modCoreAt_canonical (consumeAt_canonical hs)

theorem blockHere_keeps {α : Type} : (blockHere : Act α).Keeps := .get (fun _ hs => .block hs)

/-! ### Answers to a core -/

theorem replyTo_canonical {s : State} {k : Nat} {r : Reply} (hs : s.Canonical) : (replyTo s k r).Canonical := hs

theorem popEntry_canonical {s : State} {k : Nat} (hs : s.Canonical) : (popEntry s k).Canonical := hs

theorem refuseEntry_canonical {s : State} {k cause : Nat} {ea : Word} {waits : Bool} (hs : s.Canonical) :
    (refuseEntry s k cause ea waits).Canonical := .ite hs hs

theorem finishEntry_canonical {s : State} {k : Nat} {e : Entry} {d : Done} (hs : s.Canonical) : (finishEntry s k e d).Canonical := by
  unfold finishEntry
  dsimp only
  split
  · exact .ite hs hs
  · exact refuseEntry_canonical hs
  · exact consumeAt_canonical hs

/-! ### The commit queue (R119, R121) -/

theorem performHere_canonical {s : State} {k : Nat} {e : Entry} (hs : s.Canonical) : (performHere s k e).Canonical := by
  unfold performHere
  split
  · exact .ite (refuseEntry_canonical hs) (popEntry_canonical (performAt_canonical (popEntry_canonical (performAt_canonical hs))))
  · exact finishEntry_canonical (performAt_canonical hs)

theorem refuseCell_canonical {s : State} {k : Nat} {e : Entry} (hs : s.Canonical) : (refuseCell s k e).Canonical :=
  refuseEntry_canonical hs

theorem storeHerd_canonical {s : State} {k : Nat} {e : Entry} {bs : Machine.SMap Byte} (hs : s.Canonical) :
    (storeHerd s k e bs).Canonical :=
  modHerdAt_canonical <| by
    split
    · exact setHLine_canonical (.ite (dropMark_canonical hs) hs)
    · exact .ite (dropMark_canonical hs) hs

theorem storeSwm_canonical {s : State} {k : Nat} {e : Entry} {bs : Machine.SMap Byte} (hs : s.Canonical) :
    (storeSwm s k e bs).Canonical := by
  unfold storeSwm
  dsimp only
  split
  · exact setHLine_canonical (.ite (dropMark_canonical (.ite hs (homeGrant_canonical (combineLine_canonical hs)))) <|
        .ite hs (homeGrant_canonical (combineLine_canonical hs)))
  · exact .ite (dropMark_canonical (.ite hs (homeGrant_canonical (combineLine_canonical hs)))) <|
      .ite hs (homeGrant_canonical (combineLine_canonical hs))

theorem stepReduce_canonical {s : State} {k : Nat} {e : Entry} {r : CommRange} {b : Word} {contrib : Nat} {w32 : Bool} (hs : s.Canonical) :
    (stepReduce s k e r b contrib w32).Canonical := .ite hs (popEntry_canonical (reducePartial_canonical hs))

theorem stepHead_canonical {s : State} {k : Nat} (hs : s.Canonical) : CanonicalIf (stepHead s k) := by
  unfold stepHead
  split
  · exact .none
  · exact .ite .none <|
      .ite (.some hs) <| by
        split
        · exact .some hs
        · exact .some hs
        · exact .ite (.some hs) .none
        · exact .ite .none <|
            .ite (.some (refuseCell_canonical hs)) <| by
              dsimp only
              split
              · exact .ite (.ite (.some (dropSwm_canonical hs)) (.ite .none (.some (popEntry_canonical (storeHerd_canonical hs))))) <|
                  .ite .none (.some (popEntry_canonical (storeSwm_canonical hs)))
              · split
                · exact .some (stepReduce_canonical hs)
                · exact .none
              · exact .none
        · exact .some (performHere_canonical hs)

theorem arriveHead_canonical {s : State} {k : Nat} (hs : s.Canonical) : CanonicalIf (arriveHead s k) := by
  unfold arriveHead
  split
  · exact .none
  · exact .ite .none (.ite (.some (dropSwm_canonical hs)) (.ite .none (.some hs)))

theorem arriveForward_canonical {s : State} {h : Nat} (hs : s.Canonical) : CanonicalIf (arriveForward s h) := by
  unfold arriveForward
  split
  · exact .none
  · exact .some hs

theorem updateCopy_canonical {s : State} {h : Nat} {e : Entry} (hs : s.Canonical) : (updateCopy s h e).Canonical := by
  unfold updateCopy
  dsimp only
  split
  · exact setHLine_canonical (.ite (dropMark_canonical hs) hs)
  · exact hs

theorem endJob_canonical {s : State} {k slot status : Nat} (hs : s.Canonical) : (endJob s k slot status).Canonical :=
  modDieAt_canonical <| by
    split
    · exact hs
    · exact hs

theorem dropWrite_canonical {s : State} {line : Nat} (hs : s.Canonical) : (dropWrite s line).Canonical := by
  unfold dropWrite
  split
  · exact hs
  · dsimp only
    split
    · split
      · exact finishEntry_canonical hs
      · exact hs
    · exact hs
    · exact endJob_canonical hs
    · exact ringRelease_canonical (.ite (ringAdvance_canonical hs) hs)
    · exact hs

theorem performHome_canonical {s : State} {line : Nat} (hs : s.Canonical) : CanonicalIf (performHome s line) := by
  unfold performHome
  dsimp only
  split
  · exact .none
  · refine .ite (.some (dropWrite_canonical hs)) (.ite .none ?_)
    split
    · split
      · exact .some hs
      · refine .ite (.some (refuseCell_canonical hs)) (.some (finishEntry_canonical ?_))
        exact .ite (updateCopy_canonical (performAt_canonical hs)) (performAt_canonical hs)
    · exact .some (performAt_canonical hs)
    · exact .some (endJob_canonical (performAt_canonical hs))
    · exact .some (ringRelease_canonical (.ite (ringAdvance_canonical (performAt_canonical hs)) (performAt_canonical hs)))
    · exact .some (.ite (poisonPlace_canonical (.ite (cleanPlace_canonical (performAt_canonical hs)) (performAt_canonical hs)))
        (.ite (cleanPlace_canonical (performAt_canonical hs)) (performAt_canonical hs)))

theorem arriveWrite_canonical {s : State} {src : WriteSrc} {pl : Place} {a : Machine.Action} {poisoned whole : Bool} (hs : s.Canonical) :
    (arriveWrite s src pl a poisoned whole).Canonical := .ite (.getD (performHome_canonical hs) hs) hs

end Sys2Proof.Machine
end

section
/-!
PROOFS. Memory stays canonical, second part: loads, stores, regions and twins, and the scalar instructions.
-/

namespace Sys2Proof.Machine

/-! ### Results of loads -/

theorem LoadDst.free_keeps {d : LoadDst} : (LoadDst.free d).Keeps := by
  unfold LoadDst.free
  split
  · exact canWrite_keeps
  · exact .ite (canWrite_keeps.bind fun _ => canWrite_keeps) .pure
  · exact .pure

/-! ### Acquires (R121) -/

theorem afterAcquire_keeps : afterAcquire.Keeps := .bind .getC fun _ => waitUntil_keeps

/-! ### The local write window (R122, R332, R334) -/

theorem windowRead_keeps {p : Place} {n : Nat} {ea : Word} : (windowRead p n ea).Keeps :=
  .get fun _ _ => by
    split
    · exact .pure
    · exact .ite .pure <| by
          split
          · exact .trap
          · exact .pure

/-! ### The region buffer and the commit queue (R122) -/

theorem nextStamp_keeps : nextStamp.Keeps := .bind .getC fun _ => .bind .modC fun _ => .pure

theorem mkEntry_keeps {a : Machine.Action} {pl : Place × Policy} {ea : Word} {ord scope : Nat} : (mkEntry a pl ea ord scope).Keeps :=
  nextStamp_keeps.bind fun _ => .bind .getC fun _ => .bind .getC fun _ => .get (fun _ _ => .pure)

theorem appendHeld_keeps {e : Entry} : (appendHeld e).Keeps :=
  .bind .getC fun _ => by
    split
    · exact .ite .modC (.ite .modC .trap)
    · exact .modC

theorem appendQueue_keeps {e : Entry} : (appendQueue e).Keeps :=
  .bind .getC fun _ => waitUntil_keeps.bind fun _ => .modC

theorem appendEntry_keeps {e : Entry} : (appendEntry e).Keeps :=
  .bind .getC fun _ => .ite appendHeld_keeps appendQueue_keeps

theorem storeTo_keeps {pl : Place × Policy} {ea : Word} {ord scope : Nat} {bs : Machine.SMap Byte} {pair : Bool} :
    (storeTo pl ea ord scope bs pair).Keeps :=
  .get fun _ _ => mkEntry_keeps.bind fun _ => by
    dsimp only
    split
    · exact .ite (afterAcquire_keeps.bind fun _ =>
          waitUntil_keeps.bind fun _ => .bind (.modify (fun _ hz => performAt_canonical hz)) fun _ => .modC) appendHeld_keeps
    · exact appendQueue_keeps

/-! ### The load path (R223) -/

theorem takeValue_keeps {dst : LoadDst} {v : Nat} : (takeValue dst v).Keeps := .modC

theorem consumes_keeps {s : State} {p : Place} {n : Nat} {fwd : Machine.SMap Byte} : (consumes s p n fwd).Keeps :=
  .ite (by
      split
      · exact .consume
      · exact .pure) .pure

theorem deferLoad_keeps {dst : LoadDst} {pl : Place × Policy} {ea : Word} {size : Nat} {acq : Bool} {scope : Nat}
    {fwd : Machine.SMap Byte} :
    (deferLoad dst pl ea size acq scope fwd).Keeps := nextStamp_keeps.bind fun _ => .modC

theorem loadFrom_keeps {dst : LoadDst} {pl : Place × Policy} {ea : Word} {size : Nat} {acq : Bool} {scope : Nat} :
    (loadFrom dst pl ea size acq scope).Keeps :=
  afterAcquire_keeps.bind fun _ =>
  LoadDst.free_keeps.bind fun _ =>
  windowRead_keeps.bind fun _ =>
  .get fun _ _ => by
    dsimp only
    split
    · exact .ite deferLoad_keeps <|
        .ite takeValue_keeps <|
        .ite deferLoad_keeps <| by
          split
          · exact .when .consume fun _ => .when (.modify (fun _ hz => hz)) fun _ => takeValue_keeps
          · exact .when (.modify (fun _ hz => dropSwm_canonical hz)) fun _ => deferLoad_keeps
    · exact consumes_keeps.bind fun _ => takeValue_keeps

theorem readNow_keeps {pl : Place} {size : Nat} : (readNow pl size).Keeps :=
  .get (fun _ _ => consumes_keeps.bind fun _ => .pure)

theorem finishLoad_canonical {s : State} {k : Nat} {l : LoadEntry} {v : Nat} (hs : s.Canonical) : (finishLoad s k l v).Canonical :=
  hs

theorem dropLoad_canonical {s : State} {k : Nat} {l : LoadEntry} (hs : s.Canonical) : (dropLoad s k l).Canonical := hs

theorem loadHome_canonical {s : State} {k idx : Nat} (hs : s.Canonical) : CanonicalIf (loadHome s k idx) := by
  unfold loadHome
  split
  · exact .none
  · exact .ite .none <|
      .ite (.some (dropSwm_canonical hs)) <|
      .ite .none <|
      .ite .none <| by
        dsimp only
        split
        · exact .ite (.some (consumeAt_canonical hs)) (.some (finishLoad_canonical (.ite hs hs)))
        · split
          · exact .some (consumeAt_canonical (dropLoad_canonical (combineLine_canonical hs)))
          · exact .some (finishLoad_canonical (.ite (combineLine_canonical hs) (homeGrant_canonical (combineLine_canonical hs))))

/-! ### Loads that an instruction waits for -/

theorem readPlain_keeps {s0 : State} {pl : Place × Policy} {ea : Word} {size : Nat} (hs0 : s0.Canonical) :
    (readPlain s0 pl ea size).Keeps :=
  afterAcquire_keeps.bind fun _ =>
  windowRead_keeps.bind fun _ =>
  .get fun _ hs => waitUntil_keeps.bind fun _ => by
    split
    · dsimp only
      split
      · exact .when .consume fun _ => .when (.modify (fun _ hz => hz)) fun _ => .pure
      · exact .when (.block (dropSwm_canonical hs0)) fun _ =>
          waitUntil_keeps.bind fun _ =>
          .bind (.modify (fun _ hz => combineLine_canonical hz)) fun _ =>
          .get (fun _ _ => consumes_keeps.bind fun _ => .bind (.modify (fun _ hz => homeGrant_canonical hz)) fun _ => .pure)
    · exact consumes_keeps.bind fun _ => .pure

theorem sendOne_canonical {s : State} {x : Word × Nat × Place × Policy} {scope : Nat} (hs : s.Canonical) : (sendOne s x scope).Canonical :=
  .ite hs hs

theorem sendAway_canonical {s : State} {els : List (Word × Nat × Place × Policy)} {scope : Nat} (hs : s.Canonical) :
    (sendAway s els scope).Canonical := modCoreAt_canonical (.foldl hs (fun _ _ hz => sendOne_canonical hz))

theorem awayAnswers_keeps {s0 : State} : (awayAnswers s0).Keeps := by
  unfold awayAnswers
  split
  · exact .trap
  · exact waitUntil_keeps.bind fun _ => .bind .modC fun _ => .pure

theorem awayValues_keeps {s0 : State} {els : List (Word × Nat × Place × Policy)} {scope : Nat} (hs0 : s0.Canonical) :
    (awayValues s0 els scope).Keeps :=
  .ite .pure (.ite awayAnswers_keeps (afterAcquire_keeps.bind fun _ => .block (sendAway_canonical hs0)))

theorem readEach_keeps {s0 : State} {els : List (Word × Nat × Place × Policy)} {vs : List Nat} (hs0 : s0.Canonical) :
    (readEach s0 els vs).Keeps := by
  induction els generalizing vs with
  | nil => exact .pure
  | cons x rest ih =>
    unfold readEach
    exact .ite (ih.bind fun _ => .pure) ((readPlain_keeps hs0).bind fun _ => ih.bind fun _ => .pure)

theorem gather_keeps {s0 : State} {els : List (Word × Nat × Place × Policy)} (hs0 : s0.Canonical) : (gather s0 els).Keeps :=
  .bind (awayValues_keeps hs0) fun _ => readEach_keeps hs0

/-! ### Several stores of one instruction -/

theorem mkEntries_keeps {bs : List Block} : (mkEntries bs).Keeps := by
  induction bs with
  | nil => exact .pure
  | cons b rest ih => exact mkEntry_keeps.bind fun _ => ih.bind fun _ => .pure

theorem storeMany_keeps {blocks : List Block} : (storeMany blocks).Keeps :=
  .bind .getC fun _ =>
  .get fun _ _ => by
    dsimp only
    split
    · exact .forM (fun _ => storeTo_keeps)
    · exact waitUntil_keeps.bind fun _ =>
        mkEntries_keeps.bind fun _ => .bind .modC fun _ => .bind .getC fun _ => .ite (.bind .modC fun _ => blockHere_keeps) .pure

theorem withStores_keeps {act : Act Unit} (ha : act.Keeps) : (withStores act).Keeps :=
  .bind .getC fun _ => .ite (.bind .getC fun _ => waitUntil_keeps.bind fun _ => retire_keeps) ha

/-! ### Waiting for an answer -/

theorem withReply_keeps {α : Type} {w : Wait} {reads : Act α} {send : α → Act (State → State)} {fin : α → Word → Word → Act Unit}
    (hr : reads.Keeps) (hsend : ∀ x, (send x).Ends fun f => ∀ z : State, z.Canonical → (f z).Canonical)
    (hf : ∀ x u v, (fin x u v).Keeps) : (withReply w reads send fin).Keeps :=
  .get fun s0 hs0 => by
    split
    · exact hr.bind fun _ => hf _ _ _
    · exact .trap
    · exact .ite .waitHere (hr.bind fun x => (hsend x).andThen fun f hf => .block (modCoreAt_canonical (hf s0 hs0)))

/-! ### The commit of a region, and terminating instructions (R335, R336, R413) -/

theorem twinMeet_canonical {s : State} {p : Nat} {mine : Word × List Word} {differ : State → State} (hs : s.Canonical)
    (hd : (differ s).Canonical) : Out.Canonical (twinMeet s p mine differ) := by
  unfold twinMeet
  split
  · exact hs
  · exact .ite hs hd

theorem commitThen_canonical {s : State} {go : State → Out} (hs : s.Canonical) (hgo : ∀ z : State, z.Canonical → Out.Canonical (go z)) :
    Out.Canonical (commitThen s go) := by
  unfold commitThen
  dsimp only
  split
  · exact hgo _ hs
  · exact hgo _ hs
  · exact .ite (hgo _ hs) (twinMeet_canonical hs (discardCounted_canonical (discardCounted_canonical hs)))

theorem runTerm_canonical {act : Act Unit} {s : State} (hs : s.Canonical) (ha : act.Keeps) : Out.Canonical (runTerm act s) := by
  unfold runTerm
  split
  · exact runInstr_canonical hs ha
  · exact commitThen_canonical hs fun _ hz => runInstr_canonical hz ha

/-! ### Twins (R412, R414) -/

theorem twinDiffer_canonical {s : State} (hs : s.Canonical) : (twinDiffer s).Canonical := by
  unfold twinDiffer
  split
  · exact hs
  · exact takeTrap_canonical (takeTrap_canonical hs)

theorem compareAt_canonical {s : State} {p : Nat} {reads : List Nat} {mine : Word × List Word} (hs : s.Canonical) :
    Out.Canonical (compareAt s p reads mine) := .ite hs (twinMeet_canonical hs (twinDiffer_canonical hs))

theorem runBoth_canonical {i : Instr} {reads : List Nat} {more : Core → List Word} {act : Act Unit} {s : State} (hs : s.Canonical)
    (ha : act.Keeps) : Out.Canonical (runBoth i reads more act s) := by
  unfold runBoth
  dsimp only
  split
  · exact runInstr_canonical hs ha
  · exact .ite (runInstr_canonical hs ha) (compareAt_canonical hs)

theorem runOnce_canonical {i : Instr} {reads dst : List Nat} {act : Act Unit} {s : State} (hs : s.Canonical) (ha : act.Keeps) :
    Out.Canonical (runOnce i reads dst act s) := by
  unfold runOnce
  dsimp only
  split
  · exact runInstr_canonical hs ha
  · refine .ite (.ite ?_ (runInstr_canonical hs (.bind .getC fun _ => ?_))) (compareAt_canonical hs)
    · split
      · exact raiseTrap_canonical hs
      · split
        next e => exact .ite (.ofNext e (runInstr_canonical hs ha)) (replyTo_canonical (.ofNext e (runInstr_canonical hs ha)))
        · exact runInstr_canonical hs ha
    · split
      · refine .bind (.mapM fun _ => readReg_keeps) fun _ => .bind ?_ fun _ => retire_keeps
        split
        · exact .pure
        · exact writeReg_keeps
        · exact writeReg_keeps.bind fun _ => writeReg_keeps
      · exact .trap
      · exact .waitHere

theorem runTermOnce_canonical {i : Instr} {reads dst : List Nat} {act : Act Unit} {s : State} (hs : s.Canonical) (ha : act.Keeps) :
    Out.Canonical (runTermOnce i reads dst act s) := by
  unfold runTermOnce
  split
  · exact runOnce_canonical hs ha
  · exact commitThen_canonical hs fun _ hz => runOnce_canonical hz ha

/-! ### Flags of floating arithmetic (R52, R199) -/

theorem modeOf_keeps {rm : BitVec 3} : (modeOf rm).Keeps := by
  unfold modeOf
  exact .when noPoison_keeps fun _ => .bind .getC fun _ => .pure

theorem statusMode_keeps {rounds : Bool} : (statusMode rounds).Keeps := by
  unfold statusMode
  exact .when noPoison_keeps fun _ => .bind .getC fun _ => .pure

theorem setFlags_keeps {f : BitVec 5} : (setFlags f).Keeps := .modC

/-! ### Fields of control registers (R7, R8, R189 to R193) -/

theorem iline_canonical {s : State} {k a : Nat} (hs : s.Canonical) : ((iline s k a).elim Prod.snd Prod.snd).Canonical := by
  unfold iline
  dsimp only
  split
  · exact hs
  · split
    next e => exact .sndOf e (xlate_canonical hs)
    next e => exact .sndOf e (xlate_canonical hs)
    next e =>
      have hx := State.Canonical.sndOf e (xlate_canonical hs)
      split
      · exact dropSwm_canonical hx
      · split
        · exact hx
        · split
          · exact combineLine_canonical hx
          · exact combineLine_canonical hx

theorem fetchHalf_canonical {s : State} {k : Nat} {a : Word} (hs : s.Canonical) : (fetchHalf s k a).2.Canonical := by
  have hi := iline_canonical (k := k) (a := a.toNat) hs
  unfold fetchHalf
  dsimp only
  split
  · split
    · exact hs
    · split
      next e => rwa [e] at hi
      next e => rwa [e] at hi
  · split
    · split
      · exact hs
      · split <;> exact hs
    · exact hs

theorem fetchAct_keeps {s0 : State} {a : Word} (hs0 : s0.Canonical) : (fetchAct s0 a).Keeps :=
  .get fun _ hs => by
    split
    next e => exact .bind (.set (.sndOf e (fetchHalf_canonical hs))) fun _ => .pure
    next e => exact .bind (.set (.sndOf e (fetchHalf_canonical hs))) fun _ => .trap
    · exact .consume
    · exact .block (fetchHalf_canonical hs0)

/-! ### The forms -/

theorem alu2_keeps {d a : BitVec 4} {k : BitVec 1} {b : BitVec 6} {f : Word → Word → Word} : (alu2 d a k b f).Keeps :=
  readReg_keeps.bind fun _ => operandB_keeps.bind fun _ => writeReg_keeps.bind fun _ => retire_keeps

theorem alu3_keeps {d a : BitVec 4} {k : BitVec 1} {b : BitVec 6} {f : Word → Word → Word → Word} : (alu3 d a k b f).Keeps :=
  readReg_keeps.bind fun _ => operandB_keeps.bind fun _ => readReg_keeps.bind fun _ => writeReg_keeps.bind fun _ => retire_keeps

theorem alu1_keeps {d a : BitVec 4} {size : Nat} {f : Word → Word} : (alu1 d a size f).Keeps :=
  readReg_keeps.bind fun _ => writeReg_keeps.bind fun _ => retire_keeps

theorem alu16_keeps {d a : BitVec 4} {f : Word → Word → Word} : (alu16 d a f).Keeps :=
  readReg_keeps.bind fun _ => readReg_keeps.bind fun _ => writeReg_keeps.bind fun _ => retire_keeps

theorem aluConst_keeps {d : BitVec 4} {size : Nat} {v : Word} : (aluConst d size v).Keeps :=
  writeReg_keeps.bind fun _ => retire_keeps

/-! ### ALU (R196) -/

theorem execCmov_canonical {d a : BitVec 4} {k : BitVec 1} {b : BitVec 6} {s : State} (hs : s.Canonical) :
    Out.Canonical (execCmov d a k b s) :=
  runInstr_canonical hs <|
  readReg_keeps.bind fun _ => operandB_keeps.bind fun _ => readReg_keeps.bind fun _ => .when writeReg_keeps fun _ => retire_keeps

/-! ### Immediates (R197) -/

theorem execBfi_canonical {d a : BitVec 4} {wd pos : BitVec 6} {s : State} (hs : s.Canonical) : Out.Canonical (execBfi d a wd pos s) :=
  runInstr_canonical hs (readReg_keeps.bind fun _ => readReg_keeps.bind fun _ => writeReg_keeps.bind fun _ => retire_keeps)

/-! ### U format and extension registers (R171, R172, R198) -/

theorem execLix_canonical {d : BitVec 4} {e : BitVec 2} {v : BitVec 19} {s : State} (hs : s.Canonical) : Out.Canonical (execLix d e v s) :=
  runInstr_canonical hs (noPoison_keeps.bind fun _ => .bind .getC fun _ => writeReg_keeps.bind fun _ => retire_keeps)

/-! ### 16-bit forms (R175) -/

theorem fltA_keeps {a : BitVec 4} {t : BitVec 1} : (fltA a t).Keeps := readReg_keeps.bind fun _ => .pure

theorem fltB_keeps {k : BitVec 1} {b : BitVec 6} {t : BitVec 1} : (fltB k b t).Keeps :=
  .ite (readReg_keeps.bind fun _ => .pure) .pure

theorem fltResult_keeps {d : BitVec 4} {t : BitVec 1} {mode : Nat} {sat : BitVec 1} {r : FVal × BitVec 5} :
    (fltResult d t mode sat r).Keeps := writeReg_keeps.bind fun _ => setFlags_keeps.bind fun _ => retire_keeps

theorem flt2_keeps {d a : BitVec 4} {k : BitVec 1} {b : BitVec 6} {t : BitVec 1} {rm : BitVec 3} {sat : BitVec 1}
    {op : Nat → FVal → FVal → FVal × BitVec 5} :
    (flt2 d a k b t rm sat op).Keeps :=
  modeOf_keeps.bind fun _ => fltA_keeps.bind fun _ => fltB_keeps.bind fun _ => fltResult_keeps

theorem fltBits_keeps {d a : BitVec 4} {k : BitVec 1} {b : BitVec 6} {t : BitVec 1} {f : Nat → Nat → Nat} : (fltBits d a k b t f).Keeps :=
  fltA_keeps.bind fun _ => fltB_keeps.bind fun _ => writeReg_keeps.bind fun _ => retire_keeps

theorem execFfma_canonical {d a : BitVec 4} {k : BitVec 1} {b : BitVec 6} {t : BitVec 1} {rm : BitVec 3} {sat : BitVec 1} {s : State}
    (hs : s.Canonical) : Out.Canonical (execFfma d a k b t rm sat s) :=
  runInstr_canonical hs <|
  modeOf_keeps.bind fun _ => fltA_keeps.bind fun _ => fltB_keeps.bind fun _ => fltA_keeps.bind fun _ => fltResult_keeps

theorem execFcvt_canonical {d a : BitVec 4} {tk sk rm : BitVec 3} {sat : BitVec 1} {s : State} (hs : s.Canonical) :
    Out.Canonical (execFcvt d a tk sk rm sat s) :=
  runInstr_canonical hs <|
  modeOf_keeps.bind fun _ => readReg_keeps.bind fun _ => writeReg_keeps.bind fun _ => setFlags_keeps.bind fun _ => retire_keeps

theorem retireBranch_keeps {size : Nat} {target : Option Word} {annul : Bool} : (retireBranch size target annul).Keeps :=
  .modC

theorem branch_keeps {a b : BitVec 4} {n : BitVec 2} {disp : BitVec 15} {cond : Word → Word → Bool} : (branch a b n disp cond).Keeps :=
  readReg_keeps.bind fun _ => readReg_keeps.bind fun _ => .bind .getC fun _ => retireBranch_keeps

theorem linkAddr_keeps {s0 : State} {size : Nat} (hs0 : s0.Canonical) : (linkAddr s0 size).Keeps :=
  .bind .getC fun _ => .bind (fetchAct_keeps hs0) fun _ => .bind (fetchAct_keeps hs0) fun _ => .pure

theorem jumpReg_keeps {d a : BitVec 4} {n : BitVec 1} {size : Nat} : (jumpReg d a n size).Keeps :=
  .get fun _ hs0 => readReg_keeps.bind fun _ =>
  trapIf_keeps.bind fun _ => .bind (linkAddr_keeps hs0) fun _ => writeReg_keeps.bind fun _ => retireBranch_keeps

theorem execJal_canonical {d : BitVec 4} {n : BitVec 1} {disp : BitVec 20} {s : State} (hs : s.Canonical) :
    Out.Canonical (execJal d n disp s) :=
  runInstr_canonical hs <|
  .bind .getC fun _ => .get (fun _ hs => .bind (linkAddr_keeps hs) fun _ => writeReg_keeps.bind fun _ => retireBranch_keeps)

theorem branch16_keeps {hi a : BitVec 4} {lo : BitVec 2} {cond : Word → Bool} : (branch16 hi a lo cond).Keeps :=
  readReg_keeps.bind fun _ => .bind .getC fun _ => retireBranch_keeps

/-! ### Control registers -/

theorem putCsr_canonical {s : State} {k n op : Nat} {x : Word} (hs : s.Canonical) : (putCsr s k n op x).Canonical :=
  modCoreAt_canonical (.ite hs hs)

theorem csrCheck_keeps {i : Instr} {n : Nat} : (csrCheck i n).Keeps := by
  unfold csrCheck
  exact .when supervisorOnly_keeps fun _ => .whenNot illegal_keeps fun _ => noPoison_keeps

theorem execCsrr_canonical {d : BitVec 4} {n : BitVec 12} {s : State} (hs : s.Canonical) : Out.Canonical (execCsrr d n s) :=
  runInstr_canonical hs (csrCheck_keeps.bind fun _ => .get (fun _ _ => writeReg_keeps.bind fun _ => retire_keeps))

theorem csrWrite_keeps {i : Instr} {d a : BitVec 4} {n op : Nat} : (csrWrite i d a n op).Keeps :=
  csrCheck_keeps.bind fun _ =>
  readReg_keeps.bind fun _ =>
  .get (fun _ _ => .bind (.modify (fun _ hz => putCsr_canonical hz)) fun _ => writeReg_keeps.bind fun _ => retire_keeps)

/-! ### System instructions -/

theorem execTrap_canonical {a : BitVec 4} {s : State} (hs : s.Canonical) : Out.Canonical (execTrap a s) :=
  runTerm_canonical hs <|
  readReg_keeps.bind fun _ =>
  .bind .getC fun _ => noPoison_keeps.bind fun _ => retire_keeps.bind fun _ => .modify (fun _ hz => takeTrap_canonical hz)

theorem execEret_canonical {s : State} (hs : s.Canonical) : Out.Canonical (execEret s) :=
  runInstr_canonical hs <|
  supervisorOnly_keeps.bind fun _ =>
  .bind (.forM (fun _ => noPoison_keeps)) fun _ =>
  .bind .getC fun _ => .whenNot illegal_keeps fun _ => .whenNot illegal_keeps fun _ => .modC

theorem execSleep_canonical {a : BitVec 4} {s : State} (hs : s.Canonical) : Out.Canonical (execSleep a s) :=
  runTerm_canonical hs (.get (fun _ hs0 => readReg_keeps.bind fun _ => noPoison_keeps.bind fun _ => .ite retire_keeps (.block hs0)))

theorem execFenceI_canonical {s : State} (hs : s.Canonical) : Out.Canonical (execFenceI s) :=
  runTerm_canonical hs (.bind .getC fun _ => .whenNot illegal_keeps fun _ => .bind .modC fun _ => retire_keeps)

theorem execQcfg_canonical {a : BitVec 4} {s : State} (hs : s.Canonical) : Out.Canonical (execQcfg a s) :=
  runTerm_canonical hs <|
  readReg_keeps.bind fun _ =>
  .whenNot illegal_keeps fun _ =>
  .bind .getC fun _ =>
  .bind .getC fun _ => .bind .getC fun _ => .bind .getC fun _ => waitUntil_keeps.bind fun _ => .bind .modC fun _ => retire_keeps

theorem execRbegin_canonical {a b : BitVec 4} {wbuf : BitVec 1} {s : State} (hs : s.Canonical) : Out.Canonical (execRbegin a b wbuf s) :=
  commitThen_canonical hs fun _ hz => runInstr_canonical hz <|
  .bind .getC fun _ =>
  .whenNot illegal_keeps fun _ =>
  waitUntil_keeps.bind fun _ =>
  readReg_keeps.bind fun _ => readReg_keeps.bind fun _ => trapIf_keeps.bind fun _ => .bind .modC fun _ => retire_keeps

theorem execRabort_canonical {s : State} (hs : s.Canonical) : Out.Canonical (execRabort s) :=
  .ite (runInstr_canonical hs illegal_keeps) <|
  .ite (discardCounted_canonical hs) (modCoreAt_canonical (discardCounted_canonical hs))

theorem loadAt_keeps {s0 : State} {dst : LoadDst} {ea : Word} {size pol : Nat} {acq : Bool} {scope : Nat} (hs0 : s0.Canonical) :
    (loadAt s0 dst ea size pol acq scope).Keeps :=
  .ite (awayAnswers_keeps.bind fun _ => LoadDst.free_keeps.bind fun _ => takeValue_keeps) <|
  checkAccess_keeps.bind fun _ =>
  .ite (LoadDst.free_keeps.bind fun _ => afterAcquire_keeps.bind fun _ => .block (sendAway_canonical hs0)) loadFrom_keeps

theorem load_keeps {dst : LoadDst} {a : BitVec 4} {ord : BitVec 2} {scope : BitVec 3} {pol : BitVec 2} {off : BitVec 10} {size : Nat} :
    (load dst a ord scope pol off size).Keeps :=
  .get (fun _ hs0 => readReg_keeps.bind fun _ => .bind (loadAt_keeps hs0) fun _ => retire_keeps)

theorem store_keeps {d a : BitVec 4} {ord : BitVec 2} {scope : BitVec 3} {pol : BitVec 2} {off : BitVec 10} {size : Nat} :
    (store d a ord scope pol off size).Keeps :=
  readReg_keeps.bind fun _ => readReg_keeps.bind fun _ => checkAccess_keeps.bind fun _ => storeTo_keeps.bind fun _ => retire_keeps

theorem execStq_canonical {d a : BitVec 4} {ord : BitVec 2} {scope : BitVec 3} {pol : BitVec 2} {off : BitVec 10} {s : State}
    (hs : s.Canonical) : Out.Canonical (execStq d a ord scope pol off s) :=
  runInstr_canonical hs <|
  readReg_keeps.bind fun _ => readPair_keeps.bind fun _ => checkAccess_keeps.bind fun _ => storeTo_keeps.bind fun _ => retire_keeps

theorem execLdx_canonical {d a b : BitVec 4} {s : State} (hs : s.Canonical) : Out.Canonical (execLdx d a b s) :=
  runInstr_canonical hs <|
  .get (fun _ hs0 => readReg_keeps.bind fun _ => readReg_keeps.bind fun _ => .bind (loadAt_keeps hs0) fun _ => retire_keeps)

theorem execStx_canonical {d a b : BitVec 4} {s : State} (hs : s.Canonical) : Out.Canonical (execStx d a b s) :=
  runInstr_canonical hs <|
  readReg_keeps.bind fun _ =>
  readReg_keeps.bind fun _ => readReg_keeps.bind fun _ => checkAccess_keeps.bind fun _ => storeTo_keeps.bind fun _ => retire_keeps

theorem load16_keeps {d a : BitVec 4} {x : BitVec 2} {size : Nat} {signed : Bool} : (load16 d a x size signed).Keeps :=
  .get (fun _ hs0 => readReg_keeps.bind fun _ => .bind (loadAt_keeps hs0) fun _ => retire_keeps)

theorem store16_keeps {d a : BitVec 4} {x : BitVec 2} {size : Nat} : (store16 d a x size).Keeps :=
  readReg_keeps.bind fun _ => readReg_keeps.bind fun _ => checkAccess_keeps.bind fun _ => storeTo_keeps.bind fun _ => retire_keeps

theorem amoReads_keeps {op : AmoOp} {d a : BitVec 4} {k : BitVec 1} {b : BitVec 6} : (amoReads op d a k b).Keeps :=
  readReg_keeps.bind fun _ => operandB_keeps.bind fun _ => .either readReg_keeps .pure (fun _ => .pure)

theorem amoSilent_keeps {op : AmoOp} {d a : BitVec 4} {k : BitVec 1} {b : BitVec 6} {ord : BitVec 2} {scope : BitVec 3} {w : BitVec 1} :
    (amoSilent op d a k b ord scope w).Keeps :=
  amoReads_keeps.bind fun _ =>
  checkAccess_keeps.bind fun _ => mkEntry_keeps.bind fun _ => appendEntry_keeps.bind fun _ => retire_keeps

theorem amoResult_keeps {op : AmoOp} {d a : BitVec 4} {k : BitVec 1} {b : BitVec 6} {ord : BitVec 2} {scope : BitVec 3} {w : BitVec 1} :
    (amoResult op d a k b ord scope w).Keeps :=
  withReply_keeps amoReads_keeps (fun _ => .after checkAccess_keeps fun _ =>
    .after canWrite_keeps fun _ =>
    .after .getC fun _ => .after waitUntil_keeps fun _ => .after mkEntry_keeps fun _ => .pure (fun _ hz => hz)) fun _ _ _ =>
    writeReg_keeps.bind fun _ => retire_keeps

theorem amo_canonical {i : Instr} {op : AmoOp} {d a : BitVec 4} {k : BitVec 1} {b : BitVec 6} {ord : BitVec 2} {scope : BitVec 3}
    {w : BitVec 1} {s : State} (hs : s.Canonical) : Out.Canonical (amo i op d a k b ord scope w s) :=
  .ite (runInstr_canonical hs amoSilent_keeps) (runTermOnce_canonical hs amoResult_keeps)

theorem reduce_keeps {op : RedOp} {a : BitVec 4} {k : BitVec 1} {b : BitVec 6} {ord : BitVec 2} {scope : BitVec 3} {w : BitVec 1} :
    (reduce op a k b ord scope w).Keeps :=
  readReg_keeps.bind fun _ =>
  operandB_keeps.bind fun _ =>
  checkAccess_keeps.bind fun _ =>
  .get fun _ _ => by
    extract_lets jp
    have hk : ∀ y, (jp y).Keeps := fun _ => noPoison_keeps.bind fun _ =>
      mkEntry_keeps.bind fun _ => appendEntry_keeps.bind fun _ => retire_keeps
    exact .ite (by
          split
          · exact .bind trapIf_keeps hk
          · exact hk ()) (hk ())

/-! ### Full/empty operations (R231 to R233) -/

theorem takeOrPeek_keeps {kind : MsgKind} {d a : BitVec 4} : (takeOrPeek kind d a).Keeps :=
  withReply_keeps readReg_keeps (fun _ => .after checkAccess_keeps fun _ =>
    .after canWrite_keeps fun _ => .after afterAcquire_keeps fun _ => .pure (fun _ hz => hz)) fun _ _ _ =>
    writeReg_keeps.bind fun _ => retire_keeps

theorem execPut_canonical {a b : BitVec 4} {ord : BitVec 2} {scope : BitVec 3} {s : State} (hs : s.Canonical) :
    Out.Canonical (execPut a b ord scope s) :=
  runInstr_canonical hs <|
  readReg_keeps.bind fun _ =>
  readReg_keeps.bind fun _ =>
  checkAccess_keeps.bind fun _ => mkEntry_keeps.bind fun _ => appendEntry_keeps.bind fun _ => retire_keeps

theorem execFeinit_canonical {a b : BitVec 4} {scope : BitVec 3} {full : BitVec 1} {s : State} (hs : s.Canonical) :
    Out.Canonical (execFeinit a b scope full s) :=
  runInstr_canonical hs <|
  readReg_keeps.bind fun _ =>
  readReg_keeps.bind fun _ =>
  checkAccess_keeps.bind fun _ =>
  .get (fun _ _ => trapIf_keeps.bind fun _ => mkEntry_keeps.bind fun _ => appendEntry_keeps.bind fun _ => retire_keeps)

theorem execPref_canonical {a b : BitVec 4} {s : State} (hs : s.Canonical) : Out.Canonical (execPref a b s) :=
  runInstr_canonical hs <|
  readReg_keeps.bind fun _ =>
  readReg_keeps.bind fun _ => by
    split
    · exact retire_keeps
    · exact .bind .getC fun _ => waitUntil_keeps.bind fun _ => .bind .modC fun _ => retire_keeps

theorem execRflush_canonical {a b : BitVec 4} {s : State} (hs : s.Canonical) : Out.Canonical (execRflush a b s) :=
  runInstr_canonical hs <|
  readReg_keeps.bind fun _ =>
  readReg_keeps.bind fun _ => by
    split
    · exact retire_keeps
    · exact mkEntry_keeps.bind fun _ => appendEntry_keeps.bind fun _ => retire_keeps

theorem execRinv_canonical {a b : BitVec 4} {s : State} (hs : s.Canonical) : Out.Canonical (execRinv a b s) :=
  runTerm_canonical hs <|
  withReply_keeps (readReg_keeps.bind fun _ => readReg_keeps.bind fun _ => .pure) (fun _ => .after afterAcquire_keeps fun _ =>
    .after .getC fun _ => .after waitUntil_keeps fun _ => .pure (fun _ hz => hz)) fun _ _ _ => retire_keeps

/-! ### L2 retention (R240 to R242) -/

theorem retainOp_canonical {s : State} {base len ways : Nat} (hs : s.Canonical) : (retainOp s base len ways).2.Canonical :=
  .iteSnd hs <|
  .iteSnd hs <| by
    split
    · exact hs
    · exact .iteSnd hs hs

theorem execRetain_canonical {d a b : BitVec 4} {s : State} (hs : s.Canonical) : Out.Canonical (execRetain d a b s) :=
  runTerm_canonical hs <|
  supervisorOnly_keeps.bind fun _ =>
  readReg_keeps.bind fun _ =>
  readReg_keeps.bind fun _ =>
  readReg_keeps.bind fun _ =>
  .get (fun _ hs => .bind (.set (retainOp_canonical hs)) fun _ => writeReg_keeps.bind fun _ => retire_keeps)

theorem execUnretain_canonical {a : BitVec 4} {s : State} (hs : s.Canonical) : Out.Canonical (execUnretain a s) :=
  runTerm_canonical hs <|
  supervisorOnly_keeps.bind fun _ => readReg_keeps.bind fun _ => .bind (.modify (fun _ hz => hz)) fun _ => retire_keeps

/-! ### Commutative ranges (R238, R239) -/

theorem execCrdecl_canonical {d a b : BitVec 4} {elem : BitVec 3} {op : BitVec 2} {s : State} (hs : s.Canonical) :
    Out.Canonical (execCrdecl d a b elem op s) :=
  runTerm_canonical hs <|
  readReg_keeps.bind fun _ =>
  readReg_keeps.bind fun _ =>
  canWrite_keeps.bind fun _ =>
  .ite (writeReg_keeps.bind fun _ => retire_keeps) <|
  .get fun _ hs => by
    split
    next e => exact .bind (.set (.sndOf e (xlate_canonical hs))) fun _ => .trap
    · exact .trap
    next e =>
      exact .bind (.set (.sndOf e (xlate_canonical hs))) fun _ =>
        .ite (writeReg_keeps.bind fun _ => retire_keeps) <|
        .ite (writeReg_keeps.bind fun _ => retire_keeps) <| by
          split
          · exact writeReg_keeps.bind fun _ => retire_keeps
          · exact .bind (.modify (fun _ hz => hz)) fun _ => writeReg_keeps.bind fun _ => retire_keeps

theorem clearRange_canonical {s : State} {i : Nat} (hs : s.Canonical) : (clearRange s i).Canonical := by
  unfold clearRange
  split
  · exact hs
  · exact .update (.foldl hs (fun _ _ hz => .ite (combineLine_canonical hz) hz))

theorem execCrclr_canonical {a : BitVec 4} {s : State} (hs : s.Canonical) : Out.Canonical (execCrclr a s) :=
  runTerm_canonical hs <|
  readReg_keeps.bind fun _ =>
  .get fun _ _ => by
    split
    · exact retire_keeps
    · exact .ite (waitUntil_keeps.bind fun _ => .bind (.modify (fun _ hz => clearRange_canonical hz)) fun _ => retire_keeps) retire_keeps

/-! ### WAITA (R235) -/

theorem waitaPlace_keeps {x : Word} : (waitaPlace x).Keeps :=
  trapIf_keeps.bind fun _ =>
  .get fun _ _ => by
    split
    · exact .ite .pure .trap
    · exact .trap

theorem execWaita_canonical {d a b : BitVec 4} {s : State} (hs : s.Canonical) : Out.Canonical (execWaita d a b s) :=
  runTerm_canonical hs <|
  .get fun _ hs0 => readReg_keeps.bind fun _ =>
  readReg_keeps.bind fun _ =>
  readReg_keeps.bind fun _ =>
  waitaPlace_keeps.bind fun _ =>
  canWrite_keeps.bind fun _ =>
  afterAcquire_keeps.bind fun _ =>
  waitUntil_keeps.bind fun _ => consumes_keeps.bind fun _ => .ite (writeReg_keeps.bind fun _ => retire_keeps) (.block hs0)

end Sys2Proof.Machine
end

section
/-!
PROOFS. Memory stays canonical, third part: tiles, the tile unit and the matrix unit.
-/

namespace Sys2Proof.Machine

/-! ### Use of tiles (R255, R279, R334) -/

theorem tilesFree_keeps {ts : List Nat} : (tilesFree ts).Keeps := .bind .getC fun _ => waitUntil_keeps

theorem useTiles_keeps {reads writes : List Nat} : (useTiles reads writes).Keeps :=
  .bind .getC fun _ => by
    split
    · exact .pure
    · exact .bind (by
            split
            · exact .trap
            · exact .pure) fun _ =>
        .modC

theorem cleanRows_keeps {t rows : Nat} : (cleanRows t rows).Keeps := .forM (fun _ => noPoison_keeps)

/-! ### TLD and TST (R249, R250) -/

theorem checkPieces_keeps {k : Kind} {l : List (Nat × Piece)} : (checkPieces k l).Keeps := by
  induction l with
  | nil => exact .pure
  | cons x rest ih => exact checkAccess_keeps.bind fun _ => ih.bind fun _ => .pure

theorem loadPieces_keeps {s0 : State} {t : Nat} {l : List ((Nat × Piece) × (Place × Policy))} {vs : List Nat} :
    (loadPieces s0 t l vs).Keeps := by
  induction l generalizing vs with
  | nil => exact .pure
  | cons x rest ih =>
    unfold loadPieces
    exact .ite (takeValue_keeps.bind fun _ => ih) (loadFrom_keeps.bind fun _ => ih)

theorem execTld_canonical {g : BitVec 3} {desc : BitVec 8} {a : BitVec 4} {rows : BitVec 3} {s : State} (hs : s.Canonical) :
    Out.Canonical (execTld g desc a rows s) :=
  runInstr_canonical hs <|
  .get fun _ hs0 => readReg_keeps.bind fun _ =>
  tilesFree_keeps.bind fun _ =>
  checkPieces_keeps.bind fun _ =>
  useTiles_keeps.bind fun _ =>
  .bind (awayValues_keeps hs0) fun _ => .bind .modC fun _ => loadPieces_keeps.bind fun _ => retire_keeps

theorem execTst_canonical {g : BitVec 3} {desc : BitVec 8} {a : BitVec 4} {rows : BitVec 3} {s : State} (hs : s.Canonical) :
    Out.Canonical (execTst g desc a rows s) :=
  runInstr_canonical hs <|
  withStores_keeps (.get fun _ _ => readReg_keeps.bind fun _ =>
    tilesFree_keeps.bind fun _ =>
    .when (by
        split
        · exact .trap
        · exact .pure) fun _ =>
    checkPieces_keeps.bind fun _ =>
    useTiles_keeps.bind fun _ => cleanRows_keeps.bind fun _ => .bind .getC fun _ => storeMany_keeps.bind fun _ => retire_keeps)

/-! ### TLDS and TSTS (R251) -/

theorem localRows_keeps {st : Bool} {x : Word} {rows : Nat} : (localRows st x rows).Keeps :=
  trapIf_keeps.bind fun _ =>
  .mapM fun _ => .get fun _ _ => by
    dsimp only
    split
    · exact .ite .pure .trap
    · exact .trap

theorem execTlds_canonical {g : BitVec 3} {a : BitVec 4} {rows : BitVec 3} {s : State} (hs : s.Canonical) :
    Out.Canonical (execTlds g a rows s) :=
  runInstr_canonical hs <|
  .get fun _ hs0 => readReg_keeps.bind fun _ =>
  tilesFree_keeps.bind fun _ =>
  localRows_keeps.bind fun _ => useTiles_keeps.bind fun _ => .bind (gather_keeps hs0) fun _ => .bind .modC fun _ => retire_keeps

theorem execTsts_canonical {g : BitVec 3} {a : BitVec 4} {rows : BitVec 3} {s : State} (hs : s.Canonical) :
    Out.Canonical (execTsts g a rows s) :=
  runInstr_canonical hs <|
  withStores_keeps (readReg_keeps.bind fun _ =>
    tilesFree_keeps.bind fun _ =>
    localRows_keeps.bind fun _ =>
    .get fun _ _ => .bind (by
        split
        · exact .trap
        · exact .pure) fun _ =>
    useTiles_keeps.bind fun _ => cleanRows_keeps.bind fun _ => .bind .getC fun _ => storeMany_keeps.bind fun _ => retire_keeps)

/-! ### Element access (R252) -/

theorem execTfill_canonical {g : BitVec 3} {fmt a : BitVec 4} {rows : BitVec 3} {s : State} (hs : s.Canonical) :
    Out.Canonical (execTfill g fmt a rows s) :=
  runInstr_canonical hs <|
  readReg_keeps.bind fun _ => tilesFree_keeps.bind fun _ => useTiles_keeps.bind fun _ => .bind .modC fun _ => retire_keeps

theorem execTextr_canonical {g fmt idx : BitVec 4} {a : BitVec 3} {s : State} (hs : s.Canonical) :
    Out.Canonical (execTextr g fmt idx a s) :=
  runInstr_canonical hs <|
  readReg_keeps.bind fun _ =>
  tilesFree_keeps.bind fun _ =>
  useTiles_keeps.bind fun _ =>
  .ite (noPoison_keeps.bind fun _ => .bind .getC fun _ => writeReg_keeps.bind fun _ => retire_keeps) <|
  writeReg_keeps.bind fun _ => retire_keeps

theorem execTins_canonical {g : BitVec 3} {fmt idx a : BitVec 4} {s : State} (hs : s.Canonical) : Out.Canonical (execTins g fmt idx a s) :=
  runInstr_canonical hs <|
  readReg_keeps.bind fun _ =>
  readReg_keeps.bind fun _ => tilesFree_keeps.bind fun _ => useTiles_keeps.bind fun _ => .when .modC fun _ => retire_keeps

/-! ### TDLD and TDST (R323, R339) -/

theorem ownedEntry_keeps {entries : List Nat} : (ownedEntry entries).Keeps :=
  .bind .getC fun _ =>
  .ite (by
      split
      · exact .trap
      · exact .pure) .pure

theorem setTd_canonical {s : State} {n : Nat} {d : Desc} (hs : s.Canonical) : (setTd s n d).Canonical := by
  unfold setTd
  split
  · exact modTeamAt_canonical hs
  · exact hs

theorem execTdld_canonical {desc : BitVec 8} {a : BitVec 4} {s : State} (hs : s.Canonical) : Out.Canonical (execTdld desc a s) :=
  runTerm_canonical hs <|
  .get fun _ hs0 => readReg_keeps.bind fun _ =>
  trapIf_keeps.bind fun _ =>
  ownedEntry_keeps.bind fun _ =>
  checkAccess_keeps.bind fun _ =>
  .bind (gather_keeps hs0) fun _ =>
  trapIf_keeps.bind fun _ => .bind (.modify (fun _ hz => setTd_canonical hz)) fun _ => retire_keeps

theorem execTdst_canonical {desc : BitVec 8} {a : BitVec 4} {s : State} (hs : s.Canonical) : Out.Canonical (execTdst desc a s) :=
  runInstr_canonical hs <|
  readReg_keeps.bind fun _ =>
  trapIf_keeps.bind fun _ => checkAccess_keeps.bind fun _ => .get (fun _ _ => storeTo_keeps.bind fun _ => retire_keeps)

/-! ### The form of a tile-unit instruction (R253 to R255) -/

theorem handleRows_keeps {n rows : Nat} : (handleRows n rows).Keeps :=
  .bind .getC fun _ =>
  trapIf_keeps.bind fun _ => waitUntil_keeps.bind fun _ => .mapM (fun _ => .get (fun _ _ => readNow_keeps.bind fun _ => .pure))

theorem tileUnit_keeps {reads : List (Nat × Nat)} {tb : Option (BitVec 1 × BitVec 3)} {writes : List Nat} {rows : Nat} {full : Bool}
    {body : (Nat → Rows) → Rows → Writes × BitVec 5} :
    (tileUnit reads tb writes rows full body).Keeps :=
  tilesFree_keeps.bind fun _ => by
    extract_lets jp
    have hk : ∀ y, (jp y).Keeps := fun _ => .bind .getC fun _ =>
      waitUntil_keeps.bind fun _ =>
      useTiles_keeps.bind fun _ =>
      .bind (.forM (fun _ => cleanRows_keeps)) fun _ =>
      .bind .getC fun _ => .bind .modC fun _ => setFlags_keeps.bind fun _ => retire_keeps
    split
    · exact .bind .pure hk
    · exact .bind handleRows_keeps hk
    · exact .bind .pure hk

theorem rowwise_keeps {d a : BitVec 3} {tb : Option (BitVec 1 × BitVec 3)} {readsD : Bool} {rows : BitVec 3}
    {f : Row → Row → Row → Row × BitVec 5} :
    (rowwise d a tb readsD rows f).Keeps := by
  unfold rowwise
  exact tileUnit_keeps

theorem elem2_keeps {d a : BitVec 3} {h : BitVec 1} {b rows : BitVec 3} {code : Nat} {rounds readsD : Bool}
    {f : Nat → Nat → Nat → Nat → Nat × BitVec 5} :
    (elem2 d a h b rows code rounds readsD f).Keeps := statusMode_keeps.bind fun _ => rowwise_keeps

theorem elem1_keeps {d a rows : BitVec 3} {code : Nat} {rounds : Bool} {f : Nat → Nat → Nat × BitVec 5} :
    (elem1 d a rows code rounds f).Keeps := statusMode_keeps.bind fun _ => rowwise_keeps

/-! ### Transcendentals (R258) -/

theorem transc_keeps {d a rows : BitVec 3} {code : Nat} {g : FFmt → Nat → Nat → Nat × BitVec 5} : (transc d a rows code g).Keeps :=
  elem1_keeps

/-! ### Bitwise, shift and copy forms (R259) -/

theorem rowBits_keeps {d a : BitVec 3} {h : BitVec 1} {b rows : BitVec 3} {f : Row → Row → Row} : (rowBits d a h b rows f).Keeps :=
  rowwise_keeps

/-! ### Regions, locks and errors (R269, R279, R283) -/

theorem operandError_keeps {b : Bool} {opnd code : Nat} : (operandError b opnd code).Keeps := trapIf_keeps

theorem useAccs_keeps {reads writes : List Nat} : (useAccs reads writes).Keeps :=
  .bind .getC fun _ => by
    split
    · exact .pure
    · exact .bind (by
            split
            · exact .trap
            · exact .pure) fun _ =>
        .modC

theorem readMacro_keeps {m : Nat} : (readMacro m).Keeps := .modC

theorem writeMacro_keeps {m : Nat} : (writeMacro m).Keeps :=
  .bind .getC fun _ => by
    split
    · exact .pure
    · exact trapIf_keeps

theorem accsFree_keeps {as : List Nat} : (accsFree as).Keeps := .bind .getC fun _ => waitUntil_keeps

theorem cleanAcc_keeps {a : Nat} : (cleanAcc a).Keeps := .forM (fun _ => noPoison_keeps)

theorem macroClaim_keeps {m cause : Nat} : (macroClaim m cause).Keeps := .bind .getC fun _ => trapIf_keeps

/-! ### Weight instructions (R270 to R272) -/

theorem issueWeight_keeps {kind m fmt handle : Nat} {cols : List Row} {recs : Machine.SMap BlockRec} :
    (issueWeight kind m fmt handle cols recs).Keeps :=
  afterAcquire_keeps.bind fun _ => nextStamp_keeps.bind fun _ => .modC

theorem checkReads_keeps {l : List (Nat × Nat)} : (checkReads l).Keeps := by
  induction l with
  | nil => exact .pure
  | cons x rest ih => exact checkAccess_keeps.bind fun _ => ih.bind fun _ => .pure

theorem alignNow_keeps {fmt scale : Nat} {cols : List Column} : (alignNow fmt scale cols).Keeps :=
  .get (fun _ hs => .bind (.set hs) fun _ => .pure)

theorem execWld_canonical {g : BitVec 4} {desc : BitVec 8} {a : BitVec 4} {s : State} (hs : s.Canonical) :
    Out.Canonical (execWld g desc a s) :=
  runInstr_canonical hs <|
  .get fun _ hs0 => readReg_keeps.bind fun _ =>
  macroClaim_keeps.bind fun _ =>
  operandError_keeps.bind fun _ =>
  writeMacro_keeps.bind fun _ =>
  checkReads_keeps.bind fun _ =>
  .bind (gather_keeps hs0) fun _ => alignNow_keeps.bind fun _ => issueWeight_keeps.bind fun _ => retire_keeps

theorem execWldh_canonical {g fmt : BitVec 4} {h : BitVec 3} {s : State} (hs : s.Canonical) : Out.Canonical (execWldh g fmt h s) :=
  runInstr_canonical hs <|
  macroClaim_keeps.bind fun _ =>
  .bind .getC fun _ => trapIf_keeps.bind fun _ => writeMacro_keeps.bind fun _ => issueWeight_keeps.bind fun _ => retire_keeps

theorem execWclr_canonical {g : BitVec 4} {s : State} (hs : s.Canonical) : Out.Canonical (execWclr g s) :=
  runInstr_canonical hs (macroClaim_keeps.bind fun _ => writeMacro_keeps.bind fun _ => issueWeight_keeps.bind fun _ => retire_keeps)

/-! ### MMA and MMAZ (R273 to R275) -/

theorem issueMatrix_keeps {zero : Bool} {ad : BitVec 2} {ta : BitVec 3} {ha : BitVec 1} {wm p : BitVec 4} {mode : BitVec 2}
    {fmta : BitVec 4} :
    (issueMatrix zero ad ta ha wm p mode fmta).Keeps :=
  macroClaim_keeps.bind fun _ =>
  .bind .getC fun _ =>
  operandError_keeps.bind fun _ =>
  operandError_keeps.bind fun _ =>
  .when noPoison_keeps fun _ =>
  .when noPoison_keeps fun _ =>
  operandError_keeps.bind fun _ =>
  operandError_keeps.bind fun _ =>
  operandError_keeps.bind fun _ =>
  trapIf_keeps.bind fun _ =>
  afterAcquire_keeps.bind fun _ =>
  waitUntil_keeps.bind fun _ =>
  waitUntil_keeps.bind fun _ =>
  useTiles_keeps.bind fun _ =>
  useAccs_keeps.bind fun _ => readMacro_keeps.bind fun _ => nextStamp_keeps.bind fun _ => .bind .modC fun _ => retire_keeps

/-! ### Accumulator instructions (R276 to R278) -/

theorem execAprom_canonical {g : BitVec 2} {s : State} (hs : s.Canonical) : Out.Canonical (execAprom g s) :=
  runInstr_canonical hs <|
  accsFree_keeps.bind fun _ => useAccs_keeps.bind fun _ => cleanAcc_keeps.bind fun _ => .bind .modC fun _ => retire_keeps

theorem execAclr_canonical {g : BitVec 2} {s : State} (hs : s.Canonical) : Out.Canonical (execAclr g s) :=
  runInstr_canonical hs (accsFree_keeps.bind fun _ => useAccs_keeps.bind fun _ => .bind .modC fun _ => retire_keeps)

theorem execAmov_canonical {g a : BitVec 2} {s : State} (hs : s.Canonical) : Out.Canonical (execAmov g a s) :=
  runInstr_canonical hs <|
  accsFree_keeps.bind fun _ =>
  useAccs_keeps.bind fun _ => cleanAcc_keeps.bind fun _ => .bind .modC fun _ => .when .modC fun _ => retire_keeps

theorem execAadd_canonical {g a : BitVec 2} {s : State} (hs : s.Canonical) : Out.Canonical (execAadd g a s) :=
  runInstr_canonical hs <|
  accsFree_keeps.bind fun _ =>
  .bind .getC fun _ =>
  operandError_keeps.bind fun _ =>
  useAccs_keeps.bind fun _ =>
  cleanAcc_keeps.bind fun _ =>
  cleanAcc_keeps.bind fun _ => .bind .modC fun _ => .bind .modC fun _ => .bind .modC fun _ => retire_keeps

theorem imagePlace_keeps {st : Bool} {x : Word} : (imagePlace st x).Keeps :=
  trapIf_keeps.bind fun _ =>
  .get fun _ _ => by
    split
    · exact .ite .pure .trap
    · exact .trap

theorem execAld_canonical {g : BitVec 2} {a : BitVec 4} {s : State} (hs : s.Canonical) : Out.Canonical (execAld g a s) :=
  runInstr_canonical hs <|
  .get fun _ hs0 => readReg_keeps.bind fun _ =>
  accsFree_keeps.bind fun _ =>
  imagePlace_keeps.bind fun _ =>
  .bind (gather_keeps hs0) fun _ => operandError_keeps.bind fun _ => useAccs_keeps.bind fun _ => .bind .modC fun _ => retire_keeps

theorem execAst_canonical {g : BitVec 2} {a : BitVec 4} {s : State} (hs : s.Canonical) : Out.Canonical (execAst g a s) :=
  runInstr_canonical hs <|
  withStores_keeps (readReg_keeps.bind fun _ =>
    accsFree_keeps.bind fun _ =>
    imagePlace_keeps.bind fun _ =>
    useAccs_keeps.bind fun _ =>
    cleanAcc_keeps.bind fun _ => .bind .modC fun _ => .bind .getC fun _ => storeMany_keeps.bind fun _ => retire_keeps)

theorem execAcvt_canonical {g fmt : BitVec 4} {sat : BitVec 1} {rm : BitVec 3} {a : BitVec 2} {s : State} (hs : s.Canonical) :
    Out.Canonical (execAcvt g fmt sat rm a s) :=
  runInstr_canonical hs <|
  accsFree_keeps.bind fun _ =>
  tilesFree_keeps.bind fun _ =>
  modeOf_keeps.bind fun _ =>
  useAccs_keeps.bind fun _ =>
  useTiles_keeps.bind fun _ => cleanAcc_keeps.bind fun _ => .bind .getC fun _ => .bind .modC fun _ => retire_keeps

/-! ### AEPI and MSTAT (R281, R282) -/

theorem checkStores_keeps {size : Nat} {l : List (Nat × Nat × Nat)} : (checkStores size l).Keeps := by
  induction l with
  | nil => exact .pure
  | cons x rest ih => exact checkAccess_keeps.bind fun _ => ih.bind fun _ => .pure

theorem execAepi_canonical {g : BitVec 2} {desc : BitVec 8} {a : BitVec 4} {s : State} (hs : s.Canonical) :
    Out.Canonical (execAepi g desc a s) :=
  runInstr_canonical hs <|
  withStores_keeps (readReg_keeps.bind fun _ =>
    accsFree_keeps.bind fun _ =>
    .get fun _ _ => operandError_keeps.bind fun _ =>
    operandError_keeps.bind fun _ =>
    checkStores_keeps.bind fun _ =>
    .bind (by
        split
        · exact trapIf_keeps
        · exact .pure) fun _ =>
    useAccs_keeps.bind fun _ => cleanAcc_keeps.bind fun _ => .bind .modC fun _ => storeMany_keeps.bind fun _ => retire_keeps)

theorem execMstat_canonical {g : BitVec 4} {a : BitVec 2} {s : State} (hs : s.Canonical) : Out.Canonical (execMstat g a s) :=
  runInstr_canonical hs <|
  accsFree_keeps.bind fun _ =>
  useAccs_keeps.bind fun _ =>
  cleanAcc_keeps.bind fun _ => .bind .getC fun _ => writeReg_keeps.bind fun _ => .bind .modC fun _ => retire_keeps

/-! ### The engine: ready jobs, starts and ends (R270, R275, R280) -/

theorem startMatrix_canonical {s : State} {h : Nat} (hs : s.Canonical) : CanonicalIf (startMatrix s h) := by
  unfold startMatrix
  split
  · exact .ite (by
          split
          · exact .some (consumeAt_canonical hs)
          · exact .some hs) (.some hs)
  · exact .none

theorem finishMatrix_canonical {s : State} {h p : Nat} (hs : s.Canonical) : CanonicalIf (finishMatrix s h p) := by
  unfold finishMatrix
  split
  · exact .none
  · exact .ite (.some (consumeAt_canonical hs)) <|
      .ite (.some (consumeAt_canonical hs)) (.some (modCoreAt_canonical (.ite hs (.ite hs hs))))

theorem startWeight_canonical {s : State} {k : Nat} (hs : s.Canonical) : CanonicalIf (startWeight s k) := by
  unfold startWeight
  dsimp only
  split
  · exact .none
  · exact .ite .none <| by
        split
        · exact .some (consumeAt_canonical hs)
        · exact .ite (.some hs) (.some hs)

theorem finishWeight_canonical {s : State} {k : Nat} (hs : s.Canonical) : CanonicalIf (finishWeight s k) := by
  unfold finishWeight
  dsimp only
  split
  · exact .none
  · exact .ite .none (.some hs)

theorem takeTile_canonical {s : State} {q : Nat} (hs : s.Canonical) : CanonicalIf (takeTile s q) := by
  unfold takeTile
  split
  · exact .none
  · exact .some hs

theorem happen_canonical {s : State} {o : Option State} (hs : s.Canonical) (ho : CanonicalIf o) : Out.Canonical (happen s o) :=
  State.Canonical.getD ho hs

end Sys2Proof.Machine
end

section
/-!
PROOFS. Memory stays canonical, fourth part: copy jobs, streams, synchronisation, the banks, write-back and the walker.
-/

namespace Sys2Proof.Machine

/-! ### The operands of copy jobs (R285, R286) -/

theorem copyChecks_keeps {streamed : Bool} {dst src : Word} {len : Nat} : (copyChecks streamed dst src len).Keeps :=
  .get fun _ _ => by
    split
    · exact .trap
    · extract_lets jp
      have hk : ∀ y, (jp y).Keeps := fun _ => .bind (by
            split
            · exact .trap
            · exact .pure) fun _ =>
        .ite .pure <| by
          split
          · exact .trap
          · exact .pure
      exact .ite (.bind .pure hk) <| by
          split
          · exact .bind .pure hk
          · exact .bind .trap hk

theorem completionCheck_keeps {cmpl : Nat} {e0 : Word} : (completionCheck cmpl e0).Keeps :=
  .get fun _ _ => by
    split
    · exact trapIf_keeps.bind fun _ => trapIf_keeps
    · exact trapIf_keeps.bind fun _ => by
          split
          · exact trapIf_keeps
          · exact .trap
    · exact .pure

theorem sourceWindow_keeps {src : Word} {len : Nat} : (sourceWindow src len).Keeps :=
  .get fun _ _ => by
    split
    · exact windowRead_keeps
    · exact .pure

theorem issueJob_keeps {i : Instr} {d : BitVec 4} {fl : Nat} {mk : Core → Job} : (issueJob i d fl mk).Keeps :=
  canWrite_keeps.bind fun _ =>
  afterAcquire_keeps.bind fun _ =>
  .bind .getC fun _ => by
    split
    · exact .ite .trap .waitHere
    · exact .when appendHeld_keeps fun _ => .bind .modC fun _ => writeReg_keeps.bind fun _ => retire_keeps

theorem execCopy_canonical {d a b : BitVec 4} {scope : BitVec 3} {fl : BitVec 5} {s : State} (hs : s.Canonical) :
    Out.Canonical (execCopy d a b scope fl s) :=
  runBoth_canonical hs <|
  readPair_keeps.bind fun _ =>
  readReg_keeps.bind fun _ =>
  noPoison_keeps.bind fun _ =>
  noPoison_keeps.bind fun _ =>
  trapIf_keeps.bind fun _ =>
  copyChecks_keeps.bind fun _ =>
  .bind .getC fun _ => completionCheck_keeps.bind fun _ => sourceWindow_keeps.bind fun _ => issueJob_keeps

theorem execCopys_canonical {d a b : BitVec 4} {scope : BitVec 3} {fl : BitVec 5} {s : State} (hs : s.Canonical) :
    Out.Canonical (execCopys d a b scope fl s) :=
  runBoth_canonical hs <|
  readReg_keeps.bind fun _ =>
  readReg_keeps.bind fun _ =>
  noPoison_keeps.bind fun _ =>
  noPoison_keeps.bind fun _ =>
  trapIf_keeps.bind fun _ =>
  copyChecks_keeps.bind fun _ =>
  .bind .getC fun _ => completionCheck_keeps.bind fun _ => sourceWindow_keeps.bind fun _ => issueJob_keeps

theorem execJwait_canonical {d a : BitVec 4} {s : State} (hs : s.Canonical) : Out.Canonical (execJwait d a s) :=
  runTermOnce_canonical hs <|
  readReg_keeps.bind fun _ =>
  canWrite_keeps.bind fun _ => .bind .getC fun _ => waitUntil_keeps.bind fun _ => writeReg_keeps.bind fun _ => retire_keeps

theorem execJpoll_canonical {d a : BitVec 4} {s : State} (hs : s.Canonical) : Out.Canonical (execJpoll d a s) :=
  runOnce_canonical hs (readReg_keeps.bind fun _ => .bind .getC fun _ => writeReg_keeps.bind fun _ => retire_keeps)

/-! ### Handles (R290 to R292) -/

theorem execHcfg_canonical {a : BitVec 4} {h : BitVec 3} {s : State} (hs : s.Canonical) : Out.Canonical (execHcfg a h s) :=
  runTerm_canonical hs <|
  readPair_keeps.bind fun _ =>
  .get fun _ _ => trapIf_keeps.bind fun _ => by
    split
    · exact trapIf_keeps.bind fun _ => trapIf_keeps.bind fun _ => trapIf_keeps.bind fun _ => .bind .modC fun _ => retire_keeps
    · exact .trap

theorem execHwait_canonical {d a : BitVec 4} {h : BitVec 3} {s : State} (hs : s.Canonical) : Out.Canonical (execHwait d a h s) :=
  runInstr_canonical hs <|
  readReg_keeps.bind fun _ =>
  canWrite_keeps.bind fun _ =>
  .bind .getC fun _ =>
  trapIf_keeps.bind fun _ =>
  .ite (writeReg_keeps.bind fun _ => retire_keeps) <|
  .ite (waitUntil_keeps.bind fun _ => writeReg_keeps.bind fun _ => retire_keeps) <|
  waitUntil_keeps.bind fun _ => writeReg_keeps.bind fun _ => retire_keeps

theorem advance_keeps {w : Instr} {producer : Bool} {d a : BitVec 4} {h : BitVec 3} : (advance w producer d a h).Keeps :=
  readReg_keeps.bind fun _ =>
  canWrite_keeps.bind fun _ =>
  .bind .getC fun _ =>
  trapIf_keeps.bind fun _ =>
  waitUntil_keeps.bind fun _ => by
    extract_lets jp
    have hk : ∀ y, (jp y).Keeps := fun _ => .bind .modC fun _ => .bind .getC fun _ => writeReg_keeps.bind fun _ => retire_keeps
    exact .ite (.get (fun _ _ => .bind appendHeld_keeps hk)) (hk ())

/-! ### Streams (R293 to R295) -/

theorem modStreamAt_canonical {s : State} {n : Nat} {f : Machine.Stream → Machine.Stream} (hs : s.Canonical) :
    (modStreamAt s n f).Canonical := hs

theorem setSubscribed_canonical {s : State} {k h : Nat} {n : Option Nat} (hs : s.Canonical) : (setSubscribed s k h n).Canonical := by
  unfold setSubscribed
  dsimp only
  split
  · exact hs
  · exact hs

theorem distributorTurn_keeps : distributorTurn.Keeps :=
  afterAcquire_keeps.bind fun _ => .bind .getC fun _ => waitUntil_keeps

theorem execSubscr_canonical {d a : BitVec 4} {h : BitVec 3} {s : State} (hs : s.Canonical) : Out.Canonical (execSubscr d a h s) :=
  runTermOnce_canonical hs <|
  readReg_keeps.bind fun _ =>
  distributorTurn_keeps.bind fun _ =>
  .get fun _ _ => .when (.modify (fun _ hz => modStreamAt_canonical (setSubscribed_canonical hz))) fun _ =>
  writeReg_keeps.bind fun _ => retire_keeps

theorem execUnsub_canonical {d a : BitVec 4} {h : BitVec 3} {s : State} (hs : s.Canonical) : Out.Canonical (execUnsub d a h s) :=
  runTermOnce_canonical hs <|
  readReg_keeps.bind fun _ =>
  distributorTurn_keeps.bind fun _ =>
  .get fun _ _ => .ite (.bind (.modify (fun _ hz => modStreamAt_canonical (setSubscribed_canonical hz))) fun _ =>
    writeReg_keeps.bind fun _ => retire_keeps) <|
  writeReg_keeps.bind fun _ => retire_keeps

theorem execSpub_canonical {a : BitVec 4} {t : BitVec 3} {s : State} (hs : s.Canonical) : Out.Canonical (execSpub a t s) :=
  runBoth_canonical hs <|
  .get fun _ hs0 => readReg_keeps.bind fun _ =>
  trapIf_keeps.bind fun _ =>
  .ite retire_keeps <|
  .ite .waitHere <|
  tilesFree_keeps.bind fun _ =>
  useTiles_keeps.bind fun _ =>
  cleanRows_keeps.bind fun _ =>
  afterAcquire_keeps.bind fun _ =>
  .bind .getC fun _ => .ite (appendHeld_keeps.bind fun _ => .bind .modC fun _ => retire_keeps) (.ite retire_keeps (.block hs0))

/-! ### The copy unit (R128, R129, R288) -/

theorem reachByte_canonical {s : State} {k : Nat} {user : Bool} {ptr : Word} {i : Nat} {dest : Bool} (hs : s.Canonical) :
    (reachByte s k user ptr i dest).2.Canonical := by
  unfold reachByte
  split
  · exact hs
  · exact .iteSnd hs (.iteSnd hs hs)
  · exact hs
  · exact hs
  · exact .iteSnd hs <| by
        split
        next e => exact .sndOf e (xlate_canonical hs)
        next e => exact .sndOf e (xlate_canonical hs)
        next e =>
          exact .iteSnd (.sndOf e (xlate_canonical hs)) <|
            .iteSnd (.sndOf e (xlate_canonical hs)) <|
            .iteSnd (dropSwm_canonical (.sndOf e (xlate_canonical hs))) <|
            .iteSnd (.sndOf e (xlate_canonical hs)) (.sndOf e (xlate_canonical hs))

theorem modJobAt_canonical {s : State} {k slot : Nat} {f : Job → Job} (hs : s.Canonical) : (modJobAt s k slot f).Canonical :=
  hs

theorem sleepJob_canonical {s : State} {k slot va : Nat} {write : Bool} (hs : s.Canonical) : (sleepJob s k slot va write).Canonical :=
  .ite hs (postFault_canonical hs)

theorem taintByte_canonical {s : State} {j : Job} {i : Nat} {tainted : Bool} {pl : Place} (hs : s.Canonical) :
    (taintByte s j i tainted pl).Canonical :=
  .ite (.ite (poisonPlace_canonical (cleanPlace_canonical hs)) (cleanPlace_canonical hs)) (.ite (poisonPlace_canonical hs) hs)

theorem markByte_canonical {s : State} {k slot i : Nat} {pl : Place} {tainted : Bool} (hs : s.Canonical) :
    (markByte s k slot i pl tainted).Canonical := by
  unfold markByte
  dsimp only
  split
  · exact hs
  · exact .foldl hs (fun _ _ hz => taintByte_canonical hz)

theorem copyHome_canonical {s : State} {k slot : Nat} {j : Job} {i : Nat} {b : Byte} {pl : Place} {tainted : Bool} (hs : s.Canonical) :
    (copyHome s k slot j i b pl tainted).Canonical := arriveWrite_canonical hs

theorem emptyMacro_canonical {s : State} {pl : Place} (hs : s.Canonical) : (emptyMacro s pl).Canonical :=
  .ite (.foldl hs (fun _ _ hz => hz)) hs

theorem sendCopy_canonical {s : State} {k : Nat} {write : Bool} {pl : Place} {a : Machine.Action} (hs : s.Canonical) :
    (sendCopy s k write pl a).Canonical := hs

theorem writeCopy_canonical {s : State} {k slot : Nat} {j : Job} {i : Nat} {b : Byte} {tainted : Bool} (hs : s.Canonical) :
    (writeCopy s k slot j i b tainted).Canonical :=
  .ite hs <| by
    split
    next e => exact .sndOf e (reachByte_canonical hs)
    next e => exact sleepJob_canonical (.sndOf e (reachByte_canonical hs))
    next e => exact endJob_canonical (.sndOf e (reachByte_canonical hs))
    next e => exact sendCopy_canonical (.sndOf e (reachByte_canonical hs))
    next e =>
      exact .ite (copyHome_canonical (.sndOf e (reachByte_canonical hs))) <| by
          split
          next e1 => exact markByte_canonical (emptyMacro_canonical (.fstOf e1 (performAt_canonical (.sndOf e (reachByte_canonical hs)))))
          next e1 => exact endJob_canonical (.fstOf e1 (performAt_canonical (.sndOf e (reachByte_canonical hs))))

theorem copyByte_canonical {s : State} {k slot i : Nat} (hs : s.Canonical) : (copyByte s k slot i).Canonical := by
  unfold copyByte
  split
  · exact hs
  · exact .ite hs <| by
        split
        next e => exact .sndOf e (reachByte_canonical hs)
        next e => exact sleepJob_canonical (.sndOf e (reachByte_canonical hs))
        next e => exact endJob_canonical (.sndOf e (reachByte_canonical hs))
        next e => exact sendCopy_canonical (.sndOf e (reachByte_canonical hs))
        next e => exact writeCopy_canonical (.ite (combineLine_canonical (.sndOf e (reachByte_canonical hs))) (.sndOf e
            (reachByte_canonical hs)))

theorem dispatchJob_canonical {s : State} {k slot : Nat} (hs : s.Canonical) : CanonicalIf (dispatchJob s k slot) := by
  unfold dispatchJob
  split
  · exact .none
  · exact .ite .none (.ite .none (.some hs))

theorem acceptItem_canonical {s : State} {n : Nat} {rows : List Row} {poison : List Nat} (hs : s.Canonical) :
    CanonicalIf (acceptItem s n rows poison) := .ite .none (.some hs)

theorem completeAction_canonical {s : State} {k slot : Nat} {j : Job} (hs : s.Canonical) : (completeAction s k slot j).Canonical := by
  unfold completeAction
  split
  · split
    next e => exact .sndOf e (reachByte_canonical hs)
    next e => exact sleepJob_canonical (.sndOf e (reachByte_canonical hs))
    next e => exact endJob_canonical (.sndOf e (reachByte_canonical hs))
    next e => exact modJobAt_canonical (sendCopy_canonical (.sndOf e (reachByte_canonical hs)))
    next e =>
      exact .ite (arriveWrite_canonical (modJobAt_canonical (.sndOf e (reachByte_canonical hs)))) <| by
          split
          next e1 => exact endJob_canonical (emptyMacro_canonical (.fstOf e1 (performAt_canonical (.sndOf e (reachByte_canonical hs)))))
          next e1 => exact endJob_canonical (.fstOf e1 (performAt_canonical (.sndOf e (reachByte_canonical hs))))
  · split
    · exact hs
    · exact endJob_canonical hs
  · exact endJob_canonical hs

theorem completeJob_canonical {s : State} {k slot : Nat} (hs : s.Canonical) : CanonicalIf (completeJob s k slot) := by
  unfold completeJob
  split
  · exact .none
  · exact .ite .none <| by
        split
        · exact .ite (.mapOf (acceptItem_canonical hs) (fun _ hz => hz)) .none
        · exact .ite .none (.some (completeAction_canonical hs))

/-! ### The stream distributor (R293 to R295) -/

theorem acceptSpub_canonical {s : State} {k : Nat} (hs : s.Canonical) : CanonicalIf (acceptSpub s k) := by
  unfold acceptSpub
  split
  · exact .ite (.mapOf (acceptItem_canonical hs) (fun _ hz => hz)) .none
  · exact .none

theorem fillSlot_canonical {s : State} {k h : Nat} {it : Item} (hs : s.Canonical) : (fillSlot s k h it).Canonical :=
  noteWrite_canonical hs

theorem deliverItem_canonical {s : State} {n : Nat} (hs : s.Canonical) : CanonicalIf (deliverItem s n) := by
  unfold deliverItem
  dsimp only
  split
  · exact .none
  · split
    · exact .some hs
    · exact .ite .none <|
        .ite (.some hs) <|
        .ite .none <|
        .some <| by
          split
          · exact fillSlot_canonical (fillSlot_canonical hs)
          · exact fillSlot_canonical hs

/-! ### Launch blocks (R363 to R365) -/

theorem coreCombine_canonical {s : State} {k : Nat} {user : Bool} {l : List (Nat × Nat)} (hs : s.Canonical) :
    (coreCombine s k user l).Canonical :=
  .ite hs <|
  .foldl hs fun _ _ hz => by
    dsimp only
    split
    · exact combineBytes_canonical <| by
          split
          · exact combineWalk_canonical hz
          · exact hz
    · split
      · exact combineWalk_canonical hz
      · exact hz

theorem engineReads_keeps {l : List (Nat × Nat)} : (engineReads l).Keeps :=
  .get fun _ hs => by
    dsimp only
    split
    · exact .consume
    · exact .set (coreCombine_canonical hs)

theorem spaceCombine_canonical {s : State} {root : Nat} {l : List (Nat × Nat)} (hs : s.Canonical) : (spaceCombine s root l).Canonical :=
  .ite hs <|
  .foldl hs fun _ _ hz => by
    dsimp only
    split
    · exact combineBytes_canonical (combineWalk_canonical hz)
    · exact combineWalk_canonical hz

/-! ### Levels and tasks (R65 to R67, R362, R366, R367) -/

theorem addTask_canonical {s : State} {t : Nat → Team} (hs : s.Canonical) : (addTask s t).2.Canonical := hs

theorem takeEntry_canonical {s : State} {parent d e kid : Nat} (hs : s.Canonical) : (takeEntry s parent d e kid).Canonical := by
  unfold takeEntry
  split
  · exact modTeamAt_canonical hs
  · exact hs
  · exact hs

theorem spawnKid_canonical {s t : State} {k : Nat} {user : Bool} {lb : LaunchBlock} {id : Nat} (hs : s.Canonical)
    (e : spawnKid s k user lb = some (id, t)) : t.Canonical := by
  unfold spawnKid at e
  dsimp only at e
  split at e
  · cases e
  · obtain ⟨_, _, e⟩ := Option.map_eq_some_iff.mp e
    cases e
    exact .update (modTeamAt_canonical (takeEntry_canonical hs))

theorem spawnOp_canonical {s : State} {k : Nat} {user : Bool} {a b : Word} (hs : s.Canonical) : (spawnOp s k user a b).2.Canonical := by
  unfold spawnOp
  split
  · exact hs
  · split
    · exact hs
    · exact hs
    · split
      · exact hs
      next e => exact spawnKid_canonical hs e

/-! ### Records (R100, R305) -/

theorem evpostOp_canonical {s : State} {k : Nat} {a b : Word} (hs : s.Canonical) : (evpostOp s k a b).Canonical :=
  .ite hs (ringPost_canonical hs)

/-! ### Barrier objects (R297) -/

theorem barrierPlace_keeps {kind : Kind} {x : Word} : (barrierPlace kind x).Keeps :=
  trapIf_keeps.bind fun _ => checkPlace_keeps

theorem barrierSilent_keeps {f : Nat} {reads : Act (Word × Word)} (hr : reads.Keeps) : (barrierSilent f reads).Keeps :=
  hr.bind fun _ => barrierPlace_keeps.bind fun _ => mkEntry_keeps.bind fun _ => appendEntry_keeps.bind fun _ => retire_keeps

theorem barrierResult_keeps {f : Nat} {d : BitVec 4} {reads : Act (Word × Word)} (hr : reads.Keeps) : (barrierResult f d reads).Keeps :=
  withReply_keeps hr (fun _ => .after barrierPlace_keeps fun _ => .after canWrite_keeps fun _ => .after .getC fun _ =>
    .after waitUntil_keeps fun _ => .after mkEntry_keeps fun _ => .pure fun _ hz => hz) fun _ _ _ =>
    writeReg_keeps.bind fun _ => retire_keeps

theorem readTwo_keeps {a b : BitVec 4} : (readTwo a b).Keeps :=
  readReg_keeps.bind fun _ => readReg_keeps.bind fun _ => .pure

theorem barrierOp_canonical {i : Instr} {f : Nat} {d : BitVec 4} {regs : List Nat} {reads : Act (Word × Word)} {s : State} (hs : s.Canonical)
    (hr : reads.Keeps) : Out.Canonical (barrierOp i f d regs reads s) :=
  .ite (runInstr_canonical hs (barrierSilent_keeps hr)) (runTermOnce_canonical hs (barrierResult_keeps hr))

theorem execBwait_canonical {d a b : BitVec 4} {s : State} (hs : s.Canonical) : Out.Canonical (execBwait d a b s) :=
  runTermOnce_canonical hs <|
  withReply_keeps readTwo_keeps (fun _ => .after barrierPlace_keeps fun _ =>
    .after canWrite_keeps fun _ => .after afterAcquire_keeps fun _ => .pure (fun _ hz => hz)) fun _ _ _ =>
    writeReg_keeps.bind fun _ => retire_keeps

/-! ### Wired barriers (R299 to R301) -/

theorem modGroupAt_canonical {s : State} {d g : Nat} {f : WGroup → WGroup} (hs : s.Canonical) : (modGroupAt s d g f).Canonical :=
  hs

theorem settleGroup_canonical {s : State} {d g : Nat} (hs : s.Canonical) : (settleGroup s d g).Canonical :=
  .ite (.foldl (.foldl hs (fun _ _ hz => hz)) (fun _ _ hz => hz)) hs

theorem leaveGroups_canonical {s : State} {k : Nat} (hs : s.Canonical) : (leaveGroups s k).Canonical :=
  .foldl hs (fun _ _ hz => settleGroup_canonical hz)

theorem execWbmask_canonical {a : BitVec 4} {s : State} (hs : s.Canonical) : Out.Canonical (execWbmask a s) :=
  runTerm_canonical hs <|
  readReg_keeps.bind fun _ =>
  .get fun _ _ => .when illegal_keeps fun _ =>
  waitUntil_keeps.bind fun _ =>
  .bind (.modify (fun _ hz => .ite (modGroupAt_canonical (leaveGroups_canonical hz)) (leaveGroups_canonical hz))) fun _ =>
  .bind .modC fun _ => retire_keeps

theorem execWbara_canonical {d a grp : BitVec 4} {s : State} (hs : s.Canonical) : Out.Canonical (execWbara d a grp s) :=
  runTerm_canonical hs <|
  readReg_keeps.bind fun _ =>
  .get fun _ _ => .whenNot illegal_keeps fun _ =>
  waitUntil_keeps.bind fun _ => writeReg_keeps.bind fun _ => .bind .modC fun _ => retire_keeps

theorem execWbarw_canonical {d a grp : BitVec 4} {s : State} (hs : s.Canonical) : Out.Canonical (execWbarw d a grp s) :=
  runTerm_canonical hs <|
  readReg_keeps.bind fun _ =>
  canWrite_keeps.bind fun _ =>
  .get fun _ _ => .whenNot illegal_keeps fun _ =>
  noPoison_keeps.bind fun _ => waitUntil_keeps.bind fun _ => writeReg_keeps.bind fun _ => retire_keeps

theorem arriveGroup_canonical {s : State} {k : Nat} (hs : s.Canonical) : CanonicalIf (arriveGroup s k) := by
  unfold arriveGroup
  split
  · exact .none
  · exact .ite .none (.some (settleGroup_canonical hs))

/-! ### The range unit (R302, R374) -/

theorem execRnginit_canonical {a : BitVec 4} {s : State} (hs : s.Canonical) : Out.Canonical (execRnginit a s) :=
  runTermOnce_canonical hs (readReg_keeps.bind fun _ => .bind (.modify (fun _ hz => modTeamAt_canonical hz)) fun _ => retire_keeps)

theorem execRngget_canonical {d a : BitVec 4} {s : State} (hs : s.Canonical) : Out.Canonical (execRngget d a s) :=
  runTermOnce_canonical hs <|
  withReply_keeps readReg_keeps (fun _ => .whenNot illegal_keeps fun _ =>
    .ite (.after canWrite_keeps fun _ => .after canWrite_keeps fun _ => (.pure (fun _ hz => modTeamAt_canonical hz))) (.pure (fun _ hz =>
        modTeamAt_canonical hz))) fun _ _ _ =>
    writePair_keeps.bind fun _ => retire_keeps

theorem setSlice_canonical {s : State} {k : Nat} {v : Word} (hs : s.Canonical) : (setSlice s k v).Canonical := by
  unfold setSlice
  dsimp only
  split
  · exact hs
  · exact hs

theorem serveRange_canonical {s : State} {k : Nat} (hs : s.Canonical) : CanonicalIf (serveRange s k) := by
  unfold serveRange
  dsimp only
  split
  · exact .ite .none <|
      .ite (.some (replyTo_canonical (modTeamAt_canonical hs))) <| by
        split
        · exact .some (replyTo_canonical (modCoreAt_canonical (setSlice_canonical (modTeamAt_canonical hs))))
        · exact .some (replyTo_canonical (setSlice_canonical (.update (modTeamAt_canonical hs))))
  · exact .none

/-! ### Kids and posted events (R303 to R305) -/

theorem holdCommand_keeps {i : Instr} {a : Machine.Action} : (holdCommand i a).Keeps :=
  .bind .getC fun _ => appendHeld_keeps.bind fun _ => .modC

theorem released_keeps : released.Keeps := .get (fun _ _ => waitUntil_keeps)

theorem spawnAct_keeps {d a b : BitVec 4} : (spawnAct d a b).Keeps :=
  readReg_keeps.bind fun _ =>
  readReg_keeps.bind fun _ =>
  canWrite_keeps.bind fun _ => by
    extract_lets jp
    have hk : ∀ y, (jp y).Keeps := fun _ => .bind .getC fun _ =>
      .ite (holdCommand_keeps.bind fun _ => retire_keeps) <|
      released_keeps.bind fun _ =>
      .get fun _ _ => .when engineReads_keeps fun _ =>
      .get (fun _ hs => .bind (.set (spawnOp_canonical hs)) fun _ => writeReg_keeps.bind fun _ => retire_keeps)
    exact .ite (checkAccess_keeps.bind fun _ => hk ()) (hk ())

theorem execJoin_canonical {d a : BitVec 4} {s : State} (hs : s.Canonical) : Out.Canonical (execJoin d a s) :=
  runTermOnce_canonical hs <|
  .get fun _ hs0 => readReg_keeps.bind fun _ =>
  canWrite_keeps.bind fun _ =>
  .get fun _ hs => by
    split
    · exact .block hs0
    · exact writeReg_keeps.bind fun _ => retire_keeps

theorem evpostAct_keeps {d a b : BitVec 4} : (evpostAct d a b).Keeps :=
  readReg_keeps.bind fun _ =>
  readReg_keeps.bind fun _ =>
  .get fun _ _ => .when noPoison_keeps fun _ =>
  .ite (writeReg_keeps.bind fun _ => retire_keeps) <|
  .ite (holdCommand_keeps.bind fun _ => retire_keeps) <|
  canWrite_keeps.bind fun _ =>
  released_keeps.bind fun _ =>
  .bind (.modify (fun _ hz => evpostOp_canonical hz)) fun _ => writeReg_keeps.bind fun _ => retire_keeps

/-! ### Tree tables (R306, R307) -/

theorem tablePlace_keeps {ea : Word} : (tablePlace ea).Keeps :=
  trapIf_keeps.bind fun _ => checkAccess_keeps.bind fun _ => .pure

theorem awayTable_keeps {s0 : State} {x : Word} {head : Word × Nat × (Place × Policy)} (hs0 : s0.Canonical) :
    (awayTable s0 x head).Keeps :=
  .ite ((awayValues_keeps hs0).bind fun _ => .pure) <|
  waitUntil_keeps.bind fun _ => .ite (by
    split
    · exact .block (sendAway_canonical hs0)
    next e => exact .rethrow e (Act.Keeps.mapM (fun _ => tablePlace_keeps) s0 hs0)) (.bind .modC fun _ => .pure)

theorem treeTable_keeps {s0 : State} {x : Word} (hs0 : s0.Canonical) : (treeTable s0 x).Keeps := by
  unfold treeTable
  split
  · exact .trap
  · exact tablePlace_keeps.bind fun _ =>
      .ite (awayTable_keeps hs0) <|
      .bind (gather_keeps hs0) fun _ => .bind (.mapM (fun _ => tablePlace_keeps)) fun _ => .bind (gather_keeps hs0) fun _ => .pure

theorem execTreeld_canonical {d a b : BitVec 4} {s : State} (hs : s.Canonical) : Out.Canonical (execTreeld d a b s) :=
  runTermOnce_canonical hs <|
  .get fun _ hs0 => readReg_keeps.bind fun _ =>
  readReg_keeps.bind fun _ =>
  canWrite_keeps.bind fun _ =>
  .ite (writeReg_keeps.bind fun _ => retire_keeps) <|
  .ite (.ite (writeReg_keeps.bind fun _ => retire_keeps) <|
    .bind (.modify (fun _ hz => hz)) fun _ => writeReg_keeps.bind fun _ => retire_keeps) <|
  .bind (treeTable_keeps hs0) fun _ =>
  .ite (writeReg_keeps.bind fun _ => retire_keeps) <|
  .when (.modify (fun _ hz => hz)) fun _ => writeReg_keeps.bind fun _ => retire_keeps

/-! ### Twins' banks (R414) -/

theorem mirrorSync_canonical {s : State} {key off : Nat} (hs : s.Canonical) : (mirrorSync s key off).Canonical := by
  unfold mirrorSync
  split
  · exact noteWrite_canonical hs
  · exact hs

/-! ### Full/empty words (R229, R232) -/

theorem setWordAt_canonical {s : State} {t off : Nat} {v : Word} (hs : s.Canonical) : (setWordAt s t off v).Canonical :=
  noteBank_canonical <| by
    split
    · exact cleanPlace_canonical (setPlaceBytes_canonical (cleanPlace_canonical (setPlaceBytes_canonical hs)))
    · exact cleanPlace_canonical (setPlaceBytes_canonical hs)

theorem setWaiters_canonical {s : State} {t off : Nat} {l : List Waiter} (hs : s.Canonical) : (setWaiters s t off l).Canonical :=
  hs

theorem setFull_canonical {s : State} {t off : Nat} {b : Bool} (hs : s.Canonical) : (setFull s t off b).Canonical :=
  hs

theorem bankTake_canonical {s : State} {t off k : Nat} (hs : s.Canonical) : (bankTake s t off k).Canonical :=
  .ite (by
      dsimp only
      split
      · exact popEntry_canonical (setWaiters_canonical (setWordAt_canonical hs))
      · exact hs) hs

theorem bankPeek_canonical {s : State} {t off k : Nat} (hs : s.Canonical) : (bankPeek s t off k).Canonical :=
  .ite hs hs

theorem servePut_canonical {v : Word} {l : List Waiter} {s : State} (hs : s.Canonical) : (servePut v l s).1.Canonical := by
  induction l generalizing s with
  | nil => exact hs
  | cons w rest ih =>
    cases w with
    | peek k => exact ih hs
    | take | put => exact hs

theorem bankPut_canonical {s : State} {t off k : Nat} {v : Word} (hs : s.Canonical) : (bankPut s t off k v).Canonical := by
  unfold bankPut
  refine .ite hs ?_
  extract_lets s1
  split
  next e => exact setFull_canonical (setWaiters_canonical (.fstOf e (servePut_canonical (popEntry_canonical (setWordAt_canonical hs)))))

theorem bankInit_canonical {s : State} {t off k : Nat} {v : Word} {full : Bool} {ea : Word} (hs : s.Canonical) :
    (bankInit s t off k v full ea).Canonical :=
  .ite (refuseEntry_canonical hs) (popEntry_canonical (setFull_canonical (setWordAt_canonical hs)))

/-! ### Barrier objects (R296, R297) -/

theorem setBarrier_canonical {s : State} {t off : Nat} {o : Barrier} (hs : s.Canonical) : (setBarrier s t off o).Canonical := by
  unfold setBarrier
  exact setWordAt_canonical (setWordAt_canonical hs)

theorem releaseBar_canonical {s : State} {t off : Nat} {v : Word} (hs : s.Canonical) : (releaseBar s t off v).Canonical :=
  .foldl hs (fun _ _ hz => hz)

theorem setBarWaiters_canonical {s : State} {t off : Nat} {l : List Nat} (hs : s.Canonical) : (setBarWaiters s t off l).Canonical :=
  hs

theorem completeBar_canonical {s : State} {t off : Nat} {o : Barrier} (hs : s.Canonical) : (completeBar s t off o).Canonical :=
  .ite (setBarWaiters_canonical (releaseBar_canonical (setBarrier_canonical hs))) (setBarrier_canonical hs)

theorem barInit_canonical {s : State} {t off : Nat} {b : Word} (hs : s.Canonical) : (barInit s t off b).1.Canonical :=
  .iteFst hs (.iteFst hs (setBarWaiters_canonical (setBarrier_canonical (releaseBar_canonical hs))))

theorem barArrive_canonical {s : State} {t off : Nat} {b : Word} (hs : s.Canonical) : (barArrive s t off b).1.Canonical :=
  .iteFst hs (.iteFst hs (.iteFst hs (completeBar_canonical hs)))

theorem barExpect_canonical {s : State} {t off : Nat} {b : Word} (hs : s.Canonical) : (barExpect s t off b).1.Canonical :=
  .iteFst hs (.iteFst hs (completeBar_canonical hs))

theorem barInvalid_canonical {s : State} {t off : Nat} (hs : s.Canonical) : (barInvalid s t off).1.Canonical := by
  unfold barInvalid
  refine .iteFst hs ?_
  dsimp only
  exact modCoreAt_canonical (setBarrier_canonical (releaseBar_canonical hs))

theorem barWaitFor_canonical {s : State} {t off k phase : Nat} (hs : s.Canonical) : (barWaitFor s t off k phase).Canonical :=
  .ite hs (.ite (completeBar_canonical (.ite hs hs)) (.ite hs hs))

theorem barSubtract_canonical {s : State} {t off n : Nat} (hs : s.Canonical) : (barSubtract s t off n).Canonical :=
  .ite (modCoreAt_canonical (completeBar_canonical hs)) hs

theorem barEntry_canonical {s : State} {t off k f : Nat} {b ea : Word} {reply : Bool} (hs : s.Canonical) :
    (barEntry s t off k f b ea reply).Canonical := by
  have hp := popEntry_canonical (k := k) hs
  unfold barEntry
  extract_lets s1
  split
  next s2 r e =>
    have h2 : s2.Canonical := .fstOf e (.iteFst (barInit_canonical hp) (.iteFst (barArrive_canonical hp)
      (.iteFst (barExpect_canonical hp) (barInvalid_canonical hp))))
    split
    · exact .ite (replyTo_canonical h2) h2
    · exact refuseEntry_canonical h2

/-! ### Messages (R112) -/

theorem arriveLoad_canonical {s : State} {m : Msg} {stamp : Nat} (hs : s.Canonical) : (arriveLoad s m stamp).Canonical := by
  unfold arriveLoad
  split
  · exact hs
  · exact .ite hs <| by
        split
        · exact consumeAt_canonical hs
        · exact hs

theorem refuseAt_canonical {s : State} {k t : Nat} {e : Entry} (hs : s.Canonical) : (refuseAt s k t e).Canonical :=
  .ite (refuseEntry_canonical hs) (modCoreAt_canonical (refuseEntry_canonical hs))

theorem arriveEntry_canonical {s : State} {m : Msg} (hs : s.Canonical) : (arriveEntry s m).Canonical := by
  unfold arriveEntry
  split
  · exact hs
  · exact .ite (refuseAt_canonical hs) <|
      .ite (consumeAt_canonical hs) <| by
        split
        · exact mirrorSync_canonical (bankPut_canonical hs)
        · exact mirrorSync_canonical (bankInit_canonical hs)
        · exact mirrorSync_canonical (barEntry_canonical hs)
        · exact finishEntry_canonical (performAt_canonical hs)

theorem arriveWait_canonical {s : State} {m : Msg} {go : State → State} (hs : s.Canonical)
    (hgo : ∀ z : State, z.Canonical → (go z).Canonical) : (arriveWait s m go).Canonical :=
  .ite hs (.ite hs (mirrorSync_canonical (hgo s hs)))

theorem arriveBar_canonical {s : State} {m : Msg} {slot : Nat} (hs : s.Canonical) : (arriveBar s m slot).Canonical := by
  unfold arriveBar
  split
  · exact hs
  · exact .ite hs (.ite (endJob_canonical hs) (endJob_canonical (mirrorSync_canonical (barSubtract_canonical hs))))

theorem arriveMsg_canonical {s : State} {i : Nat} (hs : s.Canonical) : CanonicalIf (arriveMsg s i) := by
  unfold arriveMsg
  split
  · exact .none
  · exact .some <| by
        split
        · exact arriveLoad_canonical hs
        · exact arriveEntry_canonical hs
        · split
          · exact consumeAt_canonical hs
          · exact arriveWait_canonical hs (fun _ hz => bankTake_canonical hz)
        · split
          · exact consumeAt_canonical hs
          · exact arriveWait_canonical hs (fun _ hz => bankPeek_canonical hz)
        · split
          · exact consumeAt_canonical hs
          · exact arriveWait_canonical hs (fun _ hz => barWaitFor_canonical hz)
        · exact arriveBar_canonical hs

theorem arriveRow_canonical {s : State} {i : Nat} {row : MsgRow} (hs : s.Canonical) : Out.Canonical (arriveRow s i row) := by
  unfold arriveRow
  split
  · exact .ite (happen_canonical hs (arriveMsg_canonical hs)) hs
  · exact hs

/-! ### Withdrawal (R233, R309, R355) -/

theorem leaveFault_canonical {s : State} {k : Nat} (hs : s.Canonical) : (leaveFault s k).Canonical := hs

theorem leaveSheets_canonical {s : State} {k : Nat} (hs : s.Canonical) : (leaveSheets s k).Canonical := .ite hs hs

theorem endWait_canonical {s : State} {k : Nat} (hs : s.Canonical) : (endWait s k).Canonical :=
  .ite (leaveFault_canonical (leaveSheets_canonical (.ite hs hs))) (leaveSheets_canonical (.ite hs hs))

theorem wakeToTrap_canonical {s : State} {k : Nat} (hs : s.Canonical) : (wakeToTrap s k).Canonical :=
  modCoreAt_canonical (endWait_canonical hs)

theorem takeInterruptAt_canonical {s : State} {k : Nat} (hs : s.Canonical) : (takeInterruptAt s k).Canonical := by
  unfold takeInterruptAt
  split
  · exact hs
  · exact takeTrap_canonical (modCoreAt_canonical (wakeToTrap_canonical hs))

theorem dropRefused_canonical {s : State} {k : Nat} (hs : s.Canonical) : (dropRefused s k).Canonical :=
  .ite hs (.ite hs hs)

theorem takeDeferred_canonical {s : State} {k : Nat} (hs : s.Canonical) : (takeDeferred s k).Canonical := by
  unfold takeDeferred
  split
  · exact hs
  · exact takeTrap_canonical (modCoreAt_canonical (dropRefused_canonical (wakeToTrap_canonical hs)))

theorem execWaitaTimeout_canonical {core : Nat} {s : State} (hs : s.Canonical) : Out.Canonical (execWaitaTimeout core s) := by
  unfold execWaitaTimeout
  split
  · exact .next (.ite hs hs)
  · exact hs

/-! ### Twins at the commit queue (R414) -/

theorem compareHead_canonical {s : State} {k : Nat} (hs : s.Canonical) : CanonicalIf (compareHead s k) := by
  unfold compareHead
  split
  · exact .none
  · dsimp only
    split
    · exact .ite (.some hs) (.some hs)
    · exact .none

theorem performHead_canonical {s : State} {k : Nat} (hs : s.Canonical) : CanonicalIf (performHead s k) :=
  .ite (stepHead_canonical hs) (compareHead_canonical hs)

theorem expireLease_canonical {s : State} {h line : Nat} (hs : s.Canonical) : (expireLease s h line).Canonical := by
  unfold expireLease
  split
  · split
    · exact .ite (leaveWay_canonical hs) hs
    · exact hs
  · exact hs

/-! ### Write-back (R126) -/

theorem stepVictim_canonical {s : State} {h line phase : Nat} {f : Victim → List Victim} (hs : s.Canonical) :
    (stepVictim s h line phase f).Canonical := by
  unfold stepVictim
  split
  · exact hs
  · exact hs

theorem requestBack_canonical {s : State} {h line : Nat} (hs : s.Canonical) : (requestBack s h line).Canonical :=
  stepVictim_canonical hs

theorem grantBack_canonical {s : State} {h line : Nat} (hs : s.Canonical) : (grantBack s h line).Canonical :=
  stepVictim_canonical hs

theorem cancelBack_canonical {s : State} {h line : Nat} (hs : s.Canonical) : (cancelBack s h line).Canonical :=
  stepVictim_canonical hs

theorem bytesBack_canonical {s : State} {h line : Nat} {l : HLine} (hs : s.Canonical) : (bytesBack s h line l).Canonical :=
  arriveWrite_canonical (.ite hs (dropMark_canonical hs))

theorem dataBack_canonical {s : State} {h line : Nat} (hs : s.Canonical) : (dataBack s h line).Canonical := by
  unfold dataBack
  split
  · exact hs
  · dsimp only
    split
    · exact .ite (by
            split
            · exact bytesBack_canonical (stepVictim_canonical hs)
            · exact stepVictim_canonical hs) <|
        arriveHome_canonical (by
            split
            · exact bytesBack_canonical (stepVictim_canonical hs)
            · exact stepVictim_canonical hs) fun _ hz => hz
    · split
      · exact bytesBack_canonical (stepVictim_canonical hs)
      · exact stepVictim_canonical hs

theorem spillLine_canonical {s : State} {line : Nat} (hs : s.Canonical) : (spillLine s line).Canonical := .ite hs hs

theorem evictLine_canonical {s : State} {h line : Nat} (hs : s.Canonical) : (evictLine s h line).Canonical := by
  unfold evictLine
  split
  · exact leaveWay_canonical hs
  · exact .foldl hs (fun _ _ hz => leaveWay_canonical hz)

/-! ### The cache walker (R236, R237) -/

theorem flushLine_canonical {s : State} {h line : Nat} (hs : s.Canonical) : (flushLine s h line).Canonical := by
  unfold flushLine
  split
  · exact .ite hs hs
  · exact hs

theorem prefetchLine_canonical {s : State} {h line : Nat} {pol : Policy} (hs : s.Canonical) : (prefetchLine s h line pol).Canonical :=
  .ite hs (homeGrant_canonical hs)

theorem modWalk_canonical {s : State} {k i : Nat} {f : Walk → List Walk} (hs : s.Canonical) : (modWalk s k i f).Canonical :=
  hs

theorem walkOne_canonical {s : State} {k i : Nat} (hs : s.Canonical) : (walkOne s k i).Canonical := by
  unfold walkOne
  split
  · exact hs
  · exact .ite hs <| by
        dsimp only
        split
        next e =>
          exact .ite hs <|
            modWalk_canonical (.ite (prefetchLine_canonical (.sndOf e (xlate_canonical hs))) <|
              .ite (flushLine_canonical (.sndOf e (xlate_canonical hs))) (dropSwm_canonical (.sndOf e (xlate_canonical hs))))
        next e => exact modWalk_canonical (.sndOf e (xlate_canonical hs))

theorem endWalk_canonical {s : State} {k i : Nat} (hs : s.Canonical) : CanonicalIf (endWalk s k i) := by
  unfold endWalk
  split
  · exact .none
  · exact .ite .none <|
      .some <| by
        split
        · exact hs
        · exact hs
        · exact hs

end Sys2Proof.Machine
end

section
/-!
PROOFS. Memory stays canonical, fifth part: the sheet engine, the suffix engine, and what moves out of a core.
-/

namespace Sys2Proof.Machine

/-! ### Sheets, cells, versions -/

theorem setSheetAt_canonical {s : State} {n : Nat} {sh : Sheet} (hs : s.Canonical) : (setSheetAt s n sh).Canonical :=
  hs

theorem modSheetAt_canonical {s : State} {n : Nat} {f : Sheet → Sheet} (hs : s.Canonical) : (modSheetAt s n f).Canonical := by
  unfold modSheetAt
  split
  · exact hs
  · exact hs

/-! ### The slot arena (R73) -/

theorem arenaCombine_canonical {s : State} {sh : Sheet} {va n : Nat} (hs : s.Canonical) : (arenaCombine s sh va n).Canonical := by
  unfold arenaCombine
  dsimp only
  split
  · exact combineBytes_canonical <| by
        split
        · exact combineWalk_canonical hs
        · exact hs
  · split
    · exact combineWalk_canonical hs
    · exact hs

theorem arenaWrite_canonical {s : State} {sh : Sheet} {va : Nat} {bs : Machine.SMap Byte} {poisoned : Bool}
    (hs : s.Canonical) : (arenaWrite s sh va bs poisoned).Canonical := by
  unfold arenaWrite
  split
  · exact arriveWrite_canonical hs
  · exact hs

theorem arenaZero_canonical {s : State} {sh : Sheet} {va n : Nat} (hs : s.Canonical) : (arenaZero s sh va n).Canonical :=
  .foldl hs fun _ _ hz => by
    split
    · exact .ite hz (arenaWrite_canonical hz)
    · exact hz

/-! ### Completion records (R99, R100) -/

theorem postCell_canonical {s : State} {n i : Nat} {c : Cell} {g kind status : Nat} {fault : Word} (hs : s.Canonical) :
    (postCell s n i c g kind status fault).Canonical :=
  .ite (by
      split
      · exact ringPost_canonical <| by
            split
            · exact ringPost_canonical hs
            · exact hs
      · split
        · exact ringPost_canonical hs
        · exact hs) <| by
    split
    · exact ringPost_canonical hs
    · exact hs

theorem finishVersion_canonical {s : State} {n key g : Nat} {st : VState} {fault : Word} (hs : s.Canonical) :
    (finishVersion s n key g st fault).Canonical := by
  unfold finishVersion
  split
  · exact hs
  · split
    · exact hs
    · exact postCell_canonical (modSheetAt_canonical hs)

/-! ### What follows from a change (R80 to R82, R85, R93) -/

theorem settleOne_canonical {s : State} {n : Nat} {x : Nat × Nat × Nat} (hs : s.Canonical) : (settleOne s n x).Canonical := by
  unfold settleOne
  split
  · exact hs
  · exact hs
  · exact finishVersion_canonical hs

theorem readyOne_canonical {s : State} {n : Nat} {x : Nat × Nat × Nat} (hs : s.Canonical) : (readyOne s n x).Canonical := by
  unfold readyOne
  split
  · exact .update (modSheetAt_canonical hs)
  · exact hs

theorem endDelete_canonical {s : State} {n : Nat} (hs : s.Canonical) : (endDelete s n).Canonical := by
  unfold endDelete
  split
  · exact .ite hs hs
  · exact hs

theorem settle_canonical {s : State} {n : Nat} (hs : s.Canonical) : (settle s n).Canonical := by
  unfold settle
  extract_lets run
  have hrun : ∀ f key (z : State), (∀ (u : State) a x, u.Canonical → (f u a x).Canonical) → z.Canonical → (run f key z).Canonical := by
    intro f key z hf hz
    dsimp only [run]
    split
    · exact .foldl hz fun _ _ hu => hf _ _ _ hu
    · exact hz
  exact endDelete_canonical (modSheetAt_canonical (hrun _ _ _ (fun _ _ _ hu => readyOne_canonical hu)
    (hrun _ _ _ (fun _ _ _ hu => settleOne_canonical hu) hs)))

/-! ### Stale marking and coalescing (R79, R87) -/

theorem markCell_canonical {s : State} {n : Nat} {m : Marking} {i : Nat} (hs : s.Canonical) : (markCell s n m i).Canonical := by
  unfold markCell
  split
  · exact hs
  · split
    · exact hs
    · exact .ite (modSheetAt_canonical hs) (.ite hs (modSheetAt_canonical hs))

theorem coalesceCell_canonical {s : State} {n gen i : Nat} (hs : s.Canonical) : (coalesceCell s n gen i).Canonical := by
  unfold coalesceCell
  split
  · exact hs
  · split
    · exact hs
    · split
      · exact hs
      · exact .ite (finishVersion_canonical hs) hs

theorem coalesce_canonical {s : State} {n gen : Nat} (hs : s.Canonical) : (coalesce s n gen).Canonical := by
  unfold coalesce
  split
  · exact hs
  · exact .foldl hs (fun _ _ hz => coalesceCell_canonical hz)

theorem markStep_canonical {s : State} {n : Nat} (hs : s.Canonical) : CanonicalIf (markStep s n) := by
  unfold markStep
  split
  · exact .none
  · split
    · exact .none
    · split
      · exact .some (settle_canonical (coalesce_canonical (modSheetAt_canonical hs)))
      · exact .some (settle_canonical (modSheetAt_canonical (.foldl hs (fun _ _ hz => markCell_canonical hz))))

theorem markAll_canonical {fuel : Nat} {s : State} {n : Nat} (hs : s.Canonical) : (markAll fuel s n).Canonical := by
  induction fuel generalizing s with
  | zero => exact hs
  | succ fuel ih =>
    unfold markAll
    split
    next e => exact ih (.ofSome e (markStep_canonical hs))
    · exact hs

theorem acceptPublish_canonical {s : State} {n : Nat} {self : Option Nat} {commits : List (Nat × Nat)} (hs : s.Canonical) :
    (acceptPublish s n self commits).Canonical := modSheetAt_canonical hs

/-! ### Binding (R311 to R314) -/

theorem bindOp_canonical {s : State} {rd rl : Nat → Nat → Option Nat} {w : Nat → Nat} {user urgent : Bool} (hs : s.Canonical) :
    (bindOp s rd rl w user urgent).2.2.Canonical := by
  unfold bindOp
  extract_lets b
  split
  · exact hs
  · refine .iteSndSnd hs ?_
    split
    · refine .iteSndSnd hs (.iteSndSnd hs (.iteSndSnd hs (.iteSndSnd hs (.iteSndSnd hs ?_))))
      extract_lets parts tl
      split
      · exact hs
      · exact .iteSndSnd (settle_canonical (acceptPublish_canonical (.foldl (setSheetAt_canonical hs) fun _ _ hz => arenaZero_canonical hz)))
          (.foldl (setSheetAt_canonical hs) fun _ _ hz => arenaZero_canonical hz)
    · exact hs

theorem editOp_canonical {s : State} {rd rl : Nat → Nat → Option Nat} {w : Nat → Nat} {user urgent : Bool} (hs : s.Canonical) :
    (editOp s rd rl w user urgent).2.2.Canonical := by
  unfold editOp
  dsimp only
  split
  · exact hs
  · exact .iteSndSnd hs <|
      .iteSndSnd hs <| by
        split
        · exact .iteSndSnd hs <|
            .iteSndSnd hs <|
            .iteSndSnd hs <|
            .iteSndSnd hs <| by
              split
              · exact hs
              · exact settle_canonical (acceptPublish_canonical hs)
        · exact hs
        · exact hs

theorem unbindOp_canonical {s : State} {n i : Nat} (hs : s.Canonical) : (unbindOp s n i).2.Canonical := by
  unfold unbindOp
  split
  · exact hs
  · split
    · exact hs
    · exact .iteSnd hs (.iteSnd hs (settle_canonical hs))

/-! ### Write sessions and publishing (R76 to R78, R315 to R317) -/

theorem openOp_canonical {s : State} {owner n : Nat} {cells : List Nat} (hs : s.Canonical) : (openOp s owner n cells).Canonical := by
  unfold openOp
  split
  · exact trivial
  · exact .ite trivial <|
      .ite trivial <| by
        split
        · exact trivial
        · exact .ite trivial hs

theorem appendOp_canonical {s : State} {owner n i k : Nat} (hs : s.Canonical) : (appendOp s owner n i k).2.Canonical := by
  unfold appendOp
  split
  · exact hs
  · split
    · exact hs
    · exact hs
    · exact .iteSnd hs hs

theorem addPublished_canonical {s : State} {n i : Nat} {v : Version} (hs : s.Canonical) : (addPublished s n i v).Canonical := by
  unfold addPublished
  split
  · exact hs
  · exact .ite (postCell_canonical (modSheetAt_canonical hs)) (modSheetAt_canonical hs)

theorem publishOp_canonical {s : State} {owner n : Nat} {cancel : Bool} (hs : s.Canonical) : (publishOp s owner n cancel).2.2.Canonical := by
  unfold publishOp
  split
  · exact hs
  · split
    · exact hs
    · refine .iteSndSnd (settle_canonical (modSheetAt_canonical hs)) ?_
      extract_lets s1
      have h1 : s1.Canonical := .ite (markAll_canonical hs) hs
      split
      · exact h1
      · refine .iteSndSnd h1 (.iteSndSnd h1 (settle_canonical (.foldl (.foldl
          (acceptPublish_canonical (modSheetAt_canonical h1)) fun _ _ hz => ?_) fun _ _ hz => ?_)))
        · split
          · exact addPublished_canonical hz
          · exact hz
        · split
          · exact .ite hz (addPublished_canonical hz)
          · exact hz

theorem copyEntry_canonical {s : State} {n key : Nat} (hs : s.Canonical) : CanonicalIf (copyEntry s n key) := by
  unfold copyEntry
  split
  · exact .none
  · split
    · exact .none
    · split
      · exact .none
      · exact .ite .none <|
          .some (settle_canonical (modSheetAt_canonical (.foldl hs fun _ _ hz => arenaWrite_canonical (arenaCombine_canonical hz))))

theorem markFresh_canonical {s : State} {n key : Nat} (hs : s.Canonical) : CanonicalIf (markFresh s n key) := by
  unfold markFresh
  split
  · exact .none
  · split
    · exact .none
    · exact .ite (.some (settle_canonical (finishVersion_canonical hs))) .none

/-! ### Views (R88 to R92, R95, R318 to R322) -/

theorem vopenOp_canonical {s : State} {owner n : Nat} (hs : s.Canonical) : (vopenOp s owner n).2.2.2.Canonical := by
  unfold vopenOp
  split
  · exact hs
  · split
    · exact hs
    · exact .iteSndSndSnd hs hs

theorem vcloseOp_canonical {s : State} {owner v : Nat} (hs : s.Canonical) : (vcloseOp s owner v).2.Canonical := by
  unfold vcloseOp
  split
  · exact hs
  · exact settle_canonical (modSheetAt_canonical hs)

theorem crdOp_canonical {s : State} {owner v n i td : Nat} (hs : s.Canonical) : (crdOp s owner v n i td).Canonical := by
  unfold crdOp
  split
  · exact trivial
  · exact .ite trivial <| by
        split
        · exact trivial
        · exact .ite trivial <| by
              split
              · exact trivial
              · exact hs

theorem revokeOp_canonical {s : State} {n limit : Nat} (hs : s.Canonical) : (revokeOp s n limit).2.2.Canonical := by
  unfold revokeOp
  split
  · exact hs
  · exact settle_canonical (.foldl hs (fun _ _ hz => postCell_canonical hz))

theorem closeOwner_canonical {s : State} {owner : Nat} (hs : s.Canonical) : (closeOwner s owner).Canonical :=
  .foldl hs (fun _ _ hz => .ite (settle_canonical (modSheetAt_canonical hz)) hz)

theorem deleteOp_canonical {s : State} {n : Nat} (hs : s.Canonical) : (deleteOp s n).2.Canonical := by
  unfold deleteOp
  split
  · exact hs
  · exact endDelete_canonical hs

/-! ### Recalculation (R83, R91, R96) -/

theorem writeTable_canonical {s : State} {sh : Sheet} {v : Version} {f : Formula} (hs : s.Canonical) : (writeTable s sh v f).Canonical :=
  .foldl hs (fun _ _ hz => arenaWrite_canonical hz)

theorem dispatchCell_canonical {s : State} {n i : Nat} (hs : s.Canonical) : CanonicalIf (dispatchCell s n i) := by
  unfold dispatchCell
  split
  · exact .none
  · split
    · exact .none
    · split
      · exact .none
      · exact .ite .none <| by
            split
            · exact .none
            · exact .ite .none (.some (modSheetAt_canonical (.update (writeTable_canonical hs))))

theorem nextDispatch_canonical {s : State} {n : Nat} (hs : s.Canonical) : CanonicalIf (nextDispatch s n) := by
  unfold nextDispatch
  split
  · exact .none
  · exact .findSome (fun _ => .ite (dispatchCell_canonical hs) .none)

theorem taskEnds_canonical {s : State} {n i g : Nat} {fault : Option Word} (hs : s.Canonical) : (taskEnds s n i g fault).Canonical := by
  unfold taskEnds
  split
  · exact hs
  · split
    · exact settle_canonical (modSheetAt_canonical hs)
    · exact settle_canonical (finishVersion_canonical (modSheetAt_canonical hs))

theorem rerun_canonical {s : State} {n i g : Nat} (hs : s.Canonical) : (rerun s n i g).Canonical := by
  unfold rerun
  split
  · exact hs
  · exact settle_canonical (.update (modSheetAt_canonical hs))

/-! ### Events -/

theorem combineHeaders_canonical {s : State} {l : List (Sheet × Nat)} (hs : s.Canonical) : (combineHeaders s l).Canonical :=
  .foldl hs (fun _ _ hz => arenaCombine_canonical hz)

theorem performPublish_canonical {s : State} {j : Nat} (hs : s.Canonical) : CanonicalIf (performPublish s j) := by
  unfold performPublish
  split
  · exact .none
  · exact .ite .none <|
      .ite .none <| by
        dsimp only
        split
        · exact .some (consumeAt_canonical (combineHeaders_canonical hs))
        · exact .some (.ite (replyTo_canonical (.iteSndSnd (combineHeaders_canonical hs) <|
                  publishOp_canonical (combineHeaders_canonical hs))) <|
              .iteSndSnd (combineHeaders_canonical hs) (publishOp_canonical (combineHeaders_canonical hs)))

theorem sheetTurn_keeps : sheetTurn.Keeps := .get (fun _ _ => afterAcquire_keeps.bind fun _ => waitUntil_keeps)

theorem myOwner_keeps : myOwner.Keeps := .get (fun _ _ => .pure)

theorem readBlock_keeps {s0 : State} {x : Word} {n : Nat} (hs0 : s0.Canonical) : (readBlock s0 x n).Keeps :=
  trapIf_keeps.bind fun _ =>
  trapIf_keeps.bind fun _ => .bind (.mapM (fun _ => checkAccess_keeps.bind fun _ => .pure)) fun _ => gather_keeps hs0

theorem bindInstr_keeps {edit : Bool} {op : BindOp} {g a : BitVec 4}
    (hop : ∀ (s : State) rd rl w u v, s.Canonical → (op s rd rl w u v).2.2.Canonical) : (bindInstr edit op g a).Keeps :=
  .get fun _ hs0 => readReg_keeps.bind fun _ => canWrite_keeps.bind fun _ => (readBlock_keeps hs0).bind fun _ =>
  sheetTurn_keeps.bind fun _ => released_keeps.bind fun _ => .get fun _ _ => engineState_keeps.bind fun _ =>
  engineReads_keeps.bind fun _ => .get fun _ hs => .bind (.set (hop _ _ _ _ _ _ hs)) fun _ => writeReg_keeps.bind fun _ => retire_keeps

theorem execCunbind_canonical {g a : BitVec 4} {s : State} (hs : s.Canonical) : Out.Canonical (execCunbind g a s) :=
  runTermOnce_canonical hs <|
  readReg_keeps.bind fun _ =>
  canWrite_keeps.bind fun _ =>
  sheetTurn_keeps.bind fun _ =>
  engineState_keeps.bind fun _ =>
  .get (fun _ hs => .bind (.set (.iteSnd hs (unbindOp_canonical hs))) fun _ => writeReg_keeps.bind fun _ => retire_keeps)

theorem readCells_keeps {s0 : State} {x : Word} {most : Nat} (hs0 : s0.Canonical) : (readCells s0 x most).Keeps :=
  .bind (readBlock_keeps hs0) fun _ => .ite .pure (.bind (readBlock_keeps hs0) fun _ => .pure)

theorem carriedCells_keeps {s0 : State} {x : Word} {most : Nat} (hs0 : s0.Canonical) : (carriedCells s0 x most).Keeps := by
  unfold carriedCells
  split
  · exact .pure
  · exact readCells_keeps hs0

theorem keepWaiting_keeps {α : Type} {s : State} {w0 : Nat} {cells : List Nat} (hs0 : s.Canonical) :
    (keepWaiting s w0 cells : Act α).Keeps := .block hs0

theorem noteWaiting_canonical {s : State} {owner : Nat} {at_ : Option (Nat × List Nat)} (hs : s.Canonical) :
    (noteWaiting s owner at_).Canonical := hs

theorem loadTds_canonical {s : State} {first : Nat} {ds : List Desc} (hs : s.Canonical) : (loadTds s first ds).Canonical :=
  .foldl hs (fun _ _ hz => setTd_canonical hz)

theorem execCwopen_canonical {g : BitVec 4} {desc : BitVec 8} {a : BitVec 4} {s : State} (hs : s.Canonical) :
    Out.Canonical (execCwopen g desc a s) :=
  runTermOnce_canonical hs <|
  .get fun _ hs0 => readReg_keeps.bind fun _ =>
  canWrite_keeps.bind fun _ =>
  .bind (carriedCells_keeps hs0) fun _ =>
  ownedEntry_keeps.bind fun _ =>
  sheetTurn_keeps.bind fun _ =>
  myOwner_keeps.bind fun _ =>
  .bind (.modify (fun _ hz => hz)) fun _ =>
  engineState_keeps.bind fun _ =>
  .ite (writeReg_keeps.bind fun _ => retire_keeps) <|
  .get fun _ hs => by
    split
    · exact writeReg_keeps.bind fun _ => retire_keeps
    · exact .bind (keepWaiting_keeps hs0) fun _ => retire_keeps
    next e => exact .bind (.set (loadTds_canonical (.ofOpened e (openOp_canonical hs)))) fun _ => writeReg_keeps.bind fun _ => retire_keeps

theorem execCwpub_canonical {g a : BitVec 4} {cancel : BitVec 1} {s : State} (hs : s.Canonical) : Out.Canonical (execCwpub g a cancel s) :=
  .ite (runInstr_canonical hs (readReg_keeps.bind fun _ => holdCommand_keeps.bind fun _ => retire_keeps)) <|
  runTermOnce_canonical hs <|
  withReply_keeps readReg_keeps (fun _ => .after canWrite_keeps fun _ =>
    .after sheetTurn_keeps fun _ => .after released_keeps fun _ => .after engineState_keeps fun _ => .pure (fun _ hz => hz)) fun _ _ _ =>
    writeReg_keeps.bind fun _ => retire_keeps

theorem appendPacked_canonical {s : State} {owner : Nat} {x : Word} {k : Nat} (hs : s.Canonical) : (appendPacked s owner x k).2.Canonical :=
  .iteSnd hs (appendOp_canonical hs)

theorem execCappend_canonical {g : BitVec 4} {k : BitVec 6} {a : BitVec 4} {s : State} (hs : s.Canonical) :
    Out.Canonical (execCappend g k a s) :=
  .ite (runInstr_canonical hs (readReg_keeps.bind fun _ => holdCommand_keeps.bind fun _ => retire_keeps)) <|
  runTermOnce_canonical hs <|
  readReg_keeps.bind fun _ =>
  canWrite_keeps.bind fun _ =>
  sheetTurn_keeps.bind fun _ =>
  myOwner_keeps.bind fun _ =>
  engineState_keeps.bind fun _ =>
  .get (fun _ hs => .bind (.set (appendPacked_canonical hs)) fun _ => writeReg_keeps.bind fun _ => retire_keeps)

theorem execVopen_canonical {g a : BitVec 4} {s : State} (hs : s.Canonical) : Out.Canonical (execVopen g a s) :=
  runTermOnce_canonical hs <|
  readReg_keeps.bind fun _ =>
  canWrite_keeps.bind fun _ =>
  sheetTurn_keeps.bind fun _ =>
  engineState_keeps.bind fun _ =>
  .get (fun _ hs => .bind (.set (.iteSndSndSnd hs (vopenOp_canonical hs))) fun _ => writeReg_keeps.bind fun _ => retire_keeps)

theorem execVclose_canonical {g v : BitVec 4} {s : State} (hs : s.Canonical) : Out.Canonical (execVclose g v s) :=
  runTermOnce_canonical hs <|
  canWrite_keeps.bind fun _ =>
  sheetTurn_keeps.bind fun _ =>
  .get fun _ hs => .bind (by
      split
      · exact engineState_keeps
      · exact .pure) fun _ =>
  .get (fun _ hs => .bind (.set (vcloseOp_canonical hs)) fun _ => writeReg_keeps.bind fun _ => retire_keeps)

theorem readHeaders_keeps {l : List (Sheet × Nat)} : (readHeaders l).Keeps :=
  .bind (.modify (fun _ hz => combineHeaders_canonical hz)) fun _ =>
  .get fun _ _ => by
    split
    · exact .consume
    · exact .pure

theorem execCrd_canonical {g : BitVec 4} {desc : BitVec 8} {a v : BitVec 4} {s : State} (hs : s.Canonical) :
    Out.Canonical (execCrd g desc a v s) :=
  runTermOnce_canonical hs <|
  readReg_keeps.bind fun _ => by
    extract_lets last jp
    have hlast : ∀ y, (last y).Keeps := fun _ => retire_keeps
    have hk : ∀ y, (jp y).Keeps := fun _ => ownedEntry_keeps.bind fun _ => sheetTurn_keeps.bind fun _ =>
      engineState_keeps.bind fun _ => .get fun _ _ => .when readHeaders_keeps fun _ =>
      .get fun _ hs => .ite (.bind writePair_keeps hlast) <| by
        split
        · exact .bind writePair_keeps hlast
        · exact .bind .waitHere hlast
        next e => exact .bind (.set (loadTds_canonical (.ofReadCell e (crdOp_canonical hs)))) fun _ => .bind writePair_keeps hlast
    exact .ite (canWrite_keeps.bind fun _ => .bind canWrite_keeps hk) (hk ())

theorem execCfence_canonical {g a v : BitVec 4} {s : State} (hs : s.Canonical) : Out.Canonical (execCfence g a v s) :=
  runTermOnce_canonical hs <|
  .get fun _ hs0 => readReg_keeps.bind fun _ =>
  canWrite_keeps.bind fun _ =>
  .bind (carriedCells_keeps hs0) fun _ =>
  sheetTurn_keeps.bind fun _ =>
  engineState_keeps.bind fun _ =>
  .get fun _ hs => .ite (writeReg_keeps.bind fun _ => retire_keeps) <| by
    split
    · exact writeReg_keeps.bind fun _ => retire_keeps
    · exact .bind (keepWaiting_keeps hs0) fun _ => retire_keeps

theorem execCstat_canonical {g a : BitVec 4} {s : State} (hs : s.Canonical) : Out.Canonical (execCstat g a s) :=
  runTermOnce_canonical hs <|
  readReg_keeps.bind fun _ =>
  sheetTurn_keeps.bind fun _ => engineState_keeps.bind fun _ => .get (fun _ _ => writePair_keeps.bind fun _ => retire_keeps)

theorem execCrevoke_canonical {g a : BitVec 4} {s : State} (hs : s.Canonical) : Out.Canonical (execCrevoke g a s) :=
  runTermOnce_canonical hs <|
  supervisorOnly_keeps.bind fun _ =>
  readPair_keeps.bind fun _ =>
  canWrite_keeps.bind fun _ =>
  sheetTurn_keeps.bind fun _ =>
  engineState_keeps.bind fun _ =>
  .get fun _ hs => .bind (.set (.iteSndSnd hs (.iteSndSnd hs (revokeOp_canonical hs)))) fun _ =>
  writeReg_keeps.bind fun _ => retire_keeps

/-! ### Slots (R384 to R386) -/

theorem modSuffix_canonical {s : State} {f : Suffix → Suffix} (hs : s.Canonical) : (modSuffix s f).Canonical := hs

theorem postSuffix_canonical {s : State} {status slot gen : Nat} (hs : s.Canonical) : (postSuffix s status slot gen).Canonical := by
  unfold postSuffix
  split
  · exact ringPost_canonical hs
  · exact hs

theorem evictTokens_canonical {stamp fuel : Nat} {s : State} (hs : s.Canonical) : CanonicalIf (evictTokens stamp fuel s) := by
  induction fuel generalizing s with
  | zero => exact .none
  | succ fuel ih =>
    unfold evictTokens
    refine .ite (.some hs) ?_
    split
    · exact .none
    · exact ih (postSuffix_canonical hs)

theorem fitTokens_canonical {s : State} {stamp : Nat} (hs : s.Canonical) : CanonicalIf (fitTokens s stamp) := by
  unfold fitTokens
  split
  · exact .ite (.some hs) .none
  · exact evictTokens_canonical hs

/-! ### The mailbox (R394, R395) -/

theorem physCombine_canonical {s : State} {l : List (Nat × Nat)} (hs : s.Canonical) : (physCombine s l).Canonical :=
  .foldl hs (fun _ _ hz => combineBytes_canonical hz)

theorem physReads_keeps {l : List (Nat × Nat)} : (physReads l).Keeps :=
  .get fun _ hs => by
    dsimp only
    split
    · exact .consume
    · exact .set (physCombine_canonical hs)

theorem mailClear_canonical {s : State} {who i : Nat} (hs : s.Canonical) : (mailClear s who i).Canonical := by
  unfold mailClear
  split
  · exact arriveWrite_canonical hs
  · exact hs

/-! ### The commands (R326 to R330, R387 to R393) -/

theorem sxOpen_canonical {s : State} {who : Nat} {par : Word} (hs : s.Canonical) : (sxOpen s who par).2.Canonical :=
  .iteSnd hs <| by
    split
    · exact hs
    · exact mailClear_canonical hs

theorem sxFree_canonical {s : State} {who i stamp : Nat} (hs : s.Canonical) : (sxFree s who i stamp).2.Canonical := by
  unfold sxFree
  split
  · exact hs
  · exact mailClear_canonical hs

theorem sxAppend_canonical {s : State} {i stamp : Nat} {ts : List Nat} (hs : s.Canonical) : (sxAppend s i stamp ts).2.Canonical := by
  unfold sxAppend
  split
  · exact hs
  · exact .iteSnd hs <| by
        split
        next e => exact .ofSome e (fitTokens_canonical hs)
        · exact hs

theorem sxQuery_canonical {s : State} {who i stamp : Nat} {x : SxSlot} (hs : s.Canonical) : (sxQuery s who i stamp x).2.2.Canonical := by
  unfold sxQuery
  dsimp only
  split
  · exact modSuffix_canonical (.ite (mailClear_canonical hs) hs)
  · exact modSuffix_canonical (.ite (mailClear_canonical hs) hs)

theorem sxLoad_canonical {s : State} {who : Nat} {w : Nat → Nat} {toks : List Nat} (hs : s.Canonical) : (sxLoad s who w toks).2.Canonical :=
  .iteSnd hs <| by
    split
    · exact hs
    · dsimp only
      split
      next e => exact mailClear_canonical (cleanEngine_canonical (.ofSome e (fitTokens_canonical hs)))
      · exact hs

theorem rebuildDone_canonical {s : State} {i : Nat} (hs : s.Canonical) : CanonicalIf (rebuildDone s i) := by
  unfold rebuildDone
  split
  · exact .ite (.some (postSuffix_canonical hs)) .none
  · exact .none

/-! ### The instructions -/

theorem noteSave_canonical {s : State} {who i stamp : Nat} (hs : s.Canonical) : (noteSave s who i stamp).Canonical :=
  .ite hs hs

theorem suffixTurn_keeps : suffixTurn.Keeps := afterAcquire_keeps.bind fun _ => .bind .getC fun _ => waitUntil_keeps

theorem engineWait_keeps {s0 : State} {i : Nat} {brought : List Nat} {b : Bool} (hs0 : s0.Canonical) : (engineWait s0 i brought b).Keeps :=
  .ite (.block hs0) .pure

theorem tokenPlaces_keeps {kind : Kind} {x : Word} {n : Nat} : (tokenPlaces kind x n).Keeps :=
  .get (fun _ _ => .mapM (fun _ => trapIf_keeps.bind fun _ => trapIf_keeps.bind fun _ => checkAccess_keeps.bind fun _ => .pure))

theorem appendPlaces_keeps {s0 : State} {y : Word} {n : Nat} : (appendPlaces s0 y n).Keeps := by
  unfold appendPlaces
  split
  · exact .pure
  · exact tokenPlaces_keeps

theorem combineWords_canonical {s : State} {ps : List Place} (hs : s.Canonical) : (combineWords s ps).Canonical :=
  physCombine_canonical hs

theorem engineWords_keeps {ps : List Place} : (engineWords ps).Keeps :=
  .bind (.modify (fun _ hz => combineWords_canonical hz)) fun _ =>
  .get (fun _ _ => .bind (.forM (fun _ => consumes_keeps)) fun _ => .pure)

theorem engineWrite_canonical {s : State} {who : Nat} {p : Place} {bs : Machine.SMap Byte} (hs : s.Canonical) :
    (engineWrite s who p bs).Canonical := .ite (arriveWrite_canonical hs) (performAt_canonical hs)

theorem engineLines_keeps {s0 : State} {ps : List Place} (hs0 : s0.Canonical) : (engineLines s0 ps).Keeps := by
  unfold engineLines
  dsimp only
  split
  · exact .block (dropSwm_canonical hs0)
  · exact waitUntil_keeps

theorem sendDrafts_canonical {s : State} {who : Nat} {ds : List (Place × Nat)} (hs : s.Canonical) : (sendDrafts s who ds).1.Canonical := by
  unfold sendDrafts
  split
  · exact hs
  · exact .foldl hs (fun _ _ hz => engineWrite_canonical hz)

theorem engineReply_keeps {d : Nat} {reads : Act Word} {run : State → Act (Word × List (Place × Nat) × State)} (hr : reads.Keeps)
    (hrun : ∀ s : State, s.Canonical → (run s).Ends fun r => r.2.2.Canonical) : (engineReply d reads run).Keeps :=
  .get fun s0 hs0 => by
    split
    · refine hr.bind fun _ => waitUntil_keeps.bind fun _ => ?_
      split
      · exact writeReg_keeps.bind fun _ => retire_keeps
      · extract_lets jp
        have hk : ∀ y, (jp y).Keeps := fun _ => .block (sendDrafts_canonical hs0)
        split
        · exact .bind .trap fun _ => hk ()
        · exact hk ()
    · exact .trap
    · exact (hrun s0 hs0).andThen fun _ hz => .block (replyTo_canonical (modCoreAt_canonical hz))

theorem execSxopen_canonical {d a : BitVec 4} {s : State} (hs : s.Canonical) : Out.Canonical (execSxopen d a s) :=
  runTermOnce_canonical hs <|
  readReg_keeps.bind fun _ =>
  canWrite_keeps.bind fun _ =>
  suffixTurn_keeps.bind fun _ =>
  .get (fun _ hs => .bind (.set (sxOpen_canonical hs)) fun _ => writeReg_keeps.bind fun _ => retire_keeps)

theorem execSxfree_canonical {d a : BitVec 4} {s : State} (hs : s.Canonical) : Out.Canonical (execSxfree d a s) :=
  runTermOnce_canonical hs <|
  .get fun _ hs0 => readReg_keeps.bind fun _ =>
  canWrite_keeps.bind fun _ =>
  suffixTurn_keeps.bind fun _ =>
  .bind (engineWait_keeps hs0) fun _ =>
  engineState_keeps.bind fun _ =>
  .get (fun _ hs => .bind (.set (.iteSnd hs (sxFree_canonical hs))) fun _ => writeReg_keeps.bind fun _ => retire_keeps)

theorem sxappHeld_canonical {s : State} {k : Nat} {user : Bool} {a b : Word} (hs : s.Canonical) : (sxappHeld s k user a b).Canonical :=
  .ite hs (sxAppend_canonical (combineWords_canonical hs))

theorem execSxapp_canonical {d a b : BitVec 4} {s : State} (hs : s.Canonical) : Out.Canonical (execSxapp d a b s) :=
  .ite (runInstr_canonical hs <|
    readReg_keeps.bind fun _ =>
    readReg_keeps.bind fun _ =>
    .ite (tokenPlaces_keeps.bind fun _ => (holdCommand_keeps.bind fun _ => retire_keeps)) (holdCommand_keeps.bind fun _ => retire_keeps)) <|
  runTermOnce_canonical hs <|
  .get fun _ hs0 => readReg_keeps.bind fun _ =>
  readReg_keeps.bind fun _ =>
  canWrite_keeps.bind fun _ =>
  .ite (writeReg_keeps.bind fun _ => retire_keeps) <|
  appendPlaces_keeps.bind fun _ =>
  suffixTurn_keeps.bind fun _ =>
  .when released_keeps fun _ =>
  .bind (engineLines_keeps hs0) fun _ =>
  .bind (engineWait_keeps hs0) fun _ =>
  engineState_keeps.bind fun _ =>
  engineWords_keeps.bind fun _ =>
  .get (fun _ hs => .bind (.set (sxAppend_canonical hs)) fun _ => writeReg_keeps.bind fun _ => retire_keeps)

theorem execSxqry_canonical {d a b : BitVec 4} {s : State} (hs : s.Canonical) : Out.Canonical (execSxqry d a b s) :=
  runTermOnce_canonical hs <|
  engineReply_keeps (readReg_keeps.bind fun _ => readReg_keeps) fun _ h0 => .after readReg_keeps fun _ =>
  .after readReg_keeps fun _ =>
  .after canWrite_keeps fun _ =>
  .after suffixTurn_keeps fun _ =>
  .ite (.get (fun _ hz => .pure hz)) <|
  .after (engineWait_keeps h0) fun _ =>
  .after engineState_keeps fun _ => by
    split
    · exact .get (fun _ hz => .pure hz)
    · exact .after tokenPlaces_keeps fun _ =>
        .after (engineLines_keeps h0) fun _ =>
        .after (engineWait_keeps h0) fun _ => .after physReads_keeps fun _ => .get (fun _ hz => .pure (sxQuery_canonical hz))

theorem areaPlaces_keeps {kind : Kind} {x : Word} {n : Nat} : (areaPlaces kind x n).Keeps :=
  trapIf_keeps.bind fun _ => trapIf_keeps.bind fun _ => .mapM (fun _ => checkPlace_keeps.bind fun _ => .pure)

theorem saveArea_canonical {s : State} {who : Nat} {x : SxSlot} {ps : List (Place × Nat)} (hs : s.Canonical) :
    (saveArea s who x ps).Canonical := .foldl hs (fun _ _ hz => engineWrite_canonical hz)

theorem execSxsave_canonical {d a b : BitVec 4} {s : State} (hs : s.Canonical) : Out.Canonical (execSxsave d a b s) :=
  runTermOnce_canonical hs <|
  engineReply_keeps (readReg_keeps.bind fun _ => readReg_keeps) fun _ h0 => .after readReg_keeps fun _ =>
  .after readReg_keeps fun _ =>
  .after canWrite_keeps fun _ =>
  .after suffixTurn_keeps fun _ =>
  .ite (.get (fun _ hz => .pure hz)) <|
  .after (engineWait_keeps (noteSave_canonical h0)) fun _ =>
  .after engineState_keeps fun _ => by
    split
    · exact .get (fun _ hz => .pure hz)
    · exact .ite (.get (fun _ hz => .pure hz)) <|
        .after areaPlaces_keeps fun _ => .after (engineLines_keeps h0) fun _ => .get (fun _ hz => .pure (saveArea_canonical hz))

theorem execSxload_canonical {d b : BitVec 4} {s : State} (hs : s.Canonical) : Out.Canonical (execSxload d b s) :=
  runTermOnce_canonical hs <|
  .get fun _ hs0 => readReg_keeps.bind fun _ =>
  canWrite_keeps.bind fun _ =>
  suffixTurn_keeps.bind fun _ =>
  released_keeps.bind fun _ =>
  areaPlaces_keeps.bind fun _ =>
  .bind (engineLines_keeps hs0) fun _ =>
  .bind (.modify (fun _ hz => physCombine_canonical hz)) fun _ =>
  .get fun _ _ => .bind (.forM (fun _ => consumes_keeps)) fun _ =>
  .ite (writeReg_keeps.bind fun _ => retire_keeps) <|
  areaPlaces_keeps.bind fun _ =>
  .bind (engineLines_keeps hs0) fun _ =>
  .bind (.modify (fun _ hz => physCombine_canonical hz)) fun _ =>
  .get fun _ hs => .bind (.forM (fun _ => consumes_keeps)) fun _ =>
  .bind (.set (sxLoad_canonical hs)) fun _ => writeReg_keeps.bind fun _ => retire_keeps

theorem execSxstat_canonical {d a : BitVec 4} {s : State} (hs : s.Canonical) : Out.Canonical (execSxstat d a s) :=
  runTermOnce_canonical hs <|
  .get fun _ hs0 => readReg_keeps.bind fun _ =>
  suffixTurn_keeps.bind fun _ =>
  .bind (engineWait_keeps hs0) fun _ =>
  engineState_keeps.bind fun _ => .when physReads_keeps fun _ => .get (fun _ _ => writePair_keeps.bind fun _ => retire_keeps)

/-! ### Clock requests (R338) -/

theorem requestClock_canonical {s : State} {tn : Nat} {x : Word} (hs : s.Canonical) : (requestClock s tn x).Canonical :=
  .update (modTeamAt_canonical hs)

theorem execClkreq_canonical {d a : BitVec 4} {s : State} (hs : s.Canonical) : Out.Canonical (execClkreq d a s) :=
  runTermOnce_canonical hs <|
  readReg_keeps.bind fun _ =>
  canWrite_keeps.bind fun _ =>
  .get (fun _ _ => .when (.modify (fun _ hz => requestClock_canonical hz)) fun _ => writeReg_keeps.bind fun _ => retire_keeps)

/-! ### CXSAVE (R340) -/

theorem ctxOperand_keeps {i : Instr} {a : BitVec 4} : (ctxOperand i a).Keeps :=
  supervisorOnly_keeps.bind fun _ =>
  readReg_keeps.bind fun _ =>
  .when illegal_keeps fun _ => notInRegion_keeps.bind fun _ => .bind .getC fun _ => .when illegal_keeps fun _ => .pure

theorem ctxPlaces_keeps {kind : Kind} {base : Word} {mask : Nat} : (ctxPlaces kind base mask).Keeps :=
  trapIf_keeps.bind fun _ => .mapM (fun _ => checkPlace_keeps.bind fun _ => .pure)

theorem execCxsave_canonical {a : BitVec 4} {s : State} (hs : s.Canonical) : Out.Canonical (execCxsave a s) :=
  runInstr_canonical hs <|
  withStores_keeps (ctxOperand_keeps.bind fun _ =>
    .ite retire_keeps <|
    .get fun _ _ => waitUntil_keeps.bind fun _ =>
    ctxPlaces_keeps.bind fun _ => by
      split
      · exact .consume
      · exact storeMany_keeps.bind fun _ => retire_keeps)

/-! ### CXLOAD (R340) -/

theorem execCxload_canonical {a : BitVec 4} {s : State} (hs : s.Canonical) : Out.Canonical (execCxload a s) :=
  runInstr_canonical hs <|
  .get fun _ hs0 => ctxOperand_keeps.bind fun _ =>
  .ite retire_keeps <|
  .bind .getC fun _ =>
  waitUntil_keeps.bind fun _ =>
  ctxPlaces_keeps.bind fun _ =>
  .bind (gather_keeps hs0) fun _ => by
    dsimp only
    split
    · exact .trap
    · exact .bind (by
            split
            · exact .trap
            · exact .pure) fun _ =>
        .when (.modify (fun _ hz => hz)) fun _ => .bind .modC fun _ => retire_keeps

/-! ### The move of committed entries (R121 to R123, R131) -/

theorem popHeld_canonical {s : State} {k : Nat} (hs : s.Canonical) : (popHeld s k).Canonical := hs

theorem engineMove_canonical {s : State} {k : Nat} {poison : Option (Nat × Nat)} {s' : State} (hs : s.Canonical) (hs3 : s'.Canonical) :
    CanonicalIf (engineMove s k poison s') := by
  unfold engineMove
  split
  · exact .some hs3
  · exact .ite .none (.some (consumeAt_canonical hs))

theorem moveCommitted_canonical {s : State} {k : Nat} (hs : s.Canonical) : CanonicalIf (moveCommitted s k) := by
  unfold moveCommitted
  dsimp only
  split
  · exact .ite .none (.some hs)
  · exact .ite .none <| by
        split
        · exact .ite .none (.some hs)
        · exact .ite .none (.mapOf (acceptItem_canonical hs) (fun _ hz => hz))
        · exact .some hs
        · exact .ite (engineMove_canonical hs (.update (popHeld_canonical (nextChoice_canonical hs)))) .none
        · exact .ite .none (engineMove_canonical hs (appendPacked_canonical (popHeld_canonical (nextChoice_canonical hs))))
        · exact .ite (engineMove_canonical (combineWords_canonical hs) <|
              sxappHeld_canonical (popHeld_canonical (nextChoice_canonical (combineWords_canonical hs)))) .none
        · exact .ite (.some (evpostOp_canonical hs)) .none
        · exact .ite (engineMove_canonical (coreCombine_canonical hs) <|
              spawnOp_canonical (popHeld_canonical (coreCombine_canonical hs))) .none
        · exact .ite (.some hs) .none

/-! ### Targets of spaces 3 and 4 (R112, R288, R419) -/

theorem targetAnswer_canonical {s : State} {k i : Nat} {ok : Bool} {value : Nat} (hs : s.Canonical) :
    CanonicalIf (targetAnswer s k i ok value) := by
  unfold targetAnswer
  split
  · exact .none
  · dsimp only
    split
    · exact .some <| by
          split
          · exact hs
          · exact .ite (writeCopy_canonical hs) (endJob_canonical hs)
    · exact .some <| by
          split
          · exact hs
          · exact .ite (endJob_canonical hs) (.ite (endJob_canonical hs) hs)
    · exact .ite (.some (.ite hs hs)) (.ite (.some hs) (.some hs))

end Sys2Proof.Machine
end

section
/-!
PROOFS. Memory stays canonical, sixth part: teams, power, errors and containment.
-/

namespace Sys2Proof.Machine

/-! ### Vacating (R124, R357) -/

theorem vacateCore_canonical {s : State} {k : Nat} (hs : s.Canonical) : (vacateCore s k).Canonical :=
  modCoreAt_canonical (endWait_canonical hs)

theorem flushHerd_canonical {s : State} {h : Nat} (hs : s.Canonical) : (flushHerd s h).Canonical :=
  modHerdAt_canonical (.foldl hs (fun _ _ hz => dropSwm_canonical hz))

theorem quiesce_canonical {s : State} {herds : List Nat} (hs : s.Canonical) : (quiesce s herds).Canonical :=
  .ite (.moved (.foldl hs (fun _ _ hz => .ite (vacateCore_canonical hz) hz))) <|
  .ite trivial <| by
    split
    · exact flushHerd_canonical hs
    · exact .ite trivial trivial

theorem returnChunk_canonical {s : State} {tn k : Nat} (hs : s.Canonical) : (returnChunk s tn k).Canonical := by
  unfold returnChunk
  split
  · exact hs
  · exact modCoreAt_canonical (modTeamAt_canonical hs)

/-! ### The state of a starting core (R372, R412) -/

theorem resubscribe_canonical {s : State} {tn k : Nat} {twin : Option (Nat × Bool)} (hs : s.Canonical) :
    (resubscribe s tn k twin).Canonical := .foldl hs (fun _ _ hz => .foldl hz (fun _ _ hz => hz))

theorem initCores_canonical {s : State} {tn : Nat} {t : Team} {ks : List Nat} (hs : s.Canonical) : (initCores s tn t ks).Canonical :=
  .foldl (spaceCombine_canonical hs) fun _ _ hz => .ite (.ite (resubscribe_canonical (modCoreAt_canonical (.ite
      (resubscribe_canonical hz) hz))) (.ite (resubscribe_canonical hz) hz)) (.ite (resubscribe_canonical hz) hz)

/-! ### Numbering and resizing (R10, R375) -/

theorem renumber_canonical {s : State} {tn : Nat} {remain : List Nat} (hs : s.Canonical) : (renumber s tn remain).Canonical := by
  unfold renumber
  split
  · exact hs
  · exact modTeamAt_canonical (.foldl hs (fun _ _ hz => .ite (.ite (modCoreAt_canonical (.ite hz hz)) (.ite hz hz)) (.ite hz hz)))

theorem releaseCore_canonical {s : State} {k : Nat} (hs : s.Canonical) : (releaseCore s k).Canonical :=
  modCoreAt_canonical (leaveGroups_canonical hs)

theorem loseHerds_canonical {s : State} {tn : Nat} {herds : List Nat} (hs : s.Canonical) : (loseHerds s tn herds).Canonical := by
  unfold loseHerds
  split
  · exact hs
  · exact renumber_canonical (modTeamAt_canonical (.foldl (.foldl hs (fun _ _ hz => returnChunk_canonical hz)) fun _ _ hz =>
      releaseCore_canonical hz))

/-! ### The kid pool (R377) -/

theorem giveEntry_canonical {s : State} {d n e : Nat} (hs : s.Canonical) : (giveEntry s d n e).Canonical :=
  modTeamAt_canonical hs

theorem fillPool_canonical {fuel : Nat} {s : State} {d : Nat} (hs : s.Canonical) : (fillPool fuel s d).Canonical := by
  induction fuel generalizing s with
  | zero => exact hs
  | succ fuel ih =>
    unfold fillPool
    split
    · exact hs
    · exact .ite (ih (modDieAt_canonical (giveEntry_canonical hs))) hs

theorem freeEntry_canonical {s : State} {n parent d e : Nat} (hs : s.Canonical) : (freeEntry s n parent d e).Canonical := by
  unfold freeEntry
  split
  · split
    · exact giveEntry_canonical hs
    · dsimp only
      split
      · exact fillPool_canonical (modTeamAt_canonical hs)
      · exact modTeamAt_canonical hs
  · exact fillPool_canonical hs
  · exact hs

/-! ### TEAM_PLACE (R369) -/

theorem saveKept_canonical {s : State} {tn : Nat} {claim : BitVec 3} {herds : List Nat} (hs : s.Canonical) :
    (saveKept s tn claim herds).Canonical :=
  .foldl hs fun _ _ hz => .ite hz <|
  .foldl hz fun _ _ hz => by
    split
    · exact hz
    · exact .ite hz (modCoreAt_canonical (modTeamAt_canonical hz))

theorem takePlacement_canonical {s : State} {tn : Nat} {rs : List Rect} (hs : s.Canonical) : (takePlacement s tn rs).Canonical :=
  fillPool_canonical (modTeamAt_canonical (.update (.foldl (saveKept_canonical hs) (fun _ _ hz => hz))))

theorem placeTeam_canonical {s : State} {tn : Nat} {r : Rect} (hs : s.Canonical) : CanonicalIf (placeTeam s tn r) := by
  unfold placeTeam
  split
  · exact .none
  · exact .ite .none (.ite (.some (takePlacement_canonical hs)) (.some (modTeamAt_canonical hs)))

/-! ### TEAM_START and HERD_START (R364, R372, R373) -/

theorem startTeam_canonical {s : State} {tn : Nat} (hs : s.Canonical) : CanonicalIf (startTeam s tn) := by
  unfold startTeam
  split
  · exact .none
  · exact .ite .none (.some (modTeamAt_canonical (initCores_canonical (.foldl hs (fun _ _ hz => hz)))))

theorem startHerd_canonical {s : State} {tn h : Nat} (hs : s.Canonical) : CanonicalIf (startHerd s tn h) := by
  unfold startHerd
  split
  · exact .none
  · exact .ite .none (.some (.foldl (modTeamAt_canonical hs) (fun _ _ hz => hz)))

/-! ### SPATIAL_PREEMPT (R358, R370, R375) -/

theorem scanOut_canonical {s : State} {v k : Nat} {claim : BitVec 3} (hs : s.Canonical) : (scanOut s v k claim).Canonical :=
  modCoreAt_canonical (modTeamAt_canonical hs)

theorem preemptTeam_canonical {s : State} {tn : Nat} {r : Rect} (hs : s.Canonical) : CanonicalIf (preemptTeam s tn r) := by
  unfold preemptTeam
  dsimp only
  split
  · exact .ite (by
          split
          · exact .none
          next e => exact .some (.ofQuiet e (quiesce_canonical hs))
          · exact .some (loseHerds_canonical (.foldl (saveKept_canonical hs) (fun _ _ hz => scanOut_canonical hz)))) <|
      .ite (.some <| by
          split
          next e => exact .ofQuiet e (quiesce_canonical (modTeamAt_canonical hs))
          · exact modTeamAt_canonical hs) .none
  · exact .none

/-! ### HERDS_RETURN (R376, R409) -/

theorem returnHerds_canonical {s : State} {tn : Nat} (hs : s.Canonical) : CanonicalIf (returnHerds s tn) := by
  unfold returnHerds
  split
  · exact .none
  · dsimp only
    split
    · exact .none
    · split
      · exact .ite .none <| by
            split
            · exact .some (.foldl (initCores_canonical (renumber_canonical (modTeamAt_canonical (.foldl
                (modTeamAt_canonical hs) fun _ _ hz => hz)))) fun _ _ hz => by
                    split
                    · exact hz
                    · exact hz)
            · exact .some (renumber_canonical (modTeamAt_canonical (.foldl (modTeamAt_canonical hs) (fun _ _ hz => hz))))
      · exact .ite .none <| by
            split
            · exact .some (.foldl (initCores_canonical (renumber_canonical (modTeamAt_canonical (.foldl
                (modTeamAt_canonical hs) fun _ _ hz => hz)))) fun _ _ hz => by
                    split
                    · exact hz
                    · exact hz)
            · exact .some (renumber_canonical (modTeamAt_canonical (.foldl (modTeamAt_canonical hs) (fun _ _ hz => hz))))
      · exact .none
      · exact .none
      · exact .some (modTeamAt_canonical hs)

/-! ### SLICE_EXPIRE and TEAM_RESUME (R359 to R361, R371) -/

theorem swapOut_canonical {s : State} {tn : Nat} {t : Team} (hs : s.Canonical) : (swapOut s tn t).Canonical :=
  fillPool_canonical (modTeamAt_canonical (.update (.foldl (.foldl hs (fun _ _ hz => returnChunk_canonical hz)) (fun _ _ hz => hz))))

theorem expireSlice_canonical {s : State} {tn : Nat} (hs : s.Canonical) : CanonicalIf (expireSlice s tn) := by
  unfold expireSlice
  split
  · exact .none
  · exact .ite .none <|
      .ite (.ite (.some (modTeamAt_canonical hs)) .none) <| by
        split
        · exact .none
        next e => exact .some (.ofQuiet e (quiesce_canonical hs))
        · exact .some (swapOut_canonical hs)

/-! ### Ending a team (R84, R85, R88, R293, R307, R372) -/

theorem forgetTeam_canonical {s : State} {tn : Nat} (hs : s.Canonical) : (forgetTeam s tn).Canonical :=
  .update (.foldl (.foldl hs (fun _ _ hz => closeOwner_canonical hz)) (fun _ _ hz => .ite (clearRange_canonical hz) hz))

theorem releaseTeam_canonical {s : State} {tn : Nat} {t : Team} (hs : s.Canonical) : (releaseTeam s tn t).Canonical :=
  fillPool_canonical (modTeamAt_canonical (forgetTeam_canonical (.foldl (.foldl hs fun _ _ hz => .ite
      (releaseCore_canonical hz) hz) fun _ _ hz => hz)))

theorem finishTeam_canonical {s : State} {tn : Nat} (hs : s.Canonical) : CanonicalIf (finishTeam s tn) := by
  unfold finishTeam
  split
  · exact .none
  · split
    · exact .ite (.some (modTeamAt_canonical hs)) .none
    · exact .ite .none <| by
          split
          · exact .none
          next e => exact .some (.ofQuiet e (quiesce_canonical hs))
          · exact .some (releaseTeam_canonical hs)
    · exact .none

theorem completeTask_canonical {s : State} {tn : Nat} (hs : s.Canonical) : CanonicalIf (completeTask s tn) := by
  unfold completeTask
  split
  · exact .none
  · exact .ite .none <| by
        dsimp only
        split
        · exact .none
        · exact .some (modTeamAt_canonical hs)
        · exact .some (modTeamAt_canonical hs)
        · exact .some <| by
              split
              · exact taskEnds_canonical (modTeamAt_canonical hs)
              · split
                · exact .ite (taskEnds_canonical (modTeamAt_canonical hs)) (rerun_canonical (modTeamAt_canonical hs))
                · exact modTeamAt_canonical hs

theorem wakeTeam_canonical {s : State} {tn : Nat} (hs : s.Canonical) : (wakeTeam s tn).Canonical := hs

theorem completeKid_canonical {s : State} {tn : Nat} (hs : s.Canonical) : CanonicalIf (completeKid s tn) := by
  unfold completeKid
  split
  · exact .none
  · split
    · exact .ite .none (.some (wakeTeam_canonical (freeEntry_canonical (modTeamAt_canonical (modTeamAt_canonical hs)))))
    · exact .none

theorem endTeam_canonical {s : State} {tn : Nat} {failure : Option Word} (hs : s.Canonical) : (endTeam s tn failure).Canonical := by
  unfold endTeam
  split
  · exact hs
  · dsimp only
    split
    · exact releaseTeam_canonical (modTeamAt_canonical hs)
    · exact releaseTeam_canonical (modTeamAt_canonical hs)
    · exact modTeamAt_canonical (modTeamAt_canonical hs)
    · exact modTeamAt_canonical (modTeamAt_canonical hs)
    · exact modTeamAt_canonical hs

/-! ### TEAM_RESUME (R360, R361) -/

theorem loadSaved_canonical {s : State} {t : Team} (hs : s.Canonical) : (loadSaved s t).Canonical := by
  unfold loadSaved
  extract_lets put
  have hput : ∀ (z : State) k i twin, z.Canonical → (put z k i twin).Canonical := by
    intro z k i twin hz
    dsimp only [put]
    split
    · exact hz
    · exact hz
  exact .foldl hs fun _ _ hz => .ite (hput _ _ _ _ (hput _ _ _ _ hz)) (hput _ _ _ _ hz)

theorem resumeTeam_canonical {s : State} {tn : Nat} (hs : s.Canonical) : CanonicalIf (resumeTeam s tn) := by
  unfold resumeTeam
  split
  · exact .none
  · exact .ite .none <|
      .ite (.some (endTeam_canonical hs)) <|
      .some (modTeamAt_canonical (.update (loadSaved_canonical (.foldl (saveKept_canonical hs) (fun _ _ hz => hz)))))

/-! ### What the supervisor does to a team that waits (R361, R442) -/

theorem pinTeam_canonical {s : State} {tn : Nat} {segs : List (Nat × Nat)} (hs : s.Canonical) : (pinTeam s tn segs).Canonical :=
  modTeamAt_canonical hs

theorem writeSaved_canonical {s : State} {tn i off v : Nat} (hs : s.Canonical) : (writeSaved s tn i off v).Canonical :=
  modTeamAt_canonical hs

theorem suspendToFit_canonical {fuel : Nat} {s : State} (hs : s.Canonical) : (suspendToFit fuel s).Canonical := by
  induction fuel generalizing s with
  | zero => exact hs
  | succ fuel ih =>
    unfold suspendToFit
    refine .ite hs ?_
    split
    · exact hs
    · exact ih (.ite (fillPool_canonical (modTeamAt_canonical hs)) (modTeamAt_canonical hs))

theorem setGrant_canonical {s : State} {herd : Nat} {w : Word} (hs : s.Canonical) : (setGrant s herd w).Canonical :=
  .ite hs (.foldl hs (fun _ _ hz => hz))

theorem arbitrate_canonical {s : State} (hs : s.Canonical) : (arbitrate s).Canonical :=
  .foldl (.foldl (.foldl (.foldl (.update (suspendToFit_canonical hs)) (fun _ _ hz => hz)) (fun _ _ hz =>
      modTeamAt_canonical hz)) fun _ _ hz => .ite hz hz) fun _ _ hz => .foldl hz fun _ _ hz => setGrant_canonical hz

theorem raiseHerd_canonical {s : State} {herd : Nat} (hs : s.Canonical) : CanonicalIf (raiseHerd s herd) := by
  unfold raiseHerd
  split
  · exact .none
  · split
    · exact .ite (.some (setGrant_canonical hs)) .none
    · exact .none

/-! ### Uncorrectable errors (R356, R402 to R404) -/

theorem retryAt_canonical {s : State} {k : Nat} (hs : s.Canonical) : (retryAt s k).Canonical :=
  .ite (discardCounted_canonical hs) hs

theorem errorAt_canonical {s : State} {place key addr : Nat} (hs : s.Canonical) : (errorAt s place key addr).Canonical := by
  unfold errorAt
  split
  · exact hs
  · exact hs
  · exact hs
  · exact .ite (retryAt_canonical hs) hs
  · exact .ite hs (.ite hs (.ite (retryAt_canonical hs) hs))
  · exact hs
  · exact hs
  · exact retryAt_canonical hs
  · exact hs
  · exact hs
  · exact hs

theorem scrubError_canonical {s : State} {place key addr : Nat} (hs : s.Canonical) : (scrubError s place key addr).Canonical := by
  unfold scrubError
  split
  · exact .ite hs hs
  · exact .ite (errorAt_canonical hs) hs
  · exact hs
  · exact errorAt_canonical hs

/-! ### Containment (R407 to R411) -/

theorem loseZone_canonical {s : State} {zs : List Nat} {tn : Nat} (hs : s.Canonical) : (loseZone s zs tn).Canonical := by
  unfold loseZone
  split
  · exact hs
  · exact modTeamAt_canonical (loseHerds_canonical (.foldl hs (fun _ _ hz => .ite (vacateCore_canonical hz) hz)))

theorem resetZone_canonical {s : State} {zs : List Nat} (hs : s.Canonical) : (resetZone s zs).Canonical :=
  .update (.foldl hs (fun _ _ hz => leaveGroups_canonical hz))

theorem endContained_canonical {s : State} {summary : Word} {tn : Nat} (hs : s.Canonical) : (endContained s summary tn).Canonical := by
  unfold endContained
  dsimp only
  split
  · exact modTeamAt_canonical hs
  · exact .ite (releaseTeam_canonical (endTeam_canonical (modTeamAt_canonical hs))) (endTeam_canonical (modTeamAt_canonical hs))

theorem repost_canonical {s : State} {n i : Nat} {now : Bool} (hs : s.Canonical) : (repost s n i now).Canonical := by
  unfold repost
  split
  · exact hs
  · exact .ite (ringSend_canonical (setRing_canonical hs)) hs

theorem contain_canonical {s : State} {k unit addr : Nat} (hs : s.Canonical) : (contain s k unit addr).Canonical :=
  ringPost_canonical (.update (.foldl (resetZone_canonical (.foldl hs (fun _ _ hz => loseZone_canonical hz))) fun _ _ hz =>
      endContained_canonical hz))

theorem startContainment_canonical {s : State} {k : Nat} (hs : s.Canonical) : CanonicalIf (startContainment s k) :=
  .ite .none <| by
    split
    · exact .some (contain_canonical hs)
    · exact .none

theorem failRouter_canonical {s : State} {k : Nat} (hs : s.Canonical) : (failRouter s k).Canonical :=
  .getD (startContainment_canonical (consumeAt_canonical hs)) (consumeAt_canonical hs)

/-! ### CRC failures (R34, R404, R415) -/

theorem failWrite_canonical {s : State} {line : Nat} (hs : s.Canonical) : (failWrite s line).Canonical :=
  .ite (dropWrite_canonical hs) hs

theorem failResponse_canonical {s : State} {k i : Nat} (hs : s.Canonical) : (failResponse s k i).Canonical := by
  unfold failResponse
  split
  · exact .ite hs (.ite hs (retryAt_canonical hs))
  · exact .ite hs (retryAt_canonical hs)

end Sys2Proof.Machine
end

section
/-!
PROOFS. Memory stays canonical, seventh part: channels, the supervisor's commands and the window.
-/

namespace Sys2Proof.Machine

/-! ### Channels (R422, R423) -/

theorem modChannelAt_canonical {s : State} {ch : Nat} {f : Channel → Channel} (hs : s.Canonical) : (modChannelAt s ch f).Canonical :=
  hs

theorem command_canonical {ch : Nat} {mine : Channel → Bool} {run : State → Nat → Channel → Ran} {s : State} (hs : s.Canonical)
    (hrun : ∀ (z : State) k c, z.Canonical → (run z k c).Canonical) : (command ch mine run s).Canonical := by
  unfold command
  refine .ite hs ?_
  have hr := hrun _ ch (channelAt s ch).seen
    (modChannelAt_canonical (ch := ch) (f := fun c => { if c.busy then c else c.begin_ with carried := none }) hs)
  dsimp only
  split
  next e => exact modChannelAt_canonical (.ofDone e hr)
  · exact hs
  next e => exact .ofWait e hr

theorem commandEnds_canonical {s : State} {ch : Nat} (hs : s.Canonical) : CanonicalIf (commandEnds s ch) :=
  .ite (by
      split
      · exact .some (.ite hs hs)
      · exact .some (sendDrafts_canonical hs)) .none

theorem channelWrite_canonical {s : State} {ch a : Nat} {bs : Machine.SMap Byte} (hs : s.Canonical) : (channelWrite s ch a bs).Canonical :=
  engineWrite_canonical hs

/-! ### Sheet commands (R310 to R324, R423) -/

theorem loadChannel_canonical {s : State} {ch first : Nat} {ds : List Desc} (hs : s.Canonical) : (loadChannel s ch first ds).Canonical :=
  hs

theorem bindCombine_canonical {s : State} {w : Nat → Nat} {edit : Bool} (hs : s.Canonical) : (bindCombine s w edit).Canonical :=
  physCombine_canonical <| by
    split
    · exact .foldl hs (fun _ _ hz => combineWalk_canonical hz)
    · exact hs

theorem channelBind_canonical {edit : Bool} {op : BindOp} {s : State} {a : Nat} (hs : s.Canonical)
    (hop : ∀ (s : State) rd rl w u v, s.Canonical → (op s rd rl w u v).2.2.Canonical) : (channelBind edit op s a).Canonical :=
  .ite trivial (.ite hs (.ite trivial (hop _ _ _ _ _ _ (bindCombine_canonical (combineBytes_canonical hs)))))

theorem channelCells_canonical {s : State} {c : Channel} {most : Nat} {r : Ran} (hs : s.Canonical) (e : channelCells s c most = .error r) :
    r.Canonical := by
  unfold channelCells at e
  dsimp only at e
  split at e
  · cases e
  · split at e
    · cases e; trivial
    · split at e
      · cases e; exact hs
      · split at e
        · cases e; trivial
        · cases e

theorem blockCombine_canonical {s : State} {c : Channel} {most : Nat} (hs : s.Canonical) : (blockCombine s c most).Canonical := by
  unfold blockCombine
  dsimp only
  split
  · exact hs
  · exact .ite (combineBytes_canonical hs) hs

theorem keepChannel_canonical {s : State} {ch : Nat} {l : List Nat} (hs : s.Canonical) : (keepChannel s ch l).Canonical :=
  hs

theorem channelOpen_canonical {s : State} {ch : Nat} {c : Channel} (hs : s.Canonical) : (channelOpen s ch c).Canonical := by
  have hb := blockCombine_canonical (c := c) (most := 64) hs
  unfold channelOpen
  dsimp only
  split
  next e => exact channelCells_canonical hb e
  · refine .ite (noteWaiting_canonical hb) ?_
    split
    · exact noteWaiting_canonical hb
    · exact keepChannel_canonical (noteWaiting_canonical (noteWaiting_canonical hb))
    next e => exact loadChannel_canonical (.ofOpened e (openOp_canonical (noteWaiting_canonical hb)))

theorem channelCrd_canonical {s : State} {ch v : Nat} {c : Channel} (hs : s.Canonical) : (channelCrd s ch v c).Canonical :=
  .ite hs <| by
    split
    · exact hs
    · exact hs
    next e => exact loadChannel_canonical (.ofReadCell e (crdOp_canonical hs))

theorem channelFence_canonical {s : State} {ch v : Nat} {c : Channel} (hs : s.Canonical) : (channelFence s ch v c).Canonical := by
  have hb := blockCombine_canonical (c := c) (most := 16) hs
  unfold channelFence
  dsimp only
  split
  next e => exact channelCells_canonical hb e
  · refine .ite hb ?_
    split
    · exact hb
    · exact keepChannel_canonical hb

theorem sheetCommand_canonical {s : State} {ch : Nat} {c : Channel} (hs : s.Canonical) : (sheetCommand s ch c).Canonical := by
  unfold sheetCommand
  dsimp only
  split
  · exact channelBind_canonical hs (fun _ _ _ _ _ _ hz => bindOp_canonical hz)
  · exact channelBind_canonical hs (fun _ _ _ _ _ _ hz => editOp_canonical hz)
  · exact .done (.iteSnd hs (unbindOp_canonical hs))
  · exact channelOpen_canonical hs
  · exact .ite hs (.done (.iteSndSnd hs (publishOp_canonical hs)))
  · exact .ite hs (.done (.iteSndSnd hs (publishOp_canonical hs)))
  · exact .ite trivial (appendPacked_canonical hs)
  · exact .done (.iteSndSndSnd hs (vopenOp_canonical hs))
  · exact vcloseOp_canonical hs
  · exact channelCrd_canonical hs
  · exact channelFence_canonical hs
  · exact hs
  · exact .done (.iteSndSnd hs (.iteSndSnd hs (revokeOp_canonical hs)))
  · exact trivial

/-! ### Suffix commands (R325 to R331, R423) -/

theorem queueUp_canonical {s : State} {ch i : Nat} {c : Channel} (hs : s.Canonical) : (queueUp s ch i c).Canonical :=
  keepChannel_canonical hs

theorem slotTurn_canonical {s : State} {ch i : Nat} {c : Channel} {b : Bool} {go : Ran} (hs : s.Canonical) (hgo : go.Canonical) :
    (slotTurn s ch i c b go).Canonical := .ite (queueUp_canonical hs) hgo

theorem channelAppend_canonical {s : State} {ch : Nat} {c : Channel} (hs : s.Canonical) : (channelAppend s ch c).Canonical :=
  .ite hs (.ite trivial (.ite hs (slotTurn_canonical hs (sxAppend_canonical (combineBytes_canonical hs)))))

theorem channelQuery_canonical {s : State} {ch : Nat} {c : Channel} (hs : s.Canonical) : (channelQuery s ch c).Canonical :=
  .ite hs <|
  slotTurn_canonical hs <| by
    split
    · exact hs
    · exact .ite trivial (.ite hs (slotTurn_canonical hs (sxQuery_canonical (physCombine_canonical hs))))

theorem channelSave_canonical {s : State} {ch : Nat} {c : Channel} (hs : s.Canonical) : (channelSave s ch c).Canonical :=
  .ite hs <|
  .ite (queueUp_canonical (noteSave_canonical hs)) <| by
    dsimp only
    split
    · exact hs
    · exact .ite hs (.ite trivial (.ite hs (saveArea_canonical hs)))

theorem channelLoad_canonical {s : State} {ch b : Nat} (hs : s.Canonical) : (channelLoad s ch b).Canonical := by
  unfold channelLoad
  refine .ite trivial (.ite hs ?_)
  extract_lets s1 w s2 r
  have h1 : s1.Canonical := combineBytes_canonical hs
  have hr : r.2.Canonical := sxLoad_canonical (combineBytes_canonical h1)
  clear_value r s2 w
  exact .ite h1 (.ite trivial (.done hr))

theorem suffixCommand_canonical {s : State} {ch : Nat} {c : Channel} (hs : s.Canonical) : (suffixCommand s ch c).Canonical := by
  unfold suffixCommand
  dsimp only
  split
  · exact sxOpen_canonical hs
  · exact channelAppend_canonical hs
  · exact channelQuery_canonical hs
  · exact channelSave_canonical hs
  · exact channelLoad_canonical hs
  · exact .ite hs (slotTurn_canonical hs (sxFree_canonical hs))
  · exact .ite hs (slotTurn_canonical hs (.done (.ite (physCombine_canonical hs) hs)))
  · exact trivial

theorem noSuch_canonical {s : State} (hs : s.Canonical) : (noSuch s).Canonical := hs

theorem okay_canonical {s : State} (hs : s.Canonical) : (okay s).Canonical := hs

/-! ### Sheets (R424) -/

theorem sheetNew_canonical {s : State} {_ch : Nat} {c : Channel} (hs : s.Canonical) : (sheetNew s _ch c).Canonical :=
  .ite hs (.ite hs hs)

theorem sheetDel_canonical {s : State} {_ch : Nat} {c : Channel} (hs : s.Canonical) : (sheetDel s _ch c).Canonical :=
  .ite (.ite hs hs) (.ite (deleteOp_canonical hs) (deleteOp_canonical hs))

/-! ### Teams (R85, R362, R382, R424) -/

theorem launchCombine_canonical {s : State} {root a : Nat} (hs : s.Canonical) : (launchCombine s root a).Canonical :=
  spaceCombine_canonical (combineBytes_canonical hs)

theorem launchTask_canonical {s : State} {_ch : Nat} {c : Channel} (hs : s.Canonical) : (launchTask s _ch c).Canonical :=
  .ite trivial <| by
    dsimp only
    split
    · exact launchCombine_canonical hs
    · exact addTask_canonical (.update (launchCombine_canonical hs))

theorem teamEnd_canonical {s : State} {_ch : Nat} {c : Channel} (hs : s.Canonical) : (teamEnd s _ch c).Canonical := by
  unfold teamEnd
  dsimp only
  split
  · exact noSuch_canonical (.ite hs (endTeam_canonical hs))
  · exact .ite (.wait (.ite hs (endTeam_canonical hs))) (okay_canonical (.ite hs (endTeam_canonical hs)))

theorem teamStat_canonical {s : State} {_ch : Nat} {c : Channel} (hs : s.Canonical) : (teamStat s _ch c).Canonical := by
  unfold teamStat
  split
  · exact noSuch_canonical hs
  · exact hs

theorem teamStatSet_canonical {s : State} {_ch : Nat} {c : Channel} (hs : s.Canonical) : (teamStatSet s _ch c).Canonical := by
  unfold teamStatSet
  split
  · exact noSuch_canonical hs
  · exact modTeamAt_canonical hs

/-! ### Translation (R352, R355) -/

theorem shootDown_canonical {s : State} {_ch : Nat} {c : Channel} (hs : s.Canonical) : (shootDown s _ch c).Canonical :=
  .ite (okay_canonical (.ite hs hs)) (.wait (.ite hs hs))

theorem refuseFault_canonical {s : State} {k : Nat} (hs : s.Canonical) : (refuseFault s k).Canonical := by
  unfold refuseFault
  split
  · exact hs
  · split
    · exact modCoreAt_canonical (takeTrap_canonical hs)
    · exact takeTrap_canonical hs

theorem faultEnd_canonical {s : State} {_ch : Nat} {c : Channel} (hs : s.Canonical) : (faultEnd s _ch c).Canonical := by
  unfold faultEnd
  dsimp only
  split
  · exact noSuch_canonical hs
  · exact .ite (noSuch_canonical hs) <|
      okay_canonical (.ite (.foldl (.foldl hs (fun _ _ hz => hz)) (fun _ _ hz => hz)) <|
        .foldl (.foldl hs (fun _ _ hz => refuseFault_canonical hz)) (fun _ _ hz => endJob_canonical hz))

/-! ### Queues and registers of a die (R354, R377, R410, R426) -/

theorem queuePlace_canonical {s : State} {_ch : Nat} {c : Channel} (hs : s.Canonical) : (queuePlace s _ch c).Canonical :=
  .ite (noSuch_canonical hs) (okay_canonical (ringRelease_canonical (setRing_canonical hs)))

theorem dieRead_canonical {s : State} {_ch : Nat} {c : Channel} (hs : s.Canonical) : (dieRead s _ch c).Canonical := by
  unfold dieRead
  split
  · exact hs
  · exact noSuch_canonical hs

theorem dieWrite_canonical {s : State} {_ch : Nat} {c : Channel} (hs : s.Canonical) : (dieWrite s _ch c).Canonical :=
  .ite hs <| by
    split
    · exact hs
    · exact noSuch_canonical hs

theorem sliceSet_canonical {s : State} {_ch : Nat} {c : Channel} (hs : s.Canonical) : (sliceSet s _ch c).Canonical :=
  .ite (noSuch_canonical hs) (okay_canonical hs)

/-! ### The suffix engine (R385, R391, R394) -/

theorem indexPlace_canonical {s : State} {_ch : Nat} {c : Channel} (hs : s.Canonical) : (indexPlace s _ch c).Canonical :=
  .ite (noSuch_canonical hs) (okay_canonical hs)

theorem mailboxPlace_canonical {s : State} {_ch : Nat} {c : Channel} (hs : s.Canonical) : (mailboxPlace s _ch c).Canonical :=
  .ite (noSuch_canonical hs) (okay_canonical hs)

theorem suffixRing_canonical {s : State} {_ch : Nat} {c : Channel} (hs : s.Canonical) : (suffixRing s _ch c).Canonical :=
  .ite (noSuch_canonical hs) (okay_canonical hs)

/-! ### Power, doorbells and groups (R207, R299, R301, R431) -/

theorem powerSet_canonical {s : State} {_ch : Nat} {c : Channel} (hs : s.Canonical) : (powerSet s _ch c).Canonical :=
  .ite (noSuch_canonical hs) (okay_canonical (arbitrate_canonical hs))

theorem ringDoorbell_canonical {s : State} {_ch : Nat} {c : Channel} (hs : s.Canonical) : (ringDoorbell s _ch c).Canonical := by
  unfold ringDoorbell
  split
  · exact noSuch_canonical hs
  · exact okay_canonical hs

theorem groupAssign_canonical {s : State} {_ch : Nat} {c : Channel} (hs : s.Canonical) : (groupAssign s _ch c).Canonical :=
  .ite (noSuch_canonical hs) (okay_canonical hs)

/-! ### BOOT (R428) -/

theorem bootDie_canonical {s : State} {d : Nat} {entry desc : Word} (hs : s.Canonical) : (bootDie s d entry desc).Canonical := by
  unfold bootDie
  exact .foldl (initCores_canonical (arbitrate_canonical (.foldl (.update (saveKept_canonical hs)) (fun _ _ hz => hz)))) fun _ _ hz => hz

theorem bootOp_canonical {s : State} {_ch : Nat} {c : Channel} (hs : s.Canonical) : (bootOp s _ch c).Canonical :=
  .ite (noSuch_canonical hs) (okay_canonical (bootDie_canonical hs))

/-! ### DEBUG (R430) -/

theorem writeDebug_canonical {s : State} {ch k a : Nat} (hs : s.Canonical) : (writeDebug s ch k a).Canonical :=
  channelWrite_canonical (.foldl hs (fun _ _ hz => channelWrite_canonical hz))

theorem stopCore_canonical {s : State} {k : Nat} (hs : s.Canonical) : (stopCore s k).Canonical :=
  modCoreAt_canonical (.ite (leaveFault_canonical (.ite hs hs)) (.ite hs hs))

theorem debugHalt_canonical {s : State} {ch : Nat} {c : Channel} (hs : s.Canonical) : (debugHalt s ch c).Canonical := by
  unfold debugHalt
  split
  · exact noSuch_canonical hs
  · exact .ite (noSuch_canonical hs) <|
      .ite hs (.ite (okay_canonical (writeDebug_canonical (stopCore_canonical hs))) (stopCore_canonical hs))

theorem debugGo_canonical {s : State} {_ch : Nat} {c : Channel} (hs : s.Canonical) : (debugGo s _ch c).Canonical := by
  unfold debugGo
  split
  · exact noSuch_canonical hs
  · exact .ite (okay_canonical hs) (noSuch_canonical hs)

theorem debugOne_canonical {s : State} {_ch : Nat} {c : Channel} (hs : s.Canonical) : (debugOne s _ch c).Canonical := by
  unfold debugOne
  split
  · exact noSuch_canonical hs
  · exact .ite (.ite hs (okay_canonical hs)) (.ite hs (noSuch_canonical hs))

/-! ### Retention and peers (R240, R418) -/

theorem windowRetain_canonical {s : State} {_ch : Nat} {c : Channel} (hs : s.Canonical) : (windowRetain s _ch c).Canonical :=
  retainOp_canonical hs

theorem windowUnretain_canonical {s : State} {_ch : Nat} {c : Channel} (hs : s.Canonical) : (windowUnretain s _ch c).Canonical :=
  okay_canonical hs

theorem peerSet_canonical {s : State} {_ch : Nat} {c : Channel} (hs : s.Canonical) : (peerSet s _ch c).Canonical :=
  okay_canonical hs

/-! ### GO (R422, R423) -/

theorem supervisorCommand_canonical {s : State} {ch : Nat} {c : Channel} (hs : s.Canonical) : (supervisorCommand s ch c).Canonical := by
  unfold supervisorCommand
  split
  · exact sheetNew_canonical hs
  · exact sheetDel_canonical hs
  · exact launchTask_canonical hs
  · exact teamEnd_canonical hs
  · exact .ite (teamStatSet_canonical hs) (teamStat_canonical hs)
  · exact shootDown_canonical hs
  · exact faultEnd_canonical hs
  · exact queuePlace_canonical hs
  · exact .ite (dieWrite_canonical hs) (dieRead_canonical hs)
  · exact sliceSet_canonical hs
  · exact .ite (indexPlace_canonical hs) (.ite (mailboxPlace_canonical hs) (.ite (suffixRing_canonical hs) (noSuch_canonical hs)))
  · exact powerSet_canonical hs
  · exact ringDoorbell_canonical hs
  · exact groupAssign_canonical hs
  · exact bootOp_canonical hs
  · exact .ite (debugHalt_canonical hs) (.ite (debugGo_canonical hs) (.ite (debugOne_canonical hs) (noSuch_canonical hs)))
  · exact windowRetain_canonical hs
  · exact windowUnretain_canonical hs
  · exact peerSet_canonical hs
  · exact trivial

theorem anyCommand_canonical {s : State} {ch : Nat} {c : Channel} (hs : s.Canonical) : (anyCommand s ch c).Canonical := by
  unfold anyCommand
  split
  · exact sheetCommand_canonical hs
  · exact suffixCommand_canonical hs
  · exact supervisorCommand_canonical hs
  · exact trivial

theorem goChannel_canonical {s : State} {ch : Nat} (hs : s.Canonical) : (goChannel s ch).Canonical :=
  .ite hs (command_canonical hs (fun _ _ _ hz => anyCommand_canonical hz))

theorem continueChannel_canonical {s : State} {ch : Nat} (hs : s.Canonical) : CanonicalIf (continueChannel s ch) :=
  .ite .none <| by
    split
    · exact .none
    · exact .some (command_canonical hs (fun _ _ _ hz => anyCommand_canonical hz))

/-! ### Registers of rings and queues (R102, R103, R422) -/

theorem configWrite_canonical {s : State} {off v : Nat} (hs : s.Canonical) : CanonicalIf (configWrite s off v) := by
  unfold configWrite
  split
  · exact .some (.ite (raiseRing_canonical (ringRelease_canonical (setRing_canonical hs))) <|
        ringRelease_canonical (setRing_canonical hs))
  · exact .none

theorem consumerWrite_canonical {s : State} {off v : Nat} (hs : s.Canonical) : CanonicalIf (consumerWrite s off v) := by
  unfold consumerWrite
  split
  · exact .some (ringRelease_canonical (setRing_canonical hs))
  · exact .none

/-! ### Registers of channels (R422) -/

theorem channelSet_canonical {s : State} {ch r v : Nat} (hs : s.Canonical) : (channelSet s ch r v).Canonical :=
  .ite (.ite (goChannel_canonical hs) hs) (.ite hs hs)

theorem windowWrite_canonical {s : State} {off v : Nat} (hs : s.Canonical) : (windowWrite s off v).Canonical :=
  .ite hs <|
  .ite (channelSet_canonical hs) <| by
    split
    · exact setRing_canonical hs
    · exact hs

/-! ### The host port (R111, R420) -/

theorem hostAccess_canonical {s : State} {write : Bool} {a n v : Nat} (hs : s.Canonical) : (hostAccess s write a n v).Canonical :=
  .ite hs (.ite (arriveWrite_canonical hs) (combineBytes_canonical hs))

/-! ### Boot (R427) -/

theorem powerOn_canonical {s : State} (hs : s.Canonical) : CanonicalIf (powerOn s) := .ite (.some hs) .none

theorem loadSection_canonical {img : List Byte} {s : State} {x : Nat × Nat × Nat × Nat} (hs : s.Canonical) :
    (loadSection img s x).Canonical :=
  .foldl hs (fun _ _ hz => arriveHome_canonical hz (fun _ hz => .foldl hz (fun _ _ hz => setMemByte_canonical hz)))

theorem releaseImage_canonical {s : State} {img : List Byte} (hs : s.Canonical) : (releaseImage s img).Canonical :=
  .update (.foldl hs (fun _ _ hz => loadSection_canonical hz))

theorem imageArrived_canonical {s : State} {discards : Nat} {img : List Byte} (hs : s.Canonical) :
    (imageArrived s discards img).Canonical := .ite (releaseImage_canonical hs) hs

theorem bootFrame_canonical {s : State} {frame : Nat} (hs : s.Canonical) : (bootFrame s frame).Canonical :=
  .ite hs <| by
    split
    · exact hs
    · exact hs
    · exact hs
    · exact hs
    · exact imageArrived_canonical hs
    · exact hs

/-! ### Temperature (R431) -/

theorem pollThermal_canonical {s : State} {temp : Nat} (hs : s.Canonical) : (pollThermal s temp).Canonical :=
  .ite hs (arbitrate_canonical hs)

theorem setTmax_canonical {s : State} {degrees : Nat} (hs : s.Canonical) : (setTmax s degrees).Canonical := .ite hs hs

end Sys2Proof.Machine
end

section
/-!
PROOFS. Memory stays canonical, last part: the engines' moves, every instruction, and every turn of the agenda.
-/

namespace Sys2Proof.Machine

theorem changed_canonical {s s' : State} (hs : s'.Canonical) : CanonicalIf (changed s s') := .ite .none (.some hs)

theorem coreMoves_canonical {s : State} {k : Nat} (hs : s.Canonical) : CanonicalIf (coreMoves s k) :=
  .orElse (moveCommitted_canonical hs) <|
  .orElse (performHead_canonical hs) <|
  .orElse (.ite (arriveHead_canonical hs) .none) <|
  .orElse (.findSome (fun _ => loadHome_canonical hs)) <|
  .orElse (startWeight_canonical hs) <|
  .orElse (finishWeight_canonical hs) <|
  .orElse (.ite (takeTile_canonical hs) .none) <|
  .orElse (.findSome (fun _ => .orElse (changed_canonical (walkOne_canonical hs)) (endWalk_canonical hs))) <|
  .orElse (.findSome fun _ => .orElse (dispatchJob_canonical hs) <|
    .orElse (completeJob_canonical hs) (.ite (changed_canonical (copyByte_canonical hs)) .none)) <|
  .orElse (acceptSpub_canonical hs) (.orElse (serveRange_canonical hs) (arriveGroup_canonical hs))

theorem herdMoves_canonical {s : State} {h : Nat} (hs : s.Canonical) : CanonicalIf (herdMoves s h) :=
  .orElse (startMatrix_canonical hs) <|
  .orElse (.findSome (fun _ => finishMatrix_canonical hs)) <|
  .orElse (arriveForward_canonical hs) <| by
    split
    · exact .none
    · exact .some <| by
          split
          · exact requestBack_canonical hs
          · exact grantBack_canonical hs
          · exact cancelBack_canonical hs
          · exact dataBack_canonical hs

theorem sheetMoves_canonical {s : State} {n : Nat} {sh : Sheet} (hs : s.Canonical) : CanonicalIf (sheetMoves s n sh) :=
  .orElse (markStep_canonical hs) <|
  .orElse (.findSome (fun _ => copyEntry_canonical hs)) <|
  .orElse (.findSome (fun _ => markFresh_canonical hs)) (nextDispatch_canonical hs)

theorem placeMove_canonical {s : State} {p : Nat × Team} (hs : s.Canonical) : CanonicalIf (placeMove s p) :=
  .ite (resumeTeam_canonical hs) <| by
    split
    · exact .none
    · split
      · exact .none
      · exact .ite (.some (takePlacement_canonical hs)) .none

theorem teamMoves_canonical {s : State} {tn : Nat} {t : Team} (hs : s.Canonical) : CanonicalIf (teamMoves s tn t) :=
  .orElse (startTeam_canonical hs) <|
  .orElse (by
      split
      · exact startHerd_canonical hs
      · exact .none) <|
  .orElse (.ite (expireSlice_canonical hs) .none) <|
  .orElse (.findSome (fun _ => .findSome (fun _ => .ite (.bind (fun _ => preemptTeam_canonical hs)) .none))) <|
  .orElse (returnHerds_canonical hs) <|
  .orElse (finishTeam_canonical hs) (.orElse (completeTask_canonical hs) (completeKid_canonical hs))

theorem progress_canonical {s : State} (hs : s.Canonical) : CanonicalIf (progress s) :=
  .orElse (.findSome (fun _ => coreMoves_canonical hs)) <|
  .orElse (.findSome (fun _ => herdMoves_canonical hs)) <|
  .orElse (.findSome (fun _ => performHome_canonical hs)) <|
  .orElse (arriveMsg_canonical hs) <|
  .orElse (.findSome (fun _ => deliverItem_canonical hs)) <|
  .orElse (performPublish_canonical hs) <|
  .orElse (.findSome (fun _ => sheetMoves_canonical hs)) <|
  .orElse (.findSome (fun _ => rebuildDone_canonical hs)) <|
  .orElse (.findSome fun _ => by
      split
      · exact startContainment_canonical hs
      · exact .none) <|
  .orElse (.findSome (fun _ => .ite (.some hs) .none)) <|
  .orElse (.findSome (fun _ => teamMoves_canonical hs)) <|
  .orElse (.findSome (fun _ => placeMove_canonical hs)) <|
  .orElse (.findSome (fun _ => .orElse (continueChannel_canonical hs) (commandEnds_canonical hs))) <|
  .ite .none (changed_canonical (arbitrate_canonical hs))

theorem bandMoves_canonical {s : State} {tn : Nat} {t v : Team} (hs : s.Canonical) : CanonicalIf (bandMoves s tn t v) :=
  .findSome (fun _ => .bind (fun _ => .findSome (fun _ => .ite (preemptTeam_canonical hs) .none)))

theorem rotate_canonical {s : State} (hs : s.Canonical) : CanonicalIf (rotate s) :=
  .orElse (.findSome (fun _ => .findSome (fun _ => raiseHerd_canonical hs))) <|
  .orElse (.findSome (fun _ => .ite (.findSome (fun _ => bandMoves_canonical hs)) .none)) <|
  .findSome (fun _ => expireSlice_canonical hs)

/-- Every instruction and every event keeps memory canonical. -/
theorem exec_canonical {i : Instr} {s : State} (hs : s.Canonical) : Out.Canonical (exec i s) := by
  cases i with
  | add | sub | mul | mulh | mulhu | div | divu | rem | remu | and | or | xor | shl | shr | sha | rot | min | max | minu | maxu | slt |
    sltu | seq | addw | subw | addx => exact runInstr_canonical hs alu2_keeps
  | cmov => exact execCmov_canonical hs
  | madd => exact runInstr_canonical hs alu3_keeps
  | clz | ctz | popc | bswap | sext | zext | addi | andi | ori | xori | shli | shri | shai | roti | bfx | addi16 | shli16 | shri16 |
    shai16 => exact runInstr_canonical hs alu1_keeps
  | fadd | fsub | fmul | fdiv => exact runInstr_canonical hs flt2_keeps
  | ffma => exact execFfma_canonical hs
  | fsqrt => exact runInstr_canonical hs (modeOf_keeps.bind fun _ => fltA_keeps.bind fun _ => fltResult_keeps)
  | fmin | fmax | fcmp | fsgnj | fsgnjn | fsgnjx => exact runInstr_canonical hs fltBits_keeps
  | fcvt => exact execFcvt_canonical hs
  | fclass => exact runInstr_canonical hs (fltA_keeps.bind fun _ => writeReg_keeps.bind fun _ => retire_keeps)
  | bfi => exact execBfi_canonical hs
  | li | lih | li16 => exact runInstr_canonical hs aluConst_keeps
  | lix => exact execLix_canonical hs
  | csrr => exact execCsrr_canonical hs
  | csrw | csrs | csrc => exact runTerm_canonical hs csrWrite_keeps
  | beq | bne | blt | bge | bltu | bgeu => exact runInstr_canonical hs branch_keeps
  | jal => exact execJal_canonical hs
  | jalr | jalr16 => exact runInstr_canonical hs jumpReg_keeps
  | nop | nop16 => exact runInstr_canonical hs retire_keeps
  | trap => exact execTrap_canonical hs
  | brk => exact runTerm_canonical hs (.bind .getC fun _ => .trap)
  | eret => exact execEret_canonical hs
  | sleep => exact execSleep_canonical hs
  | fenceI => exact execFenceI_canonical hs
  | qcfg => exact execQcfg_canonical hs
  | cxsave => exact execCxsave_canonical hs
  | cxload => exact execCxload_canonical hs
  | ldb | ldbu | ldh | ldhu | ldw | ldwu | ldd | ldq => exact runInstr_canonical hs load_keeps
  | stb | sth | stw | std => exact runInstr_canonical hs store_keeps
  | stq => exact execStq_canonical hs
  | ldx => exact execLdx_canonical hs
  | stx => exact execStx_canonical hs
  | amoadd | amoand | amoor | amoxor | amomin | amomax | amominu | amomaxu | amoswap | cas => exact amo_canonical hs
  | redadd | redmin | redmax | redfadd => exact runInstr_canonical hs reduce_keeps
  | take | peek => exact runTermOnce_canonical hs takeOrPeek_keeps
  | put => exact execPut_canonical hs
  | feinit => exact execFeinit_canonical hs
  | fence => exact runInstr_canonical hs (.get (fun _ _ => waitUntil_keeps.bind fun _ => retire_keeps))
  | pref => exact execPref_canonical hs
  | rflush => exact execRflush_canonical hs
  | rinv => exact execRinv_canonical hs
  | retain => exact execRetain_canonical hs
  | unretain => exact execUnretain_canonical hs
  | crdecl => exact execCrdecl_canonical hs
  | crclr => exact execCrclr_canonical hs
  | waita => exact execWaita_canonical hs
  | tld => exact execTld_canonical hs
  | tst => exact execTst_canonical hs
  | tlds => exact execTlds_canonical hs
  | tsts => exact execTsts_canonical hs
  | tdld => exact execTdld_canonical hs
  | tdst => exact execTdst_canonical hs
  | tfill => exact execTfill_canonical hs
  | textr => exact execTextr_canonical hs
  | tins => exact execTins_canonical hs
  | tmov | tnot | tperm | ttopk => exact runInstr_canonical hs rowwise_keeps
  | tzero | tbcast | ttrn | tgath | tscat | tnoise => exact runInstr_canonical hs tileUnit_keeps
  | tadd | tsub | tmul | tfma | tmin | tmax | tcmp | tsel | tshl | tshr => exact runInstr_canonical hs elem2_keeps
  | tabs | tneg => exact runInstr_canonical hs elem1_keeps
  | trcp | trsq | texp2 | tlog2 | ttanh => exact runInstr_canonical hs transc_keeps
  | tand | tor | txor => exact runInstr_canonical hs rowBits_keeps
  | tcvt => exact runInstr_canonical hs (modeOf_keeps.bind fun _ => tileUnit_keeps)
  | tqnt | tdq => exact runInstr_canonical hs (modeOf_keeps.bind fun _ => rowwise_keeps)
  | tred | tscan => exact runInstr_canonical hs (statusMode_keeps.bind fun _ => rowwise_keeps)
  | mma | mmaz => exact runInstr_canonical hs issueMatrix_keeps
  | wld => exact execWld_canonical hs
  | wldh => exact execWldh_canonical hs
  | wclr => exact execWclr_canonical hs
  | aprom => exact execAprom_canonical hs
  | aclr => exact execAclr_canonical hs
  | amov => exact execAmov_canonical hs
  | aadd => exact execAadd_canonical hs
  | ald => exact execAld_canonical hs
  | ast => exact execAst_canonical hs
  | acvt => exact execAcvt_canonical hs
  | aepi => exact execAepi_canonical hs
  | mstat => exact execMstat_canonical hs
  | copy => exact execCopy_canonical hs
  | copys => exact execCopys_canonical hs
  | jwait => exact execJwait_canonical hs
  | jpoll => exact execJpoll_canonical hs
  | subscr => exact execSubscr_canonical hs
  | unsub => exact execUnsub_canonical hs
  | spub => exact execSpub_canonical hs
  | hcfg => exact execHcfg_canonical hs
  | hwait => exact execHwait_canonical hs
  | hadvc | hadvp => exact runInstr_canonical hs advance_keeps
  | binit | barv | bexp => exact barrierOp_canonical hs readTwo_keeps
  | bwait => exact execBwait_canonical hs
  | binv => exact barrierOp_canonical hs (readReg_keeps.bind fun _ => .pure)
  | wbara => exact execWbara_canonical hs
  | wbarw => exact execWbarw_canonical hs
  | wbmask => exact execWbmask_canonical hs
  | rnginit => exact execRnginit_canonical hs
  | rngget => exact execRngget_canonical hs
  | spawn => exact .ite (runInstr_canonical hs spawnAct_keeps) (runTermOnce_canonical hs spawnAct_keeps)
  | join => exact execJoin_canonical hs
  | evpost => exact .ite (runInstr_canonical hs evpostAct_keeps) (runTermOnce_canonical hs evpostAct_keeps)
  | treeld => exact execTreeld_canonical hs
  | cbind => exact runTermOnce_canonical hs (bindInstr_keeps fun _ _ _ _ _ _ hz => bindOp_canonical hz)
  | cedit => exact runTermOnce_canonical hs (bindInstr_keeps fun _ _ _ _ _ _ hz => editOp_canonical hz)
  | cunbind => exact execCunbind_canonical hs
  | cwopen => exact execCwopen_canonical hs
  | cwpub => exact execCwpub_canonical hs
  | cappend => exact execCappend_canonical hs
  | vopen => exact execVopen_canonical hs
  | vclose => exact execVclose_canonical hs
  | crd => exact execCrd_canonical hs
  | cfence => exact execCfence_canonical hs
  | cstat => exact execCstat_canonical hs
  | crevoke => exact execCrevoke_canonical hs
  | sxopen => exact execSxopen_canonical hs
  | sxapp => exact execSxapp_canonical hs
  | sxqry => exact execSxqry_canonical hs
  | sxsave => exact execSxsave_canonical hs
  | sxload => exact execSxload_canonical hs
  | sxfree => exact execSxfree_canonical hs
  | sxstat => exact execSxstat_canonical hs
  | rbegin => exact execRbegin_canonical hs
  | rend => exact commitThen_canonical hs (fun _ hz => runInstr_canonical hz retire_keeps)
  | rabort => exact execRabort_canonical hs
  | clkreq => exact execClkreq_canonical hs
  | exti => exact runInstr_canonical hs (.bind .modC fun _ => retire_keeps)
  | exts => exact runInstr_canonical hs (noPoison_keeps.bind fun _ => .bind .modC fun _ => retire_keeps)
  | add16 | sub16 | and16 | or16 | xor16 | shl16 | shr16 | sha16 => exact runInstr_canonical hs alu16_keeps
  | ldw16 | ldd16 => exact runInstr_canonical hs load16_keeps
  | stw16 | std16 => exact runInstr_canonical hs store16_keeps
  | beqz | bnez => exact runInstr_canonical hs branch16_keeps
  | takeInterrupt => exact .next (.ite (takeInterruptAt_canonical hs) hs)
  | deferredTrap => exact .next (.ite (takeDeferred_canonical hs) hs)
  | timerExpire | macroScrub | thermalShutdown => exact .next (.ite hs hs)
  | waitaTimeout => exact execWaitaTimeout_canonical hs
  | commitQueuePerform => exact happen_canonical hs (performHead_canonical hs)
  | regionMoveCommitted => exact happen_canonical hs (moveCommitted_canonical hs)
  | homeArrive => exact happen_canonical hs (.ite (arriveForward_canonical hs) (.ite (arriveHead_canonical hs) .none))
  | homePerformWrite => exact happen_canonical hs (performHome_canonical hs)
  | homeLoad => exact happen_canonical hs (loadHome_canonical hs)
  | leaseExpire => exact expireLease_canonical hs
  | remoteAccessArrive | bankTake | bankPeek | bankPut | bankInit | bankBinit | bankBarv | bankBexp | bankBwait | bankBinv | barCompletion =>
    exact arriveRow_canonical hs
  | writebackRequest => exact requestBack_canonical hs
  | writebackGrant => exact grantBack_canonical hs
  | writebackCancel => exact cancelBack_canonical hs
  | writebackData => exact dataBack_canonical hs
  | partialSpill => exact spillLine_canonical hs
  | copyJobDispatch => exact happen_canonical hs (dispatchJob_canonical hs)
  | copyJobComplete => exact happen_canonical hs (completeJob_canonical hs)
  | streamAccept => exact happen_canonical hs (acceptSpub_canonical hs)
  | streamDeliver => exact happen_canonical hs (deliverItem_canonical hs)
  | matrixJobStart => exact happen_canonical hs (startMatrix_canonical hs)
  | matrixJobComplete => exact happen_canonical hs (finishMatrix_canonical hs)
  | weightJobStart => exact happen_canonical hs (startWeight_canonical hs)
  | weightJobComplete => exact happen_canonical hs (finishWeight_canonical hs)
  | tileUnitDispatch => exact happen_canonical hs (takeTile_canonical hs)
  | walkerCommandDone => exact happen_canonical hs (endWalk_canonical hs)
  | sheetPublish => exact happen_canonical hs (performPublish_canonical hs)
  | staleMark => exact happen_canonical hs (markStep_canonical hs)
  | cellDispatch => exact happen_canonical hs (dispatchCell_canonical hs)
  | taskComplete => exact happen_canonical hs (completeTask_canonical hs)
  | cellMarkFresh => exact happen_canonical hs (.findSome (fun _ => markFresh_canonical hs))
  | appendPrefixCopy => exact happen_canonical hs (.findSome (fun _ => copyEntry_canonical hs))
  | ringTickInterrupt => exact .next (.ite (raiseRing_canonical hs) hs)
  | teamPlace => exact happen_canonical hs (placeTeam_canonical hs)
  | teamStart => exact happen_canonical hs (startTeam_canonical hs)
  | herdStart => exact happen_canonical hs (startHerd_canonical hs)
  | taskAge => exact modTeamAt_canonical hs
  | spatialPreempt => exact happen_canonical hs (preemptTeam_canonical hs)
  | herdsReturn => exact happen_canonical hs (returnHerds_canonical hs)
  | sliceExpire => exact happen_canonical hs (expireSlice_canonical hs)
  | teamResume => exact happen_canonical hs (resumeTeam_canonical hs)
  | teamFinish => exact happen_canonical hs (finishTeam_canonical hs)
  | rangeRequest => exact happen_canonical hs (serveRange_canonical hs)
  | kidComplete => exact happen_canonical hs (completeKid_canonical hs)
  | wbarArrive => exact happen_canonical hs (arriveGroup_canonical hs)
  | arbiterEvaluate => exact arbitrate_canonical hs
  | grantRaiseHerd => exact happen_canonical hs (raiseHerd_canonical hs)
  | suffixRebuildDone => exact happen_canonical hs (rebuildDone_canonical hs)
  | uncorrectableError => exact errorAt_canonical hs
  | patrolScrub => exact .next (.ite hs (.ite (scrubError_canonical hs) hs))
  | containmentStart => exact happen_canonical hs (startContainment_canonical hs)
  | containmentFenceLift | linkFlitError | spdmRequest => exact hs
  | routerFailure => exact .next (.ite (failRouter_canonical hs) hs)
  | transactionCrcFail => exact failWrite_canonical hs
  | readResponseCrcFail => exact failResponse_canonical hs
  | remoteTimeout | targetAcknowledgement => exact happen_canonical hs (targetAnswer_canonical hs)
  | hostMemAccess => exact hostAccess_canonical hs
  | powerOn => exact happen_canonical hs (powerOn_canonical hs)
  | thermalPoll => exact pollThermal_canonical hs
  | sheetnew => exact command_canonical hs (fun _ _ _ hz => sheetNew_canonical hz)
  | sheetdel => exact command_canonical hs (fun _ _ _ hz => sheetDel_canonical hz)
  | launch => exact command_canonical hs (fun _ _ _ hz => launchTask_canonical hz)
  | teamend => exact command_canonical hs (fun _ _ _ hz => teamEnd_canonical hz)
  | teamstatRead => exact command_canonical hs (fun _ _ _ hz => teamStat_canonical hz)
  | teamstatWrite => exact command_canonical hs (fun _ _ _ hz => teamStatSet_canonical hz)
  | shoot => exact command_canonical hs (fun _ _ _ hz => shootDown_canonical hz)
  | faultend => exact command_canonical hs (fun _ _ _ hz => faultEnd_canonical hz)
  | qplace => exact command_canonical hs (fun _ _ _ hz => queuePlace_canonical hz)
  | dieregRead => exact command_canonical hs (fun _ _ _ hz => dieRead_canonical hz)
  | dieregWrite => exact command_canonical hs (fun _ _ _ hz => dieWrite_canonical hz)
  | qslice => exact command_canonical hs (fun _ _ _ hz => sliceSet_canonical hz)
  | suffixIndexPlace => exact command_canonical hs (fun _ _ _ hz => indexPlace_canonical hz)
  | suffixMailboxPlace => exact command_canonical hs (fun _ _ _ hz => mailboxPlace_canonical hz)
  | suffixRingAssign => exact command_canonical hs (fun _ _ _ hz => suffixRing_canonical hz)
  | power => exact command_canonical hs (fun _ _ _ hz => powerSet_canonical hz)
  | doorbell => exact command_canonical hs (fun _ _ _ hz => ringDoorbell_canonical hz)
  | wbgroup => exact command_canonical hs (fun _ _ _ hz => groupAssign_canonical hz)
  | boot => exact command_canonical hs (fun _ _ _ hz => bootOp_canonical hz)
  | debugStop => exact command_canonical hs (fun _ _ _ hz => debugHalt_canonical hz)
  | debugResume => exact command_canonical hs (fun _ _ _ hz => debugGo_canonical hz)
  | debugStep => exact command_canonical hs (fun _ _ _ hz => debugOne_canonical hz)
  | svRetain => exact command_canonical hs (fun _ _ _ hz => windowRetain_canonical hz)
  | svUnretain => exact command_canonical hs (fun _ _ _ hz => windowUnretain_canonical hz)
  | peerset => exact command_canonical hs (fun _ _ _ hz => peerSet_canonical hz)
  | channelSheetCommand => exact command_canonical hs (fun _ _ _ hz => sheetCommand_canonical hz)
  | channelSuffixCommand => exact command_canonical hs (fun _ _ _ hz => suffixCommand_canonical hz)
  | commandDone => exact happen_canonical hs (commandEnds_canonical hs)
  | ringConfigWrite => exact happen_canonical hs (configWrite_canonical hs)
  | queueConsumerWrite => exact happen_canonical hs (consumerWrite_canonical hs)
  | registerWrite => exact windowWrite_canonical hs
  | illegalInstruction | instructionFetchFault => exact .next (.ite (raiseTrap_canonical hs) hs)
  | networkBootFrame => exact bootFrame_canonical hs
  -- the one constructor left is `Instr.recall`, whose name is a keyword of Lean
  | _ => exact .next (.ite (recallHerd_canonical hs) hs)

theorem run16_canonical {h : Nat} {bad : Reject → Bool → Out} {s : State} (hs : s.Canonical) (hbad : ∀ r b, Out.Canonical (bad r b)) :
    Out.Canonical (run16 h bad s) := by
  rw [run16_eq]
  split
  · exact exec_canonical hs
  · exact hbad _ _

theorem stallAt_canonical {s : State} {k : Nat} (hs : s.Canonical) : (stallAt s k).Canonical := hs

theorem openPending_canonical {s : State} {k : Nat} (hs : s.Canonical) : (openPending s k).Canonical := by
  unfold openPending
  split
  · exact .ite hs hs
  · exact hs

theorem illegalFetched_canonical {s : State} {k : Nat} {long : Bool} {insn : Nat} {r : Reject} {sup : Bool} (hs : s.Canonical) :
    Out.Canonical (illegalFetched s k long insn r sup) := raiseTrap_canonical hs

theorem runHalf_canonical {s : State} {k h : Nat} (hs : s.Canonical) : Out.Canonical (runHalf s k h) :=
  .ite hs (run16_canonical hs fun _ _ => illegalFetched_canonical hs)

theorem runWord_canonical {ex : Instr → State → Out} {dec : Nat → Decoded} {s : State} {k w : Nat}
    (hex : ∀ i (s : State), s.Canonical → Out.Canonical (ex i s)) (hs : s.Canonical) : Out.Canonical (runWord ex dec s k w) :=
  .ite hs <| by
    split
    · exact hex _ _ hs
    · exact illegalFetched_canonical hs

theorem fetchFailed_canonical {s : State} {k : Nat} {f : Fetched} {a : Word} (hs : s.Canonical) : Out.Canonical (fetchFailed s k f a) := by
  unfold fetchFailed
  split
  · exact raiseTrap_canonical hs
  · exact stallAt_canonical (consumeAt_canonical hs)
  · exact hs
  · exact hs

theorem fetchIssue_canonical {ex : Instr → State → Out} {dec : Nat → Decoded} {s : State} {k : Nat}
    (hex : ∀ i (s : State), s.Canonical → Out.Canonical (ex i s)) (hs : s.Canonical) : Out.Canonical (fetchIssue ex dec s k) :=
  .ite (commitThen_canonical hs fun _ hz => hz) <|
  .ite (raiseTrap_canonical hs) <| by
    split
    next e =>
      have h1 := State.Canonical.sndOf e (fetchHalf_canonical hs)
      refine .ite (runHalf_canonical (openPending_canonical h1)) ?_
      split
      next e2 => exact runWord_canonical hex (openPending_canonical (.sndOf e2 (fetchHalf_canonical h1)))
      next e2 => exact fetchFailed_canonical (.sndOf e2 (fetchHalf_canonical h1))
    next e => exact fetchFailed_canonical (.sndOf e (fetchHalf_canonical hs))

theorem issueCore_canonical {ex : Instr → State → Out} {dec : Nat → Decoded} {s : State} {k : Nat}
    (hex : ∀ i (s : State), s.Canonical → Out.Canonical (ex i s)) (hs : s.Canonical) : Out.Canonical (issueCore ex dec s k) :=
  .ite (.next (.ite (takeDeferred_canonical hs) (.ite (takeInterruptAt_canonical hs) hs))) <|
  .ite hs (.ite (takeDeferred_canonical hs) (.ite (takeInterruptAt_canonical hs) (.ite hs (fetchIssue_canonical hex hs))))

theorem wakeAll_canonical {s : State} (hs : s.Canonical) : (wakeAll s).Canonical := hs

theorem tickDie_canonical {s : State} {d : Nat} (hs : s.Canonical) : (tickDie s d).Canonical := .ite hs hs

theorem stopAgain_canonical {s : State} {k : Nat} (hs : s.Canonical) : (stopAgain s k).Canonical :=
  modCoreAt_canonical (.ite hs hs)

theorem singleStep_canonical {ex : Instr → State → Out} {dec : Nat → Decoded} {s : State} {k : Nat}
    (hex : ∀ i (s : State), s.Canonical → Out.Canonical (ex i s)) (hs : s.Canonical) : Out.Canonical (singleStep ex dec s k) :=
  .ite (by
    dsimp only
    split
    next e =>
      have h := stopAgain_canonical (k := k) (State.Canonical.ofNext e (issueCore_canonical hex hs))
      exact wakeAll_canonical (.ite h h)
    · exact issueCore_canonical hex hs) hs

theorem remoteDebug_canonical {s : State} {core fn area : Nat} (hs : s.Canonical) : (remoteDebug s core fn area).Canonical := by
  unfold remoteDebug
  extract_lets _ c r
  have hr : r.Canonical := by
    dsimp only [r]
    split
    · exact debugHalt_canonical hs
    · exact debugGo_canonical hs
    · exact debugOne_canonical hs
    · exact hs
  clear_value r
  refine .ite hs ?_
  cases r with
  | done _ _ t => exact hr
  | bad _ => exact hs
  | wait t => exact .ite hr hr

theorem runTurn_canonical {ex : Instr → State → Out} {dec : Nat → Decoded} {t : Turn} {s : State}
    (hex : ∀ i (s : State), s.Canonical → Out.Canonical (ex i s)) (hs : s.Canonical) : Out.Canonical (runTurn ex dec t s) := by
  cases t with
  | issue k => exact issueCore_canonical hex hs
  | event i =>
    unfold runTurn
    dsimp only
    split
    next e => exact wakeAll_canonical (.ofNext e (hex i s hs))
    · exact hex i s hs
  | tick d => exact wakeAll_canonical (tickDie_canonical hs)
  | copyByte k slot i => exact wakeAll_canonical (copyByte_canonical hs)
  | evict h line => exact wakeAll_canonical (evictLine_canonical hs)
  | walkLine k i => exact wakeAll_canonical (walkOne_canonical hs)
  | single k => exact singleStep_canonical hex hs
  | pin team segments => exact wakeAll_canonical (pinTeam_canonical hs)
  | saveArea team i off v => exact wakeAll_canonical (writeSaved_canonical hs)
  | tmax n => exact setTmax_canonical hs
  | remoteDebug core fn area => exact wakeAll_canonical (remoteDebug_canonical hs)
  | repost n i now => exact wakeAll_canonical (repost_canonical hs)
  | engines =>
    unfold runTurn
    dsimp only
    split
    next e => exact wakeAll_canonical (.update (.ofSome e (progress_canonical hs)))
    · exact hs
  | pass => exact wakeAll_canonical (.getD (rotate_canonical hs) hs)
  | cycles | dropTlb | measure => exact hs

theorem stepWith_canonical {ex : Instr → State → Out} {dec : Nat → Decoded} {s : State}
    (hex : ∀ i (s : State), s.Canonical → Out.Canonical (ex i s)) (hs : s.Canonical) : Out.Canonical (stepWith ex dec s) := by
  unfold stepWith
  split
  · exact runTurn_canonical hex hs
  · exact .ite (issueCore_canonical hex hs) hs

/-- Settles O59: only `setMemByte` writes memory, and every function that a step reaches hands its states through one that keeps them
canonical. -/
theorem memoryStaysCanonical : Obligations.MemoryStaysCanonical := by
  unfold Obligations.MemoryStaysCanonical
  intro s t hs ht
  exact State.Canonical.ofNext ht (stepWith_canonical (fun _ _ hz => exec_canonical hz) hs)

end Sys2Proof.Machine
end
